-- ==== Sys2Proof/Word.lean ====
section
/-! DEFINITION. The words of the engine: 32-bit words, bytes, and the sparse tables the state is made of. -/

namespace Sys2Proof

/-- A 32-bit word: a register of the map (R578), a D register of a lane (R144). -/
abbrev Word := BitVec 32

/-- A byte of a memory, of a frame or of a dictionary value. -/
abbrev Byte := BitVec 8

/-- A sparse table: the first entry with a key holds its value, an absent key holds a default that the reader names. -/
abbrev Tab (α : Type) := List (Nat × α)

/-- A word from a number, modulo 2^32. -/
abbrev w32 (n : Nat) : Word := BitVec.ofNat 32 n

/-- A byte from a number, modulo 2^8. -/
abbrev b8 (n : Nat) : Byte := BitVec.ofNat 8 n

end Sys2Proof
end

