-- ==== Sys2Proof/Config.lean ====
section
/-! DEFINITION. The free values: what the spec leaves open and nothing in Lean can evaluate. -/

namespace Sys2Proof

/-- What a free value of 64 bits stands for. -/
inductive Config.Use where
  /-- TRNG output: nonces, challenges, session identifiers and keys (R370, R372, R386). -/
  | trng
  /-- Bytes that Hedgehog computes with keys the model does not hold: signatures and sealed replies (R371, R373). -/
  | sealed
  /-- A quantity of the analogue world or of elapsed time inside the engine that no command carries. -/
  | measured
  /-- A value the spec states no rule for. -/
  | unstated
  deriving DecidableEq, Repr

/-- The free value of 64 bits for a use, the model's counter (State.freeCtr) and an index.  No body: nothing constrains it. -/
opaque Config.free64 : Config.Use → Nat → Nat → BitVec 64

/-- A quotient whose rounding the spec does not state is rounded up (R190, R191). -/
opaque Config.roundUp : Int → Int → Bool

/-- The level of a detector value, whose rounding the spec does not state, is rounded up (R190). -/
opaque Config.logUp : Nat → Bool

/-- The square root of R190, whose rounding the spec does not state, is rounded up. -/
opaque Config.rootUp : Nat → Bool

/-- Where a value of lin_f lies within the 0.001 dB that R192 leaves it. -/
opaque Config.linPick : Int → Nat

/-- A sample of a channel that a received frame lacks though its context has it: context, sample number, channel. -/
opaque Config.lackingSample : Nat → Nat → Nat → BitVec 32

/-- The cycles that a cluster waits for the inputs of a step: cluster, step, tick (R137). -/
opaque Config.stepWait : Nat → Nat → Nat → Nat

/-- The progress of a spare's march pass at a tick boundary, per cent (R141): cluster, tick. -/
opaque Config.marchProgress : Nat → Nat → Nat

/-- Fields of a sent frame that the spec leaves to the engine: 0 IPv4 identification, 1 UDP source port, 2 IPv6 flow label; context, SEQ. -/
opaque Config.headerField : Nat → Nat → Nat → Nat

/-- The keystream of AES-256-GCM: key, nonce, byte (R379). -/
opaque Config.gcmPad : List Byte → List Byte → Nat → Byte

/-- The tag of AES-256-GCM: key, nonce, additional data, ciphertext (R379). -/
opaque Config.gcmTag : List Byte → List Byte → List Byte → List Byte → BitVec 128

/-- The words that the firmware puts into PARAM and into a DYNAMIC part of CMEM for a committed configuration (R116): digest of the image, lane (32 for
CMEM), address, and the values stored for the strips that the image carries.  The spec leaves the words to the strip program. -/
opaque Config.paramWord : Nat → Nat → Nat → List (Nat × Int) → BitVec 32

/-- Cycles that a unit spent in a tick (R210, R213, R240). -/
opaque Config.cycles : Nat → Nat → Nat

/-- A mean of corr: sum and number of the values (R300, R302), whose rounding the spec does not state. -/
opaque Config.meanQuot : Int → Nat → Int

/-- The number by which a history detail names a cause of R296 (1 LOS, 2 HARD, 3 SOFT, 4 DRIFT, 5 TIME_OFS; 8 more for a tie): the
spec gives no numbers. -/
opaque Config.causeCode : Nat → Nat

/-- The part is a ZJ4800-E, whose TJMAX is 105 °C; else a ZJ4800-C with 100 °C (R521). -/
opaque Config.gradeE : Bool

/-- What the spec leaves open of the test port (R608): the length of the instruction register, the instruction a code stands for (0 BYPASS, 1 IDCODE,
2 SAMPLE/PRELOAD, 3 EXTEST, 4 debug), the identification code, and what a capture of the balls or of a debug register holds. -/
opaque Config.jtagLength : Nat
opaque Config.jtagCode : List Bool → Nat
opaque Config.jtagId : BitVec 32
opaque Config.jtagCapture : Nat → List Bool

/-- The number that the configuration of an engine's Owl gives its pair (R338): the engine's own configuration does not hold it. -/
opaque Config.pairNumber : Nat

/-- The storage key, which derives from the PUF, and what unwrapping under another such key yields (R363). -/
opaque Config.storageKey : List Byte
opaque Config.unwrap : List Byte → List Byte

/-- The one-way latency of a peer-link group in ns, L_link of R411: fixed by the installation. -/
opaque Config.linkNs : Nat → Nat

end Sys2Proof
end

