-- ==== Sys2Proof/Syntax.lean ====
section
/-! DEFINITION. The commands the engine takes: one constructor of Instr per row of the opcode table, and their operands. -/

namespace Sys2Proof

/-- A value of one element of a dictionary member (R249, R254). -/
inductive Val where
  /-- Numbers, BOOL, ENUM, SIGID, GAIN: the integer the encoding stands for. -/
  | num (n : Int)
  /-- STRING and OCTETS: raw bytes. -/
  | bytes (b : List Byte)
  deriving DecidableEq, Repr

/-- Bus masters, codes of FAB.BERR_INFO.MASTER (R475). -/
inductive Master where
  | ctl0 | ctl1 | hostp | dma | mirr | hedgehog
  deriving DecidableEq, Repr

/-! ### Cluster instructions (chapter 05) -/

/-- Outcome of the residue check of an instruction (R128): passed; failed once and repeated; failed again. -/
inductive Residue where
  | ok
  | replay (lane : Nat)
  | failTwice (lane : Nat)
  deriving DecidableEq, Repr

/-- The cluster an instruction issues in, and what its residue checks found (R128). -/
structure CI where
  cl : Nat
  residue : Residue := .ok
  deriving DecidableEq, Repr

/-- The four addressing modes of FMT 5 (R149). -/
inductive EAMode where
  /-- (pn)+mk -/
  | postM (k : Nat)
  /-- (pn)+#w -/
  | postImm (w : Int)
  /-- (pn+#w) -/
  | offset (w : Int)
  /-- (pn)+ -/
  | postInc
  deriving DecidableEq, Repr

/-- An effective address of FMT 5 (R149): pointer and mode. -/
structure EA where
  pn : Nat
  mode : EAMode
  deriving DecidableEq, Repr

/-- One load of FMT 4 (R155): destination D, pointer, offset register. -/
structure DualLoad where
  d : Nat
  p : Nat
  m : Nat
  deriving DecidableEq, Repr

/-- The up to two loads of FMT 4 (R155). -/
structure DualLoads where
  l1 : Option DualLoad
  l2 : Option DualLoad
  deriving DecidableEq, Repr

/-- A consumer of Fox (R98): egress channel, input strip, output strip, direct channel. -/
inductive Consumer where
  | egress (ctx chan : Nat)
  | inStrip (s : Nat)
  | outStrip (s : Nat)
  | direct (c : Nat)
  deriving DecidableEq, Repr

/-- What a channel of an IN region carries (R115, R112): a signal, or the input of a strip that the image carries. -/
inductive InSrc where
  | signal (sig : Nat)
  | strip (c : Consumer)
  deriving DecidableEq, Repr

/-- One channel of a step's IN region (R115): the samples of a tick stand at `addr`, `addr` + 4 and so on in the bank of a lane. -/
structure InPort where
  src : InSrc
  lane : Nat
  addr : Nat
  deriving DecidableEq, Repr

/-- Where a channel of an OUT region goes (R115, R282): the output bank slot that the program instance names, or that of a strip. -/
inductive OutDst where
  | slot (k : Nat)
  | strip (c : Consumer)
  deriving DecidableEq, Repr

/-- One channel of a step's OUT region (R115). -/
structure OutPort where
  dst : OutDst
  lane : Nat
  addr : Nat
  deriving DecidableEq, Repr

/-- A step of a work set as its image declares it (R115, R116, R124): entry index, worst case in cycles, and the channels it takes and
gives. -/
structure StepDecl where
  entry : Nat
  worst : Nat
  inp : List InPort := []
  out : List OutPort := []
  deriving DecidableEq, Repr

/-- A signed image of a work set: what it declares (R115, R116, R124, R165, R166, R170) and what it brings: the program, CMEM, and for each lane
the contents of STATE and PARAM.  Regions are base and length in bytes; contents are addresses and bytes, CMEM counted from its base. -/
structure Image where
  digest : Nat := 0
  steps : List StepDecl := []
  ik : Bool := false
  state : List (Nat × Nat) := []
  param : List (Nat × Nat) := []
  inp : List (Nat × Nat) := []
  out : List (Nat × Nat) := []
  scratch : List (Nat × Nat) := []
  /-- The CMEM parts marked DYNAMIC, held twice (R115). -/
  cmemDyn : List (Nat × Nat) := []
  resD : Nat := 0
  resA : Nat := 0
  resP : Nat := 0
  handlerLo : Nat := 0
  handlerHi : Nat := 0
  handlerEntry : Nat := 0
  enabled : Nat := 0
  initMask : Bool := false
  /-- The handler's worst case in cycles, and the greatest number of entries in a tick (R170). -/
  handlerWorst : Nat := 0
  handlerEntries : Nat := 0
  /-- The program, 64-bit words from index 0 on (R146). -/
  code : List (BitVec 64) := []
  cmem : List (Nat × Byte) := []
  init : List (List (Nat × Byte)) := []
  deriving DecidableEq, Repr

/-- LEAVE names two things in the spec: the loop instruction (R162) and the leave command of the engine (R573). -/
inductive LeaveForm where
  | loop (cl : Nat)
  | service
  deriving DecidableEq, Repr

/-! ### Frames (chapters 02, 03, 12) -/

/-- Result of the frame check sequence of a received frame (R400 step 4). -/
inductive Fcs where
  | ok | inverted | bad
  deriving DecidableEq, Repr

/-- Traffic class of a received frame, from its content (R398). -/
inductive TClass where
  | media | control | bulk
  deriving DecidableEq, Repr

/-- An RTP packet (R71-R73): destination, header and payload bytes. -/
structure RtpPacket where
  dstIp : Nat
  dstPort : Nat
  ver : Nat
  pt : Nat
  ssrc : Nat
  ts : Nat
  seq : Nat
  payload : List Byte
  deriving DecidableEq, Repr

/-- A PTP message as the instance of R292 sees it. -/
inductive PtpMsg where
  /-- Announce; whether the best master clock algorithm makes the port the slave port on it. -/
  | announce (best : Bool) (domain : Nat)
  /-- Sync with its Follow_Up: the master's time at the message timestamp point, in ps. -/
  | sync (masterPs : Nat) (domain : Nat)
  | delayReq (domain : Nat) | delayResp (domain : Nat) | pdelayReq (domain : Nat)
  /-- A management message with the ST 2059-2 metadata TLV. -/
  | tlv (bytes : List Byte) (domain : Nat)
  /-- Any other management GET or SET. -/
  | management (domain : Nat)
  deriving DecidableEq, Repr

/-- What a received frame holds, as far as it steers the engine (R400). -/
inductive RxBody where
  /-- A frame that may be Kapo (R53, R60 step 1): the bytes of its encapsulation from the destination MAC address on, the bytes behind it, and
  whether the AUTH tag verifies. -/
  | kapo (enc bytes : List Byte) (authOk : Bool)
  /-- An IP fragment: the UDP destination port of one with offset 0 (R53). -/
  | fragment (udp : Option Nat)
  | rtp (p : RtpPacket)
  | ptp (m : PtpMsg)
  /-- A PFC frame: priority code points with their quanta (R403). -/
  | pfc (quanta : List (Nat × Nat))
  /-- An 802.3x PAUSE frame (R403). -/
  | pause
  /-- A dictionary or handshake datagram: counted here, executed by its own row. -/
  | datagram
  /-- A datagram with an Owl message (R337): its UDP destination port, the plaintext of its envelope, and whether the envelope verifies. -/
  | owl (udp : Nat) (msg : List Byte) (authOk : Bool)
  /-- ARP, neighbour solicitation or echo request, with the IPv4 or IPv6 address it is for (R397). -/
  | query (dst : List Byte)
  /-- An IGMP or MLD query (R397). -/
  | membership (ip6 : Bool)
  | other
  deriving DecidableEq, Repr

/-- The class that a frame's content gives it (R398); none where its handler's row tells it. -/
def RxBody.cls : RxBody → Option TClass
  | .kapo _ _ _ | .rtp _ | .ptp _ | .owl _ _ _ => some .media
  | .query _ | .membership _ => some .control
  | .fragment _ | .pfc _ | .pause | .datagram | .other => none

/-- A SecTAG (R406): association number, packet number, and whether the ICV is right under the key it names. -/
structure SecTag where
  an : Nat
  pn : Nat
  icvOk : Bool := true
  deriving DecidableEq, Repr

/-- A frame received by a media port, with what its checks find (R400). -/
structure MediaFrame where
  port : Nat
  /-- TS_EOF and TS_SOF in units of 125 ps, before ASYM_RX (R290, R291). -/
  arrival : Nat
  sof : Nat := 0
  len : Nat
  smdOk : Bool := true
  fcs : Fcs := .ok
  pcsError : Bool := false
  secTag : Option SecTag := none
  ipHdrOk : Bool := true
  /-- The class of a frame whose body does not give it (R398). -/
  cls : TClass := .media
  /-- Room in the MEDIA receive buffer (R399). -/
  mediaRoom : Bool := true
  /-- Fragments it was reassembled from under preemption (R405). -/
  frags : Nat := 0
  body : RxBody
  deriving DecidableEq, Repr

/-- A frame received on a peer-link group (R409): its bytes, header to PCRC. -/
structure PeerFrame where
  group : Nat
  /-- TS_EOF in units of 125 ps (R290). -/
  arrival : Nat
  bytes : List Byte
  authOk : Bool
  deriving DecidableEq, Repr

/-- Where a word that crosses a handshake FIFO goes (R22). -/
inductive HsPlace where
  /-- Sample `k` of channel `ch` of ingress context `ctx`, into the gather bank. -/
  | gather (ctx ch k : Nat)
  /-- Sample `k` of output bank slot `slot`, from a unit named by its block number. -/
  | output (unit slot k : Nat)
  /-- The word at byte address `addr` of the IN region of lane `lane` for step `step` of work set `ws`; whether it completes it. -/
  | stepIn (ws step lane addr : Nat) (complete : Bool)
  deriving DecidableEq, Repr

/-- A word that crosses a handshake FIFO, with its 4-bit tag (R22). -/
structure HsWord where
  block : Nat
  tag : Nat
  place : HsPlace
  sample : Int
  deriving DecidableEq, Repr

/-- A unit that has not completed its outputs when EMIT starts (R24): its island, and how many of its output slots, in the order of its
work, it has written. -/
structure LateUnit where
  island : Nat
  done : Nat := 0
  deriving DecidableEq, Repr

/-- What is outside the engine's decision at a tick event (R19, R20): the tick, the 4-bit number each island received when it differs from
the tick's own, the units of fixed work that were late (R24) and the units past their worst case (R125), the clusters whose golden
replay mismatched (R130). -/
structure TickOps where
  tick : Nat
  seqErr : List (Nat × Nat) := []
  late : List LateUnit := []
  overrun : List Nat := []
  goldenFail : List Nat := []
  /-- What PAIR measures (R333, R358): L_M and L_O in 10 ns, σ in ns. -/
  lm : Nat := 0
  lo : Nat := 0
  skew : Nat := 0
  deriving DecidableEq, Repr

/-- What is outside the engine's decision at a cutoff (R42): the tick. -/
structure CutoffOps where
  tick : Nat
  deriving DecidableEq, Repr

/-! ### Dictionary (chapter 08) -/

/-- How a dictionary request reaches the firmware (R258, R374, R543). -/
inductive Path where
  /-- A session: identifier, envelope SEQ, and whether the envelope tag verifies (R374). -/
  | session (id seq : Nat) (tagOk : Bool)
  | hostp
  | tw1
  deriving DecidableEq, Repr

/-- One item of a request (R260); `data` holds the value bytes without padding. -/
structure Item where
  obj : Nat
  mem : Nat
  ty : Nat
  elem : Nat
  count : Nat
  data : List Byte
  deriving DecidableEq, Repr

/-- An upload whose last byte a WRITE brings (R384): the image of a work set, or a golden workload by its digest.  `signed` says that the
checks of R367 pass. -/
inductive Upload where
  | workSet (n : Nat) (image : Image) (signed : Bool)
  | golden (digest : Nat) (signed : Bool)
  deriving DecidableEq, Repr

/-- A dictionary request (R259).  `lenOk` is false when the items do not add up to the datagram (BAD_LEN). -/
structure DictReq where
  path : Path
  ver : Nat := 1
  reqid : Nat
  cid : Nat := 0
  strict : Bool := false
  apply : Nat := 0xFFFFFFFFFFFFFFFF
  lenOk : Bool := true
  items : List Item := []
  upload : Option Upload := none
  /-- Of a session's datagram: the media port it came in on, its UDP port, IPv6, an IP fragment (R258). -/
  port : Nat := 0
  udp : Nat := 49561
  v6 : Bool := false
  frag : Bool := false
  deriving DecidableEq, Repr

/-- One element write of a commit unit (R266). -/
structure EWrite where
  obj : Nat
  mem : Nat
  elem : Nat
  val : Val
  deriving DecidableEq, Repr

namespace Machine

/-- The coefficients of a dynamics instance in the committed bank (R189, R176): slope, attack, release, RMS smoothing. -/
structure DynCoef where
  slope : Int := 0
  attack : Int := 0
  release : Int := 0
  beta : Int := 0
  deriving DecidableEq, Repr

/-- A bank of a direct-path channel as a commit fills it (R175, R197): the first sample it applies to, ENABLE, lin(GAIN), INV, LIM_EN,
CLIP_EN, and the coefficients theta, a_r and c. -/
structure DpBank where
  start : Nat := 0
  on : Bool := false
  gl : Int := 0
  inv : Bool := false
  limEn : Bool := false
  clipEn : Bool := false
  theta : Int := 0
  ar : Int := 0
  clip : Int := 2147483648
  deriving DecidableEq, Repr

end Machine

/-- Kinds of commit units, codes of 0x0020:02 (R272). -/
inductive UKind where
  | trans | tag | recall | store
  deriving DecidableEq, Repr

/-- A commit unit (R266) with what the order of R269 and the log of R272 need. -/
structure CUnit where
  kind : UKind
  late : Bool := false
  pendingAns : Bool := false
  order : Nat := 0
  ctx : Nat := 0
  pos : Nat := 0
  origin : Nat := 0
  session : Nat := 0
  apply : Nat := 0
  cid : Nat := 0
  slot : Nat := 0
  /-- The media frame a tag came in, by context, tick and epoch, for its withdrawal (R48). -/
  frame : Option (Nat × Nat) := none
  /-- A MARK tag's identifier and value (R67). -/
  mark : Option (Nat × Nat) := none
  writes : List EWrite := []
  /-- Images of work sets that the unit brings into force (R133, R134, R384). -/
  images : List (Nat × Image) := []
  /-- The coefficients of the instances and direct channels that it writes, computed once by the engine that decodes the write (R176). -/
  dynCoef : Tab Machine.DynCoef := []
  dpBank : Tab Machine.DpBank := []
  /-- The request's operation and items, for the response after the seal (R264). -/
  op : Nat := 0
  heads : List Item := []
  deriving DecidableEq, Repr

/-- A firmware image in a boot flash as the checks of R367 see it. -/
structure FwImage where
  gen : Nat
  secVer : Nat
  /-- Checks 1 to 4, and check 5. -/
  headOk : Bool := true
  bodyOk : Bool := true
  /-- It reads the running state layout (R458). -/
  layoutOk : Bool := true
  deriving DecidableEq, Repr
/-! ### State of the units that a rejoin captures (R353) -/

namespace Machine

/-- Where a signal comes from in this engine (R77): KIND, INDEX, CH. -/
structure Src where
  kind : Nat
  index : Nat
  ch : Nat
  deriving DecidableEq, Repr

/-- A route a consumer listens to: silence (NULL), or a signal and the source that held it when the route took effect. -/
structure Route where
  sig : Option Nat
  src : Option Src
  deriving DecidableEq, Repr

/-- A fade (R98): old and new route, shape (1 GAIN, 2 POWER), length, first tick; the tick at whose start it was abandoned, if it was (R101). -/
structure Fade where
  cons : Consumer
  old : Route
  new : Route
  shape : Nat
  len : Nat
  first : Nat
  stop : Option Nat := none
  deriving DecidableEq, Repr

/-- A route change waiting behind a running fade (R101). -/
structure QueuedFade where
  cons : Consumer
  new : Route
  shape : Nat
  len : Nat
  deriving DecidableEq, Repr

/-- A ramp (R174): start value, target, length, first sample's number; at and after its end it stands at the target. -/
structure Ramp where
  v0 : Int := 0
  v1 : Int := 0
  len : Nat := 0
  start : Nat := 0
  deriving DecidableEq, Repr

/-- A source entry of a bus as MIX runs it (R180, R186): position, signal, polarity, its gain ramp, whether it is ramping out. -/
structure MixEntry where
  pos : Nat
  sig : Nat
  inv : Bool
  gain : Ramp
  leaving : Bool := false
  deriving DecidableEq, Repr

/-- A mix bus (R179-R186).  `target` is the target of the running scale ramp; none: no evaluation since the start. -/
structure Bus where
  running : Bool := false
  stopping : Bool := false
  gb : Ramp := {}
  scale : Ramp := {}
  target : Option Int := none
  entries : List MixEntry := []
  deriving DecidableEq, Repr

/-- A dynamics instance (R188-R194): smoothed reduction, RMS state, lookahead line oldest first, makeup ramp, coefficients. -/
structure DynInst where
  running : Bool := false
  coef : DynCoef := {}
  g : Int := 0
  /-- g at the last tick boundary (R215). -/
  gAt : Int := 0
  m : Int := 0
  line : List Int := []
  makeup : Ramp := {}
  deriving DecidableEq, Repr

/-- A direct-path channel (R195-R201): the bank in force and those of later samples, gain ramp, limiter gain, limiter running, and the
samples on their way out. -/
structure DpCh where
  bank : DpBank := {}
  next : List DpBank := []
  running : Bool := false
  stopping : Bool := false
  gain : Ramp := {}
  q : Int := 2147483648
  lim : Bool := false
  limStopping : Bool := false
  pipe : List (Nat × Int) := []
  deriving DecidableEq, Repr

/-- A crossfade of taps (R230): old delay, position k, length, shape. -/
structure XTap where
  old : Nat
  k : Nat
  len : Nat
  shape : Nat
  deriving DecidableEq, Repr

/-- An aligned output (R224-R238).  Delays are in samples times 2^16. -/
structure AlnOut where
  region : Option (Nat × Nat) := none
  wp : Nat := 0
  horizon : Nat := 0
  cur : Nat := 0
  target : Nat := 0
  xtap : Option XTap := none
  queued : Option Nat := none
  gs : Ramp := {}
  waiting : Bool := false
  stopping : Bool := false
  /-- GAIN and INV as the last commit left them (R228). -/
  code : Int × Int := (0, 0)
  len : Nat := 98304
  /-- Samples of the 128-byte unit that is not full yet, oldest first (R235). -/
  buf : List Int := []
  deriving DecidableEq, Repr

/-- A detector under one assignment (R203, R208): its signal, the tick from which the assignment is in force, the count and the state. -/
structure DetRun where
  sig : Option Nat := none
  since : Nat := 0
  quiet : Nat := 0
  silent : Bool := false
  deriving DecidableEq, Repr

/-- A threshold detector (R202-R203): the newest assignment, and earlier ones that may still have a tick to decide (R204, R208). -/
structure Detector extends DetRun where
  older : List DetRun := []
  deriving DecidableEq, Repr

/-- A zero monitor (R206). -/

structure ZeroMon where
  ticks : Nat := 0
  zero : Bool := false
  deriving DecidableEq, Repr

end Machine

/-- One work set in a capture: STATE cells and noise state of each lane, lane 0 first. -/
structure WsSnap where
  lanes : List (List (Nat × Byte) × BitVec 64)
  deriving DecidableEq, Repr

/-- The capture of R353: committed values of the pair-wide members, work sets, the fixed units' state, Fox, ALN and the epoch
table of R343. -/
structure Snap where
  tick : Nat := 0
  vals : Tab Val := []
  ws : Tab WsSnap := []
  buses : Tab Machine.Bus := []
  dyn : Tab Machine.DynInst := []
  dp : Tab Machine.DpCh := []
  dpDone : Option Nat := none
  det : Tab Machine.Detector := []
  /-- Decisions of detectors for recent ticks (R205): signal, tick, SILENT. -/
  silLog : List (Nat × Nat × Bool) := []
  mon : Tab Machine.ZeroMon := []
  routes : List (Consumer × Nat × Option Machine.Route) := []
  fades : List Machine.Fade := []
  foxPast : List Machine.Fade := []
  fadeQ : List Machine.QueuedFade := []
  foxLast : Option Nat := none
  aln : Tab Machine.AlnOut := []
  epochs : Tab Nat := []
  /-- Digests of the images of the work sets. -/
  digests : List Nat := []
  deriving DecidableEq, Repr

/-- A SNAP record (R340, R353): its part number and, with the last part, the whole capture. -/
structure SnapRec where
  part : Nat
  whole : Option Snap := none
  deriving DecidableEq, Repr

/-! ### Pair (chapter 10) -/

/-- HELLO at the Owl (R339, R569): sender, highest EPOCH seen, readiness code, IN_SYNC. -/
structure OwlHello where
  engine : Nat
  epoch : Nat
  code : Nat
  inSync : Bool := false
  deriving DecidableEq, Repr

/-- BEAT at the Owl (R339): sender, EPOCH, the sender's tick, the flags of ARG, L_M in 10 ns; and L_O in 10 ns, as the Owl measures it on this
message (R333). -/
structure OwlBeat where
  engine : Nat
  epoch : Nat
  tick : Nat
  mirrorUp : Bool := true
  inSync : Bool := false
  prov : Bool := false
  fault : Bool := false
  lynxLost : Bool := false
  lm : Nat := 0
  lo : Nat := 0
  deriving DecidableEq, Repr

/-- HEALTH (R351): sender, tick, and the fields of the body in their units. -/
structure OwlHealth where
  engine : Nat
  tick : Nat
  lynxMatch : Nat
  impaired : Nat
  spare : Nat := 0
  selfTest : Nat
  sramC : Nat := 0
  dramC : Nat := 0
  scrub : Nat := 0
  lm : Nat := 0
  marginPl : Nat := 0
  marginMp : Nat := 0
  skew : Nat := 0
  uev : Nat := 0
  deriving DecidableEq, Repr

/-- A VERDICT record (R342): PRESENT contexts, the DIRECT bits of each direct ingress context, the EPOCHS list. -/
structure VerdictRec where
  tick : Nat
  present : List Nat
  directs : List (Nat × List Bool) := []
  epochs : List (Nat × Nat) := []
  deriving DecidableEq, Repr

/-- A REPAIR record (R342): tick, context, its samples in gather-bank order and the side bytes of FMT 3. -/
structure RepairRec where
  tick : Nat
  ctx : Nat
  samples : List Int
  side : List Nat := []
  deriving DecidableEq, Repr

/-- A STATUS record (R329). -/
structure StatusRec where
  tick : Nat
  inSync : Bool
  standby : Bool
  take : Bool
  deriving DecidableEq, Repr

/-- A LYNX record (R349): the stage's output label and its CRCs in order. -/
structure LynxRec where
  stage : Nat
  crcs : List Word
  deriving DecidableEq, Repr

/-- A JOIN record (R353, R324): none with a request, the snapshot point with an answer; the sender's address, whom it names as PARTNER and as OWL,
and its conditions of R32: silicon revision, fs, SPT, CUTOFF and the digests of its images. -/
structure JoinRec where
  s : Option Nat := none
  engine : Nat
  partner : Nat
  owl : Nat
  revision : Nat := 0xB0
  fs : Nat
  spt : Nat
  cutoff : Nat
  digests : List Nat := []
  deriving DecidableEq, Repr


/-! ### Start-up (chapter 18) -/

/-- What Dawn finds up to firmware start (R559, R560, R368, R389): identity key, TRNG, boot ROM digest, and the firmware images of
the two boot flashes. -/
structure DawnBoot where
  idkOk : Bool := true
  trngOk : Bool := true
  romOk : Bool := true
  a : Option FwImage := none
  b : Option FwImage := none
  deriving DecidableEq, Repr

/-- What the self-tests of Dawn, or of a resume, find (R433, R560, R561, R563): failed blocks by block number (0x100 CTL0, 0x101 CTL1,
0x102 BOOT_SPI, 0x110 + k TDM port k), the DRAM channels that fail and those not populated, whether the populated ones match, the
duration, and whether every image in the configuration copies passes R367. -/
structure DawnResult where
  failed : List Nat := []
  badChans : List Nat := []
  noChans : List Nat := []
  dramCfgOk : Bool := true
  ms : Nat := 0
  imgA : Bool := true
  imgB : Bool := true
  /-- Of a RESUME: the firmware issues it by itself, under AUTO_REJOIN (R354, R575). -/
  auto : Bool := false
  deriving DecidableEq, Repr

/-! ### Security (chapter 11) -/

/-- A HELLO (R372): source address, requested role, arrival in ms. -/
structure HelloMsg where
  src : Nat
  role : Nat
  ms : Nat := 0
  deriving DecidableEq, Repr

/-- Who issued a credential (R373): the active owner, the Tolrid service key, or another key. -/
inductive Issuer where
  | owner | service | other
  deriving DecidableEq, Repr

/-- The peer's side of a session between engines (R377): address, device certificate, attested owner hash. -/
structure PeerId where
  addr : Nat
  certOk : Bool
  ownerOk : Bool
  deriving DecidableEq, Repr

/-- A PROVE (R372, R373, R377): source, session, whether every signature verifies, the credential, or the peer engine. -/
structure ProveMsg where
  src : Nat
  session : Nat
  ms : Nat := 0
  sigOk : Bool
  peer : Option PeerId := none
  role : Nat := 0
  scope : List Byte := []
  notAfter : Nat := 0
  certId : Nat := 1
  issuer : Issuer := .owner
  selfIssued : Bool := false
  deriving DecidableEq, Repr

/-- How an ownership request is delivered (R370). -/
inductive OwnerVia where
  | session | hostp | tw1
  deriving DecidableEq, Repr

/-- An ownership request (R370): its fields, hashes of NEW_KEY and SIGNER, age of the nonce in seconds, whether the signature
verifies and whether the fuses read back. -/
structure OwnerReq where
  via : OwnerVia
  nonce : Nat
  age : Nat
  serial : List Byte
  op : Nat
  newHash : List Byte := []
  signer : List Byte := []
  sigOk : Bool
  burnOk : Bool := true
  deriving DecidableEq, Repr

/-- A response to a challenge (R386): its fields, age of the nonce in seconds, whose key signed, whether the signature verifies. -/
structure OpenResp where
  nonce : Nat
  age : Nat
  serial : List Byte
  role : Nat
  access : Nat
  expiry : Nat
  signer : Issuer
  sigOk : Bool
  deriving DecidableEq, Repr

/-- A media key slot, or the keys of a port's authentication (R378, R406). -/
inductive KeySel where
  | media (slot : Nat)
  | port (p : Nat)
  deriving DecidableEq, Repr

/-! ### Time (chapter 09) -/

/-- What REFSEL measures of an entry in 1 ms (R296): loss of signal, f in 10^-12, drift in 10^-15/s, phase in ps, time offset of a
time-bearing entry in ns; whether the rate of a word clock equals fs (R294). -/
structure RefMeas where
  entry : Nat
  los : Bool := false
  f : Int := 0
  drift : Int := 0
  phase : Int := 0
  tofs : Int := 0
  atFs : Bool := true
  deriving DecidableEq, Repr

/-! ### Memory (chapter 13) -/

/-- What an on-chip SRAM word belongs to (R427). -/
inductive SramMem where
  | cluster (cl : Nat)
  /-- A sample of an ingress context for a tick, in the gather bank or the early buffer, by its place in payload order; one of an output bank slot. -/
  | gather (ctx tick k : Nat)
  | output (slot tick k : Nat)
  /-- A descriptor or a channel map of a context, a subscription entry, a mix source list, an address table entry. -/
  | context (ctx : Nat)
  | channel (ctx ch : Nat)
  | subscription (sig : Nat)
  | mixEntry (bus pos : Nat)
  | address (entry : Nat)
  | image
  | primaryFw
  | standbyFw
  /-- A fixed unit by the function code of its reset (R499): 0 MIX, 1-2 DYN, 3 DP, 4 ALN, 5 SIL. -/
  | fixed (func : Nat)
  | frameBuffer
  | other
  deriving DecidableEq, Repr

/-- An erroneous SRAM read (R425, R426): region, macro and row as ELOG numbers them, the word in the row, what it holds, and the wrong bits of its
39: 0 the overall parity, 1 to 38 the positions of the Hamming code. -/
structure SramErr where
  region : Nat
  mac : Nat
  row : Nat
  word : Nat := 0
  mem : SramMem
  bits : List Nat
  deriving DecidableEq, Repr

/-- The write-back of a corrected SRAM word (R426, R429): the word in its row, whether the reread needs a correction again, and whether a functional
write has cancelled the write-back. -/
structure WriteBack where
  word : Nat := 0
  again : Bool := false
  cancelled : Bool := false
  deriving DecidableEq, Repr

/-- Who asked for a DRAM line (R436). -/
inductive DramUser where
  /-- An aligned output: its number and the samples of the tick that the line holds, by position. -/
  | aln (out tick : Nat)
  | scene (slot : Nat)
  | snap
  | bus
  | scrub
  | copy
  deriving DecidableEq, Repr

/-- An erroneous symbol of a DRAM line (R434): codeword 0 to 3, symbol 0 to 19, and the bits that are wrong. -/
structure SymErr where
  cw : Nat
  sym : Nat
  bits : Nat
  deriving DecidableEq, Repr

/-- An erroneous DRAM read (R436): channel, line number, row as the failing-row table keys it, the symbols that come wrong, those that come
wrong when the line is read once more, and the requester. -/
structure DramErr where
  chan : Nat
  line : Nat
  row : Nat
  errs : List SymErr := []
  retry : List SymErr := []
  user : DramUser := .scrub
  deriving DecidableEq, Repr

/-! ### Control complex (chapter 14) -/

/-- A burst (R464): master, first address, beats, width in bytes, write data (empty: a read). -/
structure BurstReq where
  master : Master
  addr : Nat
  beats : Nat
  width : Nat
  write : Bool
  data : List Nat
  deriving DecidableEq, Repr

/-- The mailboxes of the map (R470). -/
inductive MailKind where
  | hist (block : Nat)
  | cswCnt
  | silSel
  | alnOsel
  | refMsel
  | memDsel
  | portCnt (port : Nat)
  | timeSnap
  deriving DecidableEq, Repr

/-! ### Power, two-wire and host port (chapters 16 and 17) -/

/-- A poll of a regulator (R520): answered, READ_VOUT in mV, READ_IOUT in mA, warning and fault bits of STATUS_WORD. -/
structure RegPoll where
  reg : Nat
  ack : Bool := true
  vout : Nat := 0
  iout : Nat := 0
  warn : Bool := false
  fault : Bool := false
  deriving DecidableEq, Repr

/-- How a TW0 transaction goes (R536-R540). -/
inductive Tw0Res where
  | done
  | arbLost (byte bit : Nat)
  | nack
  deriving DecidableEq, Repr

structure Tw0Out where
  res : Tw0Res
  stretched : Bool := false
  deriving DecidableEq, Repr

/-- How a write-type command of TW1 ends (R542, R545): with the right PEC, with a wrong one, or before it, by a STOP, or by a START where an
acknowledge was due; a reserved CMD ends as the last does. -/
inductive Tw1End where
  | pec | badPec | cut
  deriving DecidableEq, Repr

/-- A HOSTP frame (R547, R551): RCRC right, CS_N held until RCRC was complete, and until RESULT. -/
structure HpFrame where
  crcOk : Bool := true
  complete : Bool := true
  answered : Bool := true
  deriving DecidableEq, Repr

/-- The commands: one constructor per row of the opcode table, in its order. -/
inductive Instr where
  /-- POWER_ON_RESET (R512). -/
  | powerOnReset
  /-- RESET_ASSERT (R607). -/
  | resetAssert
  /-- RESET_RELEASE (R559). -/
  | resetRelease (d : DawnBoot)
  /-- SLOWCLK_LOSS (R606). -/
  | slowclkLoss
  /-- DAWN_COMPLETE (R560). -/
  | dawnComplete (d : DawnResult)
  /-- TIME_LOCK (R308). -/
  | timeLock
  /-- MORNING_TO_NOON (R568). -/
  | morningToNoon
  /-- TICK_EVENT (R19). -/
  | tickEvent (e : TickOps)
  /-- CUTOFF (R42). -/
  | cutoff (e : CutoffOps)
  /-- STREAM_TIME (R47). -/
  | streamTime (ctx : Nat)
  /-- PATH_A_DOWN (R97). -/
  | pathADown (ctx : Nat) (netB : Bool)
  /-- PATH_A_UP (R97). -/
  | pathAUp (ctx : Nat) (netB : Bool)
  /-- HANDSHAKE_WORD (R22). -/
  | handshakeWord (w : HsWord)
  /-- MEDIA_FRAME_RX (R400). -/
  | mediaFrameRx (f : MediaFrame)
  /-- PFC_XON (R401). -/
  | pfcXon (port : Nat) (bulk : Bool) (occ : Nat)
  /-- PFC_REFRESH (R401). -/
  | pfcRefresh (port : Nat) (bulk : Bool)
  /-- PFC_STORM (R403). -/
  | pfcStorm (port : Nat) (bulk : Bool)
  /-- PTP_SEND (R292). -/
  | ptpSend (port : Nat)
  /-- PEER_LINK_FRAME_RX (R409). -/
  | peerLinkFrameRx (f : PeerFrame)
  /-- EARLY_RELEASE (R46). -/
  | earlyRelease (ctx : Nat)
  /-- COMMIT_APPLY (R270). -/
  | commitApply (tick : Nat)
  /-- FOX_FADE_END (R98). -/
  | foxFadeEnd (c : Consumer)
  /-- FOX_QUEUED_START (R101). -/
  | foxQueuedStart (c : Consumer)
  /-- CLUSTER_STEP_START (R116). -/
  | clusterStepStart (cl : Nat) (step : Nat)
  /-- INTERRUPT_ENTRY (R165). -/
  | interruptEntry (cl : Nat)
  /-- NOP (R151). -/
  | nop (cl : Nat)
  /-- BR (R151). -/
  | br (cl : Nat) (cond red target : Nat)
  /-- CALL (R151). -/
  | call (cl target : Nat)
  /-- RET (R151). -/
  | ret (cl : Nat)
  /-- RETI (R165). -/
  | reti (cl : Nat)
  /-- TRAP (R164). -/
  | trap (cl : Nat)
  /-- ENDS (R151). -/
  | ends (cl : Nat)
  /-- LOOP (R161). -/
  | loop (cl count last : Nat)
  /-- LOOPP (R161). -/
  | loopp (cl pn last : Nat)
  /-- RPT (R160). -/
  | rpt (cl count : Nat)
  /-- LEAVE (R162). -/
  | leave (w : LeaveForm)
  /-- DI (R151). -/
  | di (cl : Nat)
  /-- EI (R151). -/
  | ei (cl : Nat)
  /-- ADD (R156). -/
  | add (i : CI) (dd da db : Nat)
  /-- SUB (R156). -/
  | sub (i : CI) (dd da db : Nat)
  /-- NEG (R156). -/
  | neg (i : CI) (dd da : Nat)
  /-- ABS (R156). -/
  | abs (i : CI) (dd da : Nat)
  /-- AND (R156). -/
  | and (i : CI) (dd da db : Nat)
  /-- OR (R156). -/
  | or (i : CI) (dd da db : Nat)
  /-- XOR (R156). -/
  | xor (i : CI) (dd da db : Nat)
  /-- NOT (R156). -/
  | not (i : CI) (dd da : Nat)
  /-- ASL (R156). -/
  | asl (i : CI) (dd da db : Nat)
  /-- ASR (R156). -/
  | asr (i : CI) (dd da db : Nat)
  /-- LSR (R156). -/
  | lsr (i : CI) (dd da db : Nat)
  /-- CMP (R156). -/
  | cmp (i : CI) (da db : Nat)
  /-- SEL (R156). -/
  | sel (i : CI) (dd da db cond : Nat)
  /-- MIN (R156). -/
  | min (i : CI) (dd da db : Nat)
  /-- MAX (R156). -/
  | max (i : CI) (dd da db : Nat)
  /-- MPYR (R156). -/
  | mpyr (i : CI) (dd da db : Nat)
  /-- MOV (R156). -/
  | mov (i : CI) (dd db : Nat)
  /-- ALUI_ADD (R147). -/
  | aluiAdd (i : CI) (dd da : Nat) (imm : Word)
  /-- ALUI_SUB (R147). -/
  | aluiSub (i : CI) (dd da : Nat) (imm : Word)
  /-- ALUI_AND (R147). -/
  | aluiAnd (i : CI) (dd da : Nat) (imm : Word)
  /-- ALUI_OR (R147). -/
  | aluiOr (i : CI) (dd da : Nat) (imm : Word)
  /-- ALUI_XOR (R147). -/
  | aluiXor (i : CI) (dd da : Nat) (imm : Word)
  /-- ALUI_ASL (R147). -/
  | aluiAsl (i : CI) (dd da : Nat) (imm : Word)
  /-- ALUI_ASR (R147). -/
  | aluiAsr (i : CI) (dd da : Nat) (imm : Word)
  /-- ALUI_LSR (R147). -/
  | aluiLsr (i : CI) (dd da : Nat) (imm : Word)
  /-- ALUI_CMP (R147). -/
  | aluiCmp (i : CI) (da : Nat) (imm : Word)
  /-- ALUI_MIN (R147). -/
  | aluiMin (i : CI) (dd da : Nat) (imm : Word)
  /-- ALUI_MAX (R147). -/
  | aluiMax (i : CI) (dd da : Nat) (imm : Word)
  /-- ALUI_MOV (R147). -/
  | aluiMov (i : CI) (dd : Nat) (imm : Word)
  /-- MAXI (R157). -/
  | maxi (i : CI) (dd da db : Nat)
  /-- MINI (R157). -/
  | mini (i : CI) (dd da db : Nat)
  /-- RMAX (R157). -/
  | rmax (i : CI) (dd da : Nat)
  /-- RMIN (R157). -/
  | rmin (i : CI) (dd da : Nat)
  /-- RND (R159). -/
  | rnd (i : CI) (dd : Nat)
  /-- LID (R159). -/
  | lid (i : CI) (dd : Nat)
  /-- RDFLG (R159). -/
  | rdflg (i : CI) (dd : Nat)
  /-- CLRFLG (R159). -/
  | clrflg (i : CI) (k : Nat)
  /-- MPY (R154). -/
  | mpy (i : CI) (an dx dy : Nat)
  /-- MAC (R154). -/
  | mac (i : CI) (an dx dy : Nat)
  /-- LANE_DEGRADED (R128). -/
  | laneDegraded (cl lane : Nat)
  /-- MSU (R154). -/
  | msu (i : CI) (an dx dy : Nat)
  /-- CLRA (R154). -/
  | clra (i : CI) (an : Nat)
  /-- MOVA (R154). -/
  | mova (i : CI) (an am : Nat)
  /-- ADDA (R154). -/
  | adda (i : CI) (an am : Nat)
  /-- SUBA (R154). -/
  | suba (i : CI) (an am : Nat)
  /-- LDA (R154). -/
  | lda (i : CI) (an dx sh : Nat)
  /-- ASLA (R154). -/
  | asla (i : CI) (an sh : Nat)
  /-- ASRA (R154). -/
  | asra (i : CI) (an sh : Nat)
  /-- SAV (R122). -/
  | sav (i : CI) (dx an sh : Nat) (trunc : Bool)
  /-- NEGA (R154). -/
  | nega (i : CI) (an : Nat)
  /-- LDD (R155). -/
  | ldd (i : CI) (l : DualLoads)
  /-- MPYL (R155). -/
  | mpyl (i : CI) (an dx dy : Nat) (l : DualLoads)
  /-- MACL (R155). -/
  | macl (i : CI) (an dx dy : Nat) (l : DualLoads)
  /-- MSUL (R155). -/
  | msul (i : CI) (an dx dy : Nat) (l : DualLoads)
  /-- LD (R153). -/
  | ld (cl dd : Nat) (ea : EA)
  /-- ST (R153). -/
  | st (cl dd : Nat) (ea : EA)
  /-- MODP (R149). -/
  | modp (cl : Nat) (ea : EA)
  /-- MVR (R158). -/
  | mvr (cl dst src : Nat)
  /-- MVI (R158). -/
  | mvi (cl dst imm : Nat)
  /-- SPIN_START (R140). -/
  | spinStart (m : Master) (cl src : Nat) (forced : Bool)
  /-- SPIN_ABANDON (R140). -/
  | spinAbandon (m : Master) (cl : Nat)
  /-- SPARE_IN (R283). -/
  | spareIn (src : Nat) (forced : Bool)
  /-- SPARE_IN_SWEEP (R133). -/
  | spareInSweep (cl : Nat)
  /-- SPARE_IN_SWITCH (R133). -/
  | spareInSwitch (cl : Nat)
  /-- ROTATION (R131). -/
  | rotation
  /-- MARCH_PASS (R130). -/
  | marchPass (cl : Nat) (pass : Bool)
  /-- WS_ZERO (R206). -/
  | wsZero (ws : Nat)
  /-- CLUSTER_READY (R516). -/
  | clusterReady (cl : Nat)
  /-- SILENT (R203). -/
  | silent (det : Nat)
  /-- BUS_STOP (R186). -/
  | busStop (bus : Nat)
  /-- ENTRY_DROP (R186). -/
  | entryDrop (bus entry : Nat)
  /-- DP_SAMPLE (R197). -/
  | dpSample (sample : Nat) (late : List Nat)
  /-- ALN_GAIN_RAMP_START (R234). -/
  | alnGainRampStart (out : Nat)
  /-- ALN_REGION_RELEASE (R232). -/
  | alnRegionRelease (out : Nat)
  /-- ALN_XTAP_END (R230). -/
  | alnXtapEnd (out : Nat)
  /-- READ (R261). -/
  | read (r : DictReq)
  /-- WRITE (R262). -/
  | write (r : DictReq)
  /-- COMMIT (R261). -/
  | commit (r : DictReq)
  /-- ABORT (R261). -/
  | abort (r : DictReq)
  /-- DESCRIBE (R251). -/
  | describe (r : DictReq)
  /-- SCENE_STORE (R277). -/
  | sceneStore (r : DictReq)
  /-- SCENE_STORE_DONE (R277). -/
  | sceneStoreDone (slot : Nat)
  /-- SCENE_RECALL (R279). -/
  | sceneRecall (r : DictReq)
  /-- SCENE_CHECK (R280). -/
  | sceneCheck (r : DictReq)
  /-- SCENE_CHECK_DONE (R280). -/
  | sceneCheckDone (slot : Nat)
  /-- HANDSHAKE_HELLO (R372). -/
  | handshakeHello (h : HelloMsg)
  /-- HANDSHAKE_PROVE (R373). -/
  | handshakeProve (p : ProveMsg)
  /-- SESSION_IDLE (R375). -/
  | sessionIdle (id : Nat)
  /-- SET (R287). -/
  | set (ns : Nat)
  /-- INC_LOAD (R312). -/
  | incLoad (m : Master)
  /-- CMP_ARM (R289). -/
  | cmpArm (m : Master) (unit : Nat)
  /-- CMP_FIRE (R288). -/
  | cmpFire (unit : Nat)
  /-- TIME_SNAP (R314). -/
  | timeSnap (m : Master)
  /-- REFSEL_EVALUATION (R298). -/
  | refselEvaluation (ms : List RefMeas)
  /-- QUAL_EXPIRY (R297). -/
  | qualExpiry (entry : Nat)
  /-- DWELL_EXPIRY (R298). -/
  | dwellExpiry
  /-- WTR_EXPIRY (R298). -/
  | wtrExpiry (entry : Nat)
  /-- SUSPECT_RECOVERY (R297). -/
  | suspectRecovery (entry : Nat)
  /-- REF_SWITCH (R300). -/
  | refSwitch (offset : Int)
  /-- HO_SPEC_LOST (R303). -/
  | hoSpecLost
  /-- XO_FAIL (R304). -/
  | xoFail
  /-- APLL_UNLOCK (R306). -/
  | apllUnlock
  /-- OWL_TICK_SEND (R328). -/
  | owlTickSend (svc : Nat)
  /-- BEAT_SEND (R339). -/
  | beatSend
  /-- STATUS_SEND (R329). -/
  | statusSend
  /-- HELLO (R327). -/
  | hello (svc : Nat) (h : OwlHello)
  /-- OWL_GRANT_WAIT (R570). -/
  | owlGrantWait (svc : Nat)
  /-- BEAT (R332). -/
  | beat (svc : Nat) (b : OwlBeat)
  /-- LEASE (R330). -/
  | lease (epoch tick expiry : Nat)
  /-- STANDBY (R329). -/
  | standby (epoch tick : Nat)
  /-- TAKE (R332). -/
  | take (svc : Nat) (engine epoch tick : Nat)
  /-- GRANT (R332). -/
  | grant (epoch tick : Nat)
  /-- HANDOVER (R336). -/
  | handover (svc : Nat) (h : Nat)
  /-- DEMOTE (R332). -/
  | demote (epoch : Nat)
  /-- HEALTH (R352). -/
  | health (svc : Nat) (h : OwlHealth)
  /-- NO_OWL (R355). -/
  | noOwl
  /-- TAKEOVER (R331). -/
  | takeover (tick : Nat)
  /-- PAIR_HANDOVER (R361). -/
  | pairHandover (h : Nat)
  /-- VERDICT (R343). -/
  | verdict (v : VerdictRec)
  /-- MISS (R340). -/
  | miss (tick : Nat) (ctxs : List Nat)
  /-- REPAIR (R342). -/
  | repair (r : RepairRec)
  /-- TDM_RECORD (R345). -/
  | tdmRecord (tick : Nat) (words : List (Nat × Int))
  /-- COMMIT_RECORD (R346). -/
  | commitRecord (tick : Nat) (units : List CUnit)
  /-- BEACON (R331). -/
  | beacon (boundary : Nat) (epoch : Nat)
  /-- STATUS_RECORD (R330). -/
  | statusRecord (r : StatusRec)
  /-- FENCE (R356). -/
  | fence (boundary : Nat) (epoch : Nat)
  /-- LYNX (R349). -/
  | lynx (r : LynxRec)
  /-- LYNX_ABSENT (R349). -/
  | lynxAbsent (stage : Nat)
  /-- LYNX_LOST (R350). -/
  | lynxLost
  /-- MIRROR_SILENCE (R352). -/
  | mirrorSilence
  /-- JOIN (R353). -/
  | join (j : JoinRec)
  /-- CAPTURE (R353). -/
  | capture (tick : Nat)
  /-- SNAP_RECORD (R353). -/
  | snapRecord (r : SnapRec)
  /-- CATCH_UP (R353). -/
  | catchUp (bytes : Nat) (poison : Bool)
  /-- REFILL (R353). -/
  | refill
  /-- IN_SYNC (R353). -/
  | inSync
  /-- MIRROR_REKEY (R377). -/
  | mirrorRekey
  /-- DRAIN_COMPLETE (R573). -/
  | drainComplete
  /-- DUSK_TIMEOUT (R28). -/
  | duskTimeout
  /-- RESUME (R575). -/
  | resume (d : DawnResult)
  /-- SAVE (R564). -/
  | save (tick : Nat)
  /-- SAVE_DONE (R564). -/
  | saveDone (res : Nat)
  /-- READY (R568). -/
  | ready
  /-- NONCE (R370). -/
  | nonce
  /-- ENROL (R370). -/
  | enrol (r : OwnerReq)
  /-- ROTATE (R370). -/
  | rotate (r : OwnerReq)
  /-- RELEASE (R370). -/
  | release (r : OwnerReq)
  /-- CLOSE (R385). -/
  | close (mask : Nat) (burnOk : Bool)
  /-- COMMIT_FW (R369). -/
  | commitFw (burnOk : Bool)
  /-- CLOSE_NOW (R387). -/
  | closeNow
  /-- CHALLENGE (R386). -/
  | challenge (sinceFail : Nat)
  /-- RESPONSE (R386). -/
  | response (r : OpenResp)
  /-- GRANT_EXPIRY (R387). -/
  | grantExpiry
  /-- KEY_SWITCH (R378). -/
  | keySwitch (k : KeySel)
  /-- KEY_AGE (R380). -/
  | keyAge (k : KeySel)
  /-- KEY_EXPIRED (R380). -/
  | keyExpired (k : KeySel)
  /-- TRNG_FAIL (R389). -/
  | trngFail
  /-- LINK_UP (R395). -/
  | linkUp (port : Nat) (verified speedOk : Bool)
  /-- LINK_DOWN (R395). -/
  | linkDown (port : Nat)
  /-- FEC_DEGRADE (R396). -/
  | fecDegrade (port : Nat) (corr uncorr : Nat)
  /-- PREEMPT_FAIL (R404). -/
  | preemptFail (port : Nat)
  /-- EYE_MEASURE (R421). -/
  | eyeMeasure (port : Nat) (eye : Nat)
  /-- CREDIT (R410). -/
  | credit (group vc credits ack : Nat)
  /-- NAK (R411). -/
  | nak (group fseq : Nat)
  /-- ALIGN (R408). -/
  | align (group lane marker : Nat) (bipOk : Bool)
  /-- LANECTL_REMOVE (R413). -/
  | lanectlRemove (group mask : Nat)
  /-- LANECTL_ADD (R413). -/
  | lanectlAdd (group mask marker : Nat)
  /-- LANECTL_ACK (R407). -/
  | lanectlAck (group mask : Nat)
  /-- LANECTL_DRAIN (R415). -/
  | lanectlDrain (group : Nat)
  /-- LANE_LOST (R413). -/
  | laneLost (group lane : Nat)
  /-- GROUP_DRAIN (R415). -/
  | groupDrain (group : Nat)
  /-- NORTH (R417). -/
  | north (off : Bool)
  /-- SOUTH (R417). -/
  | south (off : Bool)
  /-- FSYNC_LOSS (R484). -/
  | fsyncLoss (port : Nat)
  /-- FSYNC_OK (R484). -/
  | fsyncOk (port : Nat)
  /-- SRAM_READ_ERROR (R426). -/
  | sramReadError (e : SramErr)
  /-- SRAM_WRITE_BACK (R426). -/
  | sramWriteBack (mem row : Nat) (w : WriteBack)
  /-- ROW_REPAIRED (R431). -/
  | rowRepaired (mem row : Nat)
  /-- BADGER_PASS (R428). -/
  | badgerPass (rows : List (Nat × Nat))
  /-- DRAM_READ_ERROR (R436). -/
  | dramReadError (e : DramErr)
  /-- PATROL_SCRUB (R437). -/
  | patrolScrub (chan : Nat) (errs : List DramErr)
  /-- ECS_READ (R437). -/
  | ecsRead (chan : Nat) (counts : List Nat)
  /-- MIGRATE (R439). -/
  | migrate (chan : Nat)
  /-- MIGRATED (R439). -/
  | migrated
  /-- REPAIR_ACTION (R441). -/
  | repairAction (chan : Nat)
  /-- PPR_COMPLETE (R441). -/
  | pprComplete (ok : Bool)
  /-- SEAL_MISS (R457). -/
  | sealMiss
  /-- HEARTBEAT_MISS (R457). -/
  | heartbeatMiss
  /-- STAGE (R458). -/
  | stage (flash : Nat) (img : Option FwImage)
  /-- STAGED_READY (R458). -/
  | stagedReady
  /-- ARM (R458). -/
  | arm (h : Nat)
  /-- FW_HANDOVER (R458). -/
  | fwHandover
  /-- FW_RELEASE (R458). -/
  | fwRelease
  /-- ERASE (R477). -/
  | erase (flash : Nat)
  /-- BURST (R464). -/
  | burst (b : BurstReq)
  /-- BURST_TO (R465). -/
  | burstTo (b : BurstReq) (done : Nat) (targetStalled : Bool)
  /-- REGISTER_WRITE (R467). -/
  | registerWrite (m : Master) (addr : Nat) (size : Nat) (val : Word)
  /-- RC_READ (R468). -/
  | rcRead (m : Master) (addr : Nat) (size : Nat)
  /-- MAILBOX_LAST_READ (R470). -/
  | mailboxLastRead (m : Master) (addr : Nat) (size : Nat)
  /-- MAILBOX_CAPTURE_DONE (R470). -/
  | mailboxCaptureDone (k : MailKind) (host : Bool)
  /-- SLOW_WRITE_EFFECT (R471). -/
  | slowWriteEffect (block : Nat)
  /-- CNT_SEL_SNAP (R106). -/
  | cntSelSnap (m : Master) (ctx : Nat)
  /-- SIL_SEL_SNAP (R219). -/
  | silSelSnap (m : Master) (slot : Nat)
  /-- OSEL_SNAP (R243). -/
  | oselSnap (m : Master) (out : Nat)
  /-- MSEL_SNAP (R321). -/
  | mselSnap (m : Master) (entry : Nat)
  /-- DSEL_SNAP (R452). -/
  | dselSnap (m : Master) (chan : Nat)
  /-- CNT_CTL_SNAP (R419). -/
  | cntCtlSnap (m : Master) (port : Nat)
  /-- HIST_SNAP (R491). -/
  | histSnap (m : Master) (block : Nat)
  /-- CLEAR (R490). -/
  | clear (m : Master) (block : Nat)
  /-- FORCE (R489). -/
  | force (m : Master) (block : Nat) (val : Word)
  /-- INT_STAT_READ (R486). -/
  | intStatRead (m : Master) (block : Nat)
  /-- FAULT_POLL (R486). -/
  | faultPoll
  /-- ERR_PULSE_END (R495). -/
  | errPulseEnd
  /-- HOLD_RELEASE (R496). -/
  | holdRelease (m : Master)
  /-- HOLD_SET (R496). -/
  | holdSet (m : Master)
  /-- FRST0 (R499). -/
  | frst0 (m : Master) (val : Word)
  /-- FRST1_GO (R500). -/
  | frst1Go (m : Master) (target : Nat)
  /-- FRST_DONE (R503). -/
  | frstDone (func : Nat)
  /-- FRST_FAIL (R484). -/
  | frstFail (func : Nat)
  /-- SHADOW_CLOSE (R504). -/
  | shadowClose (func : Nat)
  /-- SWITCH (R508). -/
  | switch (dom : Nat) (on : Bool)
  /-- DOMAIN_ON (R508). -/
  | domainOn (dom : Nat)
  /-- AVS_EVALUATION (R513). -/
  | avsEvaluation (slacks : List Int)
  /-- REGULATOR_POLL (R520). -/
  | regulatorPoll (polls : List RegPoll)
  /-- THERMAL_READ (R521). -/
  | thermalRead (temps : List Int)
  /-- THERM_TRIP (R521). -/
  | thermTrip
  /-- VMON_WARN (R523). -/
  | vmonWarn (rail : Nat) (fail : Bool)
  /-- TW0_TRANSACTION (R537). -/
  | tw0Transaction (t : Tw0Out)
  /-- TW0_RETRY (R539). -/
  | tw0Retry (t : Tw0Out)
  /-- TW_TIMEOUT (R540). -/
  | twTimeout
  /-- TW_BUS_STUCK (R540). -/
  | twBusStuck (cleared : Bool)
  /-- TW1_REG_RD (R542). -/
  | tw1RegRd (addr : Nat)
  /-- TW1_REG_WR (R543). -/
  | tw1RegWr (addr : Nat) (val : Word) (fin : Tw1End)
  /-- STAT (R542). -/
  | stat
  /-- OP_WAKE (R575). -/
  | opWake (fin : Tw1End) (d : DawnBoot)
  /-- OP_RESUME (R575). -/
  | opResume (fin : Tw1End) (d : DawnResult)
  /-- TW1_BUF_WR (R542). -/
  | tw1BufWr (off : Nat) (data : List Byte) (fin : Tw1End)
  /-- TW1_DICT_GO (R543). -/
  | tw1DictGo (len : Nat) (fin : Tw1End)
  /-- TW1_BUF_RD (R542). -/
  | tw1BufRd (off len : Nat)
  /-- TW1_TIMEOUT (R541). -/
  | tw1Timeout
  /-- ATTN (R544). -/
  | attn
  /-- TW1_TIMING_SWITCH (R541). -/
  | tw1TimingSwitch
  /-- HOSTP_REG_RD (R547). -/
  | hostpRegRd (addr n : Nat) (f : HpFrame)
  /-- HOSTP_REG_WR (R547). -/
  | hostpRegWr (addr : Nat) (data : List Word) (f : HpFrame)
  /-- STATUS (R547). -/
  | status (f : HpFrame)
  /-- HOSTP_BUF_WR (R547). -/
  | hostpBufWr (off : Nat) (data : List Byte) (f : HpFrame)
  /-- HOSTP_BUF_RD (R547). -/
  | hostpBufRd (off len : Nat) (f : HpFrame)
  /-- HOSTP_DICT_GO (R549). -/
  | hostpDictGo (len : Nat) (f : HpFrame)
  /-- HELLO_SEND (R339). -/
  | helloSend
  /-- DPLL_UPDATE (R295). -/
  | dpllUpdate (corr : Int)
  /-- TDM_FRAME (R600). -/
  | tdmFrame (port : Nat) (sample : Nat) (words : List Int) (fsOk : Bool)
  /-- DOMAIN_OFF (R508). -/
  | domainOff (dom : Nat)
  /-- XO_IN_VALID (R509). -/
  | xoInValid
  /-- PFC_PAUSE_EXPIRY (R403). -/
  | pfcPauseExpiry (port : Nat) (bulk : Bool)
  /-- CREDENTIAL_EXPIRY (R375). -/
  | credentialExpiry (id : Nat)
  deriving DecidableEq, Repr

end Sys2Proof
end

