-- ==== Sys2Proof/WellFormed.lean ====
section
/-! DEFINITION. Well-formed commands: every operand lies in the range the spec gives the thing it names. -/

namespace Sys2Proof

/-- A cluster number (R110). -/
def CI.wf (i : CI) : Bool :=
  decide (i.cl < 9) && (match i.residue with | .ok => true | .replay l => decide (l < 32) | .failTwice l => decide (l < 32))

/-- An effective address of FMT 5 (R149): a pointer, an offset register or a signed 15-bit word count. -/
def EA.wf (e : EA) : Bool :=
  decide (e.pn < 16) && (match e.mode with
    | .postM k => decide (k < 8)
    | .postImm w => decide (-16384 ≤ w) && decide (w < 16384)
    | .offset w => decide (-16384 ≤ w) && decide (w < 16384)
    | .postInc => true)

/-- A load of FMT 4 (R147). -/
def DualLoad.wf (l : DualLoad) : Bool := decide (l.d < 32) && decide (l.p < 16) && decide (l.m < 8)

/-- The loads of FMT 4 (R147): two loads name different pointers and different destinations (R155). -/
def DualLoads.wf (l : DualLoads) : Bool :=
  (match l.l1 with | some x => x.wf | none => true) && (match l.l2 with | some x => x.wf | none => true) &&
    (match l.l1, l.l2 with | some x, some y => decide (x.p ≠ y.p) && decide (x.d ≠ y.d) | _, _ => true)

/-- A consumer (R79, R98). -/
def Consumer.wf : Consumer → Bool
  | .egress x c => decide (x < 4096) && decide (c < 256)
  | .inStrip n => decide (n < 4096)
  | .outStrip n => decide (n < 4096)
  | .direct n => decide (n < 64)

/-- A word of a handshake FIFO: its tag has 4 bits (R22). -/
def HsWord.wf (w : HsWord) : Bool := decide (w.tag < 16)

/-- The channels of an image's steps lie in lanes there are (R115). -/
def StepDecl.wf (d : StepDecl) : Bool := d.inp.all (fun p => decide (p.lane < 32)) && d.out.all fun p => decide (p.lane < 32)

/-- A dictionary request: the numeric fields fit the header of R259; the three objects above 16 bits are the TDM configuration (log 17). -/
def DictReq.wf (r : DictReq) : Bool :=
  (match r.upload with | some (.workSet n i _) => decide (n < 8) && decide (i.init.length ≤ 32) && i.steps.all (·.wf) | _ => true) &&
  decide (r.ver < 256) && decide (r.reqid < 2 ^ 32) && decide (r.cid < 256) && decide (r.apply < 2 ^ 64) &&
    r.items.all fun i => decide (i.obj < 0x10003) && decide (i.mem < 256) && decide (i.ty < 256) && decide (i.elem < 65536) && decide (i.count < 65536)

/-- LEAVE in a cluster, or of the engine (R162, R573). -/
def LeaveForm.wf : LeaveForm → Bool
  | .loop cl => decide (cl < 9)
  | .service => true

/-- A bus access of 1, 2, 4 or 8 bytes (R461). -/
def widthOk (n : Nat) : Bool := n == 1 || n == 2 || n == 4 || n == 8

/-- A burst of 1 to 16 beats (R461). -/
def BurstReq.wf (b : BurstReq) : Bool := widthOk b.width && decide (1 ≤ b.beats) && decide (b.beats ≤ 16) && decide (b.addr < 2 ^ 32)

/-- The function codes of R503. -/
def resettable (f : Nat) : Bool := decide (f ≤ 10) || (decide (0x10 ≤ f) && decide (f ≤ 0x18)) || (decide (0x40 ≤ f) && decide (f < 0x80))

/-- Every operand of a command lies in its range. -/
def Instr.wf : Instr → Bool
  | .powerOnReset => true
  | .resetAssert => true
  | .resetRelease _ => true
  | .slowclkLoss => true
  | .dawnComplete _ => true
  | .timeLock => true
  | .morningToNoon => true
  | .tickEvent e => decide (e.tick < 2 ^ 48)
  | .cutoff e => decide (e.tick < 2 ^ 48)
  | .streamTime ctx => decide (ctx < 4096)
  | .pathADown ctx _ => decide (ctx < 4096)
  | .pathAUp ctx _ => decide (ctx < 4096)
  | .handshakeWord w => w.wf
  | .mediaFrameRx f => decide (f.port < 32)
  | .pfcXon port _ _ => decide (port < 32)
  | .pfcRefresh port _ => decide (port < 32)
  | .pfcStorm port _ => decide (port < 32)
  | .ptpSend port => decide (port < 32)
  | .peerLinkFrameRx f => decide (f.group < 16)
  | .earlyRelease ctx => decide (ctx < 4096)
  | .commitApply tick => decide (tick < 2 ^ 48)
  | .foxFadeEnd c => c.wf
  | .foxQueuedStart c => c.wf
  | .clusterStepStart cl step => decide (cl < 9) && decide (step < 8)
  | .interruptEntry cl => decide (cl < 9)
  | .nop cl => decide (cl < 9)
  | .br cl cond red target => decide (cl < 9) && decide (cond < 16) && decide (red < 4) && decide (target < 32768)
  | .call cl target => decide (cl < 9) && decide (target < 32768)
  | .ret cl => decide (cl < 9)
  | .reti cl => decide (cl < 9)
  | .trap cl => decide (cl < 9)
  | .ends cl => decide (cl < 9)
  | .loop cl count last => decide (cl < 9) && decide (1 ≤ count) && decide (count ≤ 65536) && decide (last < 32768)
  | .loopp cl pn last => decide (cl < 9) && decide (pn < 16) && decide (last < 32768)
  | .rpt cl count => decide (cl < 9) && decide (1 ≤ count) && decide (count ≤ 65536)
  | .leave w => w.wf
  | .di cl => decide (cl < 9)
  | .ei cl => decide (cl < 9)
  | .add ci dd da db => ci.wf && decide (dd < 32) && decide (da < 32) && decide (db < 32)
  | .sub ci dd da db => ci.wf && decide (dd < 32) && decide (da < 32) && decide (db < 32)
  | .neg ci dd da => ci.wf && decide (dd < 32) && decide (da < 32)
  | .abs ci dd da => ci.wf && decide (dd < 32) && decide (da < 32)
  | .and ci dd da db => ci.wf && decide (dd < 32) && decide (da < 32) && decide (db < 32)
  | .or ci dd da db => ci.wf && decide (dd < 32) && decide (da < 32) && decide (db < 32)
  | .xor ci dd da db => ci.wf && decide (dd < 32) && decide (da < 32) && decide (db < 32)
  | .not ci dd da => ci.wf && decide (dd < 32) && decide (da < 32)
  | .asl ci dd da db => ci.wf && decide (dd < 32) && decide (da < 32) && decide (db < 32)
  | .asr ci dd da db => ci.wf && decide (dd < 32) && decide (da < 32) && decide (db < 32)
  | .lsr ci dd da db => ci.wf && decide (dd < 32) && decide (da < 32) && decide (db < 32)
  | .cmp ci da db => ci.wf && decide (da < 32) && decide (db < 32)
  | .sel ci dd da db cond => ci.wf && decide (dd < 32) && decide (da < 32) && decide (db < 32) && decide (cond < 16)
  | .min ci dd da db => ci.wf && decide (dd < 32) && decide (da < 32) && decide (db < 32)
  | .max ci dd da db => ci.wf && decide (dd < 32) && decide (da < 32) && decide (db < 32)
  | .mpyr ci dd da db => ci.wf && decide (dd < 32) && decide (da < 32) && decide (db < 32)
  | .mov ci dd db => ci.wf && decide (dd < 32) && decide (db < 32)
  | .aluiAdd ci dd da _ => ci.wf && decide (dd < 32) && decide (da < 32)
  | .aluiSub ci dd da _ => ci.wf && decide (dd < 32) && decide (da < 32)
  | .aluiAnd ci dd da _ => ci.wf && decide (dd < 32) && decide (da < 32)
  | .aluiOr ci dd da _ => ci.wf && decide (dd < 32) && decide (da < 32)
  | .aluiXor ci dd da _ => ci.wf && decide (dd < 32) && decide (da < 32)
  | .aluiAsl ci dd da _ => ci.wf && decide (dd < 32) && decide (da < 32)
  | .aluiAsr ci dd da _ => ci.wf && decide (dd < 32) && decide (da < 32)
  | .aluiLsr ci dd da _ => ci.wf && decide (dd < 32) && decide (da < 32)
  | .aluiCmp ci da _ => ci.wf && decide (da < 32)
  | .aluiMin ci dd da _ => ci.wf && decide (dd < 32) && decide (da < 32)
  | .aluiMax ci dd da _ => ci.wf && decide (dd < 32) && decide (da < 32)
  | .aluiMov ci dd _ => ci.wf && decide (dd < 32)
  | .maxi ci dd da db => ci.wf && decide (dd < 32) && decide (dd % 2 = 0) && decide (da < 32) && decide (db < 32)
  | .mini ci dd da db => ci.wf && decide (dd < 32) && decide (dd % 2 = 0) && decide (da < 32) && decide (db < 32)
  | .rmax ci dd da => ci.wf && decide (dd < 32) && decide (dd % 2 = 0) && decide (da < 32)
  | .rmin ci dd da => ci.wf && decide (dd < 32) && decide (dd % 2 = 0) && decide (da < 32)
  | .rnd ci dd => ci.wf && decide (dd < 32)
  | .lid ci dd => ci.wf && decide (dd < 32)
  | .rdflg ci dd => ci.wf && decide (dd < 32)
  | .clrflg ci k => ci.wf && decide (k < 16)
  | .mpy ci an dx dy => ci.wf && decide (an < 8) && decide (dx < 32) && decide (dy < 32)
  | .mac ci an dx dy => ci.wf && decide (an < 8) && decide (dx < 32) && decide (dy < 32)
  | .laneDegraded cl lane => decide (cl < 9) && decide (lane < 32)
  | .msu ci an dx dy => ci.wf && decide (an < 8) && decide (dx < 32) && decide (dy < 32)
  | .clra ci an => ci.wf && decide (an < 8)
  | .mova ci an am => ci.wf && decide (an < 8) && decide (am < 8)
  | .adda ci an am => ci.wf && decide (an < 8) && decide (am < 8)
  | .suba ci an am => ci.wf && decide (an < 8) && decide (am < 8)
  | .lda ci an dx sh => ci.wf && decide (an < 8) && decide (dx < 32) && decide (sh < 64)
  | .asla ci an sh => ci.wf && decide (an < 8) && decide (sh < 64)
  | .asra ci an sh => ci.wf && decide (an < 8) && decide (sh < 64)
  | .sav ci dx an sh _ => ci.wf && decide (dx < 32) && decide (an < 8) && decide (sh < 64)
  | .nega ci an => ci.wf && decide (an < 8)
  | .ldd ci l => ci.wf && l.wf
  | .mpyl ci an dx dy l => ci.wf && decide (an < 8) && decide (dx < 32) && decide (dy < 32) && l.wf
  | .macl ci an dx dy l => ci.wf && decide (an < 8) && decide (dx < 32) && decide (dy < 32) && l.wf
  | .msul ci an dx dy l => ci.wf && decide (an < 8) && decide (dx < 32) && decide (dy < 32) && l.wf
  | .ld cl dd ea => decide (cl < 9) && decide (dd < 32) && ea.wf
  | .st cl dd ea => decide (cl < 9) && decide (dd < 32) && ea.wf
  | .modp cl ea => decide (cl < 9) && ea.wf
  | .mvr cl dst src => decide (cl < 9) && decide (dst < 77) && decide (src < 77)
  | .mvi cl dst _ => decide (cl < 9) && decide (dst < 76)
  | .spinStart _ cl src _ => decide (cl < 9) && decide (src < 9)
  | .spinAbandon _ cl => decide (cl < 9)
  | .spareIn src _ => decide (src < 9)
  | .spareInSweep cl => decide (cl < 9)
  | .spareInSwitch cl => decide (cl < 9)
  | .rotation => true
  | .marchPass cl _ => decide (cl < 9)
  | .wsZero ws => decide (ws < 8)
  | .clusterReady cl => decide (cl < 9)
  | .silent det => decide (det < 4096)
  | .busStop bus => decide (bus < 256)
  | .entryDrop bus entry => decide (bus < 256) && decide (entry < 1024)
  | .dpSample _ late => late.all fun c => decide (c < 64)
  | .alnGainRampStart out => decide (out < 4096)
  | .alnRegionRelease out => decide (out < 4096)
  | .alnXtapEnd out => decide (out < 4096)
  | .read r => r.wf
  | .write r => r.wf
  | .commit r => r.wf
  | .abort r => r.wf
  | .describe r => r.wf
  | .sceneStore r => r.wf
  | .sceneStoreDone slot => decide (slot < 64)
  | .sceneRecall r => r.wf
  | .sceneCheck r => r.wf
  | .sceneCheckDone slot => decide (slot < 64)
  | .handshakeHello _ => true
  | .handshakeProve _ => true
  | .sessionIdle _ => true
  | .set _ => true
  | .incLoad _ => true
  | .cmpArm _ unit => decide (unit < 8)
  | .cmpFire unit => decide (unit < 8)
  | .timeSnap _ => true
  | .refselEvaluation _ => true
  | .qualExpiry entry => decide (entry < 16)
  | .dwellExpiry => true
  | .wtrExpiry entry => decide (entry < 16)
  | .suspectRecovery entry => decide (entry < 16)
  | .refSwitch _ => true
  | .hoSpecLost => true
  | .xoFail => true
  | .apllUnlock => true
  | .owlTickSend svc => decide (svc < 8)
  | .beatSend => true
  | .statusSend => true
  | .hello svc _ => decide (svc < 8)
  | .owlGrantWait svc => decide (svc < 8)
  | .beat svc _ => decide (svc < 8)
  | .lease epoch _ _ => decide (epoch < 65536)
  | .standby epoch _ => decide (epoch < 65536)
  | .take svc _ epoch _ => decide (svc < 8) && decide (epoch < 65536)
  | .grant epoch _ => decide (epoch < 65536)
  | .handover svc _ => decide (svc < 8)
  | .demote epoch => decide (epoch < 65536)
  | .health svc _ => decide (svc < 8)
  | .noOwl => true
  | .takeover _ => true
  | .pairHandover _ => true
  | .verdict _ => true
  | .miss _ _ => true
  | .repair _ => true
  | .tdmRecord _ _ => true
  | .commitRecord _ _ => true
  | .beacon _ epoch => decide (epoch < 65536)
  | .statusRecord _ => true
  | .fence _ epoch => decide (epoch < 65536)
  | .lynx _ => true
  | .lynxAbsent _ => true
  | .lynxLost => true
  | .mirrorSilence => true
  | .join _ => true
  | .capture _ => true
  | .snapRecord _ => true
  | .catchUp _ _ => true
  | .refill => true
  | .inSync => true
  | .mirrorRekey => true
  | .drainComplete => true
  | .duskTimeout => true
  | .resume _ => true
  | .save _ => true
  | .saveDone _ => true
  | .ready => true
  | .nonce => true
  | .enrol _ => true
  | .rotate _ => true
  | .release _ => true
  | .close mask _ => decide (mask < 64)
  | .commitFw _ => true
  | .closeNow => true
  | .challenge _ => true
  | .response _ => true
  | .grantExpiry => true
  | .keySwitch _ => true
  | .keyAge _ => true
  | .keyExpired _ => true
  | .trngFail => true
  | .linkUp port _ _ => decide (port < 48)
  | .linkDown port => decide (port < 48)
  | .fecDegrade port _ _ => decide (port < 32)
  | .preemptFail port => decide (port < 32)
  | .eyeMeasure port eye => decide (port < 48) && decide (eye < 65536)
  | .credit group vc credits ack => decide (group < 16) && decide (vc < 3) && decide (credits ≤ 4096) && decide (ack < 65536)
  | .nak group fseq => decide (group < 16) && decide (fseq < 65536)
  | .align group lane marker _ => decide (group < 16) && decide (lane < 16) && decide (marker < 65536)
  | .lanectlRemove group mask => decide (group < 16) && decide (mask < 65536)
  | .lanectlAdd group mask marker => decide (group < 16) && decide (mask < 65536) && decide (marker < 65536)
  | .lanectlAck group mask => decide (group < 16) && decide (mask < 65536)
  | .lanectlDrain group => decide (group < 16)
  | .laneLost group lane => decide (group < 16) && decide (lane < 16)
  | .groupDrain group => decide (group < 16)
  | .north _ => true
  | .south _ => true
  | .fsyncLoss port => decide (port < 16)
  | .fsyncOk port => decide (port < 16)
  | .sramReadError _ => true
  | .sramWriteBack _ _ _ => true
  | .rowRepaired _ _ => true
  | .badgerPass _ => true
  | .dramReadError _ => true
  | .patrolScrub chan _ => decide (chan < 3)
  | .ecsRead chan _ => decide (chan < 3)
  | .migrate chan => decide (chan < 3)
  | .migrated => true
  | .repairAction chan => decide (chan < 3)
  | .pprComplete _ => true
  | .sealMiss => true
  | .heartbeatMiss => true
  | .stage flash _ => decide (flash < 2)
  | .stagedReady => true
  | .arm _ => true
  | .fwHandover => true
  | .fwRelease => true
  | .erase flash => decide (flash < 2)
  | .burst b => b.wf
  | .burstTo b _ _ => b.wf
  | .registerWrite _ _ size _ => widthOk size
  | .rcRead _ _ size => widthOk size
  | .mailboxLastRead _ _ size => widthOk size
  | .mailboxCaptureDone _ _ => true
  | .slowWriteEffect block => decide (block < 112)
  | .cntSelSnap _ ctx => decide (ctx < 4096)
  | .silSelSnap _ slot => decide (slot < 32)
  | .oselSnap _ out => decide (out < 4096)
  | .mselSnap _ entry => decide (entry < 16)
  | .dselSnap _ chan => decide (chan < 3)
  | .cntCtlSnap _ port => decide (port < 48)
  | .histSnap _ block => decide (block < 112)
  | .clear _ block => decide (block < 112)
  | .force _ block _ => decide (block < 112)
  | .intStatRead _ block => decide (block < 112)
  | .faultPoll => true
  | .errPulseEnd => true
  | .holdRelease _ => true
  | .holdSet _ => true
  | .frst0 _ _ => true
  | .frst1Go _ target => decide (target < 64)
  | .frstDone func => resettable func
  | .frstFail func => resettable func
  | .shadowClose func => resettable func
  | .switch dom _ => decide (dom < 17)
  | .domainOn dom => decide (dom < 17)
  | .avsEvaluation _ => true
  | .regulatorPoll _ => true
  | .thermalRead temps => decide (temps.length = 20)
  | .thermTrip => true
  | .vmonWarn rail _ => decide (rail < 9)
  | .tw0Transaction _ => true
  | .tw0Retry _ => true
  | .twTimeout => true
  | .twBusStuck _ => true
  | .tw1RegRd addr => decide (addr < 65536)
  | .tw1RegWr addr _ _ => decide (addr < 65536)
  | .stat => true
  | .opWake _ _ => true
  | .opResume _ _ => true
  | .tw1BufWr off _ _ => decide (off < 512)
  | .tw1DictGo _ _ => true
  | .tw1BufRd off _ => decide (off < 512)
  | .tw1Timeout => true
  | .attn => true
  | .tw1TimingSwitch => true
  | .hostpRegRd _ _ _ => true
  | .hostpRegWr _ _ _ => true
  | .status _ => true
  | .hostpBufWr _ _ _ => true
  | .hostpBufRd _ _ _ => true
  | .hostpDictGo _ _ => true
  | .helloSend => true
  | .dpllUpdate _ => true
  | .tdmFrame port _ _ _ => decide (port < 16)
  | .domainOff dom => decide (dom < 17)
  | .xoInValid => true
  | .pfcPauseExpiry port _ => decide (port < 32)
  | .credentialExpiry _ => true

end Sys2Proof
end

