-- ==== Sys2Proof/Decode.lean ====
section
/-! DEFINITION. The words of cluster programs (R146-R149, R152, R159), and the words that the opcode table spells: none, since the table gives no
row any bits. -/

namespace Sys2Proof

/-- The command that a word spells by the bits of spec/opcode_table.json: the table gives none of its rows bits. -/
def decodeTableWord (_nbits _w : Nat) : Option Instr := none

/-! ### Cluster instructions -/

/-- Bits `hi` to `lo` of an instruction word. -/
def wordBits (w : BitVec 64) (hi lo : Nat) : Nat := w.toNat / 2 ^ lo % 2 ^ (hi + 1 - lo)

/-- An instruction of a format whose reserved body bits are zero. -/
def ifClear (reserved : Nat) (i : Option Instr) : Option Instr := if reserved = 0 then i else none

/-- The effective address of FMT 5 (R149). -/
def decodeEA (w : BitVec 64) : Option EA :=
  let x := wordBits w 14 0
  let sx : Int := (BitVec.ofNat 15 x).toInt
  let pn := wordBits w 20 17
  match wordBits w 16 15 with
  | 0 => if x < 8 then some ⟨pn, .postM x⟩ else none
  | 1 => some ⟨pn, .postImm sx⟩
  | 2 => some ⟨pn, .offset sx⟩
  | _ => if x = 0 then some ⟨pn, .postInc⟩ else none

/-- The loads of FMT 4 (R147, R155): two loads name different pointers and different destinations. -/
def decodeLoads (w : BitVec 64) : Option DualLoads :=
  let a : Option DualLoad := if wordBits w 40 40 = 1 then some ⟨wordBits w 39 35, wordBits w 34 31, wordBits w 30 28⟩ else none
  let b : Option DualLoad := if wordBits w 27 27 = 1 then some ⟨wordBits w 26 22, wordBits w 21 18, wordBits w 17 15⟩ else none
  if (DualLoads.mk a b).wf then some ⟨a, b⟩ else none

/-- CTRL (R147, R152). -/
def decodeCtrl (cl : Nat) (w : BitVec 64) : Option Instr :=
  let target := wordBits w 47 33
  let cnt := wordBits w 32 17 + 1
  ifClear (wordBits w 12 0) <| if 8 < wordBits w 53 50 ∨ 2 < wordBits w 49 48 then none else match wordBits w 59 54 with
  | 0x00 => some (.nop cl)
  | 0x01 => some (.br cl (wordBits w 53 50) (wordBits w 49 48) target)
  | 0x02 => some (.call cl target)
  | 0x03 => some (.ret cl)
  | 0x04 => some (.reti cl)
  | 0x05 => some (.trap cl)
  | 0x06 => some (.ends cl)
  | 0x07 => some (.loop cl cnt target)
  | 0x08 => some (.loopp cl (wordBits w 16 13) target)
  | 0x09 => some (.rpt cl cnt)
  | 0x0A => some (.leave (.loop cl))
  | 0x0B => some (.di cl)
  | 0x0C => some (.ei cl)
  | _ => none

/-- ALU (R147): COND is SEL's alone; a search names an even Dd (R157). -/
def decodeAlu (cl : Nat) (w : BitVec 64) : Option Instr :=
  let i : CI := ⟨cl, .ok⟩
  let dd := wordBits w 53 49
  let da := wordBits w 48 44
  let db := wordBits w 43 39
  let cond := wordBits w 38 35
  let op := wordBits w 59 54
  let even (x : Instr) : Option Instr := if dd % 2 = 0 then some x else none
  ifClear (wordBits w 34 0 + if op = 0x0C then 0 else cond) <| match op with
  | 0x00 => some (.add i dd da db)
  | 0x01 => some (.sub i dd da db)
  | 0x02 => some (.neg i dd da)
  | 0x03 => some (.abs i dd da)
  | 0x04 => some (.and i dd da db)
  | 0x05 => some (.or i dd da db)
  | 0x06 => some (.xor i dd da db)
  | 0x07 => some (.not i dd da)
  | 0x08 => some (.asl i dd da db)
  | 0x09 => some (.asr i dd da db)
  | 0x0A => some (.lsr i dd da db)
  | 0x0B => some (.cmp i da db)
  | 0x0C => if cond ≤ 8 then some (.sel i dd da db cond) else none
  | 0x0D => some (.min i dd da db)
  | 0x0E => some (.max i dd da db)
  | 0x0F => some (.mpyr i dd da db)
  | 0x10 => some (.mov i dd db)
  | 0x11 => even (.maxi i dd da db)
  | 0x12 => even (.mini i dd da db)
  | 0x13 => even (.rmax i dd da)
  | 0x14 => even (.rmin i dd da)
  | 0x15 => some (.rnd i dd)
  | 0x16 => some (.lid i dd)
  | 0x17 => some (.rdflg i dd)
  | 0x18 => some (.clrflg i (db % 16))
  | _ => none

/-- ALUI (R147). -/
def decodeAlui (cl : Nat) (w : BitVec 64) : Option Instr :=
  let i : CI := ⟨cl, .ok⟩
  let dd := wordBits w 53 49
  let da := wordBits w 48 44
  let imm := w.setWidth 32
  ifClear (wordBits w 43 32) <| match wordBits w 59 54 with
  | 0x00 => some (.aluiAdd i dd da imm)
  | 0x01 => some (.aluiSub i dd da imm)
  | 0x04 => some (.aluiAnd i dd da imm)
  | 0x05 => some (.aluiOr i dd da imm)
  | 0x06 => some (.aluiXor i dd da imm)
  | 0x08 => some (.aluiAsl i dd da imm)
  | 0x09 => some (.aluiAsr i dd da imm)
  | 0x0A => some (.aluiLsr i dd da imm)
  | 0x0B => some (.aluiCmp i da imm)
  | 0x0D => some (.aluiMin i dd da imm)
  | 0x0E => some (.aluiMax i dd da imm)
  | 0x10 => some (.aluiMov i dd imm)
  | _ => none

/-- ACC (R147, R154): LDA shifts by at most 48. -/
def decodeAcc (cl : Nat) (w : BitVec 64) : Option Instr :=
  let i : CI := ⟨cl, .ok⟩
  let an := wordBits w 53 51
  let am := wordBits w 50 48
  let dx := wordBits w 47 43
  let dy := wordBits w 42 38
  let sh := wordBits w 37 32
  ifClear (wordBits w 30 0) <| match wordBits w 59 54 with
  | 0x00 => some (.mpy i an dx dy)
  | 0x01 => some (.mac i an dx dy)
  | 0x02 => some (.msu i an dx dy)
  | 0x03 => some (.clra i an)
  | 0x04 => some (.mova i an am)
  | 0x05 => some (.adda i an am)
  | 0x06 => some (.suba i an am)
  | 0x07 => if sh ≤ 48 then some (.lda i an dx sh) else none
  | 0x08 => some (.asla i an sh)
  | 0x09 => some (.asra i an sh)
  | 0x0A => some (.sav i dx an sh (wordBits w 31 31 == 1))
  | 0x0B => some (.nega i an)
  | _ => none

/-- DUAL (R147, R155). -/
def decodeDual (cl : Nat) (w : BitVec 64) : Option Instr :=
  let i : CI := ⟨cl, .ok⟩
  let an := wordBits w 53 51
  let dx := wordBits w 50 46
  let dy := wordBits w 45 41
  ifClear (wordBits w 14 0) <| (decodeLoads w).bind fun l => match wordBits w 59 54 with
  | 0x00 => some (.ldd i l)
  | 0x01 => some (.mpyl i an dx dy l)
  | 0x02 => some (.macl i an dx dy l)
  | 0x03 => some (.msul i an dx dy l)
  | _ => none

/-- MEM (R147, R149). -/
def decodeMem (cl : Nat) (w : BitVec 64) : Option Instr :=
  let dd := wordBits w 53 49
  ifClear (wordBits w 48 21) <| (decodeEA w).bind fun e => match wordBits w 59 54 with
  | 0x00 => some (.ld cl dd e)
  | 0x01 => some (.st cl dd e)
  | 0x02 => some (.modp cl e)
  | _ => none

/-- MOVE (R147, R148): codes above 0x4C are reserved, and ISRC is no destination. -/
def decodeMove (cl : Nat) (w : BitVec 64) : Option Instr :=
  let dst := wordBits w 53 47
  let src := wordBits w 46 40
  ifClear (wordBits w 39 24) <| if 0x4C ≤ dst ∨ 0x4C < src then none else match wordBits w 59 54 with
  | 0x00 => some (.mvr cl dst src)
  | 0x01 => some (.mvi cl dst (wordBits w 23 0))
  | _ => none

/-- The instruction of a cluster that a 64-bit word of its program holds (R146): FMT selects the format, OP the operation; none for reserved codes,
for reserved body bits that are not zero, and for what R148, R152, R154, R155 and R157 forbid (log 157). -/
def decodeCluster (cl : Nat) (w : BitVec 64) : Option Instr :=
  match wordBits w 63 60 with
  | 0 => decodeCtrl cl w
  | 1 => decodeAlu cl w
  | 2 => decodeAlui cl w
  | 3 => decodeAcc cl w
  | 4 => decodeDual cl w
  | 5 => decodeMem cl w
  | 6 => decodeMove cl w
  | _ => none

/-- The opcode of a word: FMT x 64 + OP (R146). -/
def opcodeOf (w : BitVec 64) : Nat := wordBits w 63 60 * 64 + wordBits w 59 54

end Sys2Proof
end

