-- ==== Sys2Proof/Machine/State.lean ====
section
/-! DEFINITION. The state of the engine as plain data, its reset, and the names of its faults and refusals. -/

namespace Sys2Proof.Machine

/-- Classes of events (R479). -/
inductive EvClass where
  | c | u | f
  deriving DecidableEq, Repr

/-- One history entry (R490-R493). -/
structure HistEntry where
  code : Nat
  cls : EvClass
  conseq : Bool
  forced : Bool
  polled : Bool
  persist : Bool
  func : Nat
  stamped : Bool
  stamp : Nat
  detail : Nat
  deriving DecidableEq, Repr

/-- One mailbox copy (R470): the last capture, VALID, and the words of a running capture. -/
structure Mailbox where
  valid : Bool := false
  capturing : Option (List Word) := none
  data : List Word := []
  deriving DecidableEq, Repr

/-- The two copies of a mailbox (R470): one for the Vesper cores and the control DMA, one for HOSTP. -/
structure Mailboxes where
  core : Mailbox := {}
  host : Mailbox := {}
  deriving DecidableEq, Repr

/-- A posted write to a SLOW register (R471). -/
structure SlowWrite where
  off : Nat
  val : Word
  deriving DecidableEq, Repr

/-- The common registers of one block (R581-R584, R487-R494). -/
structure Common where
  intStat : Word := 0
  intEn : Word := 0xFFFF001E
  forceReact : Bool := false
  histIdx : Nat := 0
  hist : List HistEntry := []
  dropped : Nat := 0
  cntC : Word := 0
  cntU : Word := 0
  cntF : Word := 0
  cfgRej : Bool := false
  overrun : Bool := false
  pwrRej : Bool := false
  histMail : Mailboxes := {}
  slowQ : List SlowWrite := []
  deriving DecidableEq, Repr

/-- Engine states, codes of R27. -/
inductive EState where
  | dawn | morning | noon | dusk | night
  deriving DecidableEq, Repr

/-- A running ERR_N pulse (R495, R497): the PW it runs for and whether it ends in HOLD. -/
structure ErrPulse where
  pw : Nat
  hold : Bool
  deriving DecidableEq, Repr

/-- A condition a shadowed detector has reported, to be re-examined at the close (R504). -/
structure HeldCond where
  blk : Nat
  ev : Nat
  detail : Nat
  deriving DecidableEq, Repr

/-- An open reset shadow (R501): function code, tick of its opening, ticks it lasts (none: timed in ms), what its close re-examines, the
blocks downstream of the function (R503), and the functions whose shadows closed while it was open, with theirs (R505). -/
structure Shadow where
  func : Nat
  openTick : Nat
  ticks : Option Nat
  held : List HeldCond
  down : List Nat := []
  before : List (Nat × List Nat) := []
  deriving DecidableEq, Repr

/-- A running per-function reset (R498-R503). -/
structure FnReset where
  func : Nat
  startTick : Nat
  deriving DecidableEq, Repr

/-- A scene slot (R276-R281): header, entries, and a store or check that is running. -/
structure SceneSlot where
  valid : Bool := false
  stale : Bool := false
  storeTick : Nat := 0
  gen : Nat := 0
  entries : List EWrite := []
  running : Bool := false
  captured : Option (List EWrite) := none
  capturedGen : Nat := 0
  /-- Tick of the store that runs, and the REQID and SESSION of its request, or of the check's (R272, R277). -/
  capturedTick : Nat := 0
  origin : Nat := 0
  session : Nat := 0
  /-- The store that runs was applied late (R266). -/
  late : Bool := false
  deriving DecidableEq, Repr

/-- One flash copy of the configuration store (R562). -/
structure CfgCopy where
  gen : Nat
  valid : Bool
  vals : Tab Val
  slots : Tab SceneSlot
  /-- The images of the work sets and the golden workloads, by digest. -/
  images : Tab Image := []
  golden : List Nat := []
  deriving DecidableEq, Repr

/-- TOP (R585-R589, R495-R505, R27-R30, R562-R577). -/
structure Top where
  state : EState := .dawn
  prev : EState := .dawn
  cause : Nat := 0
  stateTick : Nat := 0
  remap : Bool := false
  inReset : Bool := true
  errPw : Nat := 0x64
  errUen : Bool := false
  errFhold : Bool := true
  errHold : Bool := false
  errPulse : Option ErrPulse := none
  frstTarget : Nat := 0
  frstRej : Bool := false
  resets : List FnReset := []
  resetQ : List Nat := []
  shadows : List Shadow := []
  frstHeld : List Nat := []
  absent : List Nat := []
  duskTicks : Nat := 0
  nightDeep : Bool := false
  leaveAt : Option Nat := none
  classF : Bool := false
  /-- Class F events of this Night, by block and number (R29, R575). -/
  nightF : List (Nat × Nat) := []
  /-- Ticks that set the fault flag of R350, newest first. -/
  faults : List Nat := []
  /-- Class U events and failed self-tests (by the bits of R351) since the last HEALTH. -/
  uev : Nat := 0
  selfFail : Nat := 0
  booted : Bool := false
  cfgReady : Bool := false
  timeLocked : Bool := false
  saveRun : Bool := false
  /-- The tick a waiting SAVE names. -/
  saveQ : Option Nat := none
  saveCopy : Option CfgCopy := none
  /-- The tick whose commit a running save waits for before it captures (R564). -/
  saveFor : Option Nat := none
  result : Nat := 0
  cfgGen : Nat := 0
  dawnMs : Nat := 0
  cfgA : Option CfgCopy := none
  cfgB : Option CfgCopy := none
  /-- A RESUME that waits for the end of a REPAIR or SAVE (R575), with what its self-tests find. -/
  resumeWaits : Option DawnResult := none
  deriving DecidableEq, Repr

/-- Firmware and bus matrix (R455-R478). -/
structure Fab where
  primary : Nat := 0
  stby : Nat := 0
  handover : Option Nat := none
  watchEnd : Option Nat := none
  sealMiss : Nat := 0
  berrAddr : Nat := 0
  berrMaster : Nat := 0
  berrTarget : Nat := 0
  berrWrite : Bool := false
  berrCause : Nat := 0
  berrCount : Nat := 0
  btoMaster : Nat := 0
  btoTarget : Nat := 0
  btoStall : Bool := false
  btoDone : Nat := 0
  btoCount : Nat := 0
  stage : Nat := 0
  fwHandover : Nat := 0
  runGen : Nat := 0
  stagedGen : Nat := 0
  stagedFlash : Nat := 0
  stagedSecVer : Nat := 0
  /-- The image a parked core keeps (R458): GEN, flash, SEC_VER. -/
  oldGen : Nat := 0
  oldFlash : Nat := 0
  oldSecVer : Nat := 0
  runFlash : Nat := 0
  runSecVer : Nat := 0
  coreHeld : Option Nat := none
  pagesA : Tab (List Byte) := []
  pagesB : Tab (List Byte) := []
  ctrlSram : List Host.Cell := []
  hall : List Host.Cell := []
  deriving DecidableEq, Repr

/-! ### Clusters (chapters 04 and 05) -/

/-- A result in a D register that later instructions do not all see yet (R118): `age` counts the instructions issued
since its producer; `late` marks loads, A-to-D conversions, RND and RDFLG. -/
structure InFlight where
  reg : Nat
  val : Word
  late : Bool
  age : Nat
  deriving DecidableEq, Repr

/-- The three condition flags of a lane (R144). -/
structure Flags where
  z : Bool := false
  n : Bool := false
  v : Bool := false
  deriving DecidableEq, Repr

/-- The four sticky flags of a lane (R119). -/
structure Sticky where
  ovg : Bool := false
  sat : Bool := false
  circ : Bool := false
  addr : Bool := false
  deriving DecidableEq, Repr

/-- One lane (R144): registers, flags, noise state, its LMEM bank, the PARAM copy that is not presented (R115) and its results in flight.
`fhist` holds the flags after each of the last three instructions, newest first, for conditional branches (R118). -/
structure Lane where
  d : Tab Word := []
  a : Tab (BitVec 80) := []
  fl : Flags := {}
  st : Sticky := {}
  noise : BitVec 64 := 0
  lmem : List Host.Cell := []
  par : List Host.Cell := []
  flight : List InFlight := []
  fhist : List Flags := []
  deriving DecidableEq, Repr

/-- A saved loop (R161): LC, LS, LE and the loop-active bit. -/
structure LoopFrame where
  lc : Nat
  ls : Nat
  le : Nat
  active : Bool
  deriving DecidableEq, Repr

/-- A write to a shared register that is not visible yet (R118, R158). -/
structure SharedFlight where
  code : Nat
  val : Nat
  age : Nat
  deriving DecidableEq, Repr

/-- What an interrupt entry saves (R165, R167). -/
structure SavedCtx where
  idx : Nat
  flags : List Flags
  sticky : List Sticky
  fhist : List (List Flags)
  flight : List (List InFlight)
  shared : List SharedFlight
  /-- The D registers of the lanes and the shared registers, without the results that are still in flight. -/
  d : List (Tab Word)
  sh : Tab Nat
  /-- LC, LS, LE, the loop-active bit and the loop stack. -/
  loop : LoopFrame
  loops : List LoopFrame
  deriving DecidableEq, Repr

/-- What follows the two delay slots of a control instruction (R151, R118); `fall`: a branch not taken. -/
inductive AfterSlots where
  | target (idx : Nat)
  | fall
  | ends
  | reti
  deriving DecidableEq, Repr

/-- What CLn.ROLE and CLn.LOAD show: the values at the last tick boundary (R136, R137). -/
structure ClusterSeen where
  role : Nat := 0
  wset : Nat := 0
  wsv : Bool := false
  phase : Nat := 0
  matchCnt : Nat := 0
  cycles : Nat := 0
  replays : Nat := 0
  deriving DecidableEq, Repr

/-- One cluster (R110-R172).  `sh` holds the shared registers under their codes of R148. -/
structure Cluster where
  role : Nat := 0
  wset : Nat := 0
  wsv : Bool := false
  phase : Nat := 0
  matchCnt : Nat := 0
  mismatches : Nat := 0
  spinSrc : Nat := 0
  spinForced : Bool := false
  /-- The tick in which a running spare-in became FORCED (R129, R134). -/
  forcedAt : Nat := 0
  /-- SRC and FORCED of CLn.SPIN (R140). -/
  regSrc : Nat := 0
  regForced : Bool := false
  spinStart : Bool := false
  spinAbandon : Bool := false
  spinTick : Nat := 0
  spinRotation : Bool := false
  /-- A commit met a step that ran past its tick: new parameters, or a new image, wait for its end (R116, R125). -/
  parDue : Bool := false
  loadDue : Bool := false
  cycles : Nat := 0
  replays : Nat := 0
  peak : Nat := 0
  hostOvg : Word := 0
  hostSat : Word := 0
  hostCirc : Word := 0
  hostAddr : Word := 0
  stPass : Nat := 0
  march : Nat := 0
  stFail : Bool := false
  ik : Bool := false
  replayTicks : Tab (List Nat) := []
  lanes : List Lane := List.replicate 32 {}
  cmem : List Host.Cell := []
  /-- The copy of the DYNAMIC parts of CMEM that is not presented (R115). -/
  cpar : List Host.Cell := []
  imem : List Host.Cell := []
  sh : Tab Nat := []
  loopActive : Bool := false
  loopStack : List LoopFrame := []
  /-- IK mode: outer loops that LOOP has overwritten, and which of LC, LS and LE a program has written since the loop ended (R172). -/
  ikOuter : Nat := 0
  ikWritten : Nat := 0
  sharedFlight : List SharedFlight := []
  pc : Nat := 0
  after : Option AfterSlots := none
  slots : Nat := 0
  rpt : Nat := 0
  stepping : Bool := false
  stepNo : Nat := 0
  ended : Bool := false
  mask : Bool := false
  pend : Nat := 0
  handler : Bool := false
  afterReti : Bool := false
  saved : Option SavedCtx := none
  issued : Nat := 0
  spareSince : Nat := 0
  /-- The cluster becomes FAULTY when a spare-in releases it (R432). -/
  condemned : Bool := false
  img : Image := {}
  /-- The steps whose IN region is complete in this tick, and how many steps have ended in it (R116). -/
  inFull : List Nat := []
  stepsRun : Nat := 0
  /-- The tick of PROCESS that the running step, or the last one, belongs to. -/
  stepTick : Nat := 0
  /-- The samples that the ended steps of the tick left for each output slot (R133). -/
  outs : Tab (List Int) := []
  /-- The tick event was out of sequence: no step starts until the next (R20). -/
  idle : Bool := false
  /-- Golden replay runs in this tick (R132). -/
  golden : Bool := false
  seen : ClusterSeen := {}
  deriving DecidableEq, Repr

/-- A work set (R110, R115, R116, R126, R129): the image in hall memory, its seed, its containment, and whether its STATE was all zero after the
last completed PROCESS (R206). -/
structure WorkSet where
  img : Image := {}
  seed : BitVec 64 := 0
  zeroOut : Bool := false
  stateWas : Bool := true
  deriving DecidableEq, Repr

/-! ### Channel switch (chapters 02 and 03) -/

/-- The samples of one context or slot for one tick, sample-major: index k * nch + c.  `side` keeps bits [7:0] of each
AES3 subframe (R86). -/
structure TickData where
  nch : Nat
  samples : List Int
  side : List Nat := []
  deriving DecidableEq, Repr

/-- The media frame in force for a tick (R48), with what its twin and its displacement need. -/
structure InForce where
  tick : Nat
  epoch : Nat
  arrival : Nat
  data : TickData
  silent : Bool
  deriving DecidableEq, Repr

/-- One copy seen of a frame on one network (R95-R97): its tick, its label (tick, or sample of a direct frame), EPOCH, network and
arrival; whether it was late, and whether it failed a check. -/
structure CopySeen where
  tick : Nat
  label : Nat
  epoch : Nat
  netB : Bool
  arrival : Nat
  late : Bool
  failed : Bool := false
  deriving DecidableEq, Repr

/-- Samples of an RTP context collected for a tick (R73): position, channel-major list of one sample each. -/
structure RtpTick where
  tick : Nat
  got : Tab (List Int)
  deriving DecidableEq, Repr

/-- The run-time record of a stream context. -/
structure Ctx where
  cnt : Tab Word := []
  seq0 : Option Nat := none
  seq1 : Option Nat := none
  egSeq : Nat := 0
  /-- Frames accepted for ticks whose cutoff has not passed: one for each distinct EPOCH, up to two for a tick (R48, R343). -/
  inForce : List InForce := []
  /-- The early buffer: a frame for the current tick (R46). -/
  early : List InForce := []
  copies : List CopySeen := []
  /-- Ticks for which a frame was dropped as LATE or EARLY (R47), and the newest counting tick of the run already reported. -/
  dropped : List Nat := []
  runRaised : Option Nat := none
  missA : Nat := 0
  missB : Nat := 0
  downA : Bool := false
  downB : Bool := false
  both : Nat := 0
  rtp : List RtpTick := []
  /-- RTP packets seen (R94, R96): sequence number, timestamp, arrival. -/
  rtpSeen : List (Nat × Nat × Nat) := []
  /-- The newest sequence number of them (R96). -/
  rtpNewest : Option Nat := none
  /-- Control frames accepted (R614): ENGINE, EPOCH, TICK, SEQ. -/
  ctlSeen : List (Nat × Nat × Nat × Nat) := []
  /-- SILENCE_MAP of recent frames by tick and EPOCH (R67). -/
  silence : List (Nat × Nat × List Bool) := []
  /-- EPOCH of the frame accepted for the most recent PRESENT tick (R343). -/
  epochCur : Option Nat := none
  /-- Egress RTP: payload samples since the last packet boundary (R74). -/
  rtpBuf : List Int := []
  /-- The commit ticks at which the context last became valid and last ceased to be (Fox of chapter 03: the frames a CUTTHRU context forwards). -/
  validFrom : Nat := 0
  validTo : Nat := 0
  deriving DecidableEq, Repr

/-- A direct sample held for one context and sample number (R91). -/
structure DirectHeld where
  ctx : Nat
  sample : Nat
  epoch : Nat := 0
  vals : List Int
  /-- Bits [7:0] of each AES3 subframe (R51, R86). -/
  side : List Nat := []
  deriving DecidableEq, Repr

/-- CSW (R75-R109, R45-R48). -/
structure Csw where
  ctx : Tab Ctx := []
  /-- Gather bank: KIND 0 by context, KIND 1 by TDM channel; the key is tick * 8192 + (context, or 4096 + channel). -/
  gather : Tab TickData := []
  /-- PRESENT contexts of each tick whose cutoff has passed (R47). -/
  present : Tab (List Nat) := []
  /-- Output bank: the key is tick * 8192 + slot. -/
  out : Tab (List Int) := []
  /-- The keys of the output bank that aligned outputs have written: their path holds the fixed alignment delay already (R70, R222). -/
  alnKeys : List Nat := []
  cutTick : Option Nat := none
  /-- Routes of the consumers, newest first (R79, R98): consumer, first tick, the route; none: the consumer is gone. -/
  routes : List (Consumer × Nat × Option Route) := []
  /-- Fades that hold a slot, and ended ones that a later stage of the pipeline still reads (R100, R41). -/
  fades : List Fade := []
  foxPast : List Fade := []
  fadeQ : List QueuedFade := []
  /-- The latest tick whose committed route changes Fox has taken. -/
  foxLast : Option Nat := none
  /-- A reset has ended every fade and every queued change: all routes are cut over at the next boundary (R617). -/
  foxCut : Bool := false
  /-- Contexts that a commit has made valid, or no longer valid, while CSW took no stage action (R20). -/
  ctxOwed : List (Nat × Bool) := []
  foxActive : Nat := 0
  foxOvf : Nat := 0
  cntSel : Nat := 0
  mail : Mailboxes := {}
  direct : List DirectHeld := []
  directBits : List (Nat × Nat × List Bool) := []
  /-- Structures that an uncorrectable word makes absent for the running tick (R427). -/
  hidden : List SramMem := []
  /-- The tick whose PROCESS runs, the units that have run in it, and the islands that take no part in it (R20, R22, R41). -/
  proc : Nat := 0
  ran : List Nat := []
  idle : List Nat := []
  /-- Blocks that raised OVERRUN for the tick whose EMIT started last (R22, R24). -/
  lateNow : List Nat := []
  /-- Direct frames of recent samples (R84, R348): context, label sample, payload. -/
  dirTx : List (Nat × Nat × List Byte) := []
  deriving DecidableEq, Repr

/-! ### Fixed units (chapters 06 and 07) -/

structure Mix where
  buses : Tab Bus := []
  satCnt : Word := 0
  ovgCnt : Word := 0
  busSat : Tab Word := []
  cycles : Nat := 0
  deriving DecidableEq, Repr

structure Dyn where
  insts : Tab DynInst := []
  cycles0 : Nat := 0
  cycles1 : Nat := 0
  grSel : Nat := 0
  grPeak : Int := 0
  deriving DecidableEq, Repr

structure Dp where
  ch : Tab DpCh := []
  /-- The last sample computed. -/
  done : Option Nat := none
  limAct : BitVec 64 := 0
  limNow : BitVec 64 := 0
  clip : BitVec 64 := 0
  late : Word := 0
  deriving DecidableEq, Repr

structure Aln where
  outs : Tab AlnOut := []
  satCnt : Word := 0
  clampCnt : Word := 0
  cycles : Nat := 0
  /-- The outputs clamped since their last capture (R245). -/
  clamped : List Nat := []
  osel : Nat := 0
  mail : Mailboxes := {}
  deriving DecidableEq, Repr

structure Sil where
  det : Tab Detector := []
  /-- Decisions of the detectors for recent ticks (R205): signal, tick, SILENT. -/
  log : List (Nat × Nat × Bool) := []
  /-- The detectors that were SILENT at the last tick boundary (R219). -/
  atTick : List Nat := []
  mon : Tab ZeroMon := []
  /-- The last tick whose cutoff decisions are made (R204, R206). -/
  decided : Option Nat := none
  sel : Nat := 0
  mail : Mailboxes := {}
  deriving DecidableEq, Repr

/-! ### Time and references (chapter 09) -/

/-- A compare unit (R288, R289, R316-R318). -/
structure Cmp where
  lo : Word := 0
  hi : Nat := 0
  per : Word := 0
  target : Nat := 0
  period : Nat := 0
  arm : Bool := false
  periodic : Bool := false
  intEn : Bool := false
  out : Nat := 0
  lateArm : Bool := false
  fired : Bool := false
  pw : Nat := 0x64
  deriving DecidableEq, Repr

/-- TIME (R285-R289, R309-R318).  The counter counts units of 2^-32 ns. -/
structure Time where
  counter : Nat := 0
  incInt : Nat := 2
  incFrac : Word := 0
  inc : Nat := 8589934592
  corr : Int := 0
  running : Bool := false
  /-- A tick event has come since the step (R567). -/
  ticked : Bool := false
  todSet : Bool := false
  tick : Nat := 0
  /-- The number in the last tick event that each island received (R20). -/
  last : Tab Nat := []
  snap : Mailboxes := {}
  cmps : Tab Cmp := []
  deriving DecidableEq, Repr

/-- One entry of the reference table (R296-R298, R320-R322).  `st` is the code of R320: 0 DISQUALIFIED, 1 QUALIFYING, 2 QUALIFIED,
3 SUSPECT, 4 SELECTED; `cause`: 1 LOS, 2 HARD, 3 SOFT, 4 DRIFT, 5 TIME_OFS. -/
structure RefEntry where
  st : Nat := 0
  cause : Nat := 0
  los : Bool := true
  qualMs : Nat := 0
  suspMs : Nat := 0
  recMs : Nat := 0
  wtr : Option Nat := none
  f : Int := 0
  drift : Int := 0
  phase : Int := 0
  tofs : Int := 0
  tofsLock : Bool := false
  /-- The rate of a word clock equals fs (R294). -/
  atFs : Bool := true
  deriving DecidableEq, Repr

/-- REFSEL (R290-R308, R319-R322).  `mode` is the code of R319; `hist` holds corr at the evaluations and whether they found the loop locked, newest
first, as runs (value, evaluations); `sinceSel` counts the evaluations since the entry in use was last SELECTED. -/
structure Refsel where
  entries : Tab RefEntry := []
  inUse : Option Nat := none
  mode : Nat := 0
  hoSpec : Bool := false
  hoMs : Nat := 0
  hoTrace : Bool := false
  switchTo : Option Nat := none
  held : Option Nat := none
  hist : List ((Int × Bool) × Nat) := []
  sinceSel : Nat := 0
  /-- corr as the loop wrote it, without realignment, and what FSLEW lets it move by, in 10^-12 of its unit (R300). -/
  loopCorr : Int := 0
  slewLeft : Nat := 0
  /-- The offset absorbed by a build-out that realignment has still to remove, in fs, and the rate it does so, in fs per ms (R301). -/
  buildOut : Int := 0
  realign : Int := 0
  /-- What REFSEL.SEL shows: the state at the last evaluation (R319). -/
  seenUse : Option Nat := none
  seenMode : Nat := 0
  seenSpec : Bool := false
  xoDis : Bool := false
  apllLocked : Bool := false
  msel : Nat := 0
  mail : Mailboxes := {}
  ptpTlv : List Byte := []
  ptpMaster : Option Nat := none
  deriving DecidableEq, Repr


/-! ### Security (chapter 11) -/

/-- A session (R372-R375, R263). -/
structure Session where
  id : Nat
  role : Nat
  kind : Nat := 0
  src : Nat := 0
  txSeq : Nat := 0
  rxHigh : Nat := 0
  rxSeen : List Nat := []
  used : Nat := 0
  slot : Nat := 0
  certId : Nat := 0
  notAfter : Nat := 0
  /-- The AES-256 keys of the session: host to engine, engine to host (R372). -/
  keyIn : List Byte := []
  keyOut : List Byte := []
  /-- The media port and the IP version of its last datagram. -/
  port : Nat := 0
  v6 : Bool := false
  deriving DecidableEq, Repr

/-- A media key slot (R378-R381) or a port's keys (R406): CUR, NEXT, SWITCH, the TICK field of the first frame under CUR and of the first
under NEXT, TICK units used (R380), the association number of CUR; of a port the packet numbers of the last frames sent and the highest ones
received, under CUR and under NEXT. -/
structure KeySlot where
  cur : List Byte := []
  next : List Byte := []
  switch : Nat := 0
  first : Option Nat := none
  nextFirst : Option Nat := none
  units : Nat := 0
  aged : Bool := false
  expired : Bool := false
  an : Nat := 0
  sentCur : Nat := 0
  sentNext : Nat := 0
  seenCur : Nat := 0
  seenNext : Nat := 0
  deriving DecidableEq, Repr

/-- A running grant (R386, R387, R393). -/
structure Grant where
  access : Nat
  role : Nat
  left : Nat
  deriving DecidableEq, Repr

/-- SEC, Hedgehog (R363-R394). -/
structure Sec where
  life : Nat := 0
  slot : Nat := 0
  used : Nat := 0
  secMin : Nat := 0
  ownerHash : Tab (List Byte) := []
  fuses : Nat := 3
  trngOk : Bool := false
  idkOk : Bool := false
  grant : Option Grant := none
  nonce : Option Nat := none
  receipt : List Byte := []
  challenge : Option Nat := none
  openFails : Nat := 0
  sessions : List Session := []
  useCtr : Nat := 0
  /-- Handshakes between REPLY and PROVE: session, source, requested role. -/
  handshakes : List (Nat × Nat × Nat) := []
  hsFail : Nat := 0
  /-- Failed handshakes of each source address in ms, and addresses ignored until a time in ms (R389). -/
  hsSrc : Tab (List Nat) := []
  hsIgnored : List (Nat × Nat) := []
  mirrorGen : Nat := 0
  mirrorNext : Option Nat := none
  /-- The mirror key, and the one agreed for tick `mirrorNext` (R377). -/
  mirrorKey : List Byte := []
  mirrorAgreed : List Byte := []
  /-- In Hedgehog SRAM since the power-up of PD_AON: the storage key and the private scalar of the identity key (R363). -/
  storageKey : List Byte := []
  idkScalar : List Byte := []
  /-- Boot ROM: SHA-256 of the Tolrid firmware root and of the Tolrid service key (R363). -/
  rootHash : List Byte := List.replicate 32 0
  serviceHash : List Byte := List.replicate 32 0
  /-- OTP of Tolrid (R363, R397): the wrapped scalar and what is public. -/
  idkWrapped : List Byte := List.replicate 32 0
  idkPub : List Byte := List.replicate 64 0
  devCert : List Byte := List.replicate 64 0
  baseMac : List Byte := List.replicate 6 0
  keys : Tab KeySlot := []
  portKeys : Tab KeySlot := []
  deriving DecidableEq, Repr
/-- What a frame of a mirror record carries (R340-R342): the whole frame as it goes out, or a record whose layout the spec leaves open (log 201). -/
inductive MirrorBody where
  | wire (bytes : List Byte)
  | join (j : JoinRec)
  | snap (c : Snap)
  | commit (units : List CUnit)
  deriving DecidableEq, Repr

/-- A frame, packet, record or pin action the last command put out of the engine. -/
inductive Emission where
  /-- A Kapo frame of an egress context: context, network B copy, EPOCH, TICK, SEQ, flags SILENT and FENCE, KEYID with AUTH, tag
  area, payload; and the frame as it goes out (R53, R55). -/
  | kapo (ctx : Nat) (netB : Bool) (epoch tick seq : Nat) (silent fence : Bool) (key : Option Nat) (tags payload wire : List Byte)
  | rtp (ctx : Nat) (netB : Bool) (ts seq : Nat) (payload wire : List Byte)
  | tdm (port : Nat) (words : List Int)
  | direct (ctx : Nat) (netB : Bool) (epoch sample seq : Nat) (key : Option Nat) (payload wire : List Byte)
  /-- A cut-through copy: egress context, network, its encapsulation, its Kapo bytes, ended with an inverted frame check sequence or not. -/
  | cut (ctx : Nat) (netB : Bool) (head bytes : List Byte) (stomped : Bool)
  | pfc (port pcp quanta : Nat)
  /-- A PTP message of a port: messageType, the clockClass and timeSource of an Announce, the transmit timestamp in ps that a one-step Sync, a
  Follow_Up or a response carries (R290, R291), and the contents of a metadata TLV. -/
  | ptp (port kind cls tsrc : Nat) (stamp : Int) (tlv : List Byte)
  | answer (port : Nat)
  /-- A membership report of a port for groups (R397). -/
  | report (port : Nat) (groups : List (List Byte))
  /-- The SecTAG of the frame that follows: port, association number, packet number (R406). -/
  | secTag (port an pn : Nat)
  /-- A dictionary or handshake response: path key, REQID, status, body. -/
  | response (path reqid status : Nat) (body : List Byte)
  /-- A block-link control: group, type byte of R407, contents. -/
  | block (group ty : Nat) (vals : List Nat)
  /-- A Kapo frame of a mirror record (R341): its header, and the frame or what it carries. -/
  | mirror (head : List Byte) (body : MirrorBody)
  /-- An Owl message (R337, R338): the network it leaves on, the engine it goes to, the UDP port, its header and body. -/
  | owl (netB : Bool) (dst udp : Nat) (msg : List Byte)
  /-- A two-wire or host-port reply, or a PMBus transaction. -/
  | bus (data : List Byte)
  /-- A read response of the bus matrix, by width in bytes. -/
  | data (vals : List Nat)
  /-- An error response of the bus matrix (R462). -/
  | busError
  /-- A pin action: 0 ERR_N, 1 ATTN_N, 2 THERM_N. -/
  | pin (which : Nat) (low : Bool)
  /-- A pulse on a clock output in PULSE mode: its length in µs (R288). -/
  | pulse (out us : Nat)
  deriving DecidableEq, Repr


/-- What one egress context sends in a stage (R43, R84): the frame still without EPOCH and SEQ, or RTP packets with their first
sample numbers, and the bytes its Lynx CRC covers (R348). -/
structure StageOut where
  ctx : Nat
  label : Nat
  silent : Bool := false
  tags : List Byte := []
  payload : List Byte := []
  packets : List (Nat × List Byte) := []
  lynx : List Byte := []
  deriving DecidableEq, Repr

/-! ### Pair and Owl (chapter 10) -/

/-- A verdict record received or made for a tick (R343). -/
structure VerdictHeld where
  tick : Nat
  present : List Nat
  epochs : List (Nat × Nat)
  directs : List (Nat × List Bool)
  deriving DecidableEq, Repr

/-- What PAIR.ROLE shows: the values at the last tick boundary (R357). -/
structure PairSeen where
  role : Nat := 0
  prov : Bool := false
  fenced : Bool := false
  standby : Bool := false
  noOwl : Bool := false
  inSync : Bool := false
  rejoin : Nat := 0
  epoch : Nat := 0
  deriving DecidableEq, Repr

/-- PAIR (R324-R362). -/
structure Pair where
  role : Nat := 0
  prov : Bool := false
  fenced : Bool := false
  standby : Bool := false
  noOwl : Bool := false
  inSync : Bool := false
  rejoin : Nat := 0
  epoch : Nat := 0
  /-- L_M and L_O of the last 16 ticks, newest first (R358). -/
  lm : List Nat := []
  lo : List Nat := []
  streak : Nat := 0
  mism : Nat := 0
  /-- Impaired ticks among the last 64 (R344, R360). -/
  impTicks : List Nat := []
  impTotal : Nat := 0
  /-- The latest LEASE received: tick, expiry E (R330). -/
  lease : Option (Nat × Nat) := none
  /-- The latest STANDBY received: tick, EPOCH e + 1 (R329, R331). -/
  standbyRx : Option (Nat × Nat) := none
  /-- A GRANT: its EPOCH, and h or 0 (R332, R336). -/
  grant : Option (Nat × Nat) := none
  /-- The latest STATUS received: tick, STANDBY, TAKE; the tick of the last one with IN_SYNC (R330). -/
  status : Option (Nat × Bool × Bool) := none
  lastSync : Option Nat := none
  /-- The last STATUS received had IN_SYNC = 1, and the partner has not asked to join since (R350). -/
  mateSync : Bool := false
  /-- The tick of the last STATUS sent with STANDBY = 1 (R331). -/
  stbySent : Option Nat := none
  beacon : Option Nat := none
  fenceB : Option Nat := none
  /-- The boundary whose b + W has passed (R331, R356). -/
  waitOver : Option Nat := none
  handoverAt : Option Nat := none
  verdicts : List VerdictHeld := []
  tdmRec : List Nat := []
  commitRec : List Nat := []
  /-- Streams asked for in MISS and repaired, by tick and context (R343, R344). -/
  asked : List (Nat × Nat) := []
  repaired : List (Nat × Nat) := []
  /-- The frames of the stage a SHADOW holds back, and the stage's boundary (R325, R331). -/
  held : List StageOut := []
  heldAt : Nat := 0
  /-- Own and received LYNX records by output label, and the outcomes of the last 64 ticks, newest first: 0 MATCH, 1 MISMATCH,
  2 ABSENT (R349, R350). -/
  lynxOwn : Tab (List Word) := []
  lynxGot : Tab (List Word) := []
  lynxHist : List Nat := []
  /-- The output label of the newest outcome. -/
  lynxLabel : Nat := 0
  lynxLostAt : Option Nat := none
  /-- Ticks of the last mirror record, and of the last LEASE, STANDBY or GRANT (R352, R355). -/
  mirrorTick : Nat := 0
  owlTick : Nat := 0
  joinS : Option Nat := none
  snap : Option Snap := none
  snapEnd : Nat := 0
  caught : Bool := false
  matchRun : Nat := 0
  retries : Nat := 0
  capturing : Option Nat := none
  timingRun : Nat := 0
  /-- σ as last measured, in ns (R333, R351). -/
  skew : Nat := 0
  /-- The pair was refused (R324). -/
  refused : Bool := false
  /-- The highest EPOCH seen of a token (R327, R339). -/
  epochSeen : Nat := 0
  /-- Owl messages taken, newest first: FROM, MTYPE, TICK (R337). -/
  owlSeen : List (Nat × Nat × Nat) := []
  /-- Parts of mirror records that are not whole yet: type, tick, part, payload (R341). -/
  parts : List (Nat × Nat × Nat × List Byte) := []
  rekey : Option Nat := none
  seen : PairSeen := {}
  deriving DecidableEq, Repr

/-- What the Owl knows of one engine of a pair it serves (R327, R332, R352, R569). -/
structure OwlEngine where
  epoch : Nat := 0
  /-- Code of HELLO: 0 ACTIVE, 1 SHADOW, 2 ready, 3 not ready. -/
  code : Nat := 3
  inSync : Bool := false
  beatTick : Option Nat := none
  prov : Bool := false
  lynxLost : Bool := false
  fault : Bool := false
  healthTick : Option Nat := none
  lynxMatch : Nat := 0
  impaired : Nat := 0
  selfTest : Nat := 0
  /-- L_M and L_O, and σ and L_M, keep the limits of R333, by the last BEAT and the last HEALTH. -/
  limitsOk : Bool := true
  healthOk : Bool := true
  /-- PARTNER_LOST has been raised since this engine last had STANDBY (R332). -/
  lost : Bool := false
  deriving DecidableEq, Repr

/-- One pair the engine serves as Owl (R326-R336, R350, R570): the highest EPOCH reported or issued, the engines A and B, the ACTIVE by its address, the expiry of the
last LEASE, a running take-over (taker) or handover (h). -/
structure OwlSvc where
  epoch : Nat := 0
  active : Option Nat := none
  a : OwlEngine := {}
  b : OwlEngine := {}
  lastE : Nat := 0
  taker : Option Nat := none
  handover : Option Nat := none
  handoverReq : Option Nat := none
  waiver : Bool := false
  waiting : Bool := false
  stbySent : Bool := false
  /-- The ACTIVE's BEATs were missing: it gets no further LEASE (R332). -/
  noLease : Bool := false
  deriving DecidableEq, Repr


/-! ### Media ports and peer links (chapter 12) -/

/-- One port, 0-31 MP00-MP31, 32-47 PL00-PL15 (R395-R406, R419-R423). -/
structure Port where
  up : Bool := false
  preempt : Bool := false
  xoffCtl : Bool := false
  xoffBulk : Bool := false
  pausedCtl : Bool := false
  pausedBulk : Bool := false
  /-- Time in ns until which pause requests of a class are ignored (R403). -/
  ignoreCtl : Nat := 0
  ignoreBulk : Nat := 0
  eye : Nat := 0
  low : Nat := 0
  measured : Bool := false
  cnt : Tab Word := []
  occCtl : Nat := 0
  occBulk : Nat := 0
  /-- CONTROL (false) and BULK frames that wait while their class is paused, oldest first, with their lengths (R403). -/
  held : List (Bool × Nat × Emission) := []
  mail : Mailboxes := {}
  deriving DecidableEq, Repr

/-- A frame waiting or unacknowledged in a group (R410, R411): VC, FSEQ, LEN, replays, and what leaves with it. -/
structure PlFrame where
  vc : Nat
  fseq : Nat := 0
  len : Nat
  replays : Nat := 0
  out : Option Emission := none
  deriving DecidableEq, Repr

/-- One peer-link group (R408-R416). -/
structure Group where
  active : List Nat := []
  state : Nat := 0
  credit : List Nat := [0, 0, 0]
  txSeq : Nat := 0
  rxSeq : Nat := 0
  waiting : List PlFrame := []
  replay : List PlFrame := []
  marker : Nat := 0
  /-- The marker count of the last ALIGN of each lane. -/
  marks : Tab Nat := []
  nakSent : Bool := false
  adding : Option (Nat × Nat) := none
  /-- SEQ of the streams of mirror records (R58, R341). -/
  mirSeq : Tab Nat := []
  deriving DecidableEq, Repr

/-! ### Memory integrity (chapter 13) -/

/-- SRAMC (R425-R432, R445-R447). -/
structure Sramc where
  age : Nat := 0
  clean : Bool := false
  /-- An SRAM_UE has come since the last pass ended. -/
  ue : Bool := false
  passes : Nat := 0
  corr : Word := 0
  /-- Corrections since the last HEALTH (R351). -/
  unreported : Nat := 0
  elogMacro : Nat := 0
  elogRegion : Nat := 0
  elogRow : Nat := 0
  elogKind : Nat := 0
  spares : Tab Nat := []
  mapped : List (Nat × Nat) := []
  repair : Option (Nat × Nat) := none
  repairQ : Option (Nat × Nat) := none
  rowHits : List (Nat × Nat × Nat) := []
  /-- Corrected words that wait to be written back: macro, row, word. -/
  pendingWB : List (Nat × Nat × Nat) := []
  rows : Nat := 0
  exhausted : Nat := 0
  deriving DecidableEq, Repr

/-- One DRAM channel (R433-R441, R453).  `state` is 0 for a channel in the map, else the code 3 to 6 of 0xD200:07; `hits` are the
rows corrected in this patrol period. -/
structure DramChan where
  state : Nat := 0
  hits : List Nat := []
  /-- Corrections of the last 3,600 s: second, device (R438, R453). -/
  corrs : List (Nat × Nat) := []
  ecs : List Nat := List.replicate 10 0
  failRows : List Nat := []
  /-- The second of the last DRAM_CE (R454). -/
  ceAt : Option Nat := none
  deriving DecidableEq, Repr

/-- MEMC (R433-R453). -/
structure Memc where
  s0 : Nat := 0
  s1 : Nat := 1
  spare : Nat := 2
  phase : Nat := 0
  blocks : Nat := 0
  page : Nat := 0
  ce : Word := 0
  /-- Corrections since the last HEALTH (R351). -/
  unreported : Nat := 0
  ue : Word := 0
  dsel : Nat := 0
  mail : Mailboxes := {}
  chans : Tab DramChan := []
  poison : List Nat := []
  migSlot : Nat := 0
  migQ : Option Nat := none
  ppr : Option Nat := none
  pprQ : Option Nat := none
  cap : Nat := 8
  dram : List Host.Cell := []
  deriving DecidableEq, Repr

/-! ### Power, two-wire buses, host port, TDM (chapters 16, 17, 19, 20) -/

/-- A supervised regulator (R520, R527). -/
structure Regulator where
  present : Bool := false
  status : Nat := 0
  badPolls : Nat := 0
  nackPolls : Nat := 0
  deriving DecidableEq, Repr

/-- PWR (R507-R533). -/
structure Pwr where
  on : Nat := 0
  busy : Option Nat := none
  switchOn : Bool := false
  queue : List (Nat × Bool) := []
  gated : Nat := 0
  waking : Nat := 0
  gateLate : Nat := 0
  vset : Nat := 0x14
  margin : Int := 0
  avsHighMs : Nat := 0
  avsHold : Bool := false
  tmax : Int := 0
  sensor : Nat := 0
  therm : Nat := 0
  temps : List Int := List.replicate 20 0
  vmon : Nat := 0
  regs : Tab Regulator := []
  xoValid : Bool := false
  deriving DecidableEq, Repr

/-- A transaction on TW0 (R537). -/
structure Tw0Job where
  addr : Nat
  fromPwr : Bool
  data : List Byte := []
  deriving DecidableEq, Repr

structure Tw0 where
  speed : Nat := 1
  filt : Nat := 3
  retry : Nat := 3
  backoff : Nat := 0x0A
  stretchTo : Nat := 0x19
  arbByte : Nat := 0
  arbBit : Nat := 0
  stretchIn : Bool := false
  arbCount : Nat := 0
  queue : List Tw0Job := []
  cur : Option Tw0Job := none
  tries : Nat := 0
  busBusy : Bool := true
  stuck : Bool := false
  deriving DecidableEq, Repr

structure Tw1 where
  addr : Nat := 0x5A
  filt : Nat := 3
  attnRep : Nat := 0x0A
  attnHw : Nat := 0
  attnFw : Nat := 0
  fast : Bool := false
  req : List Host.Cell := []
  resp : List Byte := []
  dstate : Nat := 0
  lastStatus : Nat := 0
  /-- A request was made for the bits that are set (R554: ATTN_REP 0 requests once). -/
  asked : Bool := false
  deriving DecidableEq, Repr

structure Hostp where
  dstate : Nat := 0
  respLen : Nat := 0
  crcErr : Nat := 0
  frameErr : Nat := 0
  deriving DecidableEq, Repr

structure TdmPort where
  sync : Bool := false
  lost : Bool := false
  slips : Nat := 0
  bad : Nat := 0
  good : Nat := 0
  lostNow : Bool := false
  /-- Sample number of the latest frame. -/
  last : Option Nat := none
  deriving DecidableEq, Repr

structure Tdm where
  ports : Tab TdmPort := []
  deriving DecidableEq, Repr

/-! ### Object dictionary (chapter 08) -/

/-- One entry of the commit log (R272). -/
structure LogEntry where
  tick : Nat
  kind : UKind
  origin : Nat
  session : Nat
  cid : Nat
  result : Nat
  deriving DecidableEq, Repr

/-- One entry of the mark log (R67). -/
structure MarkEntry where
  tick : Nat
  id : Nat
  value : Nat
  deriving DecidableEq, Repr

/-- The response to one REQID that is kept (R263): path key, REQID, status, item statuses and data. -/
structure Cached where
  path : Nat
  reqid : Nat
  op : Nat
  status : Nat
  body : List Byte
  deriving DecidableEq, Repr

/-- An element of a staged set that a tag of a media frame wrote, with what it replaced, while the frame can still be displaced (R48, R60):
context, tick and EPOCH of the frame. -/
structure StagedBy where
  cid : Nat
  frame : Nat × Nat × Nat
  obj : Nat
  mem : Nat
  elem : Nat
  old : Option Val
  deriving DecidableEq, Repr

/-- The dictionary (R248-R283). -/
structure Dict where
  vals : Tab Val := []
  counters : Tab Nat := []
  log : List LogEntry := []
  logNext : Nat := 0
  marks : List MarkEntry := []
  markNext : Nat := 0
  staged : Tab (List EWrite) := []
  stagedBy : List StagedBy := []
  /-- Images uploaded into a staged set, by work set (R267, R384), and the golden workloads loaded, by digest. -/
  stagedImages : Tab (Tab Image) := []
  golden : List Nat := []
  units : List CUnit := []
  sealed : Tab (List CUnit) := []
  /-- Commits that took effect while an island took no stage action, by island (R20). -/
  owed : List (Nat × List CUnit) := []
  /-- Writes of ACTION members whose actions start in this command (R252). -/
  actions : List EWrite := []
  cache : List Cached := []
  generation : Nat := 0
  slots : Tab SceneSlot := []
  serial : List Byte := List.replicate 16 0
  accepted : Nat := 0
  deriving DecidableEq, Repr

/-! ### JTAG (R608, R385) -/

/-- The states of the test access port controller. -/
inductive TapState where
  | reset | idle
  | selectDr | captureDr | shiftDr | exit1Dr | pauseDr | exit2Dr | updateDr
  | selectIr | captureIr | shiftIr | exit1Ir | pauseIr | exit2Ir | updateIr
  deriving DecidableEq, Repr

/-- The instructions that R385 names, and those that the closure JTAG_DEBUG shuts. -/
inductive JtagInstr where
  | bypass | idcode | samplePreload | extest | debug
  deriving DecidableEq, Repr

/-- The test port (log 160): controller, instruction, the register that shifts, the cells that drive the balls, and the bit on TDO. -/
structure Jtag where
  tap : TapState := .reset
  ir : JtagInstr := .idcode
  shift : List Bool := []
  cells : List Bool := []
  tdo : Bool := false
  deriving DecidableEq, Repr

/-- The state of the engine. -/
structure State where
  pending : List Instr
  sent : List Emission
  freeCtr : Nat
  commons : Tab Common
  top : Top
  fab : Fab
  csw : Csw
  clusters : Tab Cluster
  ws : Tab WorkSet
  spinQ : Option (Nat × Bool)
  dict : Dict
  mix : Mix
  dyn : Dyn
  dp : Dp
  aln : Aln
  sil : Sil
  time : Time
  refsel : Refsel
  sec : Sec
  pair : Pair
  owl : Tab OwlSvc
  sramc : Sramc
  memc : Memc
  pwr : Pwr
  tw0 : Tw0
  tw1 : Tw1
  hostp : Hostp
  tdm : Tdm
  ports : Tab Port
  groups : Tab Group
  jtag : Jtag
  deriving DecidableEq, Repr

/-- Faults.  The spec's faults are events (R479), which are next states: no command of the model ends in a fault. -/
inductive Fault where
  /-- Raised by no command: the engine has no exception that stops it.  Safe. -/
  | none
  deriving DecidableEq, Repr

/-- Refusals. -/
inductive Refusal where
  /-- The command has no meaning in the model yet; raised by the arms of Machine/Dispatch.lean.  Safe. -/
  | notModelled (mnemonic : String)
  deriving DecidableEq, Repr

/-- The engine held in reset with every register at its reset value. -/
def State.reset : State :=
  { pending := [], sent := [], freeCtr := 0, commons := [], top := {}, fab := {}, csw := {}, clusters := [], ws := [], spinQ := none,
    dict := {}, mix := {}, dyn := {}, dp := {}, aln := {}, sil := {}, time := {}, refsel := {}, sec := {}, pair := {},
    owl := [], sramc := {}, memc := {}, pwr := {}, tw0 := {}, tw1 := {}, hostp := {}, tdm := {}, ports := [], groups := [], jtag := {} }

end Sys2Proof.Machine
end

