-- ==== Sys2Proof/Machine/Ops.lean ====
section
/-! DEFINITION. Named operations every family uses: sparse tables, byte memories, rounding and saturation, sub-state updates. -/

namespace Sys2Proof.Machine

/-- Outcome of every meaning. -/
abbrev Out := Host.Outcome State Fault Refusal

/-! ### Sparse tables -/

/-- The value a table holds for a key; `d` where it holds none. -/
def tget {α : Type} (d : α) : Tab α → Nat → α
  | [], _ => d
  | (k, v) :: t, i => if k = i then v else tget d t i

/-- The value a table holds for a key, if any. -/
def tfind {α : Type} : Tab α → Nat → Option α
  | [], _ => none
  | (k, v) :: t, i => if k = i then some v else tfind t i

/-- The table with a new value for a key. -/
def tset {α : Type} : Tab α → Nat → α → Tab α
  | [], i, x => [(i, x)]
  | (k, v) :: t, i, x => if k = i then (i, x) :: t else (k, v) :: tset t i x

/-- The table without a key. -/
def tdel {α : Type} : Tab α → Nat → Tab α
  | [], _ => []
  | (k, v) :: t, i => if k = i then tdel t i else (k, v) :: tdel t i

/-- A table entry changed by a function. -/
def tmod {α : Type} (d : α) (t : Tab α) (i : Nat) (f : α → α) : Tab α := tset t i (f (tget d t i))

/-! ### Byte memories: lists of (address, byte), addresses strictly rising, no zero byte listed -/

/-- A byte memory in canonical form. -/
def Memory.wf : List Host.Cell → Bool
  | [] => true
  | [(_, b)] => b != 0
  | (a, b) :: (a', b') :: t => b != 0 && decide (a < a') && Memory.wf ((a', b') :: t)

/-- A byte; an address the memory does not list reads as 0 (R560, log 10). -/
def memGet : List Host.Cell → Nat → Byte
  | [], _ => 0
  | (a, b) :: t, i => if a = i then b else memGet t i

/-- A byte written; a zero byte is not listed, so that equal memories are equal lists. -/
def memSet : List Host.Cell → Nat → Byte → List Host.Cell
  | [], i, v => if v = 0 then [] else [(i, v)]
  | (a, b) :: t, i, v =>
    if i < a then (if v = 0 then (a, b) :: t else (i, v) :: (a, b) :: t)
    else if a = i then (if v = 0 then t else (i, v) :: t)
    else (a, b) :: memSet t i v

/-- A little-endian 32-bit word (R9). -/
def memWord (m : List Host.Cell) (a : Nat) : Word :=
  memGet m (a + 3) ++ memGet m (a + 2) ++ memGet m (a + 1) ++ memGet m a

/-- A little-endian 32-bit word written (R9). -/
def memSetWord (m : List Host.Cell) (a : Nat) (v : Word) : List Host.Cell :=
  memSet (memSet (memSet (memSet m a (v.extractLsb' 0 8)) (a + 1) (v.extractLsb' 8 8)) (a + 2) (v.extractLsb' 16 8))
    (a + 3) (v.extractLsb' 24 8)

/-- Consecutive bytes. -/
def memBytes (m : List Host.Cell) (a n : Nat) : List Byte := (List.range n).map fun i => memGet m (a + i)

/-- Consecutive bytes written. -/
def memSetBytes (m : List Host.Cell) (a : Nat) : List Byte → List Host.Cell
  | [] => m
  | b :: t => memSetBytes (memSet m a b) (a + 1) t

/-! ### Numbers -/

/-- An unsigned number from bytes, most significant first (R9: transactions and frames are big-endian). -/
def beNat : List Byte → Nat
  | [] => 0
  | b :: t => b.toNat * 256 ^ t.length + beNat t

/-- The `n` low bytes of a number, most significant first. -/
def beBytes : Nat → Nat → List Byte
  | 0, _ => []
  | n + 1, x => b8 (x / 256 ^ n) :: beBytes n x

/-- Signed difference of two 32-bit numbers (R11). -/
def sdiff32 (a b : Nat) : Int := (BitVec.ofNat 32 a - BitVec.ofNat 32 b).toInt

/-- Signed difference of two 16-bit numbers (R11). -/
def sdiff16 (a b : Nat) : Int := (BitVec.ofNat 16 a - BitVec.ofNat 16 b).toInt

/-- Whether one EPOCH is higher than another (R48). -/
def epochAbove (a b : Nat) : Bool := decide (0 < sdiff16 a b)

/-- Saturation to `n + 1` bits two's complement. -/
def satTo (n : Nat) (x : Int) : Int := if x > 2 ^ n - 1 then 2 ^ n - 1 else if x < -(2 ^ n) then -(2 ^ n) else x

/-- sat32 (R123). -/
def sat32 (x : Int) : Int := satTo 31 x

/-- Division by a power of two with floor. -/
def floorShift (x : Int) (s : Nat) : Int := Int.fdiv x (2 ^ s)

/-- Division by a power of two, rounded half up (ties toward plus infinity). -/
def roundShift (x : Int) (s : Nat) : Int := if s = 0 then x else Int.fdiv (x + 2 ^ (s - 1)) (2 ^ s)

/-- A quotient rounded half up. -/
def roundDiv (a b : Int) : Int := Int.fdiv (2 * a + b) (2 * b)

/-- A quotient rounded up. -/
def ceilDiv (a b : Nat) : Nat := (a + b - 1) / b

/-- clamp80 (R121) with the flag OVG. -/
def clamp80 (x : Int) : Int × Bool :=
  if x > 2 ^ 79 - 1 then (2 ^ 79 - 1, true) else if x < -(2 ^ 79) then (-(2 ^ 79), true) else (x, false)

/-- The conversion of R122 with the flag SAT. -/
def convert80 (a : Int) (s : Nat) (trunc : Bool) : Int × Bool :=
  let v := if trunc then floorShift a s else roundShift a s
  (sat32 v, decide (sat32 v ≠ v))

/-- A sum that a counter of `n` bits holds without passing its maximum. -/
def stopAt (mx n k : Nat) : Nat := if n + k > mx then mx else n + k

/-- The floor of a square root by bisection of `n` bits. -/
def sqrtBits : Nat → Nat → Nat → Nat
  | 0, r, _ => r
  | n + 1, r, x => if (r + 2 ^ n) * (r + 2 ^ n) ≤ x then sqrtBits n (r + 2 ^ n) x else sqrtBits n r x

/-- The largest number of at most `n` bits, at or above `r`, for which a downward closed test holds. -/
def bisect (p : Nat → Bool) : Nat → Nat → Nat
  | 0, r => r
  | n + 1, r => if p (r + 2 ^ n) then bisect p n (r + 2 ^ n) else bisect p n r

/-- Bits of a number from `lo`, `n` of them. -/
def bitsOf (x lo n : Nat) : Nat := x / 2 ^ lo % 2 ^ n

/-- Bit `i` of a number. -/
def bitAt (x i : Nat) : Bool := x / 2 ^ i % 2 == 1

/-- A truth value as a bit. -/
def b2n (b : Bool) : Nat := if b then 1 else 0

/-- A list with the element at a position replaced; positions past the end change nothing. -/
def listSet {α : Type} : List α → Nat → α → List α
  | [], _, _ => []
  | _ :: t, 0, x => x :: t
  | h :: t, n + 1, x => h :: listSet t n x

/-- A list mapped with the positions, for positions below a bound; the rest as it is. -/
def mapBelow {α : Type} (f : Nat → α → α) (bound : Nat) : Nat → List α → List α
  | _, [] => []
  | i, x :: t => (if i < bound then f i x else x) :: mapBelow f bound (i + 1) t

/-- The element of a list at a position, or `d`. -/
def at? {α : Type} (d : α) : List α → Nat → α
  | [], _ => d
  | x :: _, 0 => x
  | _ :: t, n + 1 => at? d t n

/-- A function applied `n` times. -/
def iter {α : Type} (f : α → α) : Nat → α → α
  | 0, x => x
  | n + 1, x => iter f n (f x)

/-- Sum of a list of numbers. -/
def sumN : List Nat → Nat
  | [] => 0
  | x :: t => x + sumN t

/-- Largest of a list of integers and a bound. -/
def maxI (d : Int) : List Int → Int
  | [] => d
  | x :: t => if x > d then maxI x t else maxI d t

/-- No element appears twice. -/
def noDup {α : Type} [DecidableEq α] : List α → Bool
  | [] => true
  | x :: t => !(t.contains x) && noDup t

/-! ### Sub-states -/

def State.common (s : State) (blk : Nat) : Common := tget {} s.commons blk
def State.setCommon (s : State) (blk : Nat) (f : Common → Common) : State := { s with commons := tmod {} s.commons blk f }
def State.cluster (s : State) (n : Nat) : Cluster := tget {} s.clusters n
def State.setCluster (s : State) (n : Nat) (f : Cluster → Cluster) : State := { s with clusters := tmod {} s.clusters n f }
def State.workSet (s : State) (n : Nat) : WorkSet := tget {} s.ws n
def State.setWorkSet (s : State) (n : Nat) (f : WorkSet → WorkSet) : State := { s with ws := tmod {} s.ws n f }
def State.ctx (s : State) (x : Nat) : Ctx := tget {} s.csw.ctx x
def State.setCtx (s : State) (x : Nat) (f : Ctx → Ctx) : State := { s with csw := { s.csw with ctx := tmod {} s.csw.ctx x f } }
def State.port (s : State) (p : Nat) : Port := tget {} s.ports p
def State.setPort (s : State) (p : Nat) (f : Port → Port) : State := { s with ports := tmod {} s.ports p f }
def State.group (s : State) (g : Nat) : Group := tget {} s.groups g
def State.setGroup (s : State) (g : Nat) (f : Group → Group) : State := { s with groups := tmod {} s.groups g f }
def State.modTop (s : State) (f : Top → Top) : State := { s with top := f s.top }
def State.modCsw (s : State) (f : Csw → Csw) : State := { s with csw := f s.csw }
def State.modFab (s : State) (f : Fab → Fab) : State := { s with fab := f s.fab }
def State.modDict (s : State) (f : Dict → Dict) : State := { s with dict := f s.dict }

/-- The state with an emission added to what the command puts out. -/
def State.emit (s : State) (e : Emission) : State := { s with sent := s.sent ++ [e] }

/-- The state as a command finds it: nothing put out yet. -/
def State.quiet (s : State) : State := { s with sent := [] }

/-- A fresh free value: the state with the counter advanced (log 3). -/
def State.fresh (s : State) : State := { s with freeCtr := s.freeCtr + 1 }

/-- A counter of 32 bits in a table of counters, increased (wraps modulo 2^32). -/
def bump (t : Tab Word) (i : Nat) (n : Nat) : Tab Word := tmod 0 t i (fun v => v + w32 n)

/-- A counter of a stream context (R105). -/
def State.count (s : State) (x i : Nat) (n : Nat := 1) : State := s.setCtx x fun c => { c with cnt := bump c.cnt i n }

/-- A counter word of a port (R423). -/
def State.countPort (s : State) (p i : Nat) (n : Nat := 1) : State := s.setPort p fun c => { c with cnt := bump c.cnt i n }

/-- A fold over a list of commands' parts. -/
def foldS {α : Type} (f : State → α → State) : State → List α → State
  | s, [] => s
  | s, x :: t => foldS f (f s x) t

/-! ### CRC-8 (R547) -/

def crc8Bit (c : Byte) : Byte := if c.getLsbD 7 then (c <<< 1) ^^^ 0x07 else c <<< 1

def crc8 (l : List Byte) : Byte := l.foldl (fun c b => iter crc8Bit 8 (c ^^^ b)) 0

end Sys2Proof.Machine
end

