-- ==== Sys2Proof/Machine/Flags.lean ====
section
/-! DEFINITION. Flags of the lanes: condition flags, sticky flags and their host copies; conditions and reductions. -/

namespace Sys2Proof.Machine

/-- Lanes that execute (R172): 16 in IK mode, 32 otherwise. -/
def Cluster.laneCount (c : Cluster) : Nat := if c.ik then 16 else 32

/-- Sticky flags, one set added to another. -/
def Sticky.or (a b : Sticky) : Sticky := ⟨a.ovg || b.ovg, a.sat || b.sat, a.circ || b.circ, a.addr || b.addr⟩

/-- The lanes of a list whose raised flags satisfy a test, as a bit mask from lane `i` on. -/
def laneMask (p : Sticky → Bool) : Nat → List Sticky → Nat
  | _, [] => 0
  | i, f :: t => (if p f then 2 ^ i else 0) + laneMask p (i + 1) t

/-- A lane function with the flags it raises, applied to every executing lane: the sticky flag of the lane and the host
copy of R119 and R139 are set alike. -/
def Cluster.onLanes (f : Nat → Lane → Lane × Sticky) (c : Cluster) : Cluster :=
  let rs := (mapBelow (fun i (p : Lane × Sticky) => f i p.1) c.laneCount 0 (c.lanes.map fun l => (l, ({} : Sticky))))
  let fs := rs.map (·.2)
  { c with
    lanes := rs.map fun p => { p.1 with st := p.1.st.or p.2 }
    hostOvg := c.hostOvg ||| w32 (laneMask (·.ovg) 0 fs)
    hostSat := c.hostSat ||| w32 (laneMask (·.sat) 0 fs)
    hostCirc := c.hostCirc ||| w32 (laneMask (·.circ) 0 fs)
    hostAddr := c.hostAddr ||| w32 (laneMask (·.addr) 0 fs) }

/-- Z and N from a written value, V from saturation (R156). -/
def flagsOf (v : Int) (sat : Bool) : Flags := ⟨decide (v = 0), decide (v < 0), sat⟩

/-- COND of R152 on the flags of a lane. -/
def condHolds (cond : Nat) (f : Flags) : Bool :=
  match cond with
  | 0 => true
  | 1 => f.z
  | 2 => !f.z
  | 3 => f.n
  | 4 => !f.n
  | 5 => f.z || f.n
  | 6 => !f.z && !f.n
  | 7 => f.v
  | 8 => !f.v
  | _ => false

/-- RED of R152: lane 0, ANY, ALL. -/
def reduce (red : Nat) (bs : List Bool) : Bool :=
  match red with
  | 0 => at? false bs 0
  | 1 => bs.any id
  | _ => bs.all id

/-- The flags a conditional branch sees (R118): those after the third instruction before it. -/
def Lane.branchFlags (l : Lane) : Flags := at? {} l.fhist 2

/-- Whether a branch is taken (R151): COND reduced over the executing lanes. -/
def Cluster.branchTaken (c : Cluster) (cond red : Nat) : Bool :=
  reduce red ((c.lanes.take c.laneCount).map fun l => condHolds cond l.branchFlags)

/-- The sticky flags as RDFLG reads them (R159): ADDR_RANGE, CIRC_RANGE, SAT, OVG from bit 3 down. -/
def Sticky.word (s : Sticky) : Nat := b2n s.ovg + 2 * b2n s.sat + 4 * b2n s.circ + 8 * b2n s.addr

/-- The sticky flags after CLRFLG with mask `k` (R159). -/
def Sticky.clear (s : Sticky) (k : Nat) : Sticky :=
  ⟨s.ovg && !bitAt k 0, s.sat && !bitAt k 1, s.circ && !bitAt k 2, s.addr && !bitAt k 3⟩

end Sys2Proof.Machine
end

