-- ==== Sys2Proof/Machine/Operands.lean ====
section
/-! DEFINITION. Operand forms of the clusters: registers at the distances of R118, pointers, effective addresses, memories. -/

namespace Sys2Proof.Machine

/-! ### D registers and results in flight (R118) -/

/-- The distance at which an ALU, MAC or move operand sees a result. -/
def InFlight.operandDist (e : InFlight) : Nat := if e.late then 2 else 1

/-- The distance at which store data sees a result. -/
def InFlight.storeDist (e : InFlight) : Nat := if e.late then 3 else 2

/-- The newest result in flight of a register that a test admits, or `d`. -/
def newest (p : InFlight → Bool) (r : Nat) (d : Word) : List InFlight → Word
  | [] => d
  | e :: t => newest p r (if e.reg = r && p e then e.val else d) t

/-- A D register as an operand. -/
def Lane.operand (l : Lane) (r : Nat) : Word :=
  newest (fun e => decide (e.operandDist ≤ e.age)) r (tget 0 l.d r) l.flight

/-- A D register as store data. -/
def Lane.storeData (l : Lane) (r : Nat) : Word :=
  newest (fun e => decide (e.storeDist ≤ e.age)) r (tget 0 l.d r) l.flight

/-- A D operand as a signed number. -/
def Lane.int (l : Lane) (r : Nat) : Int := (l.operand r).toInt

/-- An accumulator. -/
def Lane.acc (l : Lane) (n : Nat) : BitVec 80 := tget 0 l.a n

/-- A result put in flight. -/
def Lane.put (l : Lane) (r : Nat) (v : Word) (late : Bool) : Lane := { l with flight := l.flight ++ [⟨r, v, late, 0⟩] }

/-- Results three instructions old are seen by every consumer. -/
def retire (d : Tab Word) : List InFlight → Tab Word × List InFlight
  | [] => (d, [])
  | e :: t => if 3 ≤ e.age then retire (tset d e.reg e.val) t else let (d', t') := retire d t; (d', e :: t')

/-- One instruction later: results age, the flag history moves on. -/
def Lane.tick (l : Lane) : Lane :=
  let (d, fl) := retire l.d (l.flight.map fun e => { e with age := e.age + 1 })
  { l with d := d, flight := fl, fhist := l.fl :: l.fhist.take 2 }

/-! ### Handler confinement (R166, R172) -/

def Cluster.resD (c : Cluster) : Nat := if c.ik then 4 else c.img.resD
def Cluster.resA (c : Cluster) : Nat := if c.ik then 1 else c.img.resA
def Cluster.resP (c : Cluster) : Nat := if c.ik then 2 else c.img.resP

/-- A write to a D register takes effect: outside a handler, or inside its reserved set. -/
def Cluster.mayD (c : Cluster) (r : Nat) : Bool := !c.handler || decide (32 - c.resD ≤ r)
def Cluster.mayA (c : Cluster) (n : Nat) : Bool := !c.handler || decide (8 - c.resA ≤ n)
def Cluster.mayP (c : Cluster) (n : Nat) : Bool := !c.handler || decide (16 - c.resP ≤ n)

/-! ### Shared registers (R144, R148) -/

/-- The width in bits of the shared register with a code of R148; 0 where the code names none. -/
def shWidth (code : Nat) : Nat :=
  if 0x20 ≤ code ∧ code ≤ 0x47 then 24 else
  match code with
  | 0x48 => 17
  | 0x49 | 0x4A | 0x4B => 15
  | 0x4C => 2
  | _ => 0

def Cluster.shared (c : Cluster) (code : Nat) : Nat := tget 0 c.sh code
def Cluster.setShared (c : Cluster) (code v : Nat) : Cluster := { c with sh := tset c.sh code (v % 2 ^ shWidth code) }

/-- A 24-bit register as a signed number (M of R144, R158). -/
def signed24 (n : Nat) : Int := (BitVec.ofNat 24 n).toInt

/-- A shared register as a move delivers it to D (R158): zero-extended, M sign-extended. -/
def Cluster.sharedToD (c : Cluster) (code : Nat) : Word :=
  if 0x30 ≤ code ∧ code ≤ 0x37 then BitVec.ofInt 32 (signed24 (c.shared code)) else w32 (c.shared code)

/-- Whether a move may write a shared register: a handler writes P in its reserved set, and neither M, B nor L (R166). -/
def Cluster.mayShared (c : Cluster) (code : Nat) : Bool :=
  if code < 0x30 then c.mayP (code - 0x20) else if code ≤ 0x47 then !c.handler else true

/-- A write to LC, LS or LE has landed.  It leaves the loop-active bit (R158); in IK mode, where a program restores an outer loop that LOOP has
overwritten by writing all three, that loop is active again once the restore completes (R172, log 148). -/
def Cluster.loopWritten (c : Cluster) (code : Nat) : Cluster :=
  if !c.ik || decide (code < 0x48) || decide (0x4A < code) then c else
  let m := c.ikWritten.lor (2 ^ (code - 0x48))
  if m = 7 ∧ !c.loopActive ∧ 0 < c.ikOuter then { c with loopActive := true, ikOuter := c.ikOuter - 1, ikWritten := 0 }
  else { c with ikWritten := m }

/-- Moves into shared registers reach their first use at distance 4 (R118, R158).  Where a later write of the same register, by a post-modify, CALL,
LOOP or a loop end, has come in between, the move lands over it (log 25). -/
def landShared : List SharedFlight → Cluster → Cluster
  | [], c => { c with sharedFlight := [] }
  | e :: t, c =>
    if 4 ≤ e.age then landShared t ((c.setShared e.code e.val).loopWritten e.code)
    else let c' := landShared t c; { c' with sharedFlight := e :: c'.sharedFlight }

/-! ### Pointers and effective addresses (R149, R150) -/

/-- The post-modify of pointer `n` by `m` bytes: the new pointer and CIRC_RANGE. -/
def postMod (n p b l : Nat) (m : Int) : Nat × Bool :=
  let q := (Int.emod ((p : Int) + m) (2 ^ 24)).toNat
  if n < 8 ∧ l ≠ 0 then
    let q' := if b + l ≤ q then q - l else if q < b then q + l else q
    (q' % 2 ^ 24, decide (q' < b ∨ b + l ≤ q'))
  else (q, false)

/-- The pointer of the cluster post-modified; CIRC_RANGE sets in every executing lane, and so do the sticky flags of any operation whose write R166
suppresses in a handler: the operation itself runs (R166, log 197). -/
def Cluster.postModify (c : Cluster) (n : Nat) (m : Int) : Cluster :=
  let (q, r) := postMod n (c.shared (0x20 + n)) (c.shared (0x38 + n)) (c.shared (0x40 + n)) m
  let c' := if c.mayP n then c.setShared (0x20 + n) q else c
  if r then c'.onLanes (fun _ l => (l, { circ := true })) else c'

/-- The access address of an effective address, a multiple of 4 (R113, R149). -/
def Cluster.address (c : Cluster) (e : EA) : Nat :=
  let p := c.shared (0x20 + e.pn)
  let a := match e.mode with
    | .offset w => (Int.emod ((p : Int) + 4 * w) (2 ^ 24)).toNat
    | _ => p
  a / 4 * 4

/-- The post-modify that an effective address performs. -/
def Cluster.afterEA (c : Cluster) (e : EA) : Cluster :=
  match e.mode with
  | .postM k => c.postModify e.pn (signed24 (c.shared (0x30 + k)))
  | .postImm w => c.postModify e.pn (4 * w)
  | .offset _ => c
  | .postInc => c.postModify e.pn 4

/-- LMEM of a lane: 96 KiB, 64 KiB in IK mode (R113, R172). -/
def Cluster.inLmem (c : Cluster) (a : Nat) : Bool := decide (a < if c.ik then 0x10000 else 0x18000)

/-- CMEM: 512 KiB, 256 KiB in IK mode (R113, R172). -/
def Cluster.inCmem (c : Cluster) (a : Nat) : Bool :=
  decide (0x400000 ≤ a ∧ a < if c.ik then 0x440000 else 0x480000)

/-- The word a load delivers to a lane, and ADDR_RANGE (R153, R114). -/
def Cluster.loadWord (c : Cluster) (l : Lane) (a : Nat) : Word × Bool :=
  if c.inLmem a then (memWord l.lmem a, false)
  else if c.inCmem a then (memWord c.cmem (a - 0x400000), false)
  else (0, true)

/-- A load of every executing lane from an address into a D register. -/
def Cluster.loadInto (c : Cluster) (dd a : Nat) : Cluster :=
  let keep := c.mayD dd
  c.onLanes fun _ l =>
    let (v, r) := c.loadWord l a
    (if keep then l.put dd v true else l, { addr := r })

/-- A store of every executing lane (R153); a handler stores only inside its range (R166). -/
def Cluster.storeFrom (c : Cluster) (dd a : Nat) : Cluster :=
  let ok := c.inLmem a && (!c.handler || (decide (c.img.handlerLo ≤ a) && decide (a + 4 ≤ c.img.handlerHi)))
  c.onLanes fun _ l =>
    if ok then ({ l with lmem := memSetWord l.lmem a (l.storeData dd) }, {}) else (l, { addr := true })

/-! ### Issue (R117, R151, R160-R162) -/

/-- The loop stack as the program that runs sees it: a handler does not see what its entry saved (R165, R167, log 149). -/
def Cluster.ownFrames (c : Cluster) : Nat := match c.saved with | some v => c.loopStack.length - (v.loops.length + 1) | none => c.loopStack.length

/-- The end of a loop (R162): native mode restores the frame on top of the stack, an empty stack leaves no loop active; in IK mode no loop is
active then (R172). -/
def Cluster.popLoop (c : Cluster) : Cluster :=
  if c.ik then { c with loopActive := false, ikWritten := 0 } else
  if c.ownFrames = 0 then { c with loopActive := false } else
  match c.loopStack with
  | [] => { c with loopActive := false }
  | f :: t => { (((c.setShared 0x48 f.lc).setShared 0x49 f.ls).setShared 0x4A f.le) with
      loopActive := f.active, loopStack := t }

/-- The loop that a cluster runs. -/
def Cluster.frame (c : Cluster) : LoopFrame := ⟨c.shared 0x48, c.shared 0x49, c.shared 0x4A, c.loopActive⟩

/-- The push of a native LOOP: the stack holds 4 entries, the oldest is lost (R161, R163). -/
def Cluster.pushLoop (c : Cluster) : Cluster := { c with loopStack := (c.frame :: c.loopStack).take 4 }

/-- Writes of a handler to shared registers that are still on their way when it returns take effect with it (R166, R167). -/
def landAll : List SharedFlight → Cluster → Cluster
  | [], c => c
  | e :: t, c => landAll t ((c.setShared e.code e.val).loopWritten e.code)

/-- Every result in flight in its register. -/
def landD (d : Tab Word) (l : List InFlight) : Tab Word := l.foldl (fun d e => tset d e.reg e.val) d

/-- Every move in flight in its shared register. -/
def landSh (sh : Tab Nat) (l : List SharedFlight) : Tab Nat := l.foldl (fun t e => tset t e.code (e.val % 2 ^ shWidth e.code)) sh

/-- The first table with the entries of the second at some keys. -/
def withKeys {α : Type} (d : α) (ks : List Nat) (t u : Tab α) : Tab α := ks.foldl (fun t k => tset t k (tget d u k)) t

/-- A lane when its handler returns: the main program's registers with the results held back, but for the handler's reserved set. -/
def Lane.giveBack (l : Lane) (v : SavedCtx) (res : List Nat) (i : Nat) : Lane :=
  { l with
    d := withKeys 0 res (at? [] v.d i) (landD l.d l.flight)
    fl := at? {} v.flags i, st := at? {} v.sticky i, fhist := at? [] v.fhist i
    flight := (at? [] v.flight i).filter fun e => !(res.contains e.reg) }

/-- The shared registers that keep a handler's values: the pointers of its reserved set and ISRC, and in IK mode LC, LS and LE if it wrote them
(R166, R172). -/
def Cluster.keptShared (c : Cluster) (v : SavedCtx) : List Nat :=
  0x4C :: (List.range c.resP).map (0x2F - ·) ++
    (if c.ik then [0x48, 0x49, 0x4A].filter fun k => c.shared k != tget 0 (landSh v.sh v.shared) k else [])

/-- What RETI restores after its delay slots (R165, R166, R167): flags, sticky flags, LR, in native mode the loop state, every register outside the
reserved set as it was, and the results held back, at their distances in the main program.  The interrupt mask is not among what R165 saves, so that
of DI or EI in the handler stays (log 198). -/
def Cluster.restore (c : Cluster) : Cluster :=
  match c.saved with
  | none => { c with handler := false }
  | some v =>
    let res := (List.range c.resD).map (31 - ·)
    let c0 := landAll c.sharedFlight c
    let kept := c0.keptShared v
    let c1 := { c0 with
      lanes := mapBelow (fun i (l : Lane) => l.giveBack v res i) c.laneCount 0 c.lanes
      sh := withKeys 0 kept v.sh c0.sh, sharedFlight := v.shared.filter fun e => !(kept.contains e.code)
      handler := false, afterReti := true, saved := none, pc := v.idx }
    if c.ik then c1 else { c1 with loopActive := v.loop.active, loopStack := v.loops }

/-- The next instruction index without delay slots: the loop end of R162 at LE. -/
def Cluster.seqNext (c : Cluster) : Cluster :=
  if c.loopActive ∧ c.pc = c.shared 0x4A then
    if 1 < c.shared 0x48 then { c.setShared 0x48 (c.shared 0x48 - 1) with pc := c.shared 0x49 }
    else { c.popLoop with pc := c.shared 0x4A + 1 }
  else { c with pc := c.pc + 1 }

/-- What happens after an instruction has issued: the loop end, then the end of the delay slots (R151). -/
def Cluster.advance (c : Cluster) : Cluster :=
  let c1 := { c.seqNext with issued := c.issued + 1, afterReti := c.afterReti && c.handler }
  match c1.after with
  | none => c1
  | some a =>
    if 1 < c1.slots then { c1 with slots := c1.slots - 1 } else
    let c2 := { c1 with after := none, slots := 0 }
    match a with
    | .target t => { c2 with pc := t }
    | .fall => c2
    | .ends => { c2 with ended := true, stepping := false }
    | .reti => c2.restore

/-- What happens before an instruction's own effect: results of earlier instructions become visible (R118). -/
def Cluster.ageAll (c : Cluster) : Cluster :=
  let c1 := { c with lanes := mapBelow (fun _ l => l.tick) c.laneCount 0 c.lanes }
  landShared (c1.sharedFlight.map fun e => { e with age := e.age + 1 }) c1

/-- One issue of an instruction with effect `f`. -/
def Cluster.issue1 (f : Cluster → Cluster) (c : Cluster) : Cluster := (f c.ageAll).advance

/-- Repeats of RPT before the last: the effect without a move of the program counter (R160). -/
def Cluster.repeat1 (f : Cluster → Cluster) (c : Cluster) : Cluster :=
  let c1 := f c.ageAll
  { c1 with issued := c1.issued + 1 }

/-- An instruction of FMT 1 to 5 issues: as often as a pending RPT says (R160). -/
def Cluster.issue (f : Cluster → Cluster) (c : Cluster) : Cluster :=
  let n := c.rpt
  let c1 := iter (Cluster.repeat1 f) (n - 1) { c with rpt := 0 }
  Cluster.issue1 f c1

/-- A control or move instruction issues; RPT does not repeat it (R171). -/
def Cluster.issueOnce (f : Cluster → Cluster) (c : Cluster) : Cluster := Cluster.issue1 f { c with rpt := 0 }

/-- A branch to take after two delay slots. -/
def Cluster.branchTo (c : Cluster) (a : AfterSlots) : Cluster := { c with after := some a, slots := 3 }

end Sys2Proof.Machine
end

