-- ==== Sys2Proof/Machine/Members.lean ====
section
/-! DEFINITION. The object dictionary's members and their attributes (R248-R256, R283, R615, R616 and the object tables of the chapters). -/

namespace Sys2Proof.Machine

/-- Kinds of members, codes of R251. -/
inductive Kind where
  | dyn | sta | status | action
  deriving DecidableEq, Repr

/-- Access classes, codes of R251. -/
inductive Acc where
  | s | o | e | c | k | t
  deriving DecidableEq, Repr

/-- The attributes of a member (R251): type code of R254, kind, class, length, default, range. -/
structure Member where
  ty : Nat
  kind : Kind
  acc : Acc
  len : Nat := 1
  dflt : Int := 0
  lo : Int := 0
  hi : Int := 0
  deriving DecidableEq, Repr

/-- The element size in bytes of a type of R254; 0 for STRING and OCTETS, none for codes the table does not list. -/
def tySize (ty : Nat) : Option Nat :=
  match ty with
  | 1 => some 1 | 2 => some 1 | 3 => some 2 | 4 => some 4 | 5 => some 8
  | 6 => some 1 | 7 => some 2 | 8 => some 4 | 9 => some 8
  | 0x0A => some 4 | 0x0B => some 4 | 0x0C => some 2 | 0x0D => some 8 | 0x0E => some 8 | 0x0F => some 1
  | 0x10 => some 0 | 0x11 => some 0 | 0x12 => some 4
  | _ => none

/-- Whether the integers of a type are two's complement (R254). -/
def tySigned (ty : Nat) : Bool := ty ∈ [6, 7, 8, 9, 0x0A, 0x0B, 0x0C]

/-- The widest range of a type (R254). -/
def tyRange (ty : Nat) : Int × Int :=
  match ty with
  | 1 => (0, 1)
  | 0x0C => (-32768, 0x1800)
  | 0x0E => (0, 2 ^ 48 - 1)
  | 0x10 => (0, 64)
  | 0x11 => (0, 1024)
  | 0x12 => (0, 0x1FFFF)
  | _ =>
    match tySize ty with
    | none => (0, 0)
    | some n => if tySigned ty then (-(2 ^ (8 * n - 1)), 2 ^ (8 * n - 1) - 1) else (0, 2 ^ (8 * n) - 1)

/-- A member with the whole range of its type. -/
def mem (ty : Nat) (k : Kind) (a : Acc) (d : Int := 0) (len : Nat := 1) : Member :=
  { ty := ty, kind := k, acc := a, len := len, dflt := d, lo := (tyRange ty).1, hi := (tyRange ty).2 }

/-- A member with a range of its own. -/
def memR (ty : Nat) (k : Kind) (a : Acc) (d lo hi : Int) (len : Nat := 1) : Member :=
  { ty := ty, kind := k, acc := a, len := len, dflt := d, lo := lo, hi := hi }

/-- A byte-string member: an array of elements of `n` bytes, or one string of at most `n` bytes. -/
def memB (ty : Nat) (k : Kind) (a : Acc) (lo hi : Int) (len : Nat := 1) : Member :=
  { ty := ty, kind := k, acc := a, len := len, dflt := 0, lo := lo, hi := hi }

/-- Members of an object by number. -/
abbrev Members := List (Nat × Member)

open Kind Acc in
/-- Identity, engine, logs (R272, R283, R477, R576). -/
def membersLow (obj : Nat) : Option Members :=
  match obj with
  | 0x0000 => some [(1, memB 0x10 status s 0 64), (2, memB 0x10 status s 0 64), (3, memB 0x10 status s 0 64),
      (4, memB 0x11 status s 16 16), (5, mem 4 status s), (6, mem 3 sta e), (7, memR 0x0F status s 0 0 4),
      (8, memR 0x0F status s 0 0 1), (9, mem 3 dyn e 0xFFFF 16), (10, memB 0x11 status s 6 6)]
  | 0x0010 => some [(1, mem 0x0E status s), (2, mem 0x0D status s)]
  | 0x0020 => some [(1, mem 0x0E status s 0 256), (2, memR 0x0F status s 0 0 3 256), (3, mem 4 status s 0 256),
      (4, mem 4 status s 0 256), (5, mem 2 status s 0 256), (6, mem 3 status s 0 256), (7, mem 2 status s)]
  | 0x0030 => some ((List.range 7).map fun i => (i + 1, mem 4 status s))
  | 0x0040 => some [(1, mem 0x0E status s 0 64), (2, mem 4 status s 0 64), (3, mem 4 status s 0 64), (4, mem 2 status s)]
  | 0x0050 => some [(1, mem 4 status s), (2, memR 2 action e 0 0 1), (3, mem 4 status s), (4, mem 0x0E action e),
      (5, memR 0x0F status s 0 0 3), (6, mem 1 dyn e 1)]
  | 0x0051 => some [(1, memR 2 action e 0 0 1), (2, memB 0x11 action e 256 256 8192), (3, memB 0x11 action e 256 256 8192)]
  | 0x0060 => some [(1, mem 0x0E action e), (2, memR 0x0F status s 0 0 4), (3, mem 1 action e), (4, memR 0x0F dyn e 0 0 1),
      (5, mem 4 dyn e), (6, mem 1 action e), (7, mem 4 status s), (8, mem 4 status s)]
  | _ => none

open Kind Acc in
/-- A stream context (R80, R283, R616). -/
def membersCtx : Members :=
  [(1, memR 4 sta e 0 0 0x3FFF), (2, memR 3 sta e 0 0 4095), (3, memR 3 sta e 1 1 256), (4, memR 2 sta e 0 0 3),
   (5, memR 2 sta e 0 0 47), (6, memR 2 sta e 0xFF 0 255), (7, memR 2 sta e 0 0 7), (8, memR 3 sta e 0 0 4095),
   (9, mem 3 sta e), (10, mem 3 sta e), (11, memR 3 sta e 0 0 1023), (12, memR 3 sta e 0xFFFF 0 0xFFFF),
   (13, memR 3 sta e 0 0 1023), (14, mem 3 sta e), (15, memR 3 sta e 50 0 1000), (16, memR 2 sta e 0 0 64),
   (17, memR 0x0F sta e 0 0 3), (18, memR 2 sta e 96 96 127), (19, memR 2 sta e 0 0 1), (20, memR 0x0F dyn e 0 0 3),
   (21, memR 4 dyn e 0 0 0x3FFFF), (22, mem 4 dyn e 0 256), (23, mem 4 sta e), (24, mem 4 sta e),
   (25, memB 0x11 sta e 24 24), (26, memR 3 sta e 0 0 4095)]

open Kind Acc in
/-- An input or output strip (R283). -/
def membersStrip : Members :=
  [(1, mem 1 dyn e), (2, mem 0x12 dyn e), (3, memR 3 sta e 0 0 8191), (4, mem 0x0C dyn o), (5, mem 1 dyn o),
   (6, memR 3 dyn e 0 0 8192), (7, memR 4 dyn e 0 0 0x3FFFF), (15, memR 2 dyn e 0 0 16), (16, mem 0x0B dyn e 0 80),
   (17, memR 3 sta e 0 0 1024), (18, mem 0x0B dyn e 0 1024)]

open Kind Acc in
/-- A mix bus (R179). -/
def membersBus : Members :=
  [(1, mem 1 dyn e), (2, memR 3 dyn e 0 0 4096), (3, memR 3 sta e 0 0 8191), (4, mem 0x0C dyn o), (5, memR 0x0F dyn e 0 0 3),
   (6, memR 3 dyn e 0 0 12288), (7, mem 3 dyn e 4800), (8, memR 3 dyn e 48 0 8192), (9, mem 1 dyn e), (10, mem 5 dyn e 0 4096)]

open Kind Acc in
/-- The dynamics instances: arrays of 8,192 (R188). -/
def membersDyn : Members :=
  [(1, mem 1 dyn e 0 8192), (2, mem 0x12 sta e 0 8192), (3, memR 3 sta e 0 0 8191 8192),
   (4, memR 0x12 dyn e 0xFFFFFFFF 0 0xFFFFFFFF 8192), (5, memR 7 dyn e (-5120) (-24576) 0 8192), (6, memR 3 dyn e 0x400 0x100 0xFFFF 8192),
   (7, memR 3 dyn e 1536 0 6144 8192), (8, memR 4 dyn e 5000 10 500000 8192), (9, memR 4 dyn e 100000 1000 5000000 8192),
   (10, memR 0x0F dyn e 0 0 1 8192), (11, memR 4 dyn e 10000 1000 300000 8192), (12, memR 0x0C dyn o 0 0 0x1800 8192),
   (13, memR 3 sta e 0 0 384 8192), (14, memR 3 dyn e 0 0 1023 8192), (15, mem 1 dyn o 0 8192)]

open Kind Acc in
/-- A direct channel (R195, R283). -/
def membersDp : Members :=
  [(1, mem 1 dyn e), (2, mem 0x12 dyn e), (3, mem 0x0C dyn o), (4, mem 1 dyn o), (5, mem 1 dyn e 1),
   (6, memR 7 dyn e (-1536) (-6144) 0), (7, memR 4 dyn e 50000 5000 500000), (8, mem 1 dyn e 1),
   (9, memR 7 dyn e (-768) (-3072) 0), (10, memR 4 dyn e 0 0 0x3FFFF)]

open Kind Acc in
/-- A media port, 0-31 (R283, R291, R395-R405, R418). -/
def membersMp : Members :=
  [(1, memR 3 dyn e 10 0 50), (2, memR 8 dyn e 0 (-1000000) 1000000), (3, memR 8 dyn e 0 (-1000000) 1000000), (4, memR 0x0F sta e 0 0 4), (5, mem 1 dyn e),
   (6, memB 0x11 dyn e 6 6), (7, mem 4 dyn e), (8, memB 0x11 dyn e 16 16), (9, memR 3 sta e 1522 1522 9600), (10, mem 1 dyn e),
   (11, mem 1 dyn e 1), (12, memR 2 dyn e 3 0 7), (13, memR 2 dyn e 1 0 7), (14, memR 2 dyn e 7 0 7), (15, mem 1 dyn e 1),
   (16, memR 4 dyn e 32768 256 65536), (17, memR 4 dyn e 16384 0 65536), (18, memR 4 dyn e 163840 256 196608),
   (19, memR 4 dyn e 98304 0 196608), (20, mem 3 dyn e 65535), (21, mem 3 dyn e 100), (22, mem 1 dyn e 1), (23, mem 1 dyn e 1),
   (24, memR 2 dyn e 10 1 128), (25, memR 2 dyn e 0 0 3), (26, memR 2 dyn e 34 0 63), (27, memR 2 dyn e 46 0 63),
   (28, memR 2 dyn e 0 0 63), (29, memR 2 dyn e 64 0 255), (30, memB 0x11 dyn e 16 16 64)]

open Kind Acc in
/-- A peer link, 32-47 (R418). -/
def membersPl : Members := [(1, memR 3 dyn e 10 0 50), (5, mem 1 dyn e), (31, mem 3 dyn e 100)]

open Kind Acc in
/-- Groups, port authentication, port halves, network (R283, R406, R418). -/
def membersNet (obj : Nat) : Option Members :=
  if obj = 0xC100 then some [(1, mem 3 sta e 49560), (2, mem 3 sta e 0x88B5), (3, mem 3 sta e 49561)]
  else if 0xC200 ≤ obj ∧ obj ≤ 0xC20F then
    some [(1, mem 3 sta e), (2, memR 2 sta e 0 1 4), (3, memR 3 dyn e 100 10 10000), (4, memR 0x0F status s 0 0 4)]
  else if 0xC300 ≤ obj ∧ obj ≤ 0xC31F then
    some [(1, memR 0x0F dyn c 0 0 2), (2, memB 0x11 dyn k 32 32), (3, memB 0x11 dyn k 32 32), (4, mem 0x0E dyn c),
      (5, memB 0x11 dyn k 12 12), (6, mem 4 dyn c 64)]
  else if obj = 0xC400 then some [(1, memR 2 action e 0 0 1), (2, memR 2 action e 0 0 1)]
  else none

open Kind Acc in
/-- An aligned output (R224). -/
def membersAln : Members :=
  [(1, mem 1 dyn e), (2, mem 0x12 sta e), (3, memR 3 sta e 0 0 8191), (4, memR 5 dyn e 0 0 0x1FFFFFFFF), (5, memR 0x0F dyn e 0 0 1),
   (6, memR 3 dyn e 33 1 65535), (7, memR 3 dyn e 480 16 8192), (8, memR 0x0F dyn e 1 1 2), (9, memR 4 sta e 98304 64 98304),
   (10, memR 4 dyn e 98304 64 98304), (11, memR 0x0C dyn o 0 (-32768) 0x1800), (12, mem 1 dyn o), (13, memR 3 dyn e 48 0 8192)]

open Kind Acc in
/-- Address table, direct settings, slot publication (R81, R91, R282, R283). -/
def membersCsw (obj : Nat) : Option Members :=
  match obj with
  | 0x3000 => some [(1, memB 0x11 dyn e 32 32 1024)]
  | 0x3001 => some [(1, memR 3 dyn e 500 0 1000)]
  | 0x3002 => some [(1, memR 0x12 dyn e 0xFFFFFFFF 0 0xFFFFFFFF 8192)]
  | _ => none

open Kind Acc in
/-- Clusters and programs (R126, R131, R283). -/
def membersCl (obj : Nat) : Option Members :=
  if obj = 0xA000 then some [(1, memR 4 dyn e 400 0 86400), (2, memR 2 action e 0 0 0x88)]
  else if 0xA010 ≤ obj ∧ obj ≤ 0xA017 then some [(1, mem 5 dyn e)]
  else none

open Kind Acc in
/-- ALN pool, scenes, detectors and monitors (R202, R206, R232, R276-R279). -/
def membersD0 (obj : Nat) : Option Members :=
  match obj with
  | 0xD000 => some [(1, memR 5 sta e 0 0 (2 ^ 40)), (2, memR 5 sta e 0 0 1610612736)]
  | 0xD001 => some [(1, memR 0x0F status s 0 0 3 64), (2, mem 5 sta e), (3, mem 4 status s), (4, memR 4 dyn e 0 0 0x3FFFF 64)]
  | 0xD100 => some [(1, memR 0x12 dyn e 0xFFFFFFFF 0 0xFFFFFFFF 4096), (2, memR 7 dyn e (-11520) (-18432) (-7680) 4096),
      (3, memR 4 dyn e 2000 10 60000 4096)]
  | 0xD108 => some [(1, memR 4 dyn e 1000 10 60000 8)]
  | _ => none

open Kind Acc in
/-- System timing, time of day, selection, entries, PTP and clock outputs (R283, R310). -/
def membersTime (obj : Nat) : Option Members :=
  if obj = 0x1000 then some [(1, memR 0x0F sta e 3 0 5), (2, memR 0x0F sta e 1 0 3), (3, memR 2 sta e 60 25 90)]
  else if obj = 0x1001 then
    some [(1, memR 0x0F sta e 0 0 1), (2, mem 0x0D action e), (3, mem 7 dyn e), (4, mem 8 dyn e), (5, memR 3 dyn e 50 1 1000),
      (6, memR 4 dyn e 100 1 10000)]
  else if obj = 0x1010 then
    some [(1, memR 0x0F dyn e 0 0 3), (2, memR 2 dyn e 0 0 15), (3, mem 1 dyn e 1), (4, memR 3 dyn e 300 1 3600),
      (5, memR 2 dyn e 2 0 60), (6, mem 4 dyn e 1000), (7, mem 4 dyn e 1000), (8, memR 0x0D dyn e 1000 10 1000000),
      (9, memR 0x0F status s 0 0 7)]
  else if 0x1100 ≤ obj ∧ obj ≤ 0x110F then
    some [(1, mem 1 dyn e), (2, mem 2 dyn e), (3, memR 0x0F dyn e 0 0 2), (4, memR 0x0F dyn e 0 0 7), (5, mem 4 dyn e 2000),
      (6, mem 4 dyn e 10000), (7, mem 4 dyn e 500), (8, memR 3 dyn e 10 1 600), (9, memR 3 dyn e 10 1 600), (10, memR 3 dyn e 12 0 720),
      (11, mem 1 dyn e), (12, mem 1 dyn e), (13, mem 2 dyn e), (14, memR 0x0F status s 0 0 4)]
  else if obj = 0x1200 then
    some [(1, memR 0x0F sta e 0 0 2), (2, memR 2 dyn e 0 0 127), (3, mem 2 dyn e), (4, mem 2 dyn e), (5, mem 1 dyn e 0 32), (6, memR 6 dyn e 0 (-7) 1),
      (7, memR 6 dyn e 0 (-3) 3), (8, memR 0x0F dyn e 0 0 1), (9, mem 1 dyn e 0 32), (10, memB 0x11 dyn e 0 1024)]
  else if 0x1300 ≤ obj ∧ obj ≤ 0x1307 then
    some [(1, mem 1 dyn e), (2, memR 0x0F dyn e 0 0 2), (3, memR 4 dyn e 0 4 (2 ^ 20)), (4, memR 7 dyn e 0 (-10000) 10000)]
  else none

open Kind Acc in
/-- Pair and Owl service (R361). -/
def membersPair (obj : Nat) : Option Members :=
  if obj = 0xB000 then
    some [(1, mem 1 sta e), (2, mem 3 sta e), (3, mem 3 sta e), (4, memR 2 sta e 0 0 15), (5, mem 4 dyn e), (6, mem 1 dyn e 1),
      (7, memR 2 action e 0 0 255), (8, mem 0x0E action e), (9, mem 5 sta e), (10, mem 5 sta e), (11, mem 3 sta e 49562)]
  else if 0xB100 ≤ obj ∧ obj ≤ 0xB107 then
    some [(1, mem 1 dyn e), (2, mem 3 dyn e), (3, mem 3 dyn e), (4, mem 3 status s), (5, mem 3 status s)]
  else none

open Kind Acc in
/-- Memory health, power and thermal (R444, R527). -/
def membersD2 (obj : Nat) : Option Members :=
  if obj = 0xD200 then
    some [(1, memR 2 dyn e 4 1 24), (2, memR 2 dyn e 4 1 20), (3, mem 4 dyn e 1024), (4, mem 4 dyn e 256), (5, memR 2 action e 0 0 2),
      (6, memR 2 action e 0 0 2), (7, memR 0x0F status s 0 0 6 3)]
  else if obj = 0xD210 then some [(1, mem 4 status s), (2, mem 3 status s)]
  else if obj = 0xD300 then
    some [(1, mem 1 status s 0 17), (2, mem 2 action e), (3, memR 3 dyn e 40 25 100), (4, mem 3 status s), (5, memR 3 dyn e 100 10 1000)]
  else if 0xD310 ≤ obj ∧ obj ≤ 0xD31F then
    some [(1, memR 2 dyn e 0 0 127), (2, mem 2 dyn e), (3, mem 0x0F dyn e), (4, mem 1 dyn e), (5, mem 1 dyn e), (6, mem 3 dyn e),
      (7, mem 4 dyn e), (8, memR 0x0F status s 0 0 3)]
  else if obj = 0xD400 then some [(1, mem 6 status s 0 20), (2, memR 2 dyn e 10 5 30), (3, memR 0x0F status s 0 0 3)]
  else none

open Kind Acc in
/-- Security and roles (R390, R378). -/
def membersSec (obj : Nat) : Option Members :=
  if obj = 0xE000 then
    some [(2, memB 0x11 status s 64 64), (3, memB 0x11 status s 64 64), (4, memB 0x11 status s 32 32), (5, memR 0x0F status s 0 0 3),
      (6, mem 2 status s)]
  else if obj = 0xE001 then some [(1, memB 0x11 action c 0 16), (2, memB 0x11 action c 0 228), (3, memB 0x11 status s 0 116)]
  else if obj = 0xE002 then some [(1, memR 3 dyn c 60 10 3600), (2, mem 2 status s), (3, mem 4 status s)]
  else if obj = 0xE003 then some [(1, mem 2 action c), (2, mem 2 status s), (3, mem 2 action c), (4, mem 2 action c)]
  else if obj = 0xE004 then some [(1, memB 0x11 action c 0 32), (2, memB 0x11 action c 0 168), (3, mem 4 status s), (4, mem 4 status s)]
  else if obj = 0xE010 then some [(1, mem 4 dyn c 0 256)]
  else if 0xE401 ≤ obj ∧ obj ≤ 0xE7FF then
    some [(1, memB 0x11 dyn k 32 32), (2, memB 0x11 dyn k 32 32), (3, mem 0x0E dyn c), (4, memR 0x0F dyn c 0 0 1), (5, mem 4 status s)]
  else none

open Kind Acc in
/-- The TDM configuration of R77, whose members the spec does not list (log 17): the signal each local TDM input channel publishes, the
signal each TDM output slot selects, the signal each DP channel publishes; all ones for none.  Their object numbers lie above the 16 bits
of an object. -/
def membersTdm (obj : Nat) : Option Members :=
  match obj with
  | 0x10000 => some [(1, memR 0x12 dyn e 0xFFFFFFFF 0 0xFFFFFFFF 256)]
  | 0x10001 => some [(1, memR 0x12 dyn e 0xFFFFFFFF 0 0xFFFFFFFF 256)]
  | 0x10002 => some [(1, memR 0x12 dyn e 0xFFFFFFFF 0 0xFFFFFFFF 64)]
  | _ => none

/-- The members of an object (R250, R283). -/
def membersOf (obj : Nat) : Option Members :=
  if obj < 0x1000 then membersLow obj
  else if 0x2000 ≤ obj ∧ obj ≤ 0x2FFF then some membersCtx
  else if (0x4000 ≤ obj ∧ obj ≤ 0x4FFF) ∨ (0x6000 ≤ obj ∧ obj ≤ 0x6FFF) then some membersStrip
  else if 0x8000 ≤ obj ∧ obj ≤ 0x80FF then some membersBus
  else if obj = 0x9000 then some membersDyn
  else if 0x9800 ≤ obj ∧ obj ≤ 0x983F then some membersDp
  else if 0x7000 ≤ obj ∧ obj ≤ 0x7FFF then some membersAln
  else if 0x3000 ≤ obj ∧ obj ≤ 0x3002 then membersCsw obj
  else if 0x1000 ≤ obj ∧ obj ≤ 0x1FFF then membersTime obj
  else if 0xB000 ≤ obj ∧ obj ≤ 0xBFFF then membersPair obj
  else if 0xD200 ≤ obj ∧ obj ≤ 0xDFFF then membersD2 obj
  else if 0xE000 ≤ obj ∧ obj ≤ 0xEFFF then membersSec obj
  else if 0xA000 ≤ obj ∧ obj ≤ 0xA017 then membersCl obj
  else if 0xD000 ≤ obj ∧ obj ≤ 0xD108 then membersD0 obj
  else if 0xC000 ≤ obj ∧ obj ≤ 0xC01F then some membersMp
  else if 0xC020 ≤ obj ∧ obj ≤ 0xC02F then some membersPl
  else if 0xC100 ≤ obj ∧ obj ≤ 0xCFFF then membersNet obj
  else membersTdm obj

/-- The member with a number. -/
def memberOf (obj m : Nat) : Option Member :=
  match membersOf obj with
  | none => none
  | some l => tfind l m

/-- The key of an element in the value store. -/
def dictKey (obj m elem : Nat) : Nat := (obj * 256 + m) * 65536 + elem

/-- Writes over a configuration. -/
def overlay (v : Tab Val) (ws : List EWrite) : Tab Val := ws.foldl (fun v w => tset v (dictKey w.obj w.mem w.elem) w.val) v

/-- The bandwidth code a reference entry has by its source until it is written (R295): 10 mHz for PTP and 1PPS, 10 Hz for a line clock, else 100 Hz. -/
def bwDefault (src ty : Int) : Int := if src = 128 ∨ (src ≤ 3 ∧ ty = 2) then 1 else if 32 ≤ src ∧ src ≤ 79 then 4 else 5

/-- The number a member has by default (R615, R616): a channel-map word is unpublished on ingress and NULL on egress; a reference entry's
bandwidth follows its source. -/
def dfltN (v : Tab Val) (obj m : Nat) : Int :=
  if 0x2000 ≤ obj ∧ obj ≤ 0x2FFF ∧ m = 22 then
    match tfind v (dictKey obj 1 0) with
    | some (.num n) => if bitAt n.toNat 1 then 0x80000000 else 0
    | _ => 0
  else if 0x1100 ≤ obj ∧ obj ≤ 0x110F ∧ m = 4 then
    let num (k : Nat) : Int := match tfind v (dictKey obj k 0) with | some (.num n) => n | _ => 0
    bwDefault (num 2) (num 3)
  else
    match memberOf obj m with
    | some i => i.dflt
    | none => 0

/-- A number in force: the stored value, or the default (R253, R615, R616).  ENGINE1 follows ENGINE0 until it is written. -/
def cfgN (v : Tab Val) (obj m elem : Nat) : Int :=
  match tfind v (dictKey obj m elem) with
  | some (.num n) => n
  | _ =>
    if 0x2000 ≤ obj ∧ obj ≤ 0x2FFF ∧ m = 10 then
      match tfind v (dictKey obj 9 0) with
      | some (.num n) => n
      | _ => 0
    else dfltN v obj m

/-- A byte string in force. -/
def cfgB (v : Tab Val) (obj m elem : Nat) : List Byte :=
  match tfind v (dictKey obj m elem) with
  | some (.bytes b) => b
  | _ => []

def State.cfgI (s : State) (obj m elem : Nat) : Int := cfgN s.dict.vals obj m elem
def State.cfg (s : State) (obj m : Nat) (elem : Nat := 0) : Nat := (cfgN s.dict.vals obj m elem).toNat
def State.cfgOn (s : State) (obj m : Nat) (elem : Nat := 0) : Bool := cfgN s.dict.vals obj m elem != 0

/-- The objects of a range for which a member has a stored number other than 0. -/
def objectsWith (v : Tab Val) (lo hi m : Nat) : List Nat :=
  v.filterMap fun e =>
    let o := e.1 / 16777216
    if e.1 = dictKey o m 0 ∧ lo ≤ o ∧ o ≤ hi ∧ e.2 ≠ .num 0 then some o else none

/-- SPT under a configuration (R37, R283). -/
def sptOf (v : Tab Val) : Nat := 4 * 2 ^ (cfgN v 0x1000 2 0).toNat
/-- fs in Hz under a configuration (R2, R283). -/
def fsOf (v : Tab Val) : Nat := at? 96000 [44100, 48000, 88200, 96000, 176400, 192000] (cfgN v 0x1000 1 0).toNat

/-- SPT, samples per tick. -/
def State.spt (s : State) : Nat := sptOf s.dict.vals
/-- fs in Hz. -/
def State.fs (s : State) : Nat := fsOf s.dict.vals

end Sys2Proof.Machine
end

