-- ==== Sys2Proof/Machine/Events.lean ====
section
/-! DEFINITION. Events: their classes, shadows, logging, ERR_N, the fault flag, and the engine-state transitions they cause. -/

namespace Sys2Proof.Machine

/-! ### Block numbers (R481) and event tables -/

def blkTop := 0x00
def blkPwr := 0x01
def blkTime := 0x02
def blkRefsel := 0x03
def blkSec := 0x04
def blkFab := 0x05
def blkCsw := 0x06
def blkMix := 0x07
def blkDyn := 0x08
def blkDp := 0x09
def blkAln := 0x0A
def blkSil := 0x0B
def blkPair := 0x0C
def blkMemc := 0x0D
def blkSramc := 0x0E
def blkTw0 := 0x0F
def blkTw1 := 0x10
def blkHostp := 0x11
def blkTdm := 0x12
/-- Block number of cluster `n`. -/
def blkCl (n : Nat) : Nat := 0x20 + n
/-- Block number of port `p`, 0-31 media, 32-47 peer links (R80, R481). -/
def blkPort (p : Nat) : Nat := if p < 32 then 0x40 + p else 0x60 + (p - 32)

/-- The blocks the register map assigns (R579). -/
def blockExists (b : Nat) : Bool :=
  decide (b ≤ 0x12) || (decide (0x20 ≤ b) && decide (b ≤ 0x28)) || (decide (0x40 ≤ b) && decide (b ≤ 0x5F)) ||
    (decide (0x60 ≤ b) && decide (b ≤ 0x6F))

/-- Every block of the map. -/
def allBlocks : List Nat := (List.range 0x70).filter blockExists

open EvClass in
/-- The classes of a block's own events from 0x10 upward, in the order of its event table (R483, R484, R577 and the
tables R483 names).  "U or F" stands as U, the class FORCE gives it (R489). -/
def ownEvents (b : Nat) : List EvClass :=
  if b = blkTop then [c, u, f, u, u]
  else if b = blkPwr then [u, f, u, c, u, u, c, u, f, f, c, f]
  else if b = blkTime then [f]
  else if b = blkRefsel then [c, c, c, c, c, c, u, f]
  else if b = blkSec then [f, c, c, f, u, c, c, c, c, u, c, u, c]
  else if b = blkFab then [u, u, f, c, u]
  else if b = blkCsw then [u, u, c, c, c, c]
  else if b = blkDp then [u]
  else if b = blkAln then [c, u]
  else if b = blkPair then [u, u, c, u, u, c, u, u, u, c, c]
  else if b = blkMemc then [c, u, u, c, u, u, f]
  else if b = blkSramc then [c, u, c, u]
  else if b = blkTw0 then [c, c, c, u, u, u]
  else if b = blkTw1 then [c, c, c, c]
  else if b = blkHostp then [c, c, c]
  else if b = blkTdm then [u, c]
  else if 0x20 ≤ b ∧ b ≤ 0x28 then [c, u, u, u, u, u]
  else if 0x40 ≤ b then [c, c, c, c, c, c, c, c, u, u]
  else []

/-- Common events a block detects (R482 and the event tables): TICK_SEQ everywhere; OVERRUN, BUDGET and TAG_ERR in the
units that work on tick banks. -/
def commonEvents (b : Nat) : List Nat :=
  if b = blkCsw then [1, 2, 4]
  else if b = blkMix ∨ b = blkDyn ∨ b = blkAln ∨ b = blkSil ∨ (0x20 ≤ b ∧ b ≤ 0x28) then [1, 2, 3, 4]
  else [1]

/-- The class of an event (R482, R483); none where the block has no such event. -/
def eventClass (b ev : Nat) : Option EvClass :=
  if ev < 0x10 then (if ev ∈ commonEvents b then some (if ev = 1 then .f else .u) else none)
  else (ownEvents b)[ev - 0x10]?

/-- The bit of an event in the event maps: e for common events, 16 + i for block event 0x10 + i. -/
def eventBit (ev : Nat) : Nat := if ev < 0x10 then ev else ev

/-! ### Reset shadows (R501-R504) -/

def isCluster (b : Nat) : Bool := decide (0x20 ≤ b) && decide (b ≤ 0x28)

/-- A context that names a port (R80). -/
def State.ctxOnPort (s : State) (x p : Nat) : Bool := s.cfg (0x2000 + x) 5 == p || s.cfg (0x2000 + x) 6 == p

/-- The group whose lanes include a peer link (R412). -/
def State.groupOfLane (s : State) (q : Nat) : Option Nat := (List.range 16).find? fun g => bitAt (s.cfg (0xC200 + g) 1) q

/-- The lowest-numbered lane of a group (R412, R424). -/
def State.groupHead (s : State) (g : Nat) : Nat := ((List.range 16).find? fun q => bitAt (s.cfg (0xC200 + g) 1) q).getD 0

/-- Whether a REFSEL entry takes its reference from a port (R294): the line clock of that port, or PTP on its slave port. -/
def State.entryOnPort (s : State) (e p : Nat) : Bool :=
  s.cfgOn (0x1100 + e) 1 && (s.cfg (0x1100 + e) 2 == 32 + p || (s.cfg (0x1100 + e) 2 == 128 && s.refsel.ptpMaster == some p))

/-- Whether the shadow of a reset contains a detector (R503).  `down` holds the blocks downstream of the function; `who` is the context, entry, port
or unit concerned. -/
def State.inShadow (s : State) (func : Nat) (down : List Nat) (b ev who : Nat) : Bool :=
  if func ≤ 2 then
    (b = (if func = 0 then blkMix else blkDyn) && (ev = 2 || ev = 3) && (func = 0 || who = func - 1)) ||
      (down.contains b && (ev = 2 || ev = 4))
  else if func = 3 then b = blkDp && ev = 0x10
  else if func = 4 then (b = blkAln && (ev = 2 || ev = 3 || ev = 0x10)) || (b = blkCsw && ev = 4)
  else if func = 5 then (b = blkSil && (ev = 2 || ev = 3)) || (b = blkCsw && ev = 4)
  else if func = 6 then
    (b = blkCsw && (ev = 2 || ev = 0x10 || ev = 0x11)) ||
      ((isCluster b || (decide (blkMix ≤ b) && decide (b ≤ blkSil))) && (ev = 4 || ev = 2 || ev = 3)) ||
      (decide (0x40 ≤ b) && decide (b ≤ 0x5F) && ev = 0x13)
  else if func = 7 then b = blkSramc && (ev = 0x10 || ev = 0x12)
  else if func = 8 then (b = blkTw0 && decide (0x10 ≤ ev)) || (b = blkPwr && ev = 0x15)
  else if func = 9 then b = blkTw1 && decide (0x10 ≤ ev)
  else if func = 10 then b = blkHostp && decide (0x10 ≤ ev)
  else if 0x10 ≤ func ∧ func ≤ 0x18 then isCluster b && ev = 0x14
  else if 0x40 ≤ func ∧ func ≤ 0x5F then
    (b = func && (ev = 0x11 || ev = 0x10 || ev = 0x15 || ev = 0x16 || ev = 0x12)) ||
      (b = blkCsw && (ev = 0x10 || decide (0x12 ≤ ev)) && s.ctxOnPort who (func - 0x40)) ||
      (b = blkRefsel && (ev = 0x10 || ev = 0x12 || ev = 0x13) && s.entryOnPort who (func - 0x40))
  else if 0x60 ≤ func ∧ func ≤ 0x6F then
    (b = func && (ev = 0x11 || ev = 0x10 || ev = 0x17 || ev = 0x16)) ||
      (ev = 0x19 && decide (0x60 ≤ b) && s.groupOfLane (func - 0x60) = s.groupOfLane (b - 0x60)) ||
      (b = blkRefsel && (ev = 0x10 || ev = 0x13) && s.entryOnPort who (func - 0x60 + 32))
  else if 0x70 ≤ func then (b = blkTdm && (ev = 0x10 || ev = 0x11) && who = func - 0x70) || (b = blkDp && ev = 0x10)
  else false

/-- A shadow is open still: one that lasts some ticks closes at the boundary itself (R501, R505). -/
def State.shadowOpen (s : State) (sh : Shadow) : Bool :=
  match sh.ticks with
  | some k => !s.time.running || decide (s.time.tick < sh.openTick + k)
  | none => true

/-- The shadow that applies to a detection: that of the earliest open reset which contains it (R505). -/
def State.shadowFor (s : State) (b ev who : Nat) : Option Shadow :=
  s.top.shadows.find? fun sh => s.inShadow sh.func sh.down b ev who && s.shadowOpen sh

/-- FUNC of an entry under a shadow: the earliest of overlapping resets, until the last of their shadows closes (R505). -/
def State.shadowFunc (s : State) (sh : Shadow) (b ev who : Nat) : Nat :=
  match sh.before.find? fun f => s.inShadow f.1 f.2 b ev who with | some f => f.1 | none => sh.func

/-- A shadow holds a condition that its close re-examines (R504). -/
def State.holdIn (s : State) (sh : Shadow) (h : HeldCond) : State :=
  s.modTop fun t => { t with shadows := t.shadows.map fun y => if y.func = sh.func then { y with held := y.held ++ [h] } else y }

/-! ### Engine states (R27-R30, R587, R588) -/

/-- A function is held by its per-function reset (R498, R209). -/
def State.resetting (s : State) (f : Nat) : Bool := s.top.resets.any (fun r => r.func == f) || s.top.frstHeld.contains f

def EState.code : EState → Nat
  | .dawn => 0 | .morning => 1 | .noon => 2 | .dusk => 3 | .night => 4

/-- The domain, by code of R507, that a block lies in; none for PD_AON. -/
def blockDomain (b : Nat) : Option Nat :=
  if b = blkPwr ∨ b = blkSec ∨ b = blkTw1 then none
  else if b = blkTime ∨ b = blkRefsel then some 0
  else if blkMix ≤ b ∧ b ≤ blkSil then some 7
  else if b = blkMemc then some 6
  else if 0x20 ≤ b ∧ b ≤ 0x28 then some (8 + (b - 0x20))
  else if 0x40 ≤ b ∧ b ≤ 0x5F then some (if b < 0x50 then 4 else 5)
  else if 0x60 ≤ b ∧ b ≤ 0x6F then some (if b < 0x68 then 4 else 5)
  else some 1

/-- Ports of a port domain: 4 north, 5 south. -/
def portIn (d p : Nat) : Bool :=
  if d = 4 then decide (p < 16) || (decide (32 ≤ p) && decide (p < 40)) else (decide (16 ≤ p) && decide (p < 32)) || (decide (40 ≤ p) && decide (p < 48))

/-- The common registers after a reset that is no full engine reset: the fields marked RWS keep their values (R13, R490, R581, R584). -/
def Common.keepRws (c : Common) : Common :=
  { intStat := c.intStat, hist := c.hist, dropped := c.dropped, cntC := c.cntC, cntU := c.cntU, cntF := c.cntF, overrun := c.overrun }

/-- What the blocks of a domain lose with it (R25, R309, R469, R517); fields marked RWS stay (R13). -/
def State.domainLost (s : State) (d : Nat) : State :=
  let s0 : State := { s with commons := s.commons.map fun (e : Nat × Common) => if blockDomain e.1 = some d then (e.1, e.2.keepRws) else e }
  if d = 0 then
    { s0 with time := {}, refsel := {} }
  else if d = 1 then
    { s0 with fab := { s0.fab with ctrlSram := [], hall := [] }, tdm := {}, tw0 := {}, hostp := {}, sramc := {}, pair := {}, owl := []
              csw := {} }
  else if d = 2 ∨ d = 3 then s0.modFab fun f => { f with stby := if f.primary = d - 2 then f.stby else 0 }
  else if d = 4 ∨ d = 5 then
    { s0 with
      ports := s0.ports.map fun e => if portIn d e.1 then (e.1, {}) else e
      groups := s0.groups.map fun e => (e.1, { e.2 with active := e.2.active.filter fun q => !(portIn d (32 + q)) }) }
  else if d = 6 then { s0 with memc := { s0.memc with dram := [], poison := [], phase := 0, ppr := none, pprQ := none } }
  else if d = 7 then { s0 with mix := {}, dyn := {}, dp := {}, aln := {}, sil := {} }
  else
    s0.setCluster (d - 8) fun c =>
      { ({} : Cluster) with role := if c.role = 3 then 3 else 2, stFail := c.stFail, spareSince := c.spareSince }

/-- A transition: STATE, PREV, CAUSE and STATE_TICK change together (R587, R588); TW1 requests attention (R544). -/
def State.enter (s : State) (e : EState) (cause : Nat) : State :=
  { s with
    top := { s.top with
      state := e, prev := s.top.state, cause := cause, stateTick := if s.time.running then s.time.tick % 2 ^ 32 else 0
      duskTicks := 0 }
    tw1 := { s.tw1 with attnHw := s.tw1.attnHw.lor 2 } }

/-- A spare-in that Night abandons: the source keeps the work set (R134). -/
def Cluster.abandonSpin (c : Cluster) : Cluster :=
  if c.phase = 0 ∧ !c.spinStart then c else
  { c with phase := 0, matchCnt := 0, mismatches := 0, spinStart := false, spinAbandon := false, wset := 0, wsv := false, spinRotation := false }

/-- GEN of a configuration copy as a save compares it (R564): 0 for one that is not valid. -/
def cfgGenOf (c : Option CfgCopy) : Nat :=
  match c with
  | some x => if x.valid then x.gen else 0
  | none => 0

/-- The copy a save writes is that of flash B (R564): the lower GEN, B on a tie. -/
def Top.savesToB (t : Top) : Bool := decide (cfgGenOf t.cfgB ≤ cfgGenOf t.cfgA)

/-- A save that is cut off leaves the copy it was writing invalid (R564). -/
def Top.tearSave (t : Top) : Top :=
  let t1 := { t with saveRun := false, saveQ := none, saveCopy := none, saveFor := none }
  if t.saveCopy.isNone then t1
  else if t.savesToB then { t1 with cfgB := t.cfgB.map fun c => { c with valid := false } }
  else { t1 with cfgA := t.cfgA.map fun c => { c with valid := false } }

/-- Entry to Night (R459, R505, R573, R574): ticks stop, resets, spare-ins, migrations and saves are abandoned, a staged image
is discarded, fades and movements end where they stand, and the switched domains go off but for PD_AON and those kept; the blocks of a
domain that goes off lose their state. -/
def State.enterNight (s : State) (cause : Nat) : State :=
  let deep := s.cfg 0x0060 4 == 1
  let kept := if deep then 0 else ((s.cfg 0x0060 5).land 0x1FFFF).lor 7
  let s1 := s.enter .night cause
  let gone := (List.range 17).filter fun d => d != 2 && d != 3 && bitAt s.pwr.on d && !(bitAt kept d)
  let s2 := { s1 with
    time := { s1.time with running := false, ticked := false, todSet := false, corr := 0 }
    refsel := { s1.refsel with
      entries := [], inUse := none, mode := 0, hoSpec := false, switchTo := none, held := none, hist := [], sinceSel := 0
      loopCorr := 0, slewLeft := 0, buildOut := 0, realign := 0, xoDis := false }
    sec := { s1.sec with sessions := [], handshakes := [] }
    top := { s1.top.tearSave with
      nightDeep := deep, resets := [], resetQ := [], leaveAt := none, cfgReady := false, timeLocked := false
      classF := false, nightF := [] }
    clusters := s1.clusters.map fun e => (e.1, e.2.abandonSpin)
    memc := { s1.memc with phase := if s1.memc.ppr.isSome then 2 else 0, migQ := none }
    fab := { s1.fab with stage := if s1.fab.stage = 0 then 0 else 4, stagedGen := 0, handover := none, watchEnd := none
                         stby := if s1.fab.stby = 0 ∧ s1.fab.stage ≠ 1 ∧ s1.fab.stage ≠ 2 then 0 else 1 }
    spinQ := none
    csw := { s1.csw with fades := [], foxPast := [], fadeQ := [], foxActive := 0 }
    pwr := { s1.pwr with on := s1.pwr.on.land kept, busy := none, queue := [], gated := 0, waking := 0 } }
  foldS State.domainLost s2 gone

/-- What a class F event does to the engine (R479, R28, R30): at the next tick boundary while ticks run, at once otherwise.  Dusk
goes on to Night as it was; in Night the event stands against a RESUME (R29, log 163). -/
def State.classFNow (s : State) (b ev : Nat) : State :=
  match s.top.state with
  | .night => s.modTop fun t => { t with nightF := (b, ev) :: t.nightF }
  | .dusk => s
  | x =>
    if s.time.running then s.modTop fun t => { t with classF := true }
    else if x = .noon then s.enter .dusk 5 else s.enterNight 5

/-! ### Raising an event (R485) -/

/-- The history with a new entry: the queue holds 8, DROPPED counts what is overwritten (R490). -/
def Common.log (c : Common) (e : HistEntry) : Common :=
  { c with hist := (e :: c.hist).take 8
           dropped := if 8 ≤ c.hist.length then stopAt 255 c.dropped 1 else c.dropped }

/-- INT_STAT and the class counter of a raised event (R485). -/
def Common.flag (c : Common) (ev : Nat) (cls : EvClass) : Common :=
  let c1 := { c with intStat := c.intStat ||| w32 (2 ^ eventBit ev) }
  match cls with
  | .c => { c1 with cntC := c1.cntC + 1 }
  | .u => { c1 with cntU := c1.cntU + 1 }
  | .f => { c1 with cntF := c1.cntF + 1 }

/-- The ERR_N pulse of a qualifying event (R495-R497): it runs PW after the latest one, with the PW, UEN and FHOLD of now. -/
def Top.pulse (t : Top) (cls : EvClass) : Top :=
  if cls = .f ∨ (cls = .u ∧ t.errUen) then
    let pw := if t.errPw = 0 then 1 else if 10000 < t.errPw then 10000 else t.errPw
    let old := match t.errPulse with | some p => p.hold | none => false
    { t with errPulse := some ⟨pw, old || (decide (cls = .f) && t.errFhold)⟩ }
  else t

/-- Blocks whose class U events set the fault flag (R350): the processing blocks and the memories they compute in. -/
def processingBlock (b : Nat) : Bool :=
  isCluster b || (decide (blkCsw ≤ b) && decide (b ≤ blkSil)) || b = blkSramc || b = blkMemc

/-- A tick sets the fault flag (R350); those of the last 192 ticks are kept. -/
def Top.fault (t : Top) (tick : Nat) : Top := { t with faults := tick :: t.faults.filter fun f => f != tick && decide (tick < f + 192) }

/-- What an event of a class adds to the fault flag's record and to the class U events since the last HEALTH (R350, R351, R479). -/
def Top.mark (t : Top) (b : Nat) (cls : EvClass) (tick : Nat) : Top :=
  let t1 := if cls = .u then { t with uev := t.uev + 1 } else t
  if cls = .f ∨ (cls = .u ∧ processingBlock b) then t1.fault tick else t1

/-- OVERRUN is also reported in STATUS, under a shadow too (R584). -/
def Common.noteOverrun (c : Common) (ev : Nat) : Common := if ev = 2 then { c with overrun := true } else c

/-- The detail of an event whose chapter names none (R493): the low 32 bits of the tick, 0 outside the ticks. -/
def State.tickDetail (s : State) : Nat := if s.time.running then s.time.tick % 2 ^ 32 else 0

/-- A detection by a block, outside or inside a reset shadow (R485, R501).  `persist` marks an event raised at a close (R504). -/
def State.raiseAs (s : State) (b ev : Nat) (cls : EvClass) (who detail : Nat) (persist : Option Nat) : State :=
  let sh := if cls = .f then none else s.shadowFor b ev who
  let e : HistEntry :=
    { code := b * 256 + ev, cls := cls, conseq := sh.isSome, forced := false, polled := false, persist := persist.isSome
      func := match sh with | some x => s.shadowFunc x b ev who | none => persist.getD 0
      stamped := false, stamp := 0, detail := detail % 2 ^ 32 }
  let s1 := s.setCommon b fun c => (c.log e).noteOverrun ev
  match sh with
  | some x => s1.holdIn x ⟨b, ev, who⟩
  | none =>
    let s2 := (s1.setCommon b fun c => c.flag ev cls).modTop fun t => (t.pulse cls).mark b cls s.time.tick
    let s3 := if cls = .f ∨ (cls = .u ∧ s.top.errUen) then
        { s2 with tw1 := { s2.tw1 with attnHw := s2.tw1.attnHw.lor 1 } }.emit (.pin 0 true)
      else s2
    if cls = .f then s3.classFNow b ev else s3

/-- An event raised with a detail of its own. -/
def State.raise (s : State) (b ev : Nat) (cls : EvClass) (detail : Nat) : State := s.raiseAs b ev cls detail detail none

/-- An event raised whose detail is the tick (R493). -/
def State.raiseT (s : State) (b ev : Nat) (cls : EvClass) (who : Nat := 0) : State := s.raiseAs b ev cls who s.tickDetail none

end Sys2Proof.Machine
end

