-- ==== Sys2Proof/Machine/Sources.lean ====
section
/-! DEFINITION. Stream contexts, the subscription table and the samples of a source (R77-R83, R47, R50, R282). -/

namespace Sys2Proof.Machine

/-! ### Descriptors (R80) -/

def ctxN (v : Tab Val) (x m : Nat) : Nat := (cfgN v (0x2000 + x) m 0).toNat
def ctlBit (v : Tab Val) (x i : Nat) : Bool := bitAt (ctxN v x 1) i
def ctxValid (v : Tab Val) (x : Nat) : Bool := ctlBit v x 0
def ctxEgress (v : Tab Val) (x : Nat) : Bool := ctlBit v x 1
/-- MODE: 0 Kapo tick stream, 1 Kapo direct stream, 2 RTP. -/
def ctxMode (v : Tab Val) (x : Nat) : Nat := bitsOf (ctxN v x 1) 2 2
/-- FWD: 0 PROCESSED, 1 REPACK, 2 CUTTHRU. -/
def ctxFwd (v : Tab Val) (x : Nat) : Nat := bitsOf (ctxN v x 1) 4 2
def ctxMerge (v : Tab Val) (x : Nat) : Bool := ctlBit v x 13
def ctxNch (v : Tab Val) (x : Nat) : Nat := ctxN v x 3
/-- A channel-map word (R83). -/
def ctxMap (v : Tab Val) (x c : Nat) : Nat := (cfgN v (0x2000 + x) 22 c).toNat

/-- Insertion into a rising list without repeats. -/
def insertN (x : Nat) : List Nat → List Nat
  | [] => [x]
  | y :: t => if x < y then x :: y :: t else if x = y then y :: t else y :: insertN x t

/-- A rising list without repeats. -/
def sortN : List Nat → List Nat
  | [] => []
  | x :: t => insertN x (sortN t)

/-- The valid contexts, ascending. -/
def validCtxs (v : Tab Val) : List Nat := sortN (((objectsWith v 0x2000 0x2FFF 1).map (· - 0x2000)).filter (ctxValid v))

/-- The valid ingress contexts, ascending. -/
def ingressCtxs (v : Tab Val) : List Nat := (validCtxs v).filter fun x => !ctxEgress v x

/-- The valid egress contexts, ascending. -/
def egressCtxs (v : Tab Val) : List Nat := (validCtxs v).filter (ctxEgress v)

/-- The first direct channel of a direct context: direct channels are numbered over the valid direct contexts of its
direction, ascending (log 18). -/
def directBase (v : Tab Val) (x : Nat) : Nat :=
  sumN ((((validCtxs v).filter fun y => ctxEgress v y == ctxEgress v x && ctxMode v y == 1 && decide (y < x))).map (ctxNch v))

/-! ### The subscription table (R77) -/

/-- The entry of a signal that an ingress channel publishes, from one stored channel-map word. -/
def pubOfWord (v : Tab Val) (sig : Nat) (e : Nat × Val) : Option Src :=
  let o := e.1 / 16777216
  let c := e.1 % 65536
  let x := o - 0x2000
  if 0x2000 ≤ o ∧ o ≤ 0x2FFF ∧ e.1 / 65536 % 256 = 22 ∧ e.2 = .num (0x80000000 + sig) ∧ ctxValid v x ∧ !ctxEgress v x ∧ c < ctxNch v x then
    if ctxMode v x = 1 then some ⟨3, directBase v x + c, 0⟩ else some ⟨0, x, c⟩
  else none

/-- The entry of a signal that an output bank slot publishes (R282). -/
def pubOfSlot (sig : Nat) (e : Nat × Val) : Option Src :=
  if e.1 / 65536 = 0x300201 ∧ e.2 = .num sig then some ⟨2, e.1 % 65536, 0⟩ else none

/-- The entry of a signal that a TDM input channel or a DP channel publishes (R77, R195, log 17). -/
def pubOfTdm (sig : Nat) (e : Nat × Val) : Option Src :=
  if e.2 ≠ .num sig then none
  else if e.1 / 65536 = 0x1000001 then some ⟨1, e.1 % 65536, 0⟩
  else if e.1 / 65536 = 0x1000201 then some ⟨4, e.1 % 65536, 0⟩
  else none

/-- The subscription entry of a signal (R77); none where the engine does not hold it. -/
def subscription (v : Tab Val) (sig : Nat) : Option Src :=
  v.findSome? fun e => (pubOfWord v sig e).or ((pubOfSlot sig e).or (pubOfTdm sig e))

/-- The entry of a signal under a configuration; one that an uncorrectable word hides counts as absent for the tick (R427). -/
def State.subIn (s : State) (v : Tab Val) (sig : Nat) : Option Src :=
  if s.csw.hidden.contains (.subscription sig) then none else subscription v sig

/-- The entry of a signal under the configuration of PROCESS. -/
def State.sub (s : State) (sig : Nat) : Option Src := s.subIn s.dict.vals sig

/-! ### The configuration of a tick (R18, R175, R270) -/

/-- Insertion into a list of commits by rising tick. -/
def insertAt (e : Nat × List CUnit) : Tab (List CUnit) → Tab (List CUnit)
  | [] => [e]
  | y :: t => if e.1 ≤ y.1 then e :: y :: t else y :: insertAt e t

/-- Commits by rising tick. -/
def sortAt : Tab (List CUnit) → Tab (List CUnit)
  | [] => []
  | e :: t => insertAt e (sortAt t)

/-- The configuration at the start of tick `a`: the values in force and the sealed commits of earlier ticks. -/
def State.configAt (s : State) (a : Nat) : Tab Val :=
  (sortAt (s.dict.sealed.filter fun e => decide (e.1 < a))).foldl (fun v e => e.2.foldl (fun v u => overlay v u.writes) v) s.dict.vals

/-- The configuration of tick `n`: that of the commits up to tick `n`. -/
def State.conf (s : State) (n : Nat) : Tab Val := s.configAt (n + 1)

/-- The configuration of the present tick, for what does not wait for PROCESS: direct channels, address table (R81, R83, R175). -/
def State.live (s : State) : Tab Val := s.conf s.time.tick

/-! ### Samples -/

/-- Keys of the gather and output banks. -/
def bankKey (tick i : Nat) : Nat := tick * 8192 + i
/-- Gather-bank index of a local TDM input channel. -/
def tdmIndex (ch : Nat) : Nat := 4096 + ch

/-- `n` zero samples. -/
def zeros (n : Nat) : List Int := List.replicate n 0

/-- The samples of one channel of sample-major data, SPT of them. -/
def TickData.channel (d : TickData) (spt c : Nat) : List Int := (List.range spt).map fun k => at? 0 d.samples (k * d.nch + c)

/-- Whether a context is PRESENT for a tick whose cutoff has passed (R47). -/
def State.isPresent (s : State) (tick x : Nat) : Bool := (tget [] s.csw.present tick).contains x

/-- The samples of a source for a tick; a MISSING stream, an unwritten slot and a missing entry read as zero (R47, R78, R282). -/
def State.srcTick (s : State) (tick : Nat) (r : Option Src) : List Int :=
  match r with
  | none => zeros s.spt
  | some r =>
    if r.kind = 0 then
      if s.isPresent tick r.index then
        match tfind s.csw.gather (bankKey tick r.index) with
        | some d => d.channel s.spt r.ch
        | none => zeros s.spt
      else zeros s.spt
    else if r.kind = 1 then
      match tfind s.csw.gather (bankKey tick (tdmIndex r.index)) with
      | some d => d.channel s.spt 0
      | none => zeros s.spt
    else if r.kind = 2 then tget (zeros s.spt) s.csw.out (bankKey tick r.index)
    else zeros s.spt

/-- The samples of a signal for a tick. -/
def State.sigTick (s : State) (tick sig : Nat) : List Int := s.srcTick tick (s.sub sig)

/-- The first sample number of a tick (R37). -/
def State.firstSample (s : State) (tick : Nat) : Nat := tick * s.spt

/-! ### Detectors (R202, R205) -/

/-- The signal of a detector (R202); none: unassigned, which is also the default. -/
def detSig (v : Tab Val) (d : Nat) : Option Nat :=
  match tfind v (dictKey 0xD100 1 d) with
  | some (.num g) => if g = 0xFFFFFFFF then none else some g.toNat
  | _ => none

/-- The assigned detectors. -/
def detAssigned (v : Tab Val) : List Nat :=
  sortN (v.filterMap fun e => if e.1 / 65536 = 0xD10001 ∧ e.2 ≠ .num 0xFFFFFFFF then some (e.1 % 65536) else none)

/-- A signal's detector was SILENT after a tick. -/
def State.silentAfter (s : State) (g tick : Nat) : Bool :=
  match s.sil.log.find? fun e => e.1 == g && e.2.1 == tick with
  | some e => e.2.2
  | none => false

/-- A signal has a detector. -/
def hasDetector (v : Tab Val) (g : Nat) : Bool := (detAssigned v).any fun d => detSig v d == some g

/-! ### Ramps (R174) and gains (R173) -/

/-- The value of a ramp at a sample number. -/
def Ramp.at (r : Ramp) (k : Nat) : Int :=
  if k < r.start then r.v0
  else if r.start + r.len ≤ k + 1 then r.v1
  else r.v0 + Int.fdiv ((r.v1 - r.v0) * ((k - r.start : Nat) + 1)) r.len

/-- A new target from sample `k` on: the ramp starts from the value reached at the last sample before (R174). -/
def Ramp.to (r : Ramp) (v1 : Int) (len k : Nat) : Ramp := { v0 := r.at (k - 1), v1 := v1, len := len, start := k }

/-- A ramp at rest. -/
def Ramp.rest (v : Int) : Ramp := { v0 := v, v1 := v, len := 0, start := 0 }

/-- A ramp has reached its target at sample `k`. -/
def Ramp.done (r : Ramp) (k : Nat) : Bool := decide (r.start + r.len ≤ k)

/-- round_half_up(2^m * 10^(num / 5120)) for a number of 256ths of a dB: the largest n with 2n - 1 at most twice the value. -/
def dbPow (m : Nat) (num : Int) : Nat :=
  bisect (fun n => if 0 ≤ num then decide ((2 * n - 1) ^ 5120 ≤ 2 ^ ((m + 1) * 5120) * 10 ^ num.toNat)
    else decide ((2 * n - 1) ^ 5120 * 10 ^ (-num).toNat ≤ 2 ^ ((m + 1) * 5120))) 32 0

/-- lin(G) of R173 in Q5.27; mute is 0. -/
def linGain (g : Int) : Int := if g = -32768 then 0 else dbPow 27 g

end Sys2Proof.Machine
end

