-- ==== Sys2Proof/Machine/Wire.lean ====
section
/-! DEFINITION. Wire formats: CRC-32C, sample formats, AES3 subframes, Kapo headers and tags (R50-R52, R54-R59, R63-R65, R71). -/

namespace Sys2Proof.Machine

/-! ### CRC-32C (R59) -/

def crcBit (c : Word) : Word := if c.getLsbD 0 then (c >>> 1) ^^^ 0x82F63B78 else c >>> 1

def crcByte (c : Word) (b : Byte) : Word := iter crcBit 8 (c ^^^ b.setWidth 32)

def crc32c (l : List Byte) : Word := l.foldl crcByte 0xFFFFFFFF ^^^ 0xFFFFFFFF

/-! ### Samples (R50-R52, R71) -/

/-- Bytes per sample: Kapo formats 0-3, and L24 and L16 as 4 and 5. -/
def fmtSize (f : Nat) : Nat := if f = 1 ∨ f = 4 then 3 else if f = 5 then 2 else 4

/-- Big-endian bytes of a two's complement number. -/
def intBytes (n : Nat) (x : Int) : List Byte := beBytes n (x % (256 ^ n : Nat)).toNat

/-- A Q1.31 result in `n` bits (R52): rounded half up or truncated, then saturated. -/
def narrow (n : Nat) (trunc : Bool) (x : Int) : Int :=
  satTo (n - 1) (if trunc then floorShift x (32 - n) else roundShift x (32 - n))

/-- Even parity over bits [31:5] of a subframe (R51). -/
def parity (w : Word) : Bool := ((List.range 27).filter fun i => w.getLsbD (i + 5)).length % 2 == 1

/-- An AES3 subframe (R51): audio word, V, U, C, P, preamble. -/
def subframe (audio : Int) (v u c : Bool) (pre : Nat) : Word :=
  let w := (BitVec.ofInt 32 (audio * 256) &&& 0xFFFFFF00#32) ||| w32 (128 * b2n v + 64 * b2n u + 32 * b2n c)
  w ||| w32 (16 * b2n (parity w) + pre)

/-- Preamble code of a channel in the frame of a sample number (R51). -/
def preamble (ch sample : Nat) : Nat := if ch % 2 = 1 then 0 else if sample % 192 = 0 then 2 else 1

/-- The C bit of the frame of a sample number (R51). -/
def csBit (block : List Byte) (sample : Nat) : Bool := (at? 0#8 block (sample % 192 / 8)).getLsbD (sample % 8)

/-- A sample on the wire of an egress context: format, ROUND, channel, label sample number, channel-status block. -/
def toWire (fmt : Nat) (trunc : Bool) (ch sample : Nat) (cs : List Byte) (x : Int) : List Byte :=
  match fmt with
  | 0 => intBytes 4 x
  | 1 => intBytes 3 (narrow 24 trunc x)
  | 2 => intBytes 4 (narrow 24 trunc x * 256)
  | 3 => beBytes 4 (subframe (narrow 24 trunc x) false false (csBit cs sample) (preamble ch sample)).toNat
  | 4 => intBytes 3 (narrow 24 trunc x)
  | _ => intBytes 2 (narrow 16 trunc x)

/-- A received sample in Q1.31 (R50, R71). -/
def fromWire (fmt : Nat) (b : List Byte) : Int :=
  let n := beNat b
  match fmt with
  | 0 => (w32 n).toInt
  | 1 => (w32 (n * 256)).toInt
  | 4 => (w32 (n * 256)).toInt
  | 5 => (w32 (n * 65536)).toInt
  | _ => (w32 (n / 256 * 256)).toInt

/-- A byte list cut into pieces of `n` bytes, at most `k` of them. -/
def pieces (n : Nat) : Nat → List Byte → List (List Byte)
  | 0, _ => []
  | k + 1, l => if l.length < n then [] else l.take n :: pieces n k (l.drop n)

/-- The samples of a payload (R49, R50), with bits [7:0] of AES3 subframes (R86). -/
def payloadData (fmt nch count : Nat) (l : List Byte) : TickData :=
  let ps := pieces (fmtSize fmt) (nch * count) l
  { nch := nch, samples := ps.map (fromWire fmt), side := if fmt = 3 then ps.map fun p => (at? 0#8 p 3).toNat else [] }

/-! ### Kapo header (R55-R57) -/

structure Kapo where
  ver : Nat
  htype : Nat
  auth : Bool
  silent : Bool
  tags : Bool
  direct : Bool
  mirror : Bool
  fence : Bool
  engine : Nat
  stream : Nat
  epoch : Nat
  tick : Nat
  seq : Nat
  nch : Nat
  fmt : Nat
  spt : Nat
  taglen : Nat
  keyid : Nat
  tstart : Nat
  crcOk : Bool
  deriving DecidableEq, Repr

/-- The field of `n` bytes at an offset. -/
def field (l : List Byte) (o n : Nat) : Nat := beNat ((l.drop o).take n)

/-- The header of a Kapo frame of at least 32 bytes. -/
def kapoHeader (l : List Byte) : Kapo :=
  let fl := field l 1 1
  let x := field l 14 2
  { ver := field l 0 1 / 16, htype := field l 0 1 % 16, auth := bitAt fl 7, silent := bitAt fl 6, tags := bitAt fl 5
    direct := bitAt fl 4, mirror := bitAt fl 3, fence := bitAt fl 2, engine := field l 2 2, stream := field l 4 2 % 4096
    epoch := field l 6 2, tick := field l 8 4, seq := field l 12 2, nch := x % 512, fmt := x / 512 % 8, spt := x / 4096 % 4
    taglen := field l 16 2, keyid := field l 18 2, tstart := field l 20 8
    crcOk := decide (field l 28 4 = (crc32c (l.take 28)).toNat) }

/-- The payload's length in bytes (R53, R91): one sample a channel in a direct frame. -/
def Kapo.payloadLen (k : Kapo) (spt : Nat) : Nat := k.nch * (if k.direct then 1 else spt) * fmtSize k.fmt

/-- The derived length (R54). -/
def Kapo.length (k : Kapo) (spt : Nat) : Nat := 32 + 8 * k.taglen + k.payloadLen spt + (if k.auth then 16 else 0)

/-! ### Tags (R63-R65) -/

structure Tag where
  pos : Nat
  ttype : Nat
  target : Nat
  offset : Nat
  strict : Bool
  bcast : Bool
  group : Bool
  body : List Byte
  deriving DecidableEq, Repr

/-- The tags of an area; the flag says that decoding ended early (R65). -/
def parseTags : Nat → Nat → List Byte → List Tag × Bool
  | 0, _, l => ([], !l.isEmpty)
  | n + 1, pos, l =>
    if l.isEmpty then ([], false)
    else
      let len := 8 * field l 1 1
      let fl := field l 6 1
      if l.length < 8 ∨ len = 0 ∨ l.length < len ∨ (bitAt fl 1 ∧ bitAt fl 2) then ([], true)
      else
        let t : Tag :=
          { pos := pos, ttype := field l 0 1, target := field l 2 2, offset := field l 4 2, strict := bitAt fl 0
            bcast := bitAt fl 1, group := bitAt fl 2, body := (l.take len).drop 8 }
        let (ts, bad) := parseTags n (pos + 1) (l.drop len)
        (t :: ts, bad)

/-- The tags of an area of `n` units of 8 bytes. -/
def tagsOf (l : List Byte) (n : Nat) : List Tag × Bool := parseTags n 0 (l.take (8 * n))

/-! ### Number reconstruction (R11, R39) -/

/-- The full number whose low 32 bits are `x`, nearest to `ref` by the signed difference. -/
def fullTick (ref x : Nat) : Int := ref + sdiff32 x (ref % 2 ^ 32)

/-- EPOCH an engine sends under (R58): 0 while unpaired. -/
def State.sendEpoch (s : State) : Nat := if s.pair.role = 0 then 0 else s.pair.epoch

/-- KEYID of a context that sends with AUTH (R80). -/
def txKey (v : Tab Val) (x : Nat) : Option Nat := if ctlBit v x 10 then some (ctxN v x 13) else none

/-- A frame with a TICK field under a slot uses NEXT from SWITCH on (R378). -/
def KeySlot.usesNext (x : KeySlot) (tick : Nat) : Bool := !x.next.isEmpty && decide (x.switch ≤ tick)

/-- A slot's key still serves a frame of tick `tick` whose TICK field is `field` (R380). -/
def KeySlot.serves (x : KeySlot) (tick field : Nat) : Bool :=
  x.usesNext tick || (!x.expired && (match x.first with | some f => decide ((field + 2 ^ 32 - f % 2 ^ 32) % 2 ^ 32 < 2 ^ 31) | none => true))

/-- A frame sent or accepted under a slot's key counts toward its life (R380). -/
def KeySlot.use (x : KeySlot) (tick field : Nat) : KeySlot :=
  if x.usesNext tick then { x with nextFirst := some (x.nextFirst.getD field) }
  else match x.first with
    | none => { x with first := some field }
    | some f => { x with units := Nat.max x.units ((field + 2 ^ 32 - f % 2 ^ 32) % 2 ^ 32) }

def State.mediaKey (s : State) (k : Nat) : KeySlot := tget {} s.sec.keys k
def State.setKey (s : State) (k : Nat) (f : KeySlot → KeySlot) : State := { s with sec := { s.sec with keys := tmod {} s.sec.keys k f } }

/-- A context may send a frame: it is sent in the clear, or its key still serves. -/
def State.keyServes (s : State) (x tick field : Nat) : Bool :=
  match txKey s.dict.vals x with
  | none => true
  | some k => (s.mediaKey k).serves tick field

def State.keyUse (s : State) (x tick field : Nat) : State :=
  match txKey s.dict.vals x with
  | none => s
  | some k => s.setKey k fun y => y.use tick field

/-- The networks a context sends on: A, and B with MERGE (R81). -/
def networks (v : Tab Val) (x : Nat) : List Bool := if ctxMerge v x then [false, true] else [false]

/-- TSTART of a tick or of a sample (R37, R58): the low 64 bits of the whole nanoseconds. -/
def State.tstart (s : State) (sample : Nat) : Nat := sample * 1000000000 / s.fs % 2 ^ 64

/-- Overhead of R53 on a port without the tag area and payload; 12 bytes on a peer link (R409). -/
def frameOverhead (v : Tab Val) (x p : Nat) : Nat :=
  let inner := if ctxMode v x = 2 then 12 else 32 + (if ctlBit v x 9 || ctlBit v x 10 then 16 else 0)
  if 32 ≤ p then 12 + inner
  else
    let ip := match bitsOf (ctxN v x 1) 6 2 with | 1 => 28 | 2 => 48 | _ => 0
    14 + (if ctlBit v x 8 then 4 else 0) + 4 + ip + inner + (if cfgN v (0xC300 + p) 1 0 != 0 then 32 else 0)

/-! ### Frames on the wire (R80, R397, R399, R409-R411, R423) -/

/-- The port of a context on network A or B. -/
def ctxPort (v : Tab Val) (x : Nat) (netB : Bool) : Nat := if netB then ctxN v x 6 else ctxN v x 5

/-- A count of 64 bits in two words, low word first, increased (R423). -/
def bumpWide (t : Tab Word) (i n : Nat) : Tab Word :=
  let k := (tget 0 t i).toNat + 2 ^ 32 * (tget 0 t (i + 1)).toNat + n
  tset (tset t i (w32 k)) (i + 1) (w32 (k / 2 ^ 32))

/-- A frame a port completes: TX_FRAMES and TX_OCTETS (R423). -/
def State.countTx (s : State) (p len : Nat) : State := (s.countPort p 3).setPort p fun x => { x with cnt := bumpWide x.cnt 4 len }

/-- A frame received that passes every check: RX_FRAMES and RX_OCTETS (R423). -/
def State.countRx (s : State) (p len : Nat) : State := (s.countPort p 0).setPort p fun x => { x with cnt := bumpWide x.cnt 1 len }

/-- The association number of NEXT (R406). -/
def KeySlot.nextAn (x : KeySlot) : Nat := (x.an + 1) % 4

/-- A frame takes the next packet number of the key it is sent under. -/
def KeySlot.numbered (x : KeySlot) (tick : Nat) : KeySlot :=
  if x.usesNext tick then { x with sentNext := x.sentNext + 1 } else { x with sentCur := x.sentCur + 1 }

def State.portKey (s : State) (p : Nat) : KeySlot := tget {} s.sec.portKeys p
def State.setPortKey (s : State) (p : Nat) (f : KeySlot → KeySlot) : State := { s with sec := { s.sec with portKeys := tmod {} s.sec.portKeys p f } }

/-- The SecTAG of a frame that is no MAC control frame, on a port with authentication: NEXT's association number from tick SWITCH on (R406,
log 172). -/
def State.secure (s : State) (p : Nat) : State :=
  if !(s.cfgOn (0xC300 + p) 1) then s
  else
    let t := s.time.tick
    let x := (s.portKey p).numbered t
    (s.setPortKey p fun y => y.numbered t).emit (.secTag p (if x.usesNext t then x.nextAn else x.an) (if x.usesNext t then x.sentNext else x.sentCur))

/-- A MAC control frame. -/
def Emission.macControl (e : Emission) : Bool := match e with | .pfc _ _ _ => true | _ => false

/-- A frame leaves a media port, if its link is up. -/
def State.sendMedia (s : State) (p len : Nat) (e : Emission) : State :=
  if !(s.port p).up then s
  else ((if e.macControl then s else s.secure p).emit e).countTx p (Nat.max 64 len)

def Port.paused (x : Port) (bulk : Bool) : Bool := if bulk then x.pausedBulk else x.pausedCtl
def Port.setPaused (x : Port) (bulk b : Bool) : Port := if bulk then { x with pausedBulk := b } else { x with pausedCtl := b }

/-- A frame of CONTROL or BULK leaves a media port, or waits while its class is paused (R403). -/
def State.sendClass (s : State) (p : Nat) (bulk : Bool) (len : Nat) (e : Emission) : State :=
  if (s.port p).paused bulk then s.setPort p fun x => { x with held := x.held ++ [(bulk, len, e)] } else s.sendMedia p len e

/-- A pause ends: the frames of the class that wait leave in their order (R398, R403). -/
def State.unpause (s : State) (p : Nat) (bulk : Bool) : State :=
  let l := (s.port p).held.filter fun h => h.1 == bulk
  let s1 := s.setPort p fun x => { x.setPaused bulk false with held := x.held.filter fun h => h.1 != bulk }
  foldS (fun (s : State) h => s.sendMedia p h.2.1 h.2.2) s1 l

/-- The credits a frame takes (R410). -/
def PlFrame.credits (f : PlFrame) : Nat := ceilDiv f.len 64

/-- A frame may start: its VC holds its credits (R410). -/
def Group.canStart (g : Group) (f : PlFrame) : Bool := decide (f.credits ≤ at? 0 g.credit f.vc)

/-- The header of a peer-link frame whose Kapo frame has `n` bytes (R409). -/
def linkHead (vc fseq n : Nat) : List Byte := [b8 (16 + vc), 0] ++ beBytes 2 (12 + n) ++ beBytes 2 fseq ++ [0, 0]

/-- A peer-link frame, header to PCRC (R409). -/
def linkFrame (vc fseq : Nat) (kapo : List Byte) : List Byte :=
  let b := linkHead vc fseq kapo.length ++ kapo
  b ++ beBytes 4 (crc32c b).toNat

/-- A Kapo or RTP frame as it goes over a peer link. -/
def onLink (vc fseq : Nat) : Emission → Emission
  | .kapo x b ep t q si fe k tags pay w => .kapo x b ep t q si fe k tags pay (linkFrame vc fseq w)
  | .direct x b ep t q k pay w => .direct x b ep t q k pay (linkFrame vc fseq w)
  | .cut x b _ bytes st => .cut x b (linkHead vc fseq bytes.length) bytes st
  | .mirror h (.wire w) => .mirror h (.wire (linkFrame vc fseq w))
  | e => e

/-- A frame of a group starts: it takes its credits and the next FSEQ, and stays in the replay buffer (R409-R411). -/
def State.plStart (s : State) (g : Nat) (f : PlFrame) : State :=
  let s1 := (s.setGroup g fun x => { x with
    credit := listSet x.credit f.vc (at? 0 x.credit f.vc - f.credits), txSeq := (x.txSeq + 1) % 2 ^ 16
    replay := x.replay ++ [{ f with fseq := x.txSeq }] }).countTx (32 + s.groupHead g) f.len
  match f.out with
  | some e => s1.emit (onLink f.vc (s.group g).txSeq e)
  | none => s1

/-- The frame at the head is one to send again (R411). -/
def Group.replaying (x : Group) : Bool := match x.waiting with | f :: _ => f.replays != 0 | [] => false

/-- A frame for a group that is not down: it starts, or waits behind its VC, its credits and frames to send again (R410, R411). -/
def State.plSend (s : State) (g : Nat) (f : PlFrame) : State :=
  let x := s.group g
  if x.state = 0 then s
  else if x.canStart f ∧ !x.replaying ∧ !(x.waiting.any fun y => y.vc == f.vc) then s.plStart g f
  else s.setGroup g fun x => { x with waiting := x.waiting ++ [f] }

/-- The first waiting frame of a VC starts if it may. -/
def State.plNext (s : State) (g vc : Nat) : State :=
  match (s.group g).waiting.find? fun f => f.vc == vc with
  | some f => if (s.group g).canStart f then (s.setGroup g fun x => { x with waiting := x.waiting.erase f }).plStart g f else s
  | none => s

/-- A frame to send again goes first, in order, and counts REPLAYED. -/
def State.plAgain (s : State) (g : Nat) : State :=
  match (s.group g).waiting with
  | f :: t =>
    if f.replays ≠ 0 ∧ (s.group g).canStart f then
      ((s.setGroup g fun x => { x with waiting := t }).plStart g f).countPort (32 + s.groupHead g) 19
    else s
  | [] => s

/-- Waiting frames start: those to send again, then the others in the order VC 1, VC 0, VC 2, as far as the credits reach (R409-R411). -/
def State.plServe (s : State) (g : Nat) : State :=
  let s1 := iter (fun s => s.plAgain g) (s.group g).waiting.length s
  if (s1.group g).replaying then s1
  else foldS (fun (s : State) vc => iter (fun s => s.plNext g vc) (s.group g).waiting.length s) s1 [1, 0, 2]

/-- A context's frame leaves on one of its networks (R81, R398, R409). -/
def State.sendOn (s : State) (x : Nat) (netB : Bool) (bytes : Nat) (e : Emission) : State :=
  let v := s.dict.vals
  let p := ctxPort v x netB
  let len := frameOverhead v x p + bytes
  if p < 32 then s.sendMedia p len e
  else match s.groupOfLane (p - 32) with
    | some g => s.plSend g { vc := 0, len := len, out := some e }
    | none => s

/-- A link of the context is up; with its links down a context sends nothing (R82). -/
def State.ctxLinked (s : State) (x : Nat) : Bool :=
  (networks s.dict.vals x).any fun b =>
    let p := ctxPort s.dict.vals x b
    if p < 32 then (s.port p).up
    else match s.groupOfLane (p - 32) with | some g => (s.group g).state != 0 | none => false

/-- One frame of a context leaves on its networks, if one is up: both copies carry the same SEQ, which advances by one (R58, R81). -/
def State.sendFrame (s : State) (x bytes : Nat) (f : Nat → Bool → Emission) : State :=
  if !(s.ctxLinked x) then s else
  let q := (s.ctx x).egSeq
  ((foldS (fun (s : State) b => s.sendOn x b bytes (f q b)) s (networks s.dict.vals x)).setCtx x fun c =>
    { c with egSeq := (q + 1) % 2 ^ 16 }).count x 0

/-- SEQ of frames that a context would have sent still counts up (R58, R617). -/
def State.skipSeq (s : State) (x n : Nat) : State :=
  if s.ctxLinked x then s.setCtx x fun c => { c with egSeq := (c.egSeq + n) % 2 ^ 16 } else s

end Sys2Proof.Machine
end

