-- ==== Sys2Proof/Machine/Encap.lean ====
section
/-! DEFINITION. Frames as they go out: Kapo and RTP headers, encapsulation, trailer, and what cut-through rewrites (R53, R55-R58, R71, R72, R81, R87,
R378, R379, R397, R398, R409). -/

namespace Sys2Proof.Machine

/-! ### Internet headers (R53, R397) -/

/-- The sum of the 16-bit words of a header, the first byte the higher. -/
def sum16 : List Byte → Nat
  | a :: b :: t => a.toNat * 256 + b.toNat + sum16 t
  | [a] => a.toNat * 256
  | [] => 0

/-- A sum of 16-bit words with its carries added back. -/
def fold16 (n : Nat) : Nat := iter (fun x => x % 65536 + x / 65536) 4 n

/-- The Internet checksum. -/
def inetSum (l : List Byte) : Nat := 0xFFFF - fold16 (sum16 l)

/-- The checksum after a change of the bytes it covers, without the other bytes (R87). -/
def inetUpdate (sum : Nat) (old new : List Byte) : Nat :=
  0xFFFF - fold16 ((0xFFFF - sum) + (0xFFFF * (old.length + 1) - sum16 old) + sum16 new)

/-- The default MAC address of a port: the base address plus the port number (R397). -/
def State.portMac (s : State) (p : Nat) : List Byte := beBytes 6 ((beNat s.sec.baseMac + p) % 2 ^ 48)

/-- The source addresses of a port (R397). -/
def State.srcMac (s : State) (p : Nat) : List Byte :=
  match cfgB s.dict.vals (0xC000 + p) 6 0 with
  | [] => s.portMac p
  | b => b
def State.srcIp4 (s : State) (p : Nat) : List Byte := beBytes 4 (s.cfg (0xC000 + p) 7)
def State.srcIp6 (s : State) (p : Nat) : List Byte :=
  match cfgB s.dict.vals (0xC000 + p) 8 0 with
  | [] => List.replicate 16 0
  | b => b

/-- The address-table entry of a context on a network (R81), as it stands in the present tick. -/
def State.addrEntry (s : State) (x : Nat) (netB : Bool) : List Byte :=
  match cfgB s.live 0x3000 1 (ctxN s.dict.vals x (if netB then 12 else 11)) with
  | [] => List.replicate 32 0
  | b => b

/-- An IPv4 header without options, DF set, UDP inside (R397). -/
def ip4Header (dscp id len ttl : Nat) (src dst : List Byte) : List Byte :=
  let h (sum : Nat) : List Byte :=
    [0x45, b8 (4 * dscp)] ++ beBytes 2 len ++ beBytes 2 id ++ [0x40, 0x00, b8 ttl, 17] ++ beBytes 2 sum ++ src ++ dst
  h (inetSum (h 0))

/-- An IPv6 header without extension headers, UDP inside. -/
def ip6Header (dscp flow len hops : Nat) (src dst : List Byte) : List Byte :=
  beBytes 4 (6 * 2 ^ 28 + 4 * dscp * 2 ^ 20 + flow % 2 ^ 20) ++ beBytes 2 len ++ [17, b8 hops] ++ src ++ dst

/-- A UDP header; a checksum is computed over IPv6 alone (R397), and one that comes out as 0 is sent as all ones. -/
def udpHeader (sport dport : Nat) (ip6 : Option (List Byte × List Byte)) (pay : List Byte) : List Byte :=
  let len := 8 + pay.length
  let h (sum : Nat) : List Byte := beBytes 2 sport ++ beBytes 2 dport ++ beBytes 2 len ++ beBytes 2 sum
  match ip6 with
  | none => h 0
  | some (a, b) =>
    let c := inetSum (a ++ b ++ beBytes 4 len ++ beBytes 4 17 ++ h 0 ++ pay)
    h (if c = 0 then 0xFFFF else c)

/-- The Ethernet header of a context's frame (R53, R80, R81): destination, source, 802.1Q tag, type. -/
def State.etherHead (s : State) (x : Nat) (netB : Bool) (ty : Nat) : List Byte :=
  let v := s.dict.vals
  (s.addrEntry x netB).take 6 ++ s.srcMac (ctxPort v x netB) ++
    (if ctlBit v x 8 then beBytes 2 0x8100 ++ beBytes 2 (ctxN v x 7 % 8 * 2 ^ 13 + ctxN v x 8 % 4096) else []) ++ beBytes 2 ty

/-- A frame of a context on a network around what its Kapo or RTP bytes are, up to the frame check sequence and before port authentication; on a
peer link the bytes alone (R53, R81, R397, R398, R409).  Identification, UDP source port and flow label are the sender's own (log 161). -/
def State.encap (s : State) (x : Nat) (netB : Bool) (seq : Nat) (pay : List Byte) : List Byte :=
  let v := s.dict.vals
  let p := ctxPort v x netB
  let a := s.addrEntry x netB
  let own (k : Nat) : Nat := Config.headerField k x seq % 65536
  let dscp := s.cfg (0xC000 + p) 26
  let hops := s.cfg (0xC000 + p) 29
  let dport := field a 6 2
  if 32 ≤ p then pay else
  match bitsOf (ctxN v x 1) 6 2 with
  | 1 => s.etherHead x netB 0x0800 ++ ip4Header dscp (own 0) (28 + pay.length) hops (s.srcIp4 p) ((a.drop 20).take 4) ++
      udpHeader (own 1) dport none pay
  | 2 =>
    let src := s.srcIp6 p
    let dst := (a.drop 8).take 16
    s.etherHead x netB 0x86DD ++ ip6Header dscp (own 2) (8 + pay.length) hops src dst ++ udpHeader (own 1) dport (some (src, dst)) pay
  | _ => s.etherHead x netB (s.cfg 0xC100 2) ++ pay

/-! ### Kapo frames (R55-R59) -/

/-- A Kapo header of HTYPE 0 (R55): `shape` holds NCH, FMT and the SPT code. -/
def headBytes (flags engine stream epoch tick seq shape tagLen keyid tstart : Nat) : List Byte :=
  let h := [0x10, b8 flags] ++ beBytes 2 engine ++ beBytes 2 stream ++ beBytes 2 epoch ++ beBytes 4 (tick % 2 ^ 32) ++ beBytes 2 seq ++
    beBytes 2 shape ++ beBytes 2 tagLen ++ beBytes 2 keyid ++ beBytes 8 tstart
  h ++ beBytes 4 (crc32c h).toNat

/-- The 32-byte header of a media frame of a context (R55-R57): `sample` is the first sample of the tick, or a direct frame's own. -/
def State.kapoHead (s : State) (x epoch tick seq sample : Nat) (silent fence direct : Bool) (tagLen : Nat) : List Byte :=
  let v := s.dict.vals
  let key := txKey v x
  let flags := 128 * b2n key.isSome + 64 * b2n silent + 32 * b2n (0 < tagLen) + 16 * b2n direct + 4 * b2n fence
  headBytes flags (s.cfg 0x0000 6) (ctxN v x 2 % 4096) epoch tick seq
    (ctxNch v x % 512 + 512 * (ctxN v x 4 % 8) + 4096 * (Nat.log2 s.spt - 2)) tagLen (key.getD 0) (s.tstart sample)

/-- The nonce of R379: ENGINE, STREAM, EPOCH, TICK and SEQ of the header. -/
def kapoNonce (head : List Byte) : List Byte := (head.drop 2).take 12

/-- The key under which a frame of a tick is sent (R378). -/
def KeySlot.keyAt (k : KeySlot) (tick : Nat) : List Byte := if k.usesNext tick then k.next else k.cur

/-- A Kapo frame from its header on: in the clear, or protected by the context's key for the tick (R379). -/
def State.kapoBytes (s : State) (x tick : Nat) (head tags pay : List Byte) : List Byte :=
  match txKey s.dict.vals x with
  | none => head ++ tags ++ pay
  | some k =>
    let key := (s.mediaKey k).keyAt tick
    let n := kapoNonce head
    let sealed := s.cfg (0xE400 + k) 4 == 1
    let body := if sealed then (List.range pay.length).map fun i => at? 0 pay i ^^^ Config.gcmPad key n i else pay
    let aad := head ++ tags ++ (if sealed then [] else pay)
    head ++ tags ++ body ++ beBytes 16 (Config.gcmTag key n aad (if sealed then body else [])).toNat

/-! ### Mirror frames (R341, R347, R377) -/

/-- The channels of each part of a mirror record of `n` bytes: Kapo frames of whole channels, as many as MAXLEN of a peer link allows. -/
def State.mirrorParts (s : State) (n : Nat) : List Nat :=
  let u := 4 * s.spt
  let most := Nat.min 256 (9540 / u)
  let units := Nat.max 1 (ceilDiv n u)
  let k := ceilDiv units most
  (List.range k).map fun i => if i + 1 = k then units - i * most else most

/-- STREAM of a mirror frame: the record type and the part number. -/
def mirrorStream (ty part : Nat) : Nat := ty * 256 + part % 256

/-- The header of a mirror frame of `nch` channels: AUTH, MIRROR, FMT 0, KEYID 0xFFFF. -/
def State.mirrorHead (s : State) (ty part tick seq nch : Nat) : List Byte :=
  headBytes 0x88 (s.cfg 0x0000 6) (mirrorStream ty part) s.pair.epoch tick seq (nch % 512 + 4096 * (Nat.log2 s.spt - 2)) 0 0xFFFF
    (s.tstart (tick * s.spt))

/-- The mirror key of a tick: the one agreed applies from the tick it was agreed for (R377, R388). -/
def Sec.mirrorKeyAt (c : Sec) (tick : Nat) : List Byte := if c.mirrorNext.any (· ≤ tick) then c.mirrorAgreed else c.mirrorKey

/-- A mirror frame: header, the bytes of its part padded with zeros, and the tag under the mirror key. -/
def State.mirrorWire (s : State) (tick : Nat) (head part : List Byte) (nch : Nat) : List Byte :=
  let b := head ++ part ++ List.replicate (4 * s.spt * nch - part.length) 0
  b ++ beBytes 16 (Config.gcmTag (s.sec.mirrorKeyAt tick) (kapoNonce head) b []).toNat

/-- One part of a mirror record leaves on the mirror group. -/
def State.sendPart (vc ty tick : Nat) (body : List Byte → Nat → Nat → MirrorBody) (s : State) (p : Nat × Nat) : State :=
  let g := s.cfg 0xB000 4
  let x := mirrorStream ty p.2
  let q := tget 0 (s.group g).mirSeq x
  let h := s.mirrorHead ty p.2 tick q p.1
  (s.setGroup g fun y => { y with mirSeq := tset y.mirSeq x ((q + 1) % 2 ^ 16) }).plSend g
    { vc := vc, len := 60 + 4 * s.spt * p.1, out := some (.mirror h (body h p.1 p.2)) }

/-- A mirror record of `n` bytes leaves, if the mirror group is not down: VC 1, or VC 2 for REPAIR and SNAP (R340, R409, R416). -/
def State.sendRecord (s : State) (vc ty tick n : Nat) (body : List Byte → Nat → Nat → MirrorBody) : State :=
  if (s.group (s.cfg 0xB000 4)).state = 0 then s else foldS (State.sendPart vc ty tick body) s (s.mirrorParts n).zipIdx

/-- A mirror record given by its bytes. -/
def State.sendMirror (s : State) (vc ty tick : Nat) (b : List Byte) : State :=
  let most := 4 * s.spt * Nat.min 256 (9540 / (4 * s.spt))
  s.sendRecord vc ty tick b.length fun h nch i => .wire (s.mirrorWire tick h ((b.drop (i * most)).take most) nch)

/-! ### RTP (R71, R72) -/

/-- The 12-byte RTP header: V = 2, no padding, extension, sources or marker; payload type, sequence number, timestamp, SSRC. -/
def rtpHead (v : Tab Val) (x ts seq : Nat) : List Byte :=
  [0x80, b8 (ctxN v x 18 % 128)] ++ beBytes 2 seq ++ beBytes 4 ts ++ beBytes 4 (ctxN v x 23)

/-! ### Cut-through copies (R87) -/

/-- The parts of a received encapsulation: what stands between the Ethernet header with its 802.1Q tag and the Kapo header. -/
def innerHead (enc : List Byte) : List Byte := if field enc 12 2 = 0x8100 then enc.drop 18 else enc.drop 14

/-- The type of a received frame behind an 802.1Q tag. -/
def innerType (enc : List Byte) : Nat := if field enc 12 2 = 0x8100 then field enc 16 2 else field enc 12 2

/-- The encapsulation of a cut-through copy on a media port: addresses, tag and HOPS of the egress context and port, every other field as received
(R87).  A frame that came over a peer link has none, and gets that of the context's own frames. -/
def State.cutEncap (s : State) (x : Nat) (netB : Bool) (enc bytes : List Byte) : List Byte :=
  let p := ctxPort s.dict.vals x netB
  let a := s.addrEntry x netB
  let i := innerHead enc
  let hops := b8 (s.cfg (0xC000 + p) 29)
  if 32 ≤ p then []
  else if enc.isEmpty then
    let w := s.encap x netB 0 bytes
    w.take (w.length - bytes.length)
  else match bitsOf (ctxN s.dict.vals x 1) 6 2 with
  | 1 =>
    let h (sum : Nat) : List Byte := i.take 8 ++ [hops, 17] ++ beBytes 2 sum ++ s.srcIp4 p ++ (a.drop 20).take 4
    s.etherHead x netB 0x0800 ++ h (inetSum (h 0)) ++ ((i.drop 20).take 2 ++ (a.drop 6).take 2 ++ (i.drop 24).take 2 ++ [0, 0])
  | 2 =>
    let src := s.srcIp6 p
    let dst := (a.drop 8).take 16
    let sum := inetUpdate (field i 46 2) ((i.drop 8).take 32 ++ (i.drop 42).take 2) (src ++ dst ++ (a.drop 6).take 2)
    s.etherHead x netB 0x86DD ++ (i.take 7 ++ [hops] ++ src ++ dst) ++
      ((i.drop 40).take 2 ++ (a.drop 6).take 2 ++ (i.drop 44).take 2 ++ beBytes 2 (if sum = 0 then 0xFFFF else sum))
  | _ => s.etherHead x netB (innerType enc)

/-! ### What a received frame is carried in (R53, R60 step 1) -/

/-- An EtherType, or UDP with its destination port. -/
inductive Via where
  | ether (ty : Nat)
  | udp (port : Nat)
  deriving DecidableEq, Repr

/-- The carrier of a received frame, from its bytes up to the Kapo header; IP without options or extension headers (R53). -/
def viaOf (enc : List Byte) : Via :=
  let i := innerHead enc
  match innerType enc with
  | 0x0800 => if field i 0 1 = 0x45 ∧ field i 9 1 = 17 then .udp (field i 22 2) else .ether 0x0800
  | 0x86DD => if field i 6 1 = 17 then .udp (field i 42 2) else .ether 0x86DD
  | t => .ether t

/-- The frame names Kapo: the EtherType or the UDP port of the configuration (R53). -/
def State.namesKapo (s : State) (enc : List Byte) : Bool :=
  match viaOf enc with
  | .ether t => t == s.cfg 0xC100 2
  | .udp p => p == s.cfg 0xC100 1

end Sys2Proof.Machine
end

