-- ==== Sys2Proof/Machine/Fox.lean ====
section
/-! DEFINITION. Fox: weights, fades, route changes and the samples of a consumer (R79, R98-R102, R108). -/

namespace Sys2Proof.Machine

/-! ### The weight table (R99) -/

/-- Pi in units of 2^-120, rounded down. -/
def piFix : Nat := 4175892906503776358826876457663557747

/-- Terms of the sine series in units of 2^-120: the term so far, its index, the square of the angle. -/
def sinTerms : Nat → Int → Nat → Int → Int → Int
  | 0, _, _, _, acc => acc
  | n + 1, term, i, x2, acc =>
    let t := Int.fdiv (-(term * x2)) (2 ^ 120 * ((2 * i + 2) * (2 * i + 3) : Nat))
    sinTerms n t (i + 1) x2 (acc + t)

/-- W[i] of shape POWER: sin(pi (2i + 1) / 32768) in Q1.31, rounded half up. -/
def powerWeight (i : Nat) : Int :=
  let x : Int := Int.fdiv (piFix * (2 * i + 1) : Nat) 32768
  roundShift (sinTerms 22 x 0 (Int.fdiv (x * x) (2 ^ 120)) x) 89

/-- W[i] (R99): shape 1 GAIN, 2 POWER. -/
def foxWeight (shape i : Nat) : Int := if shape = 1 then ((2 * i + 1) * 2 ^ 17 : Nat) else powerWeight i

/-- The sample of a fade at position `k` (R99). -/
def foxMix (shape len k : Nat) (xOld xNew : Int) : Int :=
  let i := (2 * k + 1) * 4096 / len
  sat32 (roundShift (foxWeight shape (8191 - i) * xOld + foxWeight shape i * xNew) 31)

/-! ### Consumers -/

/-- The signal a consumer selects under a configuration; none is silence (R83, R79). -/
def selectedSig (v : Tab Val) (c : Consumer) : Option Nat :=
  match c with
  | .egress x ch => let w := ctxMap v x ch; if bitAt w 31 then none else some (w % 2 ^ 17)
  | .inStrip n => some (cfgN v (0x4000 + n) 2 0).toNat
  | .outStrip n => some (cfgN v (0x6000 + n) 2 0).toNat
  | .direct n => some (cfgN v (0x9800 + n) 2 0).toNat

/-- The fade member of a consumer (R79): length and shape in the encoding of SCENE_FADE (R279). -/
def fadeWord (v : Tab Val) (c : Consumer) : Nat :=
  (match c with
  | .egress x _ => cfgN v (0x2000 + x) 21 0
  | .inStrip n => cfgN v (0x4000 + n) 7 0
  | .outStrip n => cfgN v (0x6000 + n) 7 0
  | .direct n => cfgN v (0x9800 + n) 10 0).toNat

/-- Ascending consumer order (R100): egress channels by context and channel, input strips, direct channels; output strips stand
between the two (log 181). -/
def Consumer.rank : Consumer → Nat
  | .egress x ch => x * 256 + ch
  | .inStrip n => 2 ^ 21 + n
  | .outStrip n => 2 ^ 21 + 4096 + n
  | .direct n => 2 ^ 21 + 8192 + n

/-- The consumers of a configuration: channels of valid PROCESSED and REPACK egress contexts, enabled strips and direct channels. -/
def consumers (v : Tab Val) : List Consumer :=
  let eg := (egressCtxs v).filter fun x => ctxMode v x != 1 && decide (ctxFwd v x < 2)
  (eg.flatMap fun x => (List.range (ctxNch v x)).map (Consumer.egress x)) ++
    ((sortN (objectsWith v 0x4000 0x4FFF 1)).map fun o => Consumer.inStrip (o - 0x4000)) ++
    ((sortN (objectsWith v 0x6000 0x6FFF 1)).map fun o => Consumer.outStrip (o - 0x6000)) ++
    ((sortN (objectsWith v 0x9800 0x983F 1)).map fun o => Consumer.direct (o - 0x9800))

/-- The route a consumer selects under a configuration: its signal and the source that holds it (R77, R79). -/
def wantedRoute (v : Tab Val) (c : Consumer) : Route :=
  match selectedSig v c with
  | none => ⟨none, none⟩
  | some g => ⟨some g, subscription v g⟩

/-- The route of a consumer in a tick. -/
def Csw.routeAt (cs : Csw) (c : Consumer) (n : Nat) : Option Route := (cs.routes.find? fun e => e.1 == c && decide (e.2.1 ≤ n)).bind (·.2.2)

/-- The newest route of a consumer. -/
def Csw.routeOf (cs : Csw) (c : Consumer) : Option Route := (cs.routes.find? fun e => e.1 == c).bind (·.2.2)

/-- The fade of a consumer that holds a slot. -/
def Csw.fadeOf (cs : Csw) (c : Consumer) : Option Fade := cs.fades.find? fun f => f.cons == c

/-- The last tick that holds a sample of a fade. -/
def Fade.lastTick (f : Fade) (spt : Nat) : Nat := f.first + (f.len - 1) / spt

/-- A tick holds samples of a fade: one abandoned ends before its stop (R101). -/
def Fade.covers (f : Fade) (spt n : Nat) : Bool :=
  decide (f.first ≤ n) && decide (n ≤ f.lastTick spt) && (match f.stop with | some t => decide (n < t) | none => true)

/-- The fade of a consumer in a tick. -/
def Csw.fadeAt (cs : Csw) (c : Consumer) (spt n : Nat) : Option Fade := (cs.fades ++ cs.foxPast).find? fun f => f.cons == c && f.covers spt n

/-- A record of routes with a new one, by falling ticks. -/
def putRoute (c : Consumer) (a : Nat) (r : Option Route) : List (Consumer × Nat × Option Route) → List (Consumer × Nat × Option Route)
  | [] => [(c, a, r)]
  | e :: t => if e.2.1 ≤ a then (c, a, r) :: e :: t else e :: putRoute c a r t

/-- A consumer's route from a tick on. -/
def Csw.setRoute (cs : Csw) (c : Consumer) (r : Route) (a : Nat) : Csw := { cs with routes := putRoute c a (some r) cs.routes }

/-- A route change that starts at tick `a` (R98, R100): a fade if its length is not 0, its shape is no CUT and a slot is free,
otherwise a cut; a change that finds no slot counts FOX_OVF. -/
def Csw.startFade (cs : Csw) (c : Consumer) (new : Route) (shape len a : Nat) : Csw :=
  let old := (cs.routeAt c a).getD ⟨none, none⟩
  let cs1 := cs.setRoute c new a
  if len = 0 ∨ shape = 0 ∨ shape = 3 then cs1
  else if 8192 ≤ cs1.fades.length then { cs1 with foxOvf := stopAt 0xFFFF cs1.foxOvf 1 }
  else { cs1 with fades := cs1.fades ++ [⟨c, old, new, shape, len, a, none⟩] }

/-- A consumer's queued change goes. -/
def Csw.unqueue (cs : Csw) (c : Consumer) : Csw := { cs with fadeQ := cs.fadeQ.filter fun q => q.cons != c }

/-- A committed route change of a consumer (R98, R101): while a fade runs it is queued, replacing a queued one, and one back to the fade's own
new source, which has been lost, restores it; a change to the source in force has no effect. -/
def Csw.changeRoute (cs : Csw) (c : Consumer) (new : Route) (word a : Nat) : Csw :=
  let len := word % 2 ^ 16
  let shape := word / 2 ^ 16 % 4
  let cs1 := cs.unqueue c
  match cs1.fadeOf c with
  | some f =>
    let cs2 := if f.new = new then cs1.setRoute c new a else cs1
    { cs2 with fadeQ := cs2.fadeQ ++ [⟨c, new, shape, len⟩] }
  | none => if cs1.routeAt c a = some new then cs1 else cs1.startFade c new shape len a

/-- A consumer loses its source at tick `a`: the entry of its signal is no longer VALID (R79).  Zeros stand for the source from there on, without a
fade and without a slot, in a running fade too (R101, log 189); a queued change is then one to the lost source. -/
def Csw.loseSource (cs : Csw) (c : Consumer) (lost : Route) (a : Nat) : Csw :=
  if cs.fadeQ.any fun q => q.cons == c then { cs with fadeQ := cs.fadeQ.map fun q => if q.cons = c then { q with new := lost } else q }
  else cs.setRoute c lost a

/-- A fade gives its slot back; the stages that still work on its ticks go on reading it (R98, R100). -/
def Csw.endFade (cs : Csw) (c : Consumer) : Csw :=
  { cs with fades := cs.fades.filter (fun f => f.cons != c), foxPast := cs.fades.filter (fun f => f.cons == c) ++ cs.foxPast }

/-- Fades whose last tick is over by the start of tick `a` give their slots back (R100). -/
def Csw.endedBy (cs : Csw) (spt a : Nat) : Csw :=
  { cs with fades := cs.fades.filter (fun f => decide (a ≤ f.lastTick spt))
            foxPast := cs.fades.filter (fun f => decide (f.lastTick spt < a)) ++ cs.foxPast }

/-- A queued change starts at a tick; one to the source already in force is discarded (R101). -/
def Csw.startQueued (cs : Csw) (q : QueuedFade) (a : Nat) : Csw :=
  let cs1 := cs.unqueue q.cons
  if cs1.routeAt q.cons a = some q.new then cs1 else cs1.startFade q.cons q.new q.shape q.len a

/-- The change queued for a consumer, once no fade of it holds a slot. -/
def Csw.due (cs : Csw) (c : Consumer) : Option QueuedFade :=
  match cs.fadeOf c with
  | some _ => none
  | none => cs.fadeQ.find? fun q => q.cons == c

/-- A consumer that is gone from tick `a` on loses its route and its queued change; its fade is abandoned (R101). -/
def Csw.drop (a : Nat) (cs : Csw) (c : Consumer) : Csw :=
  let cs1 := cs.unqueue c
  { cs1 with
    routes := putRoute c a none cs1.routes, fades := cs1.fades.filter fun f => f.cons != c
    foxPast := ((cs1.fades.filter fun f => f.cons == c).map fun f => { f with stop := some a }) ++ cs1.foxPast }

/-- The source a route reads in tick `n`: none for NULL and for a signal whose entry is not VALID (R78, R101). -/
def State.routeSrc (s : State) (n : Nat) (r : Route) : Option Src :=
  match r.sig with
  | none => none
  | some g => if (s.subIn (s.conf n) g).isSome then r.src else none

/-- The samples of a consumer for tick `n` (R98, R99), from a function that gives a source's samples. -/
def State.consumerTick (s : State) (c : Consumer) (n : Nat) (f : Option Src → List Int) : List Int :=
  match s.csw.fadeAt c s.spt n with
  | none =>
    match s.csw.routeAt c n with
    | none => zeros s.spt
    | some r => f (s.routeSrc n r)
  | some fd =>
    let xo := f (s.routeSrc n fd.old)
    let xn := f (s.routeSrc n fd.new)
    (List.range s.spt).map fun k =>
      let p := (n - fd.first) * s.spt + k
      if p < fd.len then foxMix fd.shape fd.len p (at? 0 xo k) (at? 0 xn k) else at? 0 xn k

/-- The tick that Fox works for: the latest one whose changes it has taken (R41, R345). -/
def State.foxTickNow (s : State) : Nat := s.csw.foxLast.getD s.time.tick

/-- A fade's samples run out in the tick that Fox works for. -/
def State.fadeOver (s : State) (f : Fade) : Bool := decide (f.lastTick s.spt ≤ s.foxTickNow)

/-- FOX_FADE_END (R98, R100): the fade's samples run out; the new source is used alone.  The slot frees for the changes of the next
boundary, as at that boundary itself (R102, log 144). -/
def execFoxFadeEnd (c : Consumer) (s : State) : Out :=
  let s0 := s.quiet
  match s0.csw.fadeOf c with
  | some f => .next (if s0.fadeOver f then s0.modCsw fun cs => cs.endFade c else s0)
  | none => .next s0

/-- The first tick boundary at or after the last sample of a consumer's latest fade; without one, the boundary of tick `t` (R101). -/
def Csw.afterFade (cs : Csw) (spt t : Nat) (c : Consumer) : Nat :=
  match cs.foxPast.find? fun f => f.cons == c && f.stop == none with
  | some f => f.lastTick spt + 1
  | none => t

/-- FOX_QUEUED_START (R101): a change queued behind a fade starts at the first tick boundary at or after the fade's last sample, and not before
Fox has come to it (R102). -/
def execFoxQueuedStart (c : Consumer) (s : State) : Out :=
  let s0 := s.quiet
  match s0.csw.due c with
  | some q => .next (if s0.csw.afterFade s0.spt s0.foxTickNow c ≤ s0.foxTickNow then s0.modCsw fun cs => cs.startQueued q s0.foxTickNow else s0)
  | none => .next s0

end Sys2Proof.Machine
end

