-- ==== Sys2Proof/Machine/Banks.lean ====
section
/-! DEFINITION. The banks as the work sets see them: the channels of their IN and OUT regions, words that units write into the output bank, and
the wakes these cause (R22, R34, R112, R115, R207, R282). -/

namespace Sys2Proof.Machine

/-- The cluster that owns a work set (R110). -/
def State.owner (s : State) (w : Nat) : Option Nat :=
  (List.range 9).find? fun n => (s.cluster n).role == 1 && (s.cluster n).wset == w

/-- The tick whose PROCESS runs (R41). -/
def State.processTick (s : State) : Nat := s.csw.proc

/-! ### IN regions -/

/-- Every channel of the IN regions of an image. -/
def imagePorts (i : Image) : List InPort := i.steps.flatMap (·.inp)

/-- The sources that a channel of IN takes in tick `n`: its signal's, or those of its strip, both while a fade runs (R98). -/
def State.portSrcs (s : State) (n : Nat) (p : InPort) : List Src :=
  match p.src with
  | .signal g => (s.subIn (s.conf n) g).toList
  | .strip c =>
    match s.csw.fadeAt c s.spt n with
    | some f => (s.routeSrc n f.old).toList ++ (s.routeSrc n f.new).toList
    | none => ((s.csw.routeAt c n).bind (s.routeSrc n)).toList

/-- The samples of a channel of IN for tick `n`: those of its signal, or of its strip through Fox; zeros where nothing comes (R78, R282). -/
def State.portTick (s : State) (n : Nat) (p : InPort) : List Int :=
  match p.src with
  | .signal g => s.srcTick n (s.subIn (s.conf n) g)
  | .strip c => s.consumerTick c n (s.srcTick n)

/-! ### OUT regions -/

/-- The object of a strip. -/
def stripObj : Consumer → Option Nat
  | .inStrip n => some (0x4000 + n)
  | .outStrip n => some (0x6000 + n)
  | _ => none

/-- The strips that an image carries (R112). -/
def imageStrips (i : Image) : List Nat :=
  sortN (i.steps.flatMap fun d => (d.inp.filterMap fun p => match p.src with | .strip c => stripObj c | .signal _ => none) ++
    d.out.filterMap fun p => match p.dst with | .strip c => stripObj c | .slot _ => none)

/-- The output bank slot of a channel of OUT: a strip that is disabled writes none (R282). -/
def outSlot (v : Tab Val) : OutDst → Option Nat
  | .slot k => some k
  | .strip c => (stripObj c).bind fun o => if cfgN v o 1 0 != 0 then some (cfgN v o 3 0).toNat else none

/-- The slots that a step writes. -/
def stepSlots (v : Tab Val) (d : StepDecl) : List Nat := d.out.filterMap fun p => outSlot v p.dst

/-- The slots that an image writes. -/
def imageSlots (v : Tab Val) (i : Image) : List Nat := i.steps.flatMap (stepSlots v)

/-! ### Wakes (R34, R207, R516) -/

/-- A gated cluster starts to wake at once. -/
def State.wake (s : State) (n : Nat) : State :=
  if bitAt s.pwr.gated n then { s with pwr := { s.pwr with waking := s.pwr.waking.lor (2 ^ n) } } else s

/-- The work sets whose IN regions take a source in tick `n`. -/
def State.wsReading (s : State) (n kind index : Nat) : List Nat :=
  (List.range 8).filter fun w => (imagePorts (s.workSet w).img).any fun p => (s.portSrcs n p).any fun r => r.kind == kind && r.index == index

/-- A non-zero sample of a source wakes the gated clusters that read it. -/
def State.wakeReaders (s : State) (n kind index : Nat) (xs : List Int) : State :=
  if s.pwr.gated = 0 ∨ xs.all (· == 0) then s else
  foldS (fun (s : State) w => match s.owner w with | some c => s.wake c | none => s) s (s.wsReading n kind index)

/-- A slot of the output bank written for a tick; the clusters that read it see a word that is not zero (R207). -/
def State.putSlot (s : State) (tick slot : Nat) (xs : List Int) : State :=
  (s.modCsw fun c => { c with out := tset c.out (bankKey tick slot) xs }).wakeReaders tick 2 slot xs

end Sys2Proof.Machine
end

