-- ==== Sys2Proof/Machine/Mix.lean ====
section
/-! DEFINITION. The mix engine (R178-R186, R209-R212). -/

namespace Sys2Proof.Machine

def busObj (b : Nat) : Nat := 0x8000 + b

/-- A parameter of a bus (R179). -/
def busN (v : Tab Val) (b m : Nat) : Int := cfgN v (busObj b) m 0

/-- A source entry of a list (R180): signal, INV, GAIN. -/
def entrySig (w : Nat) : Nat := w % 2 ^ 17
def entryInv (w : Nat) : Bool := bitAt w 17
def entryGain (w : Nat) : Int := (BitVec.ofNat 16 (w / 2 ^ 32)).toInt

/-- The linear target of an entry's gain. -/
def entryTarget (w : Nat) : Int := linGain (entryGain w)

/-- The source list in force (R179, R180). -/
def busList (v : Tab Val) (b : Nat) : List Nat :=
  (List.range (busN v b 2).toNat).map fun p => (cfgN v (busObj b) 10 p).toNat

/-- round_half_up(2^30 / N) (R184). -/
def invN (n : Nat) : Int := roundDiv (2 ^ 30) n

/-- round_half_up(2^30 / sqrt N) (R184): the largest m with (2m - 1)^2 N at most 2^62. -/
def invSqrtN (n : Nat) : Int := ((sqrtBits 32 0 (2 ^ 62 / n) + 1) / 2 : Nat)

/-- The scale target of a tick (R184): with N = 0 the target stays, and a bus without one takes that of N = 1. -/
def scaleTarget (v : Tab Val) (b : Nat) (n : Nat) (old : Option Int) : Int :=
  match busN v b 5 with
  | 1 => if n = 0 then old.getD (2 ^ 30) else invN n
  | 2 => if n = 0 then old.getD (2 ^ 30) else invSqrtN n
  | 3 => dbPow 30 (-(busN v b 6))
  | _ => 2 ^ 30

/-- A removed entry keeps its position and is summed just before the entry that now holds it (R186). -/
def MixEntry.before (a b : MixEntry) : Bool := decide (a.pos < b.pos) || (a.pos == b.pos && a.leaving)

def insertEntry (e : MixEntry) : List MixEntry → List MixEntry
  | [] => [e]
  | x :: t => if e.before x then e :: x :: t else x :: insertEntry e t

def sortEntries : List MixEntry → List MixEntry
  | [] => []
  | e :: t => insertEntry e (sortEntries t)

/-- One running entry under a new list (R186): a kept signal and polarity ramps to its gain; anything else ramps out. -/
def entryUnder (ws : List Nat) (gramp k : Nat) (e : MixEntry) : MixEntry :=
  if e.leaving then e else
  match ws[e.pos]? with
  | some w =>
    if entrySig w = e.sig ∧ entryInv w = e.inv then
      if entryTarget w = e.gain.v1 then e else { e with gain := e.gain.to (entryTarget w) gramp k }
    else { e with leaving := true, gain := e.gain.to 0 gramp k }
  | none => { e with leaving := true, gain := e.gain.to 0 gramp k }

/-- The entries a new list adds: positions no staying entry holds, ramping up from mute. -/
def entriesAdded (ws : List Nat) (gramp k : Nat) (old : List MixEntry) : List MixEntry :=
  (List.range ws.length).filterMap fun p =>
    if old.any fun e => e.pos == p && !e.leaving then none
    else
      let w := at? 0 ws p
      some ⟨p, entrySig w, entryInv w, ⟨0, entryTarget w, gramp, k⟩, false⟩

/-- A bus at a commit that changed its parameters (R186), from sample `k` on. -/
def Bus.commit (v : Tab Val) (b k : Nat) (x : Bus) : Bus :=
  let gramp := (busN v b 8).toNat
  let on := busN v b 1 != 0
  let ws := busList v b
  let gbT := linGain (busN v b 4)
  if on ∧ !x.running then
    { running := true, stopping := false, gb := ⟨0, gbT, gramp, k⟩, scale := {}, target := none, entries := entriesAdded ws gramp k [] }
  else if !x.running then x
  else
    let es := x.entries.map (entryUnder ws gramp k)
    let x1 := { x with entries := sortEntries (es ++ entriesAdded ws gramp k es) }
    if !on ∧ !x.stopping then { x1 with stopping := true, gb := x1.gb.to 0 gramp k }
    else if on ∧ (x.stopping ∨ x1.gb.v1 ≠ gbT) then { x1 with stopping := false, gb := x1.gb.to gbT gramp k }
    else x1

/-- Whether a source counts as active (R183). -/
def State.entryActive (s : State) (tick : Nat) (gate : Bool) (e : MixEntry) : Bool :=
  !e.leaving && e.gain.v1 != 0 &&
  (match s.sub e.sig with
   | none => false
   | some r => (r.kind != 0 || s.isPresent tick r.index)) &&
  !(gate && hasDetector s.dict.vals e.sig && s.silentAfter e.sig (tick - 1))

/-- One sample of a bus (R182): the accumulator over the entries in order with its clamps, then gain and scale. -/
def busSum : List (Int × Int) → Int → Nat → Int × Nat
  | [], acc, ov => (acc, ov)
  | (g, x) :: t, acc, ov => let (a, o) := clamp80 (acc + g * x); busSum t a (ov + b2n o)

/-- Output, saturations and clamps of one sample (R182). -/
def busSample (gx : List (Int × Int)) (gb sc : Int) : Int × Nat × Nat :=
  let (acc, ov) := busSum gx 0 0
  let u0 := floorShift (acc + 2 ^ 21) 22
  let u := satTo 47 u0
  let c0 := floorShift (gb * sc + 2 ^ 29) 30
  let c := sat32 c0
  let (y, sy) := convert80 (u * c) 32 false
  (y, b2n (u0 != u) + b2n (c0 != c) + b2n sy, ov)

/-- The scale of a bus at the start of a tick (R183-R185). -/
def State.busScale (s : State) (b tick : Nat) (x : Bus) : Bus :=
  let k := s.firstSample tick
  let n := (x.entries.filter (s.entryActive tick (busN s.dict.vals b 9 != 0))).length
  let t := scaleTarget s.dict.vals b n x.target
  match x.target with
  | none => { x with target := some t, scale := Ramp.rest t }
  | some old => if t = old then x else { x with target := some t, scale := x.scale.to t (busN s.dict.vals b 7).toNat k }

/-- The samples of a bus for a tick, with its saturations and clamps. -/
def State.busSamples (s : State) (tick : Nat) (x : Bus) : List (Int × Nat × Nat) :=
  let k0 := s.firstSample tick
  let srcs := x.entries.map fun e => (e, s.sigTick tick e.sig)
  (List.range s.spt).map fun k =>
    busSample (srcs.map fun p => ((if p.1.inv then -(p.1.gain.at (k0 + k)) else p.1.gain.at (k0 + k)), at? 0 p.2 k))
      (x.gb.at (k0 + k)) (x.scale.at (k0 + k))

/-- PROCESS of one bus for a tick: scale, samples into its slot, counters and BUSSAT. -/
def State.runBus (s : State) (tick b : Nat) : State :=
  let x := tget {} s.mix.buses b
  if !x.running then s else
  let x1 := s.busScale b tick x
  let ys := s.busSamples tick { x1 with entries := x1.entries.filter fun e => !(s.csw.hidden.contains (.mixEntry b e.pos)) }
  let sat := sumN (ys.map fun y => y.2.1)
  let ov := sumN (ys.map fun y => y.2.2)
  let m := s.mix
  let s1 := { s with mix := { m with
    buses := tset m.buses b x1, satCnt := m.satCnt + w32 sat, ovgCnt := m.ovgCnt + w32 ov
    busSat := if sat = 0 then m.busSat else tmod 0 m.busSat (b / 32) (fun w => w ||| w32 (2 ^ (b % 32))) } }
  s1.putSlot tick (busN s.dict.vals b 3).toNat (ys.map (·.1))

/-- The first sample that PROCESS has not reached: that of the tick whose PROCESS starts now (R41). -/
def State.processSample (s : State) : Nat := s.firstSample s.processTick

/-- BUS_STOP (R186): a disabled bus whose gain has reached mute stops writing its slot. -/
def execBusStop (bus : Nat) (s : State) : Out :=
  let s0 := s.quiet
  let x := tget {} s0.mix.buses bus
  .next (if x.running ∧ x.stopping ∧ x.gb.done s0.processSample then { s0 with mix := { s0.mix with buses := tset s0.mix.buses bus {} } }
         else s0)

/-- ENTRY_DROP (R186): a removed entry whose ramp to mute has ended is dropped from its bus. -/
def execEntryDrop (bus entry : Nat) (s : State) : Out :=
  let s0 := s.quiet
  .next { s0 with mix := { s0.mix with buses := tmod {} s0.mix.buses bus fun x =>
    { x with entries := x.entries.filter fun e => !(e.pos == entry && e.leaving && e.gain.done s0.processSample) } } }

/-- A bus after a per-function reset (R209): ramps at their targets, removed entries dropped. -/
def Bus.rest (x : Bus) : Bus :=
  { x with gb := Ramp.rest x.gb.v1, scale := Ramp.rest x.scale.v1
           entries := (x.entries.filter fun e => !e.leaving).map fun e => { e with gain := Ramp.rest e.gain.v1 } }

end Sys2Proof.Machine
end

