-- ==== Sys2Proof/Machine/Dynamics.lean ====
section
/-! DEFINITION. The dynamics units (R187-R194, R209, R213-R215). -/

namespace Sys2Proof.Machine

def dynN (v : Tab Val) (i m : Nat) : Int := cfgN v 0x9000 m i

/-- Terms of exp(-num / den) in units of 2^-96. -/
def expTerms : Nat → Int → Nat → Int → Nat → Int → Int
  | 0, _, _, _, _, acc => acc
  | n + 1, term, i, num, den, acc =>
    let t := Int.fdiv (-(term * num)) ((den * (i + 1) : Nat))
    expTerms n t (i + 1) num den (acc + t)

/-- exp(-num / den) in Q1.31, nearest value (R189). -/
def expNeg (num den : Nat) : Int := roundShift (expTerms 60 (2 ^ 96) 0 num den (2 ^ 96)) 65

/-- Terms of 2 artanh(z) in units of 2^-128, for z in those units: the power so far, its exponent, the square of z. -/
def artanhTerms : Nat → Int → Nat → Int → Int → Int
  | 0, _, _, _, acc => acc
  | n + 1, pw, i, z2, acc => artanhTerms n (Int.fdiv (pw * z2) (2 ^ 128)) (i + 2) z2 (acc + 2 * Int.fdiv pw i)

/-- ln(a / b) in units of 2^-128, for a / b from 1/2 to 2. -/
def lnQuot (a b : Nat) : Int :=
  let z := Int.fdiv (((a : Int) - b) * 2 ^ 128) ((a + b : Nat))
  artanhTerms 90 z 1 (Int.fdiv (z * z) (2 ^ 128)) 0

/-- ln 2 and ln 10 in units of 2^-128. -/
def ln2 : Int := lnQuot 2 1
def ln10 : Int := 3 * ln2 + lnQuot 10 8

/-- 20 log10(e / 2^31) in Q8.24, rounded down, for e from 1 to 2^32 (R190). -/
def dbLevel (e : Nat) : Int :=
  let b := Nat.log2 e
  Int.fdiv (20 * 2 ^ 24 * (((b : Int) - 31) * ln2 + lnQuot e (2 ^ b))) ln10

/-- 2^27 10^(x / (20 * 2^24)), rounded half up: a factor in Q5.27 of a level in Q8.24 (R192). -/
def linNear (x : Int) : Int :=
  let y := Int.fdiv (x * ln10) (20 * 2 ^ 24)
  roundShift (expTerms 90 (2 ^ 128) 0 (-y) (2 ^ 128) (2 ^ 128)) 101

/-- lin_f of R192: within 0.001 dB of the exact value, 1.15129 parts in 10^4. -/
def linF (x : Int) : Int :=
  let n := linNear x
  let w := (n * 11512 / 100000000).toNat
  n + (Config.linPick x % (2 * w + 1) : Nat) - w

/-- A quotient rounded down or up (R190, R191). -/
def openDiv (a b : Int) : Int := Int.fdiv a b + (if Int.fmod a b ≠ 0 ∧ Config.roundUp a b then 1 else 0)

/-- A square root rounded down or up (R190). -/
def openRoot (m : Nat) : Nat :=
  let r := sqrtBits 33 0 m
  r + (if r * r ≠ m ∧ Config.rootUp m then 1 else 0)

/-- The level of a detector value in units 2^-31 (R190). -/
def levelOf (e : Nat) : Int := if e = 0 then -(128 * 2 ^ 24) else dbLevel e + (if e ≠ 2 ^ 31 ∧ Config.logUp e then 1 else 0)

/-- A smoothing coefficient of R189 from a time in microseconds. -/
def coeffOf (v : Tab Val) (us : Int) : Int := expNeg 1000000 (us.toNat * fsOf v)

/-- Slope of R189 in Q2.30. -/
def slope (ratio : Int) : Int := if ratio = 0xFFFF then 2 ^ 30 else roundDiv (2 ^ 30 * (ratio - 256)) ratio

/-- The coefficients of an instance under a configuration (R189). -/
def dynCoefOf (v : Tab Val) (i : Nat) : DynCoef :=
  { slope := slope (dynN v i 6), attack := coeffOf v (dynN v i 8), release := coeffOf v (dynN v i 9), beta := coeffOf v (dynN v i 11) }

/-- The detector (R190) over the key samples: level in Q8.24 for each sample, and the RMS state. -/
def dynLevels (rms : Bool) (beta : Int) : List Int → Int → List Int × Int
  | [], m => ([], m)
  | x :: t, m =>
    let m1 := if rms then m + openDiv ((2 ^ 31 - beta) * (x * x - m)) (2 ^ 31) else m
    let e := if rms then openRoot m1.toNat else x.natAbs
    let (ls, m2) := dynLevels rms beta t m1
    (levelOf e :: ls, m2)

/-- The gain computer (R191), Q8.24. -/
def reduction (sl t w l : Int) : Int :=
  let lo := t - w / 2
  let hi := t + w / 2
  if l ≤ lo then 0
  else if l < hi then openDiv (sl * ((l - lo) * (l - lo))) (2 ^ 30 * 2 * w)
  else openDiv (sl * (l - t)) (2 ^ 30)

/-- The key signal's samples (R188): own input where KEY is all ones. -/
def State.dynKey (s : State) (tick i : Nat) : List Int :=
  let k := dynN s.dict.vals i 4
  s.sigTick tick (if k = 0xFFFFFFFF then dynN s.dict.vals i 2 else k).toNat

/-- Smoothing and output (R192) over a tick: levels and input samples, from sample number `k`; the outputs, the instance after it and the
greatest g. -/
def dynRun (v : Tab Val) (i : Nat) : List Int → List Int → Nat → DynInst → Int → List Int × DynInst × Int
  | l :: ls, x :: xs, k, d, mx =>
    let byp := dynN v i 15 != 0
    let r := if byp then 0 else reduction d.coef.slope (dynN v i 5 * 2 ^ 16) (dynN v i 7 * 2 ^ 16) l
    let al := if r > d.g then d.coef.attack else d.coef.release
    let g := roundShift (al * d.g + (2 ^ 31 - al) * r) 31
    let line := d.line ++ [x]
    let x0 := at? 0 line 0
    let y := sat32 (roundShift (x0 * linF (d.makeup.at k - g)) 27)
    let (ys, d1, m1) := dynRun v i ls xs (k + 1) { d with g := g, line := line.drop 1 } (if mx < g then g else mx)
    (y :: ys, d1, m1)
  | _, _, _, d, mx => ([], d, mx)

/-- Enabled instances. -/
def dynEnabled (v : Tab Val) : List Nat :=
  sortN (v.filterMap fun e => if e.1 / 65536 = 0x900001 ∧ e.2 ≠ .num 0 then some (e.1 % 65536) else none)

/-- The enabled instances of an instance's LINK group (R190), itself alone with LINK = 0. -/
def dynGroup (v : Tab Val) (i : Nat) : List Nat :=
  if dynN v i 14 = 0 then [i] else (dynEnabled v).filter fun j => dynN v j 14 == dynN v i 14

/-! ### Placement (R187, R193) -/

/-- A placement under way: instances and lookahead samples of DYN0 and of DYN1, and the unit of each group by its lowest instance. -/
structure DynPlace where
  n0 : Nat := 0
  l0 : Nat := 0
  n1 : Nat := 0
  l1 : Nat := 0
  unit : Tab Nat := []
  deriving DecidableEq, Repr

/-- The groups to place: lowest instance, number of instances, lookahead samples. -/
def dynGroups (v : Tab Val) : List (Nat × Nat × Nat) :=
  ((dynEnabled v).filter fun i => (dynGroup v i).headD i == i).map fun i =>
    (i, (dynGroup v i).length, sumN ((dynGroup v i).map fun j => (dynN v j 13).toNat))

/-- A group joins a placement in either unit that has room for it. -/
def placeGroup (cap : Nat) (g : Nat × Nat × Nat) (ps : List DynPlace) : List DynPlace :=
  let next := ps.flatMap fun p =>
    [{ p with n0 := p.n0 + g.2.1, l0 := p.l0 + g.2.2, unit := (g.1, 0) :: p.unit },
     { p with n1 := p.n1 + g.2.1, l1 := p.l1 + g.2.2, unit := (g.1, 1) :: p.unit }]
  (next.filter fun p => decide (p.n0 ≤ cap) && decide (p.n1 ≤ cap) && decide (p.l0 ≤ 393216) && decide (p.l1 ≤ 393216)).foldl
    (fun acc p => if acc.any fun q => q.n0 == p.n0 && q.l0 == p.l0 then acc else acc ++ [p]) []

/-- Capacity of a rate: full at 44.1 and 48 kHz, half at 88.2 and 96 kHz, a quarter above. -/
def ratedOf (v : Tab Val) (n : Nat) : Nat := if fsOf v ≤ 48000 then n else if fsOf v ≤ 96000 then n / 2 else n / 4

/-- A placement of every group in a unit, if there is one (R187, R193; log 20). -/
def dynPlacing (v : Tab Val) : Option DynPlace := ((dynGroups v).foldl (fun ps g => placeGroup (ratedOf v 4096) g ps) [{}]).head?

/-- The DYN unit of an instance. -/
def dynUnit (v : Tab Val) (i : Nat) : Nat :=
  match dynPlacing v with
  | some p => tget 0 p.unit ((dynGroup v i).headD i)
  | none => 0

/-- The linked level: the largest over the group, per sample (R190). -/
def maxLists : List (List Int) → List Int
  | [] => []
  | [l] => l
  | l :: t => List.zipWith (fun a b => if a < b then b else a) l (maxLists t)

/-- PROCESS of a group of linked instances for a tick (R190-R193). -/
def State.runDyn (s : State) (tick : Nat) (grp : List Nat) : State :=
  let v := s.dict.vals
  let lv := grp.map fun j =>
    let d := tget ({} : DynInst) s.dyn.insts j
    (j, dynLevels (dynN v j 10 == 1) d.coef.beta (s.dynKey tick j) d.m)
  let l := maxLists (lv.map fun p => p.2.1)
  foldS (fun (s1 : State) (p : Nat × List Int × Int) =>
    let i := p.1
    let d := tget ({} : DynInst) s.dyn.insts i
    if !d.running then s1 else
    let (ys, d1, mx) := dynRun v i l (s.sigTick tick (dynN v i 2).toNat) (s.firstSample tick) { d with m := p.2.2 } 0
    let s2 := { s1 with dyn := { s1.dyn with
      insts := tset s1.dyn.insts i d1
      grPeak := if s1.dyn.grSel = i ∧ s1.dyn.grPeak < mx then mx else s1.dyn.grPeak } }
    s2.putSlot tick (dynN v i 3).toNat ys) s lv

/-- An instance at a commit (R192, R194), from sample `k`, with its coefficients: enabling starts from rest; MAKEUP and BYPASS move the
makeup over 64 samples. -/
def DynInst.commit (v : Tab Val) (i k : Nat) (co : DynCoef) (d : DynInst) : DynInst :=
  let mk := if dynN v i 15 != 0 then 0 else dynN v i 12 * 2 ^ 16
  if dynN v i 1 = 0 then {}
  else if !d.running then { running := true, coef := co, line := zeros (dynN v i 13).toNat, makeup := Ramp.rest mk }
  else { d with coef := co, makeup := if d.makeup.v1 = mk then d.makeup else d.makeup.to mk 64 k }

/-- An instance after a per-function reset (R209). -/
def DynInst.rest (d : DynInst) : DynInst :=
  { d with g := 0, m := 0, line := zeros d.line.length, makeup := Ramp.rest d.makeup.v1 }

end Sys2Proof.Machine
end

