-- ==== Sys2Proof/Machine/Direct.lean ====
section
/-! DEFINITION. The direct path (R91, R92, R195-R201, R216, R217). -/

namespace Sys2Proof.Machine

def dpN (v : Tab Val) (c m : Nat) : Int := cfgN v (0x9800 + c) m 0

/-- The absolute value. -/
def absI (x : Int) : Int := if x < 0 then -x else x

/-- The limiter (R198): the new gain q and the limited sample; units 2^-31. -/
def dpLimit (theta aa ar q w : Int) : Int × Int :=
  let t := if absI w ≤ theta then 2 ^ 31 else roundDiv (theta * 2 ^ 31) (absI w)
  let a := if t < q then aa else ar
  let q1 := q + roundShift (a * (t - q)) 31
  (q1, roundShift (w * q1) 31)

/-- The soft clip (R199); the flag says that it bent the sample. -/
def dpClip (c z : Int) : Int × Bool :=
  let a := absI z
  if a ≤ c ∨ c = 2 ^ 31 then (sat32 z, false)
  else
    let u0 := roundDiv ((a - c) * 2 ^ 31) (2 * (2 ^ 31 - c))
    let u := if 2 ^ 31 < u0 then 2 ^ 31 else u0
    let v := c + roundShift ((2 ^ 31 - c) * (2 * u - roundShift (u * u) 31)) 31
    (sat32 (if z < 0 then -v else v), true)

/-- Whether a direct frame held for a sample counts (R91, R92): a SHADOW, and an engine that was one when the sample fell, goes by the
adopted DIRECT bits; for samples whose bits never came, and in every other engine, the frame that is held was on time (R345). -/
def State.directCounts (s : State) (x k : Nat) : Bool :=
  match s.csw.directBits.find? fun d => d.1 == k / s.spt && d.2.1 == x with
  | some d => at? false d.2.2 (k % s.spt)
  | none => true

/-- The direct sample of a source for sample number `k` (R84, R91, R196, R200): the local TDM word whose frame sync is the instant of
sample `k`, complete one sample later (R70), or a held direct frame; zero if absent. -/
def State.directIn (s : State) (k : Nat) (r : Option Src) : Int :=
  match r with
  | some ⟨1, ch, _⟩ =>
    match tfind s.csw.gather (bankKey ((k + 1) / s.spt) (tdmIndex ch)) with
    | some d => at? 0 d.samples ((k + 1) % s.spt)
    | none => 0
  | some ⟨3, i, _⟩ =>
    let v := s.conf (k / s.spt)
    match s.csw.direct.find? fun h => h.sample == k && decide (directBase v h.ctx ≤ i) && decide (i < directBase v h.ctx + h.vals.length) &&
        s.directCounts h.ctx k with
    | some h => at? 0 h.vals (i - directBase v h.ctx)
    | none => 0
  | _ => 0

/-- The input of a channel for a sample, through Fox (R201, R98). -/
def State.dpInput (s : State) (c k : Nat) : Int :=
  let n := k / s.spt
  match s.csw.fadeAt (.direct c) s.spt n with
  | none => match s.csw.routeAt (.direct c) n with | some r => s.directIn k (s.routeSrc n r) | none => 0
  | some f =>
    let p := k - f.first * s.spt
    if p < f.len then foxMix f.shape f.len p (s.directIn k (s.routeSrc n f.old)) (s.directIn k (s.routeSrc n f.new))
    else s.directIn k (s.routeSrc n f.new)

/-! ### Banks (R175, R176, R197, R201) -/

/-- a_r of R198 for LIM_REL in microseconds. -/
def State.limRelease (s : State) (us : Int) : Int := 2 ^ 31 - expNeg 1000000 (us.toNat * s.fs)

/-- a_a of R198. -/
def State.limAttack (s : State) : Int := 2 ^ 31 - expNeg 100000 s.fs

/-- The bank of a channel under a configuration, for sample `k` on. -/
def State.dpBankOf (s : State) (v : Tab Val) (c k : Nat) : DpBank :=
  { start := k, on := dpN v c 1 != 0, gl := linGain (dpN v c 3), inv := dpN v c 4 != 0, limEn := dpN v c 5 != 0, clipEn := dpN v c 8 != 0
    theta := dbPow 31 (dpN v c 6), ar := s.limRelease (dpN v c 7), clip := dbPow 31 (dpN v c 9) }

/-- A channel takes a bank over (R201). -/
def DpCh.take (d : DpCh) (b : DpBank) : DpCh :=
  let d0 := { d with bank := b }
  if b.on ∧ (!d.running ∨ d.stopping) then
    { d0 with running := true, stopping := false, gain := if d.running then d.gain.to b.gl 32 b.start else ⟨0, b.gl, 32, b.start⟩
              q := 2 ^ 31, lim := b.limEn, limStopping := false }
  else if !d.running then d0
  else if !b.on then (if d.stopping then d0 else { d0 with stopping := true, gain := d.gain.to 0 32 b.start })
  else
    let d1 := if d.gain.v1 = b.gl then d0 else { d0 with gain := d.gain.to b.gl 32 b.start }
    if b.limEn ∧ !d.bank.limEn then { d1 with lim := true, limStopping := false, q := 2 ^ 31 }
    else if b.limEn then d1
    else { d1 with limStopping := d.lim }

/-- The banks whose first sample has come are taken over, in order. -/
def DpCh.upTo (d : DpCh) (k : Nat) : DpCh :=
  { (d.next.filter fun b => decide (b.start ≤ k)).foldl DpCh.take d with next := d.next.filter fun b => decide (k < b.start) }

/-- A channel is in use: it runs, or a bank that waits starts it. -/
def DpCh.inUse (d : DpCh) : Bool := d.running || d.next.any (·.on)

/-- One sample of one channel (R197-R199): the channel after it, its output, whether the limiter acts and whether the clip bends.  A
limiter on its way to q = 1 stops where its rounded step no longer moves q (log 145). -/
def State.dpStep (s : State) (k : Nat) (x : Int) (d : DpCh) : DpCh × Int × Bool × Bool :=
  let w0 := satTo 39 (floorShift (x * d.gain.at k + 2 ^ 26) 27)
  let w := if d.bank.inv then -w0 else w0
  let step := roundShift (d.bank.ar * (2 ^ 31 - d.q)) 31
  let fin := d.lim && d.limStopping && decide (step = 0)
  let (q, z) :=
    if d.lim ∧ !d.limStopping then dpLimit d.bank.theta s.limAttack d.bank.ar d.q w
    else if fin then (2 ^ 31, w)
    else if d.lim then (d.q + step, roundShift (w * (d.q + step)) 31)
    else (d.q, w)
  let (y, bent) := if d.bank.clipEn then dpClip d.bank.clip z else (sat32 z, false)
  -- a disabled channel whose ramp to mute is over becomes zero (R201)
  let stops := d.stopping && d.gain.done (k + 1)
  ({ d with q := q, lim := d.lim && !fin, limStopping := d.limStopping && !fin, running := !stops, stopping := d.stopping && !stops
            pipe := ((k + 3, y) :: d.pipe).take (4 * s.spt + 40) }, y, d.lim && decide (q < 2 ^ 31), bent)

/-- A channel's output sample is lost: zero. -/
def DpCh.zeroAt (d : DpCh) (spt k : Nat) : DpCh := { d with pipe := ((k + 3, 0) :: d.pipe).take (4 * spt + 40) }

/-- A channel computes its sample; a channel that DP cannot complete in time gives zero, counts LATE and raises DP_LATE (R200); during a
per-function reset of DP the samples are zero (R209). -/
def State.dpChannel (k : Nat) (late : List Nat) (s : State) (c : Nat) : State :=
  let d := (tget ({} : DpCh) s.dp.ch c).upTo k
  let put (d : DpCh) : State := { s with dp := { s.dp with ch := tset s.dp.ch c d } }
  if !(tget ({} : DpCh) s.dp.ch c).inUse then s
  else if !d.running then put d
  else if s.resetting 3 then put (d.zeroAt s.spt k)
  else if late.contains c then
    ({ s with dp := { s.dp with late := s.dp.late + 1, ch := tset s.dp.ch c (d.zeroAt s.spt k) } }).raiseT blkDp 0x10 .u
  else
    let (d1, _, act, bent) := s.dpStep k (s.dpInput c k) d
    { s with dp := { s.dp with
      ch := tset s.dp.ch c d1
      limNow := if act then s.dp.limNow ||| BitVec.ofNat 64 (2 ^ c) else s.dp.limNow
      clip := if bent then s.dp.clip ||| BitVec.ofNat 64 (2 ^ c) else s.dp.clip } }

/-- DP computes sample `k` of every channel. -/
def State.dpRun (late : List Nat) (s : State) (k : Nat) : State :=
  let s1 := foldS (State.dpChannel k late) s (List.range 64)
  { s1 with dp := { s1.dp with done := some k } }

/-- The output of a DP channel with a label. -/
def State.dpOutAt (s : State) (c label : Nat) : Int :=
  match (tget ({} : DpCh) s.dp.ch c).pipe.find? fun p => p.1 == label with
  | some p => p.2
  | none => 0

/-- The value a direct egress channel sends for sample `k`: a direct input, or a DP output with that label (R84). -/
def State.directOut (s : State) (k : Nat) (r : Option Src) : Int :=
  match r with
  | some ⟨4, c, _⟩ => s.dpOutAt c k
  | _ => s.directIn k r

/-- The engine serves: ACTIVE or unpaired in Noon, or still emitting in Dusk (R27, R330, R573). -/
def State.onAir (s : State) : Bool := (s.top.state == .noon || s.top.state == .dusk) && !s.pair.fenced && s.pair.role != 2

/-- Whether audio leaves the engine: not during a reset of CSW (R617). -/
def State.emitting (s : State) : Bool := s.onAir && !s.resetting 6

/-- The source of a channel of a direct egress context in a tick. -/
def State.directSrc (s : State) (x c n : Nat) : Option Src := s.routeSrc n (wantedRoute (s.conf n) (.egress x c))

/-- The subframe that a forwarded direct channel passes on unchanged: V, U, C and P of an FMT 3 source (R51). -/
def State.directSide (s : State) (k : Nat) (r : Option Src) : Option Nat :=
  match r with
  | some ⟨3, i, _⟩ =>
    let v := s.conf (k / s.spt)
    (s.csw.direct.find? fun h => h.sample == k && decide (directBase v h.ctx ≤ i) && decide (i < directBase v h.ctx + h.vals.length) &&
        s.directCounts h.ctx k).bind fun h => h.side[i - directBase v h.ctx]?
  | _ => none

/-- One channel of a direct frame on the wire, with the label of sample `k` + 1 (R84, R50-R52).  A source with FMT 3 keeps bits [7:0] of its
subframe: V, U, C and P, as R51 says, and the preamble code as received, which R51 leaves open (log 194). -/
def State.directWire (s : State) (v : Tab Val) (x c k : Nat) : List Byte :=
  let r := s.directSrc x c (k / s.spt)
  let y := s.directOut k r
  let built := toWire (ctxN v x 4 % 8) (ctlBit v x 11) c (k + 1) (cfgB v (0x2000 + x) 25 0) y
  if ctxN v x 4 % 8 ≠ 3 then built else
  match s.directSide k r with
  | some b => beBytes 4 ((BitVec.ofInt 32 y).toNat / 256 * 256 + b)
  | none => built

/-- The payload of the direct frame of sample `k`. -/
def State.directPayload (s : State) (x k : Nat) : List Byte :=
  let v := s.dict.vals
  (List.range (ctxNch v x)).flatMap fun c => s.directWire v x c k

/-- A channel of a direct context selects a signal without an entry in the tick of sample `k` (R78). -/
def State.directLacks (s : State) (x k : Nat) : Bool :=
  (List.range (ctxNch s.dict.vals x)).any fun c =>
    match selectedSig (s.conf (k / s.spt)) (.egress x c) with
    | some g => (s.subIn (s.conf (k / s.spt)) g).isNone
    | none => false

/-- The frames of sample `k` are the last direct ones before the boundary of a handover: they carry FENCE (R57, R336). -/
def State.lastDirect (s : State) (k : Nat) : Bool := s.pair.handoverAt.any fun h => k + 1 == h * s.spt

/-- The direct egress contexts. -/
def directEgress (v : Tab Val) : List Nat := (egressCtxs v).filter fun x => ctxMode v x == 1

/-- The direct frame of sample `k` of one context, labelled k + 1 (R84); an engine that holds its audio back forms it (R325), as one that has
taken over does with those it is behind (`now` is false).  NOSRC counts once a tick (R78). -/
def State.emitDirect1 (k : Nat) (now : Bool) (s : State) (x : Nat) : State :=
  let b := s.directPayload x k
  let s0 := if k % s.spt = 0 ∧ s.directLacks x k then s.count x 17 else s
  let s1 := s0.modCsw fun c => { c with dirTx := (x, k + 1, b) :: c.dirTx }
  if !s.onAir ∨ !now then s1
  else if s.resetting 6 then s1.skipSeq x 1
  else if !(s.keyServes x ((k + 1) / s.spt) ((k + 1) % 2 ^ 32)) then s1 else
  let wire (q : Nat) (n : Bool) : List Byte :=
    s.encap x n q (s.kapoBytes x ((k + 1) / s.spt) (s.kapoHead x s.sendEpoch (k + 1) q (k + 1) false (s.lastDirect k) true 0) [] b)
  (s1.sendFrame x b.length fun q n => .direct x n s.sendEpoch (k + 1) q (txKey s.dict.vals x) b (wire q n)).keyUse x ((k + 1) / s.spt) ((k + 1) % 2 ^ 32)

/-- The direct frames of sample `k`. -/
def State.emitDirect (s : State) (k : Nat) (now : Bool) : State := foldS (State.emitDirect1 k now) s (directEgress s.dict.vals)

/-- The samples that DP computes when sample `k` comes (R345, R353): a SHADOW, and an engine that joins, work 2 ticks behind; an engine that has
taken over works off what it is behind, as does one that has loaded a capture. -/
def State.dpDue (s : State) (k : Nat) : List Nat :=
  let joins := s.pair.joinS.isSome
  if joins ∧ !s.pair.caught then [] else
  let hi := if s.pair.role = 2 ∨ joins then k - 2 * s.spt else k
  let lo := match s.dp.done with
    | some d => if d < hi ∧ (hi ≤ d + 2 * s.spt + 1 ∨ joins) then d + 1 else if hi = d then hi + 1 else hi
    | none => hi
  (List.range (hi + 1 - lo)).map (lo + ·)

/-- DP_SAMPLE (R197, R84, R200, R345): every running channel computes one sample, and the direct egress frames of that sample leave. -/
def execDpSample (sample : Nat) (late : List Nat) (s : State) : Out :=
  let s0 := s.quiet
  let ks := s0.dpDue sample
  .next (foldS (fun (s : State) k => (s.dpRun (if k = sample then late else []) k).emitDirect k (ks.getLast? == some k)) s0 ks)

/-- A channel after a per-function reset (R209). -/
def DpCh.rest (d : DpCh) : DpCh := { d with q := 2 ^ 31, gain := Ramp.rest d.gain.v1, pipe := [] }

end Sys2Proof.Machine
end

