-- ==== Sys2Proof/Machine/Silence.lean ====
section
/-! DEFINITION. Silence detection, zero monitors and silence gating (R34, R202-R208, R218-R220, R516-R518). -/

namespace Sys2Proof.Machine

/-- ceil(ms * fs / (1000 SPT)) (R203). -/
def State.msTicks (s : State) (ms : Nat) : Nat := ceilDiv (ms * s.fs) (1000 * s.spt)

/-- The threshold of R203: round_half_up(2^31 * 10^(THRESH / 20)), THRESH in Q9.7. -/
def detTheta (v : Tab Val) (d : Nat) : Int := dbPow 31 (2 * cfgN v 0xD100 2 d)

/-- H of R203. -/
def State.detHold (s : State) (v : Tab Val) (d : Nat) : Nat := s.msTicks (cfgN v 0xD100 3 d).toNat

/-- A detector under the assignment of tick `n` (R208): a new signal restarts it at that tick; the assignment before keeps its count while it
has ticks to decide. -/
def Detector.assign (t : Detector) (g : Option Nat) (n : Nat) : Detector :=
  if t.sig = g then t else { sig := g, since := n, older := (t.toDetRun :: t.older).take 3 }

/-- The assignments of a detector, the newest first. -/
def Detector.runs (t : Detector) : List DetRun := t.toDetRun :: t.older

/-- The assignment in force at tick `n`. -/
def Detector.runAt (t : Detector) (n : Nat) : Option DetRun := t.runs.find? fun r => decide (r.since ≤ n)

/-- A decision is recorded for its signal. -/
def Sil.note (x : Sil) (g tick : Nat) (b : Bool) : Sil :=
  { x with log := (g, tick, b) :: x.log.filter fun e => !(e.1 == g && e.2.1 == tick) }

/-- One step of a count (R203): a tick that is not quiet ends silence at once; `h` consecutive quiet ticks make a detector SILENT. -/
def silStep (q : Bool) (h n : Nat) (silent : Bool) : Nat × Bool := if q then (n + 1, silent || decide (h ≤ n + 1)) else (0, false)

/-- One assignment after a tick whose samples are quiet or not, with hold `h`. -/
def DetRun.after (r : DetRun) (q : Bool) (h : Nat) : DetRun :=
  let p := silStep q h r.quiet r.silent
  { r with quiet := p.1, silent := p.2 }

/-- Assignments, the newest first, after the one of tick `n` has seen that tick. -/
def runsAfter (n : Nat) (q : Bool) (h : Nat) : List DetRun → List DetRun
  | [] => []
  | r :: t => if r.since ≤ n then r.after q h :: t else r :: runsAfter n q h t

/-- A detector after its assignment of tick `n` has seen that tick. -/
def Detector.after (t : Detector) (n : Nat) (q : Bool) (h : Nat) : Detector :=
  if t.since ≤ n then { t with toDetRun := t.toDetRun.after q h } else { t with older := runsAfter n q h t.older }

/-- The decision of a detector for a tick (R203, R204), under the configuration of that tick. -/
def State.detDecide (s : State) (v : Tab Val) (tick d g : Nat) (xs : List Int) : State :=
  let q := xs.all fun x => decide (absI x < detTheta v d)
  let t := (tget ({} : Detector) s.sil.det d).after tick q (s.detHold v d)
  { s with sil := ({ s.sil with det := tset s.sil.det d t }).note g tick (match t.runAt tick with | some r => r.silent | none => false) }

/-- Every detector takes the assignment of tick `n` (R208). -/
def State.detAssign (s : State) (v : Tab Val) (n : Nat) : State :=
  let ds := sortN (detAssigned v ++ s.sil.det.map (·.1))
  { s with sil := { s.sil with det := ds.foldl (fun t d => tset t d ((tget ({} : Detector) t d).assign (detSig v d) n)) s.sil.det } }

/-- Decisions at the cutoff of a tick (R204): detectors on signals of KIND 0 and 1, under the configuration of that tick (R208). -/
def State.silCutoff (s : State) (tick : Nat) : State :=
  let v := s.conf tick
  foldS (fun s d =>
    match detSig v d with
    | none => s
    | some g =>
      match s.subIn v g with
      | some r => if r.kind ≤ 1 then s.detDecide v tick d g (s.srcTick tick (some r)) else s
      | none => s.detDecide v tick d g (zeros s.spt)) (s.detAssign v tick) (detAssigned v)

/-- The signal that a detector is assigned to at tick `n`, where it is a processing output. -/
def State.detOutput (s : State) (n d : Nat) : Option (Nat × Src) :=
  match (tget ({} : Detector) s.sil.det d).runAt n with
  | none => none
  | some r =>
    match r.sig with
    | none => none
    | some g => match s.sub g with | some x => if x.kind = 2 then some (g, x) else none | none => none

/-- Decisions when PROCESS of a tick ends (R204): detectors on processing outputs. -/
def State.silProcess (s : State) (tick : Nat) : State :=
  foldS (fun s d =>
    match s.detOutput tick d with
    | some (g, r) => s.detDecide s.dict.vals tick d g (s.srcTick tick (some r))
    | none => s) s (sortN (s.sil.det.map (·.1)))

/-- SILENT (R203): a detector that has completed H consecutive quiet ticks becomes SILENT, for the tick it decided last. -/
def execSilent (det : Nat) (s : State) : Out :=
  let s0 := s.quiet
  let t := tget ({} : Detector) s0.sil.det det
  .next (match t.sig with
  | some g =>
    if detSig s0.dict.vals det = some g ∧ s0.detHold s0.dict.vals det ≤ t.quiet then
      let x := { s0.sil with det := tset s0.sil.det det { t with silent := true } }
      { s0 with sil := match x.log.find? fun e => e.1 == g with | some e => x.note g e.2.1 true | none => x }
    else s0
  | none => s0)

/-- A route is silent in the ticks whose samples a frame carries (R205): NULL, or a source whose detector was SILENT after each. -/
def State.routeSilent (s : State) (v : Tab Val) (ticks : Route → List Nat) (r : Route) : Bool :=
  match r.sig with
  | none => true
  | some g => hasDetector v g && (ticks r).all fun t => s.silentAfter g t

/-- Whether a channel of the egress frame of tick `n` is marked silent (R205); of a fade both sources are (log 146). -/
def State.channelSilent (s : State) (c : Consumer) (n : Nat) (ticks : Route → List Nat) : Bool :=
  let v := s.conf n
  match s.csw.fadeAt c s.spt n with
  | some f => s.routeSilent v ticks f.old && s.routeSilent v ticks f.new
  | none =>
    match s.csw.routeAt c n with
    | none => true
    | some r => s.routeSilent v ticks r

/-! ### Work-set zero monitors (R206) -/

/-- No byte of the given regions is listed: they hold only zeros. -/
def regionsZero (rs : List (Nat × Nat)) (m : List Host.Cell) : Bool :=
  m.all fun c => !(rs.any fun r => decide (r.1 ≤ c.1) && decide (c.1 < r.1 + r.2))

/-- STATE of a work set holds only zeros. -/
def State.stateZero (s : State) (w : Nat) : Bool :=
  match s.owner w with
  | some c => (s.cluster c).lanes.all fun l => regionsZero (s.workSet w).img.state l.lmem
  | none => true

/-- Everything R206 lists is zero at the cutoff of tick `n`: inputs from a gather bank for tick n; inputs from other units, outputs and STATE
after PROCESS of tick n - 2. -/
def State.wsAllZero (s : State) (w n : Nat) : Bool :=
  let img := (s.workSet w).img
  let zeroT (t : Nat) (r : Src) : Bool := (s.srcTick t (some r)).all fun x => decide (x = 0)
  ((imagePorts img).all fun p => ((s.portSrcs n p).all fun r => decide (2 ≤ r.kind) || zeroT n r) &&
    (s.portSrcs (n - 2) p).all fun r => decide (r.kind ≤ 1) || zeroT (n - 2) r) &&
  ((imageSlots (s.conf (n - 2)) img).all fun k => zeroT (n - 2) ⟨2, k, 0⟩) && (s.workSet w).stateWas

/-- Gating is suspended for a cluster that takes part in a spare-in (R134). -/
def State.inSpin (s : State) (n : Nat) : Bool :=
  (List.range 9).any fun m => (s.cluster m).phase != 0 && (m == n || (s.cluster m).spinSrc == n)

/-- A work set whose monitor has seen WS_HOLD of exact zeros is reported digitally silent, and PWR gates its cluster (R206, R34, R518). -/
def State.wsZero (s : State) (v : Tab Val) (ws : Nat) : State :=
  if s.msTicks (cfgN v 0xD108 1 ws).toNat ≤ (tget ({} : ZeroMon) s.sil.mon ws).ticks then
    let s1 := { s with sil := { s.sil with mon := tmod {} s.sil.mon ws fun (m : ZeroMon) => { m with zero := true } } }
    match s1.owner ws with
    | some n => if s1.inSpin n then s1 else { s1 with pwr := { s1.pwr with gated := s1.pwr.gated.lor (2 ^ n) } }
    | none => s1
  else s

/-- The zero monitors at a cutoff: the run of all-zero ticks counts on or starts again. -/
def State.monCutoff (s : State) (n : Nat) : State :=
  foldS (fun s w =>
    let z := s.wsAllZero w n
    let s1 := { s with sil := { s.sil with mon := tmod {} s.sil.mon w fun (m : ZeroMon) =>
      if z then { m with ticks := m.ticks + 1 } else { ticks := 0, zero := false } } }
    if z then s1.wsZero (s.conf n) w else s1) s (List.range 8)

/-- The decisions of a tick's cutoff, made once (R204, R206): those of detectors on inputs, and those of the zero monitors. -/
def State.cutoffDecide (s : State) (n : Nat) : State :=
  let s1 := (s.silCutoff n).monCutoff n
  { s1 with sil := { s1.sil with decided := some n } }

/-- WS_ZERO (R206, R34, R518): a work set is reported digitally silent; the cutoff of its tick does the same (log 147). -/
def execWsZero (ws : Nat) (s : State) : Out :=
  let s0 := s.quiet
  .next (match s0.csw.cutTick with
  | some n => if ws < 8 then s0.wsZero (s0.conf n) ws else s0
  | none => s0)

/-- SIL after a per-function reset (R209): detectors and monitors restart, every gated cluster wakes. -/
def State.silRest (s : State) : State :=
  foldS State.wake { s with sil := { s.sil with det := [], log := [], mon := [] } } (List.range 9)

end Sys2Proof.Machine
end

