-- ==== Sys2Proof/Machine/Align.lean ====
section
/-! DEFINITION. Array alignment and delay memory (R222-R247). -/

namespace Sys2Proof.Machine

def alnN (v : Tab Val) (o m : Nat) : Int := cfgN v (0x7000 + o) m 0

/-- S of R225. -/
def alnSpanOf (v : Tab Val) : Nat := sptOf v + 13

/-- The number of aligned outputs of the rate (R223). -/
def alnCount (v : Tab Val) : Nat := if fsOf v ≤ 48000 then 4096 else if fsOf v ≤ 96000 then 2048 else 1024

/-- The greatest delay of the rate (R223), in samples. -/
def alnMaxDelay (v : Tab Val) : Nat := if 96000 < fsOf v then 96000 else fsOf v

/-- The denominators of R226. -/
def lagDen (j : Nat) : Int := at? 1 [-5040, 720, -240, 144, -144, 240, -720, 5040] j

/-- The numerator of c_j at the fraction code `f`, in units of 2^-112. -/
def lagNum (j f : Nat) : Int :=
  ((List.range 8).filter (· != j)).foldl (fun (p : Int) (m : Nat) => p * ((f : Int) + ((3 : Int) - (m : Int)) * 65536)) 1

/-- c_j(f) in Q2.30, the correctly rounded rational product (R226). -/
def lagrange (j f : Nat) : Int :=
  let d := lagDen j
  let n := lagNum j f
  if d < 0 then roundDiv (-n) (-d * 2 ^ 82) else roundDiv n (d * 2 ^ 82)

/-- One tap of R227 before gain: `rd` reads by age; sample `kk` of a tick of `spt` samples; the flag is a saturation of v. -/
def alnTap (rd : Nat → Int) (spt kk delay : Nat) : Int × Bool :=
  let i := delay / 65536
  let f := delay % 65536
  let acc := (List.range 8).foldl (fun (acc : Int) (j : Nat) => (clamp80 (acc + lagrange j f * rd (spt - kk + i + 6 + j))).1) 0
  convert80 acc 30 false

/-- One step of a SLEW movement (R229). -/
def slewStep (rate cur target : Nat) : Nat :=
  if cur < target then (if cur + rate < target then cur + rate else target)
  else if target + rate < cur then cur - rate else target

/-- A crossfade that still has samples to come. -/
def AlnOut.fading (a : AlnOut) : Bool := match a.xtap with | some x => decide (x.k < x.len) | none => false

/-- One output sample (R227-R230): the output after it, y, and its saturations.  `k` is the sample's number. -/
def AlnOut.sample (a : AlnOut) (rd : Nat → Int) (rate spt kk k : Nat) : AlnOut × Int × Nat :=
  let fin (v : Int) (n : Nat) : Int × Nat :=
    let y0 := floorShift (v * a.gs.at k + 2 ^ 26) 27
    (sat32 y0, n + b2n (decide (sat32 y0 ≠ y0)))
  match a.xtap with
  | some x =>
    if x.k < x.len then
      let (vo, so) := alnTap rd spt kk a.cur
      let (vn, sn) := alnTap rd spt kk a.target
      let i := (2 * x.k + 1) * 4096 / x.len
      let v0 := roundShift (foxWeight x.shape (8191 - i) * vo + foxWeight x.shape i * vn) 31
      let (y, n) := fin (sat32 v0) (b2n so + b2n sn + b2n (decide (sat32 v0 ≠ v0)))
      ({ a with xtap := some { x with k := x.k + 1 }, cur := if x.k + 1 = x.len then a.target else a.cur }, y, n)
    else
      let (v, sv) := alnTap rd spt kk a.target
      let (y, n) := fin v (b2n sv)
      ({ a with cur := a.target }, y, n)
  | none =>
    let c := slewStep rate a.cur a.target
    let (v, sv) := alnTap rd spt kk c
    let (y, n) := fin v (b2n sv)
    ({ a with cur := c }, y, n)

/-- The samples of a tick. -/
def AlnOut.samples (rd : Nat → Int) (rate spt k0 : Nat) : List Nat → AlnOut → AlnOut × List Int × Nat
  | [], a => (a, [], 0)
  | kk :: t, a =>
    let (a1, y, n) := a.sample rd rate spt kk (k0 + kk)
    let (a2, ys, m) := AlnOut.samples rd rate spt k0 t a1
    (a2, y :: ys, n + m)

/-- The samples of a channel in a memory, as little-endian words. -/
def putWords : Nat → List Int → List Host.Cell → List Host.Cell
  | _, [], m => m
  | a, x :: t, m => putWords (a + 4) t (memSetWord m a (BitVec.ofInt 32 x))

/-- A line of 64 bytes is marked poisoned (R436). -/
def Memc.poisoned (m : Memc) (addr : Nat) : Bool := m.poison.contains (addr / 64)

/-- One input sample at WP (R233): writes are combined until a 128-byte unit is full, which then goes to DRAM (R235); what was poisoned there is
overwritten (R451). -/
def AlnOut.push (base : Nat) (p : AlnOut × Memc) (x : Int) : AlnOut × Memc :=
  let (a, m) := p
  let b := a.buf ++ [x]
  let full := decide (a.wp % 32 = 31)
  let at0 := base + 4 * (a.wp - 31)
  ({ a with wp := (a.wp + 1) % a.len, horizon := Nat.min (a.horizon + 1) a.len, buf := if full then [] else b },
   if full then { m with dram := putWords at0 b m.dram, poison := m.poison.filter fun l => l != at0 / 64 && l != at0 / 64 + 1 } else m)

/-- The offset of age `a` (R233). -/
def AlnOut.offset (a : AlnOut) (age : Nat) : Nat := (a.wp + a.len * (age / a.len + 1) - age) % a.len

/-- A read of an age (R233): 0 beyond the horizon; samples not yet in DRAM come from the buffer (R235), and those of a poisoned line are 0 (R238). -/
def AlnOut.read (a : AlnOut) (m : Memc) (base age : Nat) : Int :=
  let addr := base + 4 * a.offset age
  if a.horizon < age then 0
  else if age ≤ a.buf.length then at? 0 a.buf (a.buf.length - age)
  else if m.poisoned addr then 0
  else (memWord m.dram addr).toInt

/-- DRAM_UE (R436, R451, R454): the poisoned line's address is the detail. -/
def State.dramUE (s : State) (addr : Nat) : State :=
  ({ s with memc := { s.memc with ue := s.memc.ue + 1 } }).raise blkMemc 0x11 .u addr

/-- The delays that each tap in use takes at the samples of a tick (R229, R230, R235), as pairs of sample and delay. -/
def AlnOut.taps (a : AlnOut) (rate spt : Nat) : List (List (Nat × Nat)) :=
  match a.xtap with
  | some x =>
    let new := (List.range spt).map fun kk => (kk, a.target)
    if x.k < x.len then [(List.range (Nat.min spt (x.len - x.k))).map fun kk => (kk, a.cur), new] else [new]
  | none => [(List.range spt).map fun kk => (kk, iter (fun c => slewStep rate c a.target) (kk + 1) a.cur)]

/-- The largest delay that any tap uses in a tick (R233). -/
def AlnOut.largest (a : AlnOut) (rate spt : Nat) : Nat := (a.taps rate spt).flatten.foldl (fun n p => Nat.max n p.2) 0

/-- The read window of a tap (R235): the contiguous range of ages it reaches over its samples. -/
def tapWindow (spt : Nat) (l : List (Nat × Nat)) : List Nat :=
  let lo := l.map fun p => spt - p.1 + p.2 / 65536 + 6
  let hi := lo.foldl Nat.max 0 + 7
  let lo0 := lo.foldl Nat.min hi
  (List.range (hi + 1 - lo0)).map (lo0 + ·)

/-- The addresses of the samples that the windows of a tick take from DRAM. -/
def AlnOut.fetched (a : AlnOut) (base spt : Nat) (taps : List (List (Nat × Nat))) : List Nat :=
  ((taps.flatMap (tapWindow spt)).filter fun age => decide (a.buf.length < age) && decide (age ≤ a.horizon)).map fun age => base + 4 * a.offset age

/-- The poisoned lines in the units of 128 bytes that hold the addresses. -/
def poisonFetched (m : Memc) (addrs : List Nat) : List Nat :=
  sortN ((addrs.flatMap fun x => [2 * (x / 128), 2 * (x / 128) + 1]).filter m.poison.contains)

/-- PROCESS of one aligned output for a tick: the inputs are written first, then every sample is read (R233); a poisoned line in a fetched unit
raises DRAM_UE, and ALN_MEM where it holds samples of a window (R235, R238).  `mute` is a unit held by its per-function reset: its inputs still enter the region (R239) and it writes no output. -/
def State.runAln (s : State) (tick : Nat) (mute : Bool) (o : Nat) : State :=
  let a := tget ({} : AlnOut) s.aln.outs o
  match a.region with
  | none => s
  | some (base, _) =>
    let v := s.dict.vals
    let spt := s.spt
    let (a1, mc) := (s.sigTick tick (alnN v o 2).toNat).foldl (AlnOut.push base) (a, s.memc)
    let s1 := { s with memc := mc }
    if mute then { s1 with aln := { s1.aln with outs := tset s1.aln.outs o a1 } } else
    let rate := (alnN v o 6).toNat
    let addrs := a1.fetched base spt (a1.taps rate spt)
    let bad := poisonFetched mc addrs
    let (a2, ys, sat) := AlnOut.samples (a1.read mc base) rate spt (s.firstSample tick) (List.range spt) a1
    let s2 := { s1 with aln := { s1.aln with outs := tset s1.aln.outs o a2, satCnt := s1.aln.satCnt + w32 sat } }
    let slot := (alnN v o 3).toNat
    let s3 := foldS (fun s l => s.dramUE (64 * l))
      ((s2.putSlot tick slot ys).modCsw fun c => { c with alnKeys := bankKey tick slot :: c.alnKeys }) bad
    if addrs.any mc.poisoned then s3.raiseT blkAln 0x11 .u o else s3

/-! ### Regions (R232) -/

/-- The regions held, as base and length. -/
def Aln.regions (a : Aln) : List (Nat × Nat) := a.outs.filterMap fun e => e.2.region

/-- A range overlaps none of the regions. -/
def rangeFree (rs : List (Nat × Nat)) (b n : Nat) : Bool := rs.all fun r => decide (b + n ≤ r.1) || decide (r.1 + r.2 ≤ b)

/-- The lowest free address of a pool that fits `n` bytes. -/
def lowestFit (base size : Nat) (rs : List (Nat × Nat)) (n : Nat) : Option Nat :=
  (sortN (base :: rs.map fun r => r.1 + r.2)).find? fun b =>
    decide (base ≤ b) && decide (b + n ≤ base + size) && rangeFree rs b n

def poolBase (v : Tab Val) : Nat := (cfgN v 0xD000 1 0).toNat
def poolSize (v : Tab Val) : Nat := (cfgN v 0xD000 2 0).toNat

/-- The tick in which the fade to mute of a disabled output ends is over before sample `k` (R232); a fade of no samples ends in the tick it
starts in. -/
def AlnOut.faded (a : AlnOut) (k : Nat) : Bool := a.stopping && decide (a.gs.start + Nat.max 1 a.gs.len ≤ k)

/-- The outputs without those whose region is released before sample `k` (R232). -/
def Aln.releaseDone (a : Aln) (k : Nat) : Aln := { a with outs := a.outs.filter fun e => !(e.2.faded k) }

/-- Regions for the outputs of a capture, in ascending output number, in the engine's own pool (R232, R250); WP comes with the capture, H is 0, and
nothing written before counts (R238). -/
def placeRegions (base size : Nat) : Tab AlnOut → List (Nat × Nat) → Tab AlnOut
  | [], _ => []
  | (o, a) :: t, rs =>
    let r := match a.region with
      | some (_, n) => (lowestFit base size rs n).map fun b => (b, n)
      | none => none
    (o, { a with region := r, horizon := 0, buf := zeros (a.wp % 32) }) :: placeRegions base size t (r.toList ++ rs)

/-! ### Commits (R228-R237) -/

/-- The signed gain target (R228). -/
def alnGain (v : Tab Val) (o : Nat) : Int := if alnN v o 12 != 0 then -(linGain (alnN v o 11)) else linGain (alnN v o 11)

/-- The largest delay a length admits (R236). -/
def delayLimit (len span : Nat) : Nat := (len - span) * 65536 + 65535

/-- A change of length (R236): write offset, horizon and clamped delays; the flag says that a delay was clamped. -/
def AlnOut.setLen (a : AlnOut) (len span : Nat) : AlnOut × Bool :=
  let lim := delayLimit len span
  let c (d : Nat) : Nat := if lim < d then lim else d
  let hit := decide (lim < a.cur) || decide (lim < a.target) || (match a.queued with | some q => decide (lim < q) | none => false)
  ({ a with
    len := len, wp := a.wp % len, horizon := if a.wp < len then Nat.min a.horizon a.wp else 0
    cur := c a.cur, target := c a.target, queued := a.queued.map c }, hit)

/-- The start of a delay change: in XTAP mode a crossfade from the current delay, in SLEW mode a movement (R229-R231). -/
def AlnOut.retarget (a : AlnOut) (v : Tab Val) (o d : Nat) : AlnOut :=
  let a1 := { a with target := d, queued := none, xtap := none }
  if alnN v o 5 = 1 ∧ a.cur ≠ d then { a1 with xtap := some ⟨a.cur, 0, (alnN v o 7).toNat, (alnN v o 8).toNat⟩ } else a1

/-- A clamp under R236: ALN_CLAMP, the count, and the flag of the output. -/
def State.alnClamped (s : State) (o : Nat) (hit : Bool) : State :=
  if hit then
    ({ s with aln := { s.aln with clampCnt := s.aln.clampCnt + 1, clamped := if s.aln.clamped.contains o then s.aln.clamped else o :: s.aln.clamped } }).raise
      blkAln 0x10 .c o
  else s

/-- gs of a running output at a commit (R228, R234), from sample `k` on: every change of GAIN or INV starts a ramp, but not while the output waits
for its horizon or ramps to mute. -/
def AlnOut.gainUnder (a : AlnOut) (v : Tab Val) (o k : Nat) : AlnOut :=
  let on := alnN v o 1 != 0
  let gramp := (alnN v o 13).toNat
  let code := (alnN v o 11, alnN v o 12)
  let a1 := { a with code := code }
  if !on ∧ !a.stopping then { a1 with stopping := true, waiting := false, gs := a.gs.to 0 gramp k }
  else if on ∧ (a.stopping ∨ (!a.waiting ∧ a.code ≠ code)) then { a1 with stopping := false, gs := a.gs.to (alnGain v o) gramp k }
  else a1

/-- An output at a commit for a tick whose first sample is `k`; `wrote` says which of its members the commit writes. -/
def State.alnCommit (s : State) (o k : Nat) (wrote : Nat → Bool) : State :=
  let v := s.dict.vals
  let a := tget ({} : AlnOut) s.aln.outs o
  let len := (alnN v o 10).toNat
  let d := (alnN v o 4).toNat
  let put (s : State) (a : AlnOut) : State := { s with aln := { s.aln with outs := tset s.aln.outs o a } }
  match a.region with
  | none =>
    if alnN v o 1 = 0 then s else
    let n := 4 * (alnN v o 9).toNat
    match lowestFit (poolBase v) (poolSize v) s.aln.regions n with
    | none => s
    | some b =>
      let lim := delayLimit len (alnSpanOf v)
      let d0 := Nat.min d lim
      (put s { region := some (b, n), cur := d0, target := d0, waiting := true, len := len, code := (alnN v o 11, alnN v o 12) }).alnClamped o
        (decide (lim < d))
  | some _ =>
    let a1 := if !wrote 4 then (if a.fading ∨ wrote 5 = false then a else a.retarget v o a.target)
      else if a.fading then { a with queued := some d } else a.retarget v o d
    let (a2, hit) := if len = a1.len then (a1, false) else a1.setLen len (alnSpanOf v)
    (put s (a2.gainUnder v o k)).alnClamped o hit

/-- An output after a per-function reset (R239): current delay at the latest target, ramps at their targets. -/
def AlnOut.rest (a : AlnOut) : AlnOut :=
  let t := a.queued.getD a.target
  { a with cur := t, target := t, queued := none, xtap := none, gs := Ramp.rest a.gs.v1 }

/-! ### Rows -/

/-- The gain ramp up from mute starts (R234, R233) once H at the start of the tick is at least floor(d) + 13 for the largest delay a tap uses. -/
def AlnOut.rampStart (a : AlnOut) (v : Tab Val) (o spt k : Nat) : AlnOut :=
  if a.region.isSome ∧ a.waiting ∧ a.largest (alnN v o 6).toNat spt / 65536 + 13 ≤ a.horizon then
    { a with waiting := false, gs := ⟨0, alnGain v o, (alnN v o 13).toNat, k⟩ }
  else a

/-- A crossfade that has reached k = L ends (R230, R231): only the new tap is read, and a queued target starts, unless it equals the target
reached. -/
def AlnOut.tapsOver (a : AlnOut) (v : Tab Val) (o : Nat) : AlnOut :=
  if a.xtap.isSome ∧ !a.fading then
    let a1 := { a with xtap := none, cur := a.target, queued := none }
    match a.queued with
    | some q => a1.retarget v o q
    | none => a1
  else a

/-- ALN_GAIN_RAMP_START (R234, R233). -/
def execAlnGainRampStart (out : Nat) (s : State) : Out :=
  let s0 := s.quiet
  .next (match tfind s0.aln.outs out with
  | some a => { s0 with aln := { s0.aln with outs := tset s0.aln.outs out (a.rampStart s0.dict.vals out s0.spt s0.processSample) } }
  | none => s0)

/-- ALN_REGION_RELEASE (R232, R234): the fade to mute of a disabled output has ended; it stops and its region is free. -/
def execAlnRegionRelease (out : Nat) (s : State) : Out :=
  let s0 := s.quiet
  let a := tget ({} : AlnOut) s0.aln.outs out
  .next (if a.region.isSome ∧ a.faded s0.processSample then
    { s0 with aln := { s0.aln with outs := tdel s0.aln.outs out } }
  else s0)

/-- ALN_XTAP_END (R230, R231). -/
def execAlnXtapEnd (out : Nat) (s : State) : Out :=
  let s0 := s.quiet
  .next (match tfind s0.aln.outs out with
  | some a => { s0 with aln := { s0.aln with outs := tset s0.aln.outs out (a.tapsOver s0.dict.vals out) } }
  | none => s0)

end Sys2Proof.Machine
end

