-- ==== Sys2Proof/Machine/Process.lean ====
section
/-! DEFINITION. The PROCESS stage: the order of the units, the regions of the work sets, late and over-long units, measured cycles (R20, R22,
R24, R41, R115, R116, R125, R164, R186, R204, R207, R209, R210, R213, R232, R240). -/

namespace Sys2Proof.Machine

/-- The island of the second dynamics unit (R16); every other island but those of the TDM ports and Vesper cores goes by its block number. -/
def islDyn1 : Nat := 0x88

/-- The island of a TDM port (R16). -/
def islTdm (p : Nat) : Nat := 0x110 + p

/-- The island of a Vesper core (R16). -/
def islCtl (c : Nat) : Nat := 0x100 + c

/-- The block of an island; the Vesper cores report at FAB (R481). -/
def islandBlock (i : Nat) : Nat :=
  if i = islDyn1 then blkDyn else if 0x110 ≤ i then blkTdm else if 0x100 ≤ i then blkFab else i

/-- The power domain of an island (R16, R25): that of its block, or of the Vesper core itself. -/
def islandDomain (i : Nat) : Option Nat := if i = islCtl 0 then some 2 else if i = islCtl 1 then some 3 else blockDomain (islandBlock i)

/-! ### Spare-ins that are asked for (R36, R129, R130, R134) -/

/-- A spare that is free. -/
def State.findSpare (s : State) : Option Nat :=
  (List.range 9).find? fun n => (s.cluster n).role == 0 && (s.cluster n).phase == 0 && !(s.cluster n).spinStart

/-- START of a spare-in on a spare cluster (R140). -/
def State.startSpin (s : State) (n src : Nat) (forced rotation : Bool) : State :=
  s.setCluster n fun c => { c with
    spinSrc := src, spinForced := forced, forcedAt := 0, regSrc := src, regForced := forced, spinStart := true, spinRotation := rotation }

/-- A spare-in that is running or about to start. -/
def Cluster.spinning (c : Cluster) : Bool := c.phase != 0 || c.spinStart

/-- Some spare-in is running (R36). -/
def State.spinRunning (s : State) : Bool := (List.range 9).any fun n => (s.cluster n).spinning

/-- NO_SPARE (R130): raised by the cluster that last held SPARE when no cluster is SPARE any more. -/
def State.noteNoSpare (s : State) (last : Nat) : State :=
  if (List.range 9).any fun n => (s.cluster n).role == 0 then s else s.raiseT (blkCl last) 0x14 .u

/-- A cluster is FAULTY: its domain is switched off and its memories lose their contents (R111, R517). -/
def State.makeFaulty (s : State) (n : Nat) : State :=
  { s.setCluster n fun c =>
      { ({} : Cluster) with
        role := 3, stFail := c.stFail, spareSince := c.spareSince, peak := c.peak, hostOvg := c.hostOvg, hostSat := c.hostSat
        hostCirc := c.hostCirc, hostAddr := c.hostAddr, stPass := c.stPass, march := c.march, seen := c.seen }
    with pwr := { s.pwr with on := s.pwr.on - (s.pwr.on.land (2 ^ (8 + n))) } }

/-- A spare that fails becomes FAULTY (R111, R130). -/
def State.spareFails (s : State) (n : Nat) : State := (s.makeFaulty n).noteNoSpare n

/-- SELFTEST_FAIL (R130): golden replay or march test. -/
def State.selfTestFails (s : State) (n : Nat) : State :=
  (((s.setCluster n fun c => { c with stFail := true }).modTop fun t => { t with selfFail := t.selfFail.lor 1 }).raiseT (blkCl n) 0x13 .u).spareFails n

/-- An event of class U or F of a spare that takes part in a spare-in (R134). -/
def State.spareEvent (s : State) (n : Nat) : State :=
  if (s.cluster n).role = 0 ∧ (s.cluster n).phase ≠ 0 then s.spareFails n else s

/-- A repair spare-in of a source (R36, R130, R134): it starts on the spare, waits behind a running one, or, without a spare,
is refused unless FORCED. -/
def State.repairSpin (s : State) (src : Nat) (forced : Bool) : State :=
  if s.spinRunning then { s with spinQ := some (src, forced) } else
  match s.findSpare with
  | some n => s.startSpin n src forced false
  | none => if forced then { s with spinQ := some (src, true) } else s

/-- A unit of work of MIX or DYN: a bus, or a group of linked instances; the slots it reads and writes. -/
structure ProcUnit where
  bus : Option Nat
  grp : List Nat
  reads : List Nat
  writes : List Nat
  deriving DecidableEq, Repr

/-- The name under which a unit counts as run. -/
def ProcUnit.key (u : ProcUnit) : Nat := match u.bus with | some b => b | none => 256 + u.grp.headD 0

/-- The slot a signal stands for, if it is a processing output. -/
def State.slotOf (s : State) (g : Nat) : List Nat :=
  match s.sub g with
  | some ⟨2, i, _⟩ => [i]
  | _ => []

/-- The running buses. -/
def State.busUnits (s : State) : List ProcUnit :=
  (sortN (s.mix.buses.map (·.1))).filterMap fun b =>
    let x := tget ({} : Bus) s.mix.buses b
    if x.running then
      some ⟨some b, [], x.entries.flatMap fun e => s.slotOf e.sig, [(busN s.dict.vals b 3).toNat]⟩
    else none

/-- The running groups of linked instances, named by their lowest instance. -/
def State.dynUnits (s : State) : List ProcUnit :=
  let v := s.dict.vals
  ((dynEnabled v).filter fun i => (dynGroup v i).headD i == i).map fun i =>
    let g := dynGroup v i
    ⟨none, g, g.flatMap fun j => s.slotOf (dynN v j 2).toNat ++ (if dynN v j 4 = 0xFFFFFFFF then [] else s.slotOf (dynN v j 4).toNat),
      g.map fun j => (dynN v j 3).toNat⟩

def State.units (s : State) : List ProcUnit := s.busUnits ++ s.dynUnits

/-- The island in which a unit works (R187, log 20). -/
def State.unitIsland (s : State) (u : ProcUnit) : Nat :=
  match u.bus with
  | some _ => blkMix
  | none => if dynUnit s.dict.vals (u.grp.headD 0) = 0 then blkDyn else islDyn1

/-- A unit of a function in reset produces nothing (R209). -/
def State.unitMuted (s : State) (u : ProcUnit) : Bool :=
  match u.bus with
  | some _ => s.resetting 0
  | none => s.resetting (1 + dynUnit s.dict.vals (u.grp.headD 0))

/-! ### What a unit waits for (R22) -/

/-- A step of a work set still has to write a slot in this PROCESS. -/
def State.setAwaited (s : State) (k w : Nat) : Bool :=
  match s.owner w with
  | none => false
  | some c => ((s.workSet w).img.steps.drop (s.cluster c).stepsRun).any fun d => (stepSlots s.dict.vals d).contains k

/-- A slot that a unit has still to write in this PROCESS. -/
def State.awaited (s : State) (k : Nat) : Bool :=
  (s.units.any fun u => !(s.csw.ran.contains u.key) && u.writes.contains k) || (List.range 8).any (s.setAwaited k)

/-- A unit starts once all its inputs for the tick are complete, and its island takes part in the tick (R20, R22). -/
def State.unitReady (s : State) (u : ProcUnit) : Bool :=
  !(s.csw.ran.contains u.key) && !(s.csw.idle.contains (s.unitIsland u)) && !(u.reads.any s.awaited)

/-- A unit computes the tick. -/
def State.runUnit (n : Nat) (s : State) (u : ProcUnit) : State :=
  if !(s.unitReady u) then s else
  let s1 := if s.unitMuted u then s else match u.bus with
    | some b => s.runBus n b
    | none => s.runDyn n u.grp
  s1.modCsw fun c => { c with ran := u.key :: c.ran }

/-- The sources of a channel of IN are complete. -/
def State.portReady (s : State) (n : Nat) (p : InPort) : Bool := (s.portSrcs n p).all fun r => r.kind != 2 || !(s.awaited r.index)

/-- A cluster takes no part: gated, or still waking (R34, R207). -/
def State.asleep (s : State) (c : Nat) : Bool := bitAt s.pwr.gated c || bitAt s.pwr.waking c

/-- The next step of a gated work set (R207): its inputs are zero, and so are its outputs; an input that is not zero wakes the cluster. -/
def State.restStep (n : Nat) (s : State) (w : Nat) : State :=
  match s.owner w with
  | none => s
  | some c =>
    if !(bitAt s.pwr.gated c) || bitAt s.pwr.waking c then s else
    match (s.workSet w).img.steps[(s.cluster c).stepsRun]? with
    | none => s
    | some d =>
      if !(d.inp.all (s.portReady n)) then s
      else if d.inp.all fun p => (s.portTick n p).all (· == 0) then
        foldS (fun s k => s.putSlot n k (zeros s.spt)) (s.setCluster c fun x => { x with stepsRun := x.stepsRun + 1 }) (stepSlots s.dict.vals d)
      else s.wake c

/-- One round over the units that are ready. -/
def State.round (n : Nat) (s : State) : State := foldS (State.restStep n) (foldS (State.runUnit n) s s.units) (List.range 8)

/-! ### IN regions (R115, R116, R164) -/

/-- One channel of IN filled in a cluster. -/
def Cluster.fillPort (xs : List Int) (p : InPort) (c : Cluster) : Cluster :=
  { c with lanes := mapBelow (fun l (x : Lane) => if l = p.lane then { x with lmem := putWords p.addr xs x.lmem } else x) 32 0 c.lanes }

/-- A source goes pending; a source already pending stays pending once (R164). -/
def Cluster.pendSource (c : Cluster) (src : Nat) : Cluster := { c with pend := c.pend.lor (2 ^ src) }

/-- A step's IN region is complete; that of a later step than the one that runs, or ran last, makes INRDY pending (R164). -/
def Cluster.inDone (c : Cluster) (j : Nat) : Cluster :=
  let c1 := { c with inFull := if c.inFull.contains j then c.inFull else j :: c.inFull }
  if (if c.stepping then c.stepNo else c.stepsRun - 1) < j then c1.pendSource 1 else c1

/-- A cluster runs the steps of its work set: it owns it, or it matches a spare-in (R116, R133). -/
def Cluster.runsSteps (c : Cluster) : Bool := c.role == 1 || (c.role == 0 && c.phase == 3)

/-- The IN region of a step is filled once its inputs are complete. -/
def State.fillStep (n c : Nat) (s : State) (j : Nat) : State :=
  let x := s.cluster c
  match x.img.steps[j]? with
  | none => s
  | some d =>
    if j < x.stepsRun ∨ x.inFull.contains j ∨ !(d.inp.all (s.portReady n)) then s
    else s.setCluster c fun y => (d.inp.foldl (fun (y : Cluster) p => y.fillPort (s.portTick n p) p) y).inDone j

/-- The IN regions of a cluster that works. -/
def State.fillCluster (n : Nat) (s : State) (c : Nat) : State :=
  let x := s.cluster c
  if !x.runsSteps || x.idle || s.asleep c then s else foldS (State.fillStep n c) s (List.range x.img.steps.length)

/-- A step can start: its IN region is complete (R116). -/
def State.stepComplete (s : State) (c j : Nat) : Bool :=
  (s.cluster c).inFull.contains j || (match (s.cluster c).img.steps[j]? with | some d => d.inp.all (s.portReady s.processTick) | none => false)

/-- PROCESS goes on as far as inputs are complete: units compute, gated steps rest, IN regions fill. -/
def State.advanceProcess (s : State) : State :=
  let n := s.processTick
  foldS (State.fillCluster n) (iter (State.round n) (s.units.length + 8) s) (List.range 9)

/-- CLUSTER_READY (R516): the switches of a woken cluster have closed and retention has released; it is ready for its step, and its IN region fills. -/
def execClusterReady (cl : Nat) (s : State) : Out :=
  let s0 := s.quiet
  .next (if bitAt s0.pwr.waking cl then
    { s0 with pwr := { s0.pwr with gated := s0.pwr.gated - s0.pwr.gated.land (2 ^ cl), waking := s0.pwr.waking - s0.pwr.waking.land (2 ^ cl) } }
  else s0)

/-! ### The start of PROCESS -/

/-- A bus without the entries that have reached mute by sample `k`. -/
def Bus.dropOver (x : Bus) (k : Nat) : Bus := { x with entries := x.entries.filter fun e => !(e.leaving && e.gain.done k) }

/-- What has run its course by the first sample of a tick (R186, R230-R234): buses and entries that have reached mute, aligned outputs that have
faded, crossfades that are over. -/
def State.settle (s : State) (n : Nat) : State :=
  let k := s.firstSample n
  let v := s.dict.vals
  let bs : Tab Bus := s.mix.buses.filter fun e => !(e.2.running && e.2.stopping && e.2.gb.done k)
  let os : Tab AlnOut := (s.aln.releaseDone k).outs
  { s with
    mix := { s.mix with buses := bs.map fun (e : Nat × Bus) => (e.1, e.2.dropOver k) }
    aln := { s.aln with outs := os.map fun (e : Nat × AlnOut) => (e.1, e.2.tapsOver v e.1) } }

/-- The aligned outputs whose horizon covers their delay start their ramps (R234). -/
def State.alnStart (s : State) (n : Nat) : State :=
  { s with aln := { s.aln with outs := s.aln.outs.map fun (e : Nat × AlnOut) => (e.1, e.2.rampStart s.dict.vals e.1 s.spt (s.firstSample n)) } }

/-- The start of a tick's work in the clusters: no step has run, no IN region is complete (R116). -/
def Cluster.freshTick (idle : Bool) (c : Cluster) : Cluster := { c with inFull := [], stepsRun := 0, outs := [], idle := idle }

/-- PROCESS of tick `n` starts; the islands in `skip` take no part (R20). -/
def State.startProcess (s : State) (n : Nat) (skip : List Nat) : State :=
  let s1 := ((s.settle n).alnStart n).modCsw fun c => { c with proc := n, ran := [], idle := skip }
  ({ s1 with clusters := s1.clusters.map fun (e : Nat × Cluster) => (e.1, e.2.freshTick (skip.contains (blkCl e.1))) }).advanceProcess

/-! ### The end of PROCESS (R24, R125, R204) -/

/-- The cycles the units took (R210, R213, R240), 20 bits each. -/
def State.measure (s : State) (t : Nat) : State :=
  let f (b i : Nat) : Nat := Config.cycles (b * 4 + i) t % 2 ^ 20
  { s with mix := { s.mix with cycles := f blkMix 0 }, dyn := { s.dyn with cycles0 := f blkDyn 0, cycles1 := f blkDyn 1 }
           aln := { s.aln with cycles := f blkAln 0 } }

/-- The aligned outputs whose input never came (R24). -/
def State.alnLate (s : State) (o : Nat) : Bool := s.csw.idle.contains blkAln || (s.slotOf (alnN s.dict.vals o 2).toNat).any s.awaited

/-- The islands whose outputs are not complete: units and steps that did not run, aligned outputs without their input. -/
def State.incomplete (s : State) : List Nat :=
  ((s.units.filter fun u => !(s.csw.ran.contains u.key)).map s.unitIsland) ++
  (if s.aln.outs.any fun e => e.2.region.isSome && s.alnLate e.1 then [blkAln] else []) ++
  ((List.range 9).filter fun c =>
    (s.cluster c).runsSteps && !(bitAt s.pwr.gated c && !(bitAt s.pwr.waking c)) && decide ((s.cluster c).stepsRun < (s.cluster c).img.steps.length)).map blkCl

/-- The slots that an island writes, in the order of its work. -/
def State.islandSlots (s : State) (i : Nat) : List Nat :=
  if i = blkAln then s.aln.outs.filterMap fun e => if e.2.region.isSome then some (s.cfg (0x7000 + e.1) 3) else none
  else (s.units.filter fun u => s.unitIsland u == i).flatMap (·.writes)

/-- The outputs that a late unit has not written are zero (R24); those of other units stand. -/
def State.dropLate (n : Nat) (s : State) (u : LateUnit) : State :=
  let sl := (s.islandSlots u.island).drop u.done
  s.modCsw fun c => { c with out := c.out.filter fun e => !(e.1 / 8192 == n && sl.contains (e.1 % 8192)) }

/-- Islands that can be late or run past their worst case (R24, R125). -/
def timedIsland (i : Nat) : Bool := i == blkCsw || i == blkMix || i == blkDyn || i == islDyn1 || i == blkAln || i == blkSil || isCluster i

/-- OVERRUN (R24), and for a spare what follows from it (R134). -/
def State.overrun (s : State) (b : Nat) : State :=
  let s1 := s.raiseT b 2 .u
  if isCluster b then s1.spareEvent (b - blkCl 0) else s1

/-- Whether the STATE of each work set is all zero after PROCESS (R206). -/
def State.noteStates (s : State) : State := { s with ws := s.ws.map fun (e : Nat × WorkSet) => (e.1, { e.2 with stateWas := s.stateZero e.1 }) }

/-- The aligned outputs compute the tick (R233, R235). -/
def State.runAlns (s : State) (n : Nat) : State :=
  foldS (fun (s : State) o => s.runAln n (s.resetting 4 || s.alnLate o) o) s (sortN (s.aln.outs.map (·.1)))

/-- Units that are late: their outputs that are not written are zero, and their blocks raise OVERRUN (R24). -/
def State.runLate (s : State) (n : Nat) (late : List LateUnit) : State :=
  let us := late.filter fun u => timedIsland u.island && !(isCluster u.island)
  let blocks := sortN ((s.incomplete ++ us.map (·.island)).map islandBlock)
  (foldS State.overrun (foldS (State.dropLate n) s us) blocks).modCsw fun c => { c with lateNow := blocks }

/-- PROCESS of tick `n` ends where EMIT begins (R24, R41): aligned outputs, then the outputs that are late, then the decisions on processing
outputs (R204). -/
def State.endProcess (s : State) (n : Nat) (late : List LateUnit) : State :=
  let s1 := (((s.runAlns n).runLate n late).measure n).noteStates
  if s1.csw.idle.contains blkSil ∨ s1.resetting 5 then s1 else s1.silProcess n

/-- A unit that ran past its declared worst case (R125). -/
def State.overrunBlock (s : State) (i : Nat) : State := s.raiseT (islandBlock i) 3 .u

end Sys2Proof.Machine
end

