-- ==== Sys2Proof/Machine/ClusterOps.lean ====
section
/-! DEFINITION. Shared operations of the cluster instructions: issue in a cluster, the end of a step, residue checks, lane arithmetic. -/

namespace Sys2Proof.Machine

/-! ### Images (R115, R116, R126) -/

/-- A byte memory with the given contents and zeros elsewhere. -/
def memOf (l : List (Nat × Byte)) : List Host.Cell := l.foldl (fun m c => memSet m c.1 c.2) []

/-- The noise state of a lane under a seed; 0 becomes 1 (R126, R159). -/
def seedNoise (seed : BitVec 64) (l : Nat) : BitVec 64 :=
  let x := seed ^^^ BitVec.ofNat 64 (l + 1)
  if x = 0 then 1 else x

/-- The bytes of a program in IMEM, index by index (R146, R9). -/
def codeCells : Nat → List (BitVec 64) → List (Nat × Byte)
  | _, [] => []
  | i, w :: t => ((List.range 8).map fun k => (8 * i + k, w.extractLsb' (8 * k) 8)) ++ codeCells (i + 1) t

/-- A cluster with an image loaded (R115, R126): program, CMEM, the mode, and in each lane the contents the image supplies, all else zero,
with the noise states of the seed. -/
def Cluster.load (c : Cluster) (img : Image) (seed : BitVec 64) : Cluster :=
  { c with
    img := img, ik := img.ik, cmem := memOf img.cmem, cpar := [], imem := memOf (codeCells 0 img.code)
    lanes := mapBelow (fun l (y : Lane) => { y with lmem := memOf (at? [] img.init l), par := [], noise := seedNoise seed l }) 32 0 c.lanes }

/-- An address lies in one of the regions (base, length). -/
def inRegions (rs : List (Nat × Nat)) (a : Nat) : Bool := rs.any fun r => decide (r.1 ≤ a) && decide (a < r.1 + r.2)

/-- The cells of the given regions. -/
def keepRegions (rs : List (Nat × Nat)) (m : List Host.Cell) : List Host.Cell := m.filter fun c => inRegions rs c.1

/-- A memory without the cells of the given regions. -/
def clearRegions (rs : List (Nat × Nat)) (m : List Host.Cell) : List Host.Cell := m.filter fun c => !(inRegions rs c.1)

/-- A memory with the contents that another has in the given regions. -/
def copyRegions (rs : List (Nat × Nat)) (src dst : List Host.Cell) : List Host.Cell :=
  (keepRegions rs src).foldl (fun m c => memSet m c.1 c.2) (clearRegions rs dst)

/-- The words of regions as a function of the address. -/
def regionWords (f : Nat → Word) (rs : List (Nat × Nat)) : List Host.Cell :=
  (rs.flatMap fun r => (List.range (r.2 / 4)).map fun i => r.1 + 4 * i).foldl (fun m a => memSetWord m a (f a)) []

/-- The values that the firmware makes an image's parameters from: those stored for the strips that it carries. -/
def stripVals (v : Tab Val) (i : Image) : List (Nat × Int) :=
  v.filterMap fun e => match e.2 with
    | .num n => if (imageStrips i).contains (e.1 / 16777216) then some (e.1, n) else none
    | .bytes _ => none

/-- The firmware fills the copy of PARAM and of the DYNAMIC parts of CMEM that is not presented, and the cluster switches to it (R116, R18; the
words are the strip program's own, log 150). -/
def Cluster.newParams (v : Tab Val) (c : Cluster) : Cluster :=
  let vs := stripVals v c.img
  let w (l a : Nat) : Word := Config.paramWord c.img.digest l a vs
  { c with
    lanes := mapBelow (fun l (y : Lane) =>
      { y with lmem := copyRegions c.img.param (regionWords (w l) c.img.param) y.lmem, par := keepRegions c.img.param y.lmem }) 32 0 c.lanes
    cmem := copyRegions c.img.cmemDyn (regionWords (w 32) c.img.cmemDyn) c.cmem, cpar := keepRegions c.img.cmemDyn c.cmem }

/-- An image in a cluster under a configuration: one that carries strips has its parameters made from the strips' members. -/
def Cluster.loadFor (c : Cluster) (v : Tab Val) (img : Image) (seed : BitVec 64) : Cluster :=
  let c1 := c.load img seed
  if (imageStrips img).isEmpty then c1 else c1.newParams v

/-! ### The end of a step (R115, R116, R129, R133, R164, R170) -/

/-- The samples that a channel of OUT holds. -/
def Cluster.outSamples (c : Cluster) (spt : Nat) (p : OutPort) : List Int :=
  let m := (at? {} c.lanes p.lane).lmem
  (List.range spt).map fun k => (memWord m (p.addr + 4 * k)).toInt

/-- What the step that ended leaves for each output slot. -/
def Cluster.stepOuts (c : Cluster) (v : Tab Val) (spt : Nat) : List (Nat × List Int) :=
  match c.img.steps[c.stepNo]? with
  | none => []
  | some d => d.out.filterMap fun p => (outSlot v p.dst).map fun k => (k, c.outSamples spt p)

/-- The OUT region of an ended step drains into the output bank, as zeros while the work set is contained (R115, R129); words that come after
EMIT of their tick has begun are discarded (R22).  A spare that matches drains nothing (R133). -/
def State.drain (s : State) (cl : Nat) : State :=
  let c := s.cluster cl
  if c.role ≠ 1 then s
  else if c.stepTick ≠ s.processTick then (if s.csw.lateNow.contains (blkCl cl) then s
    else (s.modCsw fun x => { x with lateNow := blkCl cl :: x.lateNow }).raiseT (blkCl cl) 2 .u)
  else
    let z := (s.workSet c.wset).zeroOut
    foldS (fun s (e : Nat × List Int) => s.putSlot c.stepTick e.1 (if z then zeros s.spt else e.2)) s (c.stepOuts s.dict.vals s.spt)

/-- A cluster after the end of a step: OUTDONE goes pending, unless the step was the tick's last, which discards what is pending (R164). -/
def Cluster.afterStep (v : Tab Val) (spt tick : Nat) (c : Cluster) : Cluster :=
  let c1 := { c with pend := if c.img.steps.length ≤ c.stepNo + 1 then 0 else c.pend.lor 4 }
  if c.stepTick ≠ tick then c1
  else { c1 with stepsRun := c.stepNo + 1, outs := (c.stepOuts v spt).foldl (fun t e => tset t e.1 e.2) c.outs }

/-- What a commit left for the end of a step that ran past its tick: a new image, or new parameters (R116, R125). -/
def State.lateCommit (s : State) (cl : Nat) : State :=
  let c := s.cluster cl
  let x := s.workSet c.wset
  let v := s.dict.vals
  if c.loadDue then s.setCluster cl fun c => { c.loadFor v x.img x.seed with loadDue := false, parDue := false }
  else if c.parDue then s.setCluster cl fun c => { c.newParams v with parDue := false }
  else s

/-- The end of a step, after the delay slots of ENDS: its OUT region drains, and PROCESS goes on with what waited for it. -/
def State.stepEnds (s : State) (cl : Nat) : State :=
  let s1 := s.drain cl
  ((s1.setCluster cl (Cluster.afterStep s1.dict.vals s1.spt s1.processTick)).lateCommit cl).advanceProcess

/-- An instruction issues in a cluster: with the last delay slot of ENDS the step ends. -/
def State.issueIn (s : State) (cl : Nat) (f : Cluster → Cluster) : State :=
  let s1 := s.setCluster cl f
  if (s1.cluster cl).ended && !(s.cluster cl).ended then s1.stepEnds cl else s1

/-! ### Residue checks (R128, R129) -/

/-- The containment of an uncorrectable error in a working cluster (R128, R129, R134): its OUT regions drain as zeros, a running spare-in of it
becomes FORCED, and otherwise a FORCED spare-in is asked for. -/
def State.containCluster (s : State) (n : Nat) : State :=
  let c := s.cluster n
  if c.role = 1 then
    let s1 := s.setWorkSet c.wset fun w => { w with zeroOut := true }
    match (List.range 9).find? fun m => (s1.cluster m).spinSrc == n && (s1.cluster m).spinning with
    | some m => s1.setCluster m fun d => if d.spinForced then d else { d with spinForced := true, forcedAt := s.time.tick }
    | none => s1.repairSpin n true
  else s

/-- The residue check of an instruction (R128): a failure costs a repeat and raises LANE_RESIDUE; a second failure raises
LANE_FAIL and is handled as an uncorrectable memory error. -/
def State.residue (s : State) (i : CI) : State :=
  let note (s : State) (lane : Nat) : State :=
    (s.setCluster i.cl fun c => { c with
      replays := stopAt 0xFFF c.replays 1
      replayTicks := tmod [] c.replayTicks lane fun l =>
        if l.contains s.time.tick then l else (s.time.tick :: l).filter fun t => decide (s.time.tick < t + 64) }).raise
      (blkCl i.cl) 0x10 .c lane
  match i.residue with
  | .ok => s
  | .replay lane => note s lane
  | .failTwice lane => (((note s lane).raise (blkCl i.cl) 0x12 .u lane).spareEvent i.cl).containCluster i.cl

/-- An instruction of FMT 1 to 4 issues in a cluster, with its residue check. -/
def issueCI (i : CI) (f : Cluster → Cluster) (s : State) : Out :=
  .next ((s.quiet.issueIn i.cl (Cluster.issue f)).residue i)

/-- An instruction of FMT 5 issues. -/
def issueRep (cl : Nat) (f : Cluster → Cluster) (s : State) : Out := .next (s.quiet.issueIn cl (Cluster.issue f))

/-- A control or move instruction issues. -/
def issueCtl (cl : Nat) (f : Cluster → Cluster) (s : State) : Out := .next (s.quiet.issueIn cl (Cluster.issueOnce f))

/-- An instruction that IK mode lacks (R172): an IK image that holds it is refused at load, so it never issues there. -/
def nativeCI (i : CI) (f : Cluster → Cluster) (s : State) : Out :=
  if (s.cluster i.cl).ik then .next s.quiet else issueCI i f s

/-- A DUAL instruction whose two loads share their pointer or their destination is refused at load and never issues (R155, R171). -/
def loadsApart (l : DualLoads) : Bool :=
  match l.l1, l.l2 with
  | some x, some y => x.p != y.p && x.d != y.d
  | _, _ => true

def dualCI (l : DualLoads) (i : CI) (f : Cluster → Cluster) (s : State) : Out := if loadsApart l then issueCI i f s else .next s.quiet

/-- A search names an even Dd (R157); an image that names an odd one never issues it. -/
def evenCI (dd : Nat) (i : CI) (f : Cluster → Cluster) (s : State) : Out := if dd % 2 = 0 then issueCI i f s else .next s.quiet

/-- A search across lanes, absent in IK mode (R157, R172). -/
def nativeEvenCI (dd : Nat) (i : CI) (f : Cluster → Cluster) (s : State) : Out := if dd % 2 = 0 then nativeCI i f s else .next s.quiet

/-- A lane's ALU result written to Dd with its flags (R156): saturated, Z and N from the value, V from saturation. -/
def Lane.aluWrite (l : Lane) (keep : Bool) (dd : Nat) (x : Int) : Lane × Sticky :=
  let v := sat32 x
  let sat := decide (v ≠ x)
  let l1 := { l with fl := flagsOf v sat }
  (if keep then l1.put dd (BitVec.ofInt 32 v) false else l1, { sat := sat })

/-- An ALU instruction over the executing lanes: `f` computes the exact result from a lane. -/
def aluOp (dd : Nat) (f : Nat → Lane → Int) (c : Cluster) : Cluster :=
  let keep := c.mayD dd
  c.onLanes fun i l => l.aluWrite keep dd (f i l)

/-- A write to Dd that leaves the flags (R156: MAXI, MINI, RMAX, RMIN, RND, LID, RDFLG). -/
def putOp (dd : Nat) (late : Bool) (f : Nat → Lane → Word) (c : Cluster) : Cluster :=
  let keep := c.mayD dd
  c.onLanes fun i l => (if keep then l.put dd (f i l) late else l, {})

/-- The comparison of CMP (R156): Z, N; V = 0; no write. -/
def cmpOp (f : Lane → Int × Int) (c : Cluster) : Cluster :=
  c.onLanes fun _ l => let (a, b) := f l; ({ l with fl := ⟨decide (a = b), decide (a < b), false⟩ }, {})

/-- The shift count of a word: its low 6 bits (R156). -/
def shiftOf (b : Word) : Nat := b.toNat % 64

/-! The lane functions of R156 on words. -/

def aluAdd (a b : Word) : Int := a.toInt + b.toInt
def aluSub (a b : Word) : Int := a.toInt - b.toInt
def aluAnd (a b : Word) : Int := (a &&& b).toInt
def aluOr (a b : Word) : Int := (a ||| b).toInt
def aluXor (a b : Word) : Int := (a ^^^ b).toInt
def aluAsl (a b : Word) : Int := a.toInt * 2 ^ shiftOf b
def aluAsr (a b : Word) : Int := floorShift a.toInt (shiftOf b)
def aluLsr (a b : Word) : Int := (a >>> shiftOf b).toInt
def aluMin (a b : Word) : Int := if a.toInt ≤ b.toInt then a.toInt else b.toInt
def aluMax (a b : Word) : Int := if a.toInt ≤ b.toInt then b.toInt else a.toInt
def aluMpyr (a b : Word) : Int := floorShift (a.toInt * b.toInt + 2 ^ 30) 31

/-- A two-operand ALU instruction of FMT 1. -/
def alu2 (dd da db : Nat) (f : Word → Word → Int) : Cluster → Cluster := aluOp dd fun _ l => f (l.operand da) (l.operand db)

/-- An ALU instruction of FMT 2, with an immediate. -/
def aluI (dd da : Nat) (imm : Word) (f : Word → Word → Int) : Cluster → Cluster := aluOp dd fun _ l => f (l.operand da) imm

/-- A one-operand ALU instruction. -/
def alu1 (dd da : Nat) (f : Word → Int) : Cluster → Cluster := aluOp dd fun _ l => f (l.operand da)

/-- The search step of MAXI and MINI (R157): value and index of the better candidate, the lower index on a tie. -/
def searchStep (better : Int → Int → Bool) (v i : Word) (cv ci : Word) : Word × Word :=
  if better cv.toInt v.toInt ∨ (cv = v ∧ ci.toInt < i.toInt) then (cv, ci) else (v, i)

/-- MAXI and MINI over the lanes: Dd and Dd + 1 take the running extreme and its index. -/
def searchOp (dd da db : Nat) (better : Int → Int → Bool) (c : Cluster) : Cluster :=
  let k0 := c.mayD dd
  let k1 := c.mayD (dd + 1)
  c.onLanes fun _ l =>
    let (v, i) := searchStep better (l.operand dd) (l.operand (dd + 1)) (l.operand da) (l.operand db)
    let l1 := if k0 then l.put dd v false else l
    (if k1 then l1.put (dd + 1) i false else l1, {})

/-- The best lane of a reduction: the lowest lane that holds the extreme (R157). -/
def bestLane (better : Int → Int → Bool) : Nat → Word × Nat → List Word → Word × Nat
  | _, b, [] => b
  | i, b, x :: t => bestLane better (i + 1) (if better x.toInt b.1.toInt then (x, i) else b) t

/-- RMAX and RMIN: the extreme over the executing lanes and the lowest lane holding it, in every lane. -/
def reduceOp (dd da : Nat) (better : Int → Int → Bool) (c : Cluster) : Cluster :=
  let vals := (c.lanes.take c.laneCount).map fun l => l.operand da
  let (v, i) := bestLane better 1 (at? 0 vals 0, 0) (vals.drop 1)
  putOp (dd + 1) false (fun _ _ => w32 i) (putOp dd false (fun _ _ => v) c)

/-- One draw of the lane noise generator (R159). -/
def noiseNext (x : BitVec 64) : BitVec 64 :=
  let a := x ^^^ (x <<< 13)
  let b := a ^^^ (a >>> 7)
  b ^^^ (b <<< 17)

/-- A lane's accumulator written with clamp80 (R121); a handler writes only its reserved set (R166). -/
def Lane.accWrite (l : Lane) (keep : Bool) (an : Nat) (x : Int) : Lane × Sticky :=
  let (v, o) := clamp80 x
  (if keep then { l with a := tset l.a an (BitVec.ofInt 80 v) } else l, { ovg := o })

/-- An instruction of the ACC format over the lanes: `f` computes the exact accumulator value. -/
def accOp (an : Nat) (f : Lane → Int) (c : Cluster) : Cluster :=
  let keep := c.mayA an
  c.onLanes fun _ l => l.accWrite keep an (f l)

/-- The product of two D operands (R121). -/
def Lane.product (l : Lane) (dx dy : Nat) : Int := l.int dx * l.int dy

/-- The loads of the DUAL format (R155): two CMEM loads deliver 0 and ADDR_RANGE on the second. -/
def dualLoads (dl : DualLoads) (c : Cluster) : Cluster :=
  let addr (d : DualLoad) (c : Cluster) : Nat := c.shared (0x20 + d.p) / 4 * 4
  let step (d : DualLoad) (c : Cluster) : Cluster := c.postModify d.p (signed24 (c.shared (0x30 + d.m)))
  let a1 := dl.l1.map fun d => addr d c
  let a2 := dl.l2.map fun d => addr d c
  let clash := match a1, a2 with | some x, some y => c.inCmem x && c.inCmem y | _, _ => false
  let c1 := match dl.l1, a1 with | some d, some a => (c.loadInto d.d a) | _, _ => c
  let c2 := match dl.l2, a2 with
    | some d, some a =>
      if clash then (let keep := c1.mayD d.d; c1.onLanes fun _ l => (if keep then l.put d.d 0 true else l, { addr := true }))
      else c1.loadInto d.d a
    | _, _ => c1
  let c3 := match dl.l1 with | some d => step d c2 | none => c2
  match dl.l2 with | some d => step d c3 | none => c3

end Sys2Proof.Machine
end

