-- ==== Sys2Proof/Machine/ClusterCtl.lean ====
section
/-! DEFINITION. Control flow, loops, interrupts and the start and end of a step (R145, R151, R160-R170, R116). -/

namespace Sys2Proof.Machine

/-- NOP (R151). -/
def execNop (cl : Nat) (s : State) : Out := issueCtl cl id s

/-- BR (R151, R152): reduced over the lanes on the flags visible at distance 3, with two delay slots, taken or not (R118). -/
def execBr (cl cond red target : Nat) (s : State) : Out :=
  issueCtl cl (fun c => c.branchTo (if c.branchTaken cond red then .target target else .fall)) s

/-- CALL (R151): LR = pc + 3. -/
def execCall (cl target : Nat) (s : State) : Out :=
  issueCtl cl (fun c => (c.setShared 0x4B (c.pc + 3)).branchTo (.target target)) s

/-- RET (R151). -/
def execRet (cl : Nat) (s : State) : Out := issueCtl cl (fun c => c.branchTo (.target (c.shared 0x4B))) s

/-- RETI (R165): after its delay slots the cluster restores what it saved and resumes; outside a handler nothing is saved. -/
def execReti (cl : Nat) (s : State) : Out := issueCtl cl (fun c => if c.handler then c.branchTo .reti else c) s

/-- TRAP (R164): SWI in main-program mode; in a handler it acts as NOP (R166). -/
def execTrap (cl : Nat) (s : State) : Out := issueCtl cl (fun c => if c.handler then c else c.pendSource 0) s

/-- Cycles of a step that ends now (R170): the delay slots and the four cycles of the last results are still to come. -/
def Cluster.stepCycles (c : Cluster) : Nat := c.issued + 1 + 2 + 4

/-- Cycles from the tick event to the end of a step (R137): the work of the tick's steps, and before each the wait for its inputs, which the
engine cannot foresee (log 159). -/
def Cluster.tickCycles (c : Cluster) (cl : Nat) : Nat :=
  ((if c.stepsRun = 0 then 0 else c.cycles) + Config.stepWait cl c.stepNo c.stepTick + c.stepCycles) % 2 ^ 20

/-- ENDS (R151, R170, R125): issue stops after the delay slots, and the OUT region drains then (State.stepEnds, log 177); a step past its declared worst
case raises BUDGET.  In a handler it acts as NOP (R166). -/
def execEnds (cl : Nat) (s : State) : Out :=
  let c0 := s.cluster cl
  if c0.handler then issueCtl cl id s else
  let n := c0.tickCycles cl
  let s1 := s.quiet.setCluster cl (Cluster.issueOnce fun c => { (c.branchTo .ends) with cycles := n, peak := max c.peak n })
  let worst := (at? ⟨0, c0.stepCycles, [], []⟩ c0.img.steps c0.stepNo).worst
  .next (if worst < c0.stepCycles then (s1.raiseT (blkCl cl) 3 .u).spareEvent cl else s1)

/-- The outer loop at a LOOP (R161, R172): native mode pushes it; IK mode overwrites it. -/
def Cluster.nestLoop (c : Cluster) : Cluster :=
  if !c.loopActive then c else if c.ik then { c with ikOuter := c.ikOuter + 1 } else c.pushLoop

/-- The start of a loop (R161). -/
def Cluster.startLoop (c : Cluster) (count first last : Nat) : Cluster :=
  { (((c.nestLoop.setShared 0x48 count).setShared 0x49 first).setShared 0x4A last) with loopActive := true, ikWritten := 0 }

/-- The program counter past a control instruction that is itself no loop end (R171); one main-program instruction after RETI has issued then
(R168). -/
def Cluster.stepOver (c : Cluster) (pc cycles : Nat) : Cluster :=
  { c with pc := pc, issued := c.issued + cycles, rpt := 0, afterReti := c.afterReti && c.handler }

/-- LOOP (R161). -/
def execLoop (cl count last : Nat) (s : State) : Out :=
  .next (s.quiet.setCluster cl fun c => let c := c.ageAll; (c.startLoop count (c.pc + 1) last).stepOver (c.pc + 1) 1)

/-- LOOPP (R161): the count is Pn[16:0]; an outer loop is pushed first; a count of 0 skips the body at a cost of 2 cycles.  Absent in IK mode
(R172). -/
def execLoopp (cl pn last : Nat) (s : State) : Out :=
  if (s.cluster cl).ik then .next s.quiet else
  .next (s.quiet.setCluster cl fun c =>
    let c := c.ageAll
    let n := c.shared (0x20 + pn) % 2 ^ 17
    if n = 0 then c.nestLoop.stepOver (last + 1) 3 else (c.startLoop n (c.pc + 1) last).stepOver (c.pc + 1) 1)

/-- RPT (R160): the next instruction issues `count` times; RPT itself takes no cycle and no place in the distances. -/
def execRpt (cl count : Nat) (s : State) : Out :=
  .next (s.quiet.setCluster cl fun c => { c with rpt := count, pc := c.pc + 1 })

/-- The loop form of LEAVE (R162): the innermost loop ends at once, without a branch.  Absent in IK mode (R172). -/
def leaveLoop (cl : Nat) (s : State) : Out :=
  if (s.cluster cl).ik then .next s.quiet else
  .next (s.quiet.setCluster cl fun c => let c := c.ageAll; c.popLoop.stepOver (c.pc + 1) 1)

/-- DI (R151): sets the interrupt mask. -/
def execDi (cl : Nat) (s : State) : Out := issueCtl cl (fun c => { c with mask := true }) s

/-- EI (R151): clears the interrupt mask. -/
def execEi (cl : Nat) (s : State) : Out := issueCtl cl (fun c => { c with mask := false }) s

/-- The sources that are pending and enabled by the image (R164). -/
def Cluster.ready (c : Cluster) : Nat := c.pend.land c.img.enabled

/-- An interruptible boundary (R168): main program, unmasked, no delay slot, no RPT, and one instruction after RETI. -/
def Cluster.interruptible (c : Cluster) : Bool :=
  c.stepping && !c.ended && !c.handler && !c.mask && c.after.isNone && decide (c.rpt = 0) && !c.afterReti

/-- The lowest source of a set (R164). -/
def lowestSource (m : Nat) : Nat := if bitAt m 0 then 0 else if bitAt m 1 then 1 else 2

/-- Entry to the handler (R165, R167): the instructions before complete, so that the handler sees all their results; index, flags, sticky flags, LR,
loop state and, for the main program, the registers without the results in flight are saved, native mode pushes the loop state, ISRC names the
source, and the handler's entry is fetched 3 cycles later. -/
def Cluster.enterHandler (c : Cluster) : Cluster :=
  let src := lowestSource c.ready
  let v : SavedCtx :=
    { idx := c.pc, flags := c.lanes.map (·.fl), sticky := c.lanes.map (·.st)
      fhist := c.lanes.map (·.fhist), flight := c.lanes.map (·.flight), shared := c.sharedFlight, d := c.lanes.map (·.d), sh := c.sh
      loop := c.frame, loops := c.loopStack }
  let c1 := if c.ik then c else { c.pushLoop with loopActive := false }
  { ({ c1 with sh := landSh c1.sh c.sharedFlight } : Cluster).setShared 0x4C src with
    saved := some v, handler := true, pc := c.img.handlerEntry, pend := c.pend - 2 ^ src, issued := c.issued + 3
    sharedFlight := [], lanes := c.lanes.map fun l => { l with d := landD l.d l.flight, flight := [] } }

/-- INTERRUPT_ENTRY (R164, R165, R168): taken at an interruptible boundary; elsewhere the request stays pending. -/
def execInterruptEntry (cl : Nat) (s : State) : Out :=
  .next (s.quiet.setCluster cl fun c => if c.interruptible && decide (c.ready ≠ 0) then c.enterHandler else c)

/-- The registers at the start of a step (R145): zero but for sticky flags, noise state and ISRC; SCRATCH is cleared before the first step of
a tick (R115).  In IK mode lanes 16 to 31 keep their registers and flags (R172). -/
def Cluster.startStep (c : Cluster) (step tick : Nat) : Cluster :=
  let wipe (l : Lane) : Lane := { l with d := [], a := [], fl := {}, flight := [], fhist := [] }
  let lanes := mapBelow (fun _ l => wipe l) c.laneCount 0 c.lanes
  { c with
    lanes := if step = 0 then lanes.map fun l => { l with lmem := clearRegions c.img.scratch l.lmem } else lanes
    sh := [(0x4C, c.shared 0x4C)], loopActive := false, loopStack := [], ikOuter := 0, ikWritten := 0, sharedFlight := []
    pc := (at? ⟨0, 0, [], []⟩ c.img.steps step).entry, after := none, slots := 0, rpt := 0, stepping := true, stepNo := step
    stepTick := tick, ended := false, mask := c.img.initMask, handler := false, afterReti := false, saved := none, issued := 0 }

/-- CLUSTER_STEP_START (R116, R145, R517, R207): the next step of the tick starts once its IN region is complete, in the order fixed at
commit; on a gated cluster that is not ready GATE_LATE is raised instead. -/
def execClusterStepStart (cl step : Nat) (s : State) : Out :=
  let s0 := s.quiet
  let c := s0.cluster cl
  if !c.runsSteps ∨ c.img.steps.length ≤ step ∨ c.stepsRun ≠ step ∨ c.stepping ∨ c.idle ∨ !(s0.stepComplete cl step) then .next s0
  else if s0.asleep cl then
    .next ({ s0 with pwr := { s0.pwr with gateLate := stopAt 0xFFFF s0.pwr.gateLate 1 } }.raise blkPwr 0x12 .u cl)
  else .next ((s0.fillStep s0.processTick cl step).setCluster cl fun c => c.startStep step s0.processTick)

end Sys2Proof.Machine
end

