-- ==== Sys2Proof/Machine/Spare.lean ====
section
/-! DEFINITION. Spare duty, spare-in and rotation (R110, R129-R134, R140, R36). -/

namespace Sys2Proof.Machine

/-- The firmware's write of SPIN.START (R140): refused with CFG_REJ on a cluster that is not SPARE or with a refused SRC. -/
def State.spinCommand (s : State) (cl src : Nat) (forced : Bool) : State :=
  if (s.cluster cl).role ≠ 0 ∨ 8 < src ∨ src = cl then s.setCommon (blkCl cl) fun c => { c with cfgRej := true }
  else if s.spinRunning then { s with spinQ := some (src, forced) }
  else s.startSpin cl src forced false

/-- SPIN.ABANDON (R140): the running spare-in ends at the next tick boundary. -/
def State.spinAbandon (s : State) (cl : Nat) : State :=
  s.setCluster cl fun c => if c.spinning then { c with spinAbandon := true } else c

/-- SPARE_IN, the ACTION 0xA000:02 (R283, R130): the firmware starts a repair spare-in of the source cluster. -/
def execSpareIn (src : Nat) (forced : Bool) (s : State) : Out :=
  .next (if src ≤ 8 ∧ (s.cluster src).role = 1 then s.quiet.repairSpin src forced else s.quiet)

/-- The lanes of the spare after the sweep (R133): STATE and the noise generators of the source. -/
def sweepLanes (img : Image) : List Lane → List Lane → List Lane
  | a :: as, b :: bs => { b with lmem := copyRegions img.state a.lmem b.lmem, noise := a.noise } :: sweepLanes img as bs
  | _, bs => bs

/-- STATE zeroed in every lane (R129); the noise generators, whose state belongs to STATE, stand where the load of the images has set them, as 0 is no
state of theirs (R126, R159; log 195). -/
def Cluster.zeroState (c : Cluster) : Cluster := { c with lanes := c.lanes.map fun l => { l with lmem := clearRegions c.img.state l.lmem } }

/-- The copy of STATE and the noise generators from the source (R133 step 2); a FORCED spare-in starts with STATE zeroed (R129). -/
def State.sweep (s : State) (n : Nat) : State :=
  let src := s.cluster (s.cluster n).spinSrc
  s.setCluster n fun c => if c.spinForced then c.zeroState else { c with lanes := sweepLanes c.img src.lanes c.lanes }

/-- SPARE_IN_SWEEP (R133 step 2): in tick s + 4 the sweep copies STATE and the noise generators to the spare; the boundary s + 6
copies again what the source has stored since (log 178). -/
def execSpareInSweep (cl : Nat) (s : State) : Out :=
  let c := s.cluster cl
  let s0 := s.quiet
  .next (if (c.phase = 1 ∨ c.phase = 2) ∧ c.spinTick + 4 ≤ s.time.tick then
    (s0.setCluster cl fun c => { c with phase := 2 }).sweep cl else s0)

/-- Whether ownership may switch to a spare (R133 step 4, R129): 16 matching ticks, or the end of the copy when FORCED; a spare-in that becomes
FORCED within a tick waits for the next boundary (R110). -/
def State.maySwitch (s : State) (n : Nat) : Bool :=
  let c := s.cluster n
  (c.phase == 3 && c.matchCnt == 16) ||
    (c.spinForced && decide (c.forcedAt < s.time.tick) && decide (2 ≤ c.phase) && decide (c.spinTick + 6 ≤ s.time.tick))

/-- The switch of ownership: the spare becomes WORKING and drains the work set's outputs; the source stops and becomes SPARE with a new golden
replay and march pass, or FAULTY if it is to be taken out of use (R110, R129, R132, R133, R432).  PASS counts on (log 151). -/
def State.switchOwner (s : State) (n : Nat) : State :=
  let c := s.cluster n
  let s1 := (if c.spinForced then s.sweep n else s).setCluster n fun c =>
    { c with role := 1, phase := 0, matchCnt := 0, mismatches := 0, spinStart := false, spinAbandon := false
             spinRotation := false, spareSince := s.time.tick }
  let s2 := (if (s.cluster c.spinSrc).condemned then s1.makeFaulty c.spinSrc else
    s1.setCluster c.spinSrc fun d => { d with role := 0, wset := 0, wsv := false, stepping := false, march := 0, golden := false })
  (s2.setWorkSet c.wset fun w => { w with zeroOut := false }).noteNoSpare n

/-- SPARE_IN_SWITCH (R133 step 4): where a spare-in is complete, ownership switches; the boundary after the 16th matching tick does the same
(log 152). -/
def execSpareInSwitch (cl : Nat) (s : State) : Out :=
  .next (if s.maySwitch cl then s.quiet.switchOwner cl else s.quiet)

/-- The WORKING cluster whose last spare duty ended longest ago (R131); the lowest number on a tie. -/
def State.rotationSource (s : State) : Option Nat :=
  (List.range 9).foldl (fun best n =>
    if (s.cluster n).role = 1 then
      match best with
      | none => some n
      | some b => if (s.cluster n).spareSince < (s.cluster b).spareSince then some n else some b
    else best) none

/-- ROTATION (R131): in Noon, with rotation enabled and no spare-in running or queued, a normal spare-in starts. -/
def execRotation (s : State) : Out :=
  let s0 := s.quiet
  if s0.top.state = .noon ∧ s0.pwr.therm < 2 ∧ s0.cfg 0xA000 1 ≠ 0 ∧ !s0.spinRunning ∧ s0.spinQ = none then
    match s0.findSpare, s0.rotationSource with
    | some n, some src => .next (s0.startSpin n src false true)
    | _, _ => .next s0
  else .next s0

/-- MARCH_PASS (R130): the spare completes a march pass and a new one starts; a failure ends its spare duty. -/
def execMarchPass (cl : Nat) (pass : Bool) (s : State) : Out :=
  let c := s.cluster cl
  let s0 := s.quiet
  if c.role = 0 ∧ c.phase = 0 ∧ bitAt s.pwr.on (8 + cl) ∧ s.pwr.therm < 2 then
    .next (if pass then s0.setCluster cl fun c => { c with march := 0 } else s0.selfTestFails cl)
  else .next s0

/-- Ticks of the last 64 in which a lane needed a repeat (R128). -/
def State.replayCount (s : State) (cl lane : Nat) : Nat :=
  ((tget [] (s.cluster cl).replayTicks lane).filter fun t => decide (s.time.tick < t + 64)).length

/-- LANE_DEGRADED (R128): repeats in 4 or more of the last 64 ticks; the firmware starts a repair spare-in of the work set. -/
def execLaneDegraded (cl lane : Nat) (s : State) : Out :=
  let s0 := s.quiet
  if 4 ≤ s0.replayCount cl lane then
    let s1 := (s0.raise (blkCl cl) 0x11 .u lane).spareEvent cl
    .next (if (s1.cluster cl).role = 1 then s1.repairSpin cl false else s1)
  else .next s0

/-! ### The tick boundary -/

/-- The CRC-32C of an output slot's samples (R133, R59). -/
def sampleCrc (xs : List Int) : Word := crc32c (xs.flatMap fun x => beBytes 4 (BitVec.ofInt 32 x).toNat)

/-- The CRCs that a cluster computed over the output slots of a tick (R133). -/
def Cluster.crcs (c : Cluster) : List (Nat × Word) := c.outs.map fun e => (e.1, sampleCrc e.2)

/-- The tick that ended matches: source and spare ran every step, and the CRC of every output slot agrees (R133 step 3, log 153). -/
def State.tickMatches (s : State) (n : Nat) : Bool :=
  let c := s.cluster n
  let d := s.cluster c.spinSrc
  let k := c.img.steps.length
  decide (k ≤ c.stepsRun) && decide (k ≤ d.stepsRun) && decide (c.crcs = d.crcs)

/-- LOAD (R133 step 1): the spare stops self-test and loads the images from hall memory; a digest that is not the source's abandons the
spare-in.  The source's gating is suspended (R134). -/
def State.spinLoad (s : State) (n t : Nat) : State :=
  let c := s.cluster n
  let src := s.cluster c.spinSrc
  let w := s.workSet src.wset
  if src.role ≠ 1 ∨ w.img.digest ≠ src.img.digest then s.setCluster n fun c => c.abandonSpin
  else (s.setCluster n fun c =>
    { c.loadFor s.dict.vals w.img w.seed with
      phase := 1, spinTick := t, wset := src.wset, wsv := true, matchCnt := 0, mismatches := 0, golden := false }).wake c.spinSrc

/-- The verdict on a tick of MATCH (R133, R134): a mismatch starts the count again, and the third abandons the spare-in. -/
def State.verdict (s : State) (n : Nat) : State :=
  let c := s.cluster n
  if s.tickMatches n then s.setCluster n fun c => { c with matchCnt := if c.matchCnt < 16 then c.matchCnt + 1 else 16 }
  else if 2 ≤ c.mismatches then (s.setCluster n fun c => c.abandonSpin).raiseT (blkCl n) 0x15 .u
  else s.setCluster n fun c => { c with matchCnt := 0, mismatches := c.mismatches + 1 }

/-- A spare that is free runs its self-test (R130, R132, R134, R530): the golden replay of the tick that ended passed or not, and another tick
of it begins. -/
def State.selfTest (e : TickOps) (s : State) (n : Nat) : State :=
  let c := s.cluster n
  if !(bitAt s.pwr.on (8 + n)) || decide (2 ≤ s.pwr.therm) then s.setCluster n fun c => { c with golden := false }
  else if c.golden && e.goldenFail.contains n then s.selfTestFails n
  else s.setCluster n fun c =>
    { c with stPass := if c.golden then (c.stPass + 1) % 2 ^ 16 else c.stPass, march := Config.marchProgress n e.tick % 101, golden := true }

/-- What a tick boundary does to the duty of one cluster (R130, R133, R134, R140): abandonment, the start of a spare-in, its phases by their
ticks, the verdict on the tick that ended, self-test. -/
def State.dutyBoundary (e : TickOps) (s : State) (n : Nat) : State :=
  let c := s.cluster n
  if c.spinAbandon then s.setCluster n fun c => c.abandonSpin
  else if c.phase = 0 then
    if c.spinStart then s.spinLoad n e.tick else if c.role = 0 then s.selfTest e n else s
  else if c.phase = 1 then
    if c.spinTick + 4 ≤ e.tick then s.setCluster n fun c => { c with phase := 2 } else s
  else if c.phase = 2 then
    if c.spinTick + 6 ≤ e.tick ∧ !c.spinForced then (s.sweep n).setCluster n fun c => { c with phase := 3 } else s
  else if c.phase = 3 ∧ !c.spinForced then s.verdict n
  else s

/-- Cycles and replays of the tick that ended (R137), and the counts of the new one. -/
def Cluster.closeTick (c : Cluster) : Cluster :=
  { c with seen := { c.seen with cycles := if c.stepsRun = 0 then 0 else c.cycles, replays := c.replays }, cycles := 0, replays := 0 }

/-- What CLn.ROLE shows from a boundary on (R136); a spare-in that switches at it shows SWITCH and its 16 matches. -/
def Cluster.look (sw : Option Nat) (c : Cluster) : Cluster :=
  { c with seen := { c.seen with role := c.role, wset := c.wset, wsv := c.wsv, phase := if sw.isSome then 4 else c.phase, matchCnt := sw.getD c.matchCnt } }

/-- A queued repair starts at the next boundary, once no spare-in runs and a cluster is SPARE; with none left it is refused, and a FORCED one waits
(R36, R130, R132, R134). -/
def State.serveSpinQ (s : State) : State :=
  match s.spinQ with
  | none => s
  | some (src, f) =>
    if s.spinRunning then s else
    match s.findSpare with
    | none => if f then s else { s with spinQ := none }
    | some n => { s with spinQ := none }.startSpin n src f false

/-- The clusters at a tick boundary: the tick that ended is closed, duties go on, ownership switches, a queued repair is served.  Clusters in
`skip` take no part (R20). -/
def State.clusterBoundary (s : State) (e : TickOps) (skip : List Nat) : State :=
  let part (n : Nat) : Bool := !(skip.contains (blkCl n))
  let ns := (List.range 9).filter part
  let s1 : State := { s with clusters := s.clusters.map fun (x : Nat × Cluster) => (x.1, if part x.1 then x.2.closeTick else x.2) }
  let s2 := foldS (State.dutyBoundary e) s1 ns
  let sw := ns.filter fun n => s2.maySwitch n && part (s2.cluster n).spinSrc
  let s3 := (foldS State.switchOwner s2 sw).serveSpinQ
  foldS (fun s n => s.setCluster n fun c => c.look (if sw.contains n then some (s2.cluster n).matchCnt else none)) s3 ns

end Sys2Proof.Machine
end

