-- ==== Sys2Proof/Machine/Commit.lean ====
section
/-! DEFINITION. What a commit may hold: service conditions of STATIC members and the refusals of the chapters (R23, R61, R62, R76,
R80-R93, R103, R104, R178-R193, R202, R223-R232, R252, R257, R282, R294, R381, R398, R402, R412, R414, R600, R605). -/

namespace Sys2Proof.Machine

/-! ### Values (R254, R262) -/

/-- The members that hold a fade word (R79, R279). -/
def fadeMember (obj m : Nat) : Bool :=
  (decide (0x2000 ≤ obj) && decide (obj ≤ 0x2FFF) && m == 21) ||
    (((decide (0x4000 ≤ obj) && decide (obj ≤ 0x4FFF)) || (decide (0x6000 ≤ obj) && decide (obj ≤ 0x6FFF))) && m == 7) ||
    (decide (0x9800 ≤ obj) && decide (obj ≤ 0x983F) && m == 10) || (obj == 0xD001 && m == 4)

/-- Conditions on a value beyond its bounds: steps and multiples the chapters state. -/
def valueStep (obj m : Nat) (n : Int) : Bool :=
  if obj = 0x3001 then n % 10 == 0
  -- a channel-map word: bit 31 and a signal ID, other bits 0 (R83)
  else if 0x2000 ≤ obj ∧ obj ≤ 0x2FFF ∧ m = 22 then n.toNat / 2 ^ 17 % 2 ^ 14 == 0
  else if 0x7000 ≤ obj ∧ obj ≤ 0x7FFF ∧ (m = 9 ∨ m = 10) then n % 32 == 0
  else if obj = 0xD000 then n % 4096 == 0
  else if obj = 0xD001 ∧ m = 2 then n % 1048576 == 0
  else if 0xC000 ≤ obj ∧ obj ≤ 0xC01F ∧ 16 ≤ m ∧ m ≤ 19 then n % 256 == 0
  else if 0x8000 ≤ obj ∧ obj ≤ 0x80FF ∧ m = 10 then
    decide ((BitVec.ofNat 16 (n.toNat / 2 ^ 32)).toInt ≤ 0x1800) && decide (n.toNat / 2 ^ 48 = 0) && decide (n.toNat / 2 ^ 18 % 2 ^ 14 = 0)
  else if obj = 0xA000 ∧ m = 1 then n == 0 || decide (60 ≤ n)
  else if obj = 0xB000 ∧ m = 5 then n == 0 || decide (2000 ≤ n)
  else if 0xD310 ≤ obj ∧ obj ≤ 0xD31F ∧ m = 3 then decide (n ≤ 15) || n == 255
  -- a fade has at most 8,192 samples and one of three shapes (R98, R279)
  else if fadeMember obj m then decide (n.toNat % 2 ^ 16 ≤ 8192) && decide (n.toNat / 2 ^ 16 ≤ 2)
  else true

/-- A value lies in a member's range and encoding (R254, R262 step 7). -/
def valueOk (obj m : Nat) (i : Member) (v : Val) : Bool :=
  match v with
  | .num n =>
    (i.ty != 0x10 && i.ty != 0x11) &&
    (if i.ty = 0x12 then decide (0 ≤ n) && (decide (n ≤ 0x1FFFF) || (n == 0xFFFFFFFF && i.hi == 0xFFFFFFFF))
     else decide (i.lo ≤ n) && decide (n ≤ i.hi)) && valueStep obj m n
  | .bytes b => (i.ty == 0x10 || i.ty == 0x11) && decide (i.lo ≤ b.length) && decide ((b.length : Int) ≤ i.hi)

/-- Ranges that depend on the rate: COUNT of a bus (R178, R179), LOOKAHEAD (R188), BEACON_WAIT (R333). -/
def rateOk (v : Tab Val) (w : EWrite) : Bool :=
  match w.val with
  | .bytes _ => true
  | .num n =>
    if 0x8000 ≤ w.obj ∧ w.obj ≤ 0x80FF ∧ w.mem = 2 then decide (n ≤ ratedOf v 4096)
    else if w.obj = 0x9000 ∧ w.mem = 13 then decide (n ≤ fsOf v / 500)
    else if w.obj = 0xB000 ∧ w.mem = 5 then decide (n * 10 * fsOf v ≤ 3 * sptOf v * 1000000000)
    else true

/-- Pair-wide ranges (R250). -/
def pairWide (obj m : Nat) : Bool :=
  (decide (0x2000 ≤ obj) && decide (obj ≤ 0xAFFF) && obj != 0xA000) || (obj == 0xD001 && m == 4) ||
    (decide (0xD100 ≤ obj) && decide (obj ≤ 0xD108)) || decide (0x10000 ≤ obj)

/-! ### Service conditions (R80, R252) -/

/-- Ticks do not run: writes apply on acceptance (R271, R567), and every STATIC member may change in Dawn and Night (R252). -/
def State.outOfService (s : State) : Bool := s.top.state == .dawn || s.top.state == .night

/-- A region an output holds at the start of the apply tick (R232). -/
def State.holdsRegion (s : State) (o k : Nat) : Bool :=
  let a := tget ({} : AlnOut) s.aln.outs o
  a.region.isSome && !(a.faded k)

/-- A value in force: the stored one, or the default (R253, R615). -/
def valueOf (v : Tab Val) (obj m elem : Nat) : Val :=
  match tfind v (dictKey obj m elem) with
  | some x => x
  | none =>
    match memberOf obj m with
    | some i => if i.ty = 0x10 ∨ i.ty = 0x11 then .bytes (List.replicate i.lo.toNat 0) else .num (cfgN v obj m elem)
    | none => .num 0

/-- A STATIC member may change under a unit: `v` before, `v'` after, `k` the first sample of the apply tick.  Where the chapters state a
condition it holds in every state; members without one change in Dawn and Night (R252, R80). -/
def State.staticFree (s : State) (v v' : Tab Val) (k obj m elem : Nat) : Bool :=
  let off (mm : Nat) : Bool := cfgN v obj mm elem == 0 || cfgN v' obj mm elem == 0
  if 0x2000 ≤ obj ∧ obj ≤ 0x2FFF then
    cfgN v obj 1 0 % 2 == 0 || (m == 1 && cfgN v' obj 1 0 == cfgN v obj 1 0 - 1)
   else if (0x4000 ≤ obj ∧ obj ≤ 0x4FFF) ∨ (0x6000 ≤ obj ∧ obj ≤ 0x6FFF) ∨ (0x8000 ≤ obj ∧ obj ≤ 0x80FF) then
    cfgN v obj 1 0 == 0 || cfgN v' obj 1 0 == 0
   else if obj = 0x9000 then off 1
   else if 0x7000 ≤ obj ∧ obj ≤ 0x7FFF then !s.holdsRegion (obj - 0x7000) k
   else if obj = 0xD000 then s.aln.outs.all fun e => !s.holdsRegion e.1 k
   else if 0xC000 ≤ obj ∧ obj ≤ 0xC01F then cfgN v obj 5 0 == 0 || cfgN v' obj 5 0 == 0
   else if 0xC200 ≤ obj ∧ obj ≤ 0xC20F then
    (validCtxs v).all fun x => (List.range 16).all fun q =>
      !(bitAt (cfgN v obj 1 0).toNat q) || (ctxN v x 5 != 32 + q && ctxN v x 6 != 32 + q)
   else s.outOfService

/-! ### Streams (R61, R62, R71, R82, R89, R104) -/

def portN (v : Tab Val) (p m : Nat) : Nat := (cfgN v (0xC000 + p) m 0).toNat

/-- Samples of an RTP packet by PTIME (R71, log 19). -/
def rtpSamples (fs ptime : Nat) : Nat :=
  at? 6 [6, 12, 16, 48] ptime * (if fs ≤ 48000 then 1 else if fs ≤ 96000 then 2 else 4)

/-- The format index of toWire and fmtSize for a context. -/
def ctxFmt (v : Tab Val) (x : Nat) : Nat := if ctxMode v x = 2 then 4 + ctxN v x 4 % 2 else ctxN v x 4 % 8

/-- Length of the longest tick-scheduled frame of a context on a port. -/
def frameLen (v : Tab Val) (x p : Nat) : Nat :=
  let n := if ctxMode v x = 2 then rtpSamples (fsOf v) (ctxN v x 17) else if ctxMode v x = 1 then 1 else sptOf v
  frameOverhead v x p + 8 * (if ctxMode v x = 2 then 0 else ctxN v x 14) + ctxNch v x * n * fmtSize (ctxFmt v x)

/-- The frame limit of a port: MAXLEN, or 9,600 bytes of peer-link frame (R61, R89, R409). -/
def portLimit (v : Tab Val) (p : Nat) : Nat := if 32 ≤ p then 9600 else portN v p 9

/-- The ports of a context. -/
def ctxPorts (v : Tab Val) (x : Nat) : List Nat := if ctxMerge v x then [ctxN v x 5, ctxN v x 6] else [ctxN v x 5]

/-- The group whose lanes hold a peer link under a configuration. -/
def laneGroup (v : Tab Val) (q : Nat) : Option Nat := (List.range 16).find? fun g => bitAt (cfgN v (0xC200 + g) 1 0).toNat q

/-- The head lane of a group under a configuration. -/
def headLane (v : Tab Val) (g : Nat) : Nat := ((List.range 16).find? fun q => bitAt (cfgN v (0xC200 + g) 1 0).toNat q).getD 0

/-- A port a context may name (R80, R82, R412). -/
def portUsable (v : Tab Val) (x p : Nat) : Bool :=
  if p < 32 then !(ctxEgress v x) || portN v p 4 != 0
  else decide (p < 48) && (match laneGroup v (p - 32) with | some g => headLane v g == p - 32 | none => false)

/-- The media key condition of R381: a media slot, or 0xFFFF for the mirror, whose CUR has been written; no RTP. -/
def State.keyOk (s : State) (v : Tab Val) (x : Nat) : Bool :=
  !(ctlBit v x 9 || ctlBit v x 10) ||
    (ctxMode v x != 2 && decide (1 ≤ ctxN v x 13) && decide (ctxN v x 13 ≤ 1023) &&
      ((tget ({} : KeySlot) s.sec.keys (ctxN v x 13)).cur.length == 32 || (tfind v (dictKey (0xE400 + ctxN v x 13) 1 0)).isSome))

/-- A descriptor holds no reserved code, names no absent port (R561), and keeps R61, R71, R80-R82, R257, R398, R412. -/
def State.ctxOk (s : State) (v : Tab Val) (x : Nat) : Bool :=
  let c := ctxN v x 1
  let mode := ctxMode v x
  let ports := ctxPorts v x
  mode != 3 && ctxFwd v x != 3 && bitsOf c 6 2 != 3 && decide (c / 2 ^ 14 = 0) &&
  decide (1 ≤ ctxNch v x) && decide (ctxNch v x ≤ if mode = 2 then 64 else 256) &&
  (if mode = 2 then decide (ctxN v x 4 ≤ 1) && bitsOf c 6 2 != 0 else decide (ctxN v x 4 ≤ 3)) &&
  (if ctxMerge v x then ctxN v x 5 != ctxN v x 6 && decide (ctxN v x 12 ≤ 1023) else ctxN v x 6 == 0xFF && ctxN v x 12 == 0xFFFF) &&
  (ports.all fun p => portUsable v x p && !(s.top.absent.contains (blkPort p))) &&
  (!(ctxEgress v x && ctlBit v x 12) || decide (1 + ceilDiv (ctxNch v x) 64 ≤ ctxN v x 14)) &&
  (ports.all fun p => decide (frameLen v x p ≤ portLimit v p)) &&
  s.keyOk v x && (decide (cfgN v (0x2000 + x) 20 0 ≤ 1) || ctlBit v x 9) &&
  (ports.all fun p => decide (32 ≤ p) || !ctlBit v x 8 || (ctxN v x 7 != portN v p 12 && ctxN v x 7 != portN v p 13))

/-- The engine and stream numbers a Kapo ingress context accepts (R82). -/
def acceptsPairs (v : Tab Val) (x : Nat) : List Nat :=
  let a := ctxN v x 9 * 4096 + ctxN v x 2
  let b := ctxN v x 10 * 4096 + ctxN v x 2
  if a = b then [a] else [a, b]

/-- What an RTP ingress context matches on each of its ports (R81): port, address with UDP port, SSRC if checked; `w` holds the address table. -/
def rtpMatches (v w : Tab Val) (x : Nat) : List (Nat × List Byte × Option Nat) :=
  let ent (p a : Nat) : Nat × List Byte × Option Nat :=
    (p, ((cfgB w 0x3000 1 a).drop 6).take 18, if ctxN v x 19 % 2 = 1 then some (ctxN v x 23) else none)
  ent (ctxN v x 5) (ctxN v x 11) :: (if ctxMerge v x then [ent (ctxN v x 6) (ctxN v x 12)] else [])

/-- Two contexts could match one packet: same port, address and UDP port, and no two different SSRCs. -/
def rtpClash (a b : Nat × List Byte × Option Nat) : Bool :=
  a.1 == b.1 && a.2.1 == b.2.1 && (match a.2.2, b.2.2 with | some x, some y => x == y | _, _ => true)

/-- No two of a list of matches clash. -/
def rtpApart : List (Nat × List Byte × Option Nat) → Bool
  | [] => true
  | a :: t => !(t.any (rtpClash a)) && rtpApart t

/-- Capacities of R103 scale with the rate. -/
def perRate (v : Tab Val) (n : Nat) : Nat := if fsOf v ≤ 48000 then 2 * n else if fsOf v ≤ 96000 then n else n / 2

/-- The KIND of the entry a signal has under a configuration; none without one. -/
def sigKind (v : Tab Val) (g : Nat) : Option Nat := (subscription v g).map (·.kind)

/-- The KINDs an egress context's channels may select (R84, R85). -/
def egressKinds (v : Tab Val) (x : Nat) : List Nat :=
  if ctxMode v x = 1 then [3, 4] else if ctxFwd v x = 1 then [0, 1] else [0, 1, 2]

/-- Channel sources of an egress context are of an allowed KIND (R85). -/
def kindsOk (v : Tab Val) (x : Nat) : Bool :=
  (ctxFwd v x == 2 && ctxMode v x == 0) || (List.range (ctxNch v x)).all fun c =>
    let w := ctxMap v x c
    bitAt w 31 || (match sigKind v (w % 2 ^ 17) with | some k => (egressKinds v x).contains k | none => true)

/-- Bytes of the encapsulation between the Ethernet header and the Kapo header (R53). -/
def ipBytes (v : Tab Val) (x : Nat) : Nat := match bitsOf (ctxN v x 1) 6 2 with | 1 => 28 | 2 => 48 | _ => 0

/-- The most Kapo bytes that a frame without 802.1Q tag and SecTAG brings in on a port (R89, R53, R409). -/
def cutMost (v : Tab Val) (c p : Nat) : Nat := if 32 ≤ p then 9600 - 12 else portN v p 9 - (18 + ipBytes v c)

/-- The bytes that a copy of a CUTTHRU context has beside its Kapo bytes on a port (R87, R406, R409). -/
def cutHead (v : Tab Val) (x p : Nat) : Nat :=
  if 32 ≤ p then 12
  else 18 + ipBytes v x + (if ctlBit v x 8 then 4 else 0) + (if cfgN v (0xC300 + p) 1 0 != 0 then 32 else 0)

/-- A CUTTHRU egress context of tick streams agrees with its CT_SRC, and no copy can exceed the egress limit (R84, R87, R89, R90). -/
def cutOk (v : Tab Val) (x : Nat) : Bool :=
  let c := ctxN v x 26
  !(ctxEgress v x && ctxFwd v x == 2 && ctxMode v x != 1) ||
    (ctxValid v c && !ctxEgress v c && ctxMode v c == 0 && ctxMode v x == 0 && bitsOf (ctxN v c 1) 6 2 == bitsOf (ctxN v x 1) 6 2 &&
      ctxMerge v c == ctxMerge v x &&
      (List.zip (ctxPorts v c) (ctxPorts v x)).all fun p => decide (cutHead v x p.2 + cutMost v c p.1 ≤ portLimit v p.2))

/-- The bits a port's tick-scheduled frames take in a tick, and the rate in bits a second (R104, R395, R414).  A context counts once, with the longest
frame it sends; so does an RTP context that sends several packets in a tick (log 192). -/
def portLoad (v : Tab Val) (p : Nat) : Nat × Nat :=
  let xs := (egressCtxs v).filter fun x => (ctxPorts v x).contains p && ctxMode v x != 1 && ctxFwd v x != 2
  if p < 32 then
    (sumN (xs.map fun x => 8 * (frameLen v x p + 20)), match portN v p 4 with | 3 => 10000000000 | 4 => 25000000000 | _ => 1000000000)
  else
    let g := (laneGroup v (p - 32)).getD 0
    (sumN (xs.map fun x => 64 * (frameLen v x p / 8 + 3)), 25000000000 * (cfgN v (0xC200 + g) 2 0).toNat)

/-- W of R333 in ns. -/
def beaconWait (v : Tab Val) : Nat :=
  let w := (cfgN v 0xB000 5 0).toNat
  let lim := 300000000 * sptOf v / fsOf v
  if w = 0 then (if lim < 10000 then lim else 10000) else w

/-- The head lane of the mirror group of a pair, as a port. -/
def mirrorLane (v : Tab Val) : Option Nat :=
  let g := (cfgN v 0xB000 4 0).toNat
  if cfgN v 0xB000 1 0 != 0 ∧ cfgN v (0xC200 + g) 1 0 != 0 then some (32 + headLane v g) else none

/-- The bytes of a tick's records from ACTIVE to SHADOW without REPAIR (R347): VERDICT, TDM by SPT, COMMIT, LYNX by the valid egress contexts,
BEACON. -/
def mirrorBytes (v : Tab Val) : Nat := 592 + (48 + 1024 * sptOf v) + 65920 + (208 + 4 * (egressCtxs v).length) + 80

/-- The check of R104 and R414: the load ends before CUTOFF less the transit allowance.  A port without tick-scheduled frames has nothing to check
(log 192). -/
def loadOk (v : Tab Val) (p : Nat) : Bool :=
  let (bits, rate) := portLoad v p
  let fixedNs := (if p < 32 then 2000 else 2 * Config.linkNs ((laneGroup v (p - 32)).getD 0) + 2000) + 1000 * portN v p 1 +
    (if cfgN v 0xB000 1 0 != 0 then beaconWait v else 0)
  let mirror := if mirrorLane v = some p then 8 * mirrorBytes v else 0
  bits + mirror = 0 || decide ((bits + mirror) * 100 * fsOf v * 1000000000 + fixedNs * 100 * fsOf v * rate ≤
    (cfgN v 0x1000 3 0).toNat * sptOf v * rate * 1000000000)

/-- The ports that carry tick-scheduled frames, and the mirror group (R104, R414). -/
def loadedPorts (v : Tab Val) : List Nat := sortN ((mirrorLane v).toList ++ (egressCtxs v).flatMap (ctxPorts v))

/-- An engine is not the Owl of its own pair (R326): neither by its own OWL, nor by a service it runs. -/
def pairOk (v : Tab Val) : Bool :=
  let own := cfgN v 0x0000 6 0
  !(cfgN v 0xB000 1 0 != 0 && cfgN v 0xB000 3 0 == own) &&
    (List.range 8).all fun q => cfgN v (0xB100 + q) 1 0 == 0 || !(cfgN v (0xB100 + q) 2 0 == own || cfgN v (0xB100 + q) 3 0 == own)

/-- All stream contexts together (R82, R91, R93, R103). -/
def State.streamsOk (s : State) (v : Tab Val) : Bool :=
  let xs := validCtxs v
  let ing := xs.filter fun x => !ctxEgress v x
  let eg := xs.filter fun x => ctxEgress v x
  let dir (l : List Nat) : List Nat := l.filter fun x => ctxMode v x == 1
  let chans (l : List Nat) : Nat := sumN (l.map (ctxNch v))
  (xs.all fun x => s.ctxOk v x && cutOk v x) && (eg.all fun x => kindsOk v x) &&
  decide ((xs.filter fun x => ctxMode v x == 2).length ≤ 512) &&
  noDup ((ing.filter fun x => ctxMode v x != 2).flatMap (acceptsPairs v)) &&
  rtpApart ((ing.filter fun x => ctxMode v x == 2).flatMap (rtpMatches v v)) &&
  decide ((dir ing).length ≤ 16) && decide ((dir eg).length ≤ 16) && decide (chans (dir ing) ≤ 64) && decide (chans (dir eg) ≤ 64) &&
  (ing.all fun c => decide ((eg.filter fun x => ctxFwd v x == 2 && ctxN v x 26 == c).length ≤ 16)) &&
  decide (chans (ing.filter fun x => ctxMode v x != 1) ≤ perRate v 32768) &&
  decide (chans (eg.filter fun x => ctxMode v x != 1 && ctxFwd v x != 2) ≤ perRate v 32768) &&
  ((loadedPorts v).all fun p => loadOk v p)

/-! ### Publication (R76, R282) -/

/-- Every signal a configuration publishes. -/
def published (v : Tab Val) : List Nat :=
  v.filterMap fun e =>
    match e.2 with
    | .num n =>
      let g := (n % 2 ^ 17).toNat
      if (pubOfWord v g e).isSome ∨ ([0x300201, 0x1000001, 0x1000201].contains (e.1 / 65536) ∧ n ≠ 0xFFFFFFFF) then some g else none
    | .bytes _ => none

/-- The buses whose output slot is written at sample `k`: enabled, or still ramping to mute (R282). -/
def State.busWrites (s : State) (v : Tab Val) (k b : Nat) : Bool :=
  let x := tget ({} : Bus) s.mix.buses b
  busN v b 1 != 0 || (x.running && !(x.stopping && x.gb.done k) && !(!x.stopping && busN v b 8 == 0))

/-- The slots of every producer that writes at sample `k` (R282). -/
def State.slotWriters (s : State) (v : Tab Val) (k : Nat) : List Nat :=
  ((objectsWith v 0x4000 0x4FFF 1) ++ (objectsWith v 0x6000 0x6FFF 1) ++
    ((List.range 256).filter (s.busWrites v k)).map busObj).map (fun o => (cfgN v o 3 0).toNat) ++
  (dynEnabled v).map (fun i => (dynN v i 3).toNat) ++
  ((s.aln.outs.filter fun e => s.holdsRegion e.1 k && cfgN v (0x7000 + e.1) 1 0 == 0).map fun e => (alnN v e.1 3).toNat) ++
  ((objectsWith v 0x7000 0x7FFF 1).map fun o => (cfgN v o 3 0).toNat) ++
  -- outputs of cluster programs; those of strips are listed with the strips
  (List.range 8).flatMap fun w => (s.workSet w).img.steps.flatMap fun d => d.out.filterMap fun p => match p.dst with | .slot k => some k | .strip _ => none

/-! ### Fixed units -/

/-- The aligned outputs enabled or still holding a region. -/
def State.alnActive (s : State) (v : Tab Val) (k : Nat) : List Nat :=
  sortN ((objectsWith v 0x7000 0x7FFF 1).map (· - 0x7000) ++ (s.aln.outs.filter fun e => s.holdsRegion e.1 k).map (·.1))

/-- The output bank slots that aligned outputs write. -/
def State.alnSlots (s : State) (v : Tab Val) (k : Nat) : List Nat := (s.alnActive v k).map fun o => (alnN v o 3).toNat

/-- A signal a unit may take: KIND 0, 1 or 2, and no aligned output (R181, R188, R224). -/
def unitInput (v : Tab Val) (al : List Nat) (g : Nat) : Bool :=
  match subscription v g with
  | none => true
  | some r => decide (r.kind ≤ 2) && !(r.kind == 2 && al.contains r.index)

/-- Enabled buses. -/
def busesOn (v : Tab Val) : List Nat := (List.range 256).filter fun b => busN v b 1 != 0

/-- Source entries counted against R178 at the seal (R186): the list after the unit of a bus that is enabled or still ramping to mute, its entries
still ramping out, and those the unit removes. -/
def State.entryCount (s : State) (v : Tab Val) (b k : Nat) : Nat :=
  let x := tget ({} : Bus) s.mix.buses b
  let ws := busList v b
  let kept (e : MixEntry) : Bool :=
    !e.leaving && (match ws[e.pos]? with | some w => entrySig w == e.sig && entryInv w == e.inv | none => false)
  if s.busWrites v k b then ws.length + (x.entries.filter fun e => !(kept e) && !(e.leaving && e.gain.done k)).length else 0

/-- Buses whose source list counts for the refusals of R181: enabled, or with entries. -/
def busesListed (v : Tab Val) : List Nat := (List.range 256).filter fun b => busN v b 1 != 0 || busN v b 2 != 0

/-- MIX (R178, R181, R224): every list, also of a disabled bus, names KIND 0, 1 and 2 signals only, no aligned output, and no bus of equal
or higher number that is enabled, listed or still writes. -/
def State.mixOk (s : State) (v : Tab Val) (k : Nat) : Bool :=
  let al := s.alnSlots v k
  let counts := (List.range 256).map fun b => s.entryCount v b k
  let buses := (List.range 256).filter fun b => s.busWrites v k b || (busesListed v).contains b
  (busesListed v).all (fun b =>
    decide ((busN v b 2).toNat ≤ ratedOf v 4096) && (busList v b).all fun w =>
      let g := entrySig w
      unitInput v al g &&
        buses.all fun c => decide (c < b) || (match subscription v g with
          | some r => !(r.kind == 2 && r.index == (busN v c 3).toNat)
          | none => true)) &&
  (counts.all fun n => decide (n ≤ ratedOf v 4096)) && decide (sumN counts ≤ ratedOf v 1048576)

/-- The instances that a configuration sets up: with any number stored for a member. -/
def dynStored (v : Tab Val) : List Nat := sortN (v.filterMap fun e => if e.1 / 65536 / 256 = 0x9000 then some (e.1 % 65536) else none)

/-- DYN (R187, R188, R193, R224): inputs and keys that are written are of KIND 0, 1 or 2, a lookahead lies within 2 ms, and every group
finds a unit. -/
def State.dynOk (s : State) (v : Tab Val) (k : Nat) : Bool :=
  let al := s.alnSlots v k
  ((dynStored v).all fun i =>
    let set (m : Nat) : Bool := (tfind v (dictKey 0x9000 m i)).isSome || dynN v i 1 != 0
    (!(set 2) || unitInput v al (dynN v i 2).toNat) && (dynN v i 4 == 0xFFFFFFFF || unitInput v al (dynN v i 4).toNat) &&
      decide (dynN v i 13 ≤ fsOf v / 500)) &&
  (dynPlacing v).isSome

/-- DP (R195): a source that is written is of KIND 1 or 3; a strip takes no DP output. -/
def dpOk (v : Tab Val) : Bool :=
  v.all fun e =>
    match e.2 with
    | .bytes _ => true
    | .num g =>
      let o := e.1 / 16777216
      if 0x9800 ≤ o ∧ o ≤ 0x983F ∧ e.1 / 65536 % 256 = 2 then
        (match sigKind v g.toNat with | some k => k == 1 || k == 3 | none => true)
      else if ((0x4000 ≤ o ∧ o ≤ 0x4FFF) ∨ (0x6000 ≤ o ∧ o ≤ 0x6FFF)) ∧ e.1 / 65536 % 256 = 2 then sigKind v g.toNat != some 4
      else true

/-- SIL (R202): one detector a signal, KIND 0, 1 or 2. -/
def silOk (v : Tab Val) : Bool :=
  let gs := (detAssigned v).filterMap fun d => detSig v d
  noDup gs && gs.all fun g => match sigKind v g with | some k => decide (k ≤ 2) | none => true

/-- Allocation of the regions a unit needs at its apply tick, in ascending order (R232). -/
def allocAll (v : Tab Val) : List Nat → List (Nat × Nat) → Bool
  | [], _ => true
  | o :: t, rs =>
    let n := 4 * (alnN v o 9).toNat
    match lowestFit (poolBase v) (poolSize v) rs n with
    | some b => allocAll v t ((b, n) :: rs)
    | none => false

/-- The aligned outputs that a configuration sets up. -/
def alnStored (v : Tab Val) : List Nat :=
  sortN (v.filterMap fun e => if 0x7000 ≤ e.1 / 16777216 ∧ e.1 / 16777216 ≤ 0x7FFF then some (e.1 / 16777216 - 0x7000) else none)

/-- ALN (R223-R236): numbers, lengths and inputs of every output that the rate has, delays of the outputs whose DELAY a unit writes or which
it enables, regions. -/
def State.alnOk (s : State) (v v' : Tab Val) (ws : List EWrite) (k : Nat) : Bool :=
  let al := s.alnSlots v' k
  let on := (objectsWith v' 0x7000 0x7FFF 1).map (· - 0x7000)
  let held := (s.aln.outs.filter fun e => s.holdsRegion e.1 k)
  (on.all fun o => decide (o < alnCount v')) &&
  ((alnStored v').all fun o =>
    let d := (alnN v' o 4).toNat / 65536
    let checked := (ws.any fun w => w.obj == 0x7000 + o && w.mem == 4) || (alnN v o 1 == 0 && alnN v' o 1 != 0)
    let set (m : Nat) : Bool := (tfind v' (dictKey (0x7000 + o) m 0)).isSome || alnN v' o 1 != 0
    decide (alnCount v' ≤ o) ||
      (decide (alnN v' o 10 ≤ alnN v' o 9) && (!(set 2) || unitInput v' al (alnN v' o 2).toNat) &&
        (!checked || (decide ((alnN v' o 4).toNat ≤ 65536 * alnMaxDelay v') && decide (d + alnSpanOf v' ≤ (alnN v' o 10).toNat))))) &&
  allocAll v' (sortN (on.filter fun o => !s.holdsRegion o k)) (held.filterMap fun e => e.2.region)

/-! ### Work sets and chains (R115, R116, R124, R166, R170, R207) -/

/-- Regions: multiples of 256 bytes within a memory, that do not overlap. -/
def regionsOk (size : Nat) : List (Nat × Nat) → Bool
  | [] => true
  | r :: t => r.1 % 256 == 0 && r.2 % 256 == 0 && decide (r.1 + r.2 ≤ size) &&
      t.all (fun q => decide (r.1 + r.2 ≤ q.1) || decide (q.1 + q.2 ≤ r.1)) && regionsOk size t

/-- LMEM of a lane and CMEM in the mode of an image (R113, R172). -/
def lmemSize (i : Image) : Nat := if i.ik then 0x10000 else 0x18000
def cmemSize (i : Image) : Nat := if i.ik then 0x40000 else 0x80000

/-- What an image declares is within the limits of R113, R115, R116, R166 and R172; PARAM and the DYNAMIC parts of CMEM are held twice, and the
channels of IN and OUT lie in their regions. -/
def layoutOk (i : Image) : Bool :=
  regionsOk (lmemSize i) (i.state ++ i.param ++ i.inp ++ i.out ++ i.scratch) && regionsOk (cmemSize i) i.cmemDyn &&
  decide (sumN ((i.state ++ i.param ++ i.param ++ i.inp ++ i.out ++ i.scratch).map (·.2)) ≤ (lmemSize i)) &&
  decide ((i.cmem.filter fun c => !(i.cmemDyn.any fun r => decide (r.1 ≤ c.1) && decide (c.1 < r.1 + r.2))).length +
    2 * sumN (i.cmemDyn.map (·.2)) ≤ (cmemSize i)) &&
  decide (i.steps.length ≤ 8) && decide (i.resD ≤ 8) && decide (i.resA ≤ 2) && decide (i.resP ≤ 4) &&
  (i.handlerLo == i.handlerHi || i.scratch.any fun r => decide (r.1 ≤ i.handlerLo) && decide (i.handlerHi ≤ r.1 + r.2)) &&
  i.cmem.all (fun c => decide (c.1 < (cmemSize i))) && (i.init.all fun l => l.all fun c => decide (c.1 < (lmemSize i))) &&
  i.steps.all fun d => d.wf && (d.inp.all fun p => inRegions i.inp p.addr) && d.out.all fun p => inRegions i.out p.addr

/-! The checks of a program at load (R171). -/

/-- A control instruction in the sense of R171: FMT 0 other than NOP, DI and EI. -/
def isControl (w : BitVec 64) : Bool := wordBits w 63 60 == 0 && !([0x00, 0x0B, 0x0C].contains (wordBits w 59 54))

/-- Two delay slots follow BR, CALL, RET, RETI and ENDS (R151). -/
def hasSlots (w : BitVec 64) : Bool := decide (1 ≤ opcodeOf w) && decide (opcodeOf w ≤ 6) && opcodeOf w != 5

/-- The loops of a program: index of the LOOP or LOOPP, and of the body's end (R161). -/
def loopsOf : Nat → List (BitVec 64) → List (Nat × Nat)
  | _, [] => []
  | i, w :: t => if opcodeOf w = 7 ∨ opcodeOf w = 8 then (i, wordBits w 47 33) :: loopsOf (i + 1) t else loopsOf (i + 1) t

/-- Loops whose body holds an index. -/
def loopDepth (ls : List (Nat × Nat)) (i : Nat) : Nat := (ls.filter fun l => decide (l.1 < i) && decide (i ≤ l.2)).length

/-- The handler's code range: from its entry to the delay slots of the first RETI from there on (log 158). -/
def handlerCode (i : Image) : Nat × Nat :=
  let t := i.code.drop i.handlerEntry
  (i.handlerEntry, i.handlerEntry + ((t.takeWhile fun w => opcodeOf w != 4).length + 2))

/-- Instructions that IK mode lacks (R172): MPYR, RMAX, RMIN, RND, LOOPP, LEAVE. -/
def absentInIk (w : BitVec 64) : Bool := [64 + 0x0F, 64 + 0x13, 64 + 0x14, 64 + 0x15, 8, 0x0A].contains (opcodeOf w)

/-- The program holds nothing that R171 refuses. -/
def codeOk (i : Image) : Bool :=
  let ls := loopsOf 0 i.code
  let at' (k : Nat) : BitVec 64 := at? 0 i.code k
  let h := handlerCode i
  let inHandler (k : Nat) : Bool := i.enabled != 0 && decide (h.1 ≤ k) && decide (k ≤ h.2)
  decide (i.code.length ≤ 32768) && (i.code.all fun w => (decodeCluster 0 w).isSome && !(i.ik && absentInIk w)) &&
  ((List.range i.code.length).all fun k =>
    (!(hasSlots (at' k)) || (!(isControl (at' (k + 1))) && !(isControl (at' (k + 2))))) &&
    (opcodeOf (at' k) != 9 || (wordBits (at' (k + 1)) 63 60 != 0 && wordBits (at' (k + 1)) 63 60 != 6))) &&
  ls.all fun l => decide (l.1 + 3 ≤ l.2) && !(isControl (at' l.2)) && !(isControl (at' (l.2 - 1))) && !(isControl (at' (l.2 - 2))) &&
    (if inHandler l.1 then loopDepth ls l.1 == 0 else decide (loopDepth ls l.1 < 4))

/-- The declared worst case of a work set in a tick: its steps and the handler's entries (R124, R170). -/
def imageCycles (i : Image) : Nat := sumN (i.steps.map (·.worst)) + i.handlerWorst * i.handlerEntries

/-- The engine with other images in its work sets. -/
def State.withImages (s : State) (l : List (Nat × Image)) : State :=
  foldS (fun (s : State) e => s.setWorkSet e.1 fun w => { w with img := e.2 }) s l

/-- A unit in the chains of R124, a fixed unit or a step: its declared worst case, and the output bank slots it takes and gives.  A step also takes
the end of the step before it in its work set, under a number of its own past the slots. -/
structure ChainUnit where
  worst : Nat
  set : Option Nat := none
  takes : List Nat
  gives : List Nat
  deriving DecidableEq, Repr

/-- A step that another unit feeds in PROCESS: a fixed unit, or a step of another work set (R207). -/
def ChainUnit.fedBy (us : List ChainUnit) (u : ChainUnit) : Bool :=
  u.set.isSome && us.any fun p => p.set != u.set && p.gives.any fun k => decide (k < 8192) && u.takes.contains k

/-- The units of `us` lie in chains that end in `u`, one after the other, each once: the longest such chain, and the longest that passes through
a step fed by another unit, 0 without one. -/
def chainLens (us : List ChainUnit) : Nat → List ChainUnit → ChainUnit → Nat × Nat
  | 0, _, u => (u.worst, if u.fedBy us then u.worst else 0)
  | n + 1, l, u =>
    let m := (l.filter fun p => p.gives.any fun k => u.takes.contains k).foldl (fun (m : Nat × Nat) p =>
      let e := chainLens us n (l.filter fun q => q != p) p
      (Nat.max m.1 e.1, Nat.max m.2 e.2)) (0, 0)
    (u.worst + m.1, if u.fedBy us then u.worst + m.1 else if m.2 = 0 then 0 else u.worst + m.2)

/-- The time of the chains that end in `u`: those with a step fed by another unit take 1.5 µs more, for a wake (R124, R207). -/
def chainLen (us : List ChainUnit) (u : ChainUnit) : Nat :=
  let e := chainLens us us.length (us.filter fun q => q != u) u
  Nat.max e.1 (if e.2 = 0 then 0 else e.2 + 1800)

/-- The slot that a channel of IN takes. -/
def portSlots (v : Tab Val) (p : InPort) : List Nat :=
  let slot (g : Nat) : List Nat := match subscription v g with | some r => if r.kind = 2 then [r.index] else [] | none => []
  match p.src with
  | .signal g => slot g
  | .strip c => match selectedSig v c with | some g => slot g | none => []

/-- The steps of a work set as units of chains; the handler's cycles count with the first (R170). -/
def stepUnits (v : Tab Val) (w : Nat) (i : Image) : List ChainUnit :=
  let mark (j : Nat) : Nat := 8192 + 8 * w + j
  (List.range i.steps.length).map fun j =>
    let d := at? ⟨0, 0, [], []⟩ i.steps j
    { worst := d.worst + (if j = 0 then i.handlerWorst * i.handlerEntries else 0), set := some w
      takes := d.inp.flatMap (portSlots v) ++ (if j = 0 then [] else [mark (j - 1)]), gives := mark j :: stepSlots v d }

/-- The units that work under a configuration, with their declared worst cases (R124, R177, R235). -/
def State.chainUnits (s : State) (v : Tab Val) (k : Nat) : List ChainUnit :=
  let slot (g : Nat) : List Nat := match subscription v g with | some r => if r.kind = 2 then [r.index] else [] | none => []
  let e := sumN ((List.range 256).map fun b => s.entryCount v b k)
  let bs := busesOn v
  let dyn (u : Nat) : ChainUnit :=
    let on := (dynEnabled v).filter fun i => dynUnit v i == u
    { worst := if on.isEmpty then 0 else sptOf v * ceilDiv on.length 4 + 600
      takes := on.flatMap fun i => slot (dynN v i 2).toNat ++ (if dynN v i 4 == 0xFFFFFFFF then [] else slot (dynN v i 4).toNat)
      gives := on.map fun i => (dynN v i 3).toNat }
  let os := s.alnActive v k
  -- outputs whose crossfade runs, and those whose DELAY starts one under the unit
  let fades (o : Nat) : Bool :=
    let a := tget ({} : AlnOut) s.aln.outs o
    a.fading || (a.region.isSome && alnN v o 5 == 1 && (a.cur : Int) != alnN v o 4)
  let fixed : List ChainUnit :=
    [{ worst := if bs.isEmpty then 0 else sptOf v * ceilDiv e 48 + 8 * bs.length + 1000
       takes := bs.flatMap fun b => (busList v b).flatMap fun w => slot (entrySig w), gives := bs.map fun b => (busN v b 3).toNat },
     dyn 0, dyn 1,
     { worst := if os.isEmpty then 0 else sptOf v * ceilDiv (os.length + (os.filter fades).length) 2 + 4000
       takes := os.flatMap fun o => slot (alnN v o 2).toNat, gives := os.map fun o => (alnN v o 3).toNat }]
  (fixed ++ (List.range 8).flatMap fun w => stepUnits v w (s.workSet w).img).filter fun u => decide (0 < u.worst)

/-- Clock outputs (R305, R605): no divider that is set gives more than 400 MHz. -/
def clocksOk (v : Tab Val) : Bool :=
  (List.range 8).all fun o =>
    let d := (cfgN v (0x1300 + o) 3 0).toNat
    let core := cfgN v (0x1300 + o) 2 0
    d == 0 || core == 2 || decide ((if core = 1 then 10000000000 else if fsOf v % 48000 = 0 then 9830400000 else 9031680000) ≤ 400000000 * d)

/-- Declared work fits at 1.2 GHz (R124, R177, R235): SIL and every chain that feeds the output bank within 0.92 T, and every work set with its 2,000
cycles. -/
def State.fits (s : State) (v : Tab Val) (k : Nat) : Bool :=
  let d := (detAssigned v).length
  let silW := if d = 0 then 0 else sptOf v * ceilDiv d 16 + 200
  let ok (n : Nat) : Bool := decide (n * 100 * fsOf v ≤ 92 * sptOf v * 1200000000)
  let us := s.chainUnits v k
  ok silW && (us.all fun u => !(u.gives.any fun k => decide (k < 8192)) || ok (chainLen us u)) &&
    (List.range 8).all fun w => imageCycles (s.workSet w).img == 0 || decide ((imageCycles (s.workSet w).img + 2000) * 100 * fsOf v ≤ 92 * sptOf v * 1200000000)

/-! ### Ports, references, clocks (R294, R295, R398, R402, R412, R605) -/

def portsOk (v : Tab Val) : Bool :=
  ((List.range 32).all fun p =>
    let rate := match portN v p 4 with | 3 => 10000000000 | 4 => 25000000000 | _ => 1000000000
    let room := 2 * portN v p 9 + 64 + 2 * (rate / 8) / 1000000
    portN v p 12 != portN v p 13 && decide (portN v p 17 < portN v p 16) && decide (portN v p 19 < portN v p 18) &&
    (portN v p 4 == 0 || (decide (portN v p 16 + room ≤ 65536) && decide (portN v p 18 + room ≤ 196608)))) &&
  ((List.range 16).all fun g =>
    let lanes := (List.range 16).filter fun q => bitAt (cfgN v (0xC200 + g) 1 0).toNat q
    decide (lanes.length ≤ 4) && (lanes.isEmpty || (decide (1 ≤ cfgN v (0xC200 + g) 2 0) && decide (cfgN v (0xC200 + g) 2 0 ≤ lanes.length))) &&
    lanes.all fun q => laneGroup v q == some g)

/-- The highest bandwidth code of an entry's source (R295): codes 0 to 7 are 1 mHz to 4 kHz. -/
def bwLimit (v : Tab Val) (e : Nat) : Int :=
  let src := cfgN v (0x1100 + e) 2 0
  if src = 128 then
    let ls := cfgN v 0x1200 6 0
    -- one tenth of the Sync rate 2^-ls in mHz
    let mhz : Nat := if 0 ≤ ls then 100 / 2 ^ ls.toNat else 100 * 2 ^ (-ls).toNat
    if mhz < 10 then 0 else if mhz < 100 then 1 else if mhz < 1000 then 2 else if mhz < 10000 then 3 else if mhz < 100000 then 4
    else if mhz < 1000000 then 5 else if mhz < 4000000 then 6 else 7
  else if src ≤ 3 ∧ cfgN v (0x1100 + e) 3 0 = 2 then 2
  else if 32 ≤ src ∧ src ≤ 79 then 6
  else 7

/-- A SOURCE code that R294 assigns. -/
def sourceOk (n : Int) : Bool := decide (n ≤ 3) || (decide (16 ≤ n) && decide (n ≤ 79)) || n == 128

/-- No two enabled entries name one source, at most one of all names PTP, and no entry, enabled or not, has a bandwidth above its limit. -/
def timeOk (v : Tab Val) : Bool :=
  let on := (List.range 16).filter fun e => cfgN v (0x1100 + e) 1 0 != 0
  noDup (on.map fun e => cfgN v (0x1100 + e) 2 0) && (on.all fun e => sourceOk (cfgN v (0x1100 + e) 2 0)) &&
  decide (((List.range 16).filter fun e => cfgN v (0x1100 + e) 2 0 == 128).length ≤ 1) &&
  ((List.range 16).all fun e => decide (cfgN v (0x1100 + e) 4 0 ≤ bwLimit v e)) &&
  decide (((List.range 16).filter fun e => cfgN v (0xD310 + e) 5 0 != 0).length ≤ 1)

/-- TDM channels a rate has (R600). -/
def tdmOk (v : Tab Val) : Bool :=
  decide (fsOf v ≤ 96000) || v.all fun e => !([0x1000001, 0x1000101].contains (e.1 / 65536)) || e.2 == .num 0xFFFFFFFF || decide (e.1 % 16 < 8)

/-- Strips enabled in a work set, of one kind (R112). -/
def setStrips (v : Tab Val) (i : Image) (lo : Nat) : Nat :=
  ((imageStrips i).filter fun o => decide (lo ≤ o) && decide (o < lo + 4096) && cfgN v o 1 0 != 0).length

/-- No work set holds more strips than the rate allows it, nor do all together (R112). -/
def State.stripsOk (s : State) (v : Tab Val) : Bool :=
  ((List.range 8).all fun w => decide (setStrips v (s.workSet w).img 0x4000 ≤ perRate v 256) && decide (setStrips v (s.workSet w).img 0x6000 ≤ perRate v 256)) &&
  decide ((objectsWith v 0x4000 0x4FFF 1).length ≤ perRate v 2048) && decide ((objectsWith v 0x6000 0x6FFF 1).length ≤ perRate v 2048)

/-- NEXT and SWITCH of a media key slot come in one unit, SWITCH at least 16 ticks after the apply tick (R378). -/
def keyUnitOk (ws : List EWrite) (a : Nat) : Bool :=
  ws.all fun w =>
    !(decide (0xE401 ≤ w.obj) && decide (w.obj ≤ 0xE7FF)) ||
      (if w.mem = 2 then ws.any fun u => u.obj == w.obj && u.mem == 3
       else if w.mem = 3 then
        (ws.any fun u => u.obj == w.obj && u.mem == 2) && (match w.val with | .num n => decide ((a : Int) + 16 ≤ n) | .bytes _ => false)
       else true)

/-- Members with a value outside their range on an object that becomes enabled or valid (R615). -/
def enabledInRange (v v' : Tab Val) (ws : List EWrite) : Bool :=
  ws.all fun w =>
    !(w.mem == 1 && cfgN v w.obj 1 w.elem % 2 == 0 && cfgN v' w.obj 1 w.elem % 2 == 1) || (match membersOf w.obj with
      | none => true
      | some l => l.all fun p =>
        p.2.kind != .dyn && p.2.kind != .sta || p.2.ty == 0x10 || p.2.ty == 0x11 ||
          (let n := cfgN v' w.obj p.1 (if w.obj = 0x9000 then w.elem else 0)
           decide (p.2.lo ≤ n) && decide (n ≤ p.2.hi)))

/-- A unit that sets TAG_ROLE above 1 does so on a context with AUTH_REQ (R257). -/
def tagRolesOk (v' : Tab Val) (ws : List EWrite) : Bool :=
  ws.all fun w => !(decide (0x2000 ≤ w.obj) && decide (w.obj ≤ 0x2FFF) && w.mem == 20) ||
    (match w.val with | .num n => decide (n ≤ 1) || ctlBit v' (w.obj - 0x2000) 9 | .bytes _ => true)

/-- The checks of R268 on one unit's writes over the configuration `v`, for apply tick `a`; the state is the one that the commits sealed
before leave at tick `a` (State.ahead). -/
def State.unitPasses (s : State) (v : Tab Val) (ws : List EWrite) (a : Nat) (exempt : Bool) : Bool :=
  let v' := overlay v ws
  let k := a * sptOf v'
  (ws.all fun w => match memberOf w.obj w.mem with
    | none => false
    | some i => valueOk w.obj w.mem i w.val && rateOk v' w && (i.kind != .sta || exempt || s.staticFree v v' k w.obj w.mem w.elem)) &&
  enabledInRange v v' ws && s.streamsOk v' && noDup (published v') && noDup (s.slotWriters v' k) && s.mixOk v' k && s.dynOk v' k &&
  dpOk v' && silOk v' && pairOk v' && s.alnOk v v' ws k && s.fits v' k && portsOk v' && timeOk v' && clocksOk v' && tdmOk v' && s.stripsOk v' && keyUnitOk ws a && tagRolesOk v' ws

end Sys2Proof.Machine
end

