-- ==== Sys2Proof/Machine/Apply.lean ====
section
/-! DEFINITION. Answers, the seal, and the application of commits (R263-R282, R67, R126, R175, R378). -/

namespace Sys2Proof.Machine

/-! ### Status codes (R265) -/

def stOk := 0
def stStaged := 1
def stLate := 2
def stPending := 3
def stNoObject := 0x100
def stNoMember := 0x101
def stType := 0x102
def stElem := 0x103
def stValue := 0x104
def stReadOnly := 0x105
def stAccess := 0x106
def stStatic := 0x107
def stNotActive := 0x108
def stLateStrict := 0x109
def stNotApplied := 0x10A
def stStageFull := 0x10B
def stNoCid := 0x10C
def stApplyRange := 0x10D
def stRefused := 0x200
def stSceneEmpty := 0x201
def stSceneStale := 0x202
def stSceneFull := 0x203
def stSceneBusy := 0x204
def stBadOp := 0x300
def stBadLen := 0x301
def stBusy := 0x302
def stBadState := 0x303

/-! ### Answers (R259, R263) -/

/-- The key of a path: HOSTP 0, TW1 1, a session its identifier plus 2. -/
def pathKey : Path → Nat
  | .hostp => 0
  | .tw1 => 1
  | .session id _ _ => id + 2

/-- The SESSION field of a path key; 0 for the local paths. -/
def sessionOf (pk : Nat) : Nat := if pk < 2 then 0 else pk - 2

/-- An item header of a response (R260). -/
def itemHead (i : Item) (status count : Nat) : List Byte :=
  beBytes 2 i.obj ++ beBytes 1 i.mem ++ beBytes 1 i.ty ++ beBytes 2 i.elem ++ beBytes 2 count ++ beBytes 2 status ++ beBytes 6 0

/-- The plaintext of a response (R259). -/
def responseBytes (pk op reqid status nitem cid : Nat) (body : List Byte) : List Byte :=
  beBytes 1 1 ++ beBytes 1 (op + 0x80) ++ beBytes 2 status ++ beBytes 4 (sessionOf pk) ++ beBytes 4 reqid ++ beBytes 2 nitem ++
    beBytes 1 cid ++ beBytes 1 0 ++ beBytes 8 0 ++ body

/-- The last 16 responses of each path are kept (R263). -/
def cachePut (c : Cached) (l : List Cached) : List Cached :=
  let mine := l.filter fun x => x.path == c.path && x.reqid != c.reqid
  (c :: mine.take 15) ++ l.filter fun x => x.path != c.path

/-- A response leaves (R264).  In a session it is a datagram of CONTROL, or of BULK with more than 1,024 bytes of plaintext, on the port of the
session's last datagram (R398). -/
def State.respond (s : State) (pk reqid status : Nat) (b : List Byte) : State :=
  let e := Emission.response pk reqid status b
  match s.sec.sessions.find? fun y => y.id + 2 == pk with
  | some y => if (s.port y.port).up then s.sendClass y.port (decide (1024 < b.length)) (18 + (if y.v6 then 48 else 28) + 28 + b.length) e else s.emit e
  | none => s.emit e

/-- A response leaves: kept for its REQID, counted TX_OK or TX_ERR, and put into the buffer of HOSTP or TW1 (R549, R545). -/
def State.answer (s : State) (pk op reqid status nitem cid : Nat) (body : List Byte) : State :=
  let b := responseBytes pk op reqid status nitem cid body
  let s1 := s.modDict fun d => { d with
    cache := cachePut ⟨pk, reqid, op, status, b⟩ d.cache
    counters := tmod 0 d.counters (if status < 0x100 then 1 else 2) fun n => (n + 1) % 2 ^ 32 }
  let s2 := s1.respond pk reqid status b
  if pk = 0 then
    { s2 with hostp := { s2.hostp with dstate := 2, respLen := b.length }
              fab := { s2.fab with ctrlSram := memSetBytes s2.fab.ctrlSram 0x1FE000 b } }
  else if pk = 1 then { s2 with tw1 := { s2.tw1 with dstate := 2, resp := b } }
  else
    { s2 with sec := { s2.sec with sessions :=
      (s2.sec.sessions.map fun y => if y.id + 2 = pk then { y with txSeq := y.txSeq + 1 } else y).filter fun y => decide (y.txSeq < 2 ^ 48) } }

/-! ### Commit log and mark log (R272, R67) -/

def Dict.logPut (d : Dict) (e : LogEntry) : Dict :=
  { d with log := if d.log.length < 256 then d.log ++ [e] else listSet d.log d.logNext e, logNext := (d.logNext + 1) % 256 }

def Dict.markPut (d : Dict) (e : MarkEntry) : Dict :=
  { d with marks := if d.marks.length < 64 then d.marks ++ [e] else listSet d.marks d.markNext e, markNext := (d.markNext + 1) % 64 }

def Dict.countUp (d : Dict) (i : Nat) : Dict := { d with counters := tmod 0 d.counters i fun n => (n + 1) % 2 ^ 32 }

/-! ### Order of units (R269) -/

/-- The unit came in a tag. -/
def fromTag (u : CUnit) : Bool := u.kind == .tag || (u.kind == .recall && u.op == 0)

/-- Sort key of R269: later tags of one context by their position.  Of two tags of one context that agree in position and lateness, from two frames, the
one accepted later comes first, so that the one accepted first wins (log 191). -/
def unitKey (u : CUnit) : Nat :=
  let g := match u.kind with | .recall => 0 | .store => 2 | _ => 1
  let q := if !(fromTag u) then 0 else if u.late then 1 else 2
  ((g * 4 + q) * 2 ^ 32 + (if fromTag u then u.ctx else u.order)) * 2 ^ 20 + u.pos

def insertUnit (u : CUnit) : List CUnit → List CUnit
  | [] => [u]
  | x :: t => if unitKey u < unitKey x then u :: x :: t else x :: insertUnit u t

def sortUnits : List CUnit → List CUnit
  | [] => []
  | u :: t => insertUnit u (sortUnits t)

/-! ### Fixed units and clusters under a commit (R18, R116, R126, R133, R134, R175, R176, R208) -/

/-- Writes of a commit. -/
def writesOf (us : List CUnit) : List EWrite := us.flatMap (·.writes)

/-- Images of units, in their order. -/
def imagesOf (us : List CUnit) : List (Nat × Image) := us.flatMap (·.images)

/-- A write of an ACTION member: it starts an action and holds no value (R252). -/
def isAction (w : EWrite) : Bool := match memberOf w.obj w.mem with | some i => i.kind == .action | none => false

/-- Distinct objects of a range that a commit writes, ascending. -/
def objsIn (ws : List EWrite) (lo hi : Nat) : List Nat :=
  sortN ((ws.filter fun w => decide (lo ≤ w.obj) && decide (w.obj ≤ hi)).map (·.obj))

/-- The dynamics instances that a commit writes, ascending. -/
def instsIn (ws : List EWrite) : List Nat := sortN ((ws.filter fun w => w.obj == 0x9000).map (·.elem))

/-- A static member of a pair-wide range changes (R278). -/
def changesStatic (v : Tab Val) (w : EWrite) : Bool :=
  pairWide w.obj w.mem && valueOf v w.obj w.mem w.elem != w.val &&
    (match memberOf w.obj w.mem with | some i => i.kind == .sta | none => false)

/-- The coefficients that the units of a commit carry for an instance, the last unit's first; a commit of another origin has them computed here. -/
def coefIn (us : List CUnit) (v : Tab Val) (i : Nat) : DynCoef :=
  match us.reverse.findSome? fun u => tfind u.dynCoef i with
  | some c => c
  | none => dynCoefOf v i

/-- The banks that the units of a commit carry, one for each channel. -/
def banksIn (us : List CUnit) : Tab DpBank := us.foldl (fun t u => u.dpBank.foldl (fun t e => tset t e.1 e.2) t) []

/-- A unit with the coefficients of the instances and direct channels that it writes, under the configuration after it, for apply tick `a`
(R176). -/
def State.withBanks (s : State) (v : Tab Val) (a : Nat) (u : CUnit) : CUnit :=
  { u with
    dynCoef := (instsIn u.writes).map fun i => (i, dynCoefOf v i)
    dpBank := (objsIn u.writes 0x9800 0x983F).map fun o => (o - 0x9800, s.dpBankOf v (o - 0x9800) (a * sptOf v)) }

/-- The work sets of a commit: new images, whose zero monitors start anew with gated clusters woken (R208), and new seeds (R126). -/
def State.commitSets (s : State) (us : List CUnit) : State :=
  let s1 := foldS (fun (s : State) (e : Nat × Image) =>
    let s2 := s.setWorkSet e.1 fun w => { w with img := e.2 }
    let s3 := { s2 with sil := { s2.sil with mon := tset s2.sil.mon e.1 {} } }
    match s3.owner e.1 with
    | some n => s3.wake n
    | none => s3) s (imagesOf us)
  foldS (fun (s : State) (w : EWrite) => match w.val with
    | .num x => s.setWorkSet (w.obj - 0xA010) fun y => { y with seed := BitVec.ofInt 64 x }
    | .bytes _ => s) s1 ((writesOf us).filter fun w => decide (0xA010 ≤ w.obj) && decide (w.obj ≤ 0xA017))

/-- Every lane's noise state under a seed. -/
def Cluster.reseed (c : Cluster) (seed : BitVec 64) : Cluster :=
  { c with lanes := mapBelow (fun l (y : Lane) => { y with noise := seedNoise seed l }) 32 0 c.lanes }

/-- A cluster under a commit: one that owns a work set, or is taking it over, loads a new image, and a spare-in then starts again with LOAD; a
new seed or new parameters go to both alike (R116, R126, R133, R134).  A step that still runs past its tick keeps what it started with (R125). -/
def State.commitCluster (s : State) (us : List CUnit) (n : Nat) : State :=
  let c := s.cluster n
  let x := s.workSet c.wset
  let ws := writesOf us
  if !(c.role == 1 || c.phase != 0) then s
  else if (imagesOf us).any fun e => e.1 == c.wset then
    s.setCluster n fun c =>
      let c1 := if c.stepping then { c with loadDue := true } else c.loadFor s.dict.vals x.img x.seed
      if c.role = 1 then c1 else { c1 with phase := 1, spinTick := s.time.tick, matchCnt := 0, mismatches := 0 }
  else
    let s1 := if ws.any fun w => w.obj == 0xA010 + c.wset then s.setCluster n fun c => c.reseed x.seed else s
    if ws.any fun w => (imageStrips c.img).contains w.obj then
      s1.setCluster n fun c => if c.stepping then { c with parDue := true } else c.newParams s.dict.vals
    else s1

/-- A unit of the commit leaves the enable of an object 0, so that a later one that sets it starts the object anew (R194, R58). -/
def turnsOff (us : List CUnit) (obj elem : Nat) : Bool :=
  us.any fun u => match u.writes.reverse.find? fun w => w.obj == obj && w.mem == 1 && w.elem == elem with
    | some w => (match w.val with | .num n => n % 2 == 0 | .bytes _ => false)
    | none => false

/-- The part of a commit that an island takes over, with ramps from sample `k` on (R175). -/
def State.commitIsland (k : Nat) (us : List CUnit) (s : State) (i : Nat) : State :=
  let ws := writesOf us
  let v := s.dict.vals
  if i = blkMix then
    { s with mix := { s.mix with buses := (objsIn ws 0x8000 0x80FF).foldl (fun t o =>
      tmod ({} : Bus) t (o - 0x8000) fun b => b.commit v (o - 0x8000) k) s.mix.buses } }
  else if i = blkDyn ∨ i = islDyn1 then
    let mine := (instsIn ws).filter fun e => decide ((if dynUnit v e = 0 then blkDyn else islDyn1) = i)
    { s with dyn := { s.dyn with insts := mine.foldl (fun t e => tmod ({} : DynInst) t e fun d =>
      (if turnsOff us 0x9000 e then {} else d).commit v e k (coefIn us v e)) s.dyn.insts } }
  else if i = blkAln then
    foldS (fun s o => s.alnCommit (o - 0x7000) k fun m => ws.any fun w => w.obj == o && w.mem == m) s (objsIn ws 0x7000 0x7FFF)
  else if isCluster i then s.commitCluster us (i - blkCl 0)
  else s

/-- The islands that take over parts of a commit. -/
def commitIslands : List Nat := [blkMix, blkDyn, islDyn1, blkAln] ++ (List.range 9).map blkCl

/-- Values, work sets and fixed units under the commit of tick `a`, after what has run its course by then (R186, R231); an island that takes no stage action keeps its part for its next tick event
(R20, R270; log 162). -/
def State.commitFixed (s : State) (a : Nat) (us : List CUnit) (skip : List Nat) : State :=
  let ws := writesOf us
  let k := s.firstSample a
  let s1 := s.settle a
  let s2 := s1.modDict fun d => { d with
    vals := overlay d.vals (ws.filter fun w => !(isAction w))
    generation := if ws.any (changesStatic d.vals) then (d.generation + 1) % 2 ^ 32 else d.generation
    owed := d.owed ++ (commitIslands.filter skip.contains).map fun i => (i, us) }
  foldS (State.commitIsland k us) (s2.commitSets us) (commitIslands.filter fun i => !(skip.contains i))

/-- The parts of earlier commits that islands still have to take over. -/
def State.payOwed (s : State) (skip : List Nat) (k : Nat) : State :=
  foldS (fun (s : State) (e : Nat × List CUnit) => s.commitIsland k e.2 e.1)
    (s.modDict fun d => { d with owed := d.owed.filter fun e => skip.contains e.1 })
    (s.dict.owed.filter fun e => !(skip.contains e.1))

/-- The state that the commits sealed for earlier ticks leave at tick `a`, as far as the checks of a unit go by it (R268). -/
def State.ahead (s : State) (a : Nat) : State :=
  foldS (fun (s : State) (e : Nat × List CUnit) => s.commitFixed e.1 e.2 []) s (sortAt (s.dict.sealed.filter fun e => decide (e.1 < a)))

/-! ### Route changes (R79, R98, R100, R101) -/

/-- The last unit of a commit that changes what a consumer listens to. -/
def changedBy (c : Consumer) : Tab Val → List CUnit → Option CUnit → Option CUnit
  | _, [], who => who
  | v, u :: t, who =>
    let v1 := overlay v u.writes
    changedBy c v1 t (if wantedRoute v1 c = wantedRoute v c then who else some u)

/-- The fade word of a route change (R79, R279): SCENE_FADE of the recall that makes it, else the consumer's own. -/
def changeWord (old v : Tab Val) (us : List CUnit) (c : Consumer) : Nat :=
  match changedBy c old us none with
  | some u => if u.kind == .recall then (cfgN v 0xD001 4 u.slot).toNat else fadeWord v c
  | none => fadeWord v c

/-- What a consumer is to listen to by the changes taken so far: its queued change, or its newest route. -/
def Csw.pendingRoute (cs : Csw) (c : Consumer) : Option Route :=
  match cs.fadeQ.find? fun q => q.cons == c with
  | some q => some q.new
  | none => cs.routeOf c

/-- One consumer at the start of tick `n`: a consumer that is new takes its route, a committed change starts or is queued, an entry that is no
longer VALID is a loss of source, and a queued change that is due starts (R79, R98, R101). -/
def Csw.foxConsumer (n : Nat) (old v : Tab Val) (us : List CUnit) (cs : Csw) (c : Consumer) : Csw :=
  let want := wantedRoute v c
  match cs.pendingRoute c with
  | none => cs.setRoute c want n
  | some r =>
    if r ≠ want then (if r.sig = want.sig ∧ want.src = none then cs.loseSource c want n else cs.changeRoute c want (changeWord old v us c) n)
    else match cs.due c with
      | some q => cs.startQueued q n
      | none => cs

/-- The consumers whose queued change is due, in ascending order. -/
def Csw.dueConsumers (cs : Csw) : List Consumer :=
  (sortN (cs.fadeQ.map fun q => Consumer.rank q.cons)).filterMap fun r => (cs.fadeQ.find? fun q => Consumer.rank q.cons == r).map (·.cons)

/-- The consumers that have a route and are gone under a configuration. -/
def Csw.gone (cs : Csw) (v : Tab Val) : List Consumer :=
  (cs.routes.map (·.1)).eraseDups.filter fun c => (cs.routeOf c).isSome && !((consumers v).contains c)

/-- Fox at the start of tick `n`: fades that are over free their slots, consumers that are gone go, and the changes of the tick are served in
ascending consumer order (R100, R101).  Without a commit only queued changes can start. -/
def State.foxTick (s : State) (n : Nat) : State :=
  let us := tget [] s.dict.sealed n
  let cs := { s.csw.endedBy s.spt n with foxLast := some n }
  if us.isEmpty ∧ s.csw.foxLast.isSome then
    s.modCsw fun _ => cs.dueConsumers.foldl (fun x c => match x.due c with | some q => x.startQueued q n | none => x) cs
  else
    let v := s.conf n
    let all := consumers v
    s.modCsw fun _ => all.foldl (Csw.foxConsumer n (s.configAt n) v us) ((cs.gone v).foldl (Csw.drop n) cs)

/-- The first boundary after a reset of CSW: every consumer listens to what the commits so far give it, as a cut (R617). -/
def Csw.cutAll (n : Nat) (v : Tab Val) (cs : Csw) : Csw :=
  let cs1 := (consumers v).foldl (fun (cs : Csw) c => if cs.routeOf c = some (wantedRoute v c) then cs else cs.setRoute c (wantedRoute v c) n)
    ((cs.gone v).foldl (Csw.drop n) cs)
  { cs1 with foxCut := false, foxLast := some (n - 1) }

/-- Fox takes the ticks up to `n` that it has not taken. -/
def State.foxRun (s : State) (n : Nat) : State :=
  if s.csw.foxCut then (s.modCsw fun cs => cs.cutAll n (s.configAt n)).foxTick n else
  match s.csw.foxLast with
  | none => s.foxTick n
  | some l => foldS State.foxTick s ((List.range (n - l)).map (l + 1 + ·))

/-- While ticks do not run every consumer takes its route at once (R271). -/
def State.foxRebuild (s : State) : State :=
  let v := s.dict.vals
  s.modCsw fun c => { c with
    routes := (consumers v).map fun x => (x, 0, some (wantedRoute v x)), fades := [], foxPast := [], fadeQ := [], foxLast := none, foxCut := false }

/-! ### The seal (R268, R281) -/

/-- A scene slot is STALE (R278, R280). -/
def State.sceneStale (s : State) (k : Nat) : Bool :=
  let x := tget ({} : SceneSlot) s.dict.slots k
  x.stale || x.gen != s.dict.generation

/-- A poisoned line lies in a slot's DRAM (R436). -/
def State.scenePoisoned (s : State) (k : Nat) : Bool :=
  let b := (s.cfg 0xD001 2 + k * 1048576) / 64
  s.memc.poison.any fun l => decide (b ≤ l) && decide (l < b + 16384)

/-- A store into a slot is sealed for an earlier tick and has still to start (R281). -/
def State.storeSealed (s : State) (u : CUnit) : Bool :=
  s.dict.sealed.any fun e => decide (e.1 < u.apply) && e.2.any fun x => x.kind == .store && x.slot == u.slot

/-- The writes a unit stands for at its seal, or the code that refuses it. -/
def State.unitWrites (s : State) (u : CUnit) : Except Nat (List EWrite) :=
  match u.kind with
  | .recall =>
    let x := tget ({} : SceneSlot) s.dict.slots u.slot
    if x.running || s.storeSealed u then .error stSceneBusy
    else if !x.valid then .error stSceneEmpty
    else if s.sceneStale u.slot then .error stSceneStale
    else if s.scenePoisoned u.slot then .error stRefused
    else .ok x.entries
  | _ =>
    if u.cid = 0 then .ok u.writes
    else match tget [] s.dict.staged u.cid with
      | [] => if (tget [] s.dict.stagedImages u.cid).isEmpty then .error stNoCid else .ok []
      | ws => .ok ws

/-- The images a unit brings at its seal. -/
def State.unitImages (s : State) (u : CUnit) : List (Nat × Image) := if u.cid = 0 then u.images else tget [] s.dict.stagedImages u.cid

/-- A committed set is empty again (R267). -/
def Dict.unstage (d : Dict) (cid : Nat) : Dict :=
  if cid = 0 then d else
  { d with staged := tdel d.staged cid, stagedImages := tdel d.stagedImages cid, stagedBy := d.stagedBy.filter fun r => r.cid != cid }

/-- Bytes of a unit in a COMMIT record: 16 for the unit and for each write (log 21). -/
def unitBytes (u : CUnit) : Nat := 16 * (1 + u.writes.length)

/-- The part of a unit that a COMMIT record carries: a recall as a reference to its slot, else the writes to pair-wide members (R340, R346). -/
def pairedUnit (u : CUnit) : CUnit :=
  { u with writes := if u.kind = .recall then [] else u.writes.filter fun w => pairWide w.obj w.mem, pendingAns := true }

/-- The result of a unit reaches its sender and the commit log (R264, R272); a store's result is logged when the store ends (R277). -/
def State.unitResult (s : State) (u : CUnit) (code : Nat) : State :=
  let res := if code = 0 ∧ u.late then stLate else code
  let s1 :=
    if fromTag u ∨ u.pendingAns then s
    else s.answer u.session u.op u.origin res u.heads.length u.cid (u.heads.flatMap fun i => itemHead i res i.count)
  let s2 := if 0x100 ≤ code then s1.modDict fun d => d.countUp (if code = stNoCid then 6 else 7) else s1
  if 0x100 ≤ code ∨ ((u.late ∨ u.pendingAns) ∧ u.kind ≠ .store) then
    s2.modDict fun d => d.logPut ⟨u.apply, u.kind, u.origin, sessionOf u.session, u.cid, res⟩
  else s2

/-- One unit at the seal: checked against the configuration that results from the units before it, in the state `ah` that the commits of earlier
ticks leave: a slot is STALE by the generation they leave (R281).  A COMMIT empties its set whether it passes or not (R267). -/
def State.sealUnit (ah : State) (a : Nat) (p : State × Tab Val × List CUnit) (u : CUnit) : State × Tab Val × List CUnit :=
  let (s, v, acc) := p
  match (s.modDict fun d => { d with generation := ah.dict.generation }).unitWrites u with
  | .error c => (s.unitResult u c, v, acc)
  | .ok ws =>
    let u1 := s.withBanks (overlay v ws) a { u with writes := ws, images := s.unitImages u }
    let tooBig := s.pair.role = 1 ∧ 65536 < sumN ((u1 :: acc).map fun u => unitBytes (pairedUnit u))
    if u.kind != .store && (!((ah.withImages (imagesOf (acc ++ [u1]))).unitPasses v ws a false) || decide tooBig) then
      ((s.modDict fun d => d.unstage u.cid).unitResult u stRefused, v, acc)
    else
      let s1 := s.modDict fun d => d.unstage u.cid
      (s1.unitResult u 0, overlay v ws, acc ++ [u1])

/-- A commit is sealed for tick `a`: direct channels get their banks, which take effect at the first sample of the tick (R175, R201). -/
def State.putSealed (s : State) (a : Nat) (us : List CUnit) : State :=
  if us.isEmpty then s else
  let s1 := s.modDict fun d => { d with sealed := tset d.sealed a (tget [] d.sealed a ++ us) }
  { s1 with dp := { s1.dp with ch := (banksIn us).foldl (fun t e => tmod ({} : DpCh) t e.1 fun d => { d with next := d.next ++ [e.2] }) s1.dp.ch } }

/-- The seal of tick `a` (R268): the units that pass form its commit, which an ACTIVE mirrors. -/
def State.seal (s : State) (a : Nat) : State :=
  let us := sortUnits (s.dict.units.filter fun u => u.apply == a)
  let s0 := s.modDict fun d => { d with units := d.units.filter fun u => u.apply != a }
  let (s1, _, acc) := us.foldl (State.sealUnit (s0.ahead a) a) (s0, s0.configAt a, [])
  let s2 := s1.putSealed a acc
  let us := acc.map pairedUnit
  if s.pair.role = 1 then s2.sendRecord 1 4 a (sumN (us.map unitBytes)) fun _ _ _ => .commit us else s2

/-! ### Application (R270, R175) -/

/-- The elements of a member as DESCRIBE counts them; a channel map has NCH words (R83). -/
def memberLen (v : Tab Val) (obj m : Nat) (i : Member) : Nat := if 0x2000 ≤ obj ∧ obj ≤ 0x2FFF ∧ m = 22 then ctxNch v (obj - 0x2000) else i.len

/-- The entries a scene store captures from one object (R277). -/
def sceneObject (v : Tab Val) (obj : Nat) : List EWrite :=
  match membersOf obj with
  | none => []
  | some l => l.flatMap fun p =>
    if p.2.kind == .dyn && p.2.ty != 0x10 && p.2.ty != 0x11 then
      (List.range (memberLen v obj p.1 p.2)).map fun e => ⟨obj, p.1, e, .num (cfgN v obj p.1 e)⟩
    else []

/-- The entries that a store captures. -/
def storeEntries (v : Tab Val) (u : CUnit) : List EWrite := u.heads.flatMap fun i => (List.range i.count).flatMap fun k => sceneObject v (i.obj + k)

/-- A store of tick `a` starts after its commit (R277): the slot is busy, or SCENE_FULL is logged. -/
def State.startStore (s : State) (a : Nat) (u : CUnit) : State :=
  if u.kind != .store then s else
  let es := storeEntries s.dict.vals u
  if 65532 < es.length then s.modDict fun d => d.logPut ⟨a, .store, u.origin, sessionOf u.session, u.cid, stSceneFull⟩
  else s.modDict fun d => { d with slots := tmod {} d.slots u.slot fun (x : SceneSlot) =>
    { x with
      running := true, captured := some es, capturedGen := d.generation, capturedTick := a, origin := u.origin, session := sessionOf u.session
      late := u.late } }

/-! ### Scene slots in DRAM (R276) -/

/-- A number in `n` bytes, least significant first (R9). -/
def littleBytes (n x : Nat) : List Byte := (beBytes n x).reverse

/-- An entry of a slot. -/
def sceneEntryBytes (e : EWrite) : List Byte :=
  let ty := match memberOf e.obj e.mem with | some i => i.ty | none => 0
  let n : Nat := match e.val with | .num n => (n % ((256 ^ ((tySize ty).getD 8) : Nat) : Int)).toNat | .bytes _ => 0
  littleBytes 2 e.obj ++ [b8 e.mem, b8 ty] ++ littleBytes 2 e.elem ++ [0, 0] ++ littleBytes 8 n

/-- A slot as it lies in DRAM: header and entries. -/
def SceneSlot.image (x : SceneSlot) : List Byte :=
  let es := x.entries.flatMap sceneEntryBytes
  littleBytes 4 (b2n x.valid + 2 * b2n x.stale) ++ littleBytes 4 x.entries.length ++ littleBytes 8 x.storeTick ++ littleBytes 4 x.gen ++
    littleBytes 4 (crc32c es).toNat ++ List.replicate 40 0 ++ es

/-- Where a slot lies. -/
def State.slotBase (s : State) (k : Nat) : Nat := s.cfg 0xD001 2 + k * 1048576

/-- The firmware writes a slot into the scene area; lines it writes are no longer poisoned (R276, R436, log 199). -/
def State.slotToDram (s : State) (k : Nat) : State :=
  let b := s.slotBase k
  let l := (tget ({} : SceneSlot) s.dict.slots k).image
  { s with memc := { s.memc with
    dram := memSetBytes s.memc.dram b l, poison := s.memc.poison.filter fun n => !(decide (b / 64 ≤ n) && decide (n * 64 < b + l.length)) } }

/-- A slot takes what its store has captured (R277). -/
def State.slotStored (s : State) (k : Nat) (es : List EWrite) : State :=
  (s.modDict fun d => { d with slots := tmod {} d.slots k fun (x : SceneSlot) =>
    { x with
      valid := true, stale := false, storeTick := x.capturedTick, gen := x.capturedGen, entries := es, running := false, captured := none } }).slotToDram k

/-- A media key slot or a port's keys under a write (R378, R406). -/
def KeySlot.put (x : KeySlot) (m : Nat) (v : Val) : KeySlot :=
  match m, v with
  | 1, .bytes b => { x with cur := b, first := none, units := 0, aged := false, expired := false, sentCur := 0, seenCur := 0 }
  | 2, .bytes b => { x with next := b, sentNext := 0, seenNext := 0 }
  | 3, .num n => { x with switch := n.toNat }
  | _, _ => x

/-- inc for an oscillator `ppb` fast, in units of 2^-32 ns (R286). -/
def incFor (ppb : Int) : Nat := (roundDiv (2 ^ 33 * 1000000000) (1000000000 + ppb)).toNat

/-- The firmware writes TIME.INC from XO_PPB (R286): in Dawn and Night, and in Morning while no reference is selected. -/
def State.loadXo (s : State) : State :=
  let ok := match s.top.state with
    | .dawn | .night => true
    | .morning => s.refsel.inUse.isNone
    | _ => false
  if ok then
    let n := incFor (s.cfgI 0x1001 4 0)
    { s with time := { s.time with inc := n, incInt := n / 2 ^ 32, incFrac := w32 n } }
  else s

/-- Effects of single writes on state outside the value store. -/
def State.writeEffect (s : State) (w : EWrite) : State :=
  if 0xE401 ≤ w.obj ∧ w.obj ≤ 0xE7FF then
    { s with sec := { s.sec with keys := tmod {} s.sec.keys (w.obj - 0xE400) fun (x : KeySlot) => x.put w.mem w.val } }
  else if 0xC300 ≤ w.obj ∧ w.obj ≤ 0xC31F then
    -- members 2, 3 and 4 of a port are CUR, NEXT and SWITCH
    { s with sec := { s.sec with portKeys := tmod {} s.sec.portKeys (w.obj - 0xC300) fun (x : KeySlot) => x.put (w.mem - 1) w.val } }
  else if 0xC000 ≤ w.obj ∧ w.obj ≤ 0xC02F ∧ w.mem = 5 ∧ w.val = .num 0 then
    s.setPort (w.obj - 0xC000) fun p => { p with up := false, preempt := false }
  else if w.obj = 0x1001 ∧ w.mem = 4 then s.loadXo
  else if w.obj = 0x0051 ∧ (w.mem = 2 ∨ w.mem = 3) then
    match w.val with
    | .bytes b => s.modFab fun f => if w.mem = 2 then { f with pagesA := tset f.pagesA w.elem b } else { f with pagesB := tset f.pagesB w.elem b }
    | .num _ => s
  else if w.obj = 0xE010 then
    match w.val with
    | .num x => { s with sec := { s.sec with sessions := s.sec.sessions.filter fun y => decide (x = 0) || decide ((y.certId : Int) ≠ x) } }
    | .bytes _ => s
  else s

/-- A stream context that becomes valid at tick `a` starts its records anew (R58); one that ceases to be gives up what it holds. -/
def State.ctxTurn (a : Nat) (s : State) (e : Nat × Bool) : State :=
  s.setCtx e.1 fun c =>
    if e.2 then { ({} : Ctx) with cnt := c.cnt, egSeq := c.egSeq, validFrom := a }
    else { c with inForce := [], early := [], rtp := [], rtpBuf := [], validTo := a }

/-- The stream contexts that a commit makes valid, or no longer valid, from one configuration to the next; one that a unit makes invalid and a
later one valid again does both. -/
def ctxTurns (old v : Tab Val) (us : List CUnit) : List (Nat × Bool) :=
  ((objsIn (writesOf us) 0x2000 0x2FFF).map (· - 0x2000)).flatMap fun x =>
    if ctxValid v x ≠ ctxValid old x then [(x, ctxValid v x)]
    else if ctxValid v x ∧ turnsOff us (0x2000 + x) 0 then [(x, false), (x, true)]
    else []

/-- The stream contexts under the commit of tick `a`; CSW keeps its part for its next tick event where it takes no stage action (R20). -/
def State.ctxCommit (s : State) (old : Tab Val) (a : Nat) (us : List CUnit) (skip : List Nat) : State :=
  let l := ctxTurns old s.dict.vals us
  if skip.contains blkCsw then s.modCsw fun c => { c with ctxOwed := c.ctxOwed ++ l } else foldS (State.ctxTurn a) s l

/-- The contexts of earlier commits that CSW still has to turn. -/
def State.payCtx (s : State) (n : Nat) (skip : List Nat) : State :=
  if skip.contains blkCsw then s else foldS (State.ctxTurn n) (s.modCsw fun c => { c with ctxOwed := [] }) s.csw.ctxOwed

/-- The commit of tick `a` takes effect (R270, R175): values, fixed units and clusters, stream contexts, keys, actions, marks and scene stores. -/
def State.commitUnits (s : State) (us : List CUnit) (a : Nat) (skip : List Nat) : State :=
  let ws := writesOf us
  let s1 := s.commitFixed a us skip
  let s2 := s1.ctxCommit s.dict.vals a us skip
  let s3 := (foldS State.writeEffect s2 (ws.filter fun w => !(isAction w))).modDict fun d => { d with actions := d.actions ++ ws.filter isAction }
  let s4 := foldS (fun (s : State) u =>
    match u.mark with
    | some (i, x) => s.modDict fun d => d.markPut ⟨a, i, x⟩
    | none => s) s3 us
  foldS (fun s u => s.startStore a u) s4 us

/-- The sealed commit of a tick, applied once. -/
def State.applySealed (skip : List Nat) (s : State) (a : Nat) : State :=
  match tfind s.dict.sealed a with
  | none => s
  | some us => (s.modDict fun d => { d with sealed := tdel d.sealed a }).commitUnits us a skip

/-- What is due at the start of PROCESS of tick `n`: parts still owed to islands, then every sealed commit up to that tick. -/
def State.applyDue (s : State) (n : Nat) (skip : List Nat) : State :=
  foldS (State.applySealed skip) (((s.settle n).payOwed skip (s.firstSample n)).payCtx n skip) (sortN ((s.dict.sealed.map (·.1)).filter fun a => decide (a ≤ n)))

/-- While ticks do not run, direct channels take their banks over at once, and at a new rate every coefficient follows (R271, R189, R198). -/
def State.banksNow (s : State) (us : List CUnit) (old : Tab Val) : State :=
  let v := s.dict.vals
  let s1 := { s with dp := { s.dp with ch := (banksIn us).foldl (fun t e => tmod ({} : DpCh) t e.1 fun d => d.take e.2) s.dp.ch } }
  if fsOf old = fsOf v then s1 else
  { s1 with
    dyn := { s1.dyn with insts := s1.dyn.insts.map fun (e : Nat × DynInst) => (e.1, { e.2 with coef := dynCoefOf v e.1 }) }
    dp := { s1.dp with ch := s1.dp.ch.map fun (e : Nat × DpCh) => (e.1, { e.2 with bank := s1.dpBankOf v e.1 0 }) } }

/-- Staged sets are not mirrored: an engine that was SHADOW holds none once it is ACTIVE (R267). -/
def State.dropStaged (s : State) : State := s.modDict fun d => { d with staged := [], stagedImages := [], stagedBy := [] }

/-- A unit accepted while ticks do not run applies at once, and a store is done at once (R271, R567). -/
def State.applyNow (s : State) (u : CUnit) : State × Nat :=
  match s.unitWrites u with
  | .error c => (s, c)
  | .ok ws =>
    let images := s.unitImages u
    let u1 := s.withBanks (overlay s.dict.vals ws) 0 { u with writes := ws, images := images }
    if u.kind == .store then
      let es := storeEntries s.dict.vals u
      if 65532 < es.length then (s, stSceneFull)
      else
        ((s.modDict fun d => { d with slots := tmod {} d.slots u.slot fun (x : SceneSlot) =>
          { x with capturedTick := s.time.tick, capturedGen := d.generation } }).slotStored u.slot es, 0)
    else if !((s.withImages images).unitPasses s.dict.vals ws 0 false) then (s.modDict fun d => d.unstage u.cid, stRefused)
    else ((((s.modDict fun d => d.unstage u.cid).commitUnits [u1] 0 []).banksNow [u1] s.dict.vals).foxRebuild, 0)

end Sys2Proof.Machine
end

