-- ==== Sys2Proof/Machine/Stage.lean ====
section
/-! DEFINITION. The EMIT stage: alignment, frames of processed and repacked contexts, RTP packing, TDM words and Lynx CRCs
(R43, R51, R52, R58, R67, R70, R72, R74, R78, R84-R86, R325, R348). -/

namespace Sys2Proof.Machine

/-! ### Samples at the output (R70, R84) -/

/-- A slot that an aligned output wrote in tick `n`: its path through ALN already holds the fixed alignment delay (R70, R222). -/
def State.isAlnSlot (s : State) (n slot : Nat) : Bool := s.csw.alnKeys.contains (bankKey n slot)

/-- A source is an aligned output in tick `n`. -/
def State.isAlnSrc (s : State) (n : Nat) (r : Src) : Bool := r.kind == 2 && s.isAlnSlot n r.index

/-- A source's samples of tick `n` behind the fixed alignment delay of 9 samples (R70); those of an aligned output as they are, once and in the
tick that ALN writes them for (R224). -/
def State.alignedTick (s : State) (n : Nat) (r : Option Src) : List Int :=
  match r with
  | none => s.srcTick n r
  | some x =>
    if s.isAlnSrc n x then s.srcTick n r
    else
      let xs := (List.range 4).flatMap fun j => if n + j < 3 ∨ s.isAlnSrc (n + j - 3) x then zeros s.spt else s.srcTick (n + j - 3) r
      (xs.drop (3 * s.spt - 9)).take s.spt

/-- The two ticks whose samples a frame of tick `n` carries behind the alignment delay of 9 samples (R205, R70). -/
def State.carriedTicks (s : State) (n : Nat) : List Nat :=
  let lo := n - ceilDiv 9 s.spt
  [lo, lo + 1]

/-- The ticks whose samples of a route an egress frame of tick `n` carries: REPACK and aligned outputs carry tick `n` itself (R70, R84, R205). -/
def State.routeTicks (s : State) (x n : Nat) (r : Route) : List Nat :=
  match r.src with
  | some ⟨2, k, _⟩ => if ctxFwd s.dict.vals x = 1 ∨ s.isAlnSlot n k then [n] else s.carriedTicks n
  | _ => if ctxFwd s.dict.vals x = 1 then [n] else s.carriedTicks n

/-- Samples of an egress channel: PROCESSED from tick `n` behind the alignment, REPACK from the gather bank of tick `n`. -/
def State.egressChannel (s : State) (x c n : Nat) : List Int :=
  if s.csw.hidden.contains (.channel x c) then zeros s.spt else
  s.consumerTick (.egress x c) n (if ctxFwd s.dict.vals x = 1 then s.srcTick n else s.alignedTick n)

/-- Whether a context has a channel that selects a signal without an entry in tick `n` (R78). -/
def State.lacksSource (s : State) (x n : Nat) : Bool :=
  (List.range (ctxNch s.dict.vals x)).any fun c =>
    match (s.csw.routeAt (.egress x c) n).bind (·.sig) with
    | some g => (s.subIn (s.conf n) g).isNone
    | none => false

/-! ### AES3 side bytes in repack (R86) -/

/-- The one source a channel carries alone at sample `k` of tick `n`. -/
def State.soleSource (s : State) (x c n k : Nat) : Option Src :=
  match s.csw.fadeAt (.egress x c) s.spt n with
  | none => (s.csw.routeAt (.egress x c) n).bind (s.routeSrc n)
  | some f => if f.len ≤ (n - f.first) * s.spt + k then s.routeSrc n f.new else none

/-- The subframe passed unchanged at sample `k`: an FMT 3 source that is present and carried alone. -/
def State.passedSubframe (s : State) (x c n k : Nat) : Option (List Byte) :=
  match s.soleSource x c n k with
  | some ⟨0, i, ch⟩ =>
    if s.isPresent n i then
      match tfind s.csw.gather (bankKey n i) with
      | some d =>
        if d.side.isEmpty then none
        else
          let j := k * d.nch + ch
          some (beBytes 4 ((BitVec.ofInt 32 (at? 0 d.samples j)).toNat / 256 * 256 + at? 0 d.side j))
      | none => none
    else none
  | _ => none

/-- One sample on the wire. -/
def State.wireSample (s : State) (x c n k label : Nat) (y : Int) : List Byte :=
  let v := s.dict.vals
  let built := toWire (ctxFmt v x) (ctlBit v x 11) c label (cfgB v (0x2000 + x) 25 0) y
  if ctxFwd v x = 1 ∧ ctxFmt v x = 3 then (s.passedSubframe x c n k).getD built else built

/-- The payload of a context for tick `n`, labelled from sample `label` on, one list of bytes for each sample (R49). -/
def State.payloadRows (s : State) (x n label : Nat) : List (List Byte) :=
  let chans := (List.range (ctxNch s.dict.vals x)).map fun c => (c, s.egressChannel x c n)
  (List.range s.spt).map fun k => chans.flatMap fun p => s.wireSample x p.1 n k (label + k) (at? 0 p.2 k)

/-! ### Silence map (R64, R67, R205) -/

def bitsByte : List Bool → Nat → Nat
  | [], _ => 0
  | b :: t, w => b2n b * w + bitsByte t (w / 2)

/-- Bits in bytes, the first bit in bit 7; `n` bytes. -/
def packBits : Nat → List Bool → List Byte
  | 0, _ => []
  | n + 1, l => b8 (bitsByte (l.take 8) 128) :: packBits n (l.drop 8)

/-- The channels of a context marked silent in the frame of tick `n`. -/
def State.silentBits (s : State) (x n : Nat) : List Bool :=
  (List.range (ctxNch s.dict.vals x)).map fun c => s.channelSilent (.egress x c) n (s.routeTicks x n)

def smapBody (bits : List Bool) : List Byte := packBits (8 * ceilDiv bits.length 64) bits

/-- The SILENCE_MAP tag: OFFSET 0 and BCAST (R67). -/
def smapTag (bits : List Bool) : List Byte :=
  [0x04, b8 (1 + ceilDiv bits.length 64), 0, 0, 0, 0, 0x02, 0] ++ smapBody bits

/-! ### Frames of a stage -/

/-- RTP packing (R74): the rows of a tick join the samples since the last packet boundary; full packets leave. -/
def rtpPack (p : Nat) : List (List Byte) → Nat → List Byte → Nat → List (Nat × List Byte) → List (Nat × List Byte) × List Byte
  | [], _, buf, _, out => (out, buf)
  | r :: t, q, buf, size, out =>
    let b := buf ++ r
    if (q + 1) % p = 0 then rtpPack p t (q + 1) [] size (if b.length = size then out ++ [(q + 1 - p, b)] else out)
    else rtpPack p t (q + 1) b size out

/-- Buffered RTP bytes as the context keeps them. -/
def bytesInts (l : List Byte) : List Int := l.map fun b => (b.toNat : Int)
def intsBytes (l : List Int) : List Byte := l.map fun i => b8 i.toNat

/-- A context forms its output of the stage from tick `n`, labelled tick `label` (R43, R74, R84). -/
def State.formCtx (s : State) (x n label : Nat) : State × StageOut :=
  let v := s.dict.vals
  let rows := s.payloadRows x n (label * s.spt)
  let s1 := if s.lacksSource x n then s.count x 17 else s
  if ctxMode v x = 2 then
    let p := rtpSamples s.fs (ctxN v x 17)
    let size := p * ctxNch v x * fmtSize (ctxFmt v x)
    let (pk, buf) := rtpPack p rows (label * s.spt) (intsBytes (s.ctx x).rtpBuf) size []
    (s1.setCtx x fun c => { c with rtpBuf := bytesInts buf },
      { ctx := x, label := label, packets := pk, lynx := pk.flatMap (·.2) })
  else
    let bits := s.silentBits x n
    let silent := bits.all id
    let smap := ctlBit v x 12
    let pay := rows.flatten
    (s1, { ctx := x, label := label, silent := silent, tags := if smap then smapTag bits else [], payload := pay
           lynx := pay ++ [b8 (b2n silent)] ++ (if smap then smapBody bits else []) })

/-- A context whose descriptor or address entry an uncorrectable word hides (R427). -/
def State.ctxHidden (s : State) (x : Nat) : Bool :=
  s.csw.hidden.contains (.context x) || s.csw.hidden.contains (.address (ctxN s.dict.vals x 11))

/-- The outputs of the contexts with a forwarding mode. -/
def State.formAll (s : State) (fwd n label : Nat) : State × List StageOut :=
  ((egressCtxs s.dict.vals).filter fun x => ctxMode s.dict.vals x != 1 && ctxFwd s.dict.vals x == fwd && !(s.ctxHidden x)).foldl
    (fun (p : State × List StageOut) x => let (s1, o) := p.1.formCtx x n label; (s1, p.2 ++ [o])) (s, [])

def insertStage (o : StageOut) : List StageOut → List StageOut
  | [] => [o]
  | y :: t => if o.ctx ≤ y.ctx then o :: y :: t else y :: insertStage o t

/-- Ascending order of context numbers (R43). -/
def sortStage : List StageOut → List StageOut
  | [] => []
  | o :: t => insertStage o (sortStage t)

/-- The frames of one output leave. -/
def State.sendOut (fence : Bool) (epoch : Nat) (s : State) (o : StageOut) : State :=
  let v := s.dict.vals
  if ctxMode v o.ctx = 2 then
    foldS (fun (s : State) p =>
      let ts := (p.1 + ctxN v o.ctx 24) % 2 ^ 32
      s.sendFrame o.ctx p.2.length fun q b => .rtp o.ctx b ts q p.2 (s.encap o.ctx b q (rtpHead v o.ctx ts q ++ p.2))) s o.packets
  else if !(s.keyServes o.ctx o.label (o.label % 2 ^ 32)) then s
  else
    let wire (q : Nat) (b : Bool) : List Byte :=
      let head := s.kapoHead o.ctx epoch o.label q (o.label * s.spt) o.silent fence false (o.tags.length / 8)
      s.encap o.ctx b q (s.kapoBytes o.ctx o.label head o.tags o.payload)
    (s.sendFrame o.ctx (o.tags.length + o.payload.length) fun q b =>
      .kapo o.ctx b epoch (o.label % 2 ^ 32) q o.silent fence (txKey v o.ctx) o.tags o.payload (wire q b)).keyUse o.ctx o.label (o.label % 2 ^ 32)

/-! ### TDM words (R84, R600, log 17) -/

/-- Slots of a TDM port: 16, or 8 at 176.4 and 192 kHz. -/
def State.tdmSlots (s : State) : Nat := if 96000 < s.fs then 8 else 16

/-- The samples of a TDM output slot: those of tick `n`, or DP's with the labels of tick `d` (R43, R195). -/
def State.tdmSlotTick (s : State) (n d port slot : Nat) : List Int :=
  let g := s.cfg 0x10001 1 (port * 16 + slot)
  if g = 0xFFFFFFFF then zeros s.spt else
    match s.sub g with
    | some ⟨4, c, _⟩ => (List.range s.spt).map fun k => s.dpOutAt c (d * s.spt + k)
    | r => s.alignedTick n r

/-- The words of a port for one sample of tick `n`, slot order; they leave under the label of tick `n` + 2 (R43). -/
def State.tdmWords (s : State) (n port k : Nat) : List Int :=
  (List.range s.tdmSlots).map fun sl => at? 0 (s.tdmSlotTick n (n + 2) port sl) k

/-- The TDM bytes a Lynx CRC covers: slot words of each sample, big-endian (R348).  DP's words are those whose labels lie in the stage's tick,
which a SHADOW has too (R345, log 165). -/
def State.tdmLynx (s : State) (n port : Nat) : List Byte :=
  let slots := (List.range s.tdmSlots).map fun sl => s.tdmSlotTick n n port sl
  (List.range s.spt).flatMap fun k => slots.flatMap fun xs => intBytes 4 (at? 0 xs k)

/-! ### Lynx CRCs (R348) -/

/-- Payloads of a direct context whose labels lie in a tick, in sample order. -/
def State.directLynx (s : State) (x tick : Nat) : List Byte :=
  (List.range s.spt).flatMap fun k =>
    match s.csw.dirTx.find? fun e => e.1 == x && e.2.1 == tick * s.spt + k with
    | some e => e.2.2
    | none => []

/-- The CRCs of the stage of tick `n`; of direct contexts, over the frames whose labels lie in that tick, which a SHADOW has formed too (R345). -/
def State.lynxCrcs (s : State) (outs : List StageOut) (n : Nat) : List Word :=
  ((egressCtxs s.dict.vals).map fun x =>
    if ctxMode s.dict.vals x = 1 then crc32c (s.directLynx x n)
    else if ctxFwd s.dict.vals x = 2 then 0
    else match outs.find? fun o => o.ctx == x with | some o => crc32c o.lynx | none => 0) ++
  (List.range 16).map fun p => crc32c (s.tdmLynx n p)

end Sys2Proof.Machine
end

