-- ==== Sys2Proof/Machine/Pairing.lean ====
section
/-! DEFINITION. The pair at a tick boundary: who may emit, fencing, impairment, Lynx outcomes, rejoin requests (R324-R333, R344,
R346, R349, R350, R353). -/

namespace Sys2Proof.Machine

def State.modPair (s : State) (f : Pair → Pair) : State := { s with pair := f s.pair }

/-- Pairing is configured (R324, R361). -/
def State.paired (s : State) : Bool := s.cfgOn 0xB000 1

/-- A free number of `n` bits. -/
def State.freeBits (s : State) (u : Config.Use) (n : Nat) : State × Nat :=
  (s.fresh, (Config.free64 u s.freeCtr 0).toNat % 2 ^ n)

/-- The conditions under which a paired ACTIVE starts the EMIT stage at boundary `b` (R330), or a taker continues (R331). -/
def Pair.mayEmit (p : Pair) (b : Nat) : Bool :=
  let lease := match p.lease with | some (k, e) => decide (b ≤ k + 1) && decide (b < e) | none => false
  let status := match p.status with | some (k, stby, take) => k + 1 == b && !stby && !take | none => false
  let alone := match p.lastSync with | some k => decide (k + 64 < b) | none => true
  if p.prov then (match p.standbyRx with | some (k, _) => decide (b ≤ k + 1) | none => false) || p.grant.isSome
  else lease || status || alone

/-! ### Owl messages as they leave (R337, R338) -/

/-- The header of an Owl message. -/
def owlBytes (ty pair sender epoch tick e arg : Nat) : List Byte :=
  [1, b8 ty] ++ beBytes 2 pair ++ beBytes 2 sender ++ beBytes 2 epoch ++ beBytes 8 tick ++ beBytes 8 e ++ beBytes 8 arg

/-- The networks of the engine: both where a context of its own is merged from two (log 202). -/
def State.networks (s : State) : List Bool := if (validCtxs s.dict.vals).any (ctxMerge s.dict.vals) then [false, true] else [false]

/-- The datagrams of an Owl message: one on each network of the engine. -/
def State.owlMail (s : State) (pair ty dst epoch e arg : Nat) (body : List Byte) : List Emission :=
  s.networks.map fun b => .owl b dst (s.cfg 0xB000 11) (owlBytes ty pair (s.cfg 0x0000 6) epoch s.time.tick e arg ++ body)

/-- An Owl message leaves. -/
def State.sendOwl (s : State) (pair ty dst epoch e arg : Nat) (body : List Byte) : State :=
  { s with sent := s.sent ++ s.owlMail pair ty dst epoch e arg body }

/-- A message of this engine to its Owl, under its own EPOCH. -/
def State.toOwl (s : State) (ty e arg : Nat) : State := s.sendOwl Config.pairNumber ty (s.cfg 0xB000 3) s.pair.epoch e arg []

/-! ### EPOCHs (R327) -/

/-- The EPOCH after another (R327): never 0. -/
def nextEpoch (e : Nat) : Nat := if (e + 1) % 65536 = 0 then 1 else (e + 1) % 65536

/-- The higher of two EPOCHs; 0 is none. -/
def maxEpoch (a b : Nat) : Nat := if b = 0 then a else if a = 0 then b else if epochAbove a b then a else b

/-- An EPOCH is not older than another; 0 is none. -/
def epochFresh (a b : Nat) : Bool := b == 0 || decide (0 ≤ sdiff16 a b)

/-- The EPOCH of a token has been seen. -/
def Pair.saw (p : Pair) (e : Nat) : Pair := { p with epochSeen := maxEpoch e p.epochSeen }

/-! ### Fencing and entry to service -/

/-- The engine fences at boundary `b` (R30, R330): no EMIT stage from `b` on, and a FENCE record to the partner. -/
def State.fence (s : State) (b : Nat) (note : Bool) : State :=
  let s1 := s.modPair fun p => { p with fenced := true, handoverAt := none, prov := false }
  let s2 := if s.pair.role = 0 then s1 else s1.sendMirror 1 7 b []
  if note then s2.raiseT blkPair 0x1A .c else s2

/-- OWNED, time-locked and configured (R568). -/
def State.serviceReady (s : State) : Bool := s.sec.life == 1 && s.top.timeLocked && s.top.cfgReady

/-- Entry to Noon (R28, R571, R353) with a role. -/
def State.enterNoon (s : State) (role : Nat) : State :=
  (s.enter .noon 4).modPair fun p => { p with role := role }

/-- A class F event at its boundary (R28-R30, R479). -/
def State.classFBoundary (s : State) (b : Nat) : State :=
  if !s.top.classF then s else
  let s1 := s.modTop fun t => { t with classF := false, leaveAt := none }
  match s.top.state with
  | .noon => (if s.pair.role = 2 then s1 else s1.fence b false).enter .dusk 5
  | .morning | .dawn => s1.enterNight 5
  | .dusk | .night => s1

/-- A leave command at its boundary (R28, R573). -/
def State.leaveBoundary (s : State) (b : Nat) : State :=
  match s.top.leaveAt with
  | none => s
  | some a =>
    if b < a then s else
    let s1 := s.modTop fun t => { t with leaveAt := none }
    match s.top.state with
    | .noon => s1.enter .dusk 6
    | .morning => s1.enterNight 6
    | _ => s1

/-- An engine that holds a GRANT becomes ACTIVE: from Morning when it may start an EMIT stage (R571), as SHADOW at the boundary the
GRANT names (R336). -/
def State.grantBoundary (s : State) (b : Nat) : State :=
  match s.pair.grant with
  | none => s
  | some (e, h) =>
    if s.top.state = .morning ∧ s.serviceReady ∧ s.paired ∧ s.pair.mayEmit b then
      (s.enterNoon 1).modPair fun p => { p with epoch := e, grant := none }
    else if s.top.state = .noon ∧ s.pair.role = 2 ∧ h ≠ 0 ∧ h ≤ b then
      s.dropStaged.modPair fun p => { p with role := 1, epoch := e, inSync := false, grant := none }
    else s

/-- The gate of R330, R331 and R336 at boundary `b`: an ACTIVE that may not emit, or whose handover boundary this is, fences and
enters Dusk. -/
def State.gateBoundary (s : State) (b : Nat) : State :=
  if s.pair.role ≠ 1 ∨ s.pair.fenced ∨ (s.top.state ≠ .noon ∧ s.top.state ≠ .dusk) then s
  else if s.pair.handoverAt.any (· ≤ b) then
    let s1 := s.fence b true
    if s.top.state = .noon then s1.enter .dusk 6 else s1
  else if s.pair.mayEmit b then s
  else
    let s1 := s.fence b true
    if s.top.state = .noon then let (s2, c) := s1.freeBits .measured 4; s2.enter .dusk c else s1

/-- A boundary after ticks have ended (Night) takes no further action. -/
def State.ticking (s : State) : Bool := s.time.running

/-! ### Impairment and lost commits (R344, R346) -/

/-- The SHADOW is impaired for tick `n` at the start of its PROCESS (R344). -/
def Pair.impairedFor (p : Pair) (n : Nat) : Bool :=
  !(p.verdicts.any fun v => v.tick == n) || !(p.tdmRec.contains n) || (p.asked.any fun a => a.1 == n && !(p.repaired.contains a))

/-- Ticks of a list among the last 64 before and at `t`. -/
def last64 (l : List Nat) (t : Nat) : List Nat := l.filter fun x => decide (t < x + 64)

def State.impairCheck (s : State) (t n : Nat) : State :=
  if s.pair.role ≠ 2 ∨ s.top.state ≠ .noon then s else
  let old := last64 s.pair.impTicks t
  if !(s.pair.impairedFor n) then s.modPair fun p => { p with impTicks := old }
  else
    let now := t :: old
    let s1 := (s.modPair fun p => { p with impTicks := now, impTotal := stopAt 0xFFFF p.impTotal 1 }).modTop fun x => x.fault t
    if old.length < 8 ∧ 8 ≤ now.length then s1.raiseT blkPair 0x13 .u else s1

/-- A SHADOW leaves service to rejoin: Dusk at the next boundary, as for a leave command (R350, R346, R573). -/
def State.toRejoin (s : State) : State :=
  (s.modPair fun p => { p with inSync := false }).modTop fun t =>
    if t.state = .noon then { t with leaveAt := some (s.time.tick + 1) } else t

def State.commitCheck (s : State) (n : Nat) : State :=
  if s.pair.role ≠ 2 ∨ s.top.state ≠ .noon ∨ s.pair.commitRec.contains n ∨ !s.pair.inSync then s
  else (s.raiseT blkPair 0x14 .u).toRejoin

/-! ### Lynx (R349, R350) -/

/-- Position of the first difference of two lists of CRCs. -/
def firstDiff : List Word → List Word → Nat → Nat
  | a :: as, b :: bs, i => if a = b then firstDiff as bs (i + 1) else i
  | _, _, i => i

/-- A Lynx outcome of the tick of an output label: 0 MATCH, 1 MISMATCH, 2 ABSENT. -/
def Pair.outcome (p : Pair) (label o : Nat) : Pair :=
  { p with
    lynxLabel := label
    lynxHist := (o :: p.lynxHist).take 64, streak := if o = 0 then stopAt 0xFFFF p.streak 1 else 0
    mism := if o = 1 then stopAt 0xFFFF p.mism 1 else p.mism, matchRun := if o = 0 then p.matchRun + 1 else 0 }

/-- Mismatches raise events: not those of a rejoin, which an ACTIVE tells by its partner's last STATUS and JOIN (R350). -/
def State.lynxCounts (s : State) : Bool := s.top.state != .morning && (s.pair.role != 1 || s.pair.mateSync)

/-- Both records of a label are there: PAIR compares (R349); a mismatch in service raises LYNX_DIVERGE, whose detail names the
lowest mismatching context (R350). -/
def State.lynxCompare (s : State) (label : Nat) : State :=
  match tfind s.pair.lynxOwn label, tfind s.pair.lynxGot label with
  | some a, some b =>
    let done (p : Pair) : Pair := { p with lynxOwn := tdel p.lynxOwn label, lynxGot := tdel p.lynxGot label }
    if a = b then s.modPair fun p => (done p).outcome label 0
    else
      let s1 := s.modPair fun p => (done p).outcome label 1
      if !s.lynxCounts then s1
      else match (egressCtxs s.dict.vals)[firstDiff a b 0]? with
        | some x => s1.raise blkPair 0x15 .c x
        | none => s1.raiseT blkPair 0x15 .c
  | _, _ => s

/-- The engine takes part in Lynx: in service as one of a pair, or matching during a rejoin (R348, R353). -/
def State.lynxOn (s : State) : Bool := s.pair.role != 0 || s.pair.caught

/-- The stage's own record goes out and is compared (R348, R349). -/
def State.lynxStage (s : State) (outs : List StageOut) (n label : Nat) : State :=
  if !s.lynxOn then s else
  let cs := s.lynxCrcs outs n
  ((s.modPair fun p => { p with lynxOwn := tset p.lynxOwn label cs }).sendMirror 1 8 label (cs.flatMap fun w => beBytes 4 w.toNat)).lynxCompare label

/-! ### Rejoin request and capture (R353, R571) -/

/-- STATE cells and noise of a work set, lane by lane, in its owner. -/
def State.wsSnap (s : State) (w : Nat) : WsSnap :=
  match s.owner w with
  | none => ⟨[]⟩
  | some n =>
    let rs := (s.workSet w).img.state
    ⟨(s.cluster n).lanes.map fun l => (l.lmem.filter fun c => rs.any fun r => decide (r.1 ≤ c.1) && decide (c.1 < r.1 + r.2), l.noise)⟩

/-- What PAIR.ROLE shows from a boundary on (R357). -/
def Pair.look (p : Pair) : Pair :=
  { p with seen := { role := p.role, prov := p.prov, fenced := p.fenced, standby := p.standby, noOwl := p.noOwl, inSync := p.inSync
                     rejoin := p.rejoin, epoch := p.epoch } }

/-- The digests of the images of the work sets. -/
def State.imageDigests (s : State) : List Nat := (List.range 8).map fun w => (s.workSet w).img.digest

/-- The capture at snapshot point `n`: pair-wide values, work sets, the fixed units, Fox, ALN and the epoch table. -/
def State.takeSnap (s : State) (n : Nat) : Snap :=
  { tick := n, vals := s.dict.vals.filter fun e => pairWide (e.1 / 16777216) (e.1 / 65536 % 256)
    ws := (List.range 8).map fun w => (w, s.wsSnap w), buses := s.mix.buses, dyn := s.dyn.insts, dp := s.dp.ch, dpDone := s.dp.done, det := s.sil.det
    silLog := s.sil.log, mon := s.sil.mon, routes := s.csw.routes, fades := s.csw.fades, foxPast := s.csw.foxPast, fadeQ := s.csw.fadeQ
    foxLast := s.csw.foxLast, aln := s.aln.outs
    epochs := s.csw.ctx.filterMap fun e => e.2.epochCur.map fun x => (e.1, x), digests := s.imageDigests }

/-- An ACTIVE that has named the point captures between PROCESS of tick n - 1 and PROCESS of tick n. -/
def State.captureAt (s : State) (n : Nat) : State :=
  if s.pair.capturing = some n then s.modPair fun p => { p with snap := some (s.takeSnap n) } else s

/-- A joining engine keeps the commits of the mirror until it catches up. -/
def State.holdsCommits (s : State) : Bool := s.pair.joinS.isSome && !s.pair.caught

/-- A JOIN record of this engine (R324, R353): a request, or an answer that names the snapshot point. -/
def State.joinRec (s : State) (p : Option Nat) : JoinRec :=
  { s := p, engine := s.cfg 0x0000 6, partner := s.cfg 0xB000 2, owl := s.cfg 0xB000 3, fs := s.fs, spt := s.spt, cutoff := s.cfg 0x1000 3
    digests := s.imageDigests }

/-- A JOIN record leaves: 24 bytes and the digests (log 201). -/
def State.sendJoin (s : State) (p : Option Nat) : State :=
  let j := s.joinRec p
  s.sendRecord 1 9 s.time.tick (24 + 32 * j.digests.length) fun _ _ _ => .join j

/-- A paired engine in Morning that is ready and hears an ACTIVE partner asks to join (R353 REQUEST), unless the pair was refused (R324). -/
def State.tryJoin (s : State) : State :=
  if s.top.state = .morning ∧ s.serviceReady ∧ s.paired ∧ s.pair.rejoin = 0 ∧ s.pair.grant = none ∧ s.pair.beacon.isSome ∧ !s.pair.refused then
    (s.modPair fun p => { p with rejoin := 1 }).sendJoin none
  else s

/-! ### The limits of the pair's paths (R333) -/

/-- L_M in 10 ns keeps its limits. -/
def State.lmOk (s : State) (lm : Nat) : Bool :=
  let t := s.spt * 1000000000
  let cut := s.cfg 0x1000 3
  decide (lm * 10 + 1500 ≤ beaconWait s.dict.vals) && decide ((lm * 10 + 2000) * 100 * s.fs ≤ t * cut) &&
    decide ((2 * (lm * 10) + 3000) * 100 * s.fs + t * cut ≤ t * 100)

/-- L_O in 10 ns keeps its limit. -/
def State.loOk (s : State) (lo : Nat) : Bool := decide ((lo * 10 + 1000) * 4 * s.fs ≤ s.spt * 1000000000)

/-- σ in ns keeps its limit. -/
def skewOk (skew : Nat) : Bool := decide (skew ≤ 1000)

/-- PAIR_TIMING (R333): a limit exceeded for 16 consecutive ticks; the latencies of the tick join their histories (R358). -/
def State.timingStep (s : State) (e : TickOps) : State :=
  if !s.paired then s else
  let run := if s.lmOk e.lm && s.loOk e.lo && skewOk e.skew then 0 else s.pair.timingRun + 1
  let s1 := s.modPair fun p => { p with lm := (e.lm :: p.lm).take 16, lo := (e.lo :: p.lo).take 16, skew := e.skew, timingRun := run }
  if run = 16 then s1.raiseT blkPair 0x11 .u else s1

end Sys2Proof.Machine
end

