-- ==== Sys2Proof/Machine/Ticks.lean ====
section
/-! DEFINITION. The tick event and the stages it starts (R16, R19-R24, R37-R43, R84, R125, R130, R133, R325-R331, R573). -/

namespace Sys2Proof.Machine

/-! ### The counter (R38, R285) -/

def State.modTime (s : State) (f : Time → Time) : State := { s with time := f s.time }

/-- The number of units of 2^-32 ns at which tick `t` starts, rounded up (R37, R38, R285). -/
def State.tickStart (s : State) (t : Nat) : Nat := ceilDiv (t * s.spt * 1000000000 * 2 ^ 32) s.fs

/-- The tick number that a counter value gives, 48 bits (R38, R39). -/
def State.tickOf (s : State) (counter : Nat) : Nat := counter * s.fs / (s.spt * 1000000000 * 2 ^ 32) % 2 ^ 48

/-- The effective increment of a time-clock cycle, 40 bits of units of 2^-32 ns (R285). -/
def Time.incEff (t : Time) : Nat := (((t.inc : Int) + t.corr) % 2 ^ 40).toNat

/-- The first value of the counter, which counts in steps of the effective increment, that is not below `goal` (R285). -/
def Time.countTo (t : Time) (goal : Nat) : Nat :=
  if t.counter < goal then (t.counter + ceilDiv (goal - t.counter) t.incEff * t.incEff) % 2 ^ 96 else t.counter

/-- Time passes before a command: the counter adds the effective increment on a number of cycles that is free, short of the start of the next
tick while ticks run (R285, log 13). -/
def State.elapse (s : State) : State :=
  let k := (Config.free64 .measured s.freeCtr 0).toNat
  let d := if s.time.running then k % ((s.tickStart (s.time.tick + 1) - 1 - s.time.counter) / s.time.incEff + 1) else k
  s.fresh.modTime fun t => { t with counter := (t.counter + d * t.incEff) % 2 ^ 96 }

/-- Whole ns of the time counter at a command (R285). -/
def State.nowNs (s : State) : Nat := s.elapse.time.counter / 2 ^ 32

/-! ### Islands and their 4-bit numbers (R16, R19, R20) -/

/-- Every island: one for each block but TDM, which has one for each port, a second one for DYN, and one for each Vesper core (R16). -/
def allIslands : List Nat := allBlocks.filter (· != blkTdm) ++ islDyn1 :: islCtl 0 :: islCtl 1 :: (List.range 16).map islTdm

/-- The islands that receive tick events: those whose domain is on. -/
def State.islands (s : State) : List Nat :=
  allIslands.filter fun i => match islandDomain i with | none => true | some d => bitAt s.pwr.on d

/-- The number in an island's tick event: the tick's own, or one that the command names. -/
def received (t : Nat) (errs : List (Nat × Nat)) (i : Nat) : Nat :=
  (match errs.find? fun e => e.1 == i with | some e => e.2 | none => t) % 16

/-- The number is not one more than the island's last one (R20). -/
def outOfSequence (last : Tab Nat) (t : Nat) (errs : List (Nat × Nat)) (i : Nat) : Bool :=
  match tfind last i with
  | some p => received t errs i != (p + 1) % 16
  | none => false

/-- The tick event comes at the first cycle at which the counter has reached the start of tick `t`; the counter gives the tick its number (R38,
R285). -/
def State.advance (s : State) (t : Nat) : State :=
  let c := s.time.countTo (s.tickStart t)
  { s with
    time := { s.time with tick := s.tickOf c, ticked := true, counter := c }
    dp := { s.dp with limAct := s.dp.limNow, limNow := 0 }
    top := { s.top with duskTicks := if s.top.state = .dusk then s.top.duskTicks + 1 else s.top.duskTicks } }

/-- Every island notes the number it received. -/
def State.noteNumbers (s : State) (errs : List (Nat × Nat)) : State :=
  { s with time := { s.time with last := s.islands.map fun i => (i, received s.time.tick errs i) } }

/-- The transitions a boundary brings, in the order of R29; those of the pair only where PAIR takes part (R20). -/
def State.boundary (s : State) (t : Nat) (skip : List Nat) : State :=
  let s1 := (s.classFBoundary t).leaveBoundary t
  if skip.contains blkPair then s1 else (s1.grantBoundary t).gateBoundary t

/-! ### EMIT -/

/-- The frames of a stage carry FENCE: the last stage before the boundary of a handover (R336). -/
def State.lastStage (s : State) (t : Nat) : Bool := s.pair.handoverAt == some (t + 1)

/-- SEQ of the frames that a CSW reset keeps back still counts up (R617, R58). -/
def State.seqOnly (s : State) (outs : List StageOut) : State :=
  foldS (fun (s : State) (o : StageOut) => s.skipSeq o.ctx (if ctxMode s.dict.vals o.ctx = 2 then o.packets.length else 1)) s outs

/-- The EMIT stage of boundary `t` once its outputs are formed: frames leave, or a SHADOW holds them back; an ACTIVE sends BEACON
(R43, R325, R331); Lynx (R349). -/
def State.emitStage (s : State) (t : Nat) (outs : List StageOut) (skip : List Nat) : State :=
  let s1 :=
    if skip.contains blkCsw then s
    else if s.emitting then
      let s1 := foldS (State.sendOut (s.lastStage t) s.sendEpoch) s outs
      if s.pair.role = 1 ∧ !skip.contains blkPair then s1.sendMirror 1 5 t [] else s1
    else if s.pair.role = 2 then s.modPair fun p => { p with held := outs, heldAt := t }
    else if s.onAir then s.seqOnly outs
    else s
  if skip.contains blkPair then s1 else s1.lynxStage outs (t - 3) (t - 1)

/-- The outputs of a stage, unless CSW takes no action (R20). -/
def State.formUnless (s : State) (skip : List Nat) (fwd n label : Nat) : State × List StageOut :=
  if skip.contains blkCsw then (s, []) else s.formAll fwd n label

/-! ### What later steps no longer read -/

/-- Routes without those that later ones have replaced since before tick `lo`. -/
def pruneRoutes (lo : Nat) : List (Consumer × Nat × Option Route) → List Consumer → List (Consumer × Nat × Option Route)
  | [], _ => []
  | e :: t, seen =>
    if lo < e.2.1 then e :: pruneRoutes lo t seen
    else if seen.contains e.1 then pruneRoutes lo t seen
    else if e.2.2.isNone then pruneRoutes lo t (e.1 :: seen)
    else e :: pruneRoutes lo t (e.1 :: seen)

/-- Banks, samples and records that no later step reads are dropped; a joining engine keeps what it has to process (R353).  Copies that twins
are told by stay, as a twin is MERGED whenever it arrives (R95), and so do the verdicts and drops that runs are counted by, however late a frame
comes (R47). -/
def State.prune (s : State) (t : Nat) : State :=
  let lo := match s.pair.joinS with | some j => if j < t - 8 then j - 8 else t - 8 | none => t - 8
  let keep (k : Nat) : Bool := decide (lo ≤ k)
  let c := s.csw
  { s with
    csw := { c with
      gather := c.gather.filter fun e => keep (e.1 / 8192)
      out := c.out.filter fun e => keep (e.1 / 8192), alnKeys := c.alnKeys.filter fun e => keep (e / 8192), direct := c.direct.filter fun h => keep (h.sample / s.spt)
      directBits := c.directBits.filter fun h => keep h.1, dirTx := c.dirTx.filter fun h => keep (h.2.1 / s.spt)
      routes := pruneRoutes lo c.routes [], foxPast := c.foxPast.filter fun f => keep (f.lastTick s.spt)
      ctx := c.ctx.map fun e => (e.1, { e.2 with
        inForce := e.2.inForce.filter fun f => keep f.tick, rtp := e.2.rtp.filter fun f => keep f.tick
        silence := e.2.silence.filter fun f => keep f.1 }) }
    sil := { s.sil with log := s.sil.log.filter fun e => keep e.2.1 }
    pair := { s.pair with
      verdicts := s.pair.verdicts.filter fun v => keep v.tick, tdmRec := s.pair.tdmRec.filter keep
      commitRec := s.pair.commitRec.filter keep, asked := s.pair.asked.filter fun a => keep a.1
      repaired := s.pair.repaired.filter fun a => keep a.1 } }

/-! ### The work of a boundary -/

/-- What the pair does before PROCESS of tick `n`: the capture, the impaired tick, the lost commit (R344, R346, R353). -/
def State.pairBefore (s : State) (t n : Nat) (skip : List Nat) : State :=
  if skip.contains blkPair then s else ((s.captureAt n).impairCheck t n).commitCheck n

/-- PROCESS of tick t - 3 ends, and its units that ran past their worst case raise BUDGET (R24, R125); an engine that waits for a capture
runs none (R353). -/
def State.closeProcess (s : State) (e : TickOps) (t : Nat) : State :=
  if s.holdsCommits then s else
  foldS State.overrunBlock (s.endProcess (t - 3) e.late) (e.overrun.filter timedIsland)

/-- A SHADOW makes the decisions of the last cutoff when PROCESS of its tick starts, on the verdicts and samples it has adopted (R176, R206). -/
def State.decideLate (s : State) : State :=
  match s.csw.cutTick with
  | some n => if s.holdsCommits ∨ s.sil.decided = some n then s else s.cutoffDecide n
  | none => s

/-- Route changes and commits at boundary `t` (R41, R98, R270): Fox works for tick `t`, or with the mirror for the tick of PROCESS (R345), and
not while CSW is reset (R617). -/
def State.takeCommits (s : State) (t : Nat) (skip : List Nat) : State :=
  if s.holdsCommits then s else
  let s1 := if skip.contains blkCsw ∨ s.resetting 6 then s else s.foxRun (if s.pair.role = 2 ∨ s.pair.joinS.isSome then t - 2 else t)
  s1.applyDue (t - 2) skip

/-- PROCESS of tick t - 2 starts; islands in `skip` are idle until the next tick event (R20). -/
def State.openProcess (s : State) (t : Nat) (skip : List Nat) : State :=
  if s.holdsCommits then s.modCsw fun c => { c with idle := skip } else s.startProcess (t - 2) skip

/-- What registers show from this boundary on, before PROCESS moves on (R41, R108, R215, R219, R357). -/
def State.look (s : State) : State :=
  { s with
    dyn := { s.dyn with insts := s.dyn.insts.map fun (e : Nat × DynInst) => (e.1, { e.2 with gAt := e.2.g }) }
    sil := { s.sil with atTick := (s.sil.det.filter fun (e : Nat × Detector) => e.2.silent).map (·.1) }
    csw := { s.csw with foxActive := s.csw.fades.length }
    pair := s.pair.look }

/-- What a lost entry of a memory hides is seen again from the next tick on. -/
def State.unhide (s : State) : State := s.modCsw fun c => { c with hidden := [] }

/-- Timing and the wish to join (R333, R353). -/
def State.pairAfter (s : State) (e : TickOps) (skip : List Nat) : State :=
  if skip.contains blkPair then s else (s.timingStep e).tryJoin

/-- A tick event while ticks run (R19): PROCESS of t - 3 ends; EMIT of t - 3 and the repack of t - 2 leave; PROCESS of t - 2 starts with
its commit; the clusters and the pair take their boundary steps.  Islands in `skip` take no stage action (R20). -/
def State.tickWork (e : TickOps) (skip : List Nat) (s : State) : State :=
  let t := s.time.tick
  let (s1, o1) := ((s.decideLate).closeProcess e t).formUnless skip 0 (t - 3) (t - 1)
  let s2 := (s1.pairBefore t (t - 2) skip).takeCommits t skip
  let (s3, o2) := s2.formUnless skip 1 (t - 2) (t - 1)
  let s4 := (s3.emitStage t (sortStage (o1 ++ o2)) skip).clusterBoundary e skip
  (((s4.look.openProcess t skip).unhide).pairAfter e skip).prune t

/-- TICK_SEQ (R20), and for a spare what follows from it (R134). -/
def State.tickSeq (s : State) (i : Nat) : State :=
  let s1 := s.raiseT (islandBlock i) 1 .f
  if isCluster i then s1.spareEvent (i - blkCl 0) else s1

/-- BUDGET, OVERRUN and TICK_SEQ of a spare that takes part in a spare-in end it (R134). -/
def State.spareBudget (e : TickOps) (s : State) : State :=
  foldS (fun (s : State) i => s.spareEvent (i - blkCl 0)) s (e.overrun.filter isCluster)

/-- The tick event (R19, R20, R38, R41, R43), before the actions that its commit starts. -/
def State.tickEvent (e : TickOps) (s : State) : State :=
  let s1 := s.advance e.tick
  let skip := s1.islands.filter (outOfSequence s1.time.last s1.time.tick e.seqErr)
  let s2 := (s1.noteNumbers e.seqErr).boundary s1.time.tick skip
  let s3 := if s2.time.running then (s2.tickWork e skip).spareBudget e else s2
  foldS State.tickSeq s3 (skip.filter s2.islands.contains)

end Sys2Proof.Machine
end

