-- ==== Sys2Proof/Machine/Arrival.lean ====
section
/-! DEFINITION. Accepted frames, arrival verdicts and the cutoff, stream and path events, words through the handshake FIFOs
(R21, R22, R34, R42, R45-R48, R73, R92, R95-R97, R164, R204, R206, R268, R340, R342). -/

namespace Sys2Proof.Machine

/-! ### Gather bank -/

/-- The samples of a context for a tick in the gather bank. -/
def State.gatherPut (s : State) (x tick : Nat) (d : TickData) : State :=
  (s.modCsw fun c => { c with gather := tset c.gather (bankKey tick x) d }).wakeReaders tick 0 x d.samples

/-! ### Media frames of one context and tick (R48) -/

/-- Elements of a set with one of them as it was before. -/
def putBack (r : StagedBy) (l : List EWrite) : List EWrite :=
  (l.filter fun w => !(w.obj == r.obj && w.mem == r.mem && w.elem == r.elem)) ++
    match r.old with | some v => [⟨r.obj, r.mem, r.elem, v⟩] | none => []

/-- Two records of one staged element. -/
def StagedBy.same (a b : StagedBy) : Bool := a.cid == b.cid && a.obj == b.obj && a.mem == b.mem && a.elem == b.elem

/-- The closest later record of an element now stands over what an earlier one stood over. -/
def relink (r : StagedBy) : List StagedBy → List StagedBy
  | [] => []
  | x :: t => if x.same r then { x with old := r.old } :: t else x :: relink r t

/-- Staged writes of a frame are taken back, newest first: what a later tag has replaced stays replaced. -/
def unstageFrame (f : Nat × Nat × Nat) : List StagedBy → List StagedBy → Tab (List EWrite) → List StagedBy × Tab (List EWrite)
  | [], newer, t => (newer.reverse, t)
  | r :: l, newer, t =>
    if r.frame ≠ f then unstageFrame f l (r :: newer) t
    else if newer.any r.same then unstageFrame f l (relink r newer) t
    else unstageFrame f l newer (tmod [] t r.cid (putBack r))

/-- The tags of a frame are withdrawn with it (R48, R60): pending units, staged writes and its silence map. -/
def State.withdrawTags (s : State) (x tick epoch : Nat) : State :=
  let (by', st) := unstageFrame (x, tick, epoch) s.dict.stagedBy [] s.dict.staged
  (s.modDict fun d => { d with
    units := d.units.filter fun u => !(fromTag u && u.ctx == x && u.frame == some (tick, epoch)), staged := st, stagedBy := by' }).setCtx x fun c =>
      { c with silence := c.silence.filter fun e => !(e.1 == tick && e.2.1 == epoch) }

/-- What the tags of a frame did stands once the cutoff of its tick has passed. -/
def State.settleTags (s : State) (n : Nat) : State :=
  let tick (r : StagedBy) : Nat := if ctxMode s.dict.vals r.frame.1 = 1 then r.frame.2.1 / s.spt else r.frame.2.1
  s.modDict fun d => { d with stagedBy := d.stagedBy.filter fun r => decide (n < tick r) }

/-- The frame in force of a context for a tick: the one with the highest EPOCH. -/
def Ctx.inForceAt (c : Ctx) (tick : Nat) : Option InForce := c.inForce.find? fun g => g.tick == tick

/-- An on-time frame meets those accepted for its tick (R48): the first of an EPOCH stays, a higher EPOCH comes into force.  The
flag says that the frame, with its tags, is accepted. -/
def State.acceptFrame (s : State) (x : Nat) (f : InForce) : State × Bool :=
  let put (s : State) (l : List InForce) : State := s.setCtx x fun c => { c with inForce := l }
  let old := (s.ctx x).inForce
  let same := old.filter fun g => g.tick == f.tick
  let rest := old.filter fun g => g.tick != f.tick
  match same with
  | [] => ((put s (f :: old)).gatherPut x f.tick f.data, true)
  | g :: _ =>
    if same.any fun h => h.epoch == f.epoch then (s.count x 4, false)
    else if epochAbove f.epoch g.epoch then
      ((((put s (f :: g :: rest)).withdrawTags x g.tick g.epoch).count x 4).gatherPut x f.tick f.data, true)
    else ((put s (g :: f :: rest)).count x 4, false)

/-- A held frame of the early buffer reaches its bank; with a frame that loses there, its tags go. -/
def State.release (x : Nat) (s : State) (f : InForce) : State :=
  let (s1, ok) := s.acceptFrame x f
  if ok then s1 else s1.withdrawTags x f.tick f.epoch

/-- EARLY_RELEASE (R46): at the start of tick c + 1, the frame held for tick c is written into its gather bank. -/
def execEarlyRelease (ctx : Nat) (s : State) : Out :=
  let s0 := s.quiet
  let due := (s0.ctx ctx).early.filter fun f => decide (f.tick < s0.time.tick)
  let s1 := s0.setCtx ctx fun c => { c with early := c.early.filter fun f => decide (s0.time.tick ≤ f.tick) }
  .next (foldS (State.release ctx) s1 due)

/-! ### The cutoff instant (R42, R45) -/

/-- Nothing that arrives at `arrival` (ps) counts for tick `n` any more: the cutoff has been, or its instant is not after the arrival. -/
def State.pastCutoff (s : State) (n arrival : Nat) : Bool :=
  (match s.csw.cutTick with | some c => decide (n ≤ c) | none => false) ||
    decide (((n + 1) * 100 + s.cfg 0x1000 3) * s.spt * 1000000000000 ≤ arrival * s.fs * 100)

/-! ### Verdicts (R47) -/

/-- An RTP context has every sample of a tick (R73). -/
def rtpComplete (spt : Nat) (t : RtpTick) : Bool := (List.range spt).all fun p => (tfind t.got p).isSome

/-- The engine's own verdict. -/
def State.ownPresent (s : State) (x n : Nat) : Bool :=
  if ctxMode s.dict.vals x = 2 then ((s.ctx x).rtp.any fun t => t.tick == n && rtpComplete s.spt t)
  else ((s.ctx x).inForceAt n).isSome

/-- The copies of a tick that arrived on each network: (A, B).  A copy counts as arrived if it came within the window of its tick (log 190). -/
def Ctx.copiesAt (c : Ctx) (n : Nat) : Bool × Bool :=
  let l := c.copies.filter fun k => k.tick == n && !k.late
  (l.any fun k => !k.netB, l.any fun k => k.netB)

/-- The path counts of a MERGE context at a cutoff (R97): ticks with only one network's copy, and with both.  A tick with neither ends both runs
of a Kapo context; for RTP, whose packets need not fall into every tick, it leaves them (log 190). -/
def State.pathStep (s : State) (x n : Nat) : State :=
  if !(ctxMerge s.dict.vals x) then s else
  let (a, b) := (s.ctx x).copiesAt n
  if a ∧ b then s.setCtx x fun c => { c with missA := 0, missB := 0, both := c.both + 1 }
  else if b then (s.setCtx x fun c => { c with missA := c.missA + 1, missB := 0, both := 0 }).count x 19
  else if a then (s.setCtx x fun c => { c with missB := c.missB + 1, missA := 0, both := 0 }).count x 20
  else if ctxMode s.dict.vals x = 2 then s
  else s.setCtx x fun c => { c with missA := 0, missB := 0, both := 0 }

/-- The tick-stream and RTP ingress contexts. -/
def gatherCtxs (v : Tab Val) : List Nat := (ingressCtxs v).filter fun x => ctxMode v x != 1

/-- The engine tracks EPOCHs by the VERDICT records of its ACTIVE (R343): a SHADOW, or an engine that joins. -/
def State.followsVerdicts (s : State) : Bool := s.pair.role == 2 || s.pair.joinS.isSome

/-- The verdict of one context: FRAMES or MISSING is counted, and the context's current EPOCH follows, where it is tracked here (R47, R48, R105, R343).
The list collects the EPOCHS entries of R343. -/
def State.verdictCtx (n : Nat) (p : State × List Nat × List (Nat × Nat)) (x : Nat) : State × List Nat × List (Nat × Nat) :=
  let (s, pres, eps) := p
  let s1 := s.pathStep x n
  if s.ownPresent x n then
    if ctxMode s.dict.vals x = 2 then (s1, pres ++ [x], eps)
    else
      let e := (((s.ctx x).inForceAt n).map (·.epoch)).getD 0
      let new := (s.ctx x).epochCur != some e
      let s2 := s1.count x 0
      (if s.followsVerdicts then s2 else s2.setCtx x fun c => { c with epochCur := some e }, pres ++ [x], if new then eps ++ [(x, e)] else eps)
  else (s1.count x 12, pres, eps)

/-- The direct ingress contexts, ascending. -/
def directCtxs (v : Tab Val) : List Nat := (ingressCtxs v).filter fun x => ctxMode v x == 1

/-- On-time bits of a direct context for a tick (R91, R92). -/
def State.directBitsOf (s : State) (x n : Nat) : List Bool :=
  (List.range s.spt).map fun k => s.csw.direct.any fun h => h.ctx == x && h.sample == n * s.spt + k

/-- The bytes of a VERDICT record (R342). -/
def verdictBytes (spt : Nat) (present : List Nat) (directs : List (List Bool)) (eps : List (Nat × Nat)) : List Byte :=
  packBits 512 ((List.range 4096).map present.contains) ++ packBits (2 * spt) directs.flatten ++ beBytes 4 eps.length ++
    eps.flatMap fun e => beBytes 4 (e.1 * 2 ^ 16 + e.2)

/-- A tick counts against a stream (R47). -/
def State.counts (s : State) (x n : Nat) : Bool := (s.ctx x).dropped.contains n && !(s.isPresent n x)

/-- CUTOFF of tick `n` (R42, R47): verdicts, path counts, the VERDICT record of an ACTIVE, silence decisions, and the seal of
tick n + 2 (R268).  Adopted DIRECT bits stand before the engine's own (R92). -/
def State.cutoff (s : State) (n : Nat) : State :=
  let s0 := foldS (fun (s : State) x => s.pathStep x n) (s.settleTags n) (directCtxs s.dict.vals)
  let (s1, pres, eps) := (gatherCtxs s.dict.vals).foldl (State.verdictCtx n) (s0, [], [])
  let dirs := (directCtxs s.dict.vals).map fun x => (x, s.directBitsOf x n)
  let adopted := if s.pair.role = 2 then (s.pair.verdicts.find? fun v => v.tick == n) else none
  let s2 := s1.modCsw fun c => { c with
    cutTick := some n
    present := tset c.present n (match adopted with | some v => v.present | none => pres)
    directBits := (dirs.filter fun d => !(c.directBits.any fun h => h.1 == n && h.2.1 == d.1)).map (fun d => (n, d.1, d.2)) ++ c.directBits }
  let s3 := if s.pair.role = 1 then
      let b := verdictBytes s.spt pres (dirs.map (·.2)) eps
      s2.sendMirror 1 0 n b
    else s2
  -- a SHADOW decides on the verdicts it has adopted when PROCESS of the tick starts (R176)
  (if s3.holdsCommits || s3.followsVerdicts then s3 else s3.cutoffDecide n).seal (n + 2)

/-- CUTOFF (R42): it falls once for a tick, in the tick after it. -/
def execCutoff (e : CutoffOps) (s : State) : Out :=
  let s0 := s.quiet
  .next (if s0.time.running ∧ e.tick + 1 = s0.time.tick ∧ s0.csw.cutTick ≠ some e.tick then s0.cutoff e.tick else s0)

/-! ### Stream and path events -/

/-- Length of the run of counting ticks that ends at tick `n`, up to a bound. -/
def State.countRun (s : State) (x : Nat) : Nat → Nat → Nat
  | 0, _ => 0
  | k + 1, n => if s.counts x n then (if n = 0 then 1 else 1 + s.countRun x k (n - 1)) else 0

/-- The newest tick that counts against a stream, of those whose cutoff has passed: a frame may still come, and be dropped, for later ones. -/
def State.newestCount (s : State) (x : Nat) : Option Nat :=
  ((s.ctx x).dropped.filter fun n => (match s.csw.cutTick with | some c => decide (n ≤ c) | none => false) && s.counts x n).foldl
    (fun (m : Option Nat) n => some (Nat.max (m.getD n) n)) none

/-- Ticks `r` to `n` belong to one run. -/
def State.sameRun (s : State) (x r n : Nat) : Bool := decide (r ≤ n) && s.countRun x (n - r + 1) n == n - r + 1

/-- STREAM_TIME (R47): raised once a run, at its 8th consecutive counting tick. -/
def execStreamTime (ctx : Nat) (s : State) : Out :=
  let s0 := s.quiet
  match s0.newestCount ctx with
  | none => .next s0
  | some n =>
    if s0.countRun ctx 8 n < 8 then .next s0
    else
      let s1 := s0.setCtx ctx fun c => { c with runRaised := some n }
      .next (if (s0.ctx ctx).runRaised.any fun r => s0.sameRun ctx r n then s1 else s1.raise blkCsw 0x10 .u ctx)

/-- PATH_A_DOWN and PATH_B_DOWN (R97): one network's copies missing for 8 consecutive ticks while the other's arrive. -/
def execPathADown (ctx : Nat) (netB : Bool) (s : State) : Out :=
  let s0 := s.quiet
  let c := s0.ctx ctx
  .next (if netB then
    if 8 ≤ c.missB ∧ !c.downB then (s0.setCtx ctx fun c => { c with downB := true, both := 0 }).raise blkCsw 0x13 .c ctx else s0
  else if 8 ≤ c.missA ∧ !c.downA then (s0.setCtx ctx fun c => { c with downA := true, both := 0 }).raise blkCsw 0x12 .c ctx else s0)

/-- PATH_A_UP and PATH_B_UP (R97): after a DOWN of the same network, 8 consecutive ticks with both copies. -/
def execPathAUp (ctx : Nat) (netB : Bool) (s : State) : Out :=
  let s0 := s.quiet
  let c := s0.ctx ctx
  .next (if netB then
    if 8 ≤ c.both ∧ c.downB then (s0.setCtx ctx fun c => { c with downB := false }).raise blkCsw 0x15 .c ctx else s0
  else if 8 ≤ c.both ∧ c.downA then (s0.setCtx ctx fun c => { c with downA := false }).raise blkCsw 0x14 .c ctx else s0)

/-! ### Handshake words (R22) -/

/-- The tick of a bank whose low four bits are the tag: the bank that fills, or the one before it. -/
inductive BankHit where
  | now (tick : Nat)
  | past (tick : Nat)
  | none
  deriving DecidableEq, Repr

/-- The bank of a tag, when the bank of tick `n` fills (R21). -/
def bankOf (tag n : Nat) : BankHit :=
  if n % 16 = tag % 16 then .now n else if 1 ≤ n ∧ (n - 1) % 16 = tag % 16 then .past (n - 1) else .none

/-- TAG_ERR (R22): class U, by the receiving block; of a spare it ends a spare-in (R134). -/
def State.tagErr (s : State) (b : Nat) : State :=
  let s1 := s.raiseT b 4 .u
  if isCluster b then s1.spareEvent (b - blkCl 0) else s1

/-- A list of samples long enough for a position. -/
def putAt (l : List Int) (i : Nat) (x : Int) : List Int := listSet (l ++ zeros (i + 1 - l.length)) i x

/-- A sample of an ingress channel in the gather bank of a tick. -/
def State.putGather (s : State) (n x ch k : Nat) (y : Int) : State :=
  let d := tget { nch := ctxNch s.dict.vals x, samples := [] } s.csw.gather (bankKey n x)
  s.gatherPut x n { d with samples := putAt d.samples (k * d.nch + ch) y }

/-- A gather write at or after the cutoff is discarded: the frame counts as late, and the stream is MISSING (R22). -/
def State.lateGather (s : State) (n x : Nat) : State :=
  let s1 := s.modCsw fun c => { c with present := tset c.present n ((tget [] c.present n).filter (· != x)) }
  if (s1.ctx x).dropped.contains n then s1
  else (s1.setCtx x fun c => { c with dropped := n :: c.dropped, inForce := c.inForce.filter fun f => f.tick != n }).count x 1

/-- A PROCESS write after EMIT of its tick has started is discarded; the unit raises OVERRUN once a tick (R22, R24). -/
def State.lateOutput (s : State) (b : Nat) : State :=
  if s.csw.lateNow.contains b then s
  else (s.modCsw fun c => { c with lateNow := b :: c.lateNow }).raiseT b 2 .u

/-- A word of an IN region in a lane. -/
def Cluster.putIn (c : Cluster) (lane addr : Nat) (y : Int) : Cluster :=
  { c with lanes := mapBelow (fun l (x : Lane) => if l = lane then { x with lmem := memSetWord x.lmem addr (BitVec.ofInt 32 y) } else x) 32 0 c.lanes }

/-- A word of an IN region reaches the clusters that run the work set's steps (R116, R133), and may complete the region (R164); a non-zero word
wakes a gated owner (R207). -/
def State.putStepIn (s : State) (ws step lane addr : Nat) (complete : Bool) (y : Int) : State :=
  let s1 := foldS (fun (s : State) n => s.setCluster n fun c => if complete then (c.putIn lane addr y).inDone step else c.putIn lane addr y) s
    ((List.range 9).filter fun n => (s.cluster n).runsSteps && (s.cluster n).wset == ws)
  if y = 0 then s1 else match s1.owner ws with | some n => s1.wake n | none => s1

/-- The OUT regions of a work set with an uncorrectable error drain as zeros until its cluster is replaced (R129). -/
def State.drained (s : State) (unit : Nat) (y : Int) : Int :=
  let c := s.cluster (unit - 0x20)
  if isCluster unit && c.role == 1 && (s.workSet c.wset).zeroOut then 0 else y

/-- HANDSHAKE_WORD (R22): the word goes to the bank of its tag, or is discarded; an IN region is open for the tick of PROCESS alone (log 164). -/
def execHandshakeWord (w : HsWord) (s : State) : Out :=
  let s0 := s.quiet
  let t := s0.time.tick
  .next (match w.place with
  | .gather x ch k =>
    match bankOf w.tag (t - 1) with
    | .now n => if s0.csw.cutTick = some n then s0.lateGather n x else s0.putGather n x ch k w.sample
    | .past n => s0.lateGather n x
    | .none => s0.tagErr w.block
  | .output unit slot k =>
    match bankOf w.tag (t - 2) with
    | .now n => s0.putSlot n slot (putAt (tget [] s0.csw.out (bankKey n slot)) k (s0.drained unit w.sample))
    | .past _ => s0.lateOutput unit
    | .none => s0.tagErr w.block
  | .stepIn ws step lane addr complete =>
    match bankOf w.tag (t - 2) with
    | .now _ => (s0.putStepIn ws step lane addr complete w.sample).advanceProcess
    | _ => s0.tagErr w.block)

end Sys2Proof.Machine
end

