-- ==== Sys2Proof/Machine/Status.lean ====
section
/-! DEFINITION. What a READ or DESCRIBE returns: STATUS members, ACTION progress, values and attribute records (R251, R254, R261,
R272, R283 and the object tables of the chapters). -/

namespace Sys2Proof.Machine

/-- Low byte first: the bytes of a string literal's characters. -/
def ascii (l : List Nat) : List Byte := l.map b8

/-- One member of the commit log (R272): a number of the entry at an index. -/
def State.logMember (s : State) (m e : Nat) : Int :=
  match s.dict.log[e]? with
  | none => 0
  | some x =>
    (match m with
    | 1 => x.tick
    | 2 => match x.kind with | .trans => 0 | .tag => 1 | .recall => 2 | .store => 3
    | 3 => x.origin
    | 4 => x.session
    | 5 => x.cid
    | _ => x.result : Nat)

/-- Seconds left on a grant (R387, R393): what has passed since it started is free (log 13). -/
def State.grantLeft (s : State) (g : Grant) : Nat := g.left - (Config.free64 .measured s.freeCtr 2100).toNat % g.left

/-- STATUS of a scene slot: 0 empty, 1 valid, 2 stale, 3 busy (R283). -/
def State.slotStatus (s : State) (k : Nat) : Nat :=
  let x := tget ({} : SceneSlot) s.dict.slots k
  if x.running then 3 else if !x.valid then 0 else if s.sceneStale k then 2 else 1

/-- The core supply in mV of a set point of 5 mV steps from 0.65 V (R527, R530). -/
def vcoreMv (vset : Nat) : Nat := 650 + 5 * vset

/-- CH_STATE of a channel (R444): 0 active S0, 1 active S1, 2 spare, 3 draining, 4 repairing, 5 faulty, 6 absent. -/
def State.chState (s : State) (c : Nat) : Nat :=
  let x := (tget ({} : DramChan) s.memc.chans c).state
  if x ≠ 0 then x else if c = s.memc.s0 then 0 else if c = s.memc.s1 then 1 else 2

/-- A STATUS member's number, or an ACTION's progress. -/
def State.statusNum (s : State) (obj m e : Nat) : Int :=
  (if obj = 0x0000 then
    match m with
    | 5 => (Config.free64 .measured 0 1000).toNat % 2 ^ 32
    | 7 => s.top.state.code
    | _ => if s.pair.role = 2 then 1 else 0
  else if obj = 0x0010 then (if m = 1 then s.time.tick else s.nowNs % 2 ^ 64)
  else if obj = 0x0020 then (if m = 7 then s.dict.logNext else (s.logMember m e).toNat)
  else if obj = 0x0030 then tget 0 s.dict.counters m
  else if obj = 0x0040 then
    match m, s.dict.marks[e]? with
    | 1, some x => x.tick
    | 2, some x => x.id
    | 3, some x => x.value
    | 4, _ => s.dict.markNext
    | _, none => 0
    | _, _ => 0
  else if obj = 0x0050 then
    match m with
    | 1 => s.fab.runGen
    | 2 => s.fab.stage
    | 3 => s.fab.stagedGen
    | 4 => s.fab.fwHandover
    | _ => s.fab.stby
  else if obj = 0x0060 then (match m with | 2 => s.top.result | 7 => s.top.cfgGen | _ => s.top.dawnMs)
  else if obj = 0x1010 then s.refsel.mode
  else if 0x1100 ≤ obj ∧ obj ≤ 0x110F then (tget ({} : RefEntry) s.refsel.entries (obj - 0x1100)).st
  else if 0xB100 ≤ obj ∧ obj ≤ 0xB107 then
    let q := tget ({} : OwlSvc) s.owl (obj - 0xB100)
    if m = 4 then q.epoch else q.active.getD 0
  else if 0xC200 ≤ obj ∧ obj ≤ 0xC20F then (s.group (obj - 0xC200)).state
  else if obj = 0xD001 then (if m = 1 then s.slotStatus e else s.dict.generation)
  else if obj = 0xD200 then s.chState e
  else if obj = 0xD210 then (if m = 1 then s.sramc.rows else s.sramc.exhausted)
  else if obj = 0xD300 then (if m = 1 then b2n (bitAt s.pwr.on e) else vcoreMv s.pwr.vset)
  else if 0xD310 ≤ obj ∧ obj ≤ 0xD31F then (tget ({} : Regulator) s.pwr.regs (obj - 0xD310)).status
  else if obj = 0xE000 then (if m = 5 then s.sec.life else s.sec.secMin)
  else if obj = 0xE002 then (if m = 2 then s.sec.sessions.length else s.sec.hsFail)
  else if obj = 0xE003 then s.sec.fuses
  else if obj = 0xE004 then
    match s.sec.grant with
    | none => 0
    | some g => if m = 3 then g.access + 256 * g.role else s.grantLeft g
  else if 0xE401 ≤ obj ∧ obj ≤ 0xE7FF then
    (tget ({} : KeySlot) s.sec.keys (obj - 0xE400)).units
  else 0 : Nat)

/-- A temperature of the 20 sensors (R527), °C. -/
def State.tempAt (s : State) (e : Nat) : Int := at? 0 s.pwr.temps e

/-- Byte strings that are STATUS, or what an ACTION of chapter 11 reads as. -/
def State.statusBytes (s : State) (obj m : Nat) : List Byte :=
  if obj = 0x0000 then
    match m with
    | 1 => ascii [84, 111, 108, 114, 105, 100]
    | 2 => ascii [90, 74, 52, 56, 48, 48]
    | 3 => ascii [66, 48]
    | 4 => s.dict.serial
    | _ => s.sec.baseMac
  else if obj = 0xE000 then
    match m with
    | 2 => s.sec.idkPub
    | 3 => s.sec.devCert
    | _ => if s.sec.life = 1 then tget [] s.sec.ownerHash s.sec.slot else List.replicate 32 0
  else if obj = 0xE001 then
    if m = 1 then (match s.sec.nonce with | some n => beBytes 16 n | none => List.replicate 16 0) else s.sec.receipt
  else if obj = 0xE004 ∧ m = 1 then
    match s.sec.challenge with | some n => beBytes 16 n ++ s.dict.serial | none => List.replicate 32 0
  else []

/-- ACTION members that read the action's progress, or the nonce they issue (R477, R390). -/
def progressMember (obj m : Nat) : Bool :=
  (obj == 0x0050 && (m == 2 || m == 4)) || (obj == 0xE001 && m == 1) || (obj == 0xE004 && m == 1)

/-- A byte string in force, padded to the fixed size of its element (R615). -/
def State.bytesOf (s : State) (obj m e : Nat) (i : Member) : List Byte :=
  match tfind s.dict.vals (dictKey obj m e) with
  | some (.bytes b) => b
  | _ =>
    if 0xC000 ≤ obj ∧ obj ≤ 0xC01F ∧ m = 6 then s.portMac (obj - 0xC000)
    else if 1 < i.len ∨ i.lo = i.hi then List.replicate i.hi.toNat 0 else []

/-- The two's complement bytes of a number. -/
def numBytes (size : Nat) (n : Int) : List Byte := beBytes size (n % (256 ^ size : Nat)).toNat

/-- One element as a READ returns it (R254, R261); the progress of an action whose reading the spec does not state is free (R252, log 38). -/
def State.readElem (s : State) (obj m e : Nat) (i : Member) : List Byte :=
  let live := i.kind == .status || (i.kind == .action && progressMember obj m)
  if i.ty = 0x10 ∨ i.ty = 0x11 then (if live then s.statusBytes obj m else s.bytesOf obj m e i)
  else
    let n : Int := if live then (if obj = 0xD400 ∧ m = 1 then s.tempAt e else if obj = 0xD400 then s.pwr.therm else s.statusNum obj m e)
      else if i.kind == .action then (Config.free64 .measured s.freeCtr (2 ^ 32 + dictKey obj m e)).toNat
      else cfgN s.dict.vals obj m e
    numBytes ((tySize i.ty).getD 1) n

/-- KIND and CLASS codes of R251. -/
def Kind.code : Kind → Nat
  | .dyn => 0 | .sta => 1 | .status => 2 | .action => 3

def Acc.code : Acc → Nat
  | .s => 0 | .o => 1 | .e => 2 | .c => 3 | .k => 4 | .t => 5

/-- The default as DESCRIBE reports it, right-aligned in 8 bytes (R251, R615): the MAC address of a port is BASE_MAC plus its number (R397), and
ENGINE1 reports 0 (R616). -/
def State.dfltBytes (s : State) (obj m : Nat) : List Byte :=
  if 0xC000 ≤ obj ∧ obj ≤ 0xC01F ∧ m = 6 then [0, 0] ++ s.portMac (obj - 0xC000) else numBytes 8 (dfltN s.dict.vals obj m)

/-- The 32-byte record of DESCRIBE (R251). -/
def State.describe (s : State) (obj m : Nat) (i : Member) : List Byte :=
  let lo := if i.lo = 0 ∧ i.hi = 0 then (tyRange i.ty).1 else i.lo
  let hi := if i.lo = 0 ∧ i.hi = 0 then (tyRange i.ty).2 else i.hi
  [b8 i.ty, b8 i.kind.code, b8 i.acc.code, 0] ++ beBytes 4 (memberLen s.dict.vals obj m i) ++ s.dfltBytes obj m ++ numBytes 8 lo ++
    numBytes 8 hi

end Sys2Proof.Machine
end

