-- ==== Sys2Proof/Machine/Bus.lean ====
section
/-! DEFINITION. The bus matrix: decode, paths, error responses, and when a block's registers answer (R25, R460-R469, R472-R476, R578-R580). -/

namespace Sys2Proof.Machine

/-! ### Domains and resets of a block (R25, R469, R498) -/

def State.domOn (s : State) (d : Nat) : Bool := bitAt s.pwr.on d

/-- A block's domain is ON. -/
def State.blockOn (s : State) (b : Nat) : Bool :=
  match blockDomain b with
  | none => true
  | some d => s.domOn d

/-- The function codes whose reset stops a block's own registers (R499, R500); a TDM port stops only its own register. -/
def blockFuncs (b off : Nat) : List Nat :=
  if b = blkMix then [0] else if b = blkDyn then [1, 2] else if b = blkDp then [3] else if b = blkAln then [4]
  else if b = blkSil then [5] else if b = blkCsw then [6] else if b = blkSramc then [7] else if b = blkTw0 then [8]
  else if b = blkTw1 then [9] else if b = blkHostp then [10]
  else if 0x20 ≤ b ∧ b ≤ 0x28 then [b - 0x10]
  else if 0x40 ≤ b then [b]
  else if b = blkTdm then [0x70 + (off - 0x100) / 4]
  else []

/-- The per-function reset of a block runs. -/
def State.blockResetting (s : State) (b off : Nat) : Bool := (blockFuncs b off).any s.resetting

/-! ### Closures and the role of HOSTP (R376, R385, R387, R550) -/

/-- A closure is in force: burned and not lifted by a grant. -/
def State.closed (s : State) (bit : Nat) : Bool :=
  bitAt s.sec.fuses bit && !(match s.sec.grant with | some g => bitAt g.access bit | none => false)

/-- The role HOSTP carries: Engineer, or the role of a grant; Observer with HOSTP_WR closed. -/
def State.hostRole (s : State) : Nat :=
  if s.closed 2 then 0 else match s.sec.grant with | some g => g.role | none => 2

/-! ### Decode and paths (R460, R461, R475) -/

/-- Codes of BERR_INFO.MASTER. -/
def masterCode (m : Master) : Nat :=
  match m with
  | .ctl0 => 0 | .ctl1 => 1 | .hostp => 2 | .dma => 3 | .mirr => 4 | .hedgehog => 5

/-- The target of an address and the offset in it: 0 boot ROM, 1 control SRAM, 2 register bridge, 3 hall, 4 DRAM, 5 crypto, 6 default. -/
def State.targetOf (s : State) (a : Nat) : Nat × Nat :=
  let r := s.top.remap
  if a < 0x00040000 then (if r then (1, a) else (0, a))
  else if a < 0x00200000 then (if r then (1, a) else (6, 0))
  else if 0x10000000 ≤ a ∧ a < 0x10040000 then (if r then (0, a - 0x10000000) else (1, a - 0x10000000))
  else if 0x10040000 ≤ a ∧ a < 0x10200000 then (if r then (6, 0) else (1, a - 0x10000000))
  else if 0x20000000 ≤ a ∧ a < 0x23000000 then (3, a - 0x20000000)
  else if 0x30000000 ≤ a ∧ a < 0x30010000 then (5, a - 0x30000000)
  else if 0x40000000 ≤ a ∧ a < 0x40700000 then (2, a - 0x40000000)
  else if 0x80000000 ≤ a ∧ a < 0x100000000 then (4, a - 0x80000000)
  else (6, 0)

/-- Logical DRAM address of an offset in the window (R433, R450). -/
def State.dramAddr (s : State) (off : Nat) : Nat := s.memc.page * 2 ^ 31 + off

/-- The path a master has to a target (R460). -/
def State.pathOk (s : State) (m : Master) (t off : Nat) (write : Bool) : Bool :=
  match m with
  | .ctl0 | .ctl1 => if t = 0 then !write else decide (t ≤ 5)
  | .hostp =>
    if t = 1 then decide (0x1FC000 ≤ off) && decide (off < 0x200000)
    else if t = 2 then !(write && off / 65536 == blkSec)
    else decide (t = 3 ∨ t = 4) && !write
  | .dma => decide (t = 1 ∨ t = 3 ∨ t = 4 ∨ t = 5)
  | .mirr =>
    if t = 4 then
      let a := s.dramAddr off
      decide (s.cfg 0xB000 9 ≤ a) && decide (a < s.cfg 0xB000 9 + s.cfg 0xB000 10)
    else decide (t = 3)
  | .hedgehog => if t = 0 then !write else if t = 2 then off / 65536 == blkSec else decide (t = 1 ∨ t = 4 ∨ t = 5)

/-! ### Error responses (R462, R474, R475) -/

/-- An error response: data 0, and the FAB registers load its address, master, target and cause. -/
def State.berr (s : State) (m : Master) (addr : Nat) (write : Bool) (cause : Nat) : State :=
  (s.modFab fun f =>
    { f with berrAddr := addr % 2 ^ 32, berrMaster := masterCode m, berrTarget := (s.targetOf addr).1, berrWrite := write
             berrCause := cause, berrCount := stopAt 0xFFFF f.berrCount 1 }).emit .busError

/-! ### The register bridge (R467, R469, R550, R580, R586) -/

/-- An offset of a common register (R581). -/
def commonOff (off : Nat) : Bool := decide (off % 4 = 0) && (decide (off ≤ 0x2C) || off == 0x40 || off == 0x44 || off == 0x48)

def inRange (off lo hi : Nat) : Bool := decide (lo ≤ off) && decide (off ≤ hi)

/-- An offset of a block's own registers (R591). -/
def ownOff (b off : Nat) : Bool :=
  decide (off % 4 = 0) &&
  (if b = blkTop then off == 0x100 || off == 0x104 || off == 0x110 || off == 0x114 || off == 0x120
   else if b = blkPwr then inRange off 0x100 0x110
   else if b = blkTime then inRange off 0x100 0x108 || off == 0x110 || inRange off 0x120 0x130 || inRange off 0x200 0x27C
   else if b = blkRefsel then inRange off 0x100 0x118
   else if b = blkSec then inRange off 0x100 0x108
   else if b = blkFab then inRange off 0x100 0x10C
   else if b = blkCsw then off == 0x100 || off == 0x104 || inRange off 0x110 0x160
   else if b = blkMix then inRange off 0x100 0x108 || inRange off 0x110 0x12C
   else if b = blkDyn then inRange off 0x100 0x10C
   else if b = blkDp then inRange off 0x100 0x110
   else if b = blkAln then inRange off 0x100 0x114 || inRange off 0x120 0x12C
   else if b = blkSil then off == 0x100 || off == 0x104 || inRange off 0x110 0x11C
   else if b = blkPair then inRange off 0x100 0x10C
   else if b = blkMemc then inRange off 0x100 0x110 || off == 0x120 || inRange off 0x130 0x154
   else if b = blkSramc then inRange off 0x100 0x108
   else if b = blkTw0 then inRange off 0x100 0x104
   else if b = blkTw1 then inRange off 0x100 0x108
   else if b = blkHostp then off == 0x100
   else if b = blkTdm then inRange off 0x100 0x13C
   else if 0x20 ≤ b ∧ b ≤ 0x28 then inRange off 0x100 0x108 || inRange off 0x110 0x128
   else if 0x40 ≤ b ∧ b ≤ 0x5F then inRange off 0x100 0x108 || inRange off 0x110 0x19C
   else if 0x60 ≤ b then inRange off 0x100 0x10C || inRange off 0x110 0x170
   else false)

/-- The assigned registers. -/
def regAssigned (b off : Nat) : Bool := blockExists b && (commonOff off || ownOff b off)

/-- Why the bridge answers an access with an error, by CAUSE of R475; none: it is performed. -/
def State.bridgeCause (s : State) (m : Master) (off size : Nat) (write : Bool) : Option Nat :=
  let b := off / 65536
  let r := off % 65536 / 4 * 4
  if off % size ≠ 0 ∨ (write ∧ size ≠ 4) ∨ 4 < size then some 3
  else if !(regAssigned b r) then some 2
  else if !(s.blockOn b) then some 4
  else if !(commonOff r) && s.blockResetting b r then some 5
  else if write && b == blkTop && r == 4 && !(m == .ctl0 || m == .ctl1) then some 9
  else if m == .hostp && write && (s.closed 2 || s.closed 3 || (r == 0x14 && s.hostRole != 2 && s.hostRole != 3)) then some 9
  else if m == .hostp && s.closed 3 && !((b == blkTop && r == 0) || (b == blkSec && r == 0x100)) then some 9
  else none

/-- Why a register access of a master fails; none: it is performed. -/
def State.regCause (s : State) (m : Master) (addr size : Nat) (write : Bool) : Option Nat :=
  let (t, off) := s.targetOf addr
  if t = 6 then some 0
  else if !(s.pathOk m t off write) then some 1
  else if t ≠ 2 then some 2
  else s.bridgeCause m off size write

/-- The address of a register. -/
def regAddr (b off : Nat) : Nat := 0x40000000 + b * 65536 + off

/-- A command that a register write carries: performed if the access is, else an error response. -/
def State.viaWrite (s : State) (m : Master) (b off : Nat) (f : State → State) : State :=
  match s.regCause m (regAddr b off) 4 true with
  | some c => s.berr m (regAddr b off) true c
  | none => f s

end Sys2Proof.Machine
end

