-- ==== Sys2Proof/Machine/Jtag.lean ====
section
/-! DEFINITION. The test port: the controller of IEEE 1149.1 with the instructions of R385 (R608).  No row of the command table clocks it
(log 160). -/

namespace Sys2Proof.Machine

/-- The controller after a rising edge of TCK. -/
def TapState.next (x : TapState) (tms : Bool) : TapState :=
  match x, tms with
  | .reset, true => .reset
  | .reset, false => .idle
  | .idle, true => .selectDr
  | .idle, false => .idle
  | .selectDr, true => .selectIr
  | .selectDr, false => .captureDr
  | .captureDr, true => .exit1Dr
  | .captureDr, false => .shiftDr
  | .shiftDr, true => .exit1Dr
  | .shiftDr, false => .shiftDr
  | .exit1Dr, true => .updateDr
  | .exit1Dr, false => .pauseDr
  | .pauseDr, true => .exit2Dr
  | .pauseDr, false => .pauseDr
  | .exit2Dr, true => .updateDr
  | .exit2Dr, false => .shiftDr
  | .updateDr, true => .selectDr
  | .updateDr, false => .idle
  | .selectIr, true => .reset
  | .selectIr, false => .captureIr
  | .captureIr, true => .exit1Ir
  | .captureIr, false => .shiftIr
  | .shiftIr, true => .exit1Ir
  | .shiftIr, false => .shiftIr
  | .exit1Ir, true => .updateIr
  | .exit1Ir, false => .pauseIr
  | .pauseIr, true => .exit2Ir
  | .pauseIr, false => .pauseIr
  | .exit2Ir, true => .updateIr
  | .exit2Ir, false => .shiftIr
  | .updateIr, true => .selectDr
  | .updateIr, false => .idle

/-- The instruction of a code: all ones is BYPASS, and the debug instructions are offered while JTAG_DEBUG is not in force (R385). -/
def jtagInstr (debug : Bool) (code : List Bool) : JtagInstr :=
  if code.all id then .bypass else
  match Config.jtagCode code with
  | 1 => .idcode
  | 2 => .samplePreload
  | 3 => .extest
  | 4 => if debug then .debug else .bypass
  | _ => .bypass

/-- What the register of an instruction captures; the bit that leaves first comes first. -/
def jtagCapture (n : Nat) : JtagInstr → List Bool
  | .bypass => [false]
  | .idcode => (List.range 32).map Config.jtagId.getLsbD
  | .samplePreload | .extest | .debug => Config.jtagCapture n

/-- A bit shifted in behind those of a register. -/
def shiftIn (l : List Bool) (x : Bool) : List Bool := l.drop 1 ++ [x]

/-- One period of TCK: TMS and TDI are sampled on the rising edge; the falling edge updates and drives TDO (R608). -/
def Jtag.clock (debug : Bool) (n : Nat) (tms tdi : Bool) (j : Jtag) : Jtag :=
  let reg := match j.tap with
    | .captureDr => jtagCapture n j.ir
    | .captureIr => true :: List.replicate (Config.jtagLength - 1) false
    | .shiftDr | .shiftIr => shiftIn j.shift tdi
    | _ => j.shift
  let x := j.tap.next tms
  { tap := x, shift := reg
    ir := match x with | .reset => .idcode | .updateIr => jtagInstr debug reg | _ => j.ir
    cells := if x = .updateDr ∧ (j.ir = .samplePreload ∨ j.ir = .extest) then reg else j.cells
    tdo := match x with | .shiftDr | .shiftIr => reg.headD false | _ => j.tdo }

/-- A period of TCK, with the closure JTAG_DEBUG as it stands (R385). -/
def State.tck (s : State) (tms tdi : Bool) : State := { s.fresh with jtag := s.jtag.clock (!s.closed 0) s.freeCtr tms tdi }

/-- TRST_N low holds the controller in reset (R598). -/
def State.trst (s : State) : State := { s with jtag := { s.jtag with tap := .reset, ir := .idcode } }

/-- JTAG debug stops where the closure is in force again (R387). -/
def State.stopDebug (s : State) : State :=
  if s.jtag.ir = .debug ∧ s.closed 0 then { s with jtag := { s.jtag with ir := .bypass } } else s

end Sys2Proof.Machine
end

