-- ==== Sys2Proof/Machine/Time.lean ====
section
/-! DEFINITION. The time counter, compare units, REFSEL, PTP sending and clock monitors (R284-R322). -/

namespace Sys2Proof.Machine

def State.modRef (s : State) (f : Refsel → Refsel) : State := { s with refsel := f s.refsel }

/-! ### The counter (R285-R287) -/

/-- The counter set by a step, in units of 2^-32 ns (R287): ticks start in Morning, and in Dawn once Morning is reached (R309). -/
def State.stepCounter (s : State) (c : Nat) : State :=
  s.modTime fun t => { t with counter := c % 2 ^ 96, todSet := true, running := s.top.state == .morning, tick := s.tickOf (c % 2 ^ 96) }

/-- The step to a time of day in ns. -/
def State.stepTime (s : State) (ns : Nat) : State := s.stepCounter (ns * 2 ^ 32)

/-- The counter may be stepped: in Dawn, and in Morning before the first tick event (R287). -/
def State.mayStep (s : State) : Bool := s.top.state == .dawn || (s.top.state == .morning && !s.time.ticked)

/-- SET (R287): the ACTION steps the counter when TOD_SRC is HOST; a later step is refused. -/
def execSet (ns : Nat) (s : State) : Out :=
  let s0 := s.quiet
  .next (if s0.mayStep && s0.cfg 0x1001 1 == 1 then s0.stepTime ns else s0)

/-- The counter at a command. -/
def State.counterNow (s : State) : State × Nat := (s.elapse, s.elapse.time.counter)

/-- INC_INT.LOAD (R312, R286): INT and FRAC apply together, or CFG_REJ. -/
def State.loadInc (s : State) : State :=
  let ok := match s.top.state with
    | .dawn | .night => true
    | .morning => s.refsel.inUse.isNone
    | _ => false
  if ok then s.elapse.modTime fun t => { t with inc := t.incInt * 2 ^ 32 + t.incFrac.toNat }
  else s.setCommon blkTime fun c => { c with cfgRej := true }

/-- INC_LOAD (R312). -/
def execIncLoad (m : Master) (s : State) : Out := .next (s.quiet.viaWrite m blkTime 0x104 State.loadInc)

/-- The capture of TIME.SNAP (R314): the counter and the tick number; the words reach NOW0-4 when the capture is complete (R470). -/
def State.timeWords (s : State) : State × List Word :=
  let (s1, c) := s.counterNow
  (s1, [w32 c, w32 (c / 2 ^ 32), w32 (c / 2 ^ 64), w32 s.time.tick, w32 (s.time.tick / 2 ^ 32 % 2 ^ 16)])

/-! ### Compare units (R288, R289, R316-R318) -/

def Time.cmp (t : Time) (u : Nat) : Cmp := tget {} t.cmps u
def State.setCmp (s : State) (u : Nat) (f : Cmp → Cmp) : State := s.modTime fun t => { t with cmps := tmod {} t.cmps u f }

/-- The counter has reached a 48-bit target (R288): the signed difference is zero or positive. -/
def reached (ns target : Nat) : Bool := decide (0 ≤ (BitVec.ofNat 48 ns - BitVec.ofNat 48 target).toInt)

/-- The level of the TIME interrupt (R288, R486): an event's, or that of a unit that has fired with INT_EN (log 174). -/
def State.timeIrq (s : State) : Bool :=
  (s.common blkTime).intStat &&& (s.common blkTime).intEn != 0 || (List.range 8).any fun u => (s.time.cmp u).fired && (s.time.cmp u).intEn

/-- A firing (R288): FIRED, a pulse of PW on a clock output in PULSE mode once the APLL has locked (R306), and the next target or the end of ARM. -/
def State.fireCmp (s : State) (u : Nat) : State :=
  let c := s.time.cmp u
  let s1 := s.setCmp u fun c =>
    if c.periodic then { c with fired := true, target := (c.target + c.period) % 2 ^ 48, period := c.per.toNat }
    else { c with fired := true, arm := false }
  if s.cfgOn (0x1300 + c.out) 1 && s.cfg (0x1300 + c.out) 2 == 2 && s.top.state != .night && s.refsel.apllLocked then
    s1.emit (.pulse c.out (Nat.max 1 c.pw))
  else s1

/-- ARM written 1 (R289): the staging copy is loaded; a target already reached fires on the next cycle with LATE_ARM. -/
def State.armCmp (s : State) (u : Nat) : State :=
  let s1 := s.elapse.setCmp u fun c =>
    { c with target := c.hi % 2 ^ 16 * 2 ^ 32 + c.lo.toNat, period := c.per.toNat, arm := true }
  if reached (s1.time.counter / 2 ^ 32) (s1.time.cmp u).target then (s1.setCmp u fun c => { c with lateArm := true }).fireCmp u else s1

/-- CMP_ARM (R289). -/
def execCmpArm (m : Master) (unit : Nat) (s : State) : Out :=
  .next (s.quiet.viaWrite m blkTime (0x20C + 16 * unit) fun s => s.armCmp unit)

/-- The counter at the first cycle at which a target that lies ahead has come (R288). -/
def State.cmpGoal (s : State) (u : Nat) : Nat :=
  let ns := s.time.counter / 2 ^ 32
  (ns + ((s.time.cmp u).target + 2 ^ 48 - ns % 2 ^ 48) % 2 ^ 48) * 2 ^ 32

/-- CMP_FIRE (R288): the counter reaches the target of an armed unit; while ticks run, one behind the start of the next tick is not reached
before that tick's event (log 186). -/
def execCmpFire (unit : Nat) (s : State) : Out :=
  let s0 := s.quiet
  .next (if !(s0.time.cmp unit).arm then s0
  else if reached (s0.time.counter / 2 ^ 32) (s0.time.cmp unit).target then s0.fireCmp unit
  else if s0.time.running ∧ s0.tickStart (s0.time.tick + 1) < s0.cmpGoal unit then s0
  else (s0.modTime fun t => { t with counter := t.countTo (s0.cmpGoal unit) }).fireCmp unit)

/-! ### Reference tests (R296) -/

def Refsel.entry (r : Refsel) (e : Nat) : RefEntry := tget {} r.entries e
def State.setEntry (s : State) (e : Nat) (f : RefEntry → RefEntry) : State := s.modRef fun r => { r with entries := tmod {} r.entries e f }

/-- The cross-checked test of R296 on one quantity.  `qual` are the qualified entries, `k` and `lim` the limit as `k * |x| > lim`.
Answers whether entry `r` fails, and whether as a tie. -/
def crossFails (val : Nat → Int) (qual : List Nat) (inUse : Option Nat) (k lim : Int) (r : Nat) : Bool × Bool :=
  let far (x : Int) : Bool := decide (lim < k * (if x < 0 then -x else x))
  let q := qual.filter (· != r)
  if q.isEmpty then (far (val r), false)
  else if q.any fun a => !(far (val r - val a)) then (false, false)
  else if q.any fun a => q.any fun b => a != b && !(far (val a - val b)) then (true, false)
  else if (far (val r)) && q.any fun a => !(far (val a)) then (true, false)
  else if !(far (val r)) && q.any fun a => far (val a) then (false, false)
  else (inUse != some r, inUse != some r)

/-- A time-bearing entry: PTP, or 1PPS on a REFIN (R294). -/
def State.timeBearing (s : State) (e : Nat) : Bool :=
  s.cfg (0x1100 + e) 2 == 128 || (decide (s.cfg (0x1100 + e) 2 ≤ 3) && s.cfg (0x1100 + e) 3 == 2)

/-- A phase-bearing entry (R294): PTP, 1PPS, DARS, and a word clock whose rate equals fs. -/
def State.phaseBearing (s : State) (e : Nat) : Bool :=
  let src := s.cfg (0x1100 + e) 2
  s.timeBearing e || (decide (16 ≤ src) && decide (src ≤ 31)) ||
    (decide (src ≤ 3) && s.cfg (0x1100 + e) 3 == 0 && (s.refsel.entry e).atFs)

def Refsel.qualified (r : Refsel) : List Nat := (List.range 16).filter fun e => (r.entry e).st == 2 || (r.entry e).st == 4

/-- What an entry's tests find: whether its time offset fails, and the soft or drift test that fails with its tie.  `k` and `n` scale a limit
to n/k of it. -/
def State.testEntry (s : State) (k n : Int) (e : Nat) : Bool × Option (Nat × Bool) :=
  let r := s.refsel
  let x := r.entry e
  let soft := crossFails (fun q => (r.entry q).f) r.qualified r.inUse k (n * 1000 * s.cfg (0x1100 + e) 5) e
  let drift := crossFails (fun q => (r.entry q).drift) r.qualified r.inUse k (n * 1000 * s.cfg (0x1100 + e) 7) e
  (s.timeBearing e && s.time.running && decide (1000000 * n < k * (if x.tofs < 0 then -x.tofs else x.tofs)),
    if soft.1 then some (3, soft.2) else if drift.1 then some (4, drift.2) else none)

/-- Another entry is QUALIFIED or SELECTED. -/
def Refsel.crossed (r : Refsel) (e : Nat) : Bool := r.qualified.any (· != e)

/-- An entry is in use as a candidate: enabled and not locked out. -/
def State.entryOn (s : State) (e : Nat) : Bool := s.cfgOn (0x1100 + e) 1 && !(s.cfgOn (0x1100 + e) 11)

/-- |f| above n/k of the hard limit (R296). -/
def State.hardFails (s : State) (k n : Int) (e : Nat) : Bool :=
  let f := (s.refsel.entry e).f
  decide (n * 1000 * s.cfg (0x1100 + e) 6 < k * (if f < 0 then -f else f))

/-- One entry at an evaluation (R296, R297): `r` are the entries as measured, `found` and `near` the tests at the limits and at 90 % of them, all
made before any entry moves.  A time offset over its limit is the cause that stands (R287), for an entry that is SUSPECT already too (log 187). -/
def State.moveEntry (r : Refsel) (found near : List (Bool × Option (Nat × Bool))) (s : State) (e : Nat) : State :=
  let x := s.refsel.entry e
  if !(s.entryOn e) then s.setEntry e fun x => { x with st := 0, wtr := none }
  else if x.los then
    if x.st = 0 then s.setEntry e fun x => { x with cause := 1 }
    else (s.setEntry e fun x => { x with st := 0, cause := 1, wtr := none }).raiseAs blkRefsel 0x10 .c e s.tickDetail none
  else if s.hardFails 1 1 e then
    if x.st = 0 then s.setEntry e fun x => { x with cause := 2 }
    else (s.setEntry e fun x => { x with st := 0, cause := 2, wtr := none }).raiseAs blkRefsel 0x11 .c e s.tickDetail none
  else
    let t := at? (false, none) found e
    let near' := at? (false, none) near e
    let suspect (c : Nat) (tie : Bool) : State :=
      (s.setEntry e fun x =>
        { x with st := 3, cause := c, suspMs := if x.st = 3 then x.suspMs + 1 else 0, recMs := 0, wtr := none, tofsLock := x.tofsLock || c == 5 }).raiseAs
          blkRefsel 0x12 .c e (Config.causeCode (c + if tie then 8 else 0)) none
    match x.st with
    | 0 => s.setEntry e fun x => { x with st := 1, qualMs := 0 }
    | 1 => s.setEntry e fun x => { x with qualMs := if t.1 || t.2.isSome then 0 else x.qualMs + 1 }
    | 3 =>
      if t.1 ∧ x.cause ≠ 5 then suspect 5 false
      else s.setEntry e fun x => { x with suspMs := x.suspMs + 1, recMs := if near'.1 || near'.2.isSome || s.hardFails 10 9 e then 0 else x.recMs + 1 }
    | _ =>
      if t.1 then suspect 5 false
      else match t.2 with
        | some (c, tie) => if r.crossed e then suspect c tie else s.setEntry e fun x => { x with wtr := x.wtr.map (· + 1) }
        | none => s.setEntry e fun x => { x with wtr := x.wtr.map (· + 1) }

/-- XO_DISAGREE (R296): an entry tested against XO_IN alone fails, or all qualified entries agree and fail against XO_IN. -/
def State.xoDisagrees (s : State) (found : List (Bool × Option (Nat × Bool))) : Bool :=
  let r := s.refsel
  let q := r.qualified
  let alone := (List.range 16).any fun e =>
    s.entryOn e && !(r.entry e).los && !(r.crossed e) && (at? (false, none) found e).2.isSome
  let far (lim x : Int) : Bool := decide (lim < (if x < 0 then -x else x))
  let all (m : Nat) (val : Nat → Int) : Bool :=
    let lim (e : Nat) : Int := 1000 * s.cfg (0x1100 + e) m
    q.all fun a => far (lim a) (val a) && q.all fun b => !(far (lim a) (val a - val b))
  let sel := q.any fun e => (r.entry e).st == 4
  alone || (sel && decide (2 ≤ q.length) && (all 5 (fun e => (r.entry e).f) || all 7 fun e => (r.entry e).drift))

/-! ### Selection (R298-R302) -/

/-- Values, newest first, as runs: the newest `n` of them. -/
def rleTake {α : Type} : Nat → List (α × Nat) → List (α × Nat)
  | _, [] => []
  | n, (v, k) :: t => if n ≤ k then (if n = 0 then [] else [(v, n)]) else (v, k) :: rleTake (n - k) t

def rleDrop {α : Type} : Nat → List (α × Nat) → List (α × Nat)
  | _, [] => []
  | n, (v, k) :: t => if n < k then (v, k - n) :: t else rleDrop (n - k) t

def rlePush {α : Type} [DecidableEq α] (v : α) : List (α × Nat) → List (α × Nat)
  | [] => [(v, 1)]
  | (w, k) :: t => if v = w then (w, k + 1) :: t else (v, 1) :: (w, k) :: t

/-- The mean of corr over runs of the record; none of an empty window. -/
def corrMean (l : List ((Int × Bool) × Nat)) : Option Int :=
  match l with
  | [] => none
  | _ => some (Config.meanQuot (l.foldl (fun a p => a + p.1.1 * p.2) 0) (sumN (l.map (·.2))))

/-- The runs of a window in which the loop was locked. -/
def lockedRuns (l : List ((Int × Bool) × Nat)) : List ((Int × Bool) × Nat) := l.filter fun p => p.1.2

/-- The record up to the moment at which the entry in use left SELECTED; up to now where it is SELECTED, and where none is in use. -/
def Refsel.untilLeft (r : Refsel) : List ((Int × Bool) × Nat) := if r.inUse.isSome then rleDrop r.sinceSel r.hist else r.hist

/-- What the loop holds: corr without realignment (R300, R302). -/
def State.holdCorr (s : State) (c : Int) : State :=
  (s.modTime fun t => { t with corr := c }).modRef fun r => { r with loopCorr := c, slewLeft := 0, realign := 0, buildOut := 0 }

/-- Entry in use gives way: SELECTED becomes QUALIFIED (R297). -/
def State.unselect (s : State) : State :=
  match s.refsel.inUse with
  | none => s
  | some e => s.setEntry e fun x => { x with st := if x.st = 4 then 2 else x.st }

/-- Nightwatch, or free-run where there is no locked history (R302): the window of HO_AVG ends HO_GUARD before the entry in use left SELECTED. -/
def State.nightwatch (s : State) : State :=
  let r := s.refsel
  let past := r.untilLeft
  if r.inUse.isNone ∧ (r.mode = 3 ∨ (lockedRuns past).isEmpty) then s
  else
    let win := lockedRuns (rleTake (1000 * s.cfg 0x1010 4) (rleDrop (1000 * s.cfg 0x1010 5) past))
    let trace := match r.inUse with | some e => s.cfgOn (0x1100 + e) 12 | none => r.hoTrace
    match corrMean (if win.isEmpty then lockedRuns past else win) with
    | none => (s.unselect.modRef fun r => { r with inUse := none, mode := 0, hoSpec := false }).holdCorr 0
    | some m =>
      ((s.unselect.modRef fun r => { r with inUse := none, mode := 3, hoSpec := true, hoMs := 0, hoTrace := trace }).holdCorr m).raiseT blkRefsel 0x15 .c

/-- MODE = FREERUN (R298, R308): XO_IN with corr = 0; the time-lock condition is met. -/
def State.freeRun (s : State) : State :=
  ((s.unselect.modRef fun r => { r with inUse := none, mode := 0, hoSpec := false }).holdCorr 0).modTop fun t => { t with timeLocked := true }

/-- FREEZE (R300): the mean of corr over the 100 ms before the decision, or before the entry in use left SELECTED. -/
def State.frozenCorr (s : State) : Int := (corrMean (rleTake 100 s.refsel.untilLeft)).getD s.time.corr

/-- A switch decision (R299, R300): the running switch completes first; else FREEZE, and the build-out runs. -/
def State.switchTo (s : State) (q : Nat) : State :=
  if s.refsel.switchTo.isSome then s.modRef fun r => { r with held := some q }
  else (s.modRef fun r => { r with switchTo := some q, mode := 4 }).holdCorr s.frozenCorr

/-- An entry that may be selected: QUALIFIED, and not barred by a time offset (R297). -/
def Refsel.eligible (r : Refsel) (e : Nat) : Bool := (r.entry e).st == 2 && !(r.entry e).tofsLock

/-- The highest-priority qualified entry. -/
def Refsel.best (r : Refsel) : Option Nat := (List.range 16).find? r.eligible

/-- An entry ranks above the one in use, or above the one that a running switch brings into use (R298, R301). -/
def Refsel.ranksAbove (r : Refsel) (e : Nat) : Bool :=
  match r.switchTo, r.inUse with
  | some u, _ => decide (e < u)
  | none, some u => decide (e < u)
  | none, none => false

/-- The entry in use has been SUSPECT for DWELL. -/
def State.dwellOver (s : State) : Bool :=
  match s.refsel.inUse with
  | some e => (s.refsel.entry e).st == 3 && decide (1000 * s.cfg (0x1100 + e) 8 ≤ (s.refsel.entry e).suspMs)
  | none => false

/-- An entry's wait-to-restore has run out. -/
def State.wtrOver (s : State) (e : Nat) : Bool :=
  match (s.refsel.entry e).wtr with
  | some n => decide (1000 * s.cfg (0x1100 + e) 10 ≤ n)
  | none => false

/-- The decision of R298.  Its two timers, whose expiries are rows of their own, count where a held decision is evaluated again (R299). -/
def State.refDecide (s : State) (timers : Bool) : State :=
  let r := s.refsel
  match s.cfg 0x1010 1 with
  | 0 =>
    match r.inUse with
    | none => match r.best with | some q => s.switchTo q | none => s.nightwatch
    | some e =>
      if (r.entry e).st < 2 then match r.best with | some q => s.switchTo q | none => s.nightwatch
      else if !timers then s
      else
        match r.best with
        | some q => if s.dwellOver || (s.cfgOn 0x1010 3 && r.ranksAbove q && s.wtrOver q) then s.switchTo q else s
        | none => s
  | 1 =>
    let e := s.cfg 0x1010 2
    if 2 ≤ (r.entry e).st ∧ !(r.entry e).tofsLock then (if r.inUse = some e then s else s.switchTo e) else s.nightwatch
  | 2 => s.nightwatch
  | _ => s.freeRun

/-- The measurements of an evaluation. -/
def State.measureRefs (s : State) (ms : List RefMeas) : State :=
  foldS (fun (s : State) (m : RefMeas) => s.setEntry m.entry fun x =>
    { x with los := m.los, f := m.f, drift := m.drift, tofs := m.tofs, atFs := m.atFs
             phase := if { s with refsel := { s.refsel with entries := tmod {} s.refsel.entries m.entry fun x => { x with atFs := m.atFs } } }.phaseBearing m.entry
               then m.phase else 0 }) s (ms.filter fun m => decide (m.entry < 16))

/-- The entry in use is SELECTED. -/
def Refsel.selectedInUse (r : Refsel) : Bool :=
  match r.inUse with
  | some e => (r.entry e).st == 4
  | none => false

/-- The record of corr and the time in Nightwatch, by one evaluation. -/
def State.refHistory (s : State) : State :=
  s.modRef fun r =>
    let since := if r.selectedInUse then 0 else r.sinceSel + 1
    { r with
      hist := rleTake (since + 1000 * (s.cfg 0x1010 4 + s.cfg 0x1010 5) + 100) (rlePush (s.time.corr, r.mode == 2 && r.selectedInUse) r.hist)
      sinceSel := since
      hoMs := if r.mode = 3 then r.hoMs + 1 else r.hoMs }

/-! ### Realignment (R300, R301) -/

/-- corr pulls at most 50 ppm around inc (R286). -/
def Time.pullLimit (t : Time) : Int := t.inc * 50 / 1000000

def clampTo (lim x : Int) : Int := if lim < x then lim else if x < -lim then -lim else x

/-- corr is what the loop wrote with the frequency offset of realignment: 1 fs in 1 ms is 10^-12. -/
def State.writeCorr (s : State) : State :=
  s.modTime fun t => { t with corr := clampTo t.pullLimit (s.refsel.loopCorr + s.refsel.realign * t.inc / 1000000000000) }

/-- The rate of realignment in the next ms, in fs per ms (R301): toward the offset at no more than TREALIGN, changed by no more than FSLEW, so that it
can slow to nothing at its end (log 188).  TREALIGN is in ns/s, FSLEW in 10^-9 per s. -/
def realignRate (trealign fslew offset rate : Int) : Int :=
  let mag := (if offset < 0 then -offset else offset)
  let stop : Int := sqrtBits 64 0 (2 * fslew * mag).toNat
  let top := if stop < 1000 * trealign then stop else 1000 * trealign
  let want := if offset < 0 then -top else top
  if rate + fslew < want then rate + fslew else if want < rate - fslew then rate - fslew else want

/-- Realignment in 1 ms while the loop is closed (R301, R303): the rest within one step of FSLEW goes at once. -/
def State.realignStep (s : State) : State :=
  let r := s.refsel
  let slew := s.cfg 0x1001 6
  let s1 := s.modRef fun r => { r with slewLeft := r.slewLeft + slew * s.time.inc }
  if r.buildOut = 0 ∧ r.realign = 0 ∨ !r.selectedInUse ∨ r.switchTo.isSome then s1
  else
    let v := realignRate (s.cfg 0x1001 5) slew r.buildOut r.realign
    let rest := r.buildOut - v
    let near : Bool := decide (rest ≤ slew) && decide (-rest ≤ (slew : Int)) && decide (v ≤ slew) && decide (-v ≤ (slew : Int))
    (s1.modRef fun r => if near then { r with buildOut := 0, realign := 0 } else { r with buildOut := rest, realign := v }).writeCorr

/-- What REFSEL.SEL shows from an evaluation on (R319). -/
def Refsel.look (r : Refsel) : Refsel := { r with seenUse := r.inUse, seenMode := r.mode, seenSpec := r.hoSpec }

/-- The time-lock condition lapses when the entry that met it leaves SELECTED (R308). -/
def State.lockHolds (s : State) : State :=
  if s.cfg 0x1010 1 = 3 then s else
  let ok := s.refsel.mode == 2 && s.refsel.selectedInUse
  if s.top.state = .morning ∨ s.top.state = .dawn then s.modTop fun t => { t with timeLocked := t.timeLocked && ok } else s

/-- REFSEL_EVALUATION (R296-R299), every 1 ms outside Night (R309). -/
def execRefselEvaluation (ms : List RefMeas) (s : State) : Out :=
  let s0 := s.quiet.elapse
  if s0.top.state = .night then .next s0 else
  let s1 := s0.measureRefs ms
  let found := (List.range 16).map (s1.testEntry 1 1)
  let near := (List.range 16).map (s1.testEntry 10 9)
  let x := s1.xoDisagrees found
  let s2 := foldS (State.moveEntry s1.refsel found near) s1 (List.range 16)
  let s3 := if x && !s1.refsel.xoDis then s2.raiseT blkRefsel 0x14 .c else s2
  let s4 := (s3.modRef fun r => { r with xoDis := x, held := if r.switchTo.isSome then r.held else none }).refHistory.realignStep
  let s5 := if s4.refsel.switchTo.isSome then
      (match s4.cfg 0x1010 1, s4.refsel.inUse with
       | 0, some e => if (s4.refsel.entry e).st < 2 then (match s4.refsel.best with | some q => s4.switchTo q | none => s4) else s4
       | _, _ => s4)
    else s4.refDecide s3.refsel.held.isSome
  .next (s5.lockHolds.modRef Refsel.look)

/-- QUAL_EXPIRY (R297): QUALIFYING for QUAL with every test passed; WTR starts where the entry ranks above the one in use. -/
def execQualExpiry (entry : Nat) (s : State) : Out :=
  let s0 := s.quiet
  let x := s0.refsel.entry entry
  if x.st = 1 ∧ 1000 * s0.cfg (0x1100 + entry) 9 ≤ x.qualMs then
    let above := s0.refsel.ranksAbove entry
    .next (s0.setEntry entry fun x => { x with st := 2, wtr := if above && s0.cfgOn 0x1010 3 then some 0 else none })
  else .next s0

/-- DWELL_EXPIRY (R298): a switch to the best qualified entry. -/
def execDwellExpiry (s : State) : Out :=
  let s0 := s.quiet.elapse
  if s0.cfg 0x1010 1 = 0 ∧ s0.dwellOver then .next (match s0.refsel.best with | some q => s0.switchTo q | none => s0) else .next s0

/-- WTR_EXPIRY (R298): in revertive mode, a switch to the entry, where it is the highest-priority qualified one and ranks above the one in use. -/
def execWtrExpiry (entry : Nat) (s : State) : Out :=
  let s0 := s.quiet.elapse
  if s0.cfg 0x1010 1 = 0 ∧ s0.cfgOn 0x1010 3 ∧ s0.refsel.best = some entry ∧ s0.refsel.ranksAbove entry ∧ s0.wtrOver entry then
    .next (s0.switchTo entry)
  else .next s0

/-- SUSPECT_RECOVERY (R297): within 90 % of every limit for 5 s; not for a time offset. -/
def execSuspectRecovery (entry : Nat) (s : State) : Out :=
  let s0 := s.quiet
  let x := s0.refsel.entry entry
  if x.st = 3 ∧ x.cause ≠ 5 ∧ 5000 ≤ x.recMs then
    .next (s0.setEntry entry fun x => if s0.refsel.inUse = some entry then { x with st := 4 } else { x with st := 1, qualMs := 0 })
  else .next s0

/-- The entries that rank above `q` and are QUALIFIED start their wait to restore where it does not run (R298, log 170). -/
def Refsel.startWtr (r : Refsel) (q : Nat) : Refsel :=
  { r with entries := r.entries.map fun e => if e.1 < q ∧ e.2.st = 2 ∧ e.2.wtr.isNone then (e.1, { e.2 with wtr := some 0 }) else e }

/-- What realignment has to remove of the offset in ps that a build-out absorbed (R301), in fs: all of it for a time-bearing entry, what is left
modulo a sample period for another phase-bearing one, nothing for one that carries frequency only. -/
def State.absorbed (s : State) (q : Nat) (ps : Int) : Int :=
  if s.timeBearing q then 1000 * ps
  else if s.phaseBearing q then Int.bmod (1000 * ps * s.fs) 1000000000000000 / s.fs
  else 0

/-- REF_SWITCH (R300): RELEASE closes the loop on the new entry, with the offset in ps by which the entry was ahead of the counter; the old one, if
it passes its tests, is QUALIFIED (R297). -/
def execRefSwitch (offset : Int) (s : State) : Out :=
  let s0 := s.quiet
  match s0.refsel.switchTo with
  | none => .next s0
  | some q =>
    let s1 := (s0.unselect.setEntry q fun x => { x with st := if x.st = 2 then 4 else x.st, wtr := none }).modRef fun r =>
      { r with inUse := some q, switchTo := none, mode := 1, hoSpec := false, buildOut := s0.absorbed q offset }
    let s2 := s1.modRef fun r => if s0.cfgOn 0x1010 3 then r.startWtr q else r
    .next (s2.raiseAs blkRefsel 0x13 .c q s2.tickDetail none)

/-- TE(t) after `hoMs` ms exceeds HO_LIMIT (R303): HO_FREQ in 10^-12, HO_AGE in 10^-12 a day, HO_LIMIT in ns. -/
def State.hoExceeds (s : State) : Bool :=
  let t := s.refsel.hoMs
  decide (s.cfg 0x1010 8 * 172800000000000 < s.cfg 0x1010 6 * t * 172800000 + s.cfg 0x1010 7 * t * t)

/-- HO_SPEC_LOST (R303). -/
def execHoSpecLost (s : State) : Out :=
  let s0 := s.quiet
  if s0.refsel.mode = 3 ∧ s0.refsel.hoSpec ∧ s0.hoExceeds then
    .next ((s0.modRef fun r => { r with hoSpec := false }).raiseT blkRefsel 0x16 .u)
  else .next s0

/-- XO_FAIL (R304). -/
def execXoFail (s : State) : Out := .next ({ s.quiet with pwr := { s.pwr with xoValid := false } }.raiseT blkTime 0x10 .f)

/-- APLL_UNLOCK (R306). -/
def execApllUnlock (s : State) : Out := .next ((s.quiet.modRef fun r => { r with apllLocked := false }).raiseT blkRefsel 0x17 .f)

/-- A correction of the loop, moved by no more than FSLEW allows since the last one (R300). -/
def Refsel.slewTo (r : Refsel) (corr : Int) : Refsel :=
  let b : Int := r.slewLeft / 1000000000000
  { r with loopCorr := r.loopCorr + clampTo b (corr - r.loopCorr), slewLeft := r.slewLeft % 1000000000000 }

/-- DPLL_UPDATE (R295, R285): the closed loop writes corr, which pulls at most 50 ppm around inc (R286), and after RELEASE moves no faster than FSLEW
until it is locked (R300, log 188). -/
def execDpllUpdate (corr : Int) (s : State) : Out :=
  let s0 := s.quiet
  let c := clampTo s0.time.pullLimit corr
  if s0.refsel.mode = 1 then .next (s0.elapse.modRef fun r => r.slewTo c).writeCorr
  else if s0.refsel.mode = 2 then .next (s0.elapse.modRef fun r => { r with loopCorr := c, slewLeft := 0 }).writeCorr
  else .next s0

/-- Realignment has brought the time offset of the entry in use, if it is time-bearing, below 100 ns (R308). -/
def State.aligned (s : State) : Bool :=
  match s.refsel.inUse with
  | some e => !(s.timeBearing e) || (decide (-100 < (s.refsel.entry e).tofs) && decide ((s.refsel.entry e).tofs < 100))
  | none => true

/-- TIME_LOCK (R308): the selected entry has been steady for 2 s and realignment has ended. -/
def execTimeLock (s : State) : Out :=
  let s0 := s.quiet
  if s0.refsel.selectedInUse && s0.refsel.switchTo.isNone && s0.aligned then
    .next ((s0.modRef fun r => { r with mode := 2 }).modTop fun t => { t with timeLocked := true })
  else .next s0

/-! ### PTP (R292, R293) -/

/-- clockClass (R293); while the loop locks or switches, or the entry in use has none, the table states no class. -/
def State.clockClass (s : State) : Option Nat :=
  let r := s.refsel
  match r.mode, r.inUse with
  | 2, some e => some (if s.cfgOn (0x1100 + e) 12 then 6 else 13)
  | 3, _ => some (if !r.hoSpec then 187 else if r.hoTrace then 7 else 14)
  | 0, _ => some 248
  | _, _ => none

/-- A master port of the boundary clock: enabled, up, and not the slave port. -/
def State.ptpMasterPort (s : State) (p : Nat) : Bool := s.cfgOn 0x1200 5 p && (s.port p).up && s.refsel.ptpMaster != some p

/-- The engine is grandmaster: no port is the slave port. -/
def State.grandmaster (s : State) : Bool := s.refsel.ptpMaster.isNone

/-- A transmit timestamp of a port, in ps: the counter in steps of 125 ps (R290), with ASYM_TX added (R291). -/
def State.txStamp (s : State) (p : Nat) : Int := 125 * ((s.elapse.time.counter * 8 / 2 ^ 32 : Nat) : Int) + s.cfgI (0xC000 + p) 3 0

/-- A PTP message of a port leaves (R292). -/
def State.sendPtp (s : State) (p kind cls tsrc : Nat) (stamp : Int) (tlv : List Byte) : State := (s.secure p).emit (.ptp p kind cls tsrc stamp tlv)

/-- A message whose transmit timestamp the far end needs: one-step sending puts it into the message, two-step into the follow-up `after` (R292). -/
def State.sendStamped (s : State) (p kind after : Nat) : State :=
  let st := s.txStamp p
  let s1 := s.elapse
  if s.cfgOn 0x1200 9 p then s1.sendPtp p kind 0 0 st [] else (s1.sendPtp p kind 0 0 0 []).sendPtp p after 0 0 st []

/-- The delay request of a port under DELAY_MECH (R292): Delay_Req of the slave port, or Pdelay_Req. -/
def State.delayRequest (s : State) (p : Nat) : State :=
  if s.cfg 0x1200 8 = 1 then s.sendPtp p 2 0 0 0 [] else if s.refsel.ptpMaster = some p then s.sendPtp p 1 0 0 0 [] else s

/-- PTP_SEND (R292, R293): of a master port, Sync, Announce with its clockClass and timeSource, and as grandmaster of ST 2059-2 the metadata of
0x1200:10; of every port with PTP, the delay request of its mechanism (log 126). -/
def execPtpSend (port : Nat) (s : State) : Out :=
  let s0 := s.quiet
  if !(s0.ptpMasterPort port) then .next (if s0.cfgOn 0x1200 5 port && (s0.port port).up then s0.delayRequest port else s0) else
  let (s1, open1) := s0.freeBits .measured 8
  let (s2, open2) := s1.freeBits .measured 8
  let tsrc := match s0.refsel.inUse with | some e => s0.cfg (0x1100 + e) 13 | none => open2
  let s3 := (s2.sendStamped port 0 8).sendPtp port 11 (s0.clockClass.getD open1) tsrc 0 []
  .next (if s0.grandmaster && s0.cfg 0x1200 1 == 1 then (s3.sendPtp port 13 0 0 0 (cfgB s0.dict.vals 0x1200 10 0)).delayRequest port else s3.delayRequest port)

end Sys2Proof.Machine
end

