-- ==== Sys2Proof/Machine/Faults.lean ====
section
/-! DEFINITION. FORCE, histories, ERR_N and per-function resets with their shadows (R484-R505, R209, R239, R132, R140). -/

namespace Sys2Proof.Machine

/-! ### FORCE (R489) -/

/-- A cluster's reaction to an event of its own (R128-R130, R134). -/
def State.clusterReaction (s : State) (n ev : Nat) : State :=
  let s1 := s.spareEvent n
  if ev = 0x11 then (if (s1.cluster n).role = 1 then s1.repairSpin n false else s1)
  else if ev = 0x12 then s1.containCluster n
  else if ev = 0x13 then (if (s1.cluster n).role = 0 then s1.spareFails n else s1)
  else s1

/-- The reaction that a forced event runs with REACT = 1 (R489): those of the clusters and of PAIR; a reaction that needs what only a
detection knows has nothing to act on (log 22). -/
def State.react (s : State) (b ev : Nat) : State :=
  if isCluster b ∧ 0x11 ≤ ev then s.clusterReaction (b - 0x20) ev
  else if b = blkPair ∧ (ev = 0x14 ∨ ev = 0x16) ∧ s.pair.role = 2 then s.toRejoin
  else s

/-- A forced event: logged, counted and signalled; its reaction, the fault flag and class F only with REACT. -/
def State.forceEvent (react : Bool) (b : Nat) (s : State) (ev : Nat) : State :=
  match eventClass b ev with
  | none => s
  | some cls =>
    let e : HistEntry :=
      { code := b * 256 + ev, cls := cls, conseq := false, forced := true, polled := false, persist := false, func := 0
        stamped := false, stamp := 0, detail := 0xFFFFFFFF }
    let s1 := s.setCommon b fun c => (c.log e).flag ev cls
    let s2 := s1.modTop fun t => t.pulse cls
    let s3 := if cls = .f ∨ (cls = .u ∧ s.top.errUen) then
        { s2 with tw1 := { s2.tw1 with attnHw := s2.tw1.attnHw.lor 1 } }.emit (.pin 0 true)
      else s2
    if !react then s3
    else
      let s4 := (s3.modTop fun t => t.mark b cls s3.time.tick).react b ev
      if cls = .f then s4.classFNow b ev else s4

/-- A write to FORCE: REACT is kept; the events are raised in ascending number. -/
def State.force (s : State) (b : Nat) (val : Word) : State :=
  let react := val.getLsbD 0
  let evs := [1, 2, 3, 4].filter (fun e => val.getLsbD e) ++ ((List.range 16).filter fun i => val.getLsbD (16 + i)).map (· + 0x10)
  foldS (State.forceEvent react b) (s.setCommon b fun c => { c with forceReact := react }) evs

/-- FORCE (R489). -/
def execForce (m : Master) (block : Nat) (val : Word) (s : State) : Out :=
  .next (s.quiet.viaWrite m block 0x14 fun s => s.force block val)

/-! ### History (R486, R490) -/

/-- HIST_CTRL.CLEAR. -/
def State.clearHist (s : State) (b : Nat) : State := s.setCommon b fun c => { c with hist := [], dropped := 0 }

/-- CLEAR (R490). -/
def execClear (m : Master) (block : Nat) (s : State) : Out :=
  .next (s.quiet.viaWrite m block 0x18 fun s => s.clearHist block)

/-- Every unstamped entry of a block takes the firmware timestamp (R486). -/
def Common.stamp (c : Common) (ns : Nat) (polled : Bool) : Common :=
  { c with hist := c.hist.map fun e => if e.stamped then e else { e with stamped := true, stamp := ns % 2 ^ 64, polled := polled } }

/-- The primary Vesper core (R473). -/
def State.isPrimary (s : State) (m : Master) : Bool := (m == .ctl0 && s.fab.primary == 0) || (m == .ctl1 && s.fab.primary == 1)

/-- A read of INT_STAT: the primary core's stamps. -/
def State.readIntStat (s : State) (m : Master) (b : Nat) : State :=
  if s.isPrimary m then (s.setCommon b fun c => c.stamp s.nowNs false).fresh else s

/-- INT_STAT_READ (R486, R487). -/
def execIntStatRead (m : Master) (block : Nat) (s : State) : Out :=
  let s0 := s.quiet
  match s0.regCause m (regAddr block 0xC) 4 false with
  | some c => .next (s0.berr m (regAddr block 0xC) false c)
  | none => .next ((s0.readIntStat m block).emit (.data [(s0.common block).intStat.toNat]))

/-- FAULT_POLL (R486): the 1 ms read of every block stamps what no interrupt has. -/
def execFaultPoll (s : State) : Out :=
  let s0 := s.quiet
  .next (foldS (fun (s : State) b => if s.blockOn b then s.setCommon b fun c => c.stamp s0.nowNs true else s) s0.fresh allBlocks)

/-! ### ERR_N (R495-R497) -/

/-- ERR_N is driven low. -/
def Top.errLow (t : Top) : Bool := t.errPulse.isSome || t.errHold

/-- ERR_PULSE_END (R495): a class F pulse with FHOLD ends in HOLD; else the pin is released. -/
def execErrPulseEnd (s : State) : Out :=
  let s0 := s.quiet
  match s0.top.errPulse with
  | none => .next s0
  | some p =>
    let s1 := s0.modTop fun t => { t with errPulse := none, errHold := t.errHold || p.hold }
    .next (s1.emit (.pin 0 s1.top.errLow))

/-- HOLD written 1: the pin is released when no pulse runs. -/
def State.holdRelease (s : State) : State :=
  let s1 := s.modTop fun t => { t with errHold := false }
  if s.top.errHold then s1.emit (.pin 0 s1.top.errLow) else s1

/-- HOLD_SET written 1. -/
def State.holdSet (s : State) : State := (s.modTop fun t => { t with errHold := true }).emit (.pin 0 true)

/-- HOLD_RELEASE (R496). -/
def execHoldRelease (m : Master) (s : State) : Out := .next (s.quiet.viaWrite m blkTop 0x120 State.holdRelease)

/-- HOLD_SET (R496). -/
def execHoldSet (m : Master) (s : State) : Out := .next (s.quiet.viaWrite m blkTop 0x120 State.holdSet)

/-! ### Per-function reset (R498-R503) -/

/-- The domain of a function (R25). -/
def funcDomain (f : Nat) : Option Nat :=
  if f ≤ 5 then some 7 else if f = 9 then none else if f ≤ 10 then some 1
  else if 0x10 ≤ f ∧ f ≤ 0x18 then some (8 + (f - 0x10))
  else if 0x40 ≤ f ∧ f < 0x70 then blockDomain f
  else some 1

/-- A function's domain is ON. -/
def State.funcOn (s : State) (f : Nat) : Bool :=
  match funcDomain f with
  | none => true
  | some d => s.domOn d

/-- A request that R498 refuses. -/
def State.resetRefused (s : State) (m : Master) (f : Nat) : Bool :=
  let n := f - 0x10
  !(s.funcOn f) || (m == .hostp && f == 10) ||
    (decide (0x10 ≤ f) && decide (f ≤ 0x18) &&
      ((s.cluster n).role == 1 || (s.cluster n).phase != 0 || (List.range 9).any fun k => (s.cluster k).spinning && (s.cluster k).spinSrc == n))

/-- A shadow's duration in ticks (R503); none where it is timed in ms. -/
def shadowTicks (f : Nat) : Option Nat :=
  if f = 3 then some 3 else if f ≤ 6 then some 4 else if 0x10 ≤ f ∧ f ≤ 0x18 then some 64 else if 0x70 ≤ f then some 4 else none

/-- The signals that MIX (0) or a unit of DYN (1, 2) publishes: those of the slots it writes. -/
def unitSignals (v : Tab Val) (f : Nat) : List Nat :=
  let slots := if f = 0 then (busesOn v).map fun b => (busN v b 3).toNat
    else ((dynEnabled v).filter fun i => dynUnit v i == f - 1).map fun i => (dynN v i 3).toNat
  slots.filterMap fun k => match tfind v (dictKey 0x3002 1 k) with | some (.num g) => some g.toNat | _ => none

/-- The blocks that read a fixed unit's tick-bank outputs under the committed configuration ("downstream blocks" of R503). -/
def State.downstream (s : State) (f : Nat) : List Nat :=
  let v := s.dict.vals
  let gs := if f ≤ 2 then unitSignals v f else []
  let one (n : Int) : Bool := decide (0 ≤ n) && gs.contains n.toNat
  let strip (c : Consumer) : Bool := match selectedSig v c with | some g => gs.contains g | none => false
  (if (egressCtxs v).any fun x => ctxMode v x != 1 && ctxFwd v x != 2 && (List.range (ctxNch v x)).any fun c => strip (.egress x c) then [blkCsw] else []) ++
  (if (busesOn v).any fun b => (busList v b).any fun w => gs.contains (entrySig w) then [blkMix] else []) ++
  (if (dynEnabled v).any fun i => one (dynN v i 2) || one (dynN v i 4) then [blkDyn] else []) ++
  (if (objectsWith v 0x7000 0x7FFF 1).any fun o => one (cfgN v o 2 0) then [blkAln] else []) ++
  (if (detAssigned v).any fun d => match detSig v d with | some g => gs.contains g | none => false then [blkSil] else []) ++
  ((List.range 9).filter fun n => (s.cluster n).wsv && (s.workSet (s.cluster n).wset).img.steps.any fun d => d.inp.any fun p =>
    match p.src with | .signal g => gs.contains g | .strip c => strip c).map blkCl

/-- The names of 4.5's ports: media port, peer link and TDM port of a function code. -/
def funcPort (f : Nat) : Option Nat :=
  if 0x40 ≤ f ∧ f ≤ 0x5F then some (f - 0x40) else if 0x60 ≤ f ∧ f ≤ 0x6F then some (f - 0x60 + 32) else none

/-- The forced drain of a group (R415): nothing waits or is unacknowledged; credits and sequence numbers start afresh. -/
def Group.drained (g : Group) : Group :=
  { g with credit := [0, 0, 0], txSeq := 0, rxSeq := 0, waiting := [], replay := [], nakSent := false, adding := none }

/-- A group drains: the frames discarded are counted (word 20 of the head lane), DRAIN and the full credit of each VC go out, and
GROUP_DRAIN comes from the head lane (R415, R424). -/
def State.drainGroup (s : State) (g : Nat) : State :=
  let x := s.group g
  let h := 32 + s.groupHead g
  let s1 := ((s.setGroup g Group.drained).countPort h 20 (x.waiting.length + x.replay.length)).emit (.block g 0x66 [4, 0, 0])
  (foldS (fun (s : State) vc => s.emit (.block g 0x4B [vc, 4096, 0])) s1 [0, 1, 2]).raise (blkPort h) 0x19 .u g

/-- The lanes of a group (R412). -/
def State.groupLanes (s : State) (g : Nat) : List Nat := (List.range 16).filter fun q => bitAt (s.cfg (0xC200 + g) 1) q

/-- The state of a running group after a change of its lanes (R413): up with all, reduced, or below MIN_LANES down, which loses its
frames. -/
def State.settleGroup (s : State) (g : Nat) : State :=
  let x := s.group g
  let b := blkPort (32 + s.groupHead g)
  if x.state = 0 then s
  else if x.active.length < s.cfg (0xC200 + g) 2 then
    ((s.setGroup g fun y => { y.drained with state := 0 }).raiseAs b 0x18 .u g g none).raiseAs b 0x11 .c g g none
  else if x.state = 1 then s
  else s.setGroup g fun y => { y with state := if y.active.length = (s.groupLanes g).length then 2 else 3 }

/-- What the start of a reset does at once to a port: its link goes down, its counters clear, its group drains (R503). -/
def State.resetPort (s : State) (p : Nat) : State :=
  let was := (s.port p).up
  let s1 := s.setPort p fun x => { x with up := false, preempt := false, cnt := [], pausedCtl := false, pausedBulk := false, held := [] }
  let s2 := if was then s1.raiseAs (blkPort p) 0x11 .c p s1.tickDetail none else s1
  if 32 ≤ p then match s2.groupOfLane (p - 32) with | some g => s2.drainGroup g | none => s2 else s2

/-- A context as a reset of CSW leaves it (R617). -/
def Ctx.restart (c : Ctx) : Ctx :=
  { c with cnt := [], seq0 := none, seq1 := none, early := [], missA := 0, missB := 0, downA := false, downB := false, both := 0 }

/-- What the start of a reset of CSW does (R617): held frames go with their tags, fades and queued changes end, their new routes are cut over at
the first boundary after completion, counters, SEQ records and path state start afresh. -/
def State.resetCsw (s : State) : State :=
  let s1 := foldS (fun (s : State) e => foldS (fun (s : State) f => s.withdrawTags e.1 f.tick f.epoch) s e.2.early) s s.csw.ctx
  s1.modCsw fun c => { c with
    ctx := c.ctx.map fun e => (e.1, e.2.restart)
    fades := [], fadeQ := [], foxCut := true, foxActive := 0, foxOvf := 0 }

/-- A reset starts, with its shadow (R499-R501); that of a fixed unit or of CSW sets the fault flag (R350, R617). -/
def State.startReset (s : State) (f : Nat) : State :=
  let s1 := s.modTop fun t =>
    { t with resets := t.resets ++ [⟨f, s.time.tick⟩], frstHeld := t.frstHeld.filter (· != f)
             shadows := t.shadows ++ [{ func := f, openTick := s.time.tick, ticks := shadowTicks f, held := [], down := s.downstream f }]
             faults := if f ≤ 6 then (t.fault s.time.tick).faults else t.faults }
  match funcPort f with
  | some p => s1.resetPort p
  | none =>
    if f = 6 then s1.resetCsw
    else if f = 10 then { s1 with hostp := { s1.hostp with dstate := 0 } }
    else if 0x70 ≤ f then { s1 with tdm := { s1.tdm with ports := tmod {} s1.tdm.ports (f - 0x70) fun (x : TdmPort) => { x with slips := 0, lost := false } } }
    else s1

/-- A request for a reset (R498, R36): refused with REJ, queued behind a running one of its kind, or started. -/
def State.requestReset (m : Master) (s : State) (f : Nat) : State :=
  if s.resetRefused m f then s.modTop fun t => { t with frstRej := true }
  else if 0x40 ≤ f ∧ s.top.resets.any (fun r => decide (0x40 ≤ r.func)) then
    s.modTop fun t => { t with resetQ := t.resetQ.filter (fun q => decide (q < 0x40)) ++ [f] }
  else if s.top.resets.any fun r => r.func == f then
    s.modTop fun t => { t with resetQ := if t.resetQ.contains f then t.resetQ else t.resetQ ++ [f] }
  else s.startReset f

/-- A write to FRST0: each set bit is a request; reserved bits are refused. -/
def State.writeFrst0 (s : State) (m : Master) (val : Word) : State :=
  let s1 := if val &&& 0xFE00F800#32 = 0 then s else s.modTop fun t => { t with frstRej := true }
  foldS (State.requestReset m) s1 ((List.range 25).filter fun i => val.getLsbD i && (decide (i ≤ 10) || decide (16 ≤ i)))

/-- FRST1.GO: a request for the port TARGET names. -/
def State.goFrst1 (s : State) (m : Master) (target : Nat) : State :=
  (s.modTop fun t => { t with frstTarget := target % 64 }).requestReset m (0x40 + target % 64)

/-- FRST0 (R499). -/
def execFrst0 (m : Master) (val : Word) (s : State) : Out := .next (s.quiet.viaWrite m blkTop 0x110 fun s => s.writeFrst0 m val)

/-- FRST1_GO (R500). -/
def execFrst1Go (m : Master) (target : Nat) (s : State) : Out := .next (s.quiet.viaWrite m blkTop 0x114 fun s => s.goFrst1 m target)

/-- The block whose registers a function's reset concerns; none where other functions share the block (R13, log 155). -/
def resetBlock (f : Nat) : Option Nat :=
  if f = 0 then some blkMix else if f = 3 then some blkDp else if f = 4 then some blkAln else if f = 5 then some blkSil
  else if f = 6 then some blkCsw else if f = 7 then some blkSramc else if f = 8 then some blkTw0 else if f = 9 then some blkTw1
  else if f = 10 then some blkHostp else if 0x10 ≤ f ∧ f ≤ 0x18 then some (blkCl (f - 0x10))
  else if 0x40 ≤ f ∧ f < 0x70 then some f else none

/-- A cluster after its reset (R132, R503): the golden replay and the march pass start again, and the registers without RWS are at their reset
values. -/
def Cluster.rest (c : Cluster) : Cluster :=
  if c.role = 0 ∨ c.role = 2 then
    { c with march := 0, stPass := 0, golden := false, cycles := 0, replays := 0, peak := 0, hostOvg := 0, hostSat := 0, hostCirc := 0, hostAddr := 0 }
  else c

/-- The state a function restarts from (R209, R239, R503); the block's own fields without RWS return to their reset values (R13, log 155). -/
def State.functionRest (s : State) (f : Nat) : State :=
  let s := match resetBlock f with | some b => s.setCommon b Common.keepRws | none => s
  if f = 0 then { s with mix := { buses := s.mix.buses.map fun e => (e.1, e.2.rest) } }
  else if f ≤ 2 then
    { s with dyn := { s.dyn with insts := s.dyn.insts.map fun e => (e.1, if dynUnit s.dict.vals e.1 = f - 1 then e.2.rest else e.2) } }
  else if f = 3 then { s with dp := { s.dp with ch := s.dp.ch.map (fun e => (e.1, e.2.rest)), limAct := 0, limNow := 0, clip := 0, late := 0 } }
  else if f = 4 then { s with aln := { outs := s.aln.outs.map fun e => (e.1, e.2.rest) } }
  else if f = 5 then { s.silRest with sil := { s.silRest.sil with sel := 0, mail := {} } }
  else if f = 6 then s.modCsw fun c => { c with cntSel := 0, mail := {} }
  else if f = 8 then { s with tw0 := { queue := s.tw0.queue } }
  else if f = 9 then
    { s with tw1 := { attnHw := s.tw1.attnHw, attnFw := s.tw1.attnFw, fast := s.tw1.fast, req := s.tw1.req, resp := s.tw1.resp, asked := s.tw1.asked } }
  else if f = 10 then { s with hostp := {} }
  else if 0x10 ≤ f ∧ f ≤ 0x18 then s.setCluster (f - 0x10) Cluster.rest
  else s

/-- A queued request starts once nothing of its kind runs (R36). -/
def State.nextReset (s : State) : State :=
  let free (q : Nat) : Bool :=
    if 0x40 ≤ q then !(s.top.resets.any fun r => decide (0x40 ≤ r.func)) else !(s.top.resets.any fun r => r.func == q)
  match s.top.resetQ.find? free with
  | none => s
  | some q => (s.modTop fun t => { t with resetQ := t.resetQ.filter (· != q) }).startReset q

/-- FRST_DONE (R503): the function restarts from rest; the event's detail is its code. -/
def execFrstDone (func : Nat) (s : State) : Out :=
  let s0 := s.quiet
  if s0.top.resets.any fun r => r.func == func then
    let s1 := (s0.modTop fun t => { t with resets := t.resets.filter fun r => r.func != func }).functionRest func
    .next (s1.raise blkTop 0x10 .c func).nextReset
  else .next s0

/-- FRST_FAIL (R484): the function is held in reset until it is requested again. -/
def execFrstFail (func : Nat) (s : State) : Out :=
  let s0 := s.quiet
  if s0.top.resets.any fun r => r.func == func then
    let s1 := s0.modTop fun t => { t with resets := t.resets.filter (fun r => r.func != func), frstHeld := t.frstHeld ++ [func] }
    .next (s1.raise blkTop 0x11 .u func).nextReset
  else .next s0

/-! ### The close of a shadow (R504) -/

/-- A detector's condition still holds; occurrences have none. -/
def State.conditionHolds (s : State) (h : HeldCond) : Bool :=
  if h.blk = blkCsw then
    if h.ev = 0x10 then (match s.newestCount h.detail with | some n => decide (8 ≤ s.countRun h.detail 8 n) | none => false)
    else if h.ev = 0x12 then (s.ctx h.detail).downA
    else if h.ev = 0x13 then (s.ctx h.detail).downB
    else false
  else if h.blk = blkRefsel then h.ev == 0x10 && (s.refsel.entry h.detail).los
  else if h.blk = blkTdm then h.ev == 0x10 && (tget ({} : TdmPort) s.tdm.ports h.detail).lostNow
  else if isCluster h.blk then h.ev == 0x14 && !((List.range 9).any fun n => (s.cluster n).role == 0)
  else if 0x40 ≤ h.blk then
    let p := if h.blk < 0x60 then h.blk - 0x40 else h.blk - 0x60 + 32
    if h.ev = 0x11 then !(s.port p).up
    else if h.ev = 0x16 then decide (32 ≤ p) && decide ((s.port p).eye < s.cfg (0xC000 + p) 31)
    else if h.ev = 0x17 then (match s.groupOfLane (p - 32) with | some g => !((s.group g).active.contains (p - 32)) | none => false)
    else false
  else false

/-- Each held detector once. -/
def heldOnce : List HeldCond → List HeldCond
  | [] => []
  | h :: t => h :: (heldOnce t).filter (· != h)

/-- The shadows after one closes: those that opened after it know of it (R505). -/
def afterClose (x : Shadow) : List Shadow → List Shadow
  | [] => []
  | y :: t => if y = x then t.map fun z => { z with before := z.before ++ x.before ++ [(x.func, x.down)] } else y :: afterClose x t

/-- A condition held by a shadow that closes: it goes on in another shadow that contains it, else it is raised with PERSIST and FUNC if it still
holds (R504, R505). -/
def State.reexamine (func : Nat) (s : State) (h : HeldCond) : State :=
  match s.shadowFor h.blk h.ev h.detail with
  | some y => s.holdIn y h
  | none =>
    match eventClass h.blk h.ev with
    | some cls =>
      if s.conditionHolds h then
        s.raiseAs h.blk h.ev cls h.detail (if h.blk = blkCsw ∨ h.blk = blkTdm then h.detail else s.tickDetail) (some func)
      else s
    | none => s

/-- SHADOW_CLOSE (R501, R504): conditions that still hold are raised with PERSIST and FUNC. -/
def execShadowClose (func : Nat) (s : State) : Out :=
  let s0 := s.quiet
  match s0.top.shadows.find? fun x => x.func == func with
  | none => .next s0
  | some x =>
    let due := match x.ticks with | some k => decide (x.openTick + k ≤ s0.time.tick) || !s0.time.running | none => true
    if !due then .next s0
    else
      .next (foldS (State.reexamine func) (s0.modTop fun t => { t with shadows := afterClose x t.shadows }) (heldOnce x.held))

/-! ### Spare-in commands through SPIN (R140) -/

/-- SPIN_START (R140). -/
def execSpinStart (m : Master) (cl src : Nat) (forced : Bool) (s : State) : Out :=
  .next (s.quiet.viaWrite m (blkCl cl) 0x120 fun s => s.spinCommand cl src forced)

/-- SPIN_ABANDON (R140). -/
def execSpinAbandon (m : Master) (cl : Nat) (s : State) : Out :=
  .next (s.quiet.viaWrite m (blkCl cl) 0x120 fun s => s.spinAbandon cl)

end Sys2Proof.Machine
end

