-- ==== Sys2Proof/Machine/Power.lean ====
section
/-! DEFINITION. PWR: domains, the AVS loop, board regulators, temperatures and voltages (R25, R26, R417, R507-R524). -/

namespace Sys2Proof.Machine

def State.modPwr (s : State) (f : Pwr → Pwr) : State := { s with pwr := f s.pwr }

/-! ### Conditions for switching off (R25, R26, R505) -/

/-- Every stream and group that one port domain carries has a live path through the other. -/
def State.otherHalfLive (s : State) (d : Nat) : Bool :=
  let v := s.dict.vals
  let o := 9 - d
  ((validCtxs v).all fun x =>
    !((ctxPorts v x).any fun p => decide (p < 32) && portIn d p) ||
      (ctxPorts v x).any fun p => if p < 32 then portIn o p && (s.port p).up else s.ctxLinked x) &&
  ((List.range 16).all fun g =>
    let lanes := (List.range 16).filter fun q => bitAt (s.cfg (0xC200 + g) 1) q
    !(lanes.any fun q => portIn d (32 + q)) ||
      decide (s.cfg (0xC200 + g) 2 ≤ ((s.group g).active.filter fun q => portIn o (32 + q)).length))

/-- The condition of R25 under which a domain may go off; a standby core's not while an image is staged or watched (R458, log 167). -/
def State.mayGoOff (s : State) (d : Nat) : Bool :=
  let v := s.dict.vals
  let idle := s.top.state == .dawn || s.top.state == .night
  let running := s.top.resets.any fun r => funcDomain r.func == some d
  !running &&
  (if d ≤ 1 then idle
   else if d = 2 ∨ d = 3 then s.fab.primary != d - 2 && (idle || (!(s.cfgOn 0x0050 6) && s.fab.stage == 0 && s.fab.watchEnd.isNone))
   else if d = 4 ∨ d = 5 then idle || s.otherHalfLive d
   else if d = 6 then idle || ((s.aln.outs.all fun e => e.2.region.isNone) && !(s.dict.units.any fun u => u.kind == .recall))
   else if d = 7 then
     idle || ((busesOn v).isEmpty && (dynEnabled v).isEmpty && (s.aln.outs.all fun e => e.2.region.isNone) &&
       (s.dp.ch.all fun e => !e.2.running) && (s.mix.buses.all fun e => !e.2.running))
   else idle || ((s.cluster (d - 8)).role != 1 && !(s.cluster (d - 8)).spinning))

/-! ### Switching (R508, R509) -/

/-- The domain starts switching. -/
def State.beginSwitch (s : State) (d : Nat) (on : Bool) : State :=
  s.modPwr fun p => { p with busy := some d, switchOn := on, avsHold := p.avsHold || on }

/-- Insertion in code order. -/
def insertDom (x : Nat × Bool) : List (Nat × Bool) → List (Nat × Bool)
  | [] => [x]
  | y :: t => if x.1 < y.1 then x :: y :: t else if x.1 = y.1 then x :: t else y :: insertDom x t

/-- The domain of a FAULTY cluster, which is held powered down (R111). -/
def State.heldDown (s : State) (d : Nat) : Bool := decide (8 ≤ d) && (s.cluster (d - 8)).role == 3

/-- A request to switch a domain: refused with PWR_REJ under R26 or for a FAULTY cluster, else run or queued. -/
def State.switchDomain (s : State) (d : Nat) (on : Bool) : State :=
  if 17 ≤ d ∨ (!on ∧ !(s.mayGoOff d)) ∨ (on ∧ s.heldDown d) then s.setCommon blkPwr fun c => { c with pwrRej := true }
  else if s.pwr.busy.isSome then s.modPwr fun p => { p with queue := insertDom (d, on) p.queue }
  else if s.domOn d = on then s
  else s.beginSwitch d on

/-- The next queued request that changes something starts; one whose condition no longer holds is refused (R26). -/
def State.nextSwitch (s : State) : List (Nat × Bool) → State
  | [] => s.modPwr fun p => { p with busy := none, queue := [] }
  | (d, on) :: t =>
    if s.domOn d = on then s.nextSwitch t
    else if (!on ∧ !(s.mayGoOff d)) ∨ (on ∧ s.heldDown d) then (s.setCommon blkPwr fun c => { c with pwrRej := true }).nextSwitch t
    else (s.modPwr fun p => { p with queue := t }).beginSwitch d on

/-- SWITCH, the ACTION 0xD300:02 (R508, R26). -/
def execSwitch (dom : Nat) (on : Bool) (s : State) : Out := .next (s.quiet.switchDomain dom on)

/-- A cluster that was OFF is powered again: it owns no work set and stands ready, so it is SPARE (R111). -/
def State.poweredOn (s : State) (d : Nat) : State :=
  if 8 ≤ d ∧ (s.cluster (d - 8)).role = 2 then s.setCluster (d - 8) fun c => { c with role := 0 } else s

/-- The only SPARE has been switched off: NO_SPARE (R130). -/
def State.poweredOff (s t : State) (d : Nat) : State := if 8 ≤ d ∧ (s.cluster (d - 8)).role = 0 then t.noteNoSpare (d - 8) else t

/-- DOMAIN_ON (R508): the domain is ON, and the next request starts. -/
def execDomainOn (dom : Nat) (s : State) : Out :=
  let s0 := s.quiet
  if s0.pwr.busy = some dom ∧ s0.pwr.switchOn then
    let s1 := (s0.modPwr fun p => { p with on := p.on.lor (2 ^ dom), busy := none }).poweredOn dom
    .next (s1.nextSwitch s1.pwr.queue)
  else .next s0

/-- DOMAIN_OFF (R508, R516): the domain's blocks lose their state; a spare that is switched off is OFF. -/
def execDomainOff (dom : Nat) (s : State) : Out :=
  let s0 := s.quiet
  if s0.pwr.busy = some dom ∧ !s0.pwr.switchOn then
    let s1 := s0.poweredOff ((s0.modPwr fun p => { p with on := p.on - p.on.land (2 ^ dom), busy := none }).domainLost dom) dom
    .next (s1.nextSwitch s1.pwr.queue)
  else .next s0

/-- Lanes of a group go (R413): LANECTL REMOVE, and ALIGN on those that remain. -/
def State.removeLanes (s : State) (g : Nat) (go : List Nat) : State :=
  if go.isEmpty then s
  else
    let s1 := s.setGroup g fun x => { x with active := x.active.filter fun q => !(go.contains q) }
    let s2 := foldS (fun (s : State) q => s.setPort (32 + q) fun x => { x with up := false }) s1 go
    let s3 := s2.emit (.block g 0x66 [1, sumN (go.map fun q => 2 ^ q), 0])
    (if (s3.group g).active.isEmpty then s3 else s3.emit (.block g 0x55 [(s3.group g).marker])).settleGroup g

/-- A media port's link goes down (R395, R423); frames that wait are lost. -/
def State.dropLink (s : State) (p : Nat) : State :=
  if !((s.port p).up) then s
  else
    ((s.setPort p fun x => { x with up := false, preempt := false, pausedCtl := false, pausedBulk := false, held := [] }).countPort p 33).raiseAs
      (blkPort p) 0x11 .c p s.tickDetail none

/-- A port half goes down or comes back (R417): accepted, its ports start no new frame and go down, and lanes of groups with lanes
in the other half are removed. -/
def State.switchHalf (s : State) (d : Nat) (off : Bool) : State :=
  if !off then s.switchDomain d true
  else if !(s.mayGoOff d) then s.switchDomain d false
  else
    let s1 := foldS (fun (s : State) g => s.removeLanes g ((s.group g).active.filter fun q => portIn d (32 + q))) s (List.range 16)
    let s2 := foldS (fun (s : State) p => s.dropLink p) s1 ((List.range 32).filter (portIn d))
    -- the condition of R25 was met when the request was accepted
    if s2.pwr.busy.isSome then s2.modPwr fun p => { p with queue := insertDom (d, false) p.queue }
    else if s2.domOn d then s2.beginSwitch d false else s2

/-- NORTH, the ACTION 0xC400:01 (R417). -/
def execNorth (off : Bool) (s : State) : Out := .next (s.quiet.switchHalf 4 off)

/-- SOUTH, the ACTION 0xC400:02 (R417). -/
def execSouth (off : Bool) (s : State) : Out := .next (s.quiet.switchHalf 5 off)

/-- The order of Dawn (R509). -/
def dawnOrder : List Nat := [0, 1, 2, 3, 6, 4, 5, 7, 8, 9, 10, 11, 12, 13, 14, 15, 16]

/-- XO_IN_VALID (R509): in Dawn, PWR starts switching the domains on. -/
def execXoInValid (s : State) : Out :=
  let s0 := s.quiet.modPwr fun p => { p with xoValid := true }
  if s0.top.state = .dawn ∧ !s0.top.inReset ∧ s0.pwr.busy = none then .next (s0.nextSwitch (dawnOrder.map fun d => (d, true)))
  else .next s0

/-! ### AVS (R513, R514) -/

/-- The CORE regulator (R527). -/
def State.coreReg (s : State) : Option Nat := (List.range 16).find? fun r => s.cfgOn (0xD310 + r) 5 && s.cfg (0xD310 + r) 1 != 0

/-- AVS holds its set point: a switch-on and 1 ms after it, TW0 in reset, the CORE regulator absent. -/
def State.avsHeld (s : State) : Bool :=
  s.pwr.busy.isSome && s.pwr.switchOn || s.pwr.avsHold || s.resetting 8 ||
    (match s.coreReg with | some r => decide (3 ≤ (tget ({} : Regulator) s.pwr.regs r).nackPolls) | none => false)

/-- The new set point and the run of high margins. -/
def avsStep (target : Nat) (m : Int) (vset high : Nat) : Nat × Nat :=
  if m < 15 then (min 40 (vset + 2), 0)
  else if m < target then (min 40 (vset + 1), 0)
  else if m ≤ target + 20 then (vset, 0)
  else if 100 ≤ high + 1 then (vset - 1, 0)
  else (vset, high + 1)

/-- A PMBus write of PWR: command, data and PEC, which covers the address byte too (R519, log 205). -/
def pmbusWrite (addr cmd : Nat) (data : List Byte) : Tw0Job :=
  let b := b8 cmd :: data
  ⟨addr, true, b ++ [crc8 (b8 (2 * addr) :: b)]⟩

/-- PAGE and VOUT_COMMAND to the CORE regulator wait on TW0 (R513, R519, R537); the regulator's code for the set point is free (log 205). -/
def State.sendVout (s : State) : State :=
  match s.coreReg with
  | none => s
  | some r =>
    let a := s.cfg (0xD310 + r) 1
    let code := (Config.free64 .measured s.freeCtr 2500).toNat % 2 ^ 16
    { s.fresh with tw0 := { s.tw0 with queue := s.tw0.queue ++
      [pmbusWrite a 0 [b8 (s.cfg (0xD310 + r) 2)], pmbusWrite a 0x21 (beBytes 2 code)] } }

/-- AVS_EVALUATION (R513, R514), every 1 ms from PD_FAB's being ON. -/
def execAvsEvaluation (slacks : List Int) (s : State) : Out :=
  let s0 := s.quiet
  match slacks with
  | [] => .next s0
  | x :: t =>
    if !(s0.domOn 1) then .next s0 else
    let m := -(maxI (-x) (t.map fun y => -y))
    let target := s0.cfg 0xD300 3
    let was := s0.pwr.vset = 40 ∧ s0.pwr.margin < target
    let (vs, hi) := if s0.avsHeld then (s0.pwr.vset, s0.pwr.avsHighMs) else avsStep target m s0.pwr.vset s0.pwr.avsHighMs
    let s1 := s0.modPwr fun p => { p with margin := m, vset := vs, avsHighMs := hi, avsHold := p.busy.isSome && p.switchOn }
    let s2 := if vs = s0.pwr.vset then s1 else s1.sendVout
    let s3 := if s0.pwr.vset = 40 ∧ m < target ∧ !was then s2.raiseT blkPwr 0x10 .u else s2
    .next (if m < 0 then s3.raiseT blkPwr 0x11 .f else s3)

/-! ### Board regulators (R520) -/

/-- A voltage lies outside a per-mille window of a nominal. -/
def outside (v nom pm : Nat) : Bool := decide (v * 1000 < nom * (1000 - pm)) || decide (nom * (1000 + pm) < v * 1000)

/-- Attention bit 3 (R544). -/
def State.attnReg (s : State) : State := { s with tw1 := { s.tw1 with attnHw := s.tw1.attnHw.lor 8 } }

def State.setReg (s : State) (r : Nat) (f : Regulator → Regulator) : State := s.modPwr fun p => { p with regs := tmod {} p.regs r f }

/-- One regulator's poll. -/
def State.pollReg (s : State) (q : RegPoll) : State :=
  let o := 0xD310 + q.reg
  let x := tget ({} : Regulator) s.pwr.regs q.reg
  if 16 ≤ q.reg ∨ s.cfg o 1 = 0 then s
  else if !q.ack then
    let s1 := s.setReg q.reg fun x => { x with nackPolls := x.nackPolls + 1, present := x.present && decide (x.nackPolls + 1 < 3)
                                               status := if 3 ≤ x.nackPolls + 1 then 0 else x.status }
    if x.nackPolls + 1 = 3 then (s1.raise blkPwr 0x15 .u q.reg).attnReg else s1
  else
    let nom := if s.cfgOn o 5 then vcoreMv s.pwr.vset else s.cfg o 6
    let warn := outside q.vout nom 30 || q.warn
    let bad := outside q.vout nom 50 || q.fault || decide (s.cfg o 7 < q.iout)
    let n := if bad then x.badPolls + 1 else 0
    let s1 := s.setReg q.reg fun x => { x with nackPolls := 0, present := true, badPolls := n
                                               status := if 3 ≤ n then 3 else if warn then 2 else 1 }
    let s2 := if warn then (s1.raise blkPwr 0x13 .c q.reg).attnReg else s1
    if n = 3 then (s2.raise blkPwr 0x14 (if s.cfgOn o 4 then .f else .u) q.reg).attnReg else s2

/-- REGULATOR_POLL (R519, R520), while PD_FAB is ON and TW0 is not held in reset. -/
def execRegulatorPoll (polls : List RegPoll) (s : State) : Out :=
  let s0 := s.quiet
  if !(s0.domOn 1) || s0.resetting 8 || s0.top.absent.contains blkTw0 then .next s0 else .next (foldS State.pollReg s0 polls)

/-! ### Temperatures and voltages (R521-R524) -/

def tjMax : Int := if Config.gradeE then 105 else 100

/-- The threshold of a level, 1 WARN to 3 CRIT. -/
def State.thermAt (s : State) (l : Nat) : Int := if l = 1 then tjMax - s.cfg 0xD400 2 else if l = 2 then tjMax - 3 else tjMax

/-- A level is entered at its threshold and kept until 3 °C below it. -/
def State.thermIn (s : State) (t : Int) (l : Nat) : Bool :=
  decide (s.thermAt l ≤ t) || (decide (l ≤ s.pwr.therm) && decide (s.thermAt l - 3 < t))

/-- The hottest of a list and its position. -/
def hottest : List Int → Nat → Int → Nat → Int × Nat
  | [], _, m, k => (m, k)
  | x :: t, i, m, k => if m < x then hottest t (i + 1) x i else hottest t (i + 1) m k

/-- THERMAL_READ (R521), every 1 ms. -/
def execThermalRead (temps : List Int) (s : State) : Out :=
  let s0 := s.quiet
  match temps with
  | [] => .next s0
  | x :: t =>
    let (hot, k) := hottest t 1 x 0
    let lv := if s0.thermIn hot 3 then 3 else if s0.thermIn hot 2 then 2 else if s0.thermIn hot 1 then 1 else 0
    let old := s0.pwr.therm
    let s1 := s0.modPwr fun p => { p with temps := temps.take 20, tmax := hot, sensor := k, therm := lv }
    let s2 := if lv = old then s1 else { s1 with tw1 := { s1.tw1 with attnHw := s1.tw1.attnHw.lor 4 } }
    let s3 := if old < 1 ∧ 1 ≤ lv then s2.raiseT blkPwr 0x16 .c else s2
    let s4 := if old < 2 ∧ 2 ≤ lv then s3.raiseT blkPwr 0x17 .u else s3
    .next (if old < 3 ∧ 3 ≤ lv then s4.raiseT blkPwr 0x18 .f else s4)

/-- Every switched domain goes off and the engine is in Night, without the self-fence of R30. -/
def State.tripOff (s : State) : State :=
  let s1 := s.enterNight 5
  foldS State.domainLost ({ s1 with
    top := { s1.top with nightDeep := true }
    pwr := { s1.pwr with on := 0, busy := none, queue := [], gated := 0, waking := 0 } }) (List.range 17)

/-- THERM_TRIP (R521, R524). -/
def execThermTrip (s : State) : Out := .next (s.quiet.tripOff.raiseT blkPwr 0x19 .f)

/-- VMON_WARN and VMON_FAIL (R523): VMON records the rail. -/
def execVmonWarn (rail : Nat) (fail : Bool) (s : State) : Out :=
  let s0 := s.quiet
  if 9 ≤ rail then .next s0
  else
    let s1 := s0.modPwr fun p => { p with vmon := p.vmon.lor (2 ^ rail) }
    .next (if fail then s1.raiseT blkPwr 0x1B .f else s1.raiseT blkPwr 0x1A .c)

end Sys2Proof.Machine
end

