-- ==== Sys2Proof/Machine/Security.lean ====
section
/-! DEFINITION. SEC: sessions, ownership, closures, challenges and grants, media and mirror keys (R363-R394). -/

namespace Sys2Proof.Machine

def State.modSec (s : State) (f : Sec → Sec) : State := { s with sec := f s.sec }

/-- An event of SEC (R389, R394); chapter 11 names no details, so the detail is the tick (R493). -/
def State.secEvent (s : State) (ev : Nat) (cls : EvClass) (who : Nat) : State := s.raiseAs blkSec ev cls who s.tickDetail none

/-! ### Free bytes: nonces, ephemeral keys, signatures -/

/-- `n` free bytes of a use. -/
def freeBytes (u : Config.Use) (ctr n : Nat) : List Byte := (List.range n).map fun i => b8 (Config.free64 u ctr i).toNat

/-- A key of 32 bytes that HKDF expands from a shared secret (R372, R377): it follows from ephemeral keys of the TRNG. -/
def keyBytes (ctr k : Nat) : List Byte := (List.range 32).map fun i => b8 (Config.free64 .sealed ctr (1000 + 32 * k + i)).toNat

/-- A free nonce of 16 bytes. -/
def State.freshNonce (s : State) : State × Nat := (s.fresh, beNat (freeBytes .trng s.freeCtr 16))

/-! ### Sessions (R372-R377) -/

/-- A SESSION identifier not in use: the first free one from a free value on. -/
def unusedId (used : List Nat) (r : Nat) : Nat :=
  (((List.range (used.length + 1)).map fun i => 1 + (r + i) % (2 ^ 32 - 1)).find? fun i => !(used.contains i)).getD 1

/-- The session that has been idle longest. -/
def longestIdle : List Session → Option Session
  | [] => none
  | x :: t => match longestIdle t with
    | none => some x
    | some y => if x.used ≤ y.used then some x else some y

/-- A source address is ignored at a time (R389). -/
def Sec.ignores (c : Sec) (src ms : Nat) : Bool := c.hsIgnored.any fun p => p.1 == src && decide (ms < p.2)

/-- Handshakes are taken: the engine is OWNED, out of Dawn, and its TRNG is healthy (R365, R389, R565). -/
def State.takesHandshake (s : State) (src ms : Nat) : Bool :=
  s.sec.life == 1 && s.sec.trngOk && s.top.state != .dawn && !(s.sec.ignores src ms)

/-- HANDSHAKE_HELLO (R372, R375): REPLY, and with 32 sessions open the one idle longest ends. -/
def execHandshakeHello (h : HelloMsg) (s : State) : Out :=
  let s0 := s.quiet
  if !(s0.takesHandshake h.src h.ms) then .next s0 else
  let c := s0.freeCtr
  let id := unusedId (s0.sec.sessions.map (·.id) ++ s0.sec.handshakes.map (·.1)) (Config.free64 .trng c 200).toNat
  let out := if 32 ≤ s0.sec.sessions.length then (longestIdle s0.sec.sessions).map (·.id) else none
  let s1 := s0.fresh.modSec fun x => { x with
    handshakes := (id, h.src, h.role) :: x.handshakes, sessions := x.sessions.filter fun y => some y.id != out }
  .next (s1.emit (.response (id + 2) 0 stOk
    (freeBytes .trng c 80 ++ beBytes 4 id ++ s0.sec.devCert ++ s0.sec.idkPub ++ freeBytes .sealed c 64)))

/-- The addresses an engine opens sessions with as an engine (R377). -/
def State.peerAddrs (s : State) : List Nat :=
  (if s.paired then [s.cfg 0xB000 2, s.cfg 0xB000 3] else []) ++
    (List.range 8).flatMap fun k => if s.cfgOn (0xB100 + k) 1 then [s.cfg (0xB100 + k) 2, s.cfg (0xB100 + k) 3] else []

/-- A CERT_ID is revoked (R373, 0xE010). -/
def State.revoked (s : State) (cert : Nat) : Bool := (List.range 256).any fun e => s.cfg 0xE010 1 e == cert

/-- A credential is accepted (R373). -/
def State.credentialOk (s : State) (p : ProveMsg) : Bool :=
  p.sigOk && decide (p.role ≤ 4) && p.certId != 0 &&
  (p.issuer == .owner || (p.issuer == .service && p.role == 4)) &&
  (p.role != 3 || p.selfIssued) &&
  (p.scope == List.replicate 16 0 || p.scope == s.dict.serial) && !(s.revoked p.certId) &&
  (p.notAfter == 0 || (s.time.todSet && decide (s.nowNs ≤ p.notAfter))) &&
  (p.role != 4 || (match s.sec.grant with | some g => bitAt g.access 1 | none => false))

/-- A PROVE is accepted: as a partner or Owl, or by its credential. -/
def State.proveOk (s : State) (p : ProveMsg) : Bool :=
  match p.peer with
  | some q => p.sigOk && q.certOk && q.ownerOk && s.peerAddrs.contains q.addr
  | none => s.credentialOk p

/-- A failed handshake (R389): counted; 16 from one address in 1 s make the engine ignore it for 10 s. -/
def State.handshakeFails (s : State) (src ms : Nat) : State :=
  let l := ms :: (tget [] s.sec.hsSrc src).filter fun t => decide (ms < t + 1000)
  let s1 := s.modSec fun x => { x with hsFail := (x.hsFail + 1) % 2 ^ 32, hsSrc := tset x.hsSrc src l }
  if 16 ≤ l.length then
    (s1.modSec fun x => { x with hsSrc := tdel x.hsSrc src, hsIgnored := (src, ms + 10000) :: x.hsIgnored.filter (·.1 != src) }).secEvent 0x15 .c src
  else s1

/-- The role of a session: the credential's, limited to the one requested (R372).  Service does not rank among the others: what both may do is
what an Observer may (log 171). -/
def sessionRole (cred asked : Nat) : Nat := if cred = asked then cred else if cred = 4 ∨ asked = 4 then 0 else Nat.min cred asked

/-- HANDSHAKE_PROVE (R372, R373, R377): the session opens with READY, or nothing answers. -/
def execHandshakeProve (p : ProveMsg) (s : State) : Out :=
  let s0 := s.quiet
  if s0.sec.life ≠ 1 ∨ s0.sec.ignores p.src p.ms then .next s0 else
  match s0.sec.handshakes.find? fun h => h.1 == p.session && h.2.1 == p.src with
  | none => .next (s0.handshakeFails p.src p.ms)
  | some h =>
    let ok := s0.proveOk p
    let s1 := s0.fresh.modSec fun x => { x with handshakes := x.handshakes.filter fun y => y.1 != p.session }
    if !ok then .next (s1.handshakeFails p.src p.ms) else
    let n : Session :=
      { id := p.session, role := sessionRole p.role h.2.2, kind := b2n p.peer.isSome, src := p.src, txSeq := 1, used := s0.sec.useCtr + 1
        slot := s0.sec.slot, certId := p.certId, notAfter := p.notAfter
        keyIn := keyBytes s0.freeCtr 0, keyOut := keyBytes s0.freeCtr 1 }
    let n1 := if p.peer.isSome then { n with role := 0, certId := 0, notAfter := 0 } else n
    let partner : Bool := s0.paired && (p.peer.map (·.addr)) == some (s0.cfg 0xB000 2)
    .next ((s1.modSec fun x => { x with
      sessions := n1 :: x.sessions, useCtr := x.useCtr + 1, mirrorKey := if partner then keyBytes s0.freeCtr 2 else x.mirrorKey }).emit
        (.response (p.session + 2) 0 stOk []))

/-- A session ends. -/
def State.endSession (s : State) (id : Nat) : State := s.modSec fun x => { x with sessions := x.sessions.filter fun y => y.id != id }

/-- SESSION_IDLE (R375). -/
def execSessionIdle (id : Nat) (s : State) : Out := .next (s.quiet.endSession id)

/-- CREDENTIAL_EXPIRY (R375): NOT_AFTER of the session's credential has passed. -/
def execCredentialExpiry (id : Nat) (s : State) : Out :=
  let s0 := s.quiet
  .next (s0.fresh.modSec fun x => { x with sessions := x.sessions.filter fun y =>
    !(y.id == id && y.notAfter != 0 && s0.time.todSet && decide (y.notAfter < s0.nowNs)) })

/-! ### Grants (R386-R388) -/

/-- A grant ends: the Service sessions end, JTAG debug stops, and HOSTP has its own role again. -/
def State.endGrant (s : State) : State :=
  match s.sec.grant with
  | none => s
  | some _ => (s.modSec fun x => { x with grant := none, sessions := x.sessions.filter fun y => y.role != 4 }).stopDebug

/-- GRANT_EXPIRY (R387). -/
def execGrantExpiry (s : State) : Out := .next s.quiet.endGrant

/-- CLOSE_NOW, the ACTION 0xE003:04 (R387). -/
def execCloseNow (s : State) : Out := .next s.quiet.endGrant

/-- CHALLENGE, the ACTION 0xE004:01 (R386, R389): refused for 60 s after 4 failures, and without a healthy TRNG. -/
def execChallenge (sinceFail : Nat) (s : State) : Out :=
  let s0 := s.quiet
  if !s0.sec.trngOk ∨ (4 ≤ s0.sec.openFails ∧ sinceFail < 60) then .next s0 else
  let (s1, n) := s0.freshNonce
  .next (s1.modSec fun x => { x with challenge := some n, openFails := if 4 ≤ x.openFails then 0 else x.openFails })

/-- An opening response is accepted (R386, R388). -/
def State.responseOk (s : State) (r : OpenResp) : Bool :=
  s.sec.challenge == some r.nonce && decide (r.age < 300) && r.serial == s.dict.serial && r.sigOk &&
  decide (2 ≤ r.role) && decide (r.role ≤ 4) && decide (r.access < 32) && decide (1 ≤ r.expiry) && decide (r.expiry ≤ 604800) &&
  (match r.signer with
   | .owner => s.sec.life == 1
   | .service => !(bitAt s.sec.fuses 5) && decide (r.access < 4) && r.role == 4
   | .other => false)

/-- RESPONSE, the ACTION 0xE004:02 (R386-R388): a grant starts, replacing a running one, or the nonce is spent. -/
def execResponse (r : OpenResp) (s : State) : Out :=
  let s0 := s.quiet
  if s0.responseOk r then
    let s1 := s0.modSec fun x => { x with
      challenge := none, grant := some ⟨r.access, r.role, r.expiry⟩
      sessions := if bitAt r.access 1 then x.sessions else x.sessions.filter fun y => y.role != 4 }
    .next (s1.secEvent 0x1C .c r.access)
  else
    .next ((s0.modSec fun x => { x with challenge := none, openFails := x.openFails + 1 }).secEvent 0x18 .c 0)

/-! ### Ownership (R370, R371) -/

/-- NONCE, the ACTION 0xE001:01 (R370, R389). -/
def execNonce (s : State) : Out :=
  let s0 := s.quiet
  if !s0.sec.trngOk then .next s0 else
  let (s1, n) := s0.freshNonce
  .next (s1.modSec fun x => { x with nonce := some n })

/-- The request reaches Hedgehog: class C, or HOSTP and TW1 while UNOWNED (R390). -/
def State.requestReaches (s : State) (via : OwnerVia) : Bool :=
  match via with
  | .session => s.sec.life == 1
  | .hostp => s.sec.life == 0 || s.hostRole == 3
  | .tw1 => s.sec.life == 0

/-- The lowest free owner slot. -/
def Sec.freeSlot (c : Sec) : Option Nat := (List.range 4).find? fun k => !(bitAt c.used k)

/-- What every accepted request meets: a fresh nonce, its serial, its signature (R370). -/
def State.requestOk (s : State) (r : OwnerReq) : Bool :=
  s.sec.nonce == some r.nonce && decide (r.age ≤ 300) && r.serial == s.dict.serial && r.sigOk

/-- SIGNER is the active owner. -/
def State.byOwner (s : State) (r : OwnerReq) : Bool := s.sec.life == 1 && r.signer == tget [] s.sec.ownerHash s.sec.slot

/-- A request that fails its conditions, or its fuses: the nonce is spent (R370, R389). -/
def State.requestFails (s : State) (ev : Nat) (cls : EvClass) : State := (s.modSec fun x => { x with nonce := none }).secEvent ev cls 0

/-- A slot is burned with a hash and becomes the active one. -/
def Sec.takeSlot (c : Sec) (k : Nat) (h : List Byte) : Sec :=
  { c with life := 1, slot := k, used := c.used.lor (2 ^ k), ownerHash := tset c.ownerHash k h, nonce := none }

/-- ENROL (R370, R371, R565): the receipt holds serial, slot, owner hash and a signature. -/
def execEnrol (r : OwnerReq) (s : State) : Out :=
  let s0 := s.quiet
  if !(s0.requestReaches r.via) then .next s0 else
  match s0.sec.freeSlot with
  | none => .next (s0.requestFails 0x17 .c)
  | some k =>
    if !(s0.requestOk r && r.op == 1 && s0.sec.life == 0 && r.via != .session && r.signer == r.newHash) then .next (s0.requestFails 0x17 .c)
    else if !r.burnOk then .next (s0.requestFails 0x19 .u)
    else .next (s0.fresh.modSec fun x => { x.takeSlot k r.newHash with
      receipt := s0.dict.serial ++ [b8 k, 0, 0, 0] ++ r.newHash ++ freeBytes .sealed s0.freeCtr 64 })

/-- ROTATE (R370, R375, R387): the new slot is burned, the old one revoked; sessions and a grant end. -/
def execRotate (r : OwnerReq) (s : State) : Out :=
  let s0 := s.quiet
  if !(s0.requestReaches r.via) then .next s0 else
  match s0.sec.freeSlot with
  | none => .next (s0.requestFails 0x17 .c)
  | some k =>
    if !(s0.requestOk r && r.op == 2 && s0.byOwner r) then .next (s0.requestFails 0x17 .c)
    else if !r.burnOk then .next (s0.requestFails 0x19 .u)
    else .next (s0.endGrant.modSec fun x => { x.takeSlot k r.newHash with
      ownerHash := tdel (x.takeSlot k r.newHash).ownerHash x.slot, sessions := [], handshakes := [] })

/-- A member that holds a media key. -/
def mediaKeyMember (key : Nat) : Bool :=
  let o := key / 16777216
  decide (0xE401 ≤ o) && decide (o ≤ 0xE7FF) && decide (key / 65536 % 256 ≤ 2)

/-- Hedgehog erases every media key and the configuration store (R370). -/
def State.eraseKeys (s : State) : State :=
  { s with
    sec := { s.sec with keys := [] }
    dict := { s.dict with vals := s.dict.vals.filter fun e => !(mediaKeyMember e.1) }
    top := { s.top with cfgA := none, cfgB := none } }

/-- RELEASE (R370, R375, R387). -/
def execRelease (r : OwnerReq) (s : State) : Out :=
  let s0 := s.quiet
  if !(s0.requestReaches r.via) then .next s0
  else if !(s0.requestOk r && r.op == 3 && s0.byOwner r) then .next (s0.requestFails 0x17 .c)
  else if !r.burnOk then .next (s0.requestFails 0x19 .u)
  else .next (s0.endGrant.eraseKeys.modSec fun x => { x with
    life := if x.freeSlot.isSome then 0 else 2, ownerHash := tdel x.ownerHash x.slot, nonce := none, sessions := [], handshakes := [] })

/-! ### Closures and firmware versions (R369, R385) -/

/-- CLOSE, the ACTION 0xE003:01 (R385, R388, R389). -/
def execClose (mask : Nat) (burnOk : Bool) (s : State) : Out :=
  let s0 := s.quiet
  .next (if burnOk then s0.modSec fun x => { x with fuses := x.fuses.lor (mask % 64) } else s0.secEvent 0x19 .u 0)

/-- COMMIT_FW, the ACTION 0xE003:03 (R369): SEC_MIN rises to the SEC_VER of the running firmware. -/
def execCommitFw (burnOk : Bool) (s : State) : Out :=
  let s0 := s.quiet
  if s0.fab.runSecVer ≤ s0.sec.secMin then .next s0
  else .next (if burnOk then s0.modSec fun x => { x with secMin := s0.fab.runSecVer } else s0.secEvent 0x19 .u 0)

/-! ### Keys (R378, R380, R406, R377) -/

/-- NEXT becomes CUR and is emptied. -/
def KeySlot.switched (x : KeySlot) : KeySlot :=
  { x with
    cur := x.next, next := [], first := x.nextFirst, nextFirst := none, units := 0, aged := false, expired := false, an := x.nextAn
    sentCur := x.sentNext, sentNext := 0, seenCur := x.seenNext, seenNext := 0 }

/-- A slot switches at tick SWITCH + 2. -/
def KeySlot.switchDue (x : KeySlot) (tick : Nat) : Bool := !x.next.isEmpty && decide (x.switch + 2 ≤ tick)

/-- The key members of the store after a switch: CUR at `m`, NEXT at `m + 1`. -/
def movedKey (v : Tab Val) (obj m : Nat) (k : List Byte) : Tab Val := tdel (tset v (dictKey obj m 0) (.bytes k)) (dictKey obj (m + 1) 0)

/-- KEY_SWITCH (R378, R406). -/
def execKeySwitch (k : KeySel) (s : State) : Out :=
  let s0 := s.quiet
  let t := s0.time.tick
  match k with
  | .media n =>
    let x := s0.mediaKey n
    if !s0.time.running || !(x.switchDue t) then .next s0
    else .next ((s0.setKey n KeySlot.switched).modDict fun d => { d with vals := movedKey d.vals (0xE400 + n) 1 x.next })
  | .port p =>
    let x := tget ({} : KeySlot) s0.sec.portKeys p
    if !s0.time.running || !(x.switchDue t) then .next s0
    else .next ((s0.modSec fun c => { c with portKeys := tset c.portKeys p x.switched }).modDict fun d =>
      { d with vals := movedKey d.vals (0xC300 + p) 2 x.next })

/-- KEY_AGE (R380), at 7/8 of the life of a media key; port keys have no such life. -/
def execKeyAge (k : KeySel) (s : State) : Out :=
  let s0 := s.quiet
  match k with
  | .media n =>
    if 1879048192 ≤ (s0.mediaKey n).units ∧ !(s0.mediaKey n).aged then .next ((s0.setKey n fun x => { x with aged := true }).secEvent 0x1A .c n)
    else .next s0
  | .port _ => .next s0

/-- KEY_EXPIRED (R380): the frame that ends the life would be the next one. -/
def execKeyExpired (k : KeySel) (s : State) : Out :=
  let s0 := s.quiet
  match k with
  | .media n =>
    if 2 ^ 31 ≤ (s0.mediaKey n).units + 1 ∧ !(s0.mediaKey n).expired then
      .next ((s0.setKey n fun x => { x with expired := true }).secEvent 0x1B .u n)
    else .next s0
  | .port _ => .next s0

/-- TRNG_FAIL (R389): no new handshakes, nonces or challenges; open sessions continue. -/
def execTrngFail (s : State) : Out := .next ((s.quiet.modSec fun x => { x with trngOk := false }).secEvent 0x14 .u 0)

/-- MIRROR_REKEY (R377): with the pair session open, every 2^24 ticks a new mirror key is agreed for a tick at least 64 ahead; a key
agreed before applies once its tick has come. -/
def execMirrorRekey (s : State) : Out :=
  let s0 := s.quiet
  let t := s0.time.tick
  let s1 := match s0.sec.mirrorNext with
    | some n => if n ≤ t then s0.modSec fun x => { x with mirrorGen := x.mirrorGen + 1, mirrorNext := none, mirrorKey := x.mirrorAgreed } else s0
    | none => s0
  let due := match s1.pair.rekey with | some n => decide (n + 2 ^ 24 ≤ t) | none => true
  if s1.paired && s1.time.running && s1.sec.mirrorNext.isNone && due then
    let (s2, r) := s1.freeBits .measured 16
    .next ((s2.modSec fun x => { x with mirrorNext := some (t + 64 + r), mirrorAgreed := keyBytes s1.freeCtr 0 }).modPair fun p => { p with rekey := some t })
  else .next s1

end Sys2Proof.Machine
end

