-- ==== Sys2Proof/Machine/Lifecycle.lean ====
section
/-! DEFINITION. Reset, boot, Dawn, the entry to Morning with the configuration store, Noon, Dusk and Night (R27-R30, R368, R433, R559-R577,
R606, R607). -/

namespace Sys2Proof.Machine

/-! ### Reset (R29, R387, R497, R512, R606, R607) -/

/-- What the fuses, the ROM and the two boot flashes keep through a reset, and, unless PD_AON lost power, Hedgehog: a running grant and the keys in its
SRAM (R363); sessions and the mirror key, which is of a session, end with it (R375). -/
def Sec.kept (c : Sec) (power : Bool) : Sec :=
  { ({} : Sec) with
    life := c.life, slot := c.slot, used := c.used, secMin := c.secMin, ownerHash := c.ownerHash, fuses := c.fuses
    idkPub := c.idkPub, devCert := c.devCert, baseMac := c.baseMac, rootHash := c.rootHash, serviceHash := c.serviceHash, idkWrapped := c.idkWrapped
    storageKey := if power then [] else c.storageKey, idkScalar := if power then [] else c.idkScalar
    keys := if power then [] else c.keys, portKeys := if power then [] else c.portKeys
    grant := if power then none else c.grant }

/-- A member whose value stands in Hedgehog: CUR, NEXT and SWITCH of a media key slot, which only RELEASE erases (R363, R381). -/
def keyMember (key : Nat) : Bool :=
  decide (0xE401 ≤ key / 16777216) && decide (key / 16777216 ≤ 0xE7FF) && decide (key / 65536 % 256 ≤ 3)

/-- The engine held in reset. -/
def State.fullReset (s : State) (power : Bool) : State :=
  let s1 := { State.reset with
    pending := s.pending, freeCtr := s.freeCtr, sec := s.sec.kept power
    top := { State.reset.top with cfgA := s.top.tearSave.cfgA, cfgB := s.top.tearSave.cfgB }
    fab := { State.reset.fab with pagesA := s.fab.pagesA, pagesB := s.fab.pagesB }
    dict := { State.reset.dict with serial := s.dict.serial, vals := if power then [] else s.dict.vals.filter fun e => keyMember e.1 } }
  if s.top.errLow then s1.emit (.pin 0 false) else s1

/-- POWER_ON_RESET (R512). -/
def execPowerOnReset (s : State) : Out := .next (s.quiet.fullReset true)

/-- RESET_ASSERT (R607): RST_N sampled low twice. -/
def execResetAssert (s : State) : Out := .next (s.quiet.fullReset false)

/-- SLOWCLK_LOSS (R606): the engine is held in reset as if RST_N were low. -/
def execSlowclkLoss (s : State) : Out := .next (s.quiet.fullReset false)

/-! ### Boot (R368, R389, R559, R560) -/

/-- Checks 1 to 6 on an image. -/
def State.imageOk (s : State) (i : FwImage) : Bool := i.headOk && i.bodyOk && decide (s.sec.secMin ≤ i.secVer)

/-- Flash numbers in the order tried: the higher GEN of the headers that pass, A on a tie. -/
def bootOrder (d : DawnBoot) : List (Nat × FwImage) :=
  let one (n : Nat) (i : Option FwImage) : List (Nat × FwImage) :=
    match i with
    | some x => if x.headOk then [(n, x)] else []
    | none => []
  match one 0 d.a, one 1 d.b with
  | [p], [q] => if p.2.gen < q.2.gen then [q, p] else [p, q]
  | l, m => l ++ m

/-- A flash whose header fails is rejected before any image is tried. -/
def headFails (i : Option FwImage) : Bool := match i with | some x => !x.headOk | none => true

/-- BOOT_A_REJ or BOOT_B_REJ. -/
def State.bootRej (s : State) (n : Nat) : State := s.secEvent (0x11 + n) .c 0

/-- The images in turn; the first that passes runs on CTL0, and CTL1 becomes the warm standby. -/
def State.tryImages (s : State) : List (Nat × FwImage) → State
  | [] => (s.enterNight 3).secEvent 0x13 .f 0
  | (n, i) :: t =>
    if s.imageOk i then
      (s.modTop fun x => { x with booted := true, remap := true }).modFab fun f =>
        { f with primary := 0, stby := 1, runGen := i.gen, runSecVer := i.secVer, runFlash := n }
    else (s.bootRej n).tryImages t

/-- Dawn up to the start of the firmware. -/
def State.dawn (s : State) (d : DawnBoot) : State :=
  let s1 := (s.modTop fun t => { t with inReset := false }).modSec fun c => { c with
    trngOk := d.trngOk, idkOk := d.idkOk
    storageKey := Config.storageKey, idkScalar := if d.idkOk then Config.unwrap c.idkWrapped else [] }
  let s2 := if d.trngOk then s1 else s1.secEvent 0x14 .u 0
  if !d.idkOk then (s2.enterNight 3).secEvent 0x10 .f 0
  else if !d.romOk then (s2.enterNight 3).secEvent 0x13 .f 0
  else
    let s3 := if headFails d.a then s2.bootRej 0 else s2
    let s4 := if headFails d.b then s3.bootRej 1 else s3
    s4.tryImages (bootOrder d)

/-- RESET_RELEASE (R559, R560 steps 1 to 3). -/
def execResetRelease (d : DawnBoot) (s : State) : Out :=
  let s0 := s.quiet
  .next (if s0.top.inReset then s0.dawn d else s0)

/-- A wake (R28, R575, R587): Dawn again.  From standby TOP and the domains kept on stay as they are, with CAUSE 1; from deep PD_FAB
was off, and CAUSE is 0.  A wake is no full engine reset: what only such a reset clears stays where its domain kept its power (R13). -/
def State.wakeDawn (s : State) (d : DawnBoot) : State :=
  let base := s.fullReset false
  let keep := !s.top.nightDeep && s.domOn 1
  let s1 := { base with
    sent := s.sent
    top := { base.top with prev := if keep then .night else .dawn, cause := if keep then 1 else 0, errPulse := s.top.errPulse
                           errHold := s.top.errHold }
    commons := s.commons
    clusters := s.clusters.map fun (e : Nat × Cluster) => (e.1, { ({} : Cluster) with stFail := e.2.stFail })
    pwr := { base.pwr with xoValid := s.pwr.xoValid, on := s.pwr.on }
    tw1 := { s.tw1 with attnHw := s.tw1.attnHw.lor 2 } }
  s1.dawn d

/-! ### Self-tests (R433, R559-R561) -/

/-- Block numbers as DawnResult gives them, to those of R481: CTL0 and CTL1 stand at FAB, BOOT_SPI at TOP, TDM ports at TDM (log 23). -/
def testBlock (b : Nat) : Nat :=
  if b = 0x100 ∨ b = 0x101 then blkFab else if b = 0x102 then blkTop else if 0x110 ≤ b then blkTdm else b

/-- Blocks without which the engine cannot serve. -/
def essential (b : Nat) : Bool :=
  b == 0x100 || b == 0x101 || (b != blkMemc && b != blkTw0 && b != blkTw1 && b != blkHostp && b != blkTdm && decide (b ≤ blkSramc))

/-- The failed blocks that send Dawn to Night. -/
def fatalBlocks (d : DawnResult) : List Nat :=
  (d.failed.filter essential) ++ (if 3 ≤ (d.failed.filter isCluster).length then d.failed.filter isCluster else []) ++
    (if 2 ≤ d.badChans.length then [blkMemc] else [])

/-- The failures that Dawn lives with. -/
def degradedBlocks (d : DawnResult) : List Nat :=
  (d.failed.filter fun b => !(essential b)) ++ (if d.badChans.isEmpty then [] else [blkMemc])

/-- The failure lies in PD_FAB, PD_TIME or PD_CTL0. -/
def deepFailure (b : Nat) : Bool := b == 0x100 || (b < 0x100 && (blockDomain b == some 0 || blockDomain b == some 1))

/-- A failed self-test ends in Night. -/
def State.dawnFails (s : State) (bs : List Nat) : State :=
  let s1 := s.enterNight 3
  let s2 := if bs.any deepFailure then
      foldS State.domainLost { s1 with top := { s1.top with nightDeep := true }, pwr := { s1.pwr with on := 0 } } (List.range 17)
    else s1
  foldS (fun (s : State) b => s.raise blkTop 0x12 .f (testBlock b)) s2 bs

/-- The function code by which a failed block is held in reset. -/
def heldFunc (b : Nat) : Option Nat :=
  if b = blkTw0 then some 8 else if b = blkTw1 then some 9 else if b = blkHostp then some 10
  else if 0x40 ≤ b ∧ b < 0x70 then some b else if 0x110 ≤ b then some (0x70 + (b - 0x110)) else none

/-- One failed block that does not stop the engine. -/
def State.degrade (s : State) (b : Nat) : State :=
  let s1 := if isCluster b then (s.makeFaulty (b - 0x20)).setCluster (b - 0x20) fun c => { c with stFail := true }
    else s.modTop fun t => { t with
      absent := testBlock b :: t.absent, frstHeld := (match heldFunc b with | some f => [f] | none => []) ++ t.frstHeld }
  s1.raise blkTop 0x13 .u (testBlock b)

/-- The DRAM step: channels that fail are FAULTY, those not there absent; the rest hold zeros, also the scene area, and S0 and S1 are the first
two. -/
def State.dramStep (s : State) (d : DawnResult) : State :=
  let bad (c : Nat) : Nat := if d.noChans.contains c then 6 else if d.badChans.contains c then 5 else 0
  let good := (List.range 3).filter fun c => bad c = 0
  let rest := (List.range 3).filter fun c => bad c ≠ 0
  let order := good ++ rest
  let s1 := { s.modDict fun d => { d with slots := [] } with memc := { s.memc with
    s0 := at? 0 order 0, s1 := at? 1 order 1, spare := at? 2 order 2, poison := [], dram := [], phase := 0
    chans := (List.range 3).map fun c => (c, { (tget ({} : DramChan) s.memc.chans c) with state := bad c, failRows := [], hits := [] }) } }
  if d.badChans.isEmpty then s1 else s1.raiseT blkMemc 0x14 .u

/-- No spare channel (R433). -/
def State.noSpareChan (s : State) : Bool := (List.range 3).all fun c => s.chState c != 2

/-! ### Entry to Morning (R563, R566) -/

/-- The firmware gives the work sets to the healthy clusters in order; with nine healthy the last is the spare (R110, R111, R561).  A work set that
was contained drains its outputs again: its cluster has been replaced (R129). -/
def State.assignClusters (s : State) : State :=
  let ok := (List.range 9).filter fun n => (s.cluster n).role != 3
  let n := min 8 ok.length
  let place (s : State) (p : Nat × Nat) : State :=
    if p.2 < n then
      let w := s.workSet p.2
      (s.setWorkSet p.2 fun y => { y with zeroOut := false }).setCluster p.1 fun c =>
        { c.loadFor s.dict.vals w.img w.seed with role := 1, wset := p.2, wsv := true }
    else s.setCluster p.1 fun c => { c with role := if p.2 = n then 0 else 2, wset := 0, wsv := false }
  foldS place s (ok.zip (List.range 9))

/-- Every member at its default but for the media keys, and what holds its effect with it (R253): at entry to Morning nothing written before stands, nor a commit that was
sealed for a tick of an earlier service. -/
def State.toDefaults (s : State) : State :=
  { s with
    dict := { s.dict with vals := s.dict.vals.filter fun e => keyMember e.1, units := [], sealed := [], owed := [], actions := [] }
    mix := { s.mix with buses := [] }, dyn := { s.dyn with insts := [] }, dp := { s.dp with ch := [], done := none }
    aln := { s.aln with outs := [], clamped := [] }, sil := { s.sil with det := [], log := [], mon := [] }
    csw := { s.csw with
      routes := [], fades := [], foxPast := [], fadeQ := [], foxLast := none, ctxOwed := []
      ctx := s.csw.ctx.map fun (e : Nat × Ctx) => (e.1, { ({} : Ctx) with cnt := e.2.cnt, egSeq := e.2.egSeq }) }
    sec := { s.sec with portKeys := [] } }

/-- One copy is applied as one unit: exempt from the service conditions, every other check of R268 holds. -/
def State.loadCopy (s : State) (c : CfgCopy) : Option State :=
  let ws := c.vals.map fun e => (⟨e.1 / 16777216, e.1 / 65536 % 256, e.1 % 65536, e.2⟩ : EWrite)
  if (s.withImages c.images).unitPasses s.dict.vals ws 0 true then
    let u := s.withBanks (overlay s.dict.vals ws) 0 { kind := .trans, writes := ws, images := c.images }
    let s1 := ((s.commitUnits [u] 0 []).banksNow [u] s.dict.vals).foxRebuild
    let s2 := { s1 with
      dict := { s1.dict with slots := c.slots, generation := s.dict.generation, golden := c.golden }
      top := { s1.top with cfgReady := true, cfgGen := c.gen } }
    some (foldS State.slotToDram s2 (c.slots.map (·.1)))
  else none

/-- The copies in the order tried. -/
def Top.copies (t : Top) (imgA imgB : Bool) : List CfgCopy :=
  let one (c : Option CfgCopy) (img : Bool) : List (CfgCopy × Bool) := match c with | some x => if x.valid then [(x, img)] else [] | none => []
  let l := if cfgGenOf t.cfgA < cfgGenOf t.cfgB then one t.cfgB imgB ++ one t.cfgA imgA else one t.cfgA imgA ++ one t.cfgB imgB
  (l.filter (·.2)).map (·.1)

/-- The first copy that loads; CFG_DEFAULT where none does, except on an engine without an owner. -/
def State.loadConfig (s : State) (l : List CfgCopy) : State :=
  match l.findSome? s.loadCopy with
  | some t => t
  | none => if s.sec.life = 0 then s else s.raise blkTop 0x14 .u 0

/-- Entry to Morning, from Dawn (CAUSE 2) or by a resume (CAUSE 9).  Without a SPARE, NO_SPARE comes from the FAULTY cluster with the highest number, which
the assignment would have made the spare (R130, R143; log 196). -/
def State.enterMorning (s : State) (cause : Nat) (d : DawnResult) : State :=
  let s1 := s.enter .morning cause
  let s2 := { s1 with
    top := { s1.top with cfgReady := false, cfgGen := 0, nightDeep := false, nightF := [] }
    pair := { ({} : Pair) with epoch := s1.pair.epoch, impTotal := s1.pair.impTotal, mism := s1.pair.mism }
    refsel := { s1.refsel with apllLocked := true } }
  let s4 := (s2.toDefaults.loadConfig (s2.top.copies d.imgA d.imgB)).assignClusters
  let s5 := { s4 with time := { s4.time with running := s4.time.todSet } }
  let s6 := if s5.noSpareChan then s5.raiseT blkMemc 0x15 .u else s5
  if (List.range 9).any fun n => (s6.cluster n).role == 0 then s6
  else match ((List.range 9).filter fun n => (s6.cluster n).role == 3).getLast? with
    | some n => s6.raiseT (blkCl n) 0x14 .u
    | none => s6

/-- DAWN_COMPLETE (R560 step 4, R561, R28): the self-tests and the DRAM step have ended. -/
def execDawnComplete (d : DawnResult) (s : State) : Out :=
  let s0 := s.quiet
  if s0.top.state ≠ .dawn ∨ s0.top.inReset ∨ !s0.top.booted then .next s0 else
  let s1 := { s0 with
    top := { s0.top with dawnMs := d.ms % 2 ^ 32 }
    pwr := { s0.pwr with on := 0x1FFFF, busy := none, queue := [], xoValid := true } }
  if !(fatalBlocks d).isEmpty then .next (s1.dawnFails (fatalBlocks d))
  else
    let s2 := (foldS State.degrade s1 (degradedBlocks d)).dramStep d
    if !d.dramCfgOk then .next (s2.raiseT blkMemc 0x16 .f)
    else .next (s2.enterMorning 2 d)

/-! ### Night and resume (R574, R575) -/

/-- A condition of class F that still holds: one of those that the engine measures, or an event of this Night that INT_STAT still shows (R29,
log 163). -/
def State.classFHolds (s : State) : Bool :=
  s.pwr.therm == 3 || !s.pwr.xoValid || !s.sec.idkOk || !s.top.booted ||
    s.top.nightF.any fun e => (s.common e.1).intStat.getLsbD (eventBit e.2)

/-- Domains the resume switches on and tests: all of them (log 23); a FAULTY cluster is eligible again where its self-test passes (R111). -/
def State.allOn (s : State) : State :=
  { s with
    clusters := s.clusters.map fun (e : Nat × Cluster) => (e.1, if e.2.role = 3 then { e.2 with role := 2 } else e.2)
    pwr := { s.pwr with on := 0x1FFFF, busy := none, queue := [] } }

/-- The configuration needs a port: a valid context, a group with work or the mirror uses it. -/
def State.needsPort (s : State) (p : Nat) : Bool :=
  ((validCtxs s.dict.vals).any fun x => (ctxPorts s.dict.vals x).contains p) ||
    (decide (32 ≤ p) && s.paired && s.groupOfLane (p - 32) == some (s.cfg 0xB000 4))

/-- The configuration needs a TDM port: a slot of it publishes a signal or carries one. -/
def State.needsTdm (s : State) (k : Nat) : Bool :=
  s.dict.vals.any fun e => (e.1 / 65536 == 0x1000001 || e.1 / 65536 == 0x1000101) && e.1 % 65536 / 16 == k && e.2 != .num 0xFFFFFFFF

/-- The configuration needs the DRAM: an aligned output is enabled, or a scene slot holds a scene. -/
def State.needsDram (s : State) : Bool :=
  !((objectsWith s.dict.vals 0x7000 0x7FFF 1).isEmpty) || s.dict.slots.any fun e => e.2.valid

/-- The state under the configuration copy that a resume tries first (R564, R575). -/
def State.underCopy (s : State) (d : DawnResult) : State :=
  match (s.top.copies d.imgA d.imgB).head? with
  | some c => (s.modDict fun x => { x with vals := c.vals, slots := c.slots }).withImages c.images
  | none => s.modDict fun x => { x with vals := [] }

/-- The failed blocks that the configuration needs (R28, R575): ports in use, the DRAM, and the clusters where too few are left for the work
sets. -/
def State.neededFailed (s : State) (d : DawnResult) : List Nat :=
  let sets := ((List.range 8).filter fun w => !((s.workSet w).img.steps.isEmpty)).length
  let bad := d.failed.filter isCluster
  let few := decide (9 - (sortN bad).length < sets)
  d.failed.filter fun b =>
    if isCluster b then few
    else if 0x40 ≤ b ∧ b < 0x60 then s.needsPort (b - 0x40)
    else if 0x60 ≤ b ∧ b < 0x70 then s.needsPort (b - 0x60 + 32)
    else if 0x110 ≤ b then s.needsTdm (b - 0x110)
    else b == blkMemc && s.needsDram

/-- The resume itself: self-tests, the DRAM step, Morning. -/
def State.resumeNow (s : State) (d : DawnResult) : State :=
  let s0 := s.modTop fun t => { t with resumeWaits := none }
  let s1 := s0.allOn
  let bad := fatalBlocks d ++ ((s.underCopy d).neededFailed d).filter fun b => !((fatalBlocks d).contains b)
  if !bad.isEmpty then foldS (fun (s : State) b => s.raise blkTop 0x12 .f (testBlock b)) s0 bad
  else
    let s2 := (foldS State.degrade s1 (degradedBlocks d)).dramStep d
    let s3 := s2.modFab fun f => if f.coreHeld.isSome then { f with coreHeld := none, stby := 1 } else f
    if !d.dramCfgOk then s3.raiseT blkMemc 0x16 .f else s3.enterMorning 9 d

/-- RESUME: refused outside Night standby and while a class F condition holds; it waits for a running REPAIR or SAVE. -/
def State.resume (s : State) (d : DawnResult) : State :=
  if s.top.state ≠ .night ∨ s.top.nightDeep ∨ s.classFHolds then s
  else if s.top.saveRun ∨ s.memc.ppr.isSome then s.modTop fun t => { t with resumeWaits := some d }
  else s.resumeNow d

/-- A REPAIR or SAVE has ended: a RESUME that waited goes on (R575). -/
def State.resumeWaiting (s : State) : State :=
  match s.top.resumeWaits with
  | some d => if s.top.saveRun ∨ s.memc.ppr.isSome then s else (s.modTop fun t => { t with resumeWaits := none }).resume d
  | none => s

/-- RESUME, the ACTION 0x0060:06 (R575); the firmware of a paired engine issues it by itself only under AUTO_REJOIN (R354). -/
def execResume (d : DawnResult) (s : State) : Out :=
  let s0 := s.quiet
  .next (if d.auto && !(s0.paired && s0.cfgOn 0xB000 6) then s0 else s0.resume d)

/-! ### The configuration store (R562, R564, R576) -/

/-- A member that a save holds: not of class T, nor STATUS, nor ACTION. -/
def savedMember (key : Nat) : Bool :=
  match memberOf (key / 16777216) (key / 65536 % 256) with
  | some i => i.kind != .status && i.kind != .action && i.acc != .t
  | none => false

/-- What a save captures of a configuration (R562): members, the loaded images and golden workloads, and the slots marked valid. -/
def State.capture (s : State) (v : Tab Val) (images : Tab Image) (gen : Nat) : CfgCopy :=
  { gen := gen, valid := true, images := images, golden := s.dict.golden
    vals := v.filter fun e => savedMember e.1
    slots := (s.dict.slots.filter fun e => e.2.valid && !(s.sceneStale e.1)).map fun e => (e.1, { e.2 with running := false, captured := none }) }

/-- The images that the commits sealed for ticks before `a` bring. -/
def State.imagesAt (s : State) (a : Nat) : List (Nat × Image) := (sortAt (s.dict.sealed.filter fun e => decide (e.1 < a))).flatMap fun e => imagesOf e.2

/-- What a save writes: the configuration after the commits of ticks before `a`; out of service, the one in force. -/
def State.saveOf (s : State) (a : Nat) : CfgCopy :=
  let v := if s.outOfService then s.dict.vals else s.configAt a
  let images := (List.range 8).filterMap fun w =>
    let i := ((s.withImages (s.imagesAt a)).workSet w).img
    if i.steps.isEmpty then none else some (w, i)
  s.capture v images (Nat.max (cfgGenOf s.top.cfgA) (cfgGenOf s.top.cfgB) + 1)

/-- The first tick whose commit is not sealed yet. -/
def State.sealedTo (s : State) : Nat := match s.csw.cutTick with | some n => n + 3 | none => 0

/-- A running save captures once the commit of its tick is sealed (R564); before the first tick event, when commits apply at once, right away (log 206). -/
def State.takeSave (s : State) : State :=
  match s.top.saveFor with
  | some t => if s.outOfService ∨ !s.time.ticked ∨ t < s.sealedTo then s.modTop fun x => { x with saveFor := none, saveCopy := some (s.saveOf (t + 1)) } else s
  | none => s

/-- A save starts, for the configuration after the commit of tick `t`, or of the last sealed tick (R564). -/
def State.startSave (s : State) (t : Nat) : State :=
  (s.modTop fun x => { x with saveRun := true, result := 1, saveCopy := none, saveFor := some (if t = 0 then s.sealedTo - 1 else t) }).takeSave

/-- SAVE, the ACTION 0x0060:01 (R564): one runs, one waits. -/
def execSave (tick : Nat) (s : State) : Out :=
  let s0 := s.quiet
  .next (if s0.top.saveRun then s0.modTop fun x => { x with saveQ := some tick } else s0.startSave tick)

/-- The copy a save wrote is in its flash. -/
def Top.putCopy (t : Top) (c : CfgCopy) : Top := if t.savesToB then { t with cfgB := some c } else { t with cfgA := some c }

/-- SAVE_DONE (R564): RESULT 2 done, 3 full, with nothing written, 4 flash error; a waiting save starts, else a waiting resume may. -/
def execSaveDone (res : Nat) (s : State) : Out :=
  let s0 := s.quiet
  match s0.top.saveCopy with
  | none => .next s0
  | some c =>
    let t1 := { s0.top with saveRun := false, saveCopy := none, saveQ := none }
    let t2 :=
      if res = 2 then { t1.putCopy c with result := 2, cfgGen := c.gen }
      else if res = 3 then { t1 with result := 3 }
      else { t1.putCopy { c with valid := false } with result := 4 }
    let s1 := { s0 with top := t2 }
    .next (match s0.top.saveQ with | some n => s1.startSave n | none => s1.resumeWaiting)

/-- READY, the ACTION 0x0060:03 (R568). -/
def execReady (s : State) : Out :=
  let s0 := s.quiet
  .next (if s0.top.state = .morning then s0.modTop fun t => { t with cfgReady := true } else s0)

/-! ### Noon and Dusk (R28, R568, R573) -/

/-- MORNING_TO_NOON (R568, R571): an unpaired engine at a tick boundary at which it is OWNED, time-locked and configured.  A paired
engine passes by its GRANT or its rejoin. -/
def execMorningToNoon (s : State) : Out :=
  let s0 := s.quiet
  .next (if s0.top.state = .morning ∧ s0.time.ticked ∧ s0.serviceReady ∧ !s0.paired ∧ !s0.top.classF ∧ s0.top.leaveAt = none
    then s0.enterNoon 0 else s0)

/-- LEAVE of the engine, the ACTION 0xB000:07 (R573, R336): Dusk at the start of the next tick; an ACTIVE hands over
16 ticks ahead; a SHADOW sends no further STATUS with STANDBY. -/
def State.leave (s : State) : State :=
  let c := s.time.tick
  if s.top.state = .noon then
    let s2 := s.modTop fun t => { t with leaveAt := some (c + 1) }
    if s.pair.role = 1 then
      let s3 := s2.modPair fun p => { p with handoverAt := some (c + 16) }
      -- without an Owl the FENCE record announces the boundary (R356)
      if s.pair.noOwl then s3.sendMirror 1 7 (c + 16) [] else s3.toOwl 7 (c + 16) 0
    else s2
  else if s.top.state = .morning then
    if s.time.running then s.modTop fun t => { t with leaveAt := some (c + 1) } else s.enterNight 6
  else s

/-- LEAVE: the loop instruction of a cluster (R162), or the ACTION of the engine (R573). -/
def execLeave (w : LeaveForm) (s : State) : Out :=
  match w with
  | .loop cl => leaveLoop cl s
  | .service => .next s.quiet.leave

/-- A sealed commit waits for its tick. -/
def State.commitsPending (s : State) : Bool := s.dict.sealed.any fun e => !e.2.isEmpty

/-- An ALN movement is running (R573): a fade of taps or a gain ramp. -/
def State.alnMoving (s : State) : Bool :=
  let k := s.firstSample s.time.tick
  s.aln.outs.any fun e => e.2.region.isSome && (e.2.xtap.isSome || e.2.cur != e.2.target || !(e.2.gs.done k))

/-- What a drain waits for (R573), but for the end of egress. -/
def State.drainIdle (s : State) : Bool :=
  !s.commitsPending && s.csw.fades.isEmpty && s.csw.fadeQ.isEmpty && !s.alnMoving && !s.spinRunning && s.spinQ.isNone

/-- The engine emits nothing any more: fenced, or a SHADOW; an unpaired engine stops with its drain. -/
def State.egressOver (s : State) : Bool := s.pair.role != 1 || s.pair.fenced

/-- DRAIN_COMPLETE (R573, R28). -/
def execDrainComplete (s : State) : Out :=
  let s0 := s.quiet
  .next (if s0.top.state = .dusk ∧ s0.egressOver ∧ s0.drainIdle then s0.enterNight 7 else s0)

/-- DUSK_TIMEOUT (R28, R573): 64 ticks after entry to Dusk. -/
def execDuskTimeout (s : State) : Out :=
  let s0 := s.quiet
  .next (if s0.top.state = .dusk ∧ 64 ≤ s0.top.duskTicks then s0.enterNight 8 else s0)

end Sys2Proof.Machine
end

