-- ==== Sys2Proof/Machine/Owl.lean ====
section
/-! DEFINITION. The Owl and what an engine exchanges with it (R326-R339, R350-R352, R355, R356, R569-R572). -/

namespace Sys2Proof.Machine

/-! ### The engine's side (R328-R331, R339, R355, R569) -/

/-- The engine takes part in a pair. -/
def State.pairUp (s : State) : Bool := s.paired && s.sec.life == 1 && s.top.state != .dawn && s.top.state != .night

/-- The code of HELLO (R569): 0 ACTIVE, 1 SHADOW, 2 ready, 3 not ready. -/
def State.helloCode (s : State) : Nat :=
  if s.top.state = .morning then (if s.serviceReady then 2 else 3) else if s.pair.role = 2 then 1 else if s.pair.role = 1 ∧ !s.pair.fenced then 0 else 3

/-- The engine holds a LEASE that has not expired, or a STANDBY of this tick or the last. -/
def State.holdsToken (s : State) : Bool :=
  (match s.pair.lease with | some (_, e) => decide (s.time.tick < e) | none => false) ||
    (match s.pair.standbyRx with | some (k, _) => decide (s.time.tick ≤ k + 1) | none => false)

/-- HELLO_SEND (R339, R572), every 1 s, with the highest EPOCH seen. -/
def execHelloSend (s : State) : Out :=
  let s0 := s.quiet
  .next (if s0.pairUp && !s0.holdsToken then
    s0.sendOwl Config.pairNumber 1 (s0.cfg 0xB000 3) (maxEpoch s0.pair.epoch s0.pair.epochSeen) 0 (s0.helloCode + 4 * b2n s0.pair.inSync) []
  else s0)

/-- The mirror group is up. -/
def State.mirrorUp (s : State) : Bool := !(s.group (s.cfg 0xB000 4)).active.isEmpty

/-- The tick of the first mismatching stage among the last 64 outcomes; the present tick where there is none (R350, log 203). -/
def State.firstMismatch (s : State) : Nat :=
  match ((List.range s.pair.lynxHist.length).reverse.find? fun i => at? 0 s.pair.lynxHist i == 1) with
  | some i => s.pair.lynxLabel + 1 - i
  | none => s.time.tick

/-- The fault flag of R350: a fault in the 64 ticks before. -/
def State.faultFlag (s : State) : Bool :=
  let m := s.firstMismatch
  s.top.faults.any fun f => decide (f < m) && decide (m ≤ f + 64)

/-- LYNX_LOST was raised in the last 16 ticks. -/
def State.lynxLostNow (s : State) : Bool :=
  match s.pair.lynxLostAt with
  | some t => decide (s.time.tick < t + 16)
  | none => false

/-! ### HEALTH (R351) -/

/-- The worst eye of the ports measured; 0 where none is. -/
def worstEye (l : List Port) : Nat :=
  match (l.filter fun x => x.measured).map fun x => x.eye with
  | [] => 0
  | e :: t => t.foldl Nat.min e

/-- The spare cluster's field: its number, that there is one, and that its last golden replay passed. -/
def State.spareField (s : State) : Nat :=
  match (List.range 9).find? fun n => (s.cluster n).role == 0 with
  | some n => n + 16 + 32 * b2n (decide (0 < (s.cluster n).stPass) && !(s.cluster n).stFail)
  | none => 0

/-- The report of a SHADOW. -/
def State.health (s : State) : OwlHealth :=
  { engine := s.cfg 0x0000 6, tick := s.time.tick
    lynxMatch := ((s.pair.lynxHist.take 16).filter (· == 0)).length, impaired := (last64 s.pair.impTicks s.time.tick).length
    spare := s.spareField, selfTest := s.top.selfFail, sramC := s.sramc.unreported, dramC := s.memc.unreported
    scrub := s.sramc.age % 32768 + 32768 * b2n s.sramc.clean, lm := at? 0 s.pair.lm 0
    marginPl := worstEye ((s.group (s.cfg 0xB000 4)).active.map fun l => s.port (32 + l)), marginMp := worstEye ((List.range 32).map s.port)
    skew := s.pair.skew, uev := s.top.uev }

/-- The body of HEALTH; a count beyond its field stops at its end. -/
def healthBytes (h : OwlHealth) : List Byte :=
  let u (n x : Nat) : List Byte := beBytes n (Nat.min x (256 ^ n - 1))
  u 2 h.lynxMatch ++ u 2 h.impaired ++ u 2 h.spare ++ u 2 h.selfTest ++ u 4 h.sramC ++ u 4 h.dramC ++ u 2 h.scrub ++ u 2 h.lm ++
    u 2 h.marginPl ++ u 2 h.marginMp ++ u 2 h.skew ++ u 2 h.uev ++ [0, 0, 0, 0]

/-- HEALTH leaves a SHADOW in every 16th tick, and its counts begin anew (R339, R351). -/
def State.sendHealth (s : State) : State :=
  if s.pair.role = 2 ∧ s.time.tick % 16 = 0 then
    let s1 := s.sendOwl Config.pairNumber 9 (s.cfg 0xB000 3) s.pair.epoch 0 0 (healthBytes s.health)
    { s1 with
      top := { s1.top with uev := 0, selfFail := 0 }, sramc := { s1.sramc with unreported := 0 }, memc := { s1.memc with unreported := 0 } }
  else s

/-- BEAT_SEND (R339), at k + 0.1 T; HEALTH goes out with it. -/
def execBeatSend (s : State) : Out :=
  let s0 := s.quiet
  let arg := b2n s0.mirrorUp + 2 * b2n s0.pair.inSync + 4 * b2n s0.pair.prov + 8 * b2n s0.faultFlag + 16 * b2n s0.lynxLostNow +
    2 ^ 32 * (at? 0 s0.pair.lm 0 % 65536)
  .next (if s0.pairUp && s0.time.running then (s0.toOwl 2 0 arg).sendHealth else s0)

/-- The flags of a STATUS record: bit 0 IN_SYNC, 1 STANDBY, 2 TAKE (log 201). -/
def statusBytes (sync stby take : Bool) : List Byte := [b8 (b2n sync + 2 * b2n stby + 4 * b2n take)]

/-- STATUS_SEND (R329, R355, R573), at k + 0.5 T. -/
def execStatusSend (s : State) : Out :=
  let s0 := s.quiet
  let p := s0.pair
  if !s0.time.running ∨ !(p.role = 2 ∨ p.prov) then .next s0 else
  let k := s0.time.tick
  let stby := p.role == 2 && p.inSync && !p.noOwl && s0.top.state == .noon && s0.top.leaveAt.isNone &&
    (match p.standbyRx with | some (j, _) => j == k | none => false)
  .next ((s0.modPair fun p => { p with standby := stby, stbySent := if stby then some k else p.stbySent }).sendMirror 1 6 k
    (statusBytes p.inSync stby p.prov))

/-- A message of the Owl came: it is not lost (R355). -/
def State.heardOwl (s : State) : State := s.modPair fun p => { p with owlTick := s.time.tick, noOwl := false }

/-- A LEASE (R330, R336): the latest by its tick holds; an expiry other than tick + 4 is the boundary of a handover. -/
def State.onLease (s : State) (epoch tick expiry : Nat) : State :=
  if !s.pairUp ∨ !(epochFresh epoch s.pair.epoch) then s else
  let newer := match s.pair.lease with | some (k, _) => decide (k ≤ tick) | none => true
  s.heardOwl.modPair fun p => { p.saw epoch with
    lease := if newer then some (tick, expiry) else p.lease
    handoverAt := if p.role = 1 ∧ expiry ≠ tick + 4 then some expiry else p.handoverAt }

/-- LEASE. -/
def execLease (epoch tick expiry : Nat) (s : State) : Out := .next (s.quiet.onLease epoch tick expiry)

/-- A STANDBY (R329, R331): for a SHADOW, or a taker in its provisional time. -/
def State.onStandby (s : State) (epoch tick : Nat) : State :=
  if !s.pairUp ∨ !(s.pair.role = 2 ∨ s.pair.prov) then s else
  let newer := match s.pair.standbyRx with | some (k, _) => decide (k ≤ tick) | none => true
  s.heardOwl.modPair fun p => { p with standbyRx := if newer then some (tick, epoch) else p.standbyRx }

/-- STANDBY. -/
def execStandby (epoch tick : Nat) (s : State) : Out := .next (s.quiet.onStandby epoch tick)

/-- A GRANT (R332, R336, R571): a taker becomes ACTIVE for good; another engine starts as ACTIVE at the boundary `tick` names, or, with 0,
from Morning.  An ACTIVE that holds the token has it already: a second copy (R337). -/
def State.onGrant (s : State) (epoch tick : Nat) : State :=
  if !s.pairUp ∨ !(epochFresh epoch s.pair.epoch) then s else
  s.heardOwl.modPair fun p =>
    if p.role = 1 ∧ p.prov then { p.saw epoch with prov := false, epoch := epoch, grant := none, lease := some (s.time.tick, s.time.tick + 4) }
    else if p.role = 1 then p
    else { p.saw epoch with grant := some (epoch, tick) }

/-- GRANT. -/
def execGrant (epoch tick : Nat) (s : State) : Out := .next (s.quiet.onGrant epoch tick)

/-- A DEMOTE (R332, R350): an ACTIVE fences at the next boundary and leaves; a SHADOW leaves to rejoin. -/
def State.onDemote (s : State) (epoch : Nat) : State :=
  if !s.pairUp ∨ !(epochFresh epoch s.pair.epoch) then s
  else if s.pair.role = 1 then s.modPair fun p => { p with handoverAt := some (s.time.tick + 1) }
  else if s.pair.role = 2 then s.toRejoin
  else s

/-- DEMOTE. -/
def execDemote (epoch : Nat) (s : State) : Out := .next (s.quiet.onDemote epoch)

/-- NO_OWL (R355): nothing from the configured Owl for 8 ticks. -/
def execNoOwl (s : State) : Out :=
  let s0 := s.quiet
  if s0.pairUp && s0.time.running && s0.cfg 0xB000 3 != 0 && !s0.pair.noOwl && decide (s0.pair.owlTick + 8 ≤ s0.time.tick) then
    .next ((s0.modPair fun p => { p with noOwl := true }).raiseT blkPair 0x18 .u)
  else .next s0

/-! ### Take-over (R331, R356) -/

/-- The frames held back for boundary `b` leave under the new EPOCH, with the BEACON of an ACTIVE. -/
def State.emitHeld (s : State) (b epoch : Nat) : State :=
  let s1 := s.dropStaged.modPair fun p => { p.saw epoch with role := 1, epoch := epoch, held := [] }
  (foldS (State.sendOut false epoch) s1 s.pair.held).sendMirror 1 5 b []

/-- The SHADOW may take over at boundary `b` (R331). -/
def State.mayTake (s : State) (b : Nat) : Bool :=
  s.pair.role == 2 && s.top.state == .noon && s.time.tick == b && decide (1 ≤ b) && s.pair.stbySent == some (b - 1) && s.pair.heldAt == b &&
    (s.pair.beacon != some b || (match s.pair.fenceB with | some f => decide (f ≤ b) | none => false))

/-- Without an Owl, an in-sync SHADOW follows a FENCE that came before b + W (R356): the EPOCH under which it emits. -/
def State.mayFollow (s : State) (b : Nat) : Option Nat :=
  if s.pair.role = 2 ∧ s.top.state = .noon ∧ s.time.tick = b ∧ s.pair.heldAt = b ∧ s.pair.noOwl ∧ s.pair.inSync ∧ s.pair.fenceB = some b then
    s.pair.grant.map (·.1)
  else none

/-- The instant b + W of a boundary (R331, R356): provisional, with EPOCH e + 1 of the STANDBY, or without an Owl for good. -/
def State.take (s : State) (tick : Nat) : State :=
  if s.mayTake tick then
    let e := match s.pair.standbyRx with | some (_, e) => e | none => nextEpoch s.pair.epoch
    let cause := match s.pair.fenceB with | some f => b2n (decide (f ≤ tick)) | none => 0
    let s1 := (s.emitHeld tick e).modPair fun p => { p with prov := true }
    (s1.toOwl 5 0 (tick % 2 ^ 48 + 2 ^ 48 * cause)).raiseT blkPair 0x19 .c
  else match s.mayFollow tick with
    | some e => (s.emitHeld tick e).modPair fun p => { p with inSync := false, grant := none }
    | none => s

/-- TAKEOVER (R331): b + W of boundary `tick` has come. -/
def execTakeover (tick : Nat) (s : State) : Out :=
  let s0 := s.quiet
  .next (if s0.time.tick = tick ∧ s0.pair.waitOver ≠ some tick then (s0.take tick).modPair fun p => { p with waitOver := some tick } else s0)

/-- PAIR_HANDOVER, the ACTION 0xB000:08 (R336, R361): the ACTIVE asks its Owl for a handover at `h`. -/
def execPairHandover (h : Nat) (s : State) : Out :=
  let s0 := s.quiet
  .next (if s0.pairUp ∧ s0.pair.role = 1 ∧ s0.time.tick + 16 ≤ h then s0.toOwl 7 h 0 else s0)

/-! ### The Owl's side (R326-R328, R332, R333, R350, R352, R570) -/

def State.owlSvc (s : State) (q : Nat) : OwlSvc := tget {} s.owl q
def State.setOwl (s : State) (q : Nat) (f : OwlSvc → OwlSvc) : State := { s with owl := tmod {} s.owl q f }

/-- Addresses of the engines A and B of a service. -/
def State.owlAddr (s : State) (q : Nat) : Nat × Nat := (s.cfg (0xB100 + q) 2, s.cfg (0xB100 + q) 3)

/-- An engine's record is B's. -/
def State.owlIsB (s : State) (q e : Nat) : Bool := e == (s.owlAddr q).2

/-- The engine is one of the pair. -/
def State.owlKnows (s : State) (q e : Nat) : Bool := e == (s.owlAddr q).1 || e == (s.owlAddr q).2

/-- The service runs: enabled, on an engine in Noon that is OWNED, and not for the engine's own pair (R326). -/
def State.owlOn (s : State) (q : Nat) : Bool :=
  decide (q < 8) && s.cfgOn (0xB100 + q) 1 && s.top.state == .noon && s.sec.life == 1 && !(s.owlKnows q (s.cfg 0x0000 6))

def State.owlRec (s : State) (q e : Nat) : OwlEngine := if s.owlIsB q e then (s.owlSvc q).b else (s.owlSvc q).a

def State.setRec (s : State) (q e : Nat) (f : OwlEngine → OwlEngine) : State :=
  s.setOwl q fun v => if s.owlIsB q e then { v with b := f v.b } else { v with a := f v.a }

/-- The other engine of the pair. -/
def State.owlOther (s : State) (q e : Nat) : Nat := if s.owlIsB q e then (s.owlAddr q).1 else (s.owlAddr q).2

/-- A message of the Owl to an engine of a pair. -/
def State.fromOwl (s : State) (q ty dst epoch e arg : Nat) : State := s.sendOwl q ty dst epoch e arg []

/-- Eligibility of a SHADOW (R352); `waived` leaves out LYNX_MATCH. -/
def State.eligible (s : State) (q e : Nat) (waived : Bool) : Bool :=
  let r := s.owlRec q e
  r.inSync && (match r.healthTick with | some t => decide (s.time.tick ≤ t + 32) | none => false) &&
    (waived || decide (15 ≤ r.lynxMatch)) && decide (r.impaired < 8) && r.selfTest == 0 && r.limitsOk && r.healthOk

/-- BEATs of an engine are missing for 2 consecutive ticks. -/
def State.beatsMissing (s : State) (q e : Nat) : Bool :=
  match (s.owlRec q e).beatTick with
  | some t => decide (t + 3 ≤ s.time.tick)
  | none => true

/-- STANDBY to the SHADOW, or none, and PARTNER_LOST, once until it has STANDBY again (R332). -/
def State.owlStandby (s : State) (q e exp : Nat) : State :=
  let v := s.owlSvc q
  if s.eligible q e v.waiver && !(s.beatsMissing q e) then
    ((s.fromOwl q 4 e (nextEpoch v.epoch) exp (((s.owlRec q e).beatTick).getD 0)).setOwl q fun v => { v with stbySent := true }).setRec q e fun r =>
      { r with lost := false }
  else
    let s1 := (s.setOwl q fun v => { v with stbySent := false }).setRec q e fun r => { r with lost := true }
    if (s.owlRec q e).lost then s1 else s1.raiseAs blkPair 0x12 .c e s1.tickDetail none

/-- LEASE to the ACTIVE; once its BEATs were missing for 2 ticks, no further one (R332).  Before its first BEAT it gets none yet. -/
def State.owlLease (s : State) (q e exp : Nat) : State :=
  if (s.owlSvc q).noLease then s
  else if s.beatsMissing q e then s.setOwl q fun v => { v with noLease := (s.owlRec q e).beatTick.isSome }
  else (s.fromOwl q 3 e (s.owlSvc q).epoch exp (((s.owlRec q e).beatTick).getD 0)).setOwl q fun v => { v with lastE := exp }

/-- A take-over in the Owl: STANDBY to the taker until E_last, then its GRANT, and LEASEs from the next tick on. -/
def State.owlTaking (s : State) (q taker : Nat) : State :=
  let v := s.owlSvc q
  if v.lastE ≤ s.time.tick then
    (s.fromOwl q 6 taker (nextEpoch v.epoch) 0 0).setOwl q fun v => { v with
      epoch := nextEpoch v.epoch, active := some taker, taker := none, handover := none, handoverReq := none, waiver := false, stbySent := false
      noLease := false }
  else s.fromOwl q 4 taker (nextEpoch v.epoch) (s.time.tick + 4) (((s.owlRec q taker).beatTick).getD 0)

/-- The boundary of a handover has come: the new engine holds the token. -/
def State.owlHandedOver (s : State) (q a : Nat) : State :=
  match (s.owlSvc q).handover with
  | some h => if h ≤ s.time.tick then s.setOwl q fun v =>
      { v with epoch := nextEpoch v.epoch, active := some (s.owlOther q a), handover := none, handoverReq := none, waiver := false, stbySent := false
               lastE := h, noLease := false } else s
  | none => s

/-- A handover asked for (R336): in tick h - 2 the SHADOW has its GRANT. -/
def State.owlGrantHandover (s : State) (q a : Nat) : State :=
  let v := s.owlSvc q
  match v.handoverReq, v.handover with
  | some h, none =>
    if h ≤ s.time.tick + 2 then (s.fromOwl q 6 (s.owlOther q a) (nextEpoch v.epoch) h 0).setOwl q fun v => { v with handover := some h } else s
  | _, _ => s

/-- OWL_TICK_SEND (R328, R332, R336). -/
def execOwlTickSend (svc : Nat) (s : State) : Out :=
  let s0 := s.quiet
  if !(s0.owlOn svc) ∨ !s0.time.running then .next s0 else
  match (s0.owlSvc svc).taker, (s0.owlSvc svc).active with
  | some t, _ => .next (s0.owlTaking svc t)
  | none, none => .next s0
  | none, some a =>
    let s1 := s0.owlHandedOver svc a
    let a1 := ((s1.owlSvc svc).active).getD a
    let exp := ((s1.owlSvc svc).handoverReq).getD (s1.time.tick + 4)
    .next (((s1.owlLease svc a1 exp).owlStandby svc (s1.owlOther svc a1) (s1.time.tick + 4)).owlGrantHandover svc a1)

/-- A HELLO at the Owl (R327, R570): readiness and EPOCH are learned, and the service goes on from the highest EPOCH reported; an engine that is
ACTIVE at it is renewed; the first ready one starts the wait. -/
def State.onHello (s : State) (svc : Nat) (h : OwlHello) : State :=
  if !(s.owlOn svc) ∨ !(s.owlKnows svc h.engine) then s else
  let s1 := (s.setRec svc h.engine fun r => { r with epoch := h.epoch, code := h.code, inSync := h.inSync }).setOwl svc fun v =>
    { v with epoch := maxEpoch h.epoch v.epoch }
  let v := s1.owlSvc svc
  if h.code = 0 ∧ v.taker = none ∧ h.epoch = v.epoch then s1.setOwl svc fun v => { v with active := some h.engine, waiting := false, noLease := false }
  else if h.code = 2 ∧ v.active = none then s1.setOwl svc fun v => { v with waiting := true }
  else s1

/-- HELLO. -/
def execHello (svc : Nat) (h : OwlHello) (s : State) : Out := .next (s.quiet.onHello svc h)

/-- OWL_GRANT_WAIT (R570): 2 s after the first ready HELLO. -/
def execOwlGrantWait (svc : Nat) (s : State) : Out :=
  let s0 := s.quiet
  let v := s0.owlSvc svc
  let (ea, eb) := s0.owlAddr svc
  if !(s0.owlOn svc) ∨ !v.waiting ∨ v.active.isSome then .next s0 else
  let pick :=
    if v.a.code = 2 ∧ v.b.code = 2 then
      (if epochAbove v.a.epoch v.b.epoch then some ea else if epochAbove v.b.epoch v.a.epoch then some eb else some (min ea eb))
    else if v.a.code = 2 then some ea else if v.b.code = 2 then some eb else none
  match pick with
  | none => .next (s0.setOwl svc fun v => { v with waiting := false })
  | some e =>
    let n := nextEpoch (maxEpoch (maxEpoch v.a.epoch v.b.epoch) v.epoch)
    .next ((s0.fromOwl svc 6 e n 0 0).setOwl svc fun v =>
      { v with active := some e, epoch := n, waiting := false, lastE := s0.time.tick, noLease := false })

/-- The Owl's decision on LYNX_LOST (R350). -/
def State.owlLynxLost (s : State) (q a : Nat) : State :=
  let sh := s.owlOther q a
  if (s.owlRec q a).fault && !(s.owlRec q sh).fault && s.eligible q sh true then
    s.setOwl q fun v => { v with handoverReq := some (s.time.tick + 16), waiver := true }
  else s.fromOwl q 8 sh (s.owlSvc q).epoch 0 1

/-- Two engines claim the token: the higher EPOCH is ACTIVE, the other is demoted (R332). -/
def State.owlDuplicate (s : State) (q a e : Nat) : State :=
  let x := s.owlRec q e
  if x.code = 0 then
    if epochAbove x.epoch (s.owlRec q a).epoch then
      (s.fromOwl q 8 a (s.owlRec q a).epoch 0 2).setOwl q fun v => { v with active := some e, epoch := x.epoch, noLease := false }
    else s.fromOwl q 8 e x.epoch 0 2
  else s

/-- A BEAT at the Owl (R332, R333, R350). -/
def State.onBeat (s : State) (svc : Nat) (b : OwlBeat) : State :=
  if !(s.owlOn svc) ∨ !(s.owlKnows svc b.engine) then s else
  let was := (s.owlSvc svc).a.lynxLost || (s.owlSvc svc).b.lynxLost
  let s1 := s.setRec svc b.engine fun r => { r with
    epoch := b.epoch, beatTick := some b.tick, inSync := b.inSync, prov := b.prov, fault := b.fault, lynxLost := b.lynxLost
    limitsOk := s.lmOk b.lm && s.loOk b.lo }
  match (s1.owlSvc svc).active with
  | none => s1
  | some a =>
    let s2 := if b.engine = a then s1 else s1.owlDuplicate svc a b.engine
    let free := (s2.owlSvc svc).taker.isNone && (s2.owlSvc svc).handoverReq.isNone
    if b.lynxLost && !was && free then s2.owlLynxLost svc a else s2

/-- BEAT. -/
def execBeat (svc : Nat) (b : OwlBeat) (s : State) : Out := .next (s.quiet.onBeat svc b)

/-- A TAKE at the Owl (R332): from the SHADOW that holds standby; else DEMOTE answers it.  A second copy of one that was taken is discarded (R337). -/
def State.onTake (s : State) (svc engine epoch tick : Nat) : State :=
  if !(s.owlOn svc) ∨ !(s.owlKnows svc engine) then s else
  let v := s.owlSvc svc
  match v.active with
  | some a =>
    if engine ≠ a ∧ v.stbySent ∧ epoch = nextEpoch v.epoch ∧ v.taker = none then
      ((s.setRec svc engine fun r => { r with beatTick := some (Nat.max tick ((r.beatTick).getD 0)) }).setOwl svc fun v =>
        { v with taker := some engine, handoverReq := none, handover := none }).fromOwl svc 8 a v.epoch 0 0
    else if v.taker = some engine ∧ epoch = nextEpoch v.epoch then s
    else s.fromOwl svc 8 engine v.epoch 0 0
  | none => s.fromOwl svc 8 engine v.epoch 0 0

/-- TAKE. -/
def execTake (svc engine epoch tick : Nat) (s : State) : Out := .next (s.quiet.onTake svc engine epoch tick)

/-- A HANDOVER at the Owl (R336, R332): at least 16 ticks ahead when it was sent; a TAKE goes first. -/
def State.onHandover (s : State) (svc h : Nat) : State :=
  let v := s.owlSvc svc
  if s.owlOn svc ∧ v.active.isSome ∧ v.taker = none ∧ v.handoverReq ≠ some h ∧ s.time.tick + 2 < h then
    s.setOwl svc fun v => { v with handoverReq := some h, handover := none } else s

/-- HANDOVER. -/
def execHandover (svc : Nat) (h : Nat) (s : State) : Out := .next (s.quiet.onHandover svc h)

/-- A HEALTH report at the Owl (R351, R352). -/
def State.onHealth (s : State) (svc : Nat) (h : OwlHealth) : State :=
  if !(s.owlOn svc) ∨ !(s.owlKnows svc h.engine) then s else
  s.setRec svc h.engine fun r => { r with
    healthTick := some h.tick, lynxMatch := h.lynxMatch, impaired := h.impaired, selfTest := h.selfTest
    healthOk := s.lmOk h.lm && skewOk h.skew }

/-- HEALTH. -/
def execHealth (svc : Nat) (h : OwlHealth) (s : State) : Out := .next (s.quiet.onHealth svc h)

/-! ### Owl messages as they arrive (R337-R339) -/

/-- The first valid copy of a message, by FROM, MTYPE and TICK: noted, or none for a later one. -/
def State.firstOwl (s : State) (k : Nat × Nat × Nat) : Option State :=
  if s.pair.owlSeen.contains k then none else some (s.modPair fun p => { p with owlSeen := (k :: p.owlSeen).take 256 })

/-- The one-way latency in 10 ns of a BEAT of tick `k`, sent at k + 0.1 T, that arrives at `arrival` ps (R333, R339). -/
def State.beatLatency (s : State) (k arrival : Nat) : Nat := (arrival * 10 * s.fs - (10 * k + 1) * s.spt * 1000000000000) / (100000 * s.fs)

/-- What a verified Owl message does, by its header and body; unknown versions and types are discarded. -/
def State.owlMessage (s : State) (m : List Byte) (arrival : Nat) : State :=
  let ty := field m 1 1
  let q := field m 2 2
  let sender := field m 4 2
  let epoch := field m 6 2
  let tick := field m 8 8
  let e := field m 16 8
  let arg := field m 24 8
  let b (i : Nat) : Nat := field m (32 + i) 2
  if m.length < 32 ∨ field m 0 1 ≠ 1 then s else
  match s.firstOwl (sender, ty, tick) with
  | none => s
  | some s =>
    let mine : Bool := sender == s.cfg 0xB000 3
    match ty with
    | 1 => s.onHello q { engine := sender, epoch := epoch, code := arg % 4, inSync := bitAt arg 2 }
    | 2 => s.onBeat q { engine := sender, epoch := epoch, tick := tick, mirrorUp := bitAt arg 0, inSync := bitAt arg 1, prov := bitAt arg 2
                        fault := bitAt arg 3, lynxLost := bitAt arg 4, lm := arg / 2 ^ 32 % 65536, lo := s.beatLatency tick arrival }
    | 3 => if mine then s.onLease epoch tick e else s
    | 4 => if mine then s.onStandby epoch tick else s
    | 5 => s.onTake q sender epoch tick
    | 6 => if mine then s.onGrant epoch e else s
    | 7 => s.onHandover q e
    | 8 => if mine then s.onDemote epoch else s
    | 9 => s.onHealth q { engine := sender, tick := tick, lynxMatch := b 0, impaired := b 2, spare := b 4, selfTest := b 6, sramC := field m 40 4
                          dramC := field m 44 4, scrub := b 16, lm := b 18, marginPl := b 20, marginMp := b 22, skew := b 24, uev := b 26 }
    | _ => s

end Sys2Proof.Machine
end

