-- ==== Sys2Proof/Machine/Mirror.lean ====
section
/-! DEFINITION. The mirror and the rejoin (R324, R330, R331, R340-R356, R31, R32). -/

namespace Sys2Proof.Machine

/-- A mirror record came (R352). -/
def State.heardMirror (s : State) : State := s.modPair fun p => { p with mirrorTick := s.time.tick }

/-- The engine adopts what an ACTIVE sends: a SHADOW, or an engine that joins (R343, R353). -/
def State.adopts (s : State) : Bool := s.paired && s.followsVerdicts

/-- PROCESS of a tick has not started. -/
def State.beforeProcess (s : State) (n : Nat) : Bool := decide (s.time.tick < n + 2)

/-! ### VERDICT, MISS, REPAIR (R342-R344) -/

/-- One context of a VERDICT: the frame with the required EPOCH comes into force, or the context is missed. -/
def State.adoptCtx (n : Nat) (eps : List (Nat × Nat)) (p : State × List Nat) (x : Nat) : State × List Nat :=
  let (s, miss) := p
  if ctxMode s.dict.vals x = 2 then (if s.ownPresent x n then p else (s, miss ++ [x]))
  else
    let want := match eps.find? fun e => e.1 == x with | some e => some e.2 | none => (s.ctx x).epochCur
    let s1 := s.setCtx x fun c => { c with epochCur := want }
    match (s.ctx x).inForce.find? fun f => f.tick == n && some f.epoch == want with
    | some f => (s1.gatherPut x n f.data, miss)
    | none => (s1, miss ++ [x])

/-- The adopted DIRECT bits of a tick replace the engine's own (R92, R345). -/
def Csw.adoptDirect (c : Csw) (n : Nat) (ds : List (Nat × List Bool)) : Csw :=
  { c with directBits := (ds.map fun d => (n, d.1, d.2)) ++ c.directBits.filter fun h => !(h.1 == n && ds.any fun d => d.1 == h.2.1) }

/-- The bytes of a MISS record: the layout of PRESENT (R342). -/
def missBytes (l : List Nat) : List Byte := packBits 512 ((List.range 4096).map l.contains)

/-- A VERDICT (R343). -/
def State.onVerdict (s : State) (v : VerdictRec) : State :=
  if !s.adopts ∨ !(s.beforeProcess v.tick) then s else
  let s1 := (s.heardMirror.modPair fun p => { p with verdicts := ⟨v.tick, v.present, v.epochs, v.directs⟩ :: p.verdicts }).modCsw fun c =>
    ({ c with present := tset c.present v.tick v.present }).adoptDirect v.tick v.directs
  let (s2, miss) := ((gatherCtxs s1.dict.vals).filter v.present.contains).foldl (State.adoptCtx v.tick v.epochs) (s1, [])
  if miss.isEmpty then s2
  else (s2.modPair fun p => { p with asked := miss.map (fun x => (v.tick, x)) ++ p.asked }).sendMirror 1 1 v.tick (missBytes miss)

/-- VERDICT. -/
def execVerdict (v : VerdictRec) (s : State) : Out := .next (s.quiet.onVerdict v)

/-- The bytes of a REPAIR record (R342): the context, its samples in Q1.31, the side bytes of FMT 3. -/
def repairBytes (x : Nat) (d : TickData) : List Byte := beBytes 4 x ++ d.samples.flatMap (intBytes 4) ++ d.side.map b8

/-- A MISS (R340, R344): REPAIRs in ascending context order, until the deadline. -/
def State.onMiss (s : State) (tick : Nat) (ctxs : List Nat) : State :=
  if s.pair.role ≠ 1 ∨ !(s.beforeProcess tick) then s else
  foldS (fun (s : State) x =>
    match tfind s.csw.gather (bankKey tick x) with
    | some d => if s.isPresent tick x then s.sendMirror 2 2 tick (repairBytes x d) else s
    | none => s) s.heardMirror (sortN ctxs)

/-- MISS. -/
def execMiss (tick : Nat) (ctxs : List Nat) (s : State) : Out := .next (s.quiet.onMiss tick ctxs)

/-- A REPAIR (R342, R343). -/
def State.onRepair (s : State) (r : RepairRec) : State :=
  if !s.adopts ∨ !(s.beforeProcess r.tick) then s else
  (s.heardMirror.gatherPut r.ctx r.tick { nch := ctxNch s.dict.vals r.ctx, samples := r.samples, side := r.side }).modPair fun p =>
    { p with repaired := (r.tick, r.ctx) :: p.repaired }

/-- REPAIR. -/
def execRepair (r : RepairRec) (s : State) : Out := .next (s.quiet.onRepair r)

/-! ### TDM, COMMIT (R345, R346) -/

/-- A TDM record (R345): the words of local TDM channel `ch` at sample `k` under the index ch * SPT + k, by the cutoff of the tick. -/
def State.onTdm (s : State) (tick : Nat) (words : List (Nat × Int)) : State :=
  let late : Bool := match s.csw.cutTick with | some n => decide (tick ≤ n) | none => false
  if !s.adopts ∨ late then s else
  let chans := sortN (words.map fun w => w.1 / s.spt)
  let data (ch : Nat) : List Int := (List.range s.spt).map fun k => match words.find? fun w => w.1 == ch * s.spt + k with | some w => w.2 | none => 0
  let s1 := foldS (fun (s : State) ch => (s.modCsw fun c => { c with gather := tset c.gather (bankKey tick (tdmIndex ch)) { nch := 1, samples := data ch } }).wakeReaders
    tick 1 ch (data ch)) s.heardMirror chans
  s1.modPair fun p => { p with tdmRec := tick :: p.tdmRec }

/-- TDM_RECORD. -/
def execTdmRecord (tick : Nat) (words : List (Nat × Int)) (s : State) : Out := .next (s.quiet.onTdm tick words)

/-- A mirrored unit as the SHADOW applies it: a recall without values is a reference to the slot, and brings what is pair-wide (R340). -/
def State.mirrored (s : State) (u : CUnit) : CUnit :=
  if u.kind = .recall ∧ u.writes.isEmpty then
    { u with writes := (tget ({} : SceneSlot) s.dict.slots u.slot).entries.filter fun w => pairWide w.obj w.mem }
  else u

/-- COMMIT_RECORD (R346, R436): a recall that reads a poisoned line is a lost record. -/
def execCommitRecord (tick : Nat) (units : List CUnit) (s : State) : Out :=
  let s0 := s.quiet
  if !s0.adopts ∨ !(s0.beforeProcess tick) then .next s0
  else if units.any fun u => u.kind == .recall && u.writes.isEmpty && s0.scenePoisoned u.slot then
    .next ((s0.heardMirror.raiseT blkPair 0x14 .u).toRejoin)
  else
    let us := units.map s0.mirrored
    .next ((s0.heardMirror.modPair fun p => { p with commitRec := tick :: p.commitRec }).putSealed tick us)

/-! ### BEACON, STATUS, FENCE (R330, R331, R356) -/

/-- A BEACON (R331). -/
def State.onBeacon (s : State) (boundary epoch : Nat) : State :=
  if !s.paired ∨ s.pair.role = 1 then s else
  s.heardMirror.modPair fun p => { p.saw epoch with beacon := some boundary, epoch := if p.role = 2 ∧ epochAbove epoch p.epoch then epoch else p.epoch }

/-- BEACON. -/
def execBeacon (boundary epoch : Nat) (s : State) : Out := .next (s.quiet.onBeacon boundary epoch)

/-- A STATUS record (R330, R357). -/
def State.onStatus (s : State) (r : StatusRec) : State :=
  if !s.paired ∨ s.pair.role ≠ 1 then s else
  s.heardMirror.modPair fun p => { p with
    status := some (r.tick, r.standby, r.take), standby := r.standby, mateSync := r.inSync, lastSync := if r.inSync then some r.tick else p.lastSync }

/-- STATUS_RECORD. -/
def execStatusRecord (r : StatusRec) (s : State) : Out := .next (s.quiet.onStatus r)

/-- A FENCE (R331, R356): without an Owl an in-sync SHADOW emits from the boundary named where it is still to come, else from the next one; from b + W
of the present one where the FENCE names it and comes before that (log 76). -/
def State.onFence (s : State) (boundary epoch : Nat) : State :=
  if !s.paired then s else
  let s1 := s.heardMirror.modPair fun p => { p with fenceB := some boundary }
  if s1.pair.role ≠ 2 ∨ !s1.pair.noOwl ∨ !s1.pair.inSync ∨ s1.top.state ≠ .noon then s1 else
  let h := if boundary ≤ s1.time.tick then s1.time.tick + 1 else boundary
  s1.modPair fun p => { p with grant := some (nextEpoch (maxEpoch epoch p.epoch), h) }

/-- FENCE. -/
def execFence (boundary epoch : Nat) (s : State) : Out := .next (s.quiet.onFence boundary epoch)

/-! ### Lynx (R349, R350) -/

/-- A LYNX record (R349): within 2 ticks of the start of its stage it is compared with the engine's own. -/
def State.onLynx (s : State) (r : LynxRec) : State :=
  if !s.paired ∨ r.stage + 3 < s.time.tick then s else
  (s.heardMirror.modPair fun p => { p with lynxGot := tset p.lynxGot r.stage r.crcs }).lynxCompare r.stage

/-- LYNX. -/
def execLynx (r : LynxRec) (s : State) : Out := .next (s.quiet.onLynx r)

/-- LYNX_ABSENT (R349). -/
def execLynxAbsent (stage : Nat) (s : State) : Out :=
  let s0 := s.quiet
  let waits := (tfind s0.pair.lynxOwn stage).isSome || (tfind s0.pair.lynxGot stage).isSome
  .next (if s0.lynxOn ∧ waits ∧ stage + 3 ≤ s0.time.tick then
    s0.modPair fun p => ({ p with lynxOwn := tdel p.lynxOwn stage, lynxGot := tdel p.lynxGot stage }).outcome stage 2 else s0)

/-- Mismatches in 16 consecutive ticks, or in 8 of the last 64. -/
def Pair.lynxFails (p : Pair) : Bool :=
  (decide (16 ≤ p.lynxHist.length) && (p.lynxHist.take 16).all (· == 1)) || decide (8 ≤ (p.lynxHist.filter (· == 1)).length)

/-- LYNX_LOST (R350): raised once for a run of 64 ticks; without an Owl the SHADOW rejoins. -/
def execLynxLost (s : State) : Out :=
  let s0 := s.quiet
  let again : Bool := match s0.pair.lynxLostAt with | some t => decide (s0.time.tick < t + 64) | none => false
  if s0.pair.role = 0 ∨ s0.top.state ≠ .noon ∨ !s0.lynxCounts ∨ !s0.pair.lynxFails ∨ again then .next s0 else
  let s1 := (s0.modPair fun p => { p with lynxLostAt := some s0.time.tick }).raiseT blkPair 0x16 .u
  .next (if s1.pair.role = 2 ∧ s1.pair.noOwl then s1.toRejoin else s1)

/-- MIRROR_SILENCE (R352). -/
def execMirrorSilence (s : State) : Out :=
  let s0 := s.quiet
  .next (if s0.pair.role = 2 ∧ s0.pair.mirrorTick + 8 ≤ s0.time.tick then s0.modPair fun p => { p with inSync := false } else s0)

/-! ### Rejoin (R353, R354) -/

/-- The engines name each other and the same Owl, and the conditions of R32 that a JOIN compares agree (R324). -/
def State.joinAgrees (s : State) (j : JoinRec) : Bool :=
  let o := s.joinRec none
  j.engine == o.partner && j.partner == o.engine && j.owl == o.owl && j.revision == o.revision && j.fs == o.fs && j.spt == o.spt &&
    j.cutoff == o.cutoff && j.digests == o.digests

/-- A JOIN (R353, R324): the ACTIVE names the snapshot point; the joining engine takes it.  On a mismatch the pair is refused, and the ACTIVE lets the
other engine compare too. -/
def State.onJoin (s : State) (j : JoinRec) : State :=
  if !s.paired then s
  else if !(s.joinAgrees j) then
    let s1 := s.heardMirror.modPair fun p => { p with rejoin := 0, refused := true }
    (if s.pair.role = 1 ∧ j.s = none then s1.sendJoin none else s1).raiseT blkPair 0x10 .u
  else match j.s with
  | none =>
    if s.pair.role = 1 ∧ s.top.state = .noon then
      let p := s.time.tick + 16
      (s.heardMirror.modPair fun x => { x with capturing := some p, snap := none, mateSync := false, refused := false }).sendJoin (some p)
    else s
  | some p =>
    if s.pair.rejoin = 1 then
      s.heardMirror.modPair fun x => { x with joinS := some p, rejoin := 2, snap := none, caught := false, snapEnd := 0 }
    else s

/-- JOIN. -/
def execJoin (j : JoinRec) (s : State) : Out := .next (s.quiet.onJoin j)

/-- CAPTURE (R353): the capture taken at the named point leaves as SNAP records. -/
def execCapture (tick : Nat) (s : State) : Out :=
  let s0 := s.quiet
  match s0.pair.snap with
  | some c =>
    if s0.pair.role = 1 ∧ s0.pair.capturing = some tick ∧ c.tick = tick then
      .next ((s0.modPair fun p => { p with capturing := none, snap := none }).sendRecord 2 10 tick 4 fun _ _ _ => .snap c)
    else .next s0
  | none => .next s0

/-- SNAP_RECORD (R353). -/
def execSnapRecord (r : SnapRec) (s : State) : Out :=
  let s0 := s.quiet
  .next (if s0.pair.rejoin = 2 ∨ s0.pair.rejoin = 3 then
    s0.heardMirror.modPair fun p => { p with
      rejoin := 3, snap := (match r.whole with | some c => some c | none => p.snap), snapEnd := s0.time.tick }
  else s0)

/-- A captured work set in the cluster that owns it. -/
def State.loadWs (s : State) (e : Nat × WsSnap) : State :=
  match s.owner e.1 with
  | none => s
  | some n =>
    let put (l : Nat) (x : Lane) : Lane :=
      match e.2.lanes[l]? with
      | some (cells, noise) =>
        { x with lmem := cells.foldl (fun m c => memSet m c.1 c.2) (clearRegions (s.workSet e.1).img.state x.lmem), noise := noise }
      | none => x
    s.setCluster n fun c => { c with lanes := mapBelow put 32 0 c.lanes }

/-- Both PARAM copies and dynamic coefficients of a cluster anew, from the values in force (R32, R115). -/
def State.sameParams (s : State) (n : Nat) : State :=
  if (s.cluster n).role = 1 ∧ !(imageStrips (s.cluster n).img).isEmpty then s.setCluster n fun c => c.newParams s.dict.vals else s

/-- The capture loaded, with the parameters that its values give the clusters (R32); ALN
regions stand in the engine's own pool and start with H = 0 (R238, R250). -/
def State.loadSnap (s : State) (c : Snap) : State :=
  let s1 := s.modDict fun d => { d with
    vals := c.vals ++ d.vals.filter fun e => !(pairWide (e.1 / 16777216) (e.1 / 65536 % 256)) }
  let s2 := { s1 with
    mix := { s1.mix with buses := c.buses }, dyn := { s1.dyn with insts := c.dyn }, dp := { s1.dp with ch := c.dp, done := c.dpDone }
    sil := { s1.sil with det := c.det, log := c.silLog, mon := c.mon }
    csw := { s1.csw with routes := c.routes, fades := c.fades, foxPast := c.foxPast, fadeQ := c.fadeQ, foxLast := c.foxLast
                         ctx := c.epochs.foldl (fun t e => tmod ({} : Ctx) t e.1 fun x => { x with epochCur := some e.2 }) s1.csw.ctx }
    aln := { s1.aln with outs := placeRegions (poolBase s1.dict.vals) (poolSize s1.dict.vals) c.aln [] } }
  (foldS State.loadWs (foldS State.sameParams s2 (List.range 9)) c.ws).noteStates

/-- PROCESS of a tick starts with its route changes and its commit. -/
def State.catchStart (s : State) (n : Nat) : State := ((s.foxRun n).applyDue n []).startProcess n []

/-- Every step of the tick of PROCESS has run. -/
def State.stepsOver (s : State) : Bool :=
  (List.range 9).all fun c =>
    (s.cluster c).role != 1 || s.asleep c || decide ((s.cluster c).img.steps.length ≤ (s.cluster c).stepsRun)

/-- The next tick of the catch-up, once the one before it is computed; the decisions of the next cutoff fall before its end (R206). -/
def State.catchNext (s : State) : State :=
  let n := s.csw.proc
  if n + 2 < s.time.tick ∧ s.stepsOver then ((s.cutoffDecide (n + 1)).endProcess n []).catchStart (n + 1) else s

/-- The catch-up goes on as far as the clusters have computed; having reached the present PROCESS, the engine refills (R353, log 168). -/
def State.catchOn (s : State) : State :=
  let s1 := iter State.catchNext (s.time.tick - 2 - s.csw.proc) s
  let n := s1.csw.proc
  if n + 2 < s1.time.tick then s1
  else
    let last := match s1.csw.cutTick with | some c => c | none => n
    foldS State.cutoffDecide (s1.modPair fun p => { p with caught := true, rejoin := 5 }) ((List.range (last - n)).map (n + 1 + ·))

/-- A rejoin refused: at most 3 retries, then Night (R354). -/
def State.rejoinFails (s : State) : State :=
  let s1 := (s.modPair fun p => { p with retries := p.retries + 1, rejoin := 0, joinS := none, snap := none }).raiseT blkPair 0x17 .u
  if 3 < s1.pair.retries then s1.enterNight 6 else s1

/-- Bytes of the gathered input of a tick: every ingress channel and the 256 TDM channels, 4 bytes a sample (log 204). -/
def State.inputBytes (s : State) : Nat := 4 * s.spt * (256 + sumN ((ingressCtxs s.dict.vals).map (ctxNch s.dict.vals)))

/-- The SNAP area holds a capture of `n` bytes and 1.2 times ceil(11.5 e) ticks of gathered input (R354). -/
def State.areaHolds (s : State) (c : Snap) (n : Nat) : Bool :=
  let ticks := ceilDiv (23 * (s.pair.snapEnd - c.tick)) 2
  decide (10 * n + 12 * ticks * s.inputBytes ≤ 10 * s.cfg 0xB000 10)

/-- A commit changes images or regions: of work sets, or of aligned outputs. -/
def CUnit.changesLayout (u : CUnit) : Bool :=
  !u.images.isEmpty || u.writes.any fun w => decide (0x7000 ≤ w.obj) && decide (w.obj ≤ 0x7FFF) && [1, 9, 10].contains w.mem

/-- A commit in the capture window, from the snapshot point to s + 4, changes images or regions (R354). -/
def State.windowCommit (s : State) (c : Snap) : Bool :=
  s.dict.sealed.any fun e => decide (c.tick ≤ e.1) && decide (e.1 ≤ c.tick + 4) && e.2.any CUnit.changesLayout

/-- A capture is refused (R354, R436). -/
def State.refusesSnap (s : State) (c : Snap) (n : Nat) (poison : Bool) : Bool :=
  poison || !(s.areaHolds c n) || c.digests != s.imageDigests || s.windowCommit c

/-- CATCH_UP (R353, R354, R436): the capture takes `bytes` of the SNAP area; from the snapshot point to the present PROCESS, back to back; the instructions of the clusters come between two
of these commands (log 168). -/
def execCatchUp (bytes : Nat) (poison : Bool) (s : State) : Out :=
  let s0 := s.quiet
  if s0.pair.rejoin = 4 ∧ s0.holdsCommits then .next (if poison then s0.rejoinFails else s0.catchOn) else
  match s0.pair.snap with
  | none => .next s0
  | some c =>
    if s0.pair.rejoin ≠ 3 ∨ s0.time.tick < c.tick + 2 then .next s0
    else if s0.refusesSnap c bytes poison then .next s0.rejoinFails
    else .next (((s0.loadSnap c).modPair fun p => { p with snap := none, rejoin := 4 }).catchStart c.tick).catchOn

/-- Samples an aligned output must hold: floor of its largest delay and 13 (R353, R233). -/
def AlnOut.covered (a : AlnOut) : Bool :=
  let d := Nat.max (Nat.max a.cur a.target) (match a.xtap with | some x => x.old | none => 0)
  a.region.isNone || decide (d / 65536 + 13 ≤ a.horizon)

/-- REFILL (R353). -/
def execRefill (s : State) : Out :=
  let s0 := s.quiet
  .next (if s0.pair.rejoin = 5 ∧ (s0.aln.outs.all fun e => e.2.covered) then s0.modPair fun p => { p with rejoin := 6, matchRun := 0 } else s0)

/-- IN_SYNC (R353, R28, R29): 64 consecutive MATCH ticks; a leave command or a class F event goes first. -/
def execInSync (s : State) : Out :=
  let s0 := s.quiet
  .next (if s0.pair.rejoin = 6 ∧ 64 ≤ s0.pair.matchRun ∧ s0.top.state = .morning ∧ s0.serviceReady ∧ s0.top.leaveAt = none ∧ !s0.top.classF then
    (s0.enterNoon 2).modPair fun p => { p with inSync := true, rejoin := 0, joinS := none, caught := false, retries := 0, fenced := false }
  else s0)

end Sys2Proof.Machine
end

