-- ==== Sys2Proof/Machine/Memory.lean ====
section
/-! DEFINITION. SRAMC and MEMC: corrections, uncorrectable words, row repair, Badger, DRAM codes, migration and post-package repair
(R425-R444). -/

namespace Sys2Proof.Machine

def State.modSramc (s : State) (f : Sramc → Sramc) : State := { s with sramc := f s.sramc }
def State.modMemc (s : State) (f : Memc → Memc) : State := { s with memc := f s.memc }

/-! ### Row repair (R430-R432) -/

/-- The number of a macro: region and number within it as ELOG has them (R447). -/
def macroKey (region mac : Nat) : Nat := region * 4096 + mac % 4096

/-- ELOG takes a macro, a row and a kind. -/
def Sramc.elog (m : Sramc) (key row kind : Nat) : Sramc :=
  { m with elogMacro := key % 4096, elogRegion := key / 4096, elogRow := row % 4096, elogKind := kind }

/-- A cluster whose macro has no spare row left: a repair spare-in, and the released cluster is FAULTY; a spare fails (R432). -/
def State.noRowCluster (s : State) (region : Nat) : State :=
  if 4 ≤ region ∧ region ≤ 12 then
    let n := region - 4
    if (s.cluster n).role = 1 then (s.setCluster n fun c => { c with condemned := true }).repairSpin n false
    else if (s.cluster n).role = 0 then s.spareFails n
    else s
  else s

/-- A row is to be repaired: on a spare row, behind a running repair, or not at all. -/
def State.requestRow (s : State) (key row : Nat) : State :=
  if 4 ≤ tget 0 s.sramc.spares key then
    ((s.modSramc fun m => m.elog key row 3).raiseT blkSramc 0x13 .u).noRowCluster (key / 4096)
  else if s.sramc.repair.isSome then s.modSramc fun m => { m with repairQ := some (key, row) }
  else s.modSramc fun m => { m with repair := some (key, row) }

/-- ROW_REPAIRED (R431): the decoder points the row to the spare; a waiting repair starts. -/
def execRowRepaired (mem row : Nat) (s : State) : Out :=
  let s0 := s.quiet
  if s0.sramc.repair ≠ some (mem, row) then .next s0 else
  let used := tget 0 s0.sramc.spares mem + 1
  let s1 := s0.modSramc fun m => { m with
    repair := none, repairQ := none, spares := tset m.spares mem used, mapped := (mem, row) :: m.mapped, rows := (m.rows + 1) % 2 ^ 32
    exhausted := if used = 4 then m.exhausted + 1 else m.exhausted }
  let s2 := s1.raiseT blkSramc 0x12 .c
  .next (match s0.sramc.repairQ with | some q => s2.requestRow q.1 q.2 | none => s2)

/-! ### The code of the SRAMs: SECDED (39,32) (R425)

Positions 1 to 38 of the Hamming code hold data bits, but for its check bits at 1, 2, 4, 8, 16 and 32; position 0 is the overall parity (DESIGN
CHOICE, log 173). -/

/-- What a word reads as whose bits at some positions are wrong. -/
inductive Secded where
  | clean | corrected | uncorrectable
  deriving DecidableEq, Repr

/-- The verdict of the code: an odd number of wrong bits reads as one bit at the position that the Hamming syndrome names; an even number as a
double error, unless the syndrome is 0. -/
def secded (bits : List Nat) : Secded :=
  let l := (bits.filter fun b => decide (b < 39)).dedup
  let syn := l.foldl (· ^^^ ·) 0
  if l.length % 2 = 1 then (if syn < 39 then .corrected else .uncorrectable) else if syn = 0 then .clean else .uncorrectable

/-! ### SRAM reads (R426, R427) -/

/-- The affected sample of a tick's data reads as zero (R427). -/
def TickData.silenced (d : TickData) (k : Nat) : TickData := { d with samples := d.samples.set k 0, side := d.side.set k 0 }

/-- The reaction to an uncorrectable word of a memory. -/
def State.sramReact (s : State) (m : SramMem) : State :=
  match m with
  | .cluster cl =>
    if (s.cluster cl).role = 1 then s.containCluster cl else if (s.cluster cl).role = 0 then s.selfTestFails cl else s
  | .gather x t k =>
    let s1 := match tfind s.csw.gather (bankKey t x) with
      | some d => s.modCsw fun c => { c with gather := tset c.gather (bankKey t x) (d.silenced k) }
      | none => s
    s1.setCtx x fun c => { c with
      early := c.early.map fun f => if f.tick = t then { f with data := f.data.silenced k } else f
      inForce := c.inForce.map fun f => if f.tick = t then { f with data := f.data.silenced k } else f }
  | .output slot t k => s.modCsw fun c => { c with out := tmod [] c.out (bankKey t slot) fun l => l.set k 0 }
  | .context x =>
    s.modCsw fun c => { c with
      hidden := m :: c.hidden, present := match c.cutTick with | some n => tset c.present n ((tget [] c.present n).filter (· != x)) | none => c.present }
  | .channel _ _ | .subscription _ | .mixEntry _ _ | .address _ => s.modCsw fun c => { c with hidden := m :: c.hidden }
  | .image =>
    { s with clusters := s.clusters.map fun e => if e.2.phase = 1 then (e.1, { e.2 with spinTick := s.time.tick }) else e }
  | .fixed f => s.requestReset .ctl0 f
  | .primaryFw | .standbyFw | .frameBuffer | .other => s

/-- SRAM_READ_ERROR (R426, R427, R429): one correction for each word until it is written back. -/
def execSramReadError (e : SramErr) (s : State) : Out :=
  let s0 := s.quiet
  let k := macroKey e.region e.mac
  match secded e.bits with
  | .clean => .next s0
  | .corrected =>
    .next (if s0.sramc.pendingWB.contains (k, e.row, e.word) then s0
      else s0.modSramc fun m => { m with corr := m.corr + 1, unreported := m.unreported + 1, pendingWB := (k, e.row, e.word) :: m.pendingWB })
  | .uncorrectable =>
    let s1 := s0.modSramc fun m => { m.elog k e.row 2 with ue := true, pendingWB := m.pendingWB.erase (k, e.row, e.word) }
    .next ((s1.raiseT blkSramc 0x11 (if e.mem = .primaryFw then .f else .u)).sramReact e.mem)

/-- SRAM_WRITE_BACK (R426, R429, R430): the reread is clean, or the row is hard; a write-back that a functional write cancelled does nothing. -/
def execSramWriteBack (mem row : Nat) (w : WriteBack) (s : State) : Out :=
  let s0 := s.quiet
  if !(s0.sramc.pendingWB.contains (mem, row, w.word)) then .next s0 else
  let s1 := s0.modSramc fun m => { m with pendingWB := m.pendingWB.erase (mem, row, w.word) }
  if w.cancelled then .next s1
  else if w.again then .next ((s1.modSramc fun m => m.elog mem row 1).requestRow mem row)
  else .next (s1.raiseT blkSramc 0x10 .c)

/-- A row that took corrections in this pass, at second `t`: repaired at its third pass within 3,600 s. -/
def State.badgerRow (t : Nat) (s : State) (r : Nat × Nat) : State :=
  let hits := s.sramc.rowHits.filter fun h => h.1 == r.1 && h.2.1 == r.2 && decide (t < h.2.2 + 3600)
  let s1 := s.modSramc fun m => { m with rowHits := (r.1, r.2, t) :: m.rowHits.filter fun h => decide (t < h.2.2 + 3600) }
  if 2 ≤ hits.length then s1.requestRow r.1 r.2 else s1

/-- BADGER_PASS (R428, R430): SCRUB updates, and rows corrected in three passes are repaired. -/
def execBadgerPass (rows : List (Nat × Nat)) (s : State) : Out :=
  let s0 := s.quiet
  let t := s0.nowNs / 1000000000
  let s1 := s0.fresh.modSramc fun m => { m with passes := (m.passes + 1) % 65536, age := 0, clean := !m.ue, ue := false }
  .next (foldS (State.badgerRow t) s1 rows)

/-! ### The outer code of the DRAM: RS(20,16) over GF(2^8) (R434)

Symbol `p` of a codeword is the coefficient of x^p: 4 to 19 carry the 16 data bytes of the codeword in the order of their addresses, 0 to 3
are its check symbols (DESIGN CHOICE, log 169). -/

/-- Multiplication by α, the root x of the field polynomial x^8 + x^4 + x^3 + x^2 + 1. -/
def gfDouble (a : Nat) : Nat := if a < 128 then 2 * a else (2 * a) ^^^ 0x11D

def gfMul (a b : Nat) : Nat := [7, 6, 5, 4, 3, 2, 1, 0].foldl (fun r k => gfDouble r ^^^ (if b.testBit k then a else 0)) 0

def gfPow (a : Nat) : Nat → Nat
  | 0 => 1
  | n + 1 => gfMul a (gfPow a n)

/-- The inverse of a number other than 0: the field has 255 of them. -/
def gfInv (a : Nat) : Nat := gfPow a 254

/-- The coefficients of a polynomial times x + r, lowest first. -/
def gfTimesRoot (r : Nat) (c : List Nat) : List Nat := List.zipWith (· ^^^ ·) (0 :: c) (c.map (gfMul r) ++ [0])

/-- The generator polynomial, with roots α^0 to α^3. -/
def rsGen : List Nat := [0, 1, 2, 3].foldl (fun g i => gfTimesRoot (gfPow 2 i) g) [1]

/-- The codeword of 16 data symbols: the four check symbols make it a multiple of the generator. -/
def rsEncode (data : List Nat) : List Nat :=
  data.reverse.foldl (fun r d =>
    let fb := d ^^^ at? 0 r 3
    List.zipWith (fun x g => x ^^^ gfMul fb g) (0 :: r.take 3) rsGen) [0, 0, 0, 0] ++ data

/-- The value of a word at α^i: a codeword has 0 for i = 0 to 3. -/
def rsSyndrome (w : List Nat) (i : Nat) : Nat := w.reverse.foldl (fun r c => gfMul r (gfPow 2 i) ^^^ c) 0

/-- The pattern of at most two wrong symbols, with the bits to invert, that makes a word a codeword; none where there is no such pattern. -/
def rsPattern (w : List Nat) : Option (List (Nat × Nat)) :=
  let s0 := rsSyndrome w 0
  let s1 := rsSyndrome w 1
  let s2 := rsSyndrome w 2
  let s3 := rsSyndrome w 3
  let d := gfMul s0 s2 ^^^ gfMul s1 s1
  let b := gfMul s0 s3 ^^^ gfMul s1 s2
  let c := gfMul s1 s3 ^^^ gfMul s2 s2
  if s0 = 0 ∧ s1 = 0 ∧ s2 = 0 ∧ s3 = 0 then some []
  else if d = 0 then
    ((List.range 20).find? fun p =>
      let x := gfPow 2 p
      s0 != 0 && s1 == gfMul s0 x && s2 == gfMul s1 x && s3 == gfMul s2 x).map fun p => [(p, s0)]
  else
    match (List.range 20).filter fun p => let x := gfPow 2 p; gfMul d (gfMul x x) ^^^ gfMul b x ^^^ c == 0 with
    | [p, q] =>
      let e := gfMul (s1 ^^^ gfMul (gfPow 2 p) s0) (gfInv (gfPow 2 p ^^^ gfPow 2 q))
      some [(p, s0 ^^^ e), (q, e)]
    | _ => none

/-- A word with some symbols changed. -/
def rsFlip (w : List Nat) (l : List (Nat × Nat)) : List Nat := l.foldl (fun w e => w.modify e.1 (· ^^^ e.2 % 256)) w

/-- The device that holds a symbol: 0 to 7 the data, 8 and 9 the check symbols. -/
def rsDevice (p : Nat) : Nat := if p < 4 then 8 + p % 2 else (p - 4) % 8

/-- A codeword as it is read: its data after correction and the devices corrected; none where no pattern of two symbols explains it. -/
def rsRead (data : List Nat) (errs : List (Nat × Nat)) : Option (List Nat × List Nat) :=
  let w := rsFlip (rsEncode data) errs
  (rsPattern w).map fun l => ((rsFlip w l).drop 4, (l.map fun e => rsDevice e.1).dedup)

/-- The codewords of a line as they are read, each decoded or not. -/
def readWords (data : List Nat) (errs : List SymErr) : List (Option (List Nat × List Nat)) :=
  [0, 1, 2, 3].map fun c => rsRead ((data.drop (16 * c)).take 16) ((errs.filter fun e => e.cw == c).map fun e => (e.sym, e.bits))

/-! ### DRAM channels (R433-R441) -/

def State.chan (s : State) (c : Nat) : DramChan := tget {} s.memc.chans c
def State.setChan (s : State) (c : Nat) (f : DramChan → DramChan) : State := s.modMemc fun m => { m with chans := tmod {} m.chans c f }

/-- Corrected codewords of a device in the last 3,600 s. -/
def DramChan.outer (x : DramChan) (dev t : Nat) : Nat := ((x.corrs.filter fun p => p.2 == dev && decide (t < p.1 + 3600))).length

/-- Post-package repair starts (R441), or waits behind a running one (R36) and behind a migration that copies to the channel (log 185). -/
def State.startPpr (s : State) (c : Nat) : State :=
  if s.memc.ppr.isSome ∨ (s.memc.phase = 1 ∧ c = s.memc.spare) then s.modMemc fun m => { m with pprQ := some c }
  else (s.setChan c fun x => { x with state := 4 }).modMemc fun m => { m with ppr := some c, phase := if m.phase = 1 then 1 else 2 }

/-- A migration of the slot a channel holds starts on the spare, or waits (R439, R36). -/
def State.startMigration (s : State) (c : Nat) : State :=
  let active := s.chState c = 0 ∨ s.chState c = 1
  if !active then s
  else if s.memc.phase = 1 ∨ s.chState s.memc.spare ≠ 2 then s.modMemc fun m => { m with migQ := some c }
  else s.modMemc fun m => { m with phase := 1, migSlot := if c = m.s0 then 0 else 1, blocks := 0 }

/-- DRAM_DEGRADE (R438): a migration of an active channel; the spare is repaired. -/
def State.degradeChan (s : State) (c : Nat) : State :=
  if s.chState c ≤ 1 then (s.raise blkMemc 0x12 .u c).startMigration c
  else if s.chState c ≠ 2 then s
  else s.startPpr c

/-- A row joins the failing-row table of its channel; the flag says that the table is full. -/
def State.failRow (s : State) (c row : Nat) : State × Bool :=
  let l := (s.chan c).failRows
  if l.contains row then (s, false)
  else if 64 ≤ l.length then (s, true)
  else (s.setChan c fun x => { x with failRows := row :: x.failRows }, decide (l.length = 63))

/-- A channel holds a slot: its lines have logical addresses. -/
def Memc.holdsSlot (m : Memc) (c : Nat) : Bool := c == m.s0 || c == m.s1

/-- The bytes of a line as they stand in DRAM. -/
def Memc.line (m : Memc) (line : Nat) : List Nat := (memBytes m.dram (64 * line) 64).map BitVec.toNat

/-- A line that was read with `words` corrected codewords, the devices of each in `devs`: counted, attributed and written back with the `data`
delivered, which a miscorrection makes wrong (R434, R436); a row corrected twice in a patrol period is recorded (R438). -/
def State.dramCorrected (s : State) (e : DramErr) (data : List Nat) (words : Nat) (devs : List Nat) : State :=
  let t := s.nowNs / 1000000000
  let again := (s.chan e.chan).hits.contains e.row
  let ce := (s.chan e.chan).ceAt ≠ some t
  let s1 := (s.modMemc fun m => { m with
      ce := m.ce + w32 words, unreported := m.unreported + words
      dram := if data = m.line e.line then m.dram else memSetBytes m.dram (64 * e.line) (data.map (BitVec.ofNat 8)) }).setChan e.chan fun x => { x with
    hits := if x.hits.contains e.row then x.hits else e.row :: x.hits
    corrs := devs.map (fun d => (t, d)) ++ x.corrs.filter fun p => decide (t < p.1 + 3600), ceAt := some t }
  let s2 := if ce then s1.raise blkMemc 0x10 .c e.chan else s1
  let (s3, full) := if again then s2.failRow e.chan e.row else (s2, false)
  if full ∨ devs.any (fun d => decide (s.cfg 0xD200 3 < (s3.chan e.chan).outer d t)) then s3.degradeChan e.chan else s3

/-- The copy of a migration cannot write Y, or Y yields an uncorrectable line (R440): X keeps its slot, Y is repaired. -/
def State.abandonMigration (s : State) : State :=
  let y := s.memc.spare
  ((s.modMemc fun m => { m with phase := 0 }).startPpr y).raiseT blkMemc 0x15 .u

/-- An uncorrectable line whose retry failed: DRAM_UE, the line poisoned, and the requester's reaction (R436, R440). -/
def State.dramLost (s : State) (e : DramErr) : State :=
  let s1 := ((s.modMemc fun m => { m with
      ue := m.ue + 1, poison := if m.poison.contains e.line || !m.holdsSlot e.chan then m.poison else e.line :: m.poison }).raise
    blkMemc 0x11 .u (64 * e.line))
  let s2 := (s1.failRow e.chan e.row).1
  if s2.memc.phase = 1 ∧ e.chan = s2.memc.spare then s2.abandonMigration
  else
    let s3 := s2.degradeChan e.chan
    match e.user with
    | .aln out _ => s3.raiseT blkAln 0x11 .u out
    | _ => s3

/-- One erroneous read (R436): every codeword decodes, or all do when the line is read once more, or the line is lost.  A poisoned line stays
uncorrectable until it is written. -/
def State.dramError (s : State) (e : DramErr) : State :=
  if 3 ≤ e.chan then s
  else if s.memc.holdsSlot e.chan && s.memc.poison.contains e.line then s.dramLost e
  else
    let data := if s.memc.holdsSlot e.chan then s.memc.line e.line else List.replicate 64 0
    let first := readWords data e.errs
    let again := readWords data e.retry
    let failed := (first.filter Option.isNone).length
    let words := if failed = 0 then first else again
    if again.any Option.isNone && decide (0 < failed) then s.dramLost e
    else
      let good := words.filterMap id
      let fixed := (good.filter fun w => !w.2.isEmpty).length + failed
      if fixed = 0 then s
      else s.dramCorrected e (if s.memc.holdsSlot e.chan then (good.map (·.1)).flatten else s.memc.line e.line) fixed (good.map (·.2)).flatten

/-- DRAM_READ_ERROR (R435, R436, R438). -/
def execDramReadError (e : DramErr) (s : State) : Out := .next (s.quiet.dramError e)

/-- PATROL_SCRUB (R437): every line of a channel has been read, and a new period starts. -/
def execPatrolScrub (chan : Nat) (errs : List DramErr) (s : State) : Out :=
  let s0 := s.quiet
  if 3 ≤ chan ∨ 5 ≤ s0.chState chan then .next s0
  else .next ((foldS State.dramError s0 (errs.filter fun e => e.chan == chan)).setChan chan fun x => { x with hits := [] })

/-- ECS_READ (R437, R438). -/
def execEcsRead (chan : Nat) (counts : List Nat) (s : State) : Out :=
  let s0 := s.quiet
  if 3 ≤ chan ∨ 5 ≤ s0.chState chan then .next s0 else
  let s1 := s0.setChan chan fun x => { x with ecs := counts.take 10 }
  .next (if (counts.take 10).any fun n => decide (s0.cfg 0xD200 4 < n) then s1.degradeChan chan else s1)

/-- MIGRATE, the ACTION 0xD200:05 (R439). -/
def execMigrate (chan : Nat) (s : State) : Out := .next (s.quiet.startMigration chan)

/-- MIGRATED (R439): the slot's map points to Y; X is drained and goes to repair. -/
def execMigrated (s : State) : Out :=
  let s0 := s.quiet
  if s0.memc.phase ≠ 1 then .next s0 else
  let x := if s0.memc.migSlot = 0 then s0.memc.s0 else s0.memc.s1
  let y := s0.memc.spare
  let s1 := s0.modMemc fun m => { m with
    s0 := if m.migSlot = 0 then y else m.s0, s1 := if m.migSlot = 0 then m.s1 else y, spare := x, phase := 0, blocks := m.cap * 262144
    pprQ := if m.pprQ = some y then none else m.pprQ }
  .next (((s1.setChan x fun c => { c with state := 3 }).raise blkMemc 0x13 .c x).startPpr x)

/-- REPAIR, the ACTION 0xD200:06 (R441, R444, R574): in service only on a drained or spare channel, in Night also on a FAULTY one. -/
def execRepairAction (chan : Nat) (s : State) : Out :=
  let s0 := s.quiet
  let st := s0.chState chan
  .next (if chan < 3 ∧ (st = 2 ∨ st = 3 ∨ (st = 5 ∧ s0.top.state = .night)) ∧ s0.domOn 6 then s0.startPpr chan else s0)

/-- What waits on a spare or on the end of a repair. -/
def State.afterPpr (s : State) : State :=
  let s1 := match s.memc.pprQ with | some c => (s.modMemc fun m => { m with pprQ := none }).startPpr c | none => s
  match s1.memc.migQ with
  | some c => if s1.chState s1.memc.spare = 2 ∧ s1.memc.phase ≠ 1 then (s1.modMemc fun m => { m with migQ := none }).startMigration c else s1
  | none => s1

/-- PPR_COMPLETE (R441). -/
def execPprComplete (ok : Bool) (s : State) : Out :=
  let s0 := s.quiet
  match s0.memc.ppr with
  | none => .next s0
  | some c =>
    let s1 := s0.modMemc fun m => { m with ppr := none, phase := if m.phase = 1 then 1 else 0 }
    if ok then .next (((s1.setChan c fun x => { x with state := 0, failRows := [], hits := [] }).modMemc fun m => { m with spare := c }).afterPpr.resumeWaiting)
    else .next (((s1.setChan c fun x => { x with state := 5 }).raise blkMemc 0x14 .u c).raiseT blkMemc 0x15 .u).afterPpr.resumeWaiting

end Sys2Proof.Machine
end

