-- ==== Sys2Proof/Machine/Registers.lean ====
section
/-! DEFINITION. The register map: reads, writes, mailboxes, SLOW registers (R105-R108, R136-R142, R210-R220, R240-R246, R311-R322, R357-R360,
R391-R393, R419-R423, R445-R453, R467-R476, R487-R500, R528-R532, R552-R557, R578-R590). -/

namespace Sys2Proof.Machine

/-- A field of `n` bits at bit `lo`. -/
def fld (lo n x : Nat) : Nat := x % 2 ^ n * 2 ^ lo

/-- A signed number in a field. -/
def fldI (lo n : Nat) (x : Int) : Nat := (x % (2 ^ n : Nat)).toNat * 2 ^ lo

/-! ### Mailboxes (R470) -/

/-- The two instances of a mailbox. -/
def State.getMail (s : State) (k : MailKind) : Mailboxes :=
  match k with
  | .hist b => (s.common b).histMail
  | .cswCnt => s.csw.mail
  | .silSel => s.sil.mail
  | .alnOsel => s.aln.mail
  | .refMsel => s.refsel.mail
  | .memDsel => s.memc.mail
  | .portCnt p => (s.port p).mail
  | .timeSnap => s.time.snap

def State.modMail (s : State) (k : MailKind) (f : Mailboxes → Mailboxes) : State :=
  match k with
  | .hist b => s.setCommon b fun c => { c with histMail := f c.histMail }
  | .cswCnt => s.modCsw fun c => { c with mail := f c.mail }
  | .silSel => { s with sil := { s.sil with mail := f s.sil.mail } }
  | .alnOsel => { s with aln := { s.aln with mail := f s.aln.mail } }
  | .refMsel => s.modRef fun r => { r with mail := f r.mail }
  | .memDsel => s.modMemc fun m => { m with mail := f m.mail }
  | .portCnt p => s.setPort p fun x => { x with mail := f x.mail }
  | .timeSnap => s.modTime fun t => { t with snap := f t.snap }

def Mailboxes.of (m : Mailboxes) (host : Bool) : Mailbox := if host then m.host else m.core
def Mailboxes.set (m : Mailboxes) (host : Bool) (f : Mailbox → Mailbox) : Mailboxes :=
  if host then { m with host := f m.host } else { m with core := f m.core }

/-- HOSTP has the second instance. -/
def isHost (m : Master) : Bool := m == .hostp

/-- The words of a history entry (R492, R493). -/
def histWords (e : HistEntry) : List Word :=
  let cls := match e.cls with | .c => 0 | .u => 1 | .f => 2
  [w32 (fld 0 16 e.code + fld 16 2 cls + fld 18 1 (b2n e.conseq) + fld 19 1 (b2n e.forced) + fld 20 1 (b2n e.polled) +
      fld 21 1 (b2n e.persist) + fld 23 7 e.func), w32 e.stamp, w32 (e.stamp / 2 ^ 32), w32 e.detail]

/-- The state of an output's movement (R245). -/
def AlnOut.moveCode (a : AlnOut) : Nat :=
  if a.fading then (if a.queued.isSome then 3 else 2) else if a.cur ≠ a.target then 1 else 0

/-- A peer link whose group has a lower-numbered lane: the group's counters read as 0 in its window (R423). -/
def State.otherLane (s : State) (p : Nat) : Bool :=
  decide (32 ≤ p) && (match s.groupOfLane (p - 32) with | some g => s.groupHead g != p - 32 | none => false)

/-- Words of a port's counter mailbox. -/
def portWords (p : Nat) : Nat := if p < 32 then 36 else 25

/-- A counter of R105 applies to the direction and mode of a context; the others read 0. -/
def counterApplies (v : Tab Val) (x i : Nat) : Bool :=
  let m := ctxMode v x
  if ctxEgress v x then i == 0 || (i == 17 && (m == 1 || decide (ctxFwd v x < 2))) || (i == 18 && m == 0 && ctxFwd v x == 2)
  else
    [0, 1, 5, 11, 19, 20].contains i || (m != 1 && i == 12) || (m == 0 && [2, 3].contains i) || (m == 2 && i == 10) ||
      (m != 2 && [4, 6, 7, 8, 9, 13, 14, 15, 16].contains i)

/-- What a capture takes (R106, R219, R243, R314, R321, R419, R452, R491). -/
def State.mailWords (s : State) (k : MailKind) : State × List Word :=
  match k with
  | .hist b => (s, match (s.common b).hist[(s.common b).histIdx]? with | some e => histWords e | none => [0, 0, 0, 0])
  | .cswCnt => (s, (List.range 21).map fun i =>
      if counterApplies s.dict.vals s.csw.cntSel i then tget 0 (s.ctx s.csw.cntSel).cnt i else 0)
  | .silSel =>
    (s, (List.range 4).map fun w => w32 (sumN ((List.range 32).map fun b =>
      fld b 1 (b2n (s.sil.atTick.contains (128 * s.sil.sel + 32 * w + b))))))
  | .alnOsel =>
    let a := if s.aln.osel < alnCount s.dict.vals then tget ({} : AlnOut) s.aln.outs s.aln.osel else {}
    ({ s with aln := { s.aln with clamped := s.aln.clamped.filter (· != s.aln.osel) } },
      [w32 a.cur, w32 (fld 0 1 (a.cur / 2 ^ 32) + fld 1 2 a.moveCode + fld 3 1 (b2n (s.aln.clamped.contains s.aln.osel))), w32 a.wp, w32 a.horizon])
  | .refMsel =>
    let x := s.refsel.entry s.refsel.msel
    (s, [BitVec.ofInt 32 x.f, BitVec.ofInt 32 x.drift, BitVec.ofInt 32 x.phase])
  | .memDsel =>
    let c := s.chan s.memc.dsel
    let t := s.nowNs / 1000000000
    (s.fresh, (List.range 10).map fun d => w32 (fld 0 16 (min 0xFFFF (c.outer d t)) + fld 16 16 (at? 0 c.ecs d)))
  | .portCnt p => (s, (List.range (portWords p)).map fun i => if s.otherLane p && decide (i < 21) then 0 else tget 0 (s.port p).cnt i)
  | .timeSnap => s.timeWords

/-- SNAP written 1: VALID clears and a capture starts; while one runs the write has no further effect. -/
def State.snapMail (s : State) (host : Bool) (k : MailKind) : State :=
  if (((s.getMail k).of host).capturing).isSome then s
  else
    let (s1, ws) := s.mailWords k
    s1.modMail k fun m => m.set host fun x => { x with valid := false, capturing := some ws }

/-- MAILBOX_CAPTURE_DONE (R470): in one cycle every DATA word loads, VALID sets and SNAP clears. -/
def execMailboxCaptureDone (k : MailKind) (host : Bool) (s : State) : Out :=
  let s0 := s.quiet
  match ((s0.getMail k).of host).capturing with
  | none => .next s0
  | some ws => .next (s0.modMail k fun m => m.set host fun _ => { valid := true, capturing := none, data := ws })

/-- The mailbox a block's DATA word belongs to, with the word's number and how many there are. -/
def mailData (b r : Nat) : Option (MailKind × Nat × Nat) :=
  let win (k : MailKind) (lo n : Nat) : Option (MailKind × Nat × Nat) :=
    if lo ≤ r ∧ r < lo + 4 * n then some (k, (r - lo) / 4, n) else none
  if 0x20 ≤ r ∧ r ≤ 0x2C then some (.hist b, (r - 0x20) / 4, 4)
  else if b = blkCsw then win .cswCnt 0x110 21
  else if b = blkSil then win .silSel 0x110 4
  else if b = blkAln then win .alnOsel 0x120 4
  else if b = blkRefsel then win .refMsel 0x110 3
  else if b = blkMemc then win .memDsel 0x130 10
  else if b = blkTime then win .timeSnap 0x120 5
  else if 0x40 ≤ b ∧ b ≤ 0x5F then win (.portCnt (b - 0x40)) 0x110 36
  else if 0x60 ≤ b then win (.portCnt (b - 0x60 + 32)) 0x110 25
  else none

/-- VALID and SNAP of a mailbox control in bits 30 and 31. -/
def State.mailBits (s : State) (host : Bool) (k : MailKind) : Nat :=
  let x := (s.getMail k).of host
  fld 30 1 (b2n x.valid) + fld 31 1 (b2n x.capturing.isSome)

/-! ### Reads -/

/-- Bits of a list of truth values. -/
def bitsNat (l : List Bool) : Nat := sumN (l.mapIdx fun i b => if b then 2 ^ i else 0)

/-- The common registers (R581-R584, R487-R494). -/
def State.readCommon (s : State) (host : Bool) (b r : Nat) : Nat :=
  let c := s.common b
  if r = 0 then (if b = blkTop then 0x480000B0 else 0xB0 + 256 * b)
  else if r = 4 then (if b = blkTop then b2n s.top.remap else 0)
  else if r = 8 then
    let frst := if b = blkTdm then s.top.resets.any fun x => decide (0x70 ≤ x.func) else s.blockResetting b 0
    fld 0 1 (b2n c.cfgRej) + fld 1 1 (b2n !c.slowQ.isEmpty) + fld 2 1 (b2n frst) + fld 3 1 (b2n c.overrun) +
      fld 4 1 (b2n (c.intStat &&& c.intEn != 0)) + fld 16 1 (b2n (b == blkPwr && c.pwrRej))
  else if r = 0xC then c.intStat.toNat
  else if r = 0x10 then c.intEn.toNat
  else if r = 0x14 then b2n c.forceReact
  else if r = 0x18 then fld 0 3 c.histIdx + fld 4 4 c.hist.length + fld 8 8 c.dropped
  else if r = 0x1C then s.mailBits host (.hist b)
  else if r = 0x40 then c.cntC.toNat
  else if r = 0x44 then c.cntU.toNat
  else if r = 0x48 then c.cntF.toNat
  else 0

/-- Largest free range of the pool in bytes (R242). -/
def poolGap (size : Nat) (rs : List (Nat × Nat)) (base : Nat) : Nat :=
  let gap (a : Nat) : Nat :=
    let stop := ((rs.map fun (r : Nat × Nat) => r.1).filter fun x => decide (a ≤ x)).foldl Nat.min (base + size)
    if rangeFree rs a 1 then stop - a else 0
  ((base :: rs.map fun (r : Nat × Nat) => r.1 + r.2).map gap).foldl Nat.max 0

def State.readTop (s : State) (r : Nat) : Nat :=
  let t := s.top
  if r = 0x100 then
    t.state.code + fld 4 2 s.pair.role + fld 6 1 (b2n ((List.range 8).any fun q => s.owlOn q)) + fld 8 3 t.prev.code + fld 16 4 t.cause
  else if r = 0x104 then t.stateTick
  else if r = 0x110 then
    sumN ((t.resets.filter fun x => decide (x.func ≤ 10)).map fun x => 2 ^ x.func) +
      sumN ((t.resets.filter fun x => decide (0x10 ≤ x.func) && decide (x.func ≤ 0x18)).map fun x => 2 ^ x.func)
  else if r = 0x114 then
    fld 0 6 t.frstTarget + fld 29 1 (b2n t.frstRej) + fld 30 1 (b2n (t.resets.any fun x => decide (0x40 ≤ x.func)))
  else fld 0 14 t.errPw + fld 16 1 (b2n t.errUen) + fld 17 1 (b2n t.errFhold) + fld 24 1 (b2n t.errHold) + fld 26 1 (b2n t.errPulse.isSome) +
    fld 27 1 (b2n t.errLow)

def State.readPwr (s : State) (r : Nat) : Nat :=
  let p := s.pwr
  if r = 0x100 then fld 0 17 p.on + fld 17 5 (match p.busy with | some d => d | none => 0x1F)
  else if r = 0x104 then fld 0 9 p.gated + fld 16 16 p.gateLate
  else if r = 0x108 then fld 0 6 p.vset + fldI 8 8 (satTo 7 p.margin) + fld 16 1 (b2n (decide (40 ≤ p.vset)))
  else if r = 0x10C then fldI 0 8 p.tmax + fld 8 5 p.sensor + fld 13 2 p.therm
  else fld 0 9 p.vmon

def State.readTime (s : State) (host : Bool) (r : Nat) : Nat :=
  let t := s.time
  if r = 0x100 then t.incFrac.toNat
  else if r = 0x104 then fld 0 8 t.incInt
  else if r = 0x108 then (BitVec.ofInt 32 t.corr).toNat
  else if r = 0x110 then
    let x := t.snap.of host
    b2n x.capturing.isSome + 2 * b2n x.valid
  else
    let c := t.cmp ((r - 0x200) / 16)
    let o := r % 16
    if o = 0 then c.lo.toNat else if o = 4 then c.hi else if o = 8 then c.per.toNat
    else b2n c.arm + fld 1 1 (b2n c.periodic) + fld 2 1 (b2n c.intEn) + fld 3 3 c.out + fld 6 1 (b2n c.lateArm) + fld 7 1 (b2n c.fired) +
      fld 16 16 c.pw

def State.readRefsel (s : State) (host : Bool) (r : Nat) : Nat :=
  let x := s.refsel
  let st (e : Nat) : Nat := (x.entry e).st + 8 * b2n (x.entry e).wtr.isSome
  if r = 0x100 then fld 0 4 (x.seenUse.getD 0) + fld 4 3 x.seenMode + fld 7 1 (b2n x.seenSpec)
  else if r = 0x104 then sumN ((List.range 8).map fun i => fld (4 * i) 4 (st i))
  else if r = 0x108 then sumN ((List.range 8).map fun i => fld (4 * i) 4 (st (8 + i)))
  else x.msel + s.mailBits host .refMsel

def State.readSec (s : State) (r : Nat) : Nat :=
  let c := s.sec
  if r = 0x100 then fld 0 2 c.life + fld 2 2 c.slot + fld 4 4 c.used + fld 8 7 c.secMin + fld 15 1 (b2n c.trngOk)
  else if r = 0x104 then fld 0 6 c.fuses + fld 8 5 (match c.grant with | some g => g.access | none => 0) + fld 16 3 s.hostRole
  else match c.grant with | some g => s.grantLeft g | none => 0

def State.readFab (s : State) (r : Nat) : Nat :=
  let f := s.fab
  if r = 0x100 then fld 0 1 f.primary + fld 1 2 f.stby + fld 3 1 (b2n f.handover.isSome) + fld 4 1 (b2n f.watchEnd.isSome) + fld 16 16 f.sealMiss
  else if r = 0x104 then f.berrAddr
  else if r = 0x108 then
    fld 0 3 f.berrMaster + fld 3 3 f.berrTarget + fld 6 1 (b2n f.berrWrite) + fld 8 4 f.berrCause + fld 16 16 f.berrCount
  else fld 0 3 f.btoMaster + fld 3 3 f.btoTarget + fld 6 1 (b2n f.btoStall) + fld 8 5 f.btoDone + fld 16 16 f.btoCount

/-- A cluster's registers: ROLE as at the last tick boundary, LOAD of the last completed tick (R136, R137). -/
def State.readCl (s : State) (n r : Nat) : Nat :=
  let c := s.cluster n
  let a := c.seen
  if r = 0x100 then fld 0 2 a.role + (if a.wsv then fld 4 3 a.wset else 0) + fld 7 1 (b2n a.wsv) + fld 8 3 a.phase + fld 16 5 a.matchCnt
  else if r = 0x104 then fld 0 20 a.cycles + fld 20 12 a.replays
  else if r = 0x108 then fld 0 20 c.peak
  else if r = 0x110 then c.hostOvg.toNat
  else if r = 0x114 then c.hostSat.toNat
  else if r = 0x118 then c.hostCirc.toNat
  else if r = 0x11C then c.hostAddr.toNat
  else if r = 0x120 then b2n c.spinning + fld 1 1 (b2n c.spinAbandon) + fld 2 1 (b2n c.regForced) + fld 8 4 c.regSrc
  else if r = 0x124 then fld 0 16 c.stPass + fld 16 7 c.march + fld 23 1 (b2n c.stFail)
  else b2n c.ik

/-- The fixed units' registers. -/
def State.readFixed (s : State) (host : Bool) (b r : Nat) : Nat :=
  if b = blkMix then
    if r = 0x100 then s.mix.cycles else if r = 0x104 then s.mix.satCnt.toNat else if r = 0x108 then s.mix.ovgCnt.toNat
    else (tget 0 s.mix.busSat ((r - 0x110) / 4)).toNat
  else if b = blkDyn then
    if r = 0x100 then s.dyn.cycles0 else if r = 0x104 then s.dyn.cycles1 else if r = 0x108 then s.dyn.grSel
    -- instance numbers above the rate's limit report 0 (R214)
    else if perRate s.dict.vals 4096 ≤ s.dyn.grSel then 0
    else fldI 0 16 (floorShift (tget ({} : DynInst) s.dyn.insts s.dyn.grSel).gAt 16) + fldI 16 16 (floorShift s.dyn.grPeak 16)
  else if b = blkDp then
    if r = 0x100 then s.dp.limAct.toNat % 2 ^ 32 else if r = 0x104 then s.dp.limAct.toNat / 2 ^ 32
    else if r = 0x108 then s.dp.clip.toNat % 2 ^ 32 else if r = 0x10C then s.dp.clip.toNat / 2 ^ 32 else s.dp.late.toNat
  else if b = blkAln then
    if r = 0x100 then s.aln.cycles else if r = 0x104 then s.aln.satCnt.toNat else if r = 0x108 then s.aln.clampCnt.toNat
    else if r = 0x10C then sumN (s.aln.regions.map (·.2)) / 128
    else if r = 0x110 then poolGap (poolSize s.dict.vals) s.aln.regions (poolBase s.dict.vals) / 128
    else s.aln.osel + s.mailBits host .alnOsel
  else
    if r = 0x100 then
      bitsNat ((List.range 8).map fun w => (tget ({} : ZeroMon) s.sil.mon w).zero) +
        256 * bitsNat ((List.range 8).map fun w => match s.owner w with | some n => bitAt s.pwr.gated n | none => false)
    else s.sil.sel + s.mailBits host .silSel

/-- PAIR's registers; ROLE as at the last tick boundary (R357). -/
def State.readPair (s : State) (r : Nat) : Nat :=
  let p := s.pair
  let a := p.seen
  if r = 0x100 then
    fld 0 2 a.role + fld 2 1 (b2n a.prov) + fld 3 1 (b2n a.fenced) + fld 4 1 (b2n a.standby) + fld 5 1 (b2n a.noOwl) + fld 6 1 (b2n a.inSync) +
      fld 8 3 a.rejoin + fld 16 16 a.epoch
  else if r = 0x104 then fld 0 16 (p.lm.foldl Nat.max 0) + fld 16 16 (p.lo.foldl Nat.max 0)
  else if r = 0x108 then fld 0 16 p.streak + fld 16 16 p.mism
  else fld 0 7 (last64 p.impTicks s.time.tick).length + fld 16 16 p.impTotal

/-- PHASE (R448): which of its three steps a post-package repair has reached is free (log 13). -/
def State.memcPhase (s : State) : Nat :=
  if s.memc.phase = 2 then 2 + (Config.free64 .measured s.freeCtr 2401).toNat % 3 else s.memc.phase

/-- MEMC's registers; how far a running copy has come is free (log 13). -/
def State.readMemc (s : State) (host : Bool) (r : Nat) : Nat :=
  let m := s.memc
  if r = 0x100 then fld 0 2 m.s0 + fld 2 2 m.s1 + fld 4 2 (if s.chState m.spare = 2 then m.spare else 3) + fld 6 3 (s.memcPhase)
  else if r = 0x104 then fld 0 23 (if m.phase = 1 then (Config.free64 .measured s.freeCtr 2400).toNat % (m.cap * 262144 + 1) else m.blocks)
  else if r = 0x108 then m.page
  else if r = 0x10C then m.ce.toNat
  else if r = 0x110 then m.ue.toNat
  else m.dsel + s.mailBits host .memDsel

/-- Seconds since Badger's last pass are free (log 13). -/
def State.readSramc (s : State) (r : Nat) : Nat :=
  let m := s.sramc
  if r = 0x100 then
    (if m.passes = 0 then 0 else fld 0 15 (Config.free64 .measured s.freeCtr 2200).toNat) + fld 15 1 (b2n m.clean) + fld 16 16 m.passes
  else if r = 0x104 then m.corr.toNat
  else fld 0 12 m.elogMacro + fld 12 4 m.elogRegion + fld 16 12 m.elogRow + fld 28 2 m.elogKind

def State.readTw0 (s : State) (r : Nat) : Nat :=
  let t := s.tw0
  if r = 0x100 then fld 0 2 t.speed + fld 2 5 t.filt + fld 7 4 t.retry + fld 11 8 t.backoff + fld 19 7 t.stretchTo
  else fld 0 8 t.arbByte + fld 8 4 t.arbBit + fld 12 1 (b2n t.stretchIn) + fld 16 16 t.arbCount

/-- Attention is pending (R544, R556). -/
def Tw1.pending (t : Tw1) : Bool := t.attnHw != 0 || t.attnFw != 0

def State.readTw1 (s : State) (r : Nat) : Nat :=
  let t := s.tw1
  if r = 0x100 then fld 0 7 t.addr + fld 8 5 t.filt + fld 16 8 t.attnRep
  else if r = 0x104 then fld 0 8 t.attnHw + fld 8 8 t.attnFw
  else s.top.state.code + fld 3 1 (b2n t.fast) + fld 4 1 (b2n (s.domOn 1)) + fld 5 1 (b2n t.pending)

/-- A TDM port's input serves an enabled entry as DARS (R294). -/
def State.tdmDars (s : State) (p : Nat) : Bool := (List.range 16).any fun e => s.cfgOn (0x1100 + e) 1 && s.cfg (0x1100 + e) 2 == 16 + p

def State.readTdm (s : State) (r : Nat) : Nat :=
  let p := (r - 0x100) / 4
  let x := tget ({} : TdmPort) s.tdm.ports p
  fld 0 1 (b2n x.sync) + fld 1 1 (b2n x.lost) + fld 2 1 (b2n (s.top.frstHeld.contains (0x70 + p))) + fld 3 1 (b2n (s.tdmDars p)) +
    fld 16 16 x.slips

/-- A port's registers (R419-R422). -/
def State.readPort (s : State) (host : Bool) (p r : Nat) : Nat :=
  let x := s.port p
  let g := (s.groupOfLane (p - 32)).getD 0
  let grp := s.group g
  if r = 0x100 then s.mailBits host (.portCnt p)
  else if r = 0x104 then
    let up := if p < 32 then x.up else grp.active.contains (p - 32)
    fld 0 3 (if p < 32 then s.cfg (0xC000 + p) 4 else 0) + fld 3 1 (b2n up) + fld 4 1 (b2n x.preempt) +
      fld 5 1 (b2n (decide (p < 32) && s.cfgOn (0xC300 + p) 1)) + fld 6 1 (b2n x.xoffCtl) + fld 7 1 (b2n x.xoffBulk) +
      fld 8 1 (b2n x.pausedCtl) + fld 9 1 (b2n x.pausedBulk)
  else if r = 0x108 then fld 0 16 x.eye + fld 16 16 x.low
  else if s.groupOfLane (p - 32) = none then 0
  else fld 0 16 (s.cfg (0xC200 + g) 1) + fld 16 4 grp.active.length + fld 20 3 grp.state + fld 23 4 g

/-- The value of a register as one master reads it. -/
def State.regVal (s : State) (m : Master) (b r : Nat) : Nat :=
  let host := isHost m
  match mailData b r with
  | some (k, i, _) => (at? 0 ((s.getMail k).of host).data i).toNat
  | none =>
    if commonOff r then s.readCommon host b r
    else if b = blkTop then s.readTop r
    else if b = blkPwr then s.readPwr r
    else if b = blkTime then s.readTime host r
    else if b = blkRefsel then s.readRefsel host r
    else if b = blkSec then s.readSec r
    else if b = blkFab then s.readFab r
    else if b = blkCsw then (if r = 0x100 then s.csw.cntSel + s.mailBits host .cswCnt else fld 0 14 s.csw.foxActive + fld 16 16 s.csw.foxOvf)
    else if blkMix ≤ b ∧ b ≤ blkSil then s.readFixed host b r
    else if b = blkPair then s.readPair r
    else if b = blkMemc then s.readMemc host r
    else if b = blkSramc then s.readSramc r
    else if b = blkTw0 then s.readTw0 r
    else if b = blkTw1 then s.readTw1 r
    else if b = blkHostp then fld 0 2 s.hostp.dstate + fld 2 14 s.hostp.respLen + fld 16 8 s.hostp.crcErr + fld 24 8 s.hostp.frameErr
    else if b = blkTdm then s.readTdm r
    else if isCluster b then s.readCl (b - 0x20) r
    else s.readPort host (if b < 0x60 then b - 0x40 else b - 0x60 + 32) r

/-- What a read of bytes `lo` to `lo + size - 1` of a register changes: RC fields, VALID, history stamps (R468, R470, R486). -/
def State.readEffect (s : State) (m : Master) (b r lo size : Nat) : State :=
  let s1 :=
    if isCluster b ∧ r = 0x108 ∧ lo < 3 then s.setCluster (b - 0x20) fun c => { c with peak := 0 }
    else if b = blkDyn ∧ r = 0x10C ∧ 2 < lo + size then { s with dyn := { s.dyn with grPeak := 0 } }
    else if r = 0xC then s.readIntStat m b
    else s
  match mailData b r with
  | some (k, i, n) => if i + 1 = n then s1.modMail k fun x => x.set (isHost m) fun y => { y with valid := false } else s1
  | none => s1

/-- One access of at most 32 bits: its value, or none after an error response. -/
def State.readOne (s : State) (m : Master) (addr size : Nat) : State × Option Nat :=
  match s.regCause m addr size false with
  | some c => (s.berr m addr false c, none)
  | none =>
    let off := (s.targetOf addr).2
    let b := off / 65536
    let r := off % 65536 / 4 * 4
    let v := s.regVal m b r / 2 ^ (8 * (off % 4)) % 2 ^ (8 * size)
    ((s.readEffect m b r (off % 4) size).fresh, some v)

/-- A register read; 64 bits are two accesses, lower address first (R467). -/
def State.readReg (s : State) (m : Master) (addr size : Nat) : State :=
  let put (p : State × Option Nat) : State := match p.2 with | some v => p.1.emit (.data [v]) | none => p.1
  if size = 8 ∧ addr % 8 = 0 then put ((put (s.readOne m addr 4)).readOne m (addr + 4) 4) else put (s.readOne m addr size)

/-- RC_READ (R468): a read clears every RC field that lies wholly or partly within its bytes. -/
def execRcRead (m : Master) (addr : Nat) (size : Nat) (s : State) : Out := .next (s.quiet.readReg m addr size)

/-- MAILBOX_LAST_READ (R470): a read that touches the last DATA word clears VALID of the reader's instance. -/
def execMailboxLastRead (m : Master) (addr : Nat) (size : Nat) (s : State) : Out := .next (s.quiet.readReg m addr size)

/-! ### Writes -/

/-- Bits cleared by writing 1. -/
def w1c (old val : Word) : Word := old &&& ~~~val

/-- The common registers; none where the write starts a capture or an event of its own row. -/
def State.writeCommon (s : State) (m : Master) (b r : Nat) (v : Word) : State :=
  if r = 4 then (if b = blkTop then s.modTop fun t => { t with remap := v.getLsbD 0 } else s)
  else if r = 8 then s.setCommon b fun c => { c with
    cfgRej := c.cfgRej && !(v.getLsbD 0), overrun := c.overrun && !(v.getLsbD 3), pwrRej := c.pwrRej && !(v.getLsbD 16) }
  else if r = 0xC then s.setCommon b fun c => { c with intStat := w1c c.intStat v }
  else if r = 0x10 then s.setCommon b fun c => { c with intEn := v &&& 0xFFFF001E }
  else if r = 0x14 then s.force b v
  else if r = 0x18 then
    let s1 := s.setCommon b fun c => { c with histIdx := v.toNat % 8 }
    if v.getLsbD 31 then s1.clearHist b else s1
  else if r = 0x1C then (if v.getLsbD 31 then s.snapMail (isHost m) (.hist b) else s)
  else if r = 0x40 then s.setCommon b fun c => { c with cntC := v }
  else if r = 0x44 then s.setCommon b fun c => { c with cntU := v }
  else if r = 0x48 then s.setCommon b fun c => { c with cntF := v }
  else s

def State.reject (s : State) (b : Nat) : State := s.setCommon b fun c => { c with cfgRej := true }

def State.writeTop (s : State) (m : Master) (r : Nat) (v : Word) : State :=
  if r = 0x110 then s.writeFrst0 m v
  else if r = 0x114 then
    let s1 := s.modTop fun t => { t with frstTarget := v.toNat % 64, frstRej := t.frstRej && !(v.getLsbD 29) }
    if v.getLsbD 31 then s1.goFrst1 m (v.toNat % 64) else s1
  else if r = 0x120 then
    let s1 := s.modTop fun t => { t with errPw := v.toNat % 2 ^ 14, errUen := v.getLsbD 16, errFhold := v.getLsbD 17 }
    let s2 := if v.getLsbD 24 then s1.holdRelease else s1
    if v.getLsbD 25 then s2.holdSet else s2
  else s

def State.writeTime (s : State) (m : Master) (r : Nat) (v : Word) : State :=
  if r = 0x100 then s.modTime fun t => { t with incFrac := v }
  else if r = 0x104 then
    let s1 := s.modTime fun t => { t with incInt := v.toNat % 256 }
    if v.getLsbD 31 then s1.loadInc else s1
  else if r = 0x110 then (if v.getLsbD 0 then s.snapMail (isHost m) .timeSnap else s)
  else if 0x200 ≤ r then
    let u := (r - 0x200) / 16
    let o := r % 16
    if o = 0 then s.setCmp u fun c => { c with lo := v }
    else if o = 4 then s.setCmp u fun c => { c with hi := v.toNat % 65536 }
    else if o = 8 then s.setCmp u fun c => { c with per := v }
    else
      let s1 := s.setCmp u fun c => { c with
        periodic := v.getLsbD 1, intEn := v.getLsbD 2, out := bitsOf v.toNat 3 3, lateArm := c.lateArm && !(v.getLsbD 6)
        fired := c.fired && !(v.getLsbD 7), pw := bitsOf v.toNat 16 16 }
      if v.getLsbD 0 then s1.armCmp u else s1.setCmp u fun c => { c with arm := false }
  else s

/-- CLn.SPIN (R140): a START that is refused leaves the register as it is, and so does a refused SRC alone its field; FORCED and SRC are plain RW
fields, and a spare-in that runs goes on with what it started with. -/
def State.writeSpin (s : State) (n : Nat) (v : Word) : State :=
  let src := bitsOf v.toNat 8 4
  let bad := decide (8 < src) || src == n
  if v.getLsbD 0 && (bad || (s.cluster n).role != 0) then s.reject (blkCl n)
  else
    let s1 := s.setCluster n fun c => { c with regForced := v.getLsbD 2, regSrc := if bad then c.regSrc else src }
    let s2 := if bad then s1.reject (blkCl n) else s1
    let s3 := if v.getLsbD 0 then s2.spinCommand n src (v.getLsbD 2) else s2
    if v.getLsbD 1 then s3.spinAbandon n else s3

def State.writeCl (s : State) (n r : Nat) (v : Word) : State :=
  if r = 0x110 then s.setCluster n fun c => { c with hostOvg := w1c c.hostOvg v }
  else if r = 0x114 then s.setCluster n fun c => { c with hostSat := w1c c.hostSat v }
  else if r = 0x118 then s.setCluster n fun c => { c with hostCirc := w1c c.hostCirc v }
  else if r = 0x11C then s.setCluster n fun c => { c with hostAddr := w1c c.hostAddr v }
  else if r = 0x120 then s.writeSpin n v
  else if r = 0x128 then
    if (s.cluster n).role = 1 then s.reject (blkCl n) else s.setCluster n fun c => { c with ik := v.getLsbD 0 }
  else s

/-- A selector and its SNAP bit: the capture uses the selector of the same write. -/
def State.selSnap (s : State) (m : Master) (k : MailKind) (v : Word) (f : State → State) : State :=
  if v.getLsbD 31 then (f s).snapMail (isHost m) k else f s

def State.setSilSel (s : State) (n : Nat) : State := { s with sil := { s.sil with sel := n % 32 } }
def State.setOsel (s : State) (n : Nat) : State := { s with aln := { s.aln with osel := n % 4096 } }
def State.setMsel (s : State) (n : Nat) : State := s.modRef fun r => { r with msel := n % 16 }
def State.setDsel (s : State) (n : Nat) : State := s.modMemc fun x => { x with dsel := n % 4 }
def State.setCntSel (s : State) (n : Nat) : State := s.modCsw fun c => { c with cntSel := n % 4096 }

def State.writeFixed (s : State) (m : Master) (b r : Nat) (v : Word) : State :=
  if b = blkMix then
    if r = 0x104 then { s with mix := { s.mix with satCnt := v } }
    else if r = 0x108 then { s with mix := { s.mix with ovgCnt := v } }
    else if 0x110 ≤ r then { s with mix := { s.mix with busSat := tmod 0 s.mix.busSat ((r - 0x110) / 4) fun w => w1c w v } }
    else s
  else if b = blkDyn then (if r = 0x108 then { s with dyn := { s.dyn with grSel := v.toNat % 8192, grPeak := 0 } } else s)
  else if b = blkDp then
    let clr (lo : Nat) : BitVec 64 := BitVec.ofNat 64 (v.toNat * 2 ^ lo)
    if r = 0x108 then { s with dp := { s.dp with clip := s.dp.clip &&& ~~~(clr 0) } }
    else if r = 0x10C then { s with dp := { s.dp with clip := s.dp.clip &&& ~~~(clr 32) } }
    else if r = 0x110 then { s with dp := { s.dp with late := v } }
    else s
  else if b = blkAln then
    if r = 0x104 then { s with aln := { s.aln with satCnt := v } }
    else if r = 0x108 then { s with aln := { s.aln with clampCnt := v } }
    else if r = 0x114 then s.selSnap m .alnOsel v fun s => s.setOsel (v.toNat % 4096)
    else s
  else if r = 0x104 then s.selSnap m .silSel v fun s => s.setSilSel (v.toNat % 32)
  else s

/-- A FILT that R535 refuses at a speed. -/
def filtRefused (speed filt : Nat) : Bool := (speed == 2 && decide (10 < filt)) || (speed == 1 && decide (25 < filt))

/-- TW0.CFG and TW0.ARB (R552, R553). -/
def State.writeTw0 (s : State) (r : Nat) (v : Word) : State :=
  let n := v.toNat
  if r = 0x100 then
    let sp := bitsOf n 0 2
    let st := bitsOf n 19 7
    if sp = 3 ∨ filtRefused sp (bitsOf n 2 5) ∨ st < 1 ∨ 100 < st then s.reject blkTw0
    else { s with tw0 := { s.tw0 with speed := sp, filt := bitsOf n 2 5, retry := bitsOf n 7 4, backoff := bitsOf n 11 8, stretchTo := st } }
  else { s with tw0 := { s.tw0 with stretchIn := s.tw0.stretchIn && !(v.getLsbD 12), arbCount := bitsOf n 16 16 } }

/-- A register of a SLOW field (R529, R532, R554, R555). -/
def slowReg (b r : Nat) : Bool :=
  (b == blkPwr && (r == 0x104 || r == 0x110)) || (b == blkTw1 && (r == 0x100 || r == 0x104))

/-- A posted SLOW write takes effect. -/
def State.slowEffect (s : State) (b r : Nat) (v : Word) : State :=
  let n := v.toNat
  if b = blkPwr then
    (if r = 0x104 then s.modPwr fun p => { p with gateLate := bitsOf n 16 16 } else s.modPwr fun p => { p with vmon := (w1c (w32 p.vmon) v).toNat % 512 })
  else if r = 0x100 then
    if n % 128 < 8 ∨ 0x78 ≤ n % 128 then s.reject blkTw1
    else { s with tw1 := { s.tw1 with addr := n % 128, filt := bitsOf n 8 5, attnRep := bitsOf n 16 8 } }
  else { s with tw1 := { s.tw1 with attnFw := s.tw1.attnFw.lor (bitsOf n 8 8) } }

/-- A write to a SLOW register is posted (R471): in place, at the end of the queue, or none where the queue is full. -/
def State.postSlow (s : State) (b r : Nat) (v : Word) : Option State :=
  let q := (s.common b).slowQ
  if q.any fun w => w.off == r then
    some (s.setCommon b fun c => { c with slowQ := c.slowQ.map fun w => if w.off = r then ⟨r, v⟩ else w })
  else if 4 ≤ q.length then none
  else some (s.setCommon b fun c => { c with slowQ := c.slowQ ++ [⟨r, v⟩] })

/-- SLOW_WRITE_EFFECT (R471): the oldest posted write of a block takes effect; PEND clears with the last. -/
def execSlowWriteEffect (block : Nat) (s : State) : Out :=
  let s0 := s.quiet
  match (s0.common block).slowQ with
  | [] => .next s0
  | w :: t => .next ((s0.setCommon block fun c => { c with slowQ := t }).slowEffect block w.off w.val)

/-- A write to a register, but for SLOW ones. -/
def State.writeVal (s : State) (m : Master) (b r : Nat) (v : Word) : State :=
  let n := v.toNat
  if commonOff r then s.writeCommon m b r v
  else if b = blkTop then s.writeTop m r v
  else if b = blkTime then s.writeTime m r v
  else if b = blkRefsel then (if r = 0x10C then s.selSnap m .refMsel v fun s => s.setMsel (n % 16) else s)
  else if b = blkFab then
    s.modFab fun f =>
      if r = 0x100 then { f with sealMiss := bitsOf n 16 16 }
      else if r = 0x108 then { f with berrCount := bitsOf n 16 16 }
      else if r = 0x10C then { f with btoCount := bitsOf n 16 16 } else f
  else if b = blkCsw then
    (if r = 0x100 then s.selSnap m .cswCnt v fun s => s.setCntSel (n % 4096)
     else if r = 0x104 then s.modCsw fun c => { c with foxOvf := bitsOf n 16 16 } else s)
  else if blkMix ≤ b ∧ b ≤ blkSil then s.writeFixed m b r v
  else if b = blkPair then
    s.modPair fun p => if r = 0x108 then { p with mism := bitsOf n 16 16 } else if r = 0x10C then { p with impTotal := bitsOf n 16 16 } else p
  else if b = blkMemc then
    (if r = 0x108 then s.modMemc fun x => { x with page := n % 16 }
     else if r = 0x10C then s.modMemc fun x => { x with ce := v }
     else if r = 0x110 then s.modMemc fun x => { x with ue := v }
     else if r = 0x120 then s.selSnap m .memDsel v fun s => s.setDsel (n % 4) else s)
  else if b = blkSramc then (if r = 0x104 then s.modSramc fun x => { x with corr := v } else s)
  else if b = blkTw0 then s.writeTw0 r v
  else if b = blkHostp then { s with hostp := { s.hostp with crcErr := bitsOf n 16 8, frameErr := bitsOf n 24 8 } }
  else if b = blkTdm then
    { s with tdm := { s.tdm with ports := tmod {} s.tdm.ports ((r - 0x100) / 4) fun (x : TdmPort) =>
      { x with lost := x.lost && !(v.getLsbD 1), slips := bitsOf n 16 16 } } }
  else if isCluster b then s.writeCl (b - 0x20) r v
  else if 0x40 ≤ b ∧ r = 0x100 then
    (if v.getLsbD 31 then s.snapMail (isHost m) (.portCnt (if b < 0x60 then b - 0x40 else b - 0x60 + 32)) else s)
  else s

/-- A write of one 32-bit register by a master. -/
def State.writeOne (s : State) (m : Master) (addr size : Nat) (v : Word) : State :=
  match s.regCause m addr size true with
  | some c => s.berr m addr true c
  | none =>
    let off := (s.targetOf addr).2
    let b := off / 65536
    let r := off % 65536
    if slowReg b r then (match s.postSlow b r v with | some s1 => s1 | none => s.berr m addr true 7)
    else s.writeVal m b r v

/-- REGISTER_WRITE (R467, R469, R471, R472). -/
def execRegisterWrite (m : Master) (addr : Nat) (size : Nat) (val : Word) (s : State) : Out := .next (s.quiet.writeOne m addr size val)

/-! ### Captures with a row of their own (R106, R219, R243, R314, R321, R419, R452, R491) -/

/-- TIME_SNAP (R314). -/
def execTimeSnap (m : Master) (s : State) : Out := .next (s.quiet.viaWrite m blkTime 0x110 fun s => s.snapMail (isHost m) .timeSnap)

/-- CNT_SEL_SNAP (R106). -/
def execCntSelSnap (m : Master) (ctx : Nat) (s : State) : Out :=
  .next (s.quiet.viaWrite m blkCsw 0x100 fun s => (s.setCntSel ctx).snapMail (isHost m) .cswCnt)

/-- SIL_SEL_SNAP (R219). -/
def execSilSelSnap (m : Master) (sel : Nat) (s : State) : Out :=
  .next (s.quiet.viaWrite m blkSil 0x104 fun s => (s.setSilSel sel).snapMail (isHost m) .silSel)

/-- OSEL_SNAP (R243). -/
def execOselSnap (m : Master) (out : Nat) (s : State) : Out :=
  .next (s.quiet.viaWrite m blkAln 0x114 fun s => (s.setOsel out).snapMail (isHost m) .alnOsel)

/-- MSEL_SNAP (R321). -/
def execMselSnap (m : Master) (entry : Nat) (s : State) : Out :=
  .next (s.quiet.viaWrite m blkRefsel 0x10C fun s => (s.setMsel entry).snapMail (isHost m) .refMsel)

/-- DSEL_SNAP (R452). -/
def execDselSnap (m : Master) (chan : Nat) (s : State) : Out :=
  .next (s.quiet.viaWrite m blkMemc 0x120 fun s => (s.setDsel chan).snapMail (isHost m) .memDsel)

/-- CNT_CTL_SNAP (R419). -/
def execCntCtlSnap (m : Master) (port : Nat) (s : State) : Out :=
  .next (s.quiet.viaWrite m (blkPort port) 0x100 fun s => s.snapMail (isHost m) (.portCnt port))

/-- HIST_SNAP (R491). -/
def execHistSnap (m : Master) (block : Nat) (s : State) : Out :=
  .next (s.quiet.viaWrite m block 0x1C fun s => s.snapMail (isHost m) (.hist block))

end Sys2Proof.Machine
end

