-- ==== Sys2Proof/Machine/Fabric.lean ====
section
/-! DEFINITION. FAB: the seal watch, changing the firmware in service, bursts on the bus matrix and their timeout
(R455-R466, R475-R478). -/

namespace Sys2Proof.Machine

/-! ### The seal watch (R457) -/

/-- One more seal missed by a primary; the count stops at its maximum (R473). -/
def Fab.missed (f : Fab) : Fab := { f with sealMiss := stopAt 0xFFFF f.sealMiss 1 }

/-- The running image becomes the old one, and the staged one runs (R458). -/
def Fab.runStaged (f : Fab) : Fab :=
  { f with
    oldGen := f.runGen, oldFlash := f.runFlash, oldSecVer := f.runSecVer
    runGen := f.stagedGen, runFlash := f.stagedFlash, runSecVer := f.stagedSecVer, stagedGen := 0, stage := 0 }

/-- The old image runs again (R458). -/
def Fab.runOld (f : Fab) : Fab := { f with runGen := f.oldGen, runFlash := f.oldFlash, runSecVer := f.oldSecVer }

/-- WATCH lasts 1,024 ticks (R458). -/
def watchTicks := 1024

/-- The primary misses its seal or its heartbeat: the standby takes over, a new image falls back to the parked core, a READY standby
takes over with the new image, or CORE_FAIL (R457-R459). -/
def State.coreMiss (s : State) : State :=
  let f := s.fab.missed
  let other := 1 - f.primary
  let held : Fab := { f with primary := other, coreHeld := some f.primary, stby := 0 }
  if f.stby = 3 then
    ({ s with fab := { held.runOld with watchEnd := none, fwHandover := 5 } }).raiseT blkFab 0x14 .u
  else if f.stby = 2 then
    ({ s with fab := { f.runStaged with
      primary := other, stby := 3, handover := none, watchEnd := some (s.time.tick + watchTicks), fwHandover := 2 } }).raiseT blkFab 0x11 .u
  else if f.stby = 1 then ({ s with fab := held }).raiseT blkFab 0x11 .u
  else ({ s with fab := f }).raiseT blkFab 0x12 .f

/-- SEAL_MISS (R457): while ticks run. -/
def execSealMiss (s : State) : Out :=
  let s0 := s.quiet
  .next (if s0.time.ticked then s0.coreMiss else s0)

/-- HEARTBEAT_MISS (R457): the same watch outside the ticks. -/
def execHeartbeatMiss (s : State) : Out :=
  let s0 := s.quiet
  .next (if s0.time.ticked ∨ !s0.top.booted then s0 else s0.coreMiss)

/-! ### Changing the firmware in service (R458, R459) -/

/-- The checks of R367 on an image to stage, and the layout it must read. -/
def State.stageOk (s : State) (img : Option FwImage) : Bool :=
  match img with
  | none => false
  | some i => s.imageOk i && i.layoutOk

/-- STAGE, the ACTION 0x0050:02: refused with BAD_STATE for the running flash, for an image that fails, and without a standby on
warm duty. -/
def execStage (flash : Nat) (img : Option FwImage) (s : State) : Out :=
  let s0 := s.quiet
  let f := s0.fab
  if f.stby ≠ 1 ∧ f.stby ≠ 2 then .next s0
  else if flash = f.runFlash ∨ !(s0.stageOk img) then .next (s0.modFab fun f => { f with stage := 4, stagedGen := 0, stby := 1 })
  else
    let i := img.getD { gen := 0, secVer := 0 }
    .next (s0.modFab fun f => { f with stage := 1, stby := 0, stagedGen := i.gen, stagedFlash := flash, stagedSecVer := i.secVer })

/-- STAGED_READY (R458). -/
def execStagedReady (s : State) : Out :=
  let s0 := s.quiet
  .next (if s0.fab.stage = 1 ∨ s0.fab.stage = 2 then s0.modFab fun f => { f with stage := 3, stby := 2 } else s0)

/-- ARM, the ACTION 0x0050:04: at least 16 ticks ahead; a second ARM replaces the first. -/
def execArm (h : Nat) (s : State) : Out :=
  let s0 := s.quiet
  .next (if s0.time.ticked ∧ s0.time.tick + 16 ≤ h ∧ s0.fab.watchEnd = none then
    s0.modFab fun f => { f with handover := some h, fwHandover := 1 } else s0)

/-- FW_HANDOVER, at the start of tick h (R458, R459). -/
def execFwHandover (s : State) : Out :=
  let s0 := s.quiet
  match s0.fab.handover with
  | none => .next s0
  | some h =>
    if s0.time.tick < h then .next s0
    else if s0.fab.stby ≠ 2 then .next (s0.modFab fun f => { f with handover := none, fwHandover := 4 })
    else .next ((s0.modFab fun f => { f.runStaged with
      primary := 1 - f.primary, stby := 3, handover := none, watchEnd := some (h + watchTicks), fwHandover := 2 }).raiseT blkFab 0x13 .c)

/-- FW_RELEASE, at the start of tick h + 1,024 (R458): the parked core becomes the warm standby with the new image. -/
def execFwRelease (s : State) : Out :=
  let s0 := s.quiet
  match s0.fab.watchEnd with
  | none => .next s0
  | some e => .next (if e ≤ s0.time.tick then s0.modFab fun f => { f with watchEnd := none, stby := 1, fwHandover := 3 } else s0)

/-- ERASE, the ACTION 0x0051:01 (R477): the flash of the running image keeps its pages. -/
def execErase (flash : Nat) (s : State) : Out :=
  let s0 := s.quiet
  .next (if flash = s0.fab.runFlash then s0
    else if flash = 0 then s0.modFab fun f => { f with pagesA := [] }
    else s0.modFab fun f => { f with pagesB := [] })

/-! ### Bursts (R460-R466) -/

/-- A little-endian number of bytes (R9). -/
def leNat (l : List Byte) : Nat := beNat l.reverse

/-- The low `n` bytes of a number, least significant first. -/
def leBytes (n x : Nat) : List Byte := (beBytes n x).reverse

/-- The domain behind a target: the bridge and the memories of the fabric lie in PD_FAB, the DRAM channels in PD_MEMC (R25, R507). -/
def State.targetOn (s : State) (t : Nat) : Bool := if t = 4 then s.domOn 6 else if t = 5 then true else s.domOn 1

/-- Why a burst fails as a whole, by CAUSE of R475: width or alignment, decode miss, no path, 4 KiB crossing, domain off. -/
def State.burstCause (s : State) (b : BurstReq) : Option Nat :=
  let (t, off) := s.targetOf b.addr
  if t = 6 then some 0
  else if !(s.pathOk b.master t off b.write) then some 1
  else if b.addr % 4096 + b.beats * b.width > 4096 then some 8
  else if t = 2 then none
  else if !(b.width = 1 ∨ b.width = 2 ∨ b.width = 4 ∨ b.width = 8) ∨ b.addr % b.width ≠ 0 then some 3
  else if !(s.targetOn t) then some 4
  else if t = 4 ∧ s.memc.cap ≤ s.memc.page then some 0
  else none

/-- A beat that reads memory: its value; none with an error response. -/
def State.readBeat (s : State) (b : BurstReq) (addr : Nat) : State × Option Nat :=
  let (t, off) := s.targetOf addr
  if t = 1 then (s, some (leNat (memBytes s.fab.ctrlSram off b.width)))
  else if t = 3 then (s, some (leNat (memBytes s.fab.hall off b.width)))
  else if t = 4 then
    let a := s.dramAddr off
    if s.memc.poisoned a then ((s.dramUE (a / 64 * 64)).berr b.master addr false 10, none)
    else (s, some (leNat (memBytes s.memc.dram a b.width)))
  else (s.fresh, some ((Config.free64 .measured s.freeCtr 2300).toNat % 2 ^ (8 * b.width)))

/-- A beat that writes memory; a write to a poisoned line makes it readable (R436); the crypto window keeps no data. -/
def State.writeBeat (s : State) (b : BurstReq) (addr v : Nat) : State :=
  let (t, off) := s.targetOf addr
  let l := leBytes b.width v
  if t = 1 then s.modFab fun f => { f with ctrlSram := memSetBytes f.ctrlSram off l }
  else if t = 3 then s.modFab fun f => { f with hall := memSetBytes f.hall off l }
  else if t = 4 then
    let a := s.dramAddr off
    s.modMemc fun m => { m with dram := memSetBytes m.dram a l, poison := m.poison.filter fun n => n != a / 64 }
  else s

/-- One beat; at the register bridge it is a single access, of 64 bits in two parts (R464, R467). -/
def State.beat (b : BurstReq) (s : State) (i : Nat) : State :=
  let addr := b.addr + i * b.width
  let v := at? 0 b.data i
  if (s.targetOf b.addr).1 = 2 then
    if !b.write then s.readReg b.master addr b.width
    else if b.width = 8 ∧ addr % 8 = 0 then (s.writeOne b.master addr 4 (w32 v)).writeOne b.master (addr + 4) 4 (w32 (v / 2 ^ 32))
    else s.writeOne b.master addr b.width (w32 v)
  else if b.write then s.writeBeat b addr v
  else
    let (s1, r) := s.readBeat b addr
    match r with
    | some x => s1.emit (.data [x])
    | none => s1

/-- Beats answered with an error response. -/
def State.errBeats (s : State) (b : BurstReq) (cause : Nat) (l : List Nat) : State :=
  foldS (fun (s : State) i => s.berr b.master (b.addr + i * b.width) b.write cause) s l

/-- The positions from `lo` up to `hi`. -/
def span (lo hi : Nat) : List Nat := (List.range (hi - lo)).map (lo + ·)

/-- BURST (R460-R464): every beat in ascending order, or an error response on every beat. -/
def execBurst (b : BurstReq) (s : State) : Out :=
  let s0 := s.quiet
  .next (match s0.burstCause b with
  | some c => s0.errBeats b c (List.range b.beats)
  | none => foldS (State.beat b) s0 (List.range b.beats))

/-- BURST_TO (R465, R476): `done` beats stand, the others get error responses, and FAB records and raises the timeout. -/
def execBurstTo (b : BurstReq) (done : Nat) (targetStalled : Bool) (s : State) : Out :=
  let s0 := s.quiet
  .next (match s0.burstCause b with
  | some c => s0.errBeats b c (List.range b.beats)
  | none =>
    let s1 := (foldS (State.beat b) s0 (List.range done)).errBeats b 6 (span done b.beats)
    (s1.modFab fun f => { f with
      btoMaster := masterCode b.master, btoTarget := (s0.targetOf b.addr).1, btoStall := targetStalled, btoDone := done % 32
      btoCount := stopAt 0xFFFF f.btoCount 1 }).raiseT blkFab 0x10 .u)

end Sys2Proof.Machine
end

