-- ==== Sys2Proof/Machine/Actions.lean ====
section
/-! DEFINITION. The actions that a commit starts (R252, R261, R283), and the tick event and the application of a commit with them. -/

namespace Sys2Proof.Machine

/-- A meaning run as part of another command: what it puts out follows what has been put out. -/
def State.act (s : State) (f : State → Out) : State :=
  match f s with
  | .next t => { t with sent := s.sent ++ t.sent }
  | _ => s

/-- The action a number starts, by member (R252).  What only the flash, the self-tests, a burn or a signature check can tell is free, or comes with
the row of the action (log 38). -/
def actionOf (s : State) (obj m n : Nat) : State → Out :=
  let freeBit : Bool := bitAt (Config.free64 .measured s.freeCtr 2310).toNat 0
  if obj = 0x0050 ∧ m = 4 then execArm n
  else if obj = 0x0051 ∧ m = 1 then execErase n
  else if obj = 0x0060 ∧ m = 1 then execSave n
  else if obj = 0x0060 ∧ m = 3 then execReady
  else if obj = 0x1001 ∧ m = 2 then execSet n
  else if obj = 0xA000 ∧ m = 2 then execSpareIn (n % 128) (bitAt n 7)
  else if obj = 0xB000 ∧ m = 7 then execLeave .service
  else if obj = 0xB000 ∧ m = 8 then execPairHandover n
  else if obj = 0xC400 ∧ m = 1 then execNorth (n == 1)
  else if obj = 0xC400 ∧ m = 2 then execSouth (n == 1)
  else if obj = 0xD200 ∧ m = 5 then execMigrate n
  else if obj = 0xD200 ∧ m = 6 then execRepairAction n
  else if obj = 0xD300 ∧ m = 2 then execSwitch (n % 32) (bitAt n 7)
  else if obj = 0xE003 ∧ m = 1 then execClose n freeBit
  else if obj = 0xE003 ∧ m = 3 then execCommitFw freeBit
  else if obj = 0xE003 ∧ m = 4 then execCloseNow
  else fun s => .next s.quiet

/-- The nonces that a written string asks for (R386, R370). -/
def nonceOf (s : State) (obj m : Nat) : State → Out :=
  if obj = 0xE001 ∧ m = 1 then execNonce
  else if obj = 0xE004 ∧ m = 1 then execChallenge (Config.free64 .measured s.freeCtr 2311).toNat
  else fun s => .next s.quiet

/-- One action starts. -/
def State.startAction (s : State) (w : EWrite) : State :=
  match w.val with
  | .num n => s.fresh.act (actionOf s w.obj w.mem n.toNat)
  | .bytes _ => (s.fresh.act (nonceOf s w.obj w.mem)).writeEffect w

/-- The actions of the commits applied in this command start, in the order of their writes (R252). -/
def State.runActions (s : State) : State :=
  foldS State.startAction (s.modDict fun d => { d with actions := [] }) s.dict.actions

/-- COMMIT_APPLY (R270): the sealed commit of tick `a` takes effect at the start of its PROCESS. -/
def execCommitApply (tick : Nat) (s : State) : Out :=
  let s0 := s.quiet
  .next (if tick + 2 ≤ s0.time.tick then (s0.applySealed [] tick).runActions else s0)

/-- TICK_EVENT (R19, R20, R38, R41, R43). -/
def execTickEvent (e : TickOps) (s : State) : Out :=
  let s0 := s.quiet
  .next (if s0.time.running then (s0.tickEvent e).takeSave.runActions else s0)

end Sys2Proof.Machine
end

