-- ==== Sys2Proof/Machine/ClusterAcc.lean ====
section
/-! DEFINITION. Accumulators, multiply-accumulate and conversions (R120-R123, R154). -/

namespace Sys2Proof.Machine

/-- MPY (R154): the exact product into An. -/
def execMpy (i : CI) (an dx dy : Nat) (s : State) : Out :=
  issueCI i (accOp an fun l => l.product dx dy) s

/-- MAC (R154): clamp80 (an + dx * dy). -/
def execMac (i : CI) (an dx dy : Nat) (s : State) : Out :=
  issueCI i (accOp an fun l => (l.acc an).toInt + l.product dx dy) s

/-- MSU (R154): clamp80 (an - dx * dy). -/
def execMsu (i : CI) (an dx dy : Nat) (s : State) : Out :=
  issueCI i (accOp an fun l => (l.acc an).toInt - l.product dx dy) s

/-- CLRA (R154). -/
def execClra (i : CI) (an : Nat) (s : State) : Out :=
  issueCI i (accOp an fun _ => 0) s

/-- MOVA (R154). -/
def execMova (i : CI) (an am : Nat) (s : State) : Out :=
  issueCI i (accOp an fun l => (l.acc am).toInt) s

/-- ADDA (R154). -/
def execAdda (i : CI) (an am : Nat) (s : State) : Out :=
  issueCI i (accOp an fun l => (l.acc an).toInt + (l.acc am).toInt) s

/-- SUBA (R154). -/
def execSuba (i : CI) (an am : Nat) (s : State) : Out :=
  issueCI i (accOp an fun l => (l.acc an).toInt - (l.acc am).toInt) s

/-- LDA (R154): a shifted D value into An; shifts above 48 are refused at load (R171). -/
def execLda (i : CI) (an dx sh : Nat) (s : State) : Out :=
  if 48 < sh then .next s.quiet else issueCI i (accOp an fun l => l.int dx * 2 ^ sh) s

/-- ASLA (R154). -/
def execAsla (i : CI) (an sh : Nat) (s : State) : Out :=
  issueCI i (accOp an fun l => (l.acc an).toInt * 2 ^ sh) s

/-- ASRA (R154): floor. -/
def execAsra (i : CI) (an sh : Nat) (s : State) : Out :=
  issueCI i (accOp an fun l => floorShift (l.acc an).toInt sh) s

/-- NEGA (R154). -/
def execNega (i : CI) (an : Nat) (s : State) : Out :=
  issueCI i (accOp an fun l => -(l.acc an).toInt) s

/-- SAV over the lanes (R122): the converted accumulator into Dx, visible like a load (R118); saturation sets SAT. -/
def savOp (dx an sh : Nat) (trunc : Bool) (c : Cluster) : Cluster :=
  let keep := c.mayD dx
  c.onLanes fun _ l =>
    let (v, sat) := convert80 (l.acc an).toInt sh trunc
    (if keep then l.put dx (BitVec.ofInt 32 v) true else l, { sat := sat })

/-- SAV (R122, R154). -/
def execSav (i : CI) (dx an sh : Nat) (trunc : Bool) (s : State) : Out :=
  issueCI i (savOp dx an sh trunc) s

end Sys2Proof.Machine
end

