-- ==== Sys2Proof/Machine/ClusterAlu.lean ====
section
/-! DEFINITION. Lane arithmetic and logic, search and lane services (R156-R159). -/

namespace Sys2Proof.Machine

/-- ADD (R156): saturating sum. -/
def execAdd (i : CI) (dd da db : Nat) (s : State) : Out :=
  issueCI i (alu2 dd da db aluAdd) s

/-- SUB (R156): saturating difference. -/
def execSub (i : CI) (dd da db : Nat) (s : State) : Out :=
  issueCI i (alu2 dd da db aluSub) s

/-- AND (R156). -/
def execAnd (i : CI) (dd da db : Nat) (s : State) : Out :=
  issueCI i (alu2 dd da db aluAnd) s

/-- OR (R156). -/
def execOr (i : CI) (dd da db : Nat) (s : State) : Out :=
  issueCI i (alu2 dd da db aluOr) s

/-- XOR (R156). -/
def execXor (i : CI) (dd da db : Nat) (s : State) : Out :=
  issueCI i (alu2 dd da db aluXor) s

/-- ASL (R156): saturating arithmetic shift left by the low 6 bits of b. -/
def execAsl (i : CI) (dd da db : Nat) (s : State) : Out :=
  issueCI i (alu2 dd da db aluAsl) s

/-- ASR (R156): arithmetic shift right with floor. -/
def execAsr (i : CI) (dd da db : Nat) (s : State) : Out :=
  issueCI i (alu2 dd da db aluAsr) s

/-- LSR (R156): logical shift right. -/
def execLsr (i : CI) (dd da db : Nat) (s : State) : Out :=
  issueCI i (alu2 dd da db aluLsr) s

/-- MIN (R156): signed minimum. -/
def execMin (i : CI) (dd da db : Nat) (s : State) : Out :=
  issueCI i (alu2 dd da db aluMin) s

/-- MAX (R156): signed maximum. -/
def execMax (i : CI) (dd da db : Nat) (s : State) : Out :=
  issueCI i (alu2 dd da db aluMax) s

/-- MPYR (R156): Q1.31 product rounded half up, saturated. -/
def execMpyr (i : CI) (dd da db : Nat) (s : State) : Out :=
  nativeCI i (alu2 dd da db aluMpyr) s

/-- NEG (R156): saturating negation. -/
def execNeg (i : CI) (dd da : Nat) (s : State) : Out :=
  issueCI i (alu1 dd da fun a => -a.toInt) s

/-- ABS (R156): saturating absolute value. -/
def execAbs (i : CI) (dd da : Nat) (s : State) : Out :=
  issueCI i (alu1 dd da fun a => if a.toInt < 0 then -a.toInt else a.toInt) s

/-- NOT (R156): bitwise complement. -/
def execNot (i : CI) (dd da : Nat) (s : State) : Out :=
  issueCI i (alu1 dd da fun a => (~~~a).toInt) s

/-- CMP (R156): Z, N from the comparison, V = 0, no write. -/
def execCmp (i : CI) (da db : Nat) (s : State) : Out :=
  issueCI i (cmpOp fun l => (l.int da, l.int db)) s

/-- SEL (R156, R152): per lane, on the flags of the instruction just before (R118). -/
def execSel (i : CI) (dd da db cond : Nat) (s : State) : Out :=
  issueCI i (aluOp dd fun _ l => if condHolds cond l.fl then l.int da else l.int db) s

/-- MOV (R156). -/
def execMov (i : CI) (dd db : Nat) (s : State) : Out :=
  issueCI i (alu1 dd db fun b => b.toInt) s

/-- ALUI ADD (R147, R156): with IMM in place of b. -/
def execAluiAdd (i : CI) (dd da : Nat) (imm : Word) (s : State) : Out :=
  issueCI i (aluI dd da imm aluAdd) s

/-- ALUI SUB (R147, R156): with IMM in place of b. -/
def execAluiSub (i : CI) (dd da : Nat) (imm : Word) (s : State) : Out :=
  issueCI i (aluI dd da imm aluSub) s

/-- ALUI AND (R147, R156): with IMM in place of b. -/
def execAluiAnd (i : CI) (dd da : Nat) (imm : Word) (s : State) : Out :=
  issueCI i (aluI dd da imm aluAnd) s

/-- ALUI OR (R147, R156): with IMM in place of b. -/
def execAluiOr (i : CI) (dd da : Nat) (imm : Word) (s : State) : Out :=
  issueCI i (aluI dd da imm aluOr) s

/-- ALUI XOR (R147, R156): with IMM in place of b. -/
def execAluiXor (i : CI) (dd da : Nat) (imm : Word) (s : State) : Out :=
  issueCI i (aluI dd da imm aluXor) s

/-- ALUI ASL (R147, R156): with IMM in place of b. -/
def execAluiAsl (i : CI) (dd da : Nat) (imm : Word) (s : State) : Out :=
  issueCI i (aluI dd da imm aluAsl) s

/-- ALUI ASR (R147, R156): with IMM in place of b. -/
def execAluiAsr (i : CI) (dd da : Nat) (imm : Word) (s : State) : Out :=
  issueCI i (aluI dd da imm aluAsr) s

/-- ALUI LSR (R147, R156): with IMM in place of b. -/
def execAluiLsr (i : CI) (dd da : Nat) (imm : Word) (s : State) : Out :=
  issueCI i (aluI dd da imm aluLsr) s

/-- ALUI MIN (R147, R156): with IMM in place of b. -/
def execAluiMin (i : CI) (dd da : Nat) (imm : Word) (s : State) : Out :=
  issueCI i (aluI dd da imm aluMin) s

/-- ALUI MAX (R147, R156): with IMM in place of b. -/
def execAluiMax (i : CI) (dd da : Nat) (imm : Word) (s : State) : Out :=
  issueCI i (aluI dd da imm aluMax) s

/-- ALUI CMP (R147, R156). -/
def execAluiCmp (i : CI) (da : Nat) (imm : Word) (s : State) : Out :=
  issueCI i (cmpOp fun l => (l.int da, imm.toInt)) s

/-- ALUI MOV (R147, R156). -/
def execAluiMov (i : CI) (dd : Nat) (imm : Word) (s : State) : Out :=
  issueCI i (aluOp dd fun _ _ => imm.toInt) s

/-- MAXI (R157): running maximum with index. -/
def execMaxi (i : CI) (dd da db : Nat) (s : State) : Out :=
  evenCI dd i (searchOp dd da db fun x y => decide (y < x)) s

/-- MINI (R157): running minimum with index. -/
def execMini (i : CI) (dd da db : Nat) (s : State) : Out :=
  evenCI dd i (searchOp dd da db fun x y => decide (x < y)) s

/-- RMAX (R157): maximum over the executing lanes and the lowest lane holding it. -/
def execRmax (i : CI) (dd da : Nat) (s : State) : Out :=
  nativeEvenCI dd i (reduceOp dd da fun x y => decide (y < x)) s

/-- RMIN (R157): minimum over the executing lanes and the lowest lane holding it. -/
def execRmin (i : CI) (dd da : Nat) (s : State) : Out :=
  nativeEvenCI dd i (reduceOp dd da fun x y => decide (x < y)) s

/-- RND over the lanes (R159): the generator advances and Dd takes its high 32 bits; in a handler it returns 0 and stays (R166). -/
def rndOp (dd : Nat) (c : Cluster) : Cluster :=
  let keep := c.mayD dd
  c.onLanes fun _ l =>
    if c.handler then (if keep then l.put dd 0 true else l, {})
    else let x := noiseNext l.noise; ({ l with noise := x }.put dd (x.extractLsb' 32 32) true, {})

/-- RND (R159). -/
def execRnd (i : CI) (dd : Nat) (s : State) : Out :=
  nativeCI i (rndOp dd) s

/-- LID (R159): the lane number. -/
def execLid (i : CI) (dd : Nat) (s : State) : Out :=
  issueCI i (putOp dd false fun n _ => w32 n) s

/-- RDFLG (R159): the sticky flags set by the instructions before it, visible like a conversion (R118). -/
def execRdflg (i : CI) (dd : Nat) (s : State) : Out :=
  issueCI i (putOp dd true fun _ l => w32 l.st.word) s

/-- CLRFLG (R159): clears the selected sticky flags; the host copies stay. -/
def execClrflg (i : CI) (k : Nat) (s : State) : Out :=
  issueCI i (fun c => c.onLanes fun _ l => ({ l with st := l.st.clear k }, {})) s

end Sys2Proof.Machine
end

