-- ==== Sys2Proof/Machine/ClusterMem.lean ====
section
/-! DEFINITION. Loads, stores, the DUAL format and moves (R149, R153, R155, R158). -/

namespace Sys2Proof.Machine

/-- LDD (R155): up to two loads. -/
def execLdd (i : CI) (l : DualLoads) (s : State) : Out :=
  dualCI l i (dualLoads l) s

/-- MPYL (R155): MPY with loads; the operands are read before either load writes. -/
def execMpyl (i : CI) (an dx dy : Nat) (l : DualLoads) (s : State) : Out :=
  dualCI l i (fun c => dualLoads l (accOp an (fun x => x.product dx dy) c)) s

/-- MACL (R155): MAC with loads. -/
def execMacl (i : CI) (an dx dy : Nat) (l : DualLoads) (s : State) : Out :=
  dualCI l i (fun c => dualLoads l (accOp an (fun x => (x.acc an).toInt + x.product dx dy) c)) s

/-- MSUL (R155): MSU with loads. -/
def execMsul (i : CI) (an dx dy : Nat) (l : DualLoads) (s : State) : Out :=
  dualCI l i (fun c => dualLoads l (accOp an (fun x => (x.acc an).toInt - x.product dx dy) c)) s

/-- LD (R153, R114): the word at the address, or 0 with ADDR_RANGE; then the post-modify. -/
def execLd (cl dd : Nat) (ea : EA) (s : State) : Out :=
  issueRep cl (fun c => (c.loadInto dd (c.address ea)).afterEA ea) s

/-- ST (R153, R114): the store data to LMEM, or nothing with ADDR_RANGE; then the post-modify. -/
def execSt (cl dd : Nat) (ea : EA) (s : State) : Out :=
  issueRep cl (fun c => (c.storeFrom dd (c.address ea)).afterEA ea) s

/-- MODP (R149): the post-modify without an access. -/
def execModp (cl : Nat) (ea : EA) (s : State) : Out :=
  issueRep cl (fun c => c.afterEA ea) s

/-- A write to a shared register on its way (R118: first use at distance 4); ISRC is read only. -/
def Cluster.sendShared (c : Cluster) (code v : Nat) : Cluster :=
  if c.mayShared code && decide (code ≠ 0x4C) && decide (0 < shWidth code) then
    { c with sharedFlight := c.sharedFlight ++ [⟨code, v % 2 ^ shWidth code, 0⟩] }
  else c

/-- MVR over the register kinds (R158): D to D per lane, D to shared from lane 0, shared to D in every lane. -/
def mvrOp (dst src : Nat) (c : Cluster) : Cluster :=
  if dst < 0x20 then
    if src < 0x20 then putOp dst false (fun _ l => l.operand src) c
    else putOp dst false (fun _ _ => c.sharedToD src) c
  else
    let v := if src < 0x20 then ((at? {} c.lanes 0).operand src).toNat else c.shared src
    c.sendShared dst v

/-- MVI (R158): IMM24 zero-extended to D in every lane, truncated to a shared register. -/
def mviOp (dst imm : Nat) (c : Cluster) : Cluster :=
  if dst < 0x20 then putOp dst false (fun _ _ => w32 (imm % 2 ^ 24)) c else c.sendShared dst (imm % 2 ^ 24)

/-- MVR (R158). -/
def execMvr (cl dst src : Nat) (s : State) : Out :=
  issueCtl cl (mvrOp dst src) s

/-- MVI (R158). -/
def execMvi (cl dst imm : Nat) (s : State) : Out :=
  issueCtl cl (mviOp dst imm) s

end Sys2Proof.Machine
end

