-- ==== Sys2Proof/Machine/Dictionary.lean ====
section
/-! DEFINITION. Dictionary transactions: paths and roles, item checks, READ, WRITE, COMMIT, ABORT, DESCRIBE and the scene operations
(R248-R281, R374, R376, R386, R390, R543, R549, R550, R565, R567). -/

namespace Sys2Proof.Machine

/-! ### Roles (R255, R256, R373, R376, R390, R543) -/

/-- What asks: the path's key, 0 HOSTP, 1 TW1, else a session or a tag, and its role: 0 Observer, 1 Operator, 2 Engineer,
3 Custodian, 4 Service. -/
structure Asker where
  pk : Nat
  role : Nat
  deriving DecidableEq, Repr

/-- The table of R255. -/
def classAllows (a : Acc) (role : Nat) (write : Bool) : Bool :=
  match a with
  | .s => !write
  | .o => !write || role == 1 || role == 2 || role == 3
  | .e => !write || role == 2 || role == 3
  | .c => role == 3
  | .k => write && role == 3
  | .t => if write then role == 4 else role == 3 || role == 4

/-- The members that every role, or the local paths while the engine is UNOWNED, may use (R386, R390, R565). -/
def State.openMember (s : State) (w : Asker) (obj m : Nat) (write : Bool) : Bool :=
  (obj == 0xE004 && (m == 1 || (m == 2 && write))) ||
    (obj == 0xE001 && (m == 1 || (m == 2 && write)) && decide (w.pk < 2) && s.sec.life == 0)

/-- The flash pages are write only (R477). -/
def writeOnly (obj m : Nat) : Bool := obj == 0x0051 && (m == 2 || m == 3)

/-- The access check. -/
def State.mayAccess (s : State) (w : Asker) (obj m : Nat) (i : Member) (write : Bool) : Bool :=
  s.openMember w obj m write ||
    (classAllows i.acc w.role write && !(writeOnly obj m && !write) && !(w.pk == 1 && write))

/-! ### Values of items (R249, R254, R260) -/

def isString (ty : Nat) : Bool := ty == 0x10 || ty == 0x11

/-- Length in bytes of an item's values; none for a TYPE that R254 does not list. -/
def valueBytes (obj m ty count : Nat) : Option Nat :=
  match tySize ty with
  | none => none
  | some 0 => some (match memberOf obj m with | some i => if 1 < i.len then count * i.hi.toNat else count | none => count)
  | some n => some (n * count)

/-- The number that `l` encodes in a type. -/
def decodeNum (ty : Nat) (l : List Byte) : Int :=
  if tySigned ty then (BitVec.ofNat (8 * l.length) (beNat l)).toInt else beNat l

/-- The element writes an item stands for. -/
def itemWrites (i : Item) (a : Member) : List EWrite :=
  if isString a.ty then
    if 1 < a.len then (pieces a.hi.toNat i.count i.data).mapIdx fun k b => ⟨i.obj, i.mem, i.elem + k, .bytes b⟩
    else [⟨i.obj, i.mem, 0, .bytes i.data⟩]
  else (pieces ((tySize a.ty).getD 1) i.count i.data).mapIdx fun k b => ⟨i.obj, i.mem, i.elem + k, .num (decodeNum a.ty b)⟩

/-- ELEM and COUNT fit the member (R249). -/
def elemsOk (a : Member) (elem count : Nat) (write : Bool) : Bool :=
  if isString a.ty && a.len == 1 then elem == 0 && (!write || decide ((count : Int) ≤ a.hi))
  else decide (1 ≤ count) && decide (elem + count ≤ a.len)

/-- The elements of a member for a request (R83, R249): a channel map has NCH words, and a WRITE goes by the largest NCH among the value in force,
sealed and pending units and staged sets, as it may come with the NCH that makes room for it (log 200). -/
def State.elemsOf (s : State) (asked : List EWrite) (write : Bool) (i : Item) (a : Member) : Nat :=
  if write ∧ 0x2000 ≤ i.obj ∧ i.obj ≤ 0x2FFF ∧ i.mem = 22 then
    let ws := asked ++ (s.dict.units ++ s.dict.sealed.flatMap (·.2)).flatMap (·.writes) ++ s.dict.staged.flatMap (·.2)
    Nat.min 256 (ws.foldl (fun n e => match e.val with
      | .num k => if e.obj = i.obj ∧ e.mem = 3 then Nat.max n k.toNat else n
      | .bytes _ => n) (memberLen s.dict.vals i.obj i.mem a))
  else memberLen s.dict.vals i.obj i.mem a

/-- The checks 1 to 7 of R262 on one item, or those of them that a READ needs; 0 where it passes. -/
def State.checkItem (s : State) (w : Asker) (write elems : Bool) (i : Item) (asked : List EWrite := []) : Nat :=
  -- `asked` holds what the request writes to NCH
  match membersOf i.obj with
  | none => stNoObject
  | some l =>
    match tfind l i.mem with
    | none => stNoMember
    | some a =>
      if write && a.kind == .status then stReadOnly
      else if !(s.mayAccess w i.obj i.mem a write) then stAccess
      else if i.ty != a.ty && !(!write && i.ty == 0) then stType
      else if elems && !(elemsOk { a with len := s.elemsOf asked write i a } i.elem i.count write) then stElem
      else if write && !((itemWrites i a).all fun e => valueOk i.obj i.mem a e.val && rateOk s.dict.vals e) then stValue
      else 0

/-- The writes of the items that pass. -/
def goodWrites (items : List Item) (codes : List Nat) : List EWrite :=
  (items.zip codes).flatMap fun p =>
    if p.2 ≠ 0 then [] else match memberOf p.1.obj p.1.mem with | some a => itemWrites p.1 a | none => []

/-- Check 8 of R262: the service condition of STATIC members, against the configuration with every sealed unit (R252, R266). -/
def State.staticCheck (s : State) (items : List Item) (codes : List Nat) : List Nat :=
  let v := s.configAt (2 ^ 64)
  let v' := overlay v (goodWrites items codes)
  let k := s.firstSample (s.time.tick + 2)
  (items.zip codes).map fun p =>
    if p.2 ≠ 0 then p.2
    else match memberOf p.1.obj p.1.mem with
      | some a =>
        if a.kind == .sta && !((itemWrites p.1 a).all fun e => s.staticFree v v' k e.obj e.mem e.elem) then stStatic else 0
      | none => 0

/-- What items write to the NCH of stream contexts. -/
def nchAsked (items : List Item) : List EWrite :=
  items.flatMap fun i => if 0x2000 ≤ i.obj ∧ i.obj ≤ 0x2FFF ∧ i.mem = 3 then
      match memberOf i.obj i.mem with | some a => itemWrites i a | none => []
    else []

/-- The codes of R262 for the items of a WRITE, or of a PARAM_SET. -/
def State.writeCodes (s : State) (w : Asker) (items : List Item) : List Nat := s.staticCheck items (items.map (s.checkItem w true true · (nchAsked items)))

/-! ### Answers -/

/-- Item headers with a status each. -/
def heads (items : List Item) (codes : List Nat) : List Byte := (items.zip codes).flatMap fun p => itemHead p.1 p.2 p.1.count

/-- The answer to a request whose items all carry one status. -/
def State.answerAll (s : State) (w : Asker) (op : Nat) (r : DictReq) (code : Nat) : State :=
  s.answer w.pk op r.reqid code r.items.length r.cid (r.items.flatMap fun i => itemHead i code i.count)

/-- The answer without items. -/
def State.answerBare (s : State) (w : Asker) (op : Nat) (r : DictReq) (code : Nat) : State := s.answer w.pk op r.reqid code 0 r.cid []

/-- Zeros up to a multiple of 8 bytes (R260). -/
def pad8 (l : List Byte) : List Byte := l ++ List.replicate (8 * ceilDiv l.length 8 - l.length) 0

/-! ### Units (R264, R266, R271) -/

/-- A SHADOW takes no pair-wide changes (R270). -/
def State.isShadow (s : State) : Bool := s.pair.role == 2

/-- Units of transactions that wait for their seal. -/
def State.pendingUnits (s : State) : Nat := (s.dict.units.filter fun u => !(fromTag u)).length

/-- A refusal that the commit log keeps (R272). -/
def State.refuse (s : State) (w : Asker) (op : Nat) (r : DictReq) (kind : UKind) (a code : Nat) : State :=
  let s1 := s.modDict fun d => d.logPut ⟨a, kind, r.reqid, sessionOf w.pk, r.cid, code⟩
  let s2 := if code = stRefused then s1.modDict fun d => d.countUp 7 else s1
  s2.answerAll w op r code

/-- The apply tick of a request, and whether it is late (R266). -/
def applyTick (c : Nat) (apply : Nat) : Nat × Bool :=
  if apply = 0xFFFFFFFFFFFFFFFF then (c + 2, false)
  else if apply % 2 ^ 48 < c + 2 then (c + 2, true) else (apply % 2 ^ 48, false)

/-- A unit is accepted in tick c: applied at once while ticks do not run, refused, or pending for its seal. -/
def State.submit (s : State) (w : Asker) (op : Nat) (r : DictReq) (u : CUnit) : State :=
  if !s.time.ticked then
    let (s1, code) := s.applyNow u
    if code = 0 then s1.runActions.answerAll w op r stOk else s1.refuse w op r u.kind 0 code
  else
    let c := s.time.tick
    let (a, late) := applyTick c r.apply
    if c + 2 ^ 31 < a then s.answerAll w op r stApplyRange
    else if late && r.strict then s.refuse w op r u.kind (r.apply % 2 ^ 48) stLateStrict
    else if 256 ≤ s.pendingUnits then s.answerBare w op r stBusy
    else
      let later := decide (c + 4 < a) || u.kind == .store
      let u1 := { u with
        late := late, pendingAns := later, order := s.dict.accepted, origin := r.reqid, session := w.pk, apply := a, op := op
        heads := r.items }
      let s1 := s.modDict fun d => { d with units := d.units ++ [u1], accepted := d.accepted + 1 }
      if later then s1.answerAll w op r stPending else s1

/-! ### The paths (R258, R263, R374, R543, R550) -/

/-- A session accepts a SEQ once, within a window of 64 below the highest one (R374). -/
def Session.accepts (x : Session) (q : Nat) : Bool :=
  x.rxSeen.isEmpty || decide (x.rxHigh < q) || (decide (x.rxHigh < q + 64) && !(x.rxSeen.contains q))

/-- The session after a datagram. -/
def Session.take (x : Session) (q ctr : Nat) : Session :=
  let hi := Nat.max x.rxHigh q
  { x with rxHigh := hi, rxSeen := (q :: x.rxSeen).filter fun y => decide (hi < y + 64), used := ctr }

/-- The path of a request: the state that has taken it, and who asks; none where nothing answers (R264, R374). -/
def State.takePath (s : State) (p : Path) : Option (State × Asker) :=
  match p with
  | .hostp => some (s, ⟨0, s.hostRole⟩)
  | .tw1 => some (s, ⟨1, 0⟩)
  | .session id q ok =>
    match s.sec.sessions.find? fun x => x.id == id with
    | none => none
    | some x =>
      if !ok ∨ !(x.accepts q) ∨ 2 ^ 48 ≤ q then none
      else
        let n := s.sec.useCtr + 1
        some (s.modSec fun c => { c with
          useCtr := n, sessions := c.sessions.map fun y => if y.id = id then y.take q n else y }, ⟨id + 2, x.role⟩)

/-- A session whose SEQ reaches 2^48 ends (R375). -/
def State.seqOver (s : State) (p : Path) : State :=
  match p with
  | .session id q ok => if ok ∧ 2 ^ 48 ≤ q then s.endSession id else s
  | _ => s

/-- The firmware runs (R368, R507). -/
def State.firmwareRuns (s : State) : Bool := s.top.booted && s.domOn 1

/-- A stored response goes out again (R263). -/
def State.resend (s : State) (c : Cached) : State :=
  let s1 := s.respond c.path c.reqid c.status c.body
  if c.path = 0 then
    { s1 with hostp := { s1.hostp with dstate := 2, respLen := c.body.length }
              fab := { s1.fab with ctrlSram := memSetBytes s1.fab.ctrlSram 0x1FE000 c.body } }
  else if c.path = 1 then { s1 with tw1 := { s1.tw1 with dstate := 2, resp := c.body } }
  else s1

/-- A REQID is still being executed (R263). -/
def State.executing (s : State) (pk reqid : Nat) : Bool :=
  s.dict.units.any fun u => !(fromTag u) && !u.pendingAns && u.session == pk && u.origin == reqid

/-- With HOSTP closed, only WRITEs of 0xE004:02 are executed (R550). -/
def closedItems (op : Nat) (r : DictReq) : Bool :=
  op == 2 && !r.items.isEmpty && r.items.all fun i => i.obj == 0xE004 && i.mem == 2

/-- The longest plaintext that a datagram of a session holds on its port: 8,192 bytes, and MAXLEN with Ethernet header, frame check sequence, IP and
UDP headers and the envelope of 28 bytes (R258, R374). -/
def State.plainMax (s : State) (r : DictReq) : Nat := Nat.min 8192 (s.cfg (0xC000 + r.port) 9 - (18 + (if r.v6 then 48 else 28) + 28))

/-- The plaintext of a request: its header and its items, with the values of a WRITE (R259, R260). -/
def reqBytes (op : Nat) (r : DictReq) : Nat := 24 + sumN (r.items.map fun i => 16 + if op = 2 then 8 * ceilDiv i.data.length 8 else 0)

/-- A datagram that does not reach the dictionary: to another UDP port than DICT_UDP, an IP fragment, or longer than its port takes (R258). -/
def State.notDict (s : State) (op : Nat) (r : DictReq) : Bool :=
  match r.path with
  | .session _ _ _ => r.udp != s.cfg 0xC100 3 || r.frag || decide (s.plainMax r < reqBytes op r)
  | _ => false

/-- A session answers on the port of its last datagram. -/
def State.notePort (s : State) (r : DictReq) : State :=
  match r.path with
  | .session id _ _ => s.modSec fun c => { c with sessions := c.sessions.map fun y => if y.id = id then { y with port := r.port, v6 := r.v6 } else y }
  | _ => s

/-- A request reaches its operation: known session, fresh REQID, VER and length right, path open. -/
def State.request (s : State) (op : Nat) (r : DictReq) (f : State → Asker → State) : State :=
  let s0 := s.quiet.fresh
  if !s0.firmwareRuns || s0.notDict op r then s0 else
  match s0.takePath r.path with
  | none => s0.seqOver r.path
  | some (s', w) =>
    let s1 := s'.notePort r
    match s1.dict.cache.find? fun c => c.path == w.pk && c.reqid == r.reqid with
    | some c => s1.resend c
    | none =>
      if s1.executing w.pk r.reqid then s1.answerBare w op r stBusy
      else if r.ver != 1 ∨ op = 0 ∨ 8 < op then s1.answerBare w op r stBadOp
      else if !r.lenOk ∨ 255 < r.items.length then s1.answerBare w op r stBadLen
      else if w.pk = 0 ∧ s1.closed 3 ∧ !(closedItems op r) then s1.answerAll w op r stAccess
      else f s1 w

/-! ### READ and DESCRIBE (R251, R261, R543) -/

/-- The longest response of a path: 512 bytes over TW1, 8,192 over HOSTP, and what a datagram holds in a session (R258, R543). -/
def State.responseMax (s : State) (r : DictReq) : Nat :=
  match r.path with
  | .tw1 => 512
  | .hostp => 8192
  | .session _ _ _ => s.plainMax r

/-- The values of one item, and how many elements or bytes they are. -/
def State.itemValues (s : State) (describe : Bool) (i : Item) (a : Member) : List Byte × Nat :=
  if describe then (s.describe i.obj i.mem a, i.count)
  else if isString a.ty && a.len == 1 then
    let b := s.readElem i.obj i.mem 0 a
    (b, b.length)
  else ((List.range i.count).flatMap fun k => s.readElem i.obj i.mem (i.elem + k) a, i.count)

/-- The items of a READ or DESCRIBE in turn: the response so far, and the first failing item's code; `max` is the longest response. -/
def State.readItems (s : State) (w : Asker) (max : Nat) (describe : Bool) : List Item → List Byte → Nat → List Byte × Nat
  | [], out, st => (out, st)
  | i :: t, out, st =>
    let code := s.checkItem w false (!describe) i
    let a := (memberOf i.obj i.mem).getD { ty := i.ty, kind := .status, acc := .s }
    let vc := s.itemValues describe i a
    let vals := pad8 vc.1
    let c := if code ≠ 0 then code else if max < 24 + out.length + 16 + vals.length then stElem else 0
    let j := { i with ty := if c = 0 then a.ty else i.ty }
    s.readItems w max describe t (out ++ (if c = 0 then itemHead j 0 vc.2 ++ vals else itemHead j c 0)) (if st = 0 then c else st)

def State.doRead (s : State) (op : Nat) (r : DictReq) (w : Asker) : State :=
  let (body, st) := s.readItems w (s.responseMax r) (op == 5) r.items [] 0
  s.answer w.pk op r.reqid st r.items.length r.cid body

/-- READ (R261). -/
def execRead (r : DictReq) (s : State) : Out := .next (s.request 1 r fun s w => s.doRead 1 r w)

/-- DESCRIBE (R251, R261). -/
def execDescribe (r : DictReq) (s : State) : Out := .next (s.request 5 r fun s w => s.doRead 5 r w)

/-! ### WRITE (R262, R266, R267) -/

/-- Operations the engine's state forbids: SET after ticks have started (R567), and writes to the running image's flash (R477). -/
def State.badState (s : State) (e : EWrite) : Bool :=
  (e.obj == 0x1001 && e.mem == 2 && s.time.ticked) ||
  (e.obj == 0x0051 && ((e.mem == 2 && s.fab.runFlash == 0) || (e.mem == 3 && s.fab.runFlash == 1) ||
    (e.mem == 1 && e.val == .num s.fab.runFlash))) ||
  (e.obj == 0x0050 && e.mem == 2 && e.val == .num s.fab.runFlash)

/-- Elements that staged sets hold together (R267). -/
def Dict.stagedCount (d : Dict) : Nat := sumN (d.staged.map fun e => e.2.length)

/-- A set with further writes: a later write to an element replaces the earlier one (R267). -/
def stageInto (l ws : List EWrite) : List EWrite :=
  ws.foldl (fun l w => (l.filter fun x => !(x.obj == w.obj && x.mem == w.mem && x.elem == w.elem)) ++ [w]) l

/-- Writes enter a staged set; none where the sets would hold too many elements.  Those of a media frame's tag can still be withdrawn with the
frame; later writes of others stand for good (R48, R60). -/
def Dict.stage (d : Dict) (cid : Nat) (frame : Option (Nat × Nat × Nat)) (ws : List EWrite) : Option Dict :=
  let old := tget [] d.staged cid
  let was (w : EWrite) : Option Val := (old.find? fun x => x.obj == w.obj && x.mem == w.mem && x.elem == w.elem).map (·.val)
  let d1 := { d with
    staged := tset d.staged cid (stageInto old ws)
    stagedBy := match frame with
      | some f => ws.reverse.map (fun w => ⟨cid, f, w.obj, w.mem, w.elem, was w⟩) ++ d.stagedBy
      | none => d.stagedBy.filter fun r => !(r.cid == cid && ws.any fun w => w.obj == r.obj && w.mem == r.mem && w.elem == r.elem) }
  if 16384 < Dict.stagedCount d1 then none else some d1

/-- A WRITE item whose TYPE has no length, or whose values are not as long as it says (R262, R265). -/
def framed (i : Item) : Bool := valueBytes i.obj i.mem i.ty i.count == some i.data.length

/-- The codes of a WRITE's items that are not applied: the others carry NOT_APPLIED (R262). -/
def notApplied (codes : List Nat) : List Nat := codes.map fun c => if c = 0 then stNotApplied else c

/-- The image of a work set that a request uploads. -/
def imagesUp (r : DictReq) : List (Nat × Image) := match r.upload with | some (.workSet n i _) => [(n, i)] | _ => []

/-- The verdict on an upload (R115, R171, R367, R384): the roles of class E may send one; one that fails is refused. -/
def uploadCode (w : Asker) (u : Upload) : Nat :=
  if !(classAllows .e w.role true) || w.pk == 1 then stAccess
  else match u with
  | .workSet _ i signed => if signed && codeOk i && layoutOk i then stOk else stRefused
  | .golden _ signed => if signed then stOk else stRefused

/-- The signature check of R367 fails. -/
def unsigned : Upload → Bool
  | .workSet _ _ signed => !signed
  | .golden _ signed => !signed

/-- A refused upload: an image that fails R367 raises IMG_SIG (R384). -/
def State.refuseUpload (s : State) (w : Asker) (r : DictReq) (code : Nat) : State :=
  let s1 := if code = stRefused ∧ (r.upload.map unsigned).getD false then s.secEvent 0x16 .c 0 else s
  s1.answerAll w 2 r code

/-- A golden workload that passes is loaded. -/
def Dict.takeGolden (d : Dict) (r : DictReq) : Dict :=
  match r.upload with
  | some (.golden n _) => { d with golden := n :: d.golden.filter (· != n) }
  | _ => d

/-- Uploaded images enter a staged set. -/
def Dict.stageImages (d : Dict) (cid : Nat) (l : List (Nat × Image)) : Dict :=
  if l.isEmpty then d
  else { d with stagedImages := tset d.stagedImages cid (l.foldl (fun t e => tset t e.1 e.2) (tget [] d.stagedImages cid)) }

def State.doWrite (r : DictReq) (s : State) (w : Asker) : State :=
  if !(r.items.all framed) then s.answerBare w 2 r stBadLen else
  let codes := s.writeCodes w r.items
  let ws := goodWrites r.items codes
  let reply (codes : List Nat) : State :=
    s.answer w.pk 2 r.reqid ((codes.find? (· != 0)).getD 0) r.items.length r.cid (heads r.items (notApplied codes))
  if codes.any (· != 0) then reply codes
  else if s.isShadow && ws.any fun e => pairWide e.obj e.mem then
    reply (r.items.map fun i => if pairWide i.obj i.mem then stNotActive else 0)
  else if s.isShadow && !(imagesUp r).isEmpty then s.answerAll w 2 r stNotActive
  else if ws.any s.badState then s.answerAll w 2 r stBadState
  else
    let up := (r.upload.map (uploadCode w)).getD stOk
    if up ≠ stOk then s.refuseUpload w r up else
    let s1 := s.modDict fun d => d.takeGolden r
    if r.cid ≠ 0 then
      match s1.dict.stage r.cid none ws with
      | some d => { s1 with dict := d.stageImages r.cid (imagesUp r) }.answerAll w 2 r stStaged
      | none => s1.answerAll w 2 r stStageFull
    else s1.submit w 2 r { kind := .trans, writes := ws, images := imagesUp r }

/-- WRITE (R261, R262). -/
def execWrite (r : DictReq) (s : State) : Out := .next (s.request 2 r fun s w => s.doWrite r w)

/-- COMMIT (R261, R267): the roles of R255 hold for what the set writes. -/
def State.doCommit (r : DictReq) (s : State) (w : Asker) : State :=
  let ws := tget [] s.dict.staged r.cid
  let images := tget [] s.dict.stagedImages r.cid
  if r.cid = 0 ∨ (ws.isEmpty ∧ images.isEmpty) then s.answerBare w 3 r stNoCid
  else if !(ws.all fun e => match memberOf e.obj e.mem with | some a => s.mayAccess w e.obj e.mem a true | none => false) then
    s.answerBare w 3 r stAccess
  else if !images.isEmpty && uploadCode w (.golden 0 true) != stOk then s.answerBare w 3 r stAccess
  else if s.isShadow && (!images.isEmpty || ws.any fun e => pairWide e.obj e.mem) then s.answerBare w 3 r stNotActive
  else s.submit w 3 r { kind := .trans, cid := r.cid }

def execCommit (r : DictReq) (s : State) : Out := .next (s.request 3 r fun s w => s.doCommit r w)

/-- ABORT (R261): the set is empty at once. -/
def execAbort (r : DictReq) (s : State) : Out :=
  .next (s.request 4 r fun s w => (s.modDict fun d => d.unstage r.cid).answerBare w 4 r stOk)

/-! ### Scenes (R276-R281) -/

/-- The item of a recall or check names 0xD001:01 and a slot. -/
def slotCode (items : List Item) : Nat :=
  match items with
  | [i] => if i.obj ≠ 0xD001 then stNoObject else if i.mem ≠ 1 then stNoMember else if 64 ≤ i.elem then stElem else 0
  | _ => stBadLen

def itemSlot (items : List Item) : Nat := match items with | i :: _ => i.elem | [] => 0

/-- A role of class O or E writes (R256). -/
def mayScene (w : Asker) (a : Acc) : Bool := classAllows a w.role true && w.pk != 1

/-- SCENE_STORE names objects by spans (R277). -/
def storeCode (items : List Item) : Nat :=
  if items.isEmpty ∨ 16 < items.length then stBadLen
  else if items.any fun i => i.mem != 0 then stNoMember
  else if items.any fun i => i.ty != 0 then stType
  else if 64 ≤ itemSlot items then stElem else 0

/-- SCENE_STORE (R277, R264): answered PENDING. -/
def execSceneStore (r : DictReq) (s : State) : Out :=
  .next (s.request 6 r fun s w =>
    if storeCode r.items ≠ 0 then s.answerAll w 6 r (storeCode r.items)
    else if !(mayScene w .e) then s.answerAll w 6 r stAccess
    else if s.isShadow then s.answerAll w 6 r stNotActive
    else s.submit w 6 r { kind := .store, slot := itemSlot r.items, heads := r.items, origin := r.reqid, session := w.pk })

/-- SCENE_STORE_DONE (R277): the slot holds what was captured; the result enters the commit log. -/
def execSceneStoreDone (slot : Nat) (s : State) : Out :=
  let s0 := s.quiet
  let x := tget ({} : SceneSlot) s0.dict.slots slot
  match x.captured with
  | some es =>
    .next (if x.running then
      (s0.slotStored slot es).modDict fun d => d.logPut ⟨x.capturedTick, .store, x.origin, x.session, 0, if x.late then stLate else stOk⟩
    else s0)
  | none => .next s0

/-- SCENE_RECALL (R279): one commit unit. -/
def execSceneRecall (r : DictReq) (s : State) : Out :=
  .next (s.request 7 r fun s w =>
    if slotCode r.items ≠ 0 then s.answerAll w 7 r (slotCode r.items)
    else if !(mayScene w .o) then s.answerAll w 7 r stAccess
    else if s.isShadow then s.answerAll w 7 r stNotActive
    else s.submit w 7 r { kind := .recall, slot := itemSlot r.items, op := 7 })

/-- Every entry of a scene passes against the configuration in force (R280). -/
def State.scenePasses (s : State) (x : SceneSlot) : Bool := s.unitPasses s.dict.vals x.entries (s.time.tick + 2) false

/-- The end of a check (R280): a slot that passes takes the current generation; one that fails, now or before, stays refused until a new store. -/
def State.slotChecked (s : State) (k : Nat) : State :=
  let x := tget ({} : SceneSlot) s.dict.slots k
  let y := if !x.stale && s.scenePasses x then { x with running := false, gen := s.dict.generation } else { x with running := false, stale := true }
  (s.modDict fun d => { d with slots := tset d.slots k y }).slotToDram k

/-- SCENE_CHECK (R280, R264): answered PENDING, the check runs in its slot; while ticks do not run it is done at once (R271). -/
def execSceneCheck (r : DictReq) (s : State) : Out :=
  .next (s.request 8 r fun s w =>
    let k := itemSlot r.items
    let x := tget ({} : SceneSlot) s.dict.slots k
    if slotCode r.items ≠ 0 then s.answerAll w 8 r (slotCode r.items)
    else if !(mayScene w .e) then s.answerAll w 8 r stAccess
    else if s.isShadow then s.answerAll w 8 r stNotActive
    else if x.running then s.answerAll w 8 r stSceneBusy
    else if !x.valid then s.answerAll w 8 r stSceneEmpty
    else if !s.time.ticked then
      (s.slotChecked k).answerAll w 8 r (if (tget ({} : SceneSlot) (s.slotChecked k).dict.slots k).stale then stSceneStale else stOk)
    else (s.modDict fun d => { d with slots := tset d.slots k { x with
      running := true, captured := none, capturedTick := s.time.tick, origin := r.reqid, session := sessionOf w.pk } }).answerAll w 8 r stPending)

/-- SCENE_CHECK_DONE (R280): the result enters the commit log. -/
def execSceneCheckDone (slot : Nat) (s : State) : Out :=
  let s0 := s.quiet
  let x := tget ({} : SceneSlot) s0.dict.slots slot
  if !x.running ∨ x.captured.isSome then .next s0
  else
    let s1 := s0.slotChecked slot
    .next (s1.modDict fun d => d.logPut
      ⟨x.capturedTick, .trans, x.origin, x.session, 0, if (tget ({} : SceneSlot) s1.dict.slots slot).stale then stSceneStale else stOk⟩)

/-! ### Requests from the buffers (R259, R260, R549) -/

/-- The items of a plaintext: `n` of them; none where they do not add up to it or a WRITE item has no length. -/
def parseItems (op : Nat) : Nat → List Byte → Option (List Item)
  | 0, l => if l.isEmpty then some [] else none
  | n + 1, l =>
    if l.length < 16 then none
    else
      let obj := field l 0 2
      let m := field l 2 1
      let ty := field l 3 1
      let count := field l 6 2
      let len := if op = 2 then valueBytes obj m ty count else some 0
      match len with
      | none => none
      | some k =>
        let rest := l.drop 16
        if rest.length < 8 * ceilDiv k 8 then none
        else (parseItems op n (rest.drop (8 * ceilDiv k 8))).map fun t =>
          { obj := obj, mem := m, ty := ty, elem := field l 4 2, count := count, data := rest.take k } :: t

/-- The request of a plaintext of at least 24 bytes. -/
def parseReq (p : Path) (l : List Byte) : Nat × DictReq :=
  let op := field l 1 1
  let items := parseItems op (field l 12 2) (l.drop 24)
  (op, { path := p, ver := field l 0 1, reqid := field l 8 4, cid := field l 14 1, strict := bitAt (field l 15 1) 0, apply := field l 16 8
         lenOk := items.isSome && decide (field l 4 4 = 0), items := items.getD [] })

/-- The meaning of the operation with a code; a reserved code is BAD_OP (R261, R265). -/
def runOp (op : Nat) (r : DictReq) (s : State) : Out :=
  if op = 1 then execRead r s else if op = 2 then execWrite r s else if op = 3 then execCommit r s else if op = 4 then execAbort r s
  else if op = 5 then execDescribe r s else if op = 6 then execSceneStore r s else if op = 7 then execSceneRecall r s
  else if op = 8 then execSceneCheck r s
  else .next (s.request op r fun s w => s.answerBare w op r stBadOp)

end Sys2Proof.Machine
end

