-- ==== Sys2Proof/Machine/TwoWire.lean ====
section
/-! DEFINITION. The two-wire buses: TW0 as controller, TW1 as target (R534-R545, R552-R556, R558, R575). -/

namespace Sys2Proof.Machine

/-! ### TW0 (R536-R540, R553) -/

def State.modTw0 (s : State) (f : Tw0 → Tw0) : State := { s with tw0 := f s.tw0 }

/-- A try of the transaction failed: it is retried, or dropped with TW_RETRY_OUT when RETRY retries have failed (R539). -/
def State.tw0Fails (s : State) : State :=
  if s.tw0.retry ≤ s.tw0.tries then (s.modTw0 fun t => { t with cur := none, tries := 0 }).raiseT blkTw0 0x13 .u else s

/-- One try of the transaction in hand, as it goes on the bus (R536, R538, R539). -/
def State.tw0Try (s : State) (t : Tw0Out) : State :=
  let s1 := if t.stretched then (s.modTw0 fun x => { x with stretchIn := true }).raiseT blkTw0 0x11 .c else s
  match t.res with
  | .done =>
    let d := match s1.tw0.cur with | some j => b8 (2 * j.addr) :: j.data | none => []
    (s1.modTw0 fun x => { x with cur := none, tries := 0 }).emit (.bus d)
  | .arbLost byte bit =>
    ((s1.modTw0 fun x => { x with
      arbByte := byte % 256, arbBit := bit % 16, arbCount := stopAt 0xFFFF x.arbCount 1 }).raiseT blkTw0 0x10 .c).tw0Fails
  | .nack => (s1.raiseT blkTw0 0x12 .c).tw0Fails

/-- PWR's polls come before firmware requests (R537); with nothing of PWR's queued, the next request is one of the firmware's. -/
def Tw0.next (t : Tw0) : Tw0Job × List Tw0Job :=
  match t.queue.find? (·.fromPwr) with
  | some j => (j, t.queue.erase j)
  | none => match t.queue with
    | j :: q => (j, q)
    | [] => (⟨0, false, []⟩, [])

/-- TW0_TRANSACTION (R537): one at a time, once the bus is free. -/
def execTw0Transaction (t : Tw0Out) (s : State) : Out :=
  let s0 := s.quiet
  if s0.tw0.cur.isSome ∨ s0.resetting 8 ∨ !s0.domOn 1 then .next s0
  else
    let (j, q) := s0.tw0.next
    .next ((s0.modTw0 fun x => { x with cur := some j, queue := q, tries := 0, busBusy := false }).tw0Try t)

/-- TW0_RETRY (R539). -/
def execTw0Retry (t : Tw0Out) (s : State) : Out :=
  let s0 := s.quiet
  if s0.tw0.cur.isNone ∨ s0.resetting 8 ∨ !s0.domOn 1 then .next s0
  else .next ((s0.modTw0 fun x => { x with tries := x.tries + 1, busBusy := false }).tw0Try t)

/-- TW_TIMEOUT (R540): SCL was held low for STRETCH_TO. -/
def execTwTimeout (s : State) : Out :=
  let s0 := s.quiet
  .next (if s0.tw0.cur.isNone ∨ s0.resetting 8 then s0 else ((s0.modTw0 fun x => { x with busBusy := true }).raiseT blkTw0 0x14 .u).tw0Fails)

/-- TW_BUS_STUCK (R540): the clearance ends with SDA high and a STOP, or SDA is still low. -/
def execTwBusStuck (cleared : Bool) (s : State) : Out :=
  let s0 := s.quiet
  .next (if s0.resetting 8 ∨ !s0.domOn 1 then s0
    else if cleared then s0.modTw0 fun x => { x with stuck := false, busBusy := false }
    else (s0.modTw0 fun x => { x with stuck := true, busBusy := true }).raiseT blkTw0 0x15 .u)

/-! ### TW1 (R541-R545) -/

def State.modTw1 (s : State) (f : Tw1 → Tw1) : State := { s with tw1 := f s.tw1 }

/-- The dictionary and the proxied reads are not there: PD_FAB is off, or the engine is in Night (R543). -/
def State.tw1Away (s : State) : Bool := s.top.state == .night || !s.domOn 1

/-- Why a dictionary command of TW1 is turned away: 3 DENIED by closure, 6 NOT_NOW; 0 where it is not. -/
def State.tw1Gate (s : State) : Nat := if s.closed 4 then 3 else if s.tw1Away then 6 else 0

/-- A block whose window TW1 reaches in PD_AON: PWR and TW1 itself. -/
def aonBlock (addr : Nat) : Option Nat :=
  if addr / 65536 = 0x4001 then some blkPwr else if addr / 65536 = 0x4010 then some blkTw1 else none

/-- A read command returns STATUS, DATA and the PEC over the whole transaction. -/
def State.tw1Reply (s : State) (cmd : Nat) (req : List Byte) (out : List Byte) : State :=
  let whole := [b8 (2 * s.tw1.addr), b8 cmd] ++ req ++ [b8 (2 * s.tw1.addr + 1)] ++ out
  s.emit (.bus (out ++ [crc8 whole]))

/-- TW1_DENIED (R542). -/
def State.tw1Denied (s : State) (code : Nat) : State := if code = 3 then s.raiseT blkTw1 0x13 .c else s

/-- A REG_RD in PD_AON: a read of ATTN over TW1 clears both fields (R544, R555). -/
def State.tw1Aon (s : State) (b off : Nat) : State × Nat × Nat :=
  if off % 4 ≠ 0 ∨ !(regAssigned b off) then (s, 2, 0)
  else
    let v := s.regVal .dma b off
    let s1 := s.readEffect .dma b off 0 4
    (if b = blkTw1 ∧ off = 0x104 then s1.modTw1 fun t => { t with attnHw := 0, attnFw := 0, asked := false } else s1, 0, v)

/-- The register word, its STATUS, and the state after the read (R543). -/
def State.tw1Read (s : State) (addr : Nat) : State × Nat × Nat :=
  match aonBlock addr with
  | some b => s.tw1Aon b (addr % 65536)
  | none =>
    if s.closed 4 then (s, 3, 0)
    else if s.tw1Away then (s, 6, 0)
    else
      let (s1, v) := s.readOne (if s.fab.primary = 0 then .ctl0 else .ctl1) addr 4
      match v with
      | some n => (s1, 0, n)
      | none => (s1, 2, 0)

/-- TW1_REG_RD (R542, R543). -/
def execTw1RegRd (addr : Nat) (s : State) : Out :=
  let s0 := s.quiet
  if s0.resetting 9 then .next s0 else
  let (s1, code, v) := s0.tw1Read addr
  .next ((s1.tw1Denied code).tw1Reply 0x01 (beBytes 4 addr) (b8 code :: beBytes 4 v)).fresh

/-- A write-type command: PEC first, then what R543 says; the STATUS is kept for STAT (R542).  One cut off before its PEC does nothing and
raises TW_PROTO_ERR (R545). -/
def State.tw1Command (s : State) (fin : Tw1End) (f : State → State × Nat) : State :=
  if s.resetting 9 then s else
  match fin with
  | .cut => s.raiseT blkTw1 0x10 .c
  | .badPec => (s.modTw1 fun t => { t with lastStatus := 1 }).raiseT blkTw1 0x11 .c
  | .pec =>
    let (s1, code) := f s
    (s1.modTw1 fun t => { t with lastStatus := code }).tw1Denied code

/-- TW1_REG_WR (R543): PWR and TW1 only, and not PWR.FORCE. -/
def State.tw1Write (s : State) (addr : Nat) (v : Word) : State × Nat :=
  match aonBlock addr with
  | none => (s, 3)
  | some b =>
    let off := addr % 65536
    if b = blkPwr ∧ off = 0x14 then (s, 3)
    else if off % 4 ≠ 0 ∨ !(regAssigned b off) then (s, 2)
    else if slowReg b off then (match s.postSlow b off v with | some s1 => (s1, 0) | none => (s, 2))
    else (s.writeVal .dma b off v, 0)

def execTw1RegWr (addr : Nat) (val : Word) (fin : Tw1End) (s : State) : Out :=
  .next (s.quiet.tw1Command fin fun s => s.tw1Write addr val)

/-- STAT (R542). -/
def execStat (s : State) : Out :=
  let s0 := s.quiet
  .next (if s0.resetting 9 then s0
    else s0.tw1Reply 0x03 [] ([b8 s0.tw1.lastStatus, b8 s0.tw1.dstate] ++ beBytes 2 s0.tw1.resp.length))

/-- OP_WAKE (R543, R575): Dawn, from Night only. -/
def execOpWake (fin : Tw1End) (d : DawnBoot) (s : State) : Out :=
  .next (s.quiet.tw1Command fin fun s => if s.top.state = .night then (s.wakeDawn d, 0) else (s, 3))

/-- OP_RESUME (R543, R575): from Night standby, while no class F condition holds. -/
def execOpResume (fin : Tw1End) (d : DawnResult) (s : State) : Out :=
  .next (s.quiet.tw1Command fin fun s =>
    if s.top.state = .night ∧ !s.top.nightDeep ∧ !s.classFHolds then (s.resume d, 0) else (s, 3))

/-- TW1_BUF_WR (R542, R543, R545). -/
def State.tw1BufWr (s : State) (off : Nat) (data : List Byte) : State × Nat :=
  if s.tw1Gate ≠ 0 then (s, s.tw1Gate)
  else if s.tw1.dstate = 1 then (s, 3)
  else if data.isEmpty ∨ 64 < data.length ∨ 512 < off + data.length then (s, 4)
  else (s.modTw1 fun t => { t with req := memSetBytes t.req off data }, 0)

def execTw1BufWr (off : Nat) (data : List Byte) (fin : Tw1End) (s : State) : Out :=
  .next (s.quiet.tw1Command fin fun s => s.tw1BufWr off data)

/-- Why a TW1_DICT_GO is turned away (R542, R543, R545). -/
def State.tw1GoCode (s : State) (len : Nat) : Nat :=
  if s.tw1Gate ≠ 0 then s.tw1Gate else if s.tw1.dstate = 1 then 5 else if len < 24 ∨ 512 < len then 4 else 0

/-- TW1_DICT_GO (R543): the buffered request runs as Observer. -/
def execTw1DictGo (len : Nat) (fin : Tw1End) (s : State) : Out :=
  let s0 := s.quiet
  let s1 := s0.tw1Command fin fun s => (s, s.tw1GoCode len)
  if s0.resetting 9 ∨ fin ≠ .pec ∨ s0.tw1GoCode len ≠ 0 then .next s1
  else
    let (op, r) := parseReq .tw1 (memBytes s1.tw1.req 0 len)
    runOp op r (s1.modTw1 fun t => { t with dstate := 1, resp := [] })

/-- TW1_BUF_RD (R542, R543): STATUS, then the bytes of the response, zeros beyond it or unless OK. -/
def execTw1BufRd (off len : Nat) (s : State) : Out :=
  let s0 := s.quiet
  if s0.resetting 9 then .next s0 else
  let code := if s0.tw1Gate ≠ 0 then s0.tw1Gate else if len = 0 ∨ 64 < len ∨ 512 < off + len then 4 else 0
  let d := if code = 0 then (List.range len).map fun k => at? 0 s0.tw1.resp (off + k) else List.replicate (len % 256) 0
  .next ((s0.tw1Denied code).tw1Reply 0x12 (beBytes 2 off ++ beBytes 1 len) (b8 code :: d))

/-- TW1_TIMEOUT (R541). -/
def execTw1Timeout (s : State) : Out :=
  let s0 := s.quiet
  .next (if s0.resetting 9 then s0 else s0.raiseT blkTw1 0x12 .c)

/-- ATTN (R544, R554): SDA is pulled while a bit is set; with ATTN_REP 0, once. -/
def execAttn (s : State) : Out :=
  let s0 := s.quiet
  .next (if s0.resetting 9 ∨ !s0.tw1.pending ∨ (s0.tw1.attnRep = 0 ∧ s0.tw1.asked) then s0
    else (s0.modTw1 fun t => { t with asked := true }).emit (.pin 1 true))

/-- TW1_TIMING_SWITCH (R541, R556). -/
def execTw1TimingSwitch (s : State) : Out :=
  let s0 := s.quiet
  .next (s0.modTw1 fun t => { t with fast := s0.domOn 1 })

end Sys2Proof.Machine
end

