-- ==== Sys2Proof/Machine/HostPort.lean ====
section
/-! DEFINITION. HOSTP transactions (R546-R551, R557, R558). -/

namespace Sys2Proof.Machine

def State.modHostp (s : State) (f : Hostp → Hostp) : State := { s with hostp := f s.hostp }

/-- HP_FRAME (R548, R551, R557). -/
def State.hpFrameErr (s : State) : State :=
  (s.modHostp fun h => { h with frameErr := stopAt 0xFF h.frameErr 1 }).raiseT blkHostp 0x11 .c

/-- The event of a RESULT (R548). -/
def State.hpEvent (s : State) (code : Nat) : State :=
  if code = 3 then s.raiseT blkHostp 0x12 .c else if code = 4 then s.hpFrameErr else s

/-- RESULT, the data of an OK, and SCRC (R547). -/
def hpBytes (code : Nat) (data : List Byte) : List Byte :=
  let b := b8 code :: (if code = 0 then data else [])
  b ++ [crc8 b]

/-- One transaction: nothing is done before RCRC is complete and right; a RESULT that CS_N cuts off is lost (R547, R551). -/
def State.hpRun (s : State) (f : HpFrame) (act : State → State × Nat × List Byte) : State :=
  if s.resetting 10 ∨ !s.domOn 1 then s
  else if !f.complete then s.hpFrameErr
  else
    let (s1, code, data) :=
      if f.crcOk then act s
      else ((s.modHostp fun h => { h with crcErr := stopAt 0xFF h.crcErr 1 }).raiseT blkHostp 0x10 .c, 1, [])
    let s2 := s1.hpEvent code
    if f.answered then s2.emit (.bus (hpBytes code data)) else s2

/-- The values of the read beats among what a command put out. -/
def beatValues (l : List Emission) : List Nat := l.flatMap fun e => match e with | .data v => v | _ => []

/-- Read and error responses of the matrix: HOSTP's RESULT stands for them. -/
def isBeat (e : Emission) : Bool := match e with | .data _ => true | .busError => true | _ => false

/-- A burst of HOSTP: BUS_ERR if a beat failed, else the words read (R547). -/
def State.hpBurst (s : State) (b : BurstReq) : State × Nat × List Byte :=
  let s1 := match s.burstCause b with
    | some c => s.errBeats b c (List.range b.beats)
    | none => foldS (State.beat b) s (List.range b.beats)
  let s2 := { s1 with sent := s1.sent.filter fun e => !(isBeat e) }
  if s1.sent.contains .busError then (s2, 2, []) else (s2, 0, (beatValues s1.sent).flatMap (beBytes 4))

/-- With HOSTP closed, REG_RD reads the words of TOP.ID and SEC.LIFE only (R550). -/
def hpOpenWord (addr n : Nat) : Bool := n == 1 && (addr == regAddr blkTop 0 || addr == regAddr blkSec 0x100)

/-- HOSTP_REG_RD (R547, R550). -/
def execHostpRegRd (addr n : Nat) (f : HpFrame) (s : State) : Out :=
  .next (s.quiet.hpRun f fun s =>
    if n = 0 ∨ 16 < n then (s, 4, [])
    else if s.closed 3 && !(hpOpenWord addr n) then (s, 3, [])
    else s.hpBurst ⟨.hostp, addr, n, 4, false, []⟩)

/-- HOSTP_REG_WR (R547, R550). -/
def execHostpRegWr (addr : Nat) (data : List Word) (f : HpFrame) (s : State) : Out :=
  .next (s.quiet.hpRun f fun s =>
    if data.isEmpty ∨ 16 < data.length then (s, 4, [])
    else if s.closed 2 || s.closed 3 then (s, 3, [])
    else
      let (s1, code, _) := s.hpBurst ⟨.hostp, addr, data.length, 4, true, data.map (·.toNat)⟩
      (s1, code, []))

/-- STATUS (R547): DSTATE, RESP_LEN and the role HOSTP carries. -/
def execStatus (f : HpFrame) (s : State) : Out :=
  .next (s.quiet.hpRun f fun s => (s, 0, [b8 s.hostp.dstate] ++ beBytes 2 s.hostp.respLen ++ [b8 s.hostRole]))

/-- HOSTP_BUF_WR (R547, R551). -/
def execHostpBufWr (off : Nat) (data : List Byte) (f : HpFrame) (s : State) : Out :=
  .next (s.quiet.hpRun f fun s =>
    if data.isEmpty ∨ 8192 < off + data.length then (s, 4, [])
    else if s.hostp.dstate = 1 then (s, 3, [])
    else (s.modFab fun x => { x with ctrlSram := memSetBytes x.ctrlSram (0x1FC000 + off) data }, 0, []))

/-- HOSTP_BUF_RD (R547). -/
def execHostpBufRd (off len : Nat) (f : HpFrame) (s : State) : Out :=
  .next (s.quiet.hpRun f fun s =>
    if len = 0 ∨ 8192 < off + len then (s, 4, []) else (s, 0, memBytes s.fab.ctrlSram (0x1FE000 + off) len))

/-- Why a HOSTP_DICT_GO is turned away (R547, R551). -/
def State.hpGoCode (s : State) (len : Nat) : Nat := if len < 24 ∨ 8192 < len then 4 else if s.hostp.dstate = 1 then 5 else 0

/-- What a command put out comes before what another put out after it. -/
def prefixSent (l : List Emission) (o : Out) : Out :=
  match o with
  | .next t => .next { t with sent := l ++ t.sent }
  | other => other

/-- HOSTP_DICT_GO (R549): DSTATE becomes 1, and the request in the buffer runs with HOSTP's role. -/
def execHostpDictGo (len : Nat) (f : HpFrame) (s : State) : Out :=
  let s0 := s.quiet
  let s1 := s0.hpRun f fun s => (s, s.hpGoCode len, [])
  if s0.resetting 10 ∨ !s0.domOn 1 ∨ !f.complete ∨ !f.crcOk ∨ s0.hpGoCode len ≠ 0 then .next s1
  else
    let (op, r) := parseReq .hostp (memBytes s1.fab.ctrlSram 0x1FC000 len)
    prefixSent s1.sent (runOp op r (s1.modHostp fun h => { h with dstate := 1 }))

end Sys2Proof.Machine
end

