-- ==== Sys2Proof/Machine/Tags.lean ====
section
/-! DEFINITION. Control tags of accepted frames (R63-R69, R257, R273-R275, R365). -/

namespace Sys2Proof.Machine

/-- Where tags come from: context, reconstructed TICK, reference tick g of R66, and the media frame that carries them. -/
structure TagSrc where
  ctx : Nat
  base : Nat
  ref : Nat
  frame : Option (Nat × Nat) := none

/-- The tag addresses this engine (R65): every engine, a group it is a member of, or its own address. -/
def State.tagForUs (s : State) (t : Tag) : Bool :=
  if t.bcast then true
  else if t.group then t.target != 0xFFFF && (List.range 16).any fun e => s.cfg 0x0000 9 e == t.target
  else s.cfg 0x0000 6 == t.target

/-- The unit of a tag, with its apply tick (R66, R272). -/
def TagSrc.unit (w : TagSrc) (t : Tag) : CUnit :=
  let a := w.base + t.offset
  { kind := .tag, late := decide (a < w.ref + 2), ctx := w.ctx, pos := t.pos, origin := w.ctx * 2 ^ 16 + t.pos
    apply := if a < w.ref + 2 then w.ref + 2 else a, frame := w.frame }

/-- A unit of a tag joins those pending (R66, R68): a late one is counted or, with STRICT, discarded; 1,024 are held. -/
def State.queueTag (w : TagSrc) (t : Tag) (s : State) (u : CUnit) : State :=
  if u.late && t.strict then s.count w.ctx 14
  else if 1024 ≤ (s.dict.units.filter fromTag).length then s.raiseT blkCsw 0x11 .u
  else (if u.late then s.count w.ctx 13 else s).modDict fun d => { d with units := d.units ++ [u] }

/-- A tag that a check of R262, a reserved CID or a slot above 63 rejects; one that needs more than its role (R257, R273, R275). -/
def State.tagReject (s : State) (code : Nat) : State := s.modDict fun d => d.countUp (if code = stAccess then 4 else 3)

/-- The item of a PARAM_SET body (R273); none where TYPE is unknown or the values do not fit the body. -/
def paramItem (b : List Byte) : Option Item :=
  let obj := field b 0 2
  let m := field b 2 1
  let ty := field b 3 1
  match valueBytes obj m ty (field b 6 2) with
  | none => none
  | some n => if b.length < 16 + n then none else
      some { obj := obj, mem := m, ty := ty, elem := field b 4 2, count := field b 6 2, data := (b.drop 16).take n }

/-- PARAM_SET (R273, R267): checked, then queued for its apply tick, or staged at once, also by the lateness of R66; a SHADOW leaves pair-wide
members (R270). -/
def State.tagParam (w : TagSrc) (a : Asker) (t : Tag) (s : State) : State :=
  match paramItem t.body with
  | none => s.tagReject stType
  | some i =>
    let codes := s.writeCodes a [i]
    let ws := goodWrites [i] codes
    let code := at? 0 codes 0
    let cid := field t.body 8 1
    if s.isShadow && pairWide i.obj i.mem then s
    else if code ≠ 0 then s.tagReject code
    else if ws.any s.badState then s.tagReject stBadState
    else if cid = 0 then s.queueTag w t { w.unit t with writes := ws }
    else
      let u := w.unit t
      if u.late && t.strict then s.count w.ctx 14
      else
        let s1 := if u.late then s.count w.ctx 13 else s
        match s1.dict.stage cid (w.frame.map fun f => (w.ctx, f)) ws with
        | some d => { s1 with dict := d }
        | none => s1.modDict fun d => d.countUp 5

/-- COMMIT (R274, R257): the role holds for what the set writes; an empty set is counted at the seal. -/
def State.tagCommit (w : TagSrc) (a : Asker) (t : Tag) (s : State) : State :=
  let cid := field t.body 0 1
  let ws := tget [] s.dict.staged cid
  if cid = 0 ∨ t.body.length < 8 then s.tagReject stType
  else if !(ws.all fun e => match memberOf e.obj e.mem with | some i => s.mayAccess a e.obj e.mem i true | none => false) then s.tagReject stAccess
  else if !(tget [] s.dict.stagedImages cid).isEmpty && uploadCode a (.golden 0 true) != stOk then s.tagReject stAccess
  else if s.isShadow && (!(tget [] s.dict.stagedImages cid).isEmpty || ws.any fun e => pairWide e.obj e.mem) then s
  else s.queueTag w t { w.unit t with cid := cid }

/-- SCENE_RECALL (R275, R279). -/
def State.tagRecall (w : TagSrc) (a : Asker) (t : Tag) (s : State) : State :=
  let slot := field t.body 0 1
  if s.isShadow then s
  else if 63 < slot ∨ t.body.length < 8 then s.tagReject stType
  else if !(mayScene a .o) then s.tagReject stAccess
  else s.queueTag w t { w.unit t with kind := .recall, slot := slot }

/-- MARK (R67, R275): it enters the commit of its apply tick. -/
def State.tagMark (w : TagSrc) (t : Tag) (s : State) : State :=
  if s.isShadow then s
  else if t.body.length < 8 then s.tagReject stType
  else s.queueTag w t { w.unit t with mark := some (field t.body 0 4, field t.body 4 4) }

/-- SILENCE_MAP (R67): the silent channels of the frame's own tick; one without OFFSET 0 and BCAST is ignored (log 154). -/
def State.tagSilence (w : TagSrc) (nch : Nat) (t : Tag) (s : State) : State :=
  if t.offset = 0 ∧ t.bcast then
    s.setCtx w.ctx fun c => { c with silence :=
      (w.base, (w.frame.map (·.2)).getD 0, (List.range nch).map fun i => (at? 0#8 t.body (i / 8)).getLsbD (7 - i % 8)) :: c.silence }
  else s

/-- One decoded tag (R64, R65, R257). -/
def State.takeTag (w : TagSrc) (nch : Nat) (s : State) (t : Tag) : State :=
  let role := s.cfg (0x2000 + w.ctx) 20
  let a : Asker := ⟨2, role - 1⟩
  if role = 0 then s
  else if t.ttype = 0 ∨ 5 < t.ttype then s.count w.ctx 15
  else if !(s.tagForUs t) then s
  else if t.ttype = 1 then s.tagParam w a t
  else if t.ttype = 2 then s.tagCommit w a t
  else if t.ttype = 3 then s.tagRecall w a t
  else if t.ttype = 4 then s.tagSilence w nch t
  else s.tagMark w t

/-- The tag area of an accepted frame (R63-R65): only an OWNED engine accepts tags (R365). -/
def State.takeTags (w : TagSrc) (k : Kapo) (bytes : List Byte) (s : State) : State :=
  if s.sec.life ≠ 1 ∨ !k.tags then s else
  let (ts, bad) := tagsOf (bytes.drop 32) k.taglen
  let s1 := foldS (State.takeTag w k.nch) s ts
  if bad then s1.count w.ctx 16 else s1

end Sys2Proof.Machine
end

