-- ==== Sys2Proof/Machine/KapoIn.lean ====
section
/-! DEFINITION. The Kapo receive path: ordered checks, cut-through, authentication, merging, tick window, control and direct frames
(R46-R48, R54-R61, R87-R91, R94-R96, R378-R381, R567, R614, R617). -/

namespace Sys2Proof.Machine

/-- A Kapo frame behind the checks of its port: the port (a group by its head lane), the word of KP_SHORT among the port's counters,
whether mirror traffic may come in here, the arrival, the encapsulation and the bytes from the header on, whether the AUTH tag verifies, and
whether the port has already dropped the frame: its cut-through copies then end stomped, or are whole where the receive buffer had no room
(R88). -/
structure KapoRx where
  port : Nat
  cnt : Nat
  mirrorOk : Bool := false
  arrival : Nat
  enc : List Byte := []
  bytes : List Byte
  authOk : Bool
  drop : Option Bool := none

/-! ### Header checks (R60) -/

/-- Steps 2 to 8 of R60: the offset from KP_SHORT of the counter of the first check that fails. -/
def State.headerFails (s : State) (r : KapoRx) (k : Kapo) : Option Nat :=
  if r.bytes.length < 32 then some 0
  else if k.ver ≠ 1 then some 1
  else if !k.crcOk then some 2
  else if 1 < k.htype then some 3
  else if k.tags ≠ decide (0 < k.taglen) ∨ (k.htype = 0 ∧ (k.nch = 0 ∨ 256 < k.nch)) ∨ (k.htype = 1 ∧ (k.nch ≠ 0 ∨ k.direct)) ∨
    3 < k.fmt ∨ (!k.auth ∧ k.keyid ≠ 0) then some 4
  else if k.spt ≠ s.cfg 0x1000 2 then some 5
  else if k.mirror && !r.mirrorOk then some 6
  else none

/-- Step 10 of R60: the valid Kapo ingress context that accepts the sender's stream on the port; one that an uncorrectable word hides
is absent (R427). -/
def State.kapoCtx (s : State) (port : Nat) (k : Kapo) : Option Nat :=
  let v := s.dict.vals
  (ingressCtxs v).find? fun x =>
    ctxMode v x != 2 && (acceptsPairs v x).contains (k.engine * 4096 + k.stream) && !(s.csw.hidden.contains (.context x)) &&
      (ctxN v x 5 == port || (ctxMerge v x && ctxN v x 6 == port))

/-- The network of a port of a context. -/
def onNetB (v : Tab Val) (x port : Nat) : Bool := ctxMerge v x && ctxN v x 5 != port

/-! ### Cut-through (R87-R90, and R98 for the ticks a context forwards) -/

/-- Line rate of a port in Mb/s (R395, R407). -/
def State.portRate (s : State) (p : Nat) : Nat :=
  if 32 ≤ p then
    25000 * (match s.groupOfLane (p - 32) with | some g => Nat.max 1 (s.group g).active.length | none => 1)
  else match portN s.dict.vals p 4 with | 3 => 10000 | 4 => 25000 | _ => 1000

/-- The CUTTHRU contexts that forward the frame of context `x` with tick `n`: valid from their commit tick on, and until the commit tick
at which they cease to be. -/
def State.cutTargets (s : State) (x n : Nat) : List Nat :=
  let v := s.configAt (n + 1)
  let now := s.dict.vals
  (sortN ((objectsWith v 0x2000 0x2FFF 1).map (· - 0x2000))).filter fun y =>
    ctxEgress v y && ctxMode v y == 0 && ctxFwd v y == 2 && ctxN v y 26 == x &&
      (if ctxValid v y then !(ctxValid now y) || decide ((s.ctx y).validFrom ≤ n)
       else !(ctxValid now y) && decide ((s.ctx y).validFrom ≤ n) && decide (n < (s.ctx y).validTo))

/-- One copy: it keeps its network and gets the encapsulation of its own context; it is ended with an inverted frame check sequence when the
frame fails or exceeds the limit of the egress port, and a copy sent store-and-forward of a frame that failed is not started (R87-R90). -/
def State.cutCopy (x : Nat) (r : KapoRx) (failed : Bool) (s : State) (y : Nat) : State :=
  let v := s.dict.vals
  let b := onNetB v x r.port
  let p := ctxPort v y b
  let bytes := frameOverhead v y p - (if ctlBit v y 9 || ctlBit v y 10 then 48 else 32) + r.bytes.length
  let stomp := failed || decide (portLimit v p < bytes)
  if failed ∧ s.portRate r.port < s.portRate p then s else
  let n := Nat.min bytes (portLimit v p)
  let e := Emission.cut y b (s.cutEncap y b r.enc r.bytes) (r.bytes.take (r.bytes.length - (bytes - n))) stomp
  let s1 :=
    if p < 32 then s.sendMedia p n e
    else match s.groupOfLane (p - 32) with
      | some g => s.plSend g { vc := 0, len := n, out := some e }
      | none => s
  let s2 := s1.count y 0
  if stomp then s2.count y 18 else s2

/-- The copies of a frame whose header has passed (R88). -/
def State.cutCopies (s : State) (x n : Nat) (r : KapoRx) (failed : Bool) : State :=
  if !s.onAir then s else foldS (State.cutCopy x r failed) s (s.cutTargets x n)

/-! ### Authentication (R57, R60 step 11, R365, R378-R381) -/

/-- A slot holds the key of a tick. -/
def KeySlot.holds (x : KeySlot) (tick : Nat) : Bool := x.usesNext tick || !x.cur.isEmpty

/-- Step 11 of R60, for the tick that chooses the key. -/
def State.authPasses (s : State) (r : KapoRx) (x : Nat) (k : Kapo) (tick : Nat) : Bool :=
  if k.auth then
    r.authOk && s.sec.life == 1 && decide (1 ≤ k.keyid) && decide (k.keyid ≤ 1023) && (s.mediaKey k.keyid).holds tick &&
      (s.mediaKey k.keyid).serves tick k.tick
  else !(ctlBit s.dict.vals x 9) && k.htype != 1

/-- A frame accepted under a key counts toward its life (R380). -/
def State.authUse (s : State) (k : Kapo) (tick : Nat) : State :=
  if k.auth then s.setKey k.keyid fun y => y.use tick k.tick else s

/-! ### SEQ and TSTART (R58) -/

/-- The last SEQ of a sender, and the count of those missing. -/
def seqStep (last : Option Nat) (q : Nat) : Option Nat × Nat :=
  match last with
  | none => (some q, 0)
  | some l => if sdiff16 q l ≤ 0 then (some l, 0) else (some q, (sdiff16 q l).toNat - 1)

/-- SEQ_GAP, for the sender that the frame names. -/
def State.noteSeq (s : State) (x : Nat) (k : Kapo) : State :=
  let c := s.ctx x
  if k.engine = ctxN s.dict.vals x 9 then
    (s.setCtx x fun c => { c with seq0 := (seqStep c.seq0 k.seq).1 }).count x 6 (seqStep c.seq0 k.seq).2
  else (s.setCtx x fun c => { c with seq1 := (seqStep c.seq1 k.seq).1 }).count x 6 (seqStep c.seq1 k.seq).2

/-- TSTART_DEV: more than 1 µs from the engine's own value for the TICK. -/
def State.noteTstart (s : State) (x : Nat) (k : Kapo) (sample : Nat) : State :=
  let d := (BitVec.ofNat 64 k.tstart - BitVec.ofNat 64 (s.tstart sample)).toInt
  if absI d ≤ 1000 then s else s.count x 7

/-! ### Twins (R94-R96) -/

/-- The copy that came first, of a MERGE context. -/
def State.firstCopy (s : State) (x label : Nat) (epoch : Nat) : Option CopySeen :=
  if ctxMerge s.dict.vals x then (s.ctx x).copies.find? fun c => c.label == label && c.epoch == epoch else none

/-- A copy is noted. -/
def State.noteCopy (s : State) (x : Nat) (c : CopySeen) : State :=
  if ctxMerge s.dict.vals x then s.setCtx x fun d => { d with copies := d.copies ++ [c] } else s

/-- SKEW: more than SKEW_LIM after the first copy (R96). -/
def State.noteSkew (s : State) (x : Nat) (first arrival : Nat) : State :=
  if first + ctxN s.dict.vals x 15 * 1000000 < arrival then s.count x 11 else s

/-! ### Media frames (R46-R48) -/

/-- Samples with the channels of the context, from sample number `k0` on: those the frame lacks are open, the same on every engine (R31,
log 156). -/
def fitChannels (x nch k0 count : Nat) (d : TickData) : TickData :=
  if d.nch = nch then d else
  let open' (k c : Nat) : BitVec 32 := Config.lackingSample x (k0 + k) c
  let each {α : Type} (old : Nat → α) (new : Nat → Nat → α) : List α :=
    (List.range count).flatMap fun k => (List.range nch).map fun c => if c < d.nch then old (k * d.nch + c) else new k c
  { nch := nch, samples := each (at? 0 d.samples) fun k c => (open' k c).toInt
    side := if d.side.isEmpty then [] else each (at? 0 d.side) fun k c => (open' k c).toNat % 256 }

/-- A tick stream frame that is on time for tick c - 1, or early for c (R46, R48).  The early buffer holds frames of two EPOCHs, the higher ones
(R343), which meet when they are written to the bank.  With a frame come its tags. -/
def State.takeMedia (s : State) (x n : Nat) (k : Kapo) (r : KapoRx) (early : Bool) : State :=
  let body := r.bytes.drop (32 + 8 * k.taglen)
  let d := fitChannels x (ctxNch s.dict.vals x) (n * s.spt) s.spt (payloadData k.fmt k.nch s.spt body)
  let f : InForce := { tick := n, epoch := k.epoch, arrival := r.arrival, data := d, silent := k.silent }
  let tags (s : State) : State := s.takeTags ⟨x, n, n, some (n, k.epoch)⟩ k r.bytes
  let held := (s.ctx x).early.filter fun g => g.tick == n
  let low := held.find? fun g => held.all fun h => h.epoch == g.epoch || epochAbove h.epoch g.epoch
  let hold (s : State) : State := tags ((s.setCtx x fun c => { c with early := f :: c.early }).count x 3)
  if held.any fun g => g.epoch == k.epoch then s.count x 4
  else if early then
    match low with
    | some g =>
      if held.length < 2 then hold s
      else if epochAbove k.epoch g.epoch then
        hold (((s.setCtx x fun c => { c with early := c.early.filter (· != g) }).withdrawTags x n g.epoch).count x 4)
      else s.count x 4
    | none => hold s
  else
    let (s1, ok) := s.acceptFrame x f
    if ok then tags s1 else s1

/-- A frame that misses its window (R46, R47): LATE is 1, EARLY is 2. -/
def State.missWindow (s : State) (x n word : Nat) : State :=
  (s.setCtx x fun c => { c with dropped := if c.dropped.contains n then c.dropped else n :: c.dropped }).count x word

/-- Steps 12 and 13 for a tick stream: merging, the tick window, duplicates (R46-R48, R94-R96).  `full` is the frame's tick. -/
def State.mediaFrame (s : State) (x : Nat) (k : Kapo) (r : KapoRx) (full : Int) : State :=
  let c := s.time.tick
  let n := full.toNat
  let b := onNetB s.dict.vals x r.port
  let late := decide (full < c) && (decide (full + 1 < c) || s.pastCutoff n r.arrival)
  let early := decide ((c : Int) < full)
  let first := s.firstCopy x n k.epoch
  let s0 := match first with | some g => s.noteSkew x g.arrival r.arrival | none => s
  let s1 := s0.noteCopy x ⟨n, n, k.epoch, b, r.arrival, late || early, false⟩
  match first with
  | some g =>
    if !g.failed ∧ (!g.late ∨ late ∨ early) then s1.count x 5
    else if late then s1.missWindow x n 1
    else if early then s1.missWindow x n 2
    else s1.takeMedia x n k r (decide (full = c))
  | none =>
    if late then s1.missWindow x n 1
    else if early then s1.missWindow x n 2
    else s1.takeMedia x n k r (decide (full = c))

/-! ### Control frames (R66, R614) -/

/-- The tick whose cutoff is the first after an arrival (R66, R45). -/
def State.nextCutoff (s : State) (arrival : Nat) : Nat := if s.pastCutoff (s.time.tick - 1) arrival then s.time.tick else s.time.tick - 1

/-- A control frame: merged with its twin whenever it comes, in range, decoded (R614, log 120). -/
def State.controlFrame (s : State) (x : Nat) (k : Kapo) (r : KapoRx) (full : Int) : State :=
  let g := s.nextCutoff r.arrival
  let n := full.toNat
  let id := (k.engine, k.epoch, k.tick, k.seq)
  if ctxMerge s.dict.vals x ∧ (s.ctx x).ctlSeen.contains id then s.count x 5
  else if absI (sdiff32 k.tick (g % 2 ^ 32)) > 32768 then s.count x 9
  else
    let s1 := (if ctxMerge s.dict.vals x then s.setCtx x fun c => { c with ctlSeen := id :: c.ctlSeen } else s).count x 0
    s1.takeTags ⟨x, n, g, none⟩ k r.bytes

/-! ### Direct frames (R91) -/

/-- The grace of R91 is not over: the frame arrives before the instant of sample `n` + 1 plus GRACE. -/
def State.directOnTime (s : State) (n arrival : Nat) : Bool := decide (arrival * s.fs < (n + 1) * 1000000000000 + s.cfg 0x3001 1 * s.fs * 1000)

/-- A direct frame of sample `n`, on time: the first of an EPOCH, or one of a higher EPOCH, holds the sample (R48); the tags of a frame that is
dropped or displaced go with it (R60). -/
def State.holdDirect (s : State) (x n : Nat) (k : Kapo) (r : KapoRx) : State :=
  let d := fitChannels x (ctxNch s.dict.vals x) n 1 (payloadData k.fmt k.nch 1 (r.bytes.drop (32 + 8 * k.taglen)))
  let take (s : State) (word : Nat) : State :=
    ((s.modCsw fun c => { c with
      direct := ⟨x, n, k.epoch, d.samples, d.side⟩ :: c.direct.filter fun h => !(h.ctx == x && h.sample == n) }).count x word).takeTags
        ⟨x, n / s.spt, n / s.spt, some (n, k.epoch)⟩ k r.bytes
  match s.csw.direct.find? fun h => h.ctx == x && h.sample == n with
  | none => take s 0
  | some h => if epochAbove k.epoch h.epoch then take (s.withdrawTags x n h.epoch) 4 else s.count x 4

/-- A direct frame: merging, then the grace. -/
def State.directFrame (s : State) (x : Nat) (k : Kapo) (r : KapoRx) (full : Int) : State :=
  let n := full.toNat
  let late := decide (full < 0) || !(s.directOnTime n r.arrival)
  let first := s.firstCopy x n k.epoch
  let s0 := match first with | some g => s.noteSkew x g.arrival r.arrival | none => s
  let s1 := s0.noteCopy x ⟨n / s.spt, n, k.epoch, onNetB s.dict.vals x r.port, r.arrival, late, false⟩
  match first with
  | some g => if !g.failed ∧ (!g.late ∨ late) then s1.count x 5 else if late then s1.count x 1 else s1.holdDirect x n k r
  | none => if late then s1.count x 1 else s1.holdDirect x n k r

/-! ### The order of R60 -/

/-- The full number of a frame's TICK: of a tick, or of a sample in a direct frame (R39, R91). -/
def State.fullLabel (s : State) (k : Kapo) : Int := fullTick (if k.direct then s.firstSample s.time.tick else s.time.tick) k.tick

/-- A frame that a context has: authentication, then the checks of its kind.  A frame whose DIRECT flag does not fit the context's
MODE goes nowhere. -/
def State.ctxFrame (s : State) (x : Nat) (k : Kapo) (r : KapoRx) : State :=
  let full := s.fullLabel k
  let n := full.toNat
  let tick := if k.direct then n / s.spt else n
  let tickStream := ctxMode s.dict.vals x == 0
  if !(s.authPasses r x k tick) then
    let s1 := if tickStream then s.cutCopies x n r (ctlBit s.dict.vals x 9) else s
    let s2 := if k.htype = 0 then s1.noteCopy x ⟨tick, n, k.epoch, onNetB s.dict.vals x r.port, r.arrival, true, true⟩ else s1
    s2.count x 8
  else
    let s1 := if tickStream then s.cutCopies x n r false else s
    let s2 := ((s1.authUse k tick).noteSeq x k).noteTstart x k (if k.direct then n else n * s.spt)
    if k.htype = 1 then s2.controlFrame x k r full
    else if k.direct && !tickStream then s2.directFrame x k r full
    else if !k.direct && tickStream then s2.mediaFrame x k r full
    else s2

/-! ### Mirror frames (R341, R342) -/

/-- Bit `i` of bytes, the first in bit 7 of the first byte. -/
def bitOf (l : List Byte) (i : Nat) : Bool := bitAt (l.getD (i / 8) 0).toNat (7 - i % 8)

/-- The number of bytes of a record whose layout the spec gives, as far as its first bytes tell. -/
def State.recordLength (s : State) (ty : Nat) (b : List Byte) : Option Nat :=
  let v := s.dict.vals
  match ty with
  | 0 => some (516 + 2 * s.spt + 4 * field b (512 + 2 * s.spt) 4)
  | 1 => some 512
  | 2 =>
    let x := field b 0 4
    some (4 + (if ctxFmt v x = 3 then 5 else 4) * ctxNch v x * s.spt)
  | 3 => some (1024 * s.spt)
  | 5 | 7 => some 0
  | 6 => some 1
  | 8 => some (4 * ((egressCtxs v).length + 16))
  | _ => none

/-- A VERDICT from its bytes. -/
def State.verdictOf (s : State) (n : Nat) (b : List Byte) : VerdictRec :=
  let e := 516 + 2 * s.spt
  { tick := n, present := (List.range 4096).filter (bitOf b)
    directs := (directCtxs s.dict.vals).zipIdx.map fun p => (p.1, (List.range s.spt).map fun k => bitOf (b.drop 512) (s.spt * p.2 + k))
    epochs := (List.range (field b (512 + 2 * s.spt) 4)).map fun i => (field b (e + 4 * i) 2 % 4096, field b (e + 2 + 4 * i) 2) }

/-- A sample from 4 bytes. -/
def wordAt (b : List Byte) (o : Nat) : Int := (BitVec.ofNat 32 (field b o 4)).toInt

/-- A whole record reaches PAIR. -/
def State.takeRecord (s : State) (ty n epoch : Nat) (b : List Byte) : State :=
  match ty with
  | 0 => s.onVerdict (s.verdictOf n b)
  | 1 => s.onMiss n ((List.range 4096).filter (bitOf b))
  | 2 =>
    let x := field b 0 4
    let c := ctxNch s.dict.vals x * s.spt
    s.onRepair { tick := n, ctx := x, samples := (List.range c).map fun i => wordAt b (4 + 4 * i), side := (b.drop (4 + 4 * c)).map BitVec.toNat }
  | 3 => s.onTdm n ((List.range (256 * s.spt)).map fun i => (i, wordAt b (4 * i)))
  | 5 => s.onBeacon n epoch
  | 6 => s.onStatus { tick := n, inSync := bitAt (field b 0 1) 0, standby := bitAt (field b 0 1) 1, take := bitAt (field b 0 1) 2 }
  | 7 => s.onFence n epoch
  | 8 => s.onLynx { stage := n, crcs := (List.range ((egressCtxs s.dict.vals).length + 16)).map fun i => BitVec.ofNat 32 (field b (4 * i) 4) }
  | _ => s

/-- The parts of a record from part 0 on, as far as they are there. -/
def joinParts (l : List (Nat × Nat × Nat × List Byte)) (ty n : Nat) : Nat → Nat → List Byte
  | 0, _ => []
  | k + 1, i =>
    match l.find? fun p => p.1 == ty && p.2.1 == n && p.2.2.1 == i with
    | some p => p.2.2.2 ++ joinParts l ty n k (i + 1)
    | none => []

/-- A mirror frame that passed steps 1 to 9 of R60 goes to PAIR: under the mirror key alone (R377).  A record acts once its parts are there; those
whose layout the spec does not give come as rows of their own (log 201). -/
def State.mirrorFrame (s : State) (r : KapoRx) (k : Kapo) : State :=
  if !s.paired ∨ !k.auth ∨ !r.authOk ∨ k.keyid ≠ 0xFFFF then s else
  let ty := k.stream / 256
  let n := (fullTick s.time.tick k.tick).toNat
  let p := (ty, n, k.stream % 256, (r.bytes.drop 32).take (4 * s.spt * k.nch))
  let l := p :: s.pair.parts.filter fun q => !(q.1 == ty && q.2.1 == n && q.2.2.1 == p.2.2.1) && decide (s.time.tick < q.2.1 + 64)
  let b := joinParts l ty n l.length 0
  let others := l.filter fun q => !(q.1 == ty && q.2.1 == n)
  match s.recordLength ty b with
  | none => s.heardMirror
  | some len =>
    if len ≤ b.length ∧ !b.isEmpty then (s.heardMirror.modPair fun x => { x with parts := others }).takeRecord ty n k.epoch (b.take len)
    else s.heardMirror.modPair fun x => { x with parts := l }

/-- A reset of a function began in this tick. -/
def State.resetBegan (s : State) (f : Nat) : Bool := s.top.resets.any fun r => r.func == f && r.startTick == s.time.tick

/-- Steps 2 to 13 of R60.  A frame that its port dropped only ends its copies; before the first tick event a frame that passes step 9 is
other traffic (R567); mirror traffic goes to PAIR behind step 9 (R341); frames during a reset of CSW are dropped, and the copies that were in
progress as it began end stomped (R617, log 166). -/
def State.kapoFrame (s : State) (r : KapoRx) : State :=
  let k := kapoHeader r.bytes
  let short := decide (r.bytes.length < k.length s.spt)
  let cut (s : State) (stomp : Bool) : State :=
    match s.kapoCtx r.port k with
    | some x => if s.time.ticked ∧ !k.mirror ∧ ctxMode s.dict.vals x = 0 then s.cutCopies x (s.fullLabel k).toNat r stomp else s
    | none => s
  match s.headerFails r k with
  | some i => if r.drop.isSome ∨ s.resetting 6 then s else s.countPort r.port (r.cnt + i)
  | none =>
    if s.resetting 6 then (if s.resetBegan 6 then cut s true else s)
    else if r.drop.isSome then cut s (r.drop != some false || short)
    else if short then
      match s.kapoCtx r.port k with
      | some x =>
        if k.htype = 0 ∧ !k.direct ∧ s.time.ticked then
          (cut (s.noteCopy x ⟨(s.fullLabel k).toNat, (s.fullLabel k).toNat, k.epoch, onNetB s.dict.vals x r.port, r.arrival, true, true⟩) true).countPort
            r.port (r.cnt + 7)
        else (cut s true).countPort r.port (r.cnt + 7)
      | none => s.countPort r.port (r.cnt + 7)
    else if k.mirror then s.mirrorFrame r k
    else if !s.time.ticked then (if r.port < 32 then s.countPort r.port 20 else s)
    else match s.kapoCtx r.port k with
      | none => s.countPort r.port (r.cnt + 8)
      | some x => s.ctxFrame x k r

end Sys2Proof.Machine
end

