-- ==== Sys2Proof/Machine/Receive.lean ====
section
/-! DEFINITION. Reception at media ports: the ordered checks, RTP, PTP and flow control (R53, R71-R73, R94-R97, R292, R398-R403, R567). -/

namespace Sys2Proof.Machine

/-! ### Flow control (R401, R403) -/

/-- Size of the receive buffer of CONTROL or BULK. -/
def rxRoom (bulk : Bool) : Nat := if bulk then 196608 else 65536

def Port.occ (x : Port) (bulk : Bool) : Nat := if bulk then x.occBulk else x.occCtl
def Port.setOcc (x : Port) (bulk : Bool) (n : Nat) : Port := if bulk then { x with occBulk := n } else { x with occCtl := n }
def Port.xoff (x : Port) (bulk : Bool) : Bool := if bulk then x.xoffBulk else x.xoffCtl
def Port.setXoff (x : Port) (bulk b : Bool) : Port := if bulk then { x with xoffBulk := b } else { x with xoffCtl := b }
def Port.ignore (x : Port) (bulk : Bool) : Nat := if bulk then x.ignoreBulk else x.ignoreCtl

/-- Members of a port for CONTROL or BULK: PCP, HI and LO (R418). -/
def State.pcpOf (s : State) (p : Nat) (bulk : Bool) : Nat := s.cfg (0xC000 + p) (if bulk then 13 else 12)
def State.hiOf (s : State) (p : Nat) (bulk : Bool) : Nat := s.cfg (0xC000 + p) (if bulk then 18 else 16)
def State.loOf (s : State) (p : Nat) (bulk : Bool) : Nat := s.cfg (0xC000 + p) (if bulk then 19 else 17)

/-- A PFC frame with quanta for a class's PCP leaves the port; word 22 counts XOFF, 23 XON. -/
def State.sendPfc (s : State) (p : Nat) (bulk : Bool) (quanta : Nat) : State :=
  if !(s.port p).up then s
  else (s.sendMedia p 64 (.pfc p (s.pcpOf p bulk) quanta)).countPort p (if quanta = 0 then 23 else 22)

/-- With PFC_EN = 1 a port acts (R401). -/
def State.pfcOn (s : State) (p : Nat) (f : State → State) : State := if s.cfgOn (0xC000 + p) 15 then f s else s

/-- A frame enters the buffer of its class; at HI the port holds its partner off (R401). -/
def State.buffer (s : State) (p : Nat) (bulk : Bool) (n : Nat) : State :=
  let o := (s.port p).occ bulk + n
  let s1 := s.setPort p fun x => x.setOcc bulk o
  if s.cfgOn (0xC000 + p) 15 && !((s.port p).xoff bulk) && decide (s.hiOf p bulk ≤ o) then
    (s1.setPort p fun x => x.setXoff bulk true).sendPfc p bulk (s.cfg (0xC000 + p) 20)
  else s1

/-- PFC_XON (R401): the occupancy has fallen to `occ`; at LO or below, the hold ends. -/
def execPfcXon (port : Nat) (bulk : Bool) (occ : Nat) (s : State) : Out :=
  let s0 := s.quiet
  let x := s0.port port
  if x.occ bulk < occ then .next s0
  else
    let s1 := s0.setPort port fun y => y.setOcc bulk occ
    .next (if x.xoff bulk && decide (occ ≤ s0.loOf port bulk) then ((s1.setPort port fun y => y.setXoff bulk false).pfcOn port fun s => s.sendPfc port bulk 0) else s1)

/-- PFC_REFRESH (R401): the XOFF is sent again while the hold lasts; where an XON falls due, the XON goes out instead (R403). -/
def execPfcRefresh (port : Nat) (bulk : Bool) (s : State) : Out :=
  let s0 := s.quiet
  .next (if (s0.port port).xoff bulk && decide (s0.loOf port bulk < (s0.port port).occ bulk) then
    s0.pfcOn port (fun s => s.sendPfc port bulk (s.cfg (0xC000 + port) 20)) else s0)

/-- A received PFC frame (R403): one that pauses a PCP of neither class is ignored; quanta pause a class, 0 releases it. -/
def State.takePfc (s : State) (p arrival : Nat) (q : List (Nat × Nat)) : State :=
  if q.any fun e => e.2 != 0 && e.1 != s.pcpOf p false && e.1 != s.pcpOf p true then s.countPort p 25
  else
    foldS (fun (s : State) bulk =>
      match q.find? fun e => e.1 == s.pcpOf p bulk with
      | none => s
      | some e =>
        if e.2 = 0 then s.unpause p bulk
        else if arrival < 1000 * (s.port p).ignore bulk then s
        else s.setPort p fun x => x.setPaused bulk true) (s.countPort p 24) [false, true]

/-- PFC_STORM (R403): paused without a break for STORM ms; pauses are ignored for 1 s. -/
def execPfcStorm (port : Nat) (bulk : Bool) (s : State) : Out :=
  let s0 := s.quiet
  if !((s0.port port).paused bulk) ∨ !(s0.cfgOn (0xC000 + port) 21) then .next s0
  else
    let (s1, c) := s0.counterNow
    let until' := c / 2 ^ 32 + 1000000000
    let s2 := (s1.unpause port bulk).setPort port fun y => if bulk then { y with ignoreBulk := until' } else { y with ignoreCtl := until' }
    .next (s2.raiseAs (blkPort port) 0x14 .c port s2.tickDetail none)

/-- PFC_PAUSE_EXPIRY (R403): the quanta have run out. -/
def execPfcPauseExpiry (port : Nat) (bulk : Bool) (s : State) : Out :=
  .next (s.quiet.unpause port bulk)

/-! ### RTP (R71-R73, R81, R94-R96) -/

/-- The RTP ingress contexts that name the destination of a packet on a port, with the SSRC each asks for; address-table entries are those of the
present tick (R81). -/
def State.rtpNamed (s : State) (port : Nat) (q : RtpPacket) : List (Nat × Option Nat) :=
  let v := s.dict.vals
  ((ingressCtxs v).filter fun x => ctxMode v x == 2 && !(s.csw.hidden.contains (.context x))).flatMap fun x =>
    ((rtpMatches v s.live x).filter fun e => e.1 == port && e.2.1 == beBytes 2 q.dstPort ++ beBytes 16 q.dstIp).map fun e => (x, e.2.2)

/-- The context of a packet; the flag says that its SSRC is the one asked for. -/
def State.rtpCtx (s : State) (port : Nat) (q : RtpPacket) : Option (Nat × Bool) :=
  let l := s.rtpNamed port q
  match l.find? fun e => e.2 == none || e.2 == some q.ssrc with
  | some e => some (e.1, true)
  | none => l.head?.map fun e => (e.1, false)

/-- The samples of a packet, a list for each sample instant. -/
def rtpFrames (fmt nch : Nat) (l : List Byte) : List (List Int) :=
  (pieces (nch * fmtSize fmt) l.length l).map fun b => (pieces (fmtSize fmt) nch b).map (fromWire fmt)

/-- A sample instant of a packet in its tick. -/
def Ctx.placeRtp (c : Ctx) (n pos : Nat) (xs : List Int) : Ctx :=
  let t := (c.rtp.find? fun t => t.tick == n).getD ⟨n, []⟩
  { c with rtp := { t with got := tset t.got pos xs } :: c.rtp.filter fun t => t.tick != n }

/-- A complete tick reaches the gather bank (R73). -/
def State.rtpGather (s : State) (x n : Nat) : State :=
  match (s.ctx x).rtp.find? fun t => t.tick == n with
  | some t =>
    if rtpComplete s.spt t then
      s.gatherPut x n { nch := ctxNch s.dict.vals x, samples := (List.range s.spt).flatMap fun k => tget [] t.got k }
    else s
  | none => s

/-- The ticks and positions of a packet's samples, behind D_IN (R72, R73). -/
def State.rtpPlaces (s : State) (x : Nat) (q : RtpPacket) : List (Nat × Nat × List Int) :=
  let v := s.dict.vals
  let first := fullTick (s.firstSample s.time.tick) ((q.ts + 2 ^ 32 - ctxN v x 24 % 2 ^ 32) % 2 ^ 32)
  ((rtpFrames (ctxFmt v x) (ctxNch v x) q.payload).mapIdx fun i xs => (first + (i : Int), xs)).filterMap fun e =>
    if e.1 < 0 then none else some (e.1.toNat / s.spt + ctxN v x 16, e.1.toNat % s.spt, e.2)

/-- A packet that its context takes: its samples go to the ticks still open (R42, R45, R73); with none open it is late. -/
def State.placeRtp (s : State) (x arrival : Nat) (q : RtpPacket) : State :=
  let ps := s.rtpPlaces x q
  let live := ps.filter fun p => !(s.pastCutoff p.1 arrival)
  let ticks := sortN (live.map (·.1))
  if live.isEmpty then
    (s.setCtx x fun c => { c with dropped := sortN (ps.map (·.1) ++ c.dropped) }).count x 1
  else
    let s1 := s.setCtx x fun c => live.foldl (fun c p => c.placeRtp p.1 p.2.1 p.2.2) c
    foldS (fun (s : State) n => s.rtpGather x n) (s1.count x 0) ticks

/-- A packet lies outside the window of 64 sequence numbers that ends at the newest one of its context (R96, log 182). -/
def Ctx.behind (c : Ctx) (seq : Nat) : Bool := c.rtpNewest.any fun q => decide (sdiff16 seq q ≤ -64)

/-- A packet is noted; those 16,384 numbers behind the newest are past every twin. -/
def Ctx.seePacket (c : Ctx) (seq ts arrival : Nat) : Ctx :=
  let q := match c.rtpNewest with | some q => if 0 < sdiff16 seq q then seq else q | none => seq
  { c with rtpNewest := some q, rtpSeen := (seq, ts, arrival) :: c.rtpSeen.filter fun e => decide (-16384 < sdiff16 e.1 q) }

/-- An RTP packet (R71, R73, R94-R96, R567): of a MERGE context, a twin is merged whenever it comes, and a packet behind the window is late. -/
def State.rtpPacket (s : State) (port arrival : Nat) (q : RtpPacket) : State :=
  if s.resetting 6 then s
  else if !s.time.ticked then s.countPort port 20
  else match s.rtpCtx port q with
    | none => s.countPort port 20
    | some (x, ssrcOk) =>
      let v := s.dict.vals
      if q.ver ≠ 2 ∨ q.pt ≠ ctxN v x 18 ∨ !ssrcOk then s.count x 10
      else
        let b := onNetB v x port
        let s1 := foldS (fun (s : State) n => s.noteCopy x ⟨n, q.seq, 0, b, arrival, s.pastCutoff n arrival, false⟩) s
          (sortN ((s.rtpPlaces x q).map (·.1)))
        match (if ctxMerge v x then (s.ctx x).rtpSeen.find? fun e => e.1 == q.seq && e.2.1 == q.ts else none) with
        | some e => (s1.noteSkew x e.2.2 arrival).count x 5
        | none =>
          if ctxMerge v x && (s.ctx x).behind q.seq then s1.count x 1
          else (if ctxMerge v x then s1.setCtx x fun c => c.seePacket q.seq q.ts arrival else s1).placeRtp x arrival q

/-! ### PTP (R287, R292, R567) -/

/-- A receive timestamp, in units of 125 ps, less ASYM_RX of its port, in ps (R290, R291). -/
def State.rxStamp (s : State) (p stamp : Nat) : Int := 125 * (stamp : Int) - s.cfgI (0xC000 + p) 2 0

/-- A message of the engine's domain, on a port with PTP: the best master clock algorithm's choice, the first time step, the stored
metadata, and the answers to delay requests of the port's mechanism with the timestamp the message calls for.  Management GET and SET are dropped
and counted OTHER (log 126). -/
def State.ptpMessage (s : State) (port sof : Nat) (m : PtpMsg) : State :=
  let mine (d : Nat) : Bool := d == s.cfg 0x1200 2 && s.cfgOn 0x1200 5 port
  match m with
  | .announce best d => if mine d && best then s.modRef fun r => { r with ptpMaster := some port } else s
  | .sync master d =>
    if mine d && s.refsel.ptpMaster == some port && s.mayStep && !s.time.todSet && s.cfg 0x1001 1 == 0 then
      s.elapse.stepCounter ((s.elapse.time.counter : Int) + ((master : Int) - s.rxStamp port sof) * 2 ^ 32 / 1000).toNat
    else s
  | .delayReq d => if mine d && s.ptpMasterPort port && s.cfg 0x1200 8 == 0 then s.sendPtp port 9 0 0 (s.rxStamp port sof) [] else s
  | .delayResp _ => s
  | .pdelayReq d => if mine d && s.cfg 0x1200 8 == 1 then s.sendStamped port 3 10 else s
  | .tlv b d => if mine d then s.modRef fun r => { r with ptpTlv := b } else s
  | .management _ => s.countPort port 20

/-! ### The checks of R400 -/

/-- MAC control frames: PFC and PAUSE (R403, R406). -/
def macControl (b : RxBody) : Bool := match b with | .pfc _ => true | .pause => true | _ => false

/-- Port authentication (R406): a frame has a SecTAG and ICV under the key its association number names, and its packet number lies within
WINDOW of the highest one received under that key (log 172). -/
def State.pauthPasses (s : State) (p : Nat) (t : Option SecTag) : Bool :=
  if !(s.cfgOn (0xC300 + p) 1) then true
  else match t with
    | none => false
    | some t =>
      let x := s.portKey p
      let fresh (seen : Nat) : Bool := decide (seen < t.pn + s.cfg (0xC300 + p) 6)
      t.icvOk && ((t.an == x.an && !x.cur.isEmpty && fresh x.seenCur) || (t.an == x.nextAn && !x.next.isEmpty && fresh x.seenNext))

/-- The highest packet number received under the key that a SecTAG names. -/
def KeySlot.noteSeen (x : KeySlot) (t : SecTag) : KeySlot :=
  if t.an = x.an then { x with seenCur := Nat.max x.seenCur t.pn } else { x with seenNext := Nat.max x.seenNext t.pn }

/-- A frame that passed step 5 of R400 moves the replay window of its key. -/
def State.noteSecTag (s : State) (f : MediaFrame) : State :=
  match f.secTag with
  | some t => if s.cfgOn (0xC300 + f.port) 1 && !(macControl f.body) then s.setPortKey f.port fun x => x.noteSeen t else s
  | none => s

/-- Steps 4 to 7 of R400 for a frame of at most MAXLEN: the counter of the first check that fails. -/
def State.rxFails (s : State) (f : MediaFrame) : Option Nat :=
  let mac := macControl f.body
  if f.fcs ≠ .ok ∨ f.pcsError then some (if f.fcs = .inverted ∧ !f.pcsError then 35 else 8)
  else if !mac && !(s.pauthPasses f.port f.secTag) then some 30
  else if !mac && !(match f.cls with
      | .media => f.mediaRoom
      | .control => decide ((s.port f.port).occ false + f.len ≤ rxRoom false)
      | .bulk => decide ((s.port f.port).occ true + f.len ≤ rxRoom true)) then some 9
  else if !f.ipHdrOk then some 21
  else none

/-- What Kapo checking sees of a frame. -/
def kapoOf (f : MediaFrame) (enc bytes : List Byte) (authOk : Bool) (drop : Option Bool) : KapoRx :=
  { port := f.port, cnt := 10, arrival := f.arrival, enc := enc, bytes := bytes, authOk := authOk, drop := drop }

/-- A frame that failed step 3, 4 or 5 ends the cut-through copies its header started; one without room in the buffer does not (R88,
R400).  RX_OVF is raised. -/
def State.rxDrop (s : State) (f : MediaFrame) (word : Nat) : State :=
  let s1 := s.countPort f.port word
  let s2 := if word = 9 then s1.raiseAs (blkPort f.port) 0x13 .c f.port s1.tickDetail none else s1
  match f.body with
  | .kapo enc b a => if word = 21 ∨ !(s2.namesKapo enc) then s2 else s2.kapoFrame (kapoOf f enc b a (some (word != 9)))
  | _ => s2

/-- An address that a port answers to: its IPv4 or its IPv6 address (R397). -/
def State.ownAddress (s : State) (p : Nat) (dst : List Byte) : Bool := dst == s.srcIp4 p || dst == s.srcIp6 p

/-- A multicast group, 16 bytes with IPv4 in bytes 12 to 15 (R418), of one of the two families. -/
def groupOf (ip6 : Bool) (a : List Byte) : Bool :=
  if ip6 then field a 0 1 == 0xFF
  else (a.take 12).all (· == 0) && decide (224 ≤ field a 12 1) && decide (field a 12 1 < 240)

/-- The groups a port reports (R397): the multicast destinations of its RTP ingress contexts, and those of JOIN. -/
def State.portGroups (s : State) (p : Nat) (ip6 : Bool) : List (List Byte) :=
  let v := s.dict.vals
  let named := (ingressCtxs v).flatMap fun x =>
    if ctxMode v x = 2 ∧ bitsOf (ctxN v x 1) 6 2 = (if ip6 then 2 else 1) then
      ((rtpMatches v s.live x).filter fun e => e.1 == p).map fun e => e.2.1.drop 2
    else []
  ((named ++ (List.range 64).map fun i => cfgB v (0xC000 + p) 30 i).filter (groupOf ip6)).dedup

/-- The length of a membership report for `n` groups: IGMPv3 behind an IPv4 header with the router alert, MLDv2 behind an IPv6 header with
a hop-by-hop header (log 106). -/
def reportLen (ip6 : Bool) (n : Nat) : Nat := if ip6 then 18 + 40 + 8 + 8 + 20 * n else 18 + 24 + 8 + 8 * n

/-- The handlers of R400; a frame is Kapo by the configured EtherType or UDP port, and so is the first fragment of one (R53, R60 step 1). -/
def State.rxHandle (s : State) (f : MediaFrame) : State :=
  match f.body with
  | .kapo enc b a => if s.namesKapo enc then s.kapoFrame (kapoOf f enc b a none) else s.countPort f.port 20
  | .fragment udp => s.countPort f.port (if udp = some (s.cfg 0xC100 1) then 19 else 20)
  | .rtp q => s.rtpPacket f.port f.arrival q
  | .ptp m => s.ptpMessage f.port f.sof m
  | .pfc q => s.takePfc f.port f.arrival q
  | .pause => s.countPort f.port 26
  | .datagram => s
  | .owl udp m ok => if udp = s.cfg 0xB000 11 ∧ ok then s.owlMessage m f.arrival else s
  | .query dst => if s.ownAddress f.port dst then s.sendClass f.port false f.len (.answer f.port) else s
  | .membership ip6 =>
    let gs := s.portGroups f.port ip6
    s.sendClass f.port false (reportLen ip6 gs.length) (.report f.port gs)
  | .other => s.countPort f.port 20

/-- MEDIA_FRAME_RX (R400). -/
def execMediaFrameRx (g : MediaFrame) (s : State) : Out :=
  let s0 := s.quiet
  let f := { g with arrival := (s0.rxStamp g.port g.arrival).toNat, cls := g.body.cls.getD g.cls }
  let p := f.port
  .next (if !(s0.port p).up then s0
  else if !f.smdOk then s0.countPort p 29
  else if f.len < 64 then s0.countPort p 6
  else if s0.cfg (0xC000 + p) 9 < f.len then
    let s1 := s0.rxDrop f 7
    if s0.cfgOn (0xC000 + p) 10 && decide ((s0.port p).occ true + s0.cfg (0xC000 + p) 9 ≤ rxRoom true) then
      s1.buffer p true (s0.cfg (0xC000 + p) 9)
    else s1
  else match s0.rxFails f with
    | some w => (if w = 9 ∨ w = 21 then s0.noteSecTag f else s0).rxDrop f w
    | none =>
      let s1 := ((s0.noteSecTag f).countRx p f.len).countPort p 28 f.frags
      let s2 := if macControl f.body then s1 else match f.cls with
        | .media => s1
        | .control => s1.buffer p false f.len
        | .bulk => s1.buffer p true f.len
      s2.rxHandle f)

end Sys2Proof.Machine
end

