-- ==== Sys2Proof/Machine/Links.lean ====
section
/-! DEFINITION. Links of ports, and peer-link groups: frames, credits, replay and lanes (R395, R396, R404, R407-R416, R421, R424). -/

namespace Sys2Proof.Machine

/-! ### Groups (R407-R413) -/

/-- CREDIT goes out (R407, R410): a VC, credits returned, and as ACK the next FSEQ expected. -/
def State.giveCredit (s : State) (g vc n : Nat) : State := s.emit (.block g 0x4B [vc, n, (s.group g).rxSeq])

/-- A group starts (R410): from empty, it announces its full credit. -/
def State.startGroup (s : State) (g : Nat) : State :=
  let s1 := s.setGroup g fun x => { x.drained with state := 1 }
  foldS (fun (s : State) vc => s.giveCredit g vc 4096) s1 [0, 1, 2]

/-- NAK names the FSEQ expected (R411). -/
def State.sendNak (s : State) (g : Nat) : State :=
  ((s.setGroup g fun x => { x with nakSent := true }).emit (.block g 0x2D [(s.group g).rxSeq])).countPort (32 + s.groupHead g) 17

/-- The frame check of R409. -/
def pcrcOk (b : List Byte) : Bool := decide (12 ≤ b.length) && field b (b.length - 4) 4 == (crc32c (b.take (b.length - 4))).toNat

/-- The header check of R409: VER, VC, LEN, and the MIRROR flag of the Kapo frame. -/
def plHeaderOk (b : List Byte) : Bool :=
  let vc := field b 0 1 % 16
  field b 0 1 / 16 == 1 && decide (vc ≤ 2) && field b 2 2 == b.length && decide (b.length ≤ 9600) &&
    (bitAt (field b 9 1) 3 == (vc != 0))

/-- A discarded frame gives its credits back; a NAK asks for it, once (R411). -/
def State.discardPl (s : State) (g : Nat) (b : List Byte) : State :=
  let s1 := s.giveCredit g (field b 0 1 % 16) (ceilDiv b.length 64)
  if (s.group g).nakSent then s1 else s1.sendNak g

/-- What Kapo checking sees of a peer-link frame: step 1 counts as passed, mirror traffic comes in on the mirror group (R409, R416). -/
def State.plKapo (s : State) (f : PeerFrame) (drop : Option Bool) : KapoRx :=
  { port := 32 + s.groupHead f.group, cnt := 8, mirrorOk := f.group == s.cfg 0xB000 4 && s.cfgOn 0xB000 1, arrival := 125 * f.arrival
    bytes := (f.bytes.take (f.bytes.length - 4)).drop 8, authOk := f.authOk, drop := drop }

/-- PEER_LINK_FRAME_RX (R409, R411). -/
def execPeerLinkFrameRx (f : PeerFrame) (s : State) : Out :=
  let s0 := s.quiet
  let g := f.group
  let h := 32 + s0.groupHead g
  let x := s0.group g
  .next (if x.state = 0 then s0
  else if !(pcrcOk f.bytes) then
    let s1 := (s0.countPort h 6).discardPl g f.bytes
    if x.nakSent then s1 else s1.kapoFrame (s1.plKapo f (some true))
  else if field f.bytes 4 2 ≠ x.rxSeq then s0.discardPl g f.bytes
  else
    let s1 := s0.setGroup g fun y => { y with rxSeq := (y.rxSeq + 1) % 2 ^ 16, nakSent := false }
    let s2 := s1.giveCredit g (field f.bytes 0 1 % 16) (ceilDiv f.bytes.length 64)
    if !(plHeaderOk f.bytes) then s2.countPort h 7
    else
      let s3 := s2.countRx h f.bytes.length
      s3.kapoFrame (s3.plKapo f none))

/-- FSEQ values an ACK or NAK for `a` covers (R411). -/
def covers (a fseq : Nat) : Bool := decide (0 < sdiff16 a fseq)

/-- CREDIT (R410, R411): credits come back, acknowledged frames leave the replay buffer, waiting frames start; the first one brings a
starting group up. -/
def execCredit (group vc credits ack : Nat) (s : State) : Out :=
  let s0 := s.quiet
  if (s0.group group).state = 0 then .next s0
  else
    let s1 := s0.setGroup group fun x => { x with
      credit := listSet x.credit vc (stopAt 4096 (at? 0 x.credit vc) credits), replay := x.replay.filter fun f => !(covers ack f.fseq)
      state := if x.state = 1 then (if x.active.length = (s0.groupLanes group).length then 2 else 3) else x.state }
    .next (s1.plServe group)

/-- NAK (R411): the frames from the FSEQ it names on go out again, in order; one sent again 4 times waits for the drain of R415. -/
def execNak (group fseq : Nat) (s : State) : Out :=
  let s0 := s.quiet
  let x := s0.group group
  if x.state = 0 then .next s0
  else
    let s1 := s0.countPort (32 + s0.groupHead group) 18
    let again := x.replay.filter fun f => !(covers fseq f.fseq)
    if again.any fun f => decide (4 ≤ f.replays) then .next s1
    else
      let s2 := s1.setGroup group fun y => { y with
        replay := [], txSeq := if again.isEmpty then y.txSeq else fseq
        waiting := again.map (fun f => { f with replays := f.replays + 1 }) ++ y.waiting }
      .next (s2.plServe group)

/-- LANECTL DRAIN received (R415). -/
def execLanectlDrain (group : Nat) (s : State) : Out :=
  let s0 := s.quiet
  .next (if (s0.group group).state = 0 then s0 else s0.drainGroup group)

/-- GROUP_DRAIN (R415): frames have waited CREDIT_TO without credit, or a frame has been sent again 4 times without an ACK. -/
def execGroupDrain (group : Nat) (s : State) : Out :=
  let s0 := s.quiet
  let x := s0.group group
  .next (if x.state ≠ 0 ∧ (!x.waiting.isEmpty ∨ x.replay.any fun f => decide (4 ≤ f.replays)) then s0.drainGroup group else s0)

/-! ### Lanes (R408, R413) -/

/-- A lane joins a running group at its marker. -/
def State.joinLanes (s : State) (g : Nat) (mask : Nat) : State :=
  let new := (s.groupLanes g).filter fun q => bitAt mask q
  let s1 := s.setGroup g fun x => { x with active := sortN (new ++ x.active), adding := none }
  (foldS (fun (s : State) q => s.setPort (32 + q) fun x => { x with up := true }) s1 new).settleGroup g

/-- ALIGN (R408, R413): a new marker count; a lane without the one before has missed it; a lane named by an ADD joins at its marker. -/
def execAlign (group lane marker : Nat) (bipOk : Bool) (s : State) : Out :=
  let s0 := s.quiet
  let x := s0.group group
  let s1 := if x.marker = marker then s0 else
    let missed := x.active.filter fun q => tget x.marker x.marks q != x.marker
    foldS (fun (s : State) q => s.countPort (32 + q) 23) (s0.setGroup group fun y => { y with marker := marker }) missed
  let s2 := s1.setGroup group fun y => { y with marks := tset y.marks lane marker }
  let s3 := if bipOk then s2 else s2.countPort (32 + lane) 22
  .next (match x.adding with
    | some (mask, m) => if m = marker then s3.joinLanes group mask else s3
    | none => s3)

/-- A LANECTL ACK goes out (R407). -/
def State.ackLanes (s : State) (g mask marker : Nat) : State := s.emit (.block g 0x66 [3, mask, marker])

/-- LANECTL REMOVE received (R413): both ends stop dealing blocks to the lane at once. -/
def execLanectlRemove (group mask : Nat) (s : State) : Out :=
  let s0 := s.quiet
  let go := (s0.group group).active.filter fun q => bitAt mask q
  let s1 := s0.setGroup group fun x => { x with active := x.active.filter fun q => !(bitAt mask q) }
  let s2 := foldS (fun (s : State) q => (s.setPort (32 + q) fun x => { x with up := false }).countPort (32 + q) 24) s1 go
  .next ((s2.ackLanes group mask 0).settleGroup group)

/-- LANECTL ADD received (R413): the lanes join at the marker it names. -/
def execLanectlAdd (group mask marker : Nat) (s : State) : Out :=
  .next ((s.quiet.setGroup group fun x => { x with adding := some (mask, marker) }).ackLanes group mask marker)

/-- LANECTL ACK received (R407): it acknowledges; nothing more follows from it. -/
def execLanectlAck (_group _mask : Nat) (s : State) : Out := .next s.quiet

/-- A lane is lost (R413): REMOVE with a NAK, LANE_LOST, and GROUP_DOWN below MIN_LANES. -/
def State.loseLane (s : State) (g q : Nat) : State :=
  if !((s.group g).active.contains q) then s
  else
    let s1 := if (s.group g).state = 0 then s else s.sendNak g
    ((s1.countPort (32 + q) 24).raiseAs (blkPort (32 + q)) 0x17 .c q q none).removeLanes g [q]

/-- LANE_LOST (R413). -/
def execLaneLost (group lane : Nat) (s : State) : Out := .next (s.quiet.loseLane group lane)

/-! ### Links (R395, R396, R404, R421, R424) -/

/-- A usable lane: it starts its group with MIN_LANES, or is added to a running one by LANECTL ADD at a named marker. -/
def State.laneUsable (s : State) (g q : Nat) : State :=
  let x := s.group g
  if x.active.contains q then s
  else if x.state = 0 then
    let s1 := s.joinLanes g (2 ^ q)
    if (s1.group g).active.length < s.cfg (0xC200 + g) 2 then s1
    else (s1.startGroup g).raiseAs (blkPort (32 + s.groupHead g)) 0x10 .c g g none
  else (s.setGroup g fun y => { y with adding := some (2 ^ q, x.marker + 2) }).emit (.block g 0x66 [2, 2 ^ q, x.marker + 2])

/-- A port may carry a link: enabled, with a mode, its domain on, and not in reset. -/
def State.portLive (s : State) (p : Nat) : Bool :=
  s.cfgOn (0xC000 + p) 5 && (decide (32 ≤ p) || s.cfg (0xC000 + p) 4 != 0) && s.funcOn (0x40 + p) &&
    !(s.resetting (0x40 + p))

/-- LINK_UP (R395, R404, R413): an SGMII PHY at 10 or 100 Mb/s leaves the link down and counts LINK_SPEED. -/
def execLinkUp (port : Nat) (verified speedOk : Bool) (s : State) : Out :=
  let s0 := s.quiet
  .next (if !(s0.portLive port) then s0
  else if 32 ≤ port then (match s0.groupOfLane (port - 32) with | some g => s0.laneUsable g (port - 32) | none => s0)
  else if s0.cfg (0xC000 + port) 4 = 2 ∧ !speedOk then s0.countPort port 34
  else if (s0.port port).up then s0
  else
    let pre := s0.cfgOn (0xC000 + port) 22 && (!(s0.cfgOn (0xC000 + port) 23) || verified)
    (s0.setPort port fun x => { x with up := true, preempt := pre }).raiseAs (blkPort port) 0x10 .c port s0.tickDetail none)

/-- LINK_DOWN (R395, R423). -/
def execLinkDown (port : Nat) (s : State) : Out :=
  let s0 := s.quiet
  .next (if 32 ≤ port then (match s0.groupOfLane (port - 32) with | some g => s0.loseLane g (port - 32) | none => s0)
  else s0.dropLink port)

/-- FEC_DEGRADE (R396): the codewords of the second are counted. -/
def execFecDegrade (port corr uncorr : Nat) (s : State) : Out :=
  let s0 := s.quiet
  .next (if s0.cfg (0xC000 + port) 4 = 4 then
    ((s0.countPort port 31 corr).countPort port 32 uncorr).raiseAs (blkPort port) 0x12 .c port s0.tickDetail none
  else s0)

/-- PREEMPT_FAIL (R404): frames are sent whole. -/
def execPreemptFail (port : Nat) (s : State) : Out :=
  let s0 := s.quiet
  .next (if (s0.port port).up ∧ s0.cfgOn (0xC000 + port) 22 ∧ s0.cfgOn (0xC000 + port) 23 then
    (s0.setPort port fun x => { x with preempt := false }).raiseAs (blkPort port) 0x15 .c port s0.tickDetail none
  else s0)

/-- EYE_MEASURE (R421): LOW keeps the least since the last full reset; a lane below MARGIN_MIN leaves its group (R413). -/
def execEyeMeasure (port eye : Nat) (s : State) : Out :=
  let s0 := s.quiet
  let e := eye % 2 ^ 16
  let s1 := s0.setPort port fun x => { x with eye := e, low := if x.measured then Nat.min x.low e else e, measured := true }
  .next (if 32 ≤ port ∧ e < s0.cfg (0xC000 + port) 31 then
    let s2 := s1.raiseAs (blkPort port) 0x16 .c port s0.tickDetail none
    match s2.groupOfLane (port - 32) with | some g => s2.loseLane g (port - 32) | none => s2
  else s1)

end Sys2Proof.Machine
end

