-- ==== Sys2Proof/Machine/TdmPorts.lean ====
section
/-! DEFINITION. TDM ports: frames, and the loss of frame sync (R70, R325, R340, R345, R484, R590, R599, R600). -/

namespace Sys2Proof.Machine

def State.tdmPort (s : State) (p : Nat) : TdmPort := tget {} s.tdm.ports p
def State.setTdm (s : State) (p : Nat) (f : TdmPort → TdmPort) : State := { s with tdm := { s.tdm with ports := tmod {} s.tdm.ports p f } }

/-- A TDM port runs: its domain is on and it is not held in reset. -/
def State.tdmRuns (s : State) (p : Nat) : Bool := s.domOn 1 && !(s.resetting (0x70 + p))

/-- The aligned outputs of the tick of PROCESS, as far as their inputs are there: a TDM port drives their words in that tick (R70, R222, log 193). -/
def State.alnAhead (s : State) (n : Nat) : State :=
  if n = s.csw.proc then foldS (fun (s : State) o => s.runAln n (s.resetting 4 || s.csw.idle.contains blkAln) o) s (sortN (s.aln.outs.map (·.1)))
  else s

/-- The words a port drives in the frame of sample `k`: those with the label before it, a frame after their label instant (R70); zero
words where no audio leaves (R325, R599), or where the port or CSW takes no part in the tick (R20). -/
def State.tdmDrive (s : State) (p k : Nat) : List Int :=
  let l := k - 1
  if s.emitting ∧ 2 * s.spt ≤ l ∧ !s.csw.idle.contains (islTdm p) ∧ !s.csw.idle.contains blkCsw then
    (s.alnAhead (l / s.spt - 2)).tdmWords (l / s.spt - 2) p (l % s.spt)
  else zeros s.tdmSlots

/-- The inputs of a port count as zero: frame sync lost, or a DARS input, which carries no audio (R294, R484). -/
def State.tdmMute (s : State) (p : Nat) : Bool := (s.tdmPort p).lostNow || s.tdmDars p

/-- Input words, complete one sample after their frame sync, enter the gather bank of that sample's tick (R41, R70). -/
def State.tdmGather (s : State) (p k : Nat) (words : List Int) : State :=
  let n := (k + 1) / s.spt
  foldS (fun (s : State) slot =>
    let ch := p * 16 + slot
    let x := if s.tdmMute p then 0 else at? 0 words slot
    let d := tget { nch := 1, samples := [] } s.csw.gather (bankKey n (tdmIndex ch))
    (s.modCsw fun c => { c with gather := tset c.gather (bankKey n (tdmIndex ch)) { d with samples := putAt d.samples ((k + 1) % s.spt) x } }).wakeReaders
      n 1 ch [x]) s (List.range s.tdmSlots)

/-- Frame sync against the BCLK count: SYNC while it fits, SLIPS for each misplaced one, and the runs of R484. -/
def TdmPort.check (x : TdmPort) (k : Nat) (fsOk : Bool) : TdmPort :=
  if fsOk then { x with good := x.good + 1, bad := 0, sync := x.sync || !x.lostNow, last := some k }
  else { x with good := 0, bad := x.bad + 1, slips := stopAt 0xFFFF x.slips 1, last := some k }

/-- Every port that runs has had its frame of sample `k`. -/
def State.tdmAll (s : State) (k : Nat) : Bool := (List.range 16).all fun p => !(s.tdmRuns p) || (s.tdmPort p).last == some k

/-- The TDM record of a tick leaves an ACTIVE when its last word is complete (R340). -/
def State.tdmMirror (s : State) (k : Nat) : State :=
  if s.pair.role = 1 ∧ (k + 1) % s.spt = s.spt - 1 ∧ s.tdmAll k then
    let n := (k + 1) / s.spt
    let ws := (List.range 256).flatMap fun ch => match tfind s.csw.gather (bankKey n (tdmIndex ch)) with
      | some d => (List.range s.spt).map fun i => at? 0 d.samples i
      | none => zeros s.spt
    s.sendMirror 1 3 n (ws.flatMap (intBytes 4))
  else s

/-- TDM_FRAME (R600, R345): at the instant of sample `sample`, the port shifts out its words and takes those of its input; a SHADOW
takes its inputs from TDM records only.  A port with a DARS reference carries no audio (R294). -/
def execTdmFrame (port sample : Nat) (words : List Int) (fsOk : Bool) (s : State) : Out :=
  let s0 := s.quiet
  if !(s0.tdmRuns port) ∨ !s0.time.running then .next s0
  else
    let s2 := s0.setTdm port fun x => x.check sample fsOk
    let s1 := if s0.tdmDars port then s2 else s2.emit (.tdm port (s0.tdmDrive port sample))
    .next (if s1.pair.role = 2 ∨ s1.resetting 6 ∨ s1.csw.idle.contains (islTdm port) then s1 else (s1.tdmGather port sample words).tdmMirror sample)

/-- FSYNC_LOSS (R484): frame sync was wrong for 2 frames; the inputs read zero until FSYNC_OK. -/
def execFsyncLoss (port : Nat) (s : State) : Out :=
  let s0 := s.quiet
  let x := s0.tdmPort port
  .next (if 2 ≤ x.bad ∧ !x.lostNow then
    (s0.setTdm port fun x => { x with sync := false, lost := true, lostNow := true, good := 0 }).raise blkTdm 0x10 .u port
  else s0)

/-- FSYNC_OK (R484): 16 correct frames after FSYNC_LOSS. -/
def execFsyncOk (port : Nat) (s : State) : Out :=
  let s0 := s.quiet
  let x := s0.tdmPort port
  .next (if 16 ≤ x.good ∧ x.lostNow then
    (s0.setTdm port fun x => { x with sync := true, lostNow := false }).raise blkTdm 0x11 .c port
  else s0)

end Sys2Proof.Machine
end

