-- ==== Sys2Proof/Machine/Dispatch.lean ====
section
/-! DEFINITION. One arm per command. -/

namespace Sys2Proof.Machine

def exec (i : Instr) (s : State) : Host.Outcome State Fault Refusal :=
  match i with
  | .powerOnReset => Sys2Proof.Machine.execPowerOnReset s
  | .resetAssert => Sys2Proof.Machine.execResetAssert s
  | .resetRelease d => Sys2Proof.Machine.execResetRelease d s
  | .slowclkLoss => Sys2Proof.Machine.execSlowclkLoss s
  | .dawnComplete d => Sys2Proof.Machine.execDawnComplete d s
  | .timeLock => Sys2Proof.Machine.execTimeLock s
  | .morningToNoon => Sys2Proof.Machine.execMorningToNoon s
  | .tickEvent e => Sys2Proof.Machine.execTickEvent e s
  | .cutoff e => Sys2Proof.Machine.execCutoff e s
  | .streamTime ctx => Sys2Proof.Machine.execStreamTime ctx s
  | .pathADown ctx netB => Sys2Proof.Machine.execPathADown ctx netB s
  | .pathAUp ctx netB => Sys2Proof.Machine.execPathAUp ctx netB s
  | .handshakeWord w => Sys2Proof.Machine.execHandshakeWord w s
  | .mediaFrameRx f => Sys2Proof.Machine.execMediaFrameRx f s
  | .pfcXon port bulk occ => Sys2Proof.Machine.execPfcXon port bulk occ s
  | .pfcRefresh port bulk => Sys2Proof.Machine.execPfcRefresh port bulk s
  | .pfcStorm port bulk => Sys2Proof.Machine.execPfcStorm port bulk s
  | .ptpSend port => Sys2Proof.Machine.execPtpSend port s
  | .peerLinkFrameRx f => Sys2Proof.Machine.execPeerLinkFrameRx f s
  | .earlyRelease ctx => Sys2Proof.Machine.execEarlyRelease ctx s
  | .commitApply tick => Sys2Proof.Machine.execCommitApply tick s
  | .foxFadeEnd c => Sys2Proof.Machine.execFoxFadeEnd c s
  | .foxQueuedStart c => Sys2Proof.Machine.execFoxQueuedStart c s
  | .clusterStepStart cl step => Sys2Proof.Machine.execClusterStepStart cl step s
  | .interruptEntry cl => Sys2Proof.Machine.execInterruptEntry cl s
  | .nop cl => Sys2Proof.Machine.execNop cl s
  | .br cl cond red target => Sys2Proof.Machine.execBr cl cond red target s
  | .call cl target => Sys2Proof.Machine.execCall cl target s
  | .ret cl => Sys2Proof.Machine.execRet cl s
  | .reti cl => Sys2Proof.Machine.execReti cl s
  | .trap cl => Sys2Proof.Machine.execTrap cl s
  | .ends cl => Sys2Proof.Machine.execEnds cl s
  | .loop cl count last => Sys2Proof.Machine.execLoop cl count last s
  | .loopp cl pn last => Sys2Proof.Machine.execLoopp cl pn last s
  | .rpt cl count => Sys2Proof.Machine.execRpt cl count s
  | .leave w => Sys2Proof.Machine.execLeave w s
  | .di cl => Sys2Proof.Machine.execDi cl s
  | .ei cl => Sys2Proof.Machine.execEi cl s
  | .add ci dd da db => Sys2Proof.Machine.execAdd ci dd da db s
  | .sub ci dd da db => Sys2Proof.Machine.execSub ci dd da db s
  | .neg ci dd da => Sys2Proof.Machine.execNeg ci dd da s
  | .abs ci dd da => Sys2Proof.Machine.execAbs ci dd da s
  | .and ci dd da db => Sys2Proof.Machine.execAnd ci dd da db s
  | .or ci dd da db => Sys2Proof.Machine.execOr ci dd da db s
  | .xor ci dd da db => Sys2Proof.Machine.execXor ci dd da db s
  | .not ci dd da => Sys2Proof.Machine.execNot ci dd da s
  | .asl ci dd da db => Sys2Proof.Machine.execAsl ci dd da db s
  | .asr ci dd da db => Sys2Proof.Machine.execAsr ci dd da db s
  | .lsr ci dd da db => Sys2Proof.Machine.execLsr ci dd da db s
  | .cmp ci da db => Sys2Proof.Machine.execCmp ci da db s
  | .sel ci dd da db cond => Sys2Proof.Machine.execSel ci dd da db cond s
  | .min ci dd da db => Sys2Proof.Machine.execMin ci dd da db s
  | .max ci dd da db => Sys2Proof.Machine.execMax ci dd da db s
  | .mpyr ci dd da db => Sys2Proof.Machine.execMpyr ci dd da db s
  | .mov ci dd db => Sys2Proof.Machine.execMov ci dd db s
  | .aluiAdd ci dd da imm => Sys2Proof.Machine.execAluiAdd ci dd da imm s
  | .aluiSub ci dd da imm => Sys2Proof.Machine.execAluiSub ci dd da imm s
  | .aluiAnd ci dd da imm => Sys2Proof.Machine.execAluiAnd ci dd da imm s
  | .aluiOr ci dd da imm => Sys2Proof.Machine.execAluiOr ci dd da imm s
  | .aluiXor ci dd da imm => Sys2Proof.Machine.execAluiXor ci dd da imm s
  | .aluiAsl ci dd da imm => Sys2Proof.Machine.execAluiAsl ci dd da imm s
  | .aluiAsr ci dd da imm => Sys2Proof.Machine.execAluiAsr ci dd da imm s
  | .aluiLsr ci dd da imm => Sys2Proof.Machine.execAluiLsr ci dd da imm s
  | .aluiCmp ci da imm => Sys2Proof.Machine.execAluiCmp ci da imm s
  | .aluiMin ci dd da imm => Sys2Proof.Machine.execAluiMin ci dd da imm s
  | .aluiMax ci dd da imm => Sys2Proof.Machine.execAluiMax ci dd da imm s
  | .aluiMov ci dd imm => Sys2Proof.Machine.execAluiMov ci dd imm s
  | .maxi ci dd da db => Sys2Proof.Machine.execMaxi ci dd da db s
  | .mini ci dd da db => Sys2Proof.Machine.execMini ci dd da db s
  | .rmax ci dd da => Sys2Proof.Machine.execRmax ci dd da s
  | .rmin ci dd da => Sys2Proof.Machine.execRmin ci dd da s
  | .rnd ci dd => Sys2Proof.Machine.execRnd ci dd s
  | .lid ci dd => Sys2Proof.Machine.execLid ci dd s
  | .rdflg ci dd => Sys2Proof.Machine.execRdflg ci dd s
  | .clrflg ci k => Sys2Proof.Machine.execClrflg ci k s
  | .mpy ci an dx dy => Sys2Proof.Machine.execMpy ci an dx dy s
  | .mac ci an dx dy => Sys2Proof.Machine.execMac ci an dx dy s
  | .laneDegraded cl lane => Sys2Proof.Machine.execLaneDegraded cl lane s
  | .msu ci an dx dy => Sys2Proof.Machine.execMsu ci an dx dy s
  | .clra ci an => Sys2Proof.Machine.execClra ci an s
  | .mova ci an am => Sys2Proof.Machine.execMova ci an am s
  | .adda ci an am => Sys2Proof.Machine.execAdda ci an am s
  | .suba ci an am => Sys2Proof.Machine.execSuba ci an am s
  | .lda ci an dx sh => Sys2Proof.Machine.execLda ci an dx sh s
  | .asla ci an sh => Sys2Proof.Machine.execAsla ci an sh s
  | .asra ci an sh => Sys2Proof.Machine.execAsra ci an sh s
  | .sav ci dx an sh trunc => Sys2Proof.Machine.execSav ci dx an sh trunc s
  | .nega ci an => Sys2Proof.Machine.execNega ci an s
  | .ldd ci l => Sys2Proof.Machine.execLdd ci l s
  | .mpyl ci an dx dy l => Sys2Proof.Machine.execMpyl ci an dx dy l s
  | .macl ci an dx dy l => Sys2Proof.Machine.execMacl ci an dx dy l s
  | .msul ci an dx dy l => Sys2Proof.Machine.execMsul ci an dx dy l s
  | .ld cl dd ea => Sys2Proof.Machine.execLd cl dd ea s
  | .st cl dd ea => Sys2Proof.Machine.execSt cl dd ea s
  | .modp cl ea => Sys2Proof.Machine.execModp cl ea s
  | .mvr cl dst src => Sys2Proof.Machine.execMvr cl dst src s
  | .mvi cl dst imm => Sys2Proof.Machine.execMvi cl dst imm s
  | .spinStart m cl src forced => Sys2Proof.Machine.execSpinStart m cl src forced s
  | .spinAbandon m cl => Sys2Proof.Machine.execSpinAbandon m cl s
  | .spareIn src forced => Sys2Proof.Machine.execSpareIn src forced s
  | .spareInSweep cl => Sys2Proof.Machine.execSpareInSweep cl s
  | .spareInSwitch cl => Sys2Proof.Machine.execSpareInSwitch cl s
  | .rotation => Sys2Proof.Machine.execRotation s
  | .marchPass cl pass => Sys2Proof.Machine.execMarchPass cl pass s
  | .wsZero ws => Sys2Proof.Machine.execWsZero ws s
  | .clusterReady cl => Sys2Proof.Machine.execClusterReady cl s
  | .silent det => Sys2Proof.Machine.execSilent det s
  | .busStop bus => Sys2Proof.Machine.execBusStop bus s
  | .entryDrop bus entry => Sys2Proof.Machine.execEntryDrop bus entry s
  | .dpSample sample late => Sys2Proof.Machine.execDpSample sample late s
  | .alnGainRampStart out => Sys2Proof.Machine.execAlnGainRampStart out s
  | .alnRegionRelease out => Sys2Proof.Machine.execAlnRegionRelease out s
  | .alnXtapEnd out => Sys2Proof.Machine.execAlnXtapEnd out s
  | .read r => Sys2Proof.Machine.execRead r s
  | .write r => Sys2Proof.Machine.execWrite r s
  | .commit r => Sys2Proof.Machine.execCommit r s
  | .abort r => Sys2Proof.Machine.execAbort r s
  | .describe r => Sys2Proof.Machine.execDescribe r s
  | .sceneStore r => Sys2Proof.Machine.execSceneStore r s
  | .sceneStoreDone slot => Sys2Proof.Machine.execSceneStoreDone slot s
  | .sceneRecall r => Sys2Proof.Machine.execSceneRecall r s
  | .sceneCheck r => Sys2Proof.Machine.execSceneCheck r s
  | .sceneCheckDone slot => Sys2Proof.Machine.execSceneCheckDone slot s
  | .handshakeHello h => Sys2Proof.Machine.execHandshakeHello h s
  | .handshakeProve p => Sys2Proof.Machine.execHandshakeProve p s
  | .sessionIdle id => Sys2Proof.Machine.execSessionIdle id s
  | .set ns => Sys2Proof.Machine.execSet ns s
  | .incLoad m => Sys2Proof.Machine.execIncLoad m s
  | .cmpArm m unit => Sys2Proof.Machine.execCmpArm m unit s
  | .cmpFire unit => Sys2Proof.Machine.execCmpFire unit s
  | .timeSnap m => Sys2Proof.Machine.execTimeSnap m s
  | .refselEvaluation ms => Sys2Proof.Machine.execRefselEvaluation ms s
  | .qualExpiry entry => Sys2Proof.Machine.execQualExpiry entry s
  | .dwellExpiry => Sys2Proof.Machine.execDwellExpiry s
  | .wtrExpiry entry => Sys2Proof.Machine.execWtrExpiry entry s
  | .suspectRecovery entry => Sys2Proof.Machine.execSuspectRecovery entry s
  | .refSwitch offset => Sys2Proof.Machine.execRefSwitch offset s
  | .hoSpecLost => Sys2Proof.Machine.execHoSpecLost s
  | .xoFail => Sys2Proof.Machine.execXoFail s
  | .apllUnlock => Sys2Proof.Machine.execApllUnlock s
  | .owlTickSend svc => Sys2Proof.Machine.execOwlTickSend svc s
  | .beatSend => Sys2Proof.Machine.execBeatSend s
  | .statusSend => Sys2Proof.Machine.execStatusSend s
  | .hello svc h => Sys2Proof.Machine.execHello svc h s
  | .owlGrantWait svc => Sys2Proof.Machine.execOwlGrantWait svc s
  | .beat svc b => Sys2Proof.Machine.execBeat svc b s
  | .lease epoch tick expiry => Sys2Proof.Machine.execLease epoch tick expiry s
  | .standby epoch tick => Sys2Proof.Machine.execStandby epoch tick s
  | .take svc engine epoch tick => Sys2Proof.Machine.execTake svc engine epoch tick s
  | .grant epoch tick => Sys2Proof.Machine.execGrant epoch tick s
  | .handover svc h => Sys2Proof.Machine.execHandover svc h s
  | .demote epoch => Sys2Proof.Machine.execDemote epoch s
  | .health svc h => Sys2Proof.Machine.execHealth svc h s
  | .noOwl => Sys2Proof.Machine.execNoOwl s
  | .takeover tick => Sys2Proof.Machine.execTakeover tick s
  | .pairHandover h => Sys2Proof.Machine.execPairHandover h s
  | .verdict v => Sys2Proof.Machine.execVerdict v s
  | .miss tick ctxs => Sys2Proof.Machine.execMiss tick ctxs s
  | .repair r => Sys2Proof.Machine.execRepair r s
  | .tdmRecord tick words => Sys2Proof.Machine.execTdmRecord tick words s
  | .commitRecord tick units => Sys2Proof.Machine.execCommitRecord tick units s
  | .beacon boundary epoch => Sys2Proof.Machine.execBeacon boundary epoch s
  | .statusRecord r => Sys2Proof.Machine.execStatusRecord r s
  | .fence boundary epoch => Sys2Proof.Machine.execFence boundary epoch s
  | .lynx r => Sys2Proof.Machine.execLynx r s
  | .lynxAbsent stage => Sys2Proof.Machine.execLynxAbsent stage s
  | .lynxLost => Sys2Proof.Machine.execLynxLost s
  | .mirrorSilence => Sys2Proof.Machine.execMirrorSilence s
  | .join j => Sys2Proof.Machine.execJoin j s
  | .capture tick => Sys2Proof.Machine.execCapture tick s
  | .snapRecord r => Sys2Proof.Machine.execSnapRecord r s
  | .catchUp bytes poison => Sys2Proof.Machine.execCatchUp bytes poison s
  | .refill => Sys2Proof.Machine.execRefill s
  | .inSync => Sys2Proof.Machine.execInSync s
  | .mirrorRekey => Sys2Proof.Machine.execMirrorRekey s
  | .drainComplete => Sys2Proof.Machine.execDrainComplete s
  | .duskTimeout => Sys2Proof.Machine.execDuskTimeout s
  | .resume d => Sys2Proof.Machine.execResume d s
  | .save tick => Sys2Proof.Machine.execSave tick s
  | .saveDone res => Sys2Proof.Machine.execSaveDone res s
  | .ready => Sys2Proof.Machine.execReady s
  | .nonce => Sys2Proof.Machine.execNonce s
  | .enrol r => Sys2Proof.Machine.execEnrol r s
  | .rotate r => Sys2Proof.Machine.execRotate r s
  | .release r => Sys2Proof.Machine.execRelease r s
  | .close mask burnOk => Sys2Proof.Machine.execClose mask burnOk s
  | .commitFw burnOk => Sys2Proof.Machine.execCommitFw burnOk s
  | .closeNow => Sys2Proof.Machine.execCloseNow s
  | .challenge sinceFail => Sys2Proof.Machine.execChallenge sinceFail s
  | .response r => Sys2Proof.Machine.execResponse r s
  | .grantExpiry => Sys2Proof.Machine.execGrantExpiry s
  | .keySwitch k => Sys2Proof.Machine.execKeySwitch k s
  | .keyAge k => Sys2Proof.Machine.execKeyAge k s
  | .keyExpired k => Sys2Proof.Machine.execKeyExpired k s
  | .trngFail => Sys2Proof.Machine.execTrngFail s
  | .linkUp port verified speedOk => Sys2Proof.Machine.execLinkUp port verified speedOk s
  | .linkDown port => Sys2Proof.Machine.execLinkDown port s
  | .fecDegrade port corr uncorr => Sys2Proof.Machine.execFecDegrade port corr uncorr s
  | .preemptFail port => Sys2Proof.Machine.execPreemptFail port s
  | .eyeMeasure port eye => Sys2Proof.Machine.execEyeMeasure port eye s
  | .credit group vc credits ack => Sys2Proof.Machine.execCredit group vc credits ack s
  | .nak group fseq => Sys2Proof.Machine.execNak group fseq s
  | .align group lane marker bipOk => Sys2Proof.Machine.execAlign group lane marker bipOk s
  | .lanectlRemove group mask => Sys2Proof.Machine.execLanectlRemove group mask s
  | .lanectlAdd group mask marker => Sys2Proof.Machine.execLanectlAdd group mask marker s
  | .lanectlAck group mask => Sys2Proof.Machine.execLanectlAck group mask s
  | .lanectlDrain group => Sys2Proof.Machine.execLanectlDrain group s
  | .laneLost group lane => Sys2Proof.Machine.execLaneLost group lane s
  | .groupDrain group => Sys2Proof.Machine.execGroupDrain group s
  | .north off => Sys2Proof.Machine.execNorth off s
  | .south off => Sys2Proof.Machine.execSouth off s
  | .fsyncLoss port => Sys2Proof.Machine.execFsyncLoss port s
  | .fsyncOk port => Sys2Proof.Machine.execFsyncOk port s
  | .sramReadError e => Sys2Proof.Machine.execSramReadError e s
  | .sramWriteBack mem row w => Sys2Proof.Machine.execSramWriteBack mem row w s
  | .rowRepaired mem row => Sys2Proof.Machine.execRowRepaired mem row s
  | .badgerPass rows => Sys2Proof.Machine.execBadgerPass rows s
  | .dramReadError e => Sys2Proof.Machine.execDramReadError e s
  | .patrolScrub chan errs => Sys2Proof.Machine.execPatrolScrub chan errs s
  | .ecsRead chan counts => Sys2Proof.Machine.execEcsRead chan counts s
  | .migrate chan => Sys2Proof.Machine.execMigrate chan s
  | .migrated => Sys2Proof.Machine.execMigrated s
  | .repairAction chan => Sys2Proof.Machine.execRepairAction chan s
  | .pprComplete ok => Sys2Proof.Machine.execPprComplete ok s
  | .sealMiss => Sys2Proof.Machine.execSealMiss s
  | .heartbeatMiss => Sys2Proof.Machine.execHeartbeatMiss s
  | .stage flash img => Sys2Proof.Machine.execStage flash img s
  | .stagedReady => Sys2Proof.Machine.execStagedReady s
  | .arm h => Sys2Proof.Machine.execArm h s
  | .fwHandover => Sys2Proof.Machine.execFwHandover s
  | .fwRelease => Sys2Proof.Machine.execFwRelease s
  | .erase flash => Sys2Proof.Machine.execErase flash s
  | .burst b => Sys2Proof.Machine.execBurst b s
  | .burstTo b done targetStalled => Sys2Proof.Machine.execBurstTo b done targetStalled s
  | .registerWrite m addr size val => Sys2Proof.Machine.execRegisterWrite m addr size val s
  | .rcRead m addr size => Sys2Proof.Machine.execRcRead m addr size s
  | .mailboxLastRead m addr size => Sys2Proof.Machine.execMailboxLastRead m addr size s
  | .mailboxCaptureDone k host => Sys2Proof.Machine.execMailboxCaptureDone k host s
  | .slowWriteEffect block => Sys2Proof.Machine.execSlowWriteEffect block s
  | .cntSelSnap m ctx => Sys2Proof.Machine.execCntSelSnap m ctx s
  | .silSelSnap m slot => Sys2Proof.Machine.execSilSelSnap m slot s
  | .oselSnap m out => Sys2Proof.Machine.execOselSnap m out s
  | .mselSnap m entry => Sys2Proof.Machine.execMselSnap m entry s
  | .dselSnap m chan => Sys2Proof.Machine.execDselSnap m chan s
  | .cntCtlSnap m port => Sys2Proof.Machine.execCntCtlSnap m port s
  | .histSnap m block => Sys2Proof.Machine.execHistSnap m block s
  | .clear m block => Sys2Proof.Machine.execClear m block s
  | .force m block val => Sys2Proof.Machine.execForce m block val s
  | .intStatRead m block => Sys2Proof.Machine.execIntStatRead m block s
  | .faultPoll => Sys2Proof.Machine.execFaultPoll s
  | .errPulseEnd => Sys2Proof.Machine.execErrPulseEnd s
  | .holdRelease m => Sys2Proof.Machine.execHoldRelease m s
  | .holdSet m => Sys2Proof.Machine.execHoldSet m s
  | .frst0 m val => Sys2Proof.Machine.execFrst0 m val s
  | .frst1Go m target => Sys2Proof.Machine.execFrst1Go m target s
  | .frstDone func => Sys2Proof.Machine.execFrstDone func s
  | .frstFail func => Sys2Proof.Machine.execFrstFail func s
  | .shadowClose func => Sys2Proof.Machine.execShadowClose func s
  | .switch dom on => Sys2Proof.Machine.execSwitch dom on s
  | .domainOn dom => Sys2Proof.Machine.execDomainOn dom s
  | .avsEvaluation slacks => Sys2Proof.Machine.execAvsEvaluation slacks s
  | .regulatorPoll polls => Sys2Proof.Machine.execRegulatorPoll polls s
  | .thermalRead temps => Sys2Proof.Machine.execThermalRead temps s
  | .thermTrip => Sys2Proof.Machine.execThermTrip s
  | .vmonWarn rail fail => Sys2Proof.Machine.execVmonWarn rail fail s
  | .tw0Transaction t => Sys2Proof.Machine.execTw0Transaction t s
  | .tw0Retry t => Sys2Proof.Machine.execTw0Retry t s
  | .twTimeout => Sys2Proof.Machine.execTwTimeout s
  | .twBusStuck cleared => Sys2Proof.Machine.execTwBusStuck cleared s
  | .tw1RegRd addr => Sys2Proof.Machine.execTw1RegRd addr s
  | .tw1RegWr addr val fin => Sys2Proof.Machine.execTw1RegWr addr val fin s
  | .stat => Sys2Proof.Machine.execStat s
  | .opWake fin d => Sys2Proof.Machine.execOpWake fin d s
  | .opResume fin d => Sys2Proof.Machine.execOpResume fin d s
  | .tw1BufWr off data fin => Sys2Proof.Machine.execTw1BufWr off data fin s
  | .tw1DictGo len fin => Sys2Proof.Machine.execTw1DictGo len fin s
  | .tw1BufRd off len => Sys2Proof.Machine.execTw1BufRd off len s
  | .tw1Timeout => Sys2Proof.Machine.execTw1Timeout s
  | .attn => Sys2Proof.Machine.execAttn s
  | .tw1TimingSwitch => Sys2Proof.Machine.execTw1TimingSwitch s
  | .hostpRegRd addr n f => Sys2Proof.Machine.execHostpRegRd addr n f s
  | .hostpRegWr addr data f => Sys2Proof.Machine.execHostpRegWr addr data f s
  | .status f => Sys2Proof.Machine.execStatus f s
  | .hostpBufWr off data f => Sys2Proof.Machine.execHostpBufWr off data f s
  | .hostpBufRd off len f => Sys2Proof.Machine.execHostpBufRd off len f s
  | .hostpDictGo len f => Sys2Proof.Machine.execHostpDictGo len f s
  | .helloSend => Sys2Proof.Machine.execHelloSend s
  | .dpllUpdate corr => Sys2Proof.Machine.execDpllUpdate corr s
  | .tdmFrame port sample words fsOk => Sys2Proof.Machine.execTdmFrame port sample words fsOk s
  | .domainOff dom => Sys2Proof.Machine.execDomainOff dom s
  | .xoInValid => Sys2Proof.Machine.execXoInValid s
  | .pfcPauseExpiry port bulk => Sys2Proof.Machine.execPfcPauseExpiry port bulk s
  | .credentialExpiry id => Sys2Proof.Machine.execCredentialExpiry id s

end Sys2Proof.Machine
end

