-- ==== Sys2Proof/Safety.lean ====
section
/-! DEFINITION. Safe runs, in the terms the claims use: canonical memories, 32 lanes in every cluster, the fuses that only burn. -/

namespace Sys2Proof.Machine

/-- The memories of a lane, LMEM and the copy of PARAM that is not presented, are in canonical form (R113, R115). -/
def Lane.Ok (l : Lane) : Prop := Memory.wf l.lmem = true ∧ Memory.wf l.par = true

/-- The memories of a cluster are in canonical form and it has its 32 lanes (R110, R113, R115, R144). -/
def Cluster.Ok (c : Cluster) : Prop :=
  Memory.wf c.cmem = true ∧ Memory.wf c.cpar = true ∧ Memory.wf c.imem = true ∧ c.lanes.length = 32 ∧ ∀ l ∈ c.lanes, l.Ok

/-- The invariant of the engine: every byte memory is in canonical form, so that equal memories are equal lists. -/
def State.Inv (s : State) : Prop :=
  Memory.wf s.fab.ctrlSram = true ∧ Memory.wf s.fab.hall = true ∧ Memory.wf s.memc.dram = true ∧ Memory.wf s.tw1.req = true ∧
    ∀ e ∈ s.clusters, e.2.Ok

/-- What one-time-programmable storage keeps from one state to a later one (R363, R369, R385): the identity of the part stays, a
closed interface stays closed, a used owner slot stays used, SEC_MIN does not fall. -/
structure Sec.Kept (a b : Sec) : Prop where
  idk : b.idkPub = a.idkPub
  cert : b.devCert = a.devCert
  mac : b.baseMac = a.baseMac
  secMin : a.secMin ≤ b.secMin
  fuses : ∀ n, a.fuses.testBit n = true → b.fuses.testBit n = true
  used : ∀ n, a.used.testBit n = true → b.used.testBit n = true

/-- What every command respects: the invariant, the queue, and the one-time-programmable storage. -/
structure Keeps (s t : State) : Prop where
  inv : s.Inv → t.Inv
  queue : t.pending = s.pending
  otp : s.sec.Kept t.sec

/-- A run of commands that is safe: none of them stops the engine, and each keeps what every command respects. -/
def SafeRun : State → List Instr → Prop
  | _, [] => True
  | s, c :: cs => ∃ t, exec c s = .next t ∧ Keeps s t ∧ SafeRun t cs

/-! ### Clusters, as claims see them -/

/-- Lane `k` of a cluster executes and is `l`. -/
abbrev State.LaneIs (s : State) (cl k : Nat) (l : Lane) : Prop :=
  k < (s.cluster cl).laneCount ∧ (s.cluster cl).lanes[k]? = some l

/-- A cluster at an instruction that issues once and is no delay slot: no RPT repeats it, no branch is under way. -/
abbrev State.AtInstr (s : State) (cl : Nat) : Prop := (s.cluster cl).rpt ≤ 1 ∧ (s.cluster cl).after = none

/-- What a D operand of the instruction that issues next reads (R118). -/
def Lane.sees (l : Lane) (r : Nat) : Word := l.tick.operand r

/-- The cluster as the instruction that issues next finds it: results in flight and shared registers one instruction older (R118). -/
def State.aged (s : State) (cl : Nat) : Cluster := (s.cluster cl).ageAll

/-- An instruction issued in a cluster: no other cluster and nothing else of the engine changed, CMEM and IMEM stand, and the
program counter is where the loop control of R162 takes it. -/
structure IssuedIn (s t : State) (cl : Nat) : Prop where
  others : ∀ n, n ≠ cl → t.cluster n = s.cluster n
  rest : t = { s with sent := [], clusters := t.clusters }
  cmem : (t.cluster cl).cmem = (s.cluster cl).cmem
  imem : (t.cluster cl).imem = (s.cluster cl).imem
  handler : (t.cluster cl).handler = (s.cluster cl).handler
  pc : (s.aged cl).loopActive = false → (t.cluster cl).pc = (s.cluster cl).pc + 1

/-- A lane keeps everything but D, its flags and its sticky flags. -/
def Lane.KeepsRest (l l' : Lane) : Prop := l'.a = l.a ∧ l'.lmem = l.lmem ∧ l'.noise = l.noise

/-- A lane after an ALU instruction with the exact result `x` in Dd (R156): the saturated value, which a handler writes only in its
reserved set (R166), Z and N from it, V and SAT from saturation; every other register keeps its value. -/
structure Lane.AluWrote (l' : Lane) (c : Cluster) (l : Lane) (dd : Nat) (x : Int) : Prop where
  value : l'.sees dd = if c.handler = true ∧ dd < 32 - c.resD then l.tick.sees dd else BitVec.ofInt 32 (sat32 x)
  flags : l'.fl = ⟨decide (sat32 x = 0), decide (sat32 x < 0), decide (sat32 x ≠ x)⟩
  sticky : l'.st = { l.st with sat := l.st.sat || decide (sat32 x ≠ x) }
  others : ∀ r, r ≠ dd → l'.sees r = l.tick.sees r
  rest : l.KeepsRest l'

/-- A lane after a move of `v` into Dd that leaves the flags, visible to the next instruction or only after it (R118). -/
structure Lane.Took (l' : Lane) (c : Cluster) (l : Lane) (dd : Nat) (late : Bool) (v : Word) : Prop where
  value : (if late then l'.tick.sees dd else l'.sees dd) =
    if c.handler = true ∧ dd < 32 - c.resD then (if late then l.tick.tick.sees dd else l.tick.sees dd) else v
  flags : l'.fl = l.fl
  others : ∀ r, r ≠ dd → l'.sees r = l.tick.sees r
  acc : l'.a = l.a
  lmem : l'.lmem = l.lmem

/-- A lane after an accumulator instruction with the exact result `x` in An (R121, R154): clamped to 80 bits, OVG on clamping. -/
structure Lane.AccWrote (l' : Lane) (c : Cluster) (l : Lane) (an : Nat) (x : Int) : Prop where
  value : l'.acc an = if c.handler = true ∧ an < 8 - c.resA then l.acc an else BitVec.ofInt 80 (clamp80 x).1
  sticky : l'.st.ovg = (l.st.ovg || (clamp80 x).2)
  others : ∀ m, m ≠ an → l'.acc m = l.acc m
  regs : ∀ r, l'.sees r = l.tick.sees r
  flags : l'.fl = l.fl
  lmem : l'.lmem = l.lmem

/-- A control instruction issued: the lanes only took what was in flight, no loop ended, and no delay slots are under way unless the
instruction starts them. -/
structure ControlIn (s t : State) (cl : Nat) : Prop where
  issuedIn : IssuedIn s t cl
  lanes : (t.cluster cl).lanes = (s.aged cl).lanes
  count : (t.cluster cl).issued = (s.cluster cl).issued + 1

/-- Only the named cluster of the engine changed, and a command's emissions are gone. -/
def OnlyCluster (s t : State) (cl : Nat) : Prop :=
  (∀ n, n ≠ cl → t.cluster n = s.cluster n) ∧ t = { s with sent := [], clusters := t.clusters }

/-- A free cluster after a write of SPIN.START (R140): the request stands, with the fields that SPIN shows. -/
def Cluster.startedFor (c : Cluster) (src : Nat) (forced rotation : Bool) : Cluster :=
  { c with
    spinSrc := src, spinForced := forced, forcedAt := 0, regSrc := src, regForced := forced, spinStart := true, spinRotation := rotation }

/-- A pointer after its post-modify by `m` bytes (R150). -/
def Cluster.pointerAfter (c : Cluster) (n : Nat) (m : Int) : Nat :=
  (postMod n (c.shared (0x20 + n)) (c.shared (0x38 + n)) (c.shared (0x40 + n)) m).1

/-! ### Commands of the block, as claims see them -/

/-- A 32-bit write of a master to a register of a block is performed (R475). -/
abbrev State.MayWrite (s : State) (m : Master) (b off : Nat) : Prop := s.regCause m (regAddr b off) 4 true = none

/-- A 32-bit read of a master from a register of a block is performed (R475). -/
abbrev State.MayRead (s : State) (m : Master) (b off : Nat) : Prop := s.regCause m (regAddr b off) 4 false = none

/-- A block recorded one occurrence of an event outside every shadow (R485, R490-R493): its INT_STAT bit, the counter of its class,
and the newest of at most 8 history entries; the histories of the other blocks stand. -/
structure Recorded (s t : State) (b ev : Nat) (cls : EvClass) (detail : Nat) : Prop where
  stat : (t.common b).intStat = (s.common b).intStat ||| BitVec.ofNat 32 (2 ^ ev)
  cntC : (t.common b).cntC = (s.common b).cntC + if cls = .c then 1 else 0
  cntU : (t.common b).cntU = (s.common b).cntU + if cls = .u then 1 else 0
  cntF : (t.common b).cntF = (s.common b).cntF + if cls = .f then 1 else 0
  hist : (t.common b).hist = (({
    code := b * 256 + ev, cls := cls, conseq := false, forced := false, polled := false, persist := false, func := 0
    stamped := false, stamp := 0, detail := detail % 2 ^ 32 } : HistEntry) :: (s.common b).hist).take 8
  others : ∀ n, n ≠ b → t.common n = s.common n

/-- The datagram of a request goes to DICT_UDP, is no IP fragment and is not longer than its port takes (R258). -/
abbrev State.Fits (s : State) (op : Nat) (r : DictReq) : Prop := s.quiet.fresh.notDict op r = false

/-- A dictionary request reaches its operation (R258-R265, R374, R550): the firmware runs, the path takes it for the asker `w` and leaves
`s1`, its REQID is fresh, VER, OP and length are right, and the path is open. -/
structure State.Reaches (s s1 : State) (r : DictReq) (w : Asker) : Prop where
  runs : s.firmwareRuns = true
  path : ∃ s0, s.quiet.fresh.takePath r.path = some (s0, w) ∧ s1 = s0.notePort r
  fresh : s1.dict.cache.find? (fun c => c.path == w.pk && c.reqid == r.reqid) = none
  idle : s1.executing w.pk r.reqid = false
  ver : r.ver = 1
  len : r.lenOk = true ∧ r.items.length ≤ 255
  opened : w.pk ≠ 0 ∨ s1.closed 3 = false

/-- A unit is no spare that takes part in a spare-in, which an event of class U ends (R134). -/
def State.outsideSpin (s : State) (unit : Nat) : Bool :=
  !(isCluster unit) || (s.cluster (unit - 0x20)).role != 0 || (s.cluster (unit - 0x20)).phase == 0

/-- A media frame of a tick stream without tags reaches the tick window of context `x` with tick `n` (R60, R400): the checks of its port
and of Kapo pass, no MERGE and no cut-through concerns it, and the context has no frame of the tick yet. -/
structure State.TakesFrame (s : State) (f : MediaFrame) (e b : List Byte) (a : Bool) (x n : Nat) : Prop where
  link : (s.port f.port).up = true
  size : 64 ≤ f.len ∧ f.len ≤ s.cfg (0xC000 + f.port) 9
  whole : f.smdOk = true ∧ s.rxFails f = none ∧ f.cls = .media ∧ f.body = .kapo e b a ∧ s.namesKapo e = true
  csw : s.resetting 6 = false ∧ s.time.ticked = true
  header : s.headerFails (kapoOf f e b a none) (kapoHeader b) = none
  length : (kapoHeader b).length s.spt ≤ b.length
  stream : (kapoHeader b).mirror = false ∧ (kapoHeader b).htype = 0 ∧ (kapoHeader b).direct = false ∧ (kapoHeader b).tags = false
  ctx : s.kapoCtx f.port (kapoHeader b) = some x ∧ ctxMode s.dict.vals x = 0 ∧ ctxMerge s.dict.vals x = false
  channels : (kapoHeader b).nch = ctxNch s.dict.vals x
  auth : s.authPasses (kapoOf f e b a none) x (kapoHeader b) n = true
  copies : s.cutTargets x n = []
  tick : s.fullLabel (kapoHeader b) = n
  first : (∀ g ∈ (s.ctx x).inForce, g.tick ≠ n) ∧ ∀ g ∈ (s.ctx x).early, g.tick ≠ n

end Sys2Proof.Machine
end

