-- ==== Sys2Proof/Certificates/Slice0/Obligations.lean ====
section
/-! DEFINITION. What is claimed of the model: one statement per definition, for the provers. -/

section
open Sys2Proof Sys2Proof.Machine

/-- The model's queue: a step runs the command at the front on the state with the rest of the queue; on an empty queue the engine idles, which
is the model's choice (log 15). -/
def Obligations.StepRunsTheFrontCommand : Prop :=
  (∀ (c : Instr) (rest : List Instr) (s : State), s.pending = c :: rest → step s = exec c { s with pending := rest }) ∧
    ∀ s : State, s.pending = [] → step s = .next s

/-- R27, R581, R583, R495, R286, R287, R320, R140, R509, R524, R535: reset values the spec gives. -/
def Obligations.ResetLeavesTheStatedValues : Prop :=
  State.reset.pending = [] ∧ State.reset.top.state = .dawn ∧ State.reset.top.prev = .dawn ∧ State.reset.top.cause = 0 ∧
    State.reset.top.inReset = true ∧ State.reset.top.errPw = 0x64 ∧ State.reset.top.errUen = false ∧ State.reset.top.errFhold = true ∧
    (∀ b, (State.reset.common b).intStat = 0 ∧ (State.reset.common b).intEn = 0xFFFF001E ∧ (State.reset.common b).hist = [] ∧
      (State.reset.common b).cntC = 0 ∧ (State.reset.common b).cntU = 0 ∧ (State.reset.common b).cntF = 0) ∧
    State.reset.time.incInt = 2 ∧ State.reset.time.running = false ∧ State.reset.pwr.on = 0 ∧ State.reset.pwr.vset = 0x14 ∧
    State.reset.tw1.addr = 0x5A ∧ State.reset.tw1.filt = 3 ∧ State.reset.sec.sessions = [] ∧ State.reset.dict.vals = []

/-- The invariant of the model holds after reset. -/
def Obligations.ResetMeetsTheInvariant : Prop := State.reset.Inv

/-- Every memory keeps its canonical form and every cluster its 32 lanes, whatever command runs (R9, R110, R113). -/
def Obligations.EveryStepKeepsTheInvariant : Prop := ∀ s t : State, s.Inv → step s = .next t → t.Inv

/-- Every command runs to a next state and leaves the commands that wait. -/
def Obligations.EveryCommandRunsAndLeavesTheQueue : Prop :=
  ∀ (c : Instr) (s : State), ∃ t, exec c s = .next t ∧ t.pending = s.pending

/-- One-time-programmable storage only burns (R363, R369, R385): the identity stands, fuses and used slots stay, SEC_MIN does not fall. -/
def Obligations.OneTimeStorageOnlyBurns : Prop :=
  ∀ (c : Instr) (s t : State), exec c s = .next t → s.sec.Kept t.sec

/-- A run of any commands is safe: none stops the engine, and each respects the invariant, the queue and the burnt storage. -/
def Obligations.EveryRunIsSafe : Prop := ∀ (cs : List Instr) (s : State), SafeRun s cs

/-- R156: the two-operand instructions of FMT 1, with the exact result of each; MPYR is absent in IK mode (R172). -/
def Obligations.AluResultsOfTwoOperands : Prop :=
  ∀ (s : State) (i : CI) (dd da db k : Nat) (l : Lane), s.AtInstr i.cl → i.residue = .ok → s.LaneIs i.cl k l →
    let a := (l.sees da).toInt
    let b := (l.sees db).toInt
    let n := (l.sees db).toNat % 64
    ∀ p : Instr × Int, p ∈ [(.add i dd da db, a + b), (.sub i dd da db, a - b), (.and i dd da db, (l.sees da &&& l.sees db).toInt),
        (.or i dd da db, (l.sees da ||| l.sees db).toInt), (.xor i dd da db, (l.sees da ^^^ l.sees db).toInt),
        (.asl i dd da db, a * 2 ^ n), (.asr i dd da db, Int.fdiv a (2 ^ n)), (.lsr i dd da db, (l.sees da >>> n).toInt),
        (.min i dd da db, min a b), (.max i dd da db, max a b), (.mpyr i dd da db, Int.fdiv (a * b + 2 ^ 30) (2 ^ 31))] →
      (p.1 = .mpyr i dd da db → (s.cluster i.cl).ik = false) →
      ∃ t l', exec p.1 s = .next t ∧ IssuedIn s t i.cl ∧ t.LaneIs i.cl k l' ∧ l'.AluWrote (s.cluster i.cl) l dd p.2

/-- R156, R152: NEG, ABS, NOT, MOV, and SEL on each condition, which looks at the flags of the instruction just before (R118). -/
def Obligations.AluResultsOfOneOperandAndSel : Prop :=
  ∀ (s : State) (i : CI) (dd da db k : Nat) (l : Lane), s.AtInstr i.cl → i.residue = .ok → s.LaneIs i.cl k l →
    (let a := (l.sees da).toInt
     ∀ p : Instr × Int, p ∈ [(.neg i dd da, -a), (.abs i dd da, max a (-a)), (.not i dd da, (~~~(l.sees da)).toInt), (.mov i dd da, a)] →
      ∃ t l', exec p.1 s = .next t ∧ IssuedIn s t i.cl ∧ t.LaneIs i.cl k l' ∧ l'.AluWrote (s.cluster i.cl) l dd p.2) ∧
    ∀ q : Nat × Bool, q ∈ [(0, true), (1, l.fl.z), (2, !l.fl.z), (3, l.fl.n), (4, !l.fl.n), (5, l.fl.z || l.fl.n), (6, !l.fl.z && !l.fl.n),
        (7, l.fl.v), (8, !l.fl.v)] →
      ∃ t l', exec (.sel i dd da db q.1) s = .next t ∧ IssuedIn s t i.cl ∧ t.LaneIs i.cl k l' ∧
        l'.AluWrote (s.cluster i.cl) l dd (if q.2 then (l.sees da).toInt else (l.sees db).toInt)

/-- R147, R156: the instructions of FMT 2, with IMM in place of b. -/
def Obligations.AluResultsWithImmediates : Prop :=
  ∀ (s : State) (i : CI) (dd da k : Nat) (imm : Word) (l : Lane), s.AtInstr i.cl → i.residue = .ok → s.LaneIs i.cl k l →
    let a := (l.sees da).toInt
    let n := imm.toNat % 64
    ∀ p : Instr × Int, p ∈ [(.aluiAdd i dd da imm, a + imm.toInt), (.aluiSub i dd da imm, a - imm.toInt),
        (.aluiAnd i dd da imm, (l.sees da &&& imm).toInt), (.aluiOr i dd da imm, (l.sees da ||| imm).toInt),
        (.aluiXor i dd da imm, (l.sees da ^^^ imm).toInt), (.aluiAsl i dd da imm, a * 2 ^ n),
        (.aluiAsr i dd da imm, Int.fdiv a (2 ^ n)), (.aluiLsr i dd da imm, (l.sees da >>> n).toInt),
        (.aluiMin i dd da imm, min a imm.toInt), (.aluiMax i dd da imm, max a imm.toInt), (.aluiMov i dd imm, imm.toInt)] →
      ∃ t l', exec p.1 s = .next t ∧ IssuedIn s t i.cl ∧ t.LaneIs i.cl k l' ∧ l'.AluWrote (s.cluster i.cl) l dd p.2

/-- R156: CMP and its immediate form set Z and N, clear V, and write nothing else. -/
def Obligations.ComparesSetFlagsOnly : Prop :=
  ∀ (s : State) (i : CI) (da db k : Nat) (imm : Word) (l : Lane), s.AtInstr i.cl → i.residue = .ok → s.LaneIs i.cl k l →
    ∀ p : Instr × Word, p ∈ [(.cmp i da db, l.sees db), (.aluiCmp i da imm, imm)] →
      ∃ t l', exec p.1 s = .next t ∧ IssuedIn s t i.cl ∧ t.LaneIs i.cl k l' ∧
        l'.fl = ⟨decide (l.sees da = p.2), decide ((l.sees da).toInt < p.2.toInt), false⟩ ∧
        (∀ r, l'.sees r = l.tick.sees r) ∧ l'.st = l.st ∧ l.KeepsRest l'

/-- R159: LID, RDFLG, CLRFLG and RND (absent in IK mode, R172; in a handler it returns 0 and the generator stays, R166). -/
def Obligations.LaneServicesDeliver : Prop :=
  ∀ (s : State) (i : CI) (dd k m : Nat) (l : Lane), s.AtInstr i.cl → i.residue = .ok → s.LaneIs i.cl k l →
    (∃ t l', exec (.lid i dd) s = .next t ∧ IssuedIn s t i.cl ∧ t.LaneIs i.cl k l' ∧
      l'.Took (s.cluster i.cl) l dd false (BitVec.ofNat 32 k) ∧ l'.st = l.st ∧ l'.noise = l.noise) ∧
    (∃ t l', exec (.rdflg i dd) s = .next t ∧ IssuedIn s t i.cl ∧ t.LaneIs i.cl k l' ∧
      l'.Took (s.cluster i.cl) l dd true (BitVec.ofNat 32 ((if l.st.ovg then 1 else 0) + (if l.st.sat then 2 else 0) +
        (if l.st.circ then 4 else 0) + if l.st.addr then 8 else 0)) ∧ l'.st = l.st ∧ l'.noise = l.noise) ∧
    (∃ t l', exec (.clrflg i m) s = .next t ∧ IssuedIn s t i.cl ∧ t.LaneIs i.cl k l' ∧
      l'.st = ⟨l.st.ovg && !m.testBit 0, l.st.sat && !m.testBit 1, l.st.circ && !m.testBit 2, l.st.addr && !m.testBit 3⟩ ∧
      (∀ r, l'.sees r = l.tick.sees r) ∧ l'.fl = l.fl ∧ l.KeepsRest l' ∧ (t.cluster i.cl).hostOvg = (s.cluster i.cl).hostOvg) ∧
    ((s.cluster i.cl).ik = false →
      let x0 := l.noise ^^^ (l.noise <<< 13)
      let x1 := x0 ^^^ (x0 >>> 7)
      let x2 := x1 ^^^ (x1 <<< 17)
      ∃ t l', exec (.rnd i dd) s = .next t ∧ IssuedIn s t i.cl ∧ t.LaneIs i.cl k l' ∧
        l'.Took (s.cluster i.cl) l dd true (if (s.cluster i.cl).handler then 0 else x2.extractLsb' 32 32) ∧
        l'.noise = if (s.cluster i.cl).handler then l.noise else x2)

/-- R157, R172: with an even Dd, MAXI and MINI take the pair of a better value, the lower second register on a tie; RMAX and RMIN put the extreme over the
executing lanes in Dd of every lane and the lowest lane that holds it in Dd + 1, and are absent in IK mode. -/
def Obligations.SearchesFindTheExtreme : Prop :=
  ∀ (s : State) (i : CI) (dd da db k : Nat) (l : Lane), s.AtInstr i.cl → i.residue = .ok → s.LaneIs i.cl k l →
    dd % 2 = 0 → (s.cluster i.cl).handler = false →
    (∀ p : Instr × Bool, p ∈ [(.maxi i dd da db, decide ((l.sees dd).toInt < (l.sees da).toInt)),
        (.mini i dd da db, decide ((l.sees da).toInt < (l.sees dd).toInt))] →
      let takes := p.2 || (decide (l.sees da = l.sees dd) && decide ((l.sees db).toInt < (l.sees (dd + 1)).toInt))
      ∃ t l', exec p.1 s = .next t ∧ IssuedIn s t i.cl ∧ t.LaneIs i.cl k l' ∧
        l'.sees dd = (if takes then l.sees da else l.sees dd) ∧ l'.sees (dd + 1) = (if takes then l.sees db else l.sees (dd + 1)) ∧
        (∀ r, r ≠ dd → r ≠ dd + 1 → l'.sees r = l.tick.sees r) ∧ l'.fl = l.fl ∧ l'.st = l.st ∧ l.KeepsRest l') ∧
    ((s.cluster i.cl).ik = false → ∀ p : Instr × (Int → Int → Prop), p ∈ [(.rmax i dd da, fun x y => y ≤ x), (.rmin i dd da, fun x y => x ≤ y)] →
      ∃ t l' j lj, exec p.1 s = .next t ∧ IssuedIn s t i.cl ∧ t.LaneIs i.cl k l' ∧ s.LaneIs i.cl j lj ∧
        (∀ n ln, s.LaneIs i.cl n ln → p.2 (lj.sees da).toInt (ln.sees da).toInt ∧ (n < j → ln.sees da ≠ lj.sees da)) ∧
        l'.sees dd = lj.sees da ∧ l'.sees (dd + 1) = BitVec.ofNat 32 j ∧
        (∀ r, r ≠ dd → r ≠ dd + 1 → l'.sees r = l.tick.sees r) ∧ l'.fl = l.fl ∧ l'.st = l.st ∧ l.KeepsRest l')

/-- R121, R154: the accumulator instructions with the exact value of each; LDA shifts by at most 48 (R171). -/
def Obligations.AccumulatorResults : Prop :=
  ∀ (s : State) (i : CI) (an am dx dy sh k : Nat) (l : Lane), s.AtInstr i.cl → i.residue = .ok → s.LaneIs i.cl k l →
    let a := (l.acc an).toInt
    let m := (l.acc am).toInt
    let x := (l.sees dx).toInt
    let y := (l.sees dy).toInt
    ∀ p : Instr × Int, p ∈ [(.mpy i an dx dy, x * y), (.mac i an dx dy, a + x * y), (.msu i an dx dy, a - x * y), (.clra i an, 0),
        (.mova i an am, m), (.adda i an am, a + m), (.suba i an am, a - m), (.lda i an dx sh, x * 2 ^ sh), (.asla i an sh, a * 2 ^ sh),
        (.asra i an sh, Int.fdiv a (2 ^ sh)), (.nega i an, -a)] →
      (p.1 = .lda i an dx sh → sh ≤ 48) →
      ∃ t l', exec p.1 s = .next t ∧ IssuedIn s t i.cl ∧ t.LaneIs i.cl k l' ∧ l'.AccWrote (s.cluster i.cl) l an p.2

/-- R122, R154: SAV rounds half up, or truncates with floor, saturates to 32 bits and sets SAT on saturation. -/
def Obligations.SavConvertsTheAccumulator : Prop :=
  ∀ (s : State) (i : CI) (dx an sh k : Nat) (trunc : Bool) (l : Lane), s.AtInstr i.cl → i.residue = .ok → s.LaneIs i.cl k l →
    let a := (l.acc an).toInt
    let v := if trunc then Int.fdiv a (2 ^ sh) else if sh = 0 then a else Int.fdiv (a + 2 ^ (sh - 1)) (2 ^ sh)
    ∃ t l', exec (.sav i dx an sh trunc) s = .next t ∧ IssuedIn s t i.cl ∧ t.LaneIs i.cl k l' ∧
      l'.Took (s.cluster i.cl) l dx true (BitVec.ofInt 32 (sat32 v)) ∧ l'.st = { l.st with sat := l.st.sat || decide (sat32 v ≠ v) } ∧
      l'.noise = l.noise

/-- R155, R121: the DUAL format reads its operands first, accumulates, delivers up to two words into two registers through two pointers, and
moves the pointers; a second load from CMEM beside one from CMEM delivers 0 and sets ADDR_RANGE. -/
def Obligations.DualFormatLoadsAndAccumulates : Prop :=
  ∀ (s : State) (i : CI) (an dx dy k : Nat) (dl : DualLoads) (l : Lane), s.AtInstr i.cl → i.residue = .ok → s.LaneIs i.cl k l →
    (s.cluster i.cl).handler = false → (∀ d, dl.l1 = some d ∨ dl.l2 = some d → d.p < 16) →
    (∀ d e, dl.l1 = some d → dl.l2 = some e → d.p ≠ e.p ∧ d.d ≠ e.d) →
    let c := s.aged i.cl
    let a := (l.acc an).toInt
    let x := (l.sees dx).toInt * (l.sees dy).toInt
    let at' (d : DualLoad) : Nat := c.shared (0x20 + d.p) / 4 * 4
    let cmem (d : DualLoad) : Prop := c.inCmem (at' d) = true
    ∀ p : Instr × Option Int, p ∈ [(.ldd i dl, none), (.mpyl i an dx dy dl, some x), (.macl i an dx dy dl, some (a + x)),
        (.msul i an dx dy dl, some (a - x))] →
      ∃ t l', exec p.1 s = .next t ∧ IssuedIn s t i.cl ∧ t.LaneIs i.cl k l' ∧
        (∀ v, p.2 = some v → l'.acc an = BitVec.ofInt 80 (clamp80 v).1) ∧ (∀ m, p.2 = none ∨ m ≠ an → l'.acc m = l.acc m) ∧
        (∀ d, dl.l1 = some d → l'.tick.sees d.d = (c.loadWord l (at' d)).1) ∧
        (∀ e, dl.l2 = some e → (∀ d, dl.l1 = some d → ¬(cmem d ∧ cmem e)) → l'.tick.sees e.d = (c.loadWord l (at' e)).1) ∧
        (∀ d e, dl.l1 = some d → dl.l2 = some e → cmem d → cmem e → l'.tick.sees e.d = 0 ∧ l'.st.addr = true) ∧
        (∀ r, l'.sees r = l.tick.sees r) ∧ l'.fl = l.fl ∧ l'.lmem = l.lmem ∧ l'.noise = l.noise ∧
        (∀ d, dl.l1 = some d ∨ dl.l2 = some d → (t.cluster i.cl).shared (0x20 + d.p) = c.pointerAfter d.p (signed24 (c.shared (0x30 + d.m))))

/-- R153, R114, R149: LD delivers the word at the address (0 and ADDR_RANGE outside the map) to the second instruction after it;
LD and MODP then post-modify the pointer; neither writes memory. -/
def Obligations.LoadsDeliverAndPointersMove : Prop :=
  ∀ (s : State) (cl dd k : Nat) (ea : EA) (l : Lane), s.AtInstr cl → s.LaneIs cl k l → (s.cluster cl).handler = false → ea.pn < 16 →
    let c := s.aged cl
    let v := c.loadWord l (c.address ea)
    ∀ p : Instr × Bool, p ∈ [(.ld cl dd ea, true), (.modp cl ea, false)] →
      ∃ t l', exec p.1 s = .next t ∧ IssuedIn s t cl ∧ t.LaneIs cl k l' ∧
        (p.2 = true → l'.tick.sees dd = v.1 ∧ l'.st.addr = (l.st.addr || v.2)) ∧ (p.2 = false → l'.st.addr = l.st.addr) ∧
        (∀ r, l'.sees r = l.tick.sees r) ∧ (∀ r, p.2 = false ∨ r ≠ dd → l'.tick.sees r = l.tick.tick.sees r) ∧
        l'.fl = l.fl ∧ l.KeepsRest l' ∧
        (t.cluster cl).shared (0x20 + ea.pn) = (match ea.mode with
          | .postM m => c.pointerAfter ea.pn (signed24 (c.shared (0x30 + m)))
          | .postImm w => c.pointerAfter ea.pn (4 * w)
          | .offset _ => c.shared (0x20 + ea.pn)
          | .postInc => c.pointerAfter ea.pn 4)

/-- R153, R114, R166: ST writes the store data to the four bytes of LMEM at the address, and to no other byte; outside LMEM, and
outside the handler's range in a handler, it writes nothing and sets ADDR_RANGE. -/
def Obligations.StoresWriteOneWordOfLmem : Prop :=
  ∀ (s : State) (cl dd k : Nat) (ea : EA) (l : Lane), s.AtInstr cl → s.LaneIs cl k l →
    let c := s.aged cl
    let a := c.address ea
    let ok := c.inLmem a = true ∧ ((s.cluster cl).handler = false ∨ (s.cluster cl).img.handlerLo ≤ a ∧ a + 4 ≤ (s.cluster cl).img.handlerHi)
    Memory.wf l.lmem = true → ∃ t l', exec (.st cl dd ea) s = .next t ∧ IssuedIn s t cl ∧ t.LaneIs cl k l' ∧
      (ok → memWord l'.lmem a = l.tick.storeData dd ∧ l'.st.addr = l.st.addr ∧ ∀ b, b < a ∨ a + 4 ≤ b → memGet l'.lmem b = memGet l.lmem b) ∧
      (¬ok → l'.lmem = l.lmem ∧ l'.st.addr = true) ∧
      (∀ r, l'.sees r = l.tick.sees r) ∧ l'.fl = l.fl ∧ l'.a = l.a ∧ l'.noise = l.noise

/-- R158, R118: MVR and MVI between D registers and shared registers outside a handler: a D register takes the value in every lane at
once, a shared register puts it in flight for the fourth instruction after; ISRC is read only. -/
def Obligations.MovesCopyRegisters : Prop :=
  ∀ (s : State) (cl dst src k imm : Nat) (l l0 : Lane), (s.cluster cl).after = none → s.LaneIs cl k l → s.LaneIs cl 0 l0 →
    (s.cluster cl).handler = false → (s.aged cl).loopActive = false →
    let c := s.aged cl
    (∀ p : Instr × Word, p ∈ [(.mvr cl dst src, if src < 0x20 then l.sees src else c.sharedToD src), (.mvi cl dst imm, BitVec.ofNat 32 (imm % 2 ^ 24))] →
      dst < 0x20 → ∃ t l', exec p.1 s = .next t ∧ IssuedIn s t cl ∧ t.LaneIs cl k l' ∧
        l'.sees dst = p.2 ∧ (∀ r, r ≠ dst → l'.sees r = l.tick.sees r) ∧ l'.fl = l.fl ∧ l'.st = l.st ∧ l.KeepsRest l') ∧
    (∀ p : Instr × Nat, p ∈ [(.mvr cl dst src, if src < 0x20 then (l0.sees src).toNat else c.shared src), (.mvi cl dst imm, imm % 2 ^ 24)] →
      0x20 ≤ dst → ∃ t, exec p.1 s = .next t ∧ ControlIn s t cl ∧ (t.cluster cl).sh = c.sh ∧
        (t.cluster cl).sharedFlight = c.sharedFlight ++ (if shWidth dst = 0 ∨ dst = 0x4C then [] else [⟨dst, p.2 % 2 ^ shWidth dst, 0⟩]))

/-- R151, R152, R118: BR, CALL and RET start two delay slots with their target; BR tests its condition on the flags after the third
instruction before it, in lane 0, any or all of the lanes, and has its slots taken or not; NOP does nothing; a delay slot counts down, and the
last one ends at the target. -/
def Obligations.BranchesHaveTwoDelaySlots : Prop :=
  ∀ (s : State) (cl cond red target : Nat), (s.aged cl).loopActive = false →
    ((s.cluster cl).after = none →
      let fl := ((s.aged cl).lanes.take (s.cluster cl).laneCount).map fun l => condHolds cond ((l.fhist[2]?).getD {})
      let taken := if red = 0 then fl.head? = some true else if red = 1 then true ∈ fl else false ∉ fl
      (∃ t, exec (.br cl cond red target) s = .next t ∧ ControlIn s t cl ∧ (t.cluster cl).slots = 2 ∧
        (taken → (t.cluster cl).after = some (.target target)) ∧ (¬taken → (t.cluster cl).after = some .fall)) ∧
      (∃ t, exec (.call cl target) s = .next t ∧ ControlIn s t cl ∧ (t.cluster cl).after = some (.target target) ∧
        (t.cluster cl).slots = 2 ∧ (t.cluster cl).shared 0x4B = ((s.cluster cl).pc + 3) % 2 ^ 15) ∧
      (∃ t, exec (.ret cl) s = .next t ∧ ControlIn s t cl ∧ (t.cluster cl).after = some (.target ((s.aged cl).shared 0x4B)) ∧
        (t.cluster cl).slots = 2) ∧
      ∃ t, exec (.nop cl) s = .next t ∧ ControlIn s t cl ∧ (t.cluster cl).after = none ∧ (t.cluster cl).sh = (s.aged cl).sh) ∧
    (∀ a, (s.cluster cl).after = some a → 1 < (s.cluster cl).slots →
      ∃ t, exec (.nop cl) s = .next t ∧ OnlyCluster s t cl ∧ (t.cluster cl).after = some a ∧
        (t.cluster cl).slots = (s.cluster cl).slots - 1 ∧ (t.cluster cl).pc = (s.cluster cl).pc + 1) ∧
    ∀ a, (s.cluster cl).after = some a → a ≠ .ends → (s.cluster cl).slots ≤ 1 →
      ∃ t, exec (.nop cl) s = .next t ∧ OnlyCluster s t cl ∧ (t.cluster cl).after = none ∧
        (∀ x, a = .target x → (t.cluster cl).pc = x) ∧ (a = .fall → (t.cluster cl).pc = (s.cluster cl).pc + 1)

/-- R164-R168: DI and EI mask, TRAP makes SWI pending in the main program, an interruptible boundary with an enabled pending source
enters the handler, which sees every result in flight, and RETI after its delay slots resumes where the interrupt came, with the registers outside
the reserved set, the flags and LR as they were. -/
def Obligations.InterruptsEnterAndReturn : Prop :=
  ∀ (s : State) (cl src : Nat),
    let c := s.cluster cl
    (c.after = none →
      (∃ t, exec (.di cl) s = .next t ∧ ControlIn s t cl ∧ (t.cluster cl).mask = true ∧ (t.cluster cl).pend = c.pend) ∧
      (∃ t, exec (.ei cl) s = .next t ∧ ControlIn s t cl ∧ (t.cluster cl).mask = false ∧ (t.cluster cl).pend = c.pend) ∧
      (∃ t, exec (.trap cl) s = .next t ∧ ControlIn s t cl ∧ (t.cluster cl).mask = c.mask ∧
        (t.cluster cl).pend = if c.handler then c.pend else c.pend ||| 1) ∧
      ∃ t, exec (.reti cl) s = .next t ∧ ControlIn s t cl ∧ (t.cluster cl).after = if c.handler then some .reti else none) ∧
    (c.stepping = true → c.ended = false → c.handler = false → c.mask = false → c.after = none → c.rpt = 0 → c.afterReti = false →
      src ≤ 2 → (c.pend &&& c.img.enabled).testBit src = true → (∀ j, j < src → (c.pend &&& c.img.enabled).testBit j = false) →
      ∃ t, exec (.interruptEntry cl) s = .next t ∧ OnlyCluster s t cl ∧ (t.cluster cl).handler = true ∧
        (t.cluster cl).pc = c.img.handlerEntry ∧ (t.cluster cl).shared 0x4C = src ∧ (t.cluster cl).pend = c.pend - 2 ^ src ∧
        (t.cluster cl).issued = c.issued + 3 ∧ (c.ik = false → (t.cluster cl).loopActive = false) ∧
        (∀ (k : Nat) (l : Lane), c.lanes[k]? = some l → ∃ l', (t.cluster cl).lanes[k]? = some l' ∧ l'.flight = [] ∧ l'.d = landD l.d l.flight) ∧
        ∃ v, (t.cluster cl).saved = some v ∧ v.idx = c.pc ∧ v.sh = c.sh ∧ v.flags = c.lanes.map (·.fl) ∧ v.sticky = c.lanes.map (·.st) ∧
          v.d = c.lanes.map (·.d) ∧ v.flight = c.lanes.map (·.flight) ∧ v.shared = c.sharedFlight) ∧
    ∀ v, c.after = some .reti → c.slots ≤ 1 → c.saved = some v →
      ∃ t, exec (.nop cl) s = .next t ∧ OnlyCluster s t cl ∧ (t.cluster cl).handler = false ∧ (t.cluster cl).pc = v.idx ∧
        (t.cluster cl).shared 0x4B = tget 0 v.sh 0x4B ∧ (t.cluster cl).saved = none ∧ (t.cluster cl).after = none ∧
        ∀ k l', t.LaneIs cl k l' → l'.fl = (v.flags[k]?).getD {} ∧ l'.st = (v.sticky[k]?).getD {} ∧
          ∀ r, r < 32 - c.resD → tget 0 l'.d r = tget 0 ((v.d[k]?).getD []) r

/-- R160-R163, R172: RPT, LOOP, LOOPP and LEAVE: the count, start and end of a loop, an outer loop pushed in native mode; a count of 0 skips the
body at a cost of 2 cycles; LEAVE ends the innermost loop of the main program; the loop end of R162 counts down or leaves. -/
def Obligations.LoopsRunWithoutOverhead : Prop :=
  ∀ (s : State) (cl count last pn : Nat),
    let c := s.aged cl
    let pushed := (⟨c.shared 0x48, c.shared 0x49, c.shared 0x4A, true⟩ :: c.loopStack).take 4
    (∃ t, exec (.rpt cl count) s = .next t ∧ OnlyCluster s t cl ∧ t.cluster cl = { s.cluster cl with rpt := count, pc := (s.cluster cl).pc + 1 }) ∧
    (∀ f : Cluster, f = s.cluster cl → f.after = none → f.loopActive = false → f.ik = false ∨ f.sharedFlight = [] → ∀ ea : EA, ∃ t, exec (.modp cl ea) s = .next t ∧
      (t.cluster cl).issued = f.issued + max 1 f.rpt ∧ (t.cluster cl).pc = f.pc + 1 ∧ (t.cluster cl).rpt = 0) ∧
    (count < 2 ^ 17 → last < 2 ^ 15 → (s.cluster cl).pc + 1 < 2 ^ 15 →
      ∃ t, exec (.loop cl count last) s = .next t ∧ OnlyCluster s t cl ∧ (t.cluster cl).shared 0x48 = count ∧
        (t.cluster cl).shared 0x49 = (s.cluster cl).pc + 1 ∧ (t.cluster cl).shared 0x4A = last ∧ (t.cluster cl).loopActive = true ∧
        (t.cluster cl).pc = (s.cluster cl).pc + 1 ∧ (t.cluster cl).loopStack = if !c.ik && c.loopActive then pushed else c.loopStack) ∧
    ((s.cluster cl).ik = false →
      let n := c.shared (0x20 + pn) % 2 ^ 17
      (∃ t, exec (.loopp cl pn last) s = .next t ∧ OnlyCluster s t cl ∧
        (t.cluster cl).loopStack = (if c.loopActive then pushed else c.loopStack) ∧
        (n = 0 → (t.cluster cl).pc = last + 1 ∧ (t.cluster cl).loopActive = c.loopActive ∧ (t.cluster cl).issued = c.issued + 3) ∧
        (n ≠ 0 → (t.cluster cl).pc = (s.cluster cl).pc + 1 ∧ (t.cluster cl).loopActive = true ∧ (t.cluster cl).shared 0x48 = n ∧
          (t.cluster cl).issued = c.issued + 1)) ∧
      ((s.cluster cl).saved = none → ∃ t, exec (.leave (.loop cl)) s = .next t ∧ OnlyCluster s t cl ∧ (t.cluster cl).pc = (s.cluster cl).pc + 1 ∧
        (t.cluster cl).loopStack = c.loopStack.tail ∧ (c.loopStack = [] → (t.cluster cl).loopActive = false) ∧
        ∀ f, c.loopStack.head? = some f → (t.cluster cl).loopActive = f.active ∧ (t.cluster cl).shared 0x48 = f.lc % 2 ^ 17 ∧
          (t.cluster cl).shared 0x49 = f.ls % 2 ^ 15 ∧ (t.cluster cl).shared 0x4A = f.le % 2 ^ 15)) ∧
    ((s.cluster cl).after = none → c.loopActive = true → c.pc = c.shared 0x4A →
      ∃ t, exec (.nop cl) s = .next t ∧ OnlyCluster s t cl ∧
        (1 < c.shared 0x48 → c.shared 0x48 < 2 ^ 17 → (t.cluster cl).pc = c.shared 0x49 ∧ (t.cluster cl).shared 0x48 = c.shared 0x48 - 1) ∧
        (c.shared 0x48 ≤ 1 → (t.cluster cl).pc = c.shared 0x4A + 1 ∧ (c.ik = true ∨ c.loopStack = [] → (t.cluster cl).loopActive = false)))

/-- R145, R116, R115, R129, R133, R172, R517, R170, R125, R137: a step of a cluster that runs its work set starts, in order and with its IN region
complete, with every register of the executing lanes zero but for sticky flags, noise and ISRC; on a gated cluster GATE_LATE is raised instead;
ENDS counts the cycles, and with its last delay slot the step ends and its OUT region drains, as zeros while the work set is contained.  The
wait for inputs in the cycle count is free (log 159). -/
def Obligations.StepsStartClearedAndEnd : Prop :=
  ∀ (s : State) (cl step : Nat),
    let c := s.cluster cl
    let n := c.issued + 7
    let total := (if c.stepsRun = 0 then 0 else c.cycles) + Config.stepWait cl c.stepNo c.stepTick + n
    (c.role = 1 ∨ c.role = 0 ∧ c.phase = 3 → step < c.img.steps.length → c.stepsRun = step → c.stepping = false → c.idle = false → step ∈ c.inFull →
      (s.pwr.gated.testBit cl = false → s.pwr.waking.testBit cl = false →
        ∃ t, exec (.clusterStepStart cl step) s = .next t ∧ OnlyCluster s t cl ∧ (t.cluster cl).stepping = true ∧ (t.cluster cl).stepNo = step ∧
          (t.cluster cl).stepTick = s.csw.proc ∧
          (∀ p, c.img.steps[step]? = some p → (t.cluster cl).pc = p.entry) ∧ (t.cluster cl).mask = c.img.initMask ∧
          (∀ code, code ≠ 0x4C → (t.cluster cl).shared code = 0) ∧ (t.cluster cl).shared 0x4C = c.shared 0x4C ∧
          (t.cluster cl).lanes.length = c.lanes.length ∧ (t.cluster cl).cmem = c.cmem ∧ (t.cluster cl).imem = c.imem ∧
          ∀ (k : Nat) (l l' : Lane), c.lanes[k]? = some l → (t.cluster cl).lanes[k]? = some l' →
            (k < c.laneCount → (∀ r, l'.sees r = 0 ∧ l'.acc r = 0) ∧ l'.fl = {}) ∧
            (c.laneCount ≤ k → l'.d = l.d ∧ l'.a = l.a ∧ l'.fl = l.fl) ∧ l'.st = l.st ∧ l'.noise = l.noise ∧
            ∀ a, step ≠ 0 ∨ (∀ r ∈ c.img.scratch, ¬(r.1 ≤ a ∧ a < r.1 + r.2)) → memGet l'.lmem a = memGet l.lmem a) ∧
      (s.pwr.gated.testBit cl = true → s.pwr.gateLate < 0xFFFF →
        exec (.clusterStepStart cl step) s = .next (({ s.quiet with pwr := { s.pwr with gateLate := s.pwr.gateLate + 1 } }).raise blkPwr 0x12 .u cl))) ∧
    (c.after = none → c.handler = false → (∀ p, c.img.steps[c.stepNo]? = some p → n ≤ p.worst) →
      ∃ t, exec (.ends cl) s = .next t ∧ OnlyCluster s t cl ∧ (t.cluster cl).after = some .ends ∧ (t.cluster cl).slots = 2 ∧
        (t.cluster cl).cycles = total % 2 ^ 20 ∧ (t.cluster cl).peak = max c.peak (total % 2 ^ 20) ∧ (t.cluster cl).pend = c.pend) ∧
    (c.after = none → c.handler = true →
      ∃ t, exec (.ends cl) s = .next t ∧ ControlIn s t cl ∧ (t.cluster cl).after = none ∧ (t.cluster cl).pend = c.pend) ∧
    (c.after = some .ends → c.slots ≤ 1 → c.ended = false →
      ∃ u, exec (.nop cl) s = .next (u.stepEnds cl) ∧ OnlyCluster s u cl ∧ (u.cluster cl).after = none ∧ (u.cluster cl).ended = true ∧
        (u.cluster cl).stepping = false) ∧
    ∀ k xs, c.role = 1 → c.stepTick = s.csw.proc → c.stepOuts s.dict.vals s.spt = [(k, xs)] →
      tfind (s.drain cl).csw.out (bankKey s.csw.proc k) = some (if (s.workSet c.wset).zeroOut then List.replicate s.spt 0 else xs)

/-- R485, R479, R490, R491, R495: an event of any class outside every shadow is recorded by its block; ERR_N is pulsed for class F and, with
UEN, for class U; a class F event while ticks run waits for the tick boundary, in Dusk it changes nothing, in Night it stands against a RESUME;
nothing else of the engine changes. -/
def Obligations.EventsAreRecordedAndSignalled : Prop :=
  ∀ (s : State) (b ev detail : Nat) (cls : EvClass), s.top.shadows = [] → s.time.running = true → s.top.errPw = 0x64 →
    let t := s.raise b ev cls detail
    let pulses := cls = .f ∨ cls = .u ∧ s.top.errUen = true
    Recorded s t b ev cls detail ∧
      t = { s with sent := t.sent, commons := t.commons, top := t.top, tw1 := t.tw1 } ∧
      t.top.state = s.top.state ∧ t.top.classF = (s.top.classF || decide (cls = .f ∧ s.top.state ≠ .dusk ∧ s.top.state ≠ .night)) ∧
      t.top.nightF = (if cls = .f ∧ s.top.state = .night then (b, ev) :: s.top.nightF else s.top.nightF) ∧
      (pulses → t.sent = s.sent ++ [.pin 0 true] ∧ (t.top.errPulse.map fun p => p.pw) = some 0x64 ∧ t.tw1.attnHw = s.tw1.attnHw ||| 1) ∧
      (¬pulses → t.sent = s.sent ∧ t.top.errPulse = s.top.errPulse ∧ t.tw1 = s.tw1)

/-- R501, R502, R505, R485: an event of class C or U inside the shadow of a running reset is logged as consequential with the code of the earliest
reset whose shadow overlaps and contains it, and neither counts, nor sets INT_STAT, nor moves ERR_N or the engine state. -/
def Obligations.ShadowsHoldEventsBack : Prop :=
  ∀ (s : State) (b ev who detail : Nat) (cls : EvClass) (x : Shadow), cls ≠ .f → s.shadowFor b ev who = some x →
    let t := s.raiseAs b ev cls who detail none
    (t.common b).intStat = (s.common b).intStat ∧ (t.common b).cntC = (s.common b).cntC ∧ (t.common b).cntU = (s.common b).cntU ∧
      (∃ e, (t.common b).hist.head? = some e ∧ e.code = b * 256 + ev ∧ e.conseq = true ∧ e.func = s.shadowFunc x b ev who ∧ e.detail = detail % 2 ^ 32) ∧
      (x.before = [] → s.shadowFunc x b ev who = x.func) ∧
      t.sent = s.sent ∧ t.top.state = s.top.state ∧ t.top.errPulse = s.top.errPulse ∧ t.tw1 = s.tw1

/-- R489: FORCE of one event logs it as FORCED with detail 0xFFFFFFFF, counts it and sets INT_STAT; without REACT the engine state stays. -/
def Obligations.ForcedEventsAreLoggedAsForced : Prop :=
  ∀ (s : State) (m : Master) (b ev : Nat) (cls : EvClass), s.MayWrite m b 0x14 → eventClass b ev = some cls → 0 < ev → ev < 32 →
    ∃ t, exec (.force m b (BitVec.ofNat 32 (2 ^ ev))) s = .next t ∧
      (t.common b).intStat = (s.common b).intStat ||| BitVec.ofNat 32 (2 ^ ev) ∧
      (t.common b).cntC = (s.common b).cntC + (if cls = .c then 1 else 0) ∧ (t.common b).cntU = (s.common b).cntU + (if cls = .u then 1 else 0) ∧
      (t.common b).cntF = (s.common b).cntF + (if cls = .f then 1 else 0) ∧ (t.common b).forceReact = false ∧
      (∃ e, (t.common b).hist.head? = some e ∧ e.code = b * 256 + ev ∧ e.forced = true ∧ e.conseq = false ∧ e.detail = 0xFFFFFFFF) ∧
      (∀ n, n ≠ b → t.common n = s.common n) ∧ t.top.state = s.top.state ∧ t.top.classF = s.top.classF ∧ t.top.faults = s.top.faults ∧ t.top.uev = s.top.uev ∧
      t = { s with sent := t.sent, commons := t.commons, top := t.top, tw1 := t.tw1 }

/-- R486, R487, R490: CLEAR empties a history; the primary core's read of INT_STAT returns it unchanged and stamps the entries that have no
stamp; the 1 ms poll stamps what is left in the blocks that are on, as polled. -/
def Obligations.HistoriesAreClearedAndStamped : Prop :=
  ∀ (s : State) (m : Master) (b : Nat),
    (s.MayWrite m b 0x18 → ∃ t, exec (.clear m b) s = .next t ∧ (t.common b).hist = [] ∧ (t.common b).dropped = 0 ∧
      (t.common b).intStat = (s.common b).intStat ∧ (∀ n, n ≠ b → t.common n = s.common n) ∧ t = { s with sent := [], commons := t.commons }) ∧
    (s.MayRead m b 0xC → s.isPrimary m = true → ∃ t, exec (.intStatRead m b) s = .next t ∧ t.sent = [.data [(s.common b).intStat.toNat]] ∧
      (t.common b).intStat = (s.common b).intStat ∧ (∀ e ∈ (t.common b).hist, e.stamped = true) ∧
      ((t.common b).hist.map fun e => e.code) = ((s.common b).hist.map fun e => e.code) ∧ (∀ n, n ≠ b → t.common n = s.common n)) ∧
    (∃ t, exec .faultPoll s = .next t ∧ ∀ n, n ∈ allBlocks → s.blockOn n = true →
      (t.common n).intStat = (s.common n).intStat ∧ (∀ e ∈ (t.common n).hist, e.stamped = true) ∧
      (t.common n).hist.length = (s.common n).hist.length)

/-- R495-R497: the end of a pulse releases ERR_N or, after a class F pulse with FHOLD, leaves it held; HOLD written 1 ends the hold, HOLD_SET
starts one. -/
def Obligations.ErrPinIsPulsedAndHeld : Prop :=
  ∀ (s : State) (m : Master) (p : ErrPulse),
    (s.top.errPulse = some p → ∃ t, exec .errPulseEnd s = .next t ∧ t.top.errHold = (s.top.errHold || p.hold) ∧
      t = { s with sent := [.pin 0 (s.top.errHold || p.hold)], top := { s.top with errPulse := none, errHold := s.top.errHold || p.hold } }) ∧
    (s.MayWrite m blkTop 0x120 → s.top.errHold = true →
      exec (.holdRelease m) s = .next { s with sent := [.pin 0 s.top.errPulse.isSome], top := { s.top with errHold := false } }) ∧
    (s.MayWrite m blkTop 0x120 →
      exec (.holdSet m) s = .next { s with sent := [.pin 0 true], top := { s.top with errHold := true } })

/-- R498-R501, R504, R484: FRST0 and FRST1 start a reset with its shadow at the running tick or, where R498 refuses it, set REJ; the reset ends with
FRST_DONE, or leaves its function held with FRST_FAIL; as its shadow closes, a condition that still holds is raised with PERSIST and FUNC. -/
def Obligations.FunctionResetsStartAndEnd : Prop :=
  ∀ (s : State) (m : Master) (f p : Nat),
    (s.MayWrite m blkTop 0x110 → f ≤ 10 ∨ 16 ≤ f ∧ f ≤ 24 → (s.top.resets.any fun r => r.func == f) = false →
      (s.resetRefused m f = false → ∃ t, exec (.frst0 m (BitVec.ofNat 32 (2 ^ f))) s = .next t ∧ t.top.resets = s.top.resets ++ [⟨f, s.time.tick⟩] ∧
        t.top.shadows = s.top.shadows ++ [⟨f, s.time.tick, shadowTicks f, [], s.downstream f, []⟩] ∧ t.top.frstRej = s.top.frstRej) ∧
      (s.resetRefused m f = true →
        exec (.frst0 m (BitVec.ofNat 32 (2 ^ f))) s = .next { s with sent := [], top := { s.top with frstRej := true } })) ∧
    (s.MayWrite m blkTop 0x114 → p < 64 → s.top.resets = [] → s.resetRefused m (0x40 + p) = false → (s.port p).up = false →
      ∃ t, exec (.frst1Go m p) s = .next t ∧ t.top.frstTarget = p ∧ t.top.resets = [⟨0x40 + p, s.time.tick⟩] ∧
        (t.top.shadows.map fun x => x.func) = (s.top.shadows.map fun x => x.func) ++ [0x40 + p] ∧
        (p < 32 → (t.port p).up = false ∧ (t.port p).cnt = [])) ∧
    (s.top.resets.any (fun r => r.func == f) = true → s.top.resetQ = [] → s.top.shadows = [] →
      (∃ t, exec (.frstDone f) s = .next t ∧ (t.top.resets = s.top.resets.filter fun r => r.func != f) ∧
        (t.common blkTop).intStat = (s.common blkTop).intStat ||| 0x10000 ∧ (t.common blkTop).cntC = (s.common blkTop).cntC + 1 ∧
        (∃ e, (t.common blkTop).hist.head? = some e ∧ e.code = 0x10 ∧ e.detail = f % 2 ^ 32 ∧ e.conseq = false) ∧
        (∀ b, resetBlock f = some b → t.common b = (s.common b).keepRws) ∧
        ∀ b, b ≠ blkTop → resetBlock f ≠ some b → t.common b = s.common b) ∧
      ∃ t, exec (.frstFail f) s = .next t ∧ Recorded s t blkTop 0x11 .u f ∧ (t.top.resets = s.top.resets.filter fun r => r.func != f) ∧
        t.top.frstHeld = s.top.frstHeld ++ [f] ∧ t = { s with sent := t.sent, commons := t.commons, top := t.top, tw1 := t.tw1 }) ∧
    (∀ x, s.top.shadows = [x] → x.held = [] → (∀ k, x.ticks = some k → x.openTick + k ≤ s.time.tick) →
      exec (.shadowClose x.func) s = .next { s with sent := [], top := { s.top with shadows := [] } }) ∧
    (∀ (x : Shadow) (h : HeldCond) (cls : EvClass), s.top.shadows = [x] → x.held = [h] → (∀ k, x.ticks = some k → x.openTick + k ≤ s.time.tick) →
      eventClass h.blk h.ev = some cls → cls ≠ .f →
      (s.conditionHolds h = false → exec (.shadowClose x.func) s = .next { s with sent := [], top := { s.top with shadows := [] } }) ∧
      (s.conditionHolds h = true → ∃ t e, exec (.shadowClose x.func) s = .next t ∧ t.top.shadows = [] ∧
        (t.common h.blk).intStat = (s.common h.blk).intStat ||| BitVec.ofNat 32 (2 ^ h.ev) ∧ (t.common h.blk).hist.head? = some e ∧
        e.code = h.blk * 256 + h.ev ∧ e.persist = true ∧ e.conseq = false ∧ e.func = x.func))

/-- R606, R607, R512, R387, R363: power-on, RST_N and the loss of SLOWCLK bring the engine back to Dawn, held in reset, with every register at its
reset value; the fuses, the flashes and, unless power was lost, a running grant and the media keys stay. -/
def Obligations.ResetsReturnToDawn : Prop :=
  ∀ (s : State) (p : Instr × Bool), p ∈ [(.powerOnReset, true), (.resetAssert, false), (.slowclkLoss, false)] →
    ∃ t, exec p.1 s = .next t ∧ t.top.state = .dawn ∧ t.top.inReset = true ∧ t.top.booted = false ∧ t.time = {} ∧ t.refsel = {} ∧ t.clusters = [] ∧
      t.commons = [] ∧ t.pwr = {} ∧ t.pair = {} ∧ t.memc = {} ∧ t.ports = [] ∧ t.sec.sessions = [] ∧ t.sec.mirrorKey = [] ∧ (t.dict.vals = if p.2 then [] else s.dict.vals.filter fun e => keyMember e.1) ∧
      (t.sec.grant = if p.2 then none else s.sec.grant) ∧ (t.sec.keys = if p.2 then [] else s.sec.keys) ∧
      t.sec.fuses = s.sec.fuses ∧ t.sec.secMin = s.sec.secMin ∧ t.sec.life = s.sec.life ∧ t.sec.used = s.sec.used ∧ t.sec.ownerHash = s.sec.ownerHash ∧
      t.fab.pagesA = s.fab.pagesA ∧ t.fab.pagesB = s.fab.pagesB ∧ t.dict.serial = s.dict.serial

/-- R559, R560, R368, R369: after the release of reset the firmware image with the higher GEN that passes every check starts on CTL0, flash A on a
tie, an image below SEC_MIN never; a missing identity key ends Dawn in Night. -/
def Obligations.BootRunsTheNewestImage : Prop :=
  ∀ (s : State) (d : DawnBoot) (i j : FwImage), s.top.inReset = true →
    (d.trngOk = true → d.idkOk = true → d.romOk = true → d.a = some i → d.b = some j → i.headOk = true → j.headOk = true →
      i.bodyOk = true → j.bodyOk = true → s.sec.secMin ≤ i.secVer → s.sec.secMin ≤ j.secVer →
      exec (.resetRelease d) s = .next { s with
        sent := []
        top := { s.top with inReset := false, booted := true, remap := true }
        sec := { s.sec with trngOk := true, idkOk := true, storageKey := Config.storageKey, idkScalar := Config.unwrap s.sec.idkWrapped }
        fab := { s.fab with
          primary := 0, stby := 1, runGen := max i.gen j.gen, runFlash := if i.gen < j.gen then 1 else 0
          runSecVer := if i.gen < j.gen then j.secVer else i.secVer } }) ∧
    (d.trngOk = true → d.idkOk = true → d.romOk = true → d.a = some i → d.b = some j → i.headOk = true → j.headOk = true → i.gen < j.gen →
      i.bodyOk = true → s.sec.secMin ≤ i.secVer → (j.bodyOk = false ∨ j.secVer < s.sec.secMin) →
      ∃ t, exec (.resetRelease d) s = .next t ∧ t.top.booted = true ∧ t.fab.runGen = i.gen ∧ t.fab.runFlash = 0) ∧
    (d.idkOk = false → ∃ t, exec (.resetRelease d) s = .next t ∧ t.top.state = .night ∧ t.top.cause = 3 ∧ t.top.booted = s.top.booted)

/-- R560, R561, R566, R28, R575: with every self-test passed, DAWN_COMPLETE, and RESUME and OP_RESUME from standby, enter Morning with CAUSE 2, 9 and 9, every
domain on; with no valid copy of the configuration the engine starts from the defaults; a RESUME during a SAVE waits for its end. -/
def Obligations.MorningFollowsDawnAndResume : Prop :=
  ∀ (s : State) (d : DawnResult), d.failed = [] → d.badChans = [] → d.dramCfgOk = true → d.auto = false → s.top.cfgA = none → s.top.cfgB = none →
    (s.top.state = .dawn → s.top.inReset = false → s.top.booted = true →
      ∃ t, exec (.dawnComplete d) s = .next t ∧ t.top.state = .morning ∧ t.top.prev = .dawn ∧ t.top.cause = 2 ∧ t.pwr.on = 0x1FFFF ∧
        t.top.dawnMs = d.ms % 2 ^ 32 ∧ t.dict.vals = (s.dict.vals.filter fun e => keyMember e.1) ∧ t.time.running = s.time.todSet) ∧
    (s.top.state = .night → s.top.nightDeep = false → s.classFHolds = false → s.top.saveRun = false → s.memc.ppr = none →
      ∀ c : Instr, c = .resume d ∨ (c = .opResume .pec d ∧ s.resetting 9 = false) → ∃ t, exec c s = .next t ∧ t.top.state = .morning ∧ t.top.prev = .night ∧ t.top.cause = 9 ∧ t.pwr.on = 0x1FFFF) ∧
    (s.top.state = .night → s.top.nightDeep = false → s.classFHolds = false → s.top.saveRun = true →
      exec (.resume d) s = .next { s with sent := [], top := { s.top with resumeWaits := some d } }) ∧
    (s.top.state = .night → s.top.nightDeep = false → s.classFHolds = false → s.top.resumeWaits = some d → s.top.saveCopy.isSome = true → s.top.saveQ = none →
      s.memc.ppr = none →
      ∃ t, exec (.saveDone 3) s = .next t ∧ t.top.result = 3 ∧ t.top.state = .morning ∧ t.top.cause = 9)

/-- R308, R568, R28: TIME_LOCK with a steady selected reference, READY in Morning, and the passage of an unpaired engine to Noon once it is owned,
time-locked and configured. -/
def Obligations.NoonNeedsLockAndConfiguration : Prop :=
  ∀ (s : State) (e : Nat),
    (s.refsel.inUse = some e → (tget {} s.refsel.entries e).st = 4 → s.refsel.switchTo = none → s.aligned = true →
      exec .timeLock s = .next { s with sent := [], refsel := { s.refsel with mode := 2 }, top := { s.top with timeLocked := true } }) ∧
    (s.top.state = .morning → exec .ready s = .next { s with sent := [], top := { s.top with cfgReady := true } }) ∧
    (s.top.state = .morning → s.time.ticked = true → s.sec.life = 1 → s.top.timeLocked = true → s.top.cfgReady = true → s.paired = false →
      s.top.classF = false → s.top.leaveAt = none →
      ∃ t, exec .morningToNoon s = .next t ∧ t.top.state = .noon ∧ t.top.prev = .morning ∧ t.top.cause = 4 ∧ t.pair.role = 0 ∧
        t.tw1.attnHw = s.tw1.attnHw ||| 2 ∧ t = { s with sent := [], top := t.top, tw1 := t.tw1, pair := { s.pair with role := 0 } })

/-- R28, R573, R336: LEAVE from Noon takes effect at the next tick, and an ACTIVE engine of a pair hands over 16 ticks ahead; Dusk ends in Night
when everything has drained, or after 64 ticks. -/
def Obligations.LeavingDrainsIntoNight : Prop :=
  ∀ s : State,
    (s.top.state = .noon → s.pair.role = 0 → exec (.leave .service) s = .next { s with
      sent := [], top := { s.top with leaveAt := some (s.time.tick + 1) } }) ∧
    (s.top.state = .noon → s.pair.role = 1 → s.pair.noOwl = false → exec (.leave .service) s = .next { s with
      sent := s.owlMail Config.pairNumber 7 (s.cfg 0xB000 3) s.pair.epoch (s.time.tick + 16) 0 []
      top := { s.top with leaveAt := some (s.time.tick + 1) }
      pair := { s.pair with handoverAt := some (s.time.tick + 16) } }) ∧
    (∀ p : Instr × Prop × Nat, p ∈ [(.drainComplete, (s.pair.role ≠ 1 ∨ s.pair.fenced = true) ∧ s.drainIdle = true, 7),
        (.duskTimeout, 64 ≤ s.top.duskTicks, 8)] → s.top.state = .dusk → p.2.1 →
      ∃ t, exec p.1 s = .next t ∧ t.top.state = .night ∧ t.top.prev = .dusk ∧ t.top.cause = p.2.2 ∧ t.time.running = false ∧
        t.sec.sessions = [] ∧ t.csw.fades = [] ∧ t.top.resets = [] ∧ t.top.timeLocked = false ∧ t.top.cfgReady = false)

/-- R564: SAVE captures the configuration after the commit of its tick, once that is sealed, with a GEN above both copies; SAVE_DONE writes it over the copy with the lower GEN, copy B on a tie,
writes nothing when it is full, and leaves the copy invalid after a flash error. -/
def Obligations.SavesAlternateTheCopies : Prop :=
  ∀ (s : State) (tick : Nat) (c : CfgCopy),
    (s.top.saveRun = false → ∃ t, exec (.save tick) s = .next t ∧ t.top.saveRun = true ∧ t.top.result = 1 ∧
      t = { s with sent := [], top := t.top } ∧ t.top.cfgA = s.top.cfgA ∧ t.top.cfgB = s.top.cfgB ∧
      (s.outOfService = true ∨ (if tick = 0 then 0 < s.sealedTo else tick < s.sealedTo) → ∃ x, t.top.saveCopy = some x ∧ t.top.saveFor = none ∧
        x.gen = max (cfgGenOf s.top.cfgA) (cfgGenOf s.top.cfgB) + 1 ∧ x.valid = true) ∧
      (s.outOfService = false → s.sealedTo ≤ tick → t.top.saveCopy = none ∧ t.top.saveFor = some tick)) ∧
    (s.top.saveRun = true → exec (.save tick) s = .next { s with sent := [], top := { s.top with saveQ := some tick } }) ∧
    (s.top.saveCopy = some c → s.top.saveRun = true → s.top.saveQ = none → s.top.resumeWaits = none →
      let b := cfgGenOf s.top.cfgB ≤ cfgGenOf s.top.cfgA
      (∃ t, exec (.saveDone 2) s = .next t ∧ t.top.result = 2 ∧ t.top.cfgGen = c.gen ∧ t.top.saveRun = false ∧
        (b → t.top.cfgB = some c ∧ t.top.cfgA = s.top.cfgA) ∧ (¬b → t.top.cfgA = some c ∧ t.top.cfgB = s.top.cfgB)) ∧
      (∃ t, exec (.saveDone 3) s = .next t ∧ t.top.result = 3 ∧ t.top.cfgA = s.top.cfgA ∧ t.top.cfgB = s.top.cfgB ∧ t.top.saveRun = false) ∧
      ∃ t, exec (.saveDone 4) s = .next t ∧ t.top.result = 4 ∧ t.top.saveRun = false ∧
        (b → t.top.cfgB = some { c with valid := false } ∧ t.top.cfgA = s.top.cfgA) ∧
        (¬b → t.top.cfgA = some { c with valid := false } ∧ t.top.cfgB = s.top.cfgB))

/-- R285-R287, R295, R300, R312: SET steps the counter in Dawn when TOD_SRC is HOST; INC_LOAD applies INT and FRAC together in Dawn, in Night and in
Morning without a selected reference, and is refused with CFG_REJ elsewhere; the closed loop pulls corr by at most 50 ppm of inc, and until it is
locked moves by no more than FSLEW has let it since the last update. -/
def Obligations.TimeIsSetLoadedAndPulled : Prop :=
  ∀ (s : State) (ns : Nat) (m : Master) (corr : Int),
    (s.top.state = .dawn → s.cfg 0x1001 1 = 1 → ∃ t, exec (.set ns) s = .next t ∧ t = { s with sent := [], time := t.time } ∧
      t.time.counter = ns % 2 ^ 64 * 2 ^ 32 ∧ t.time.todSet = true ∧ t.time.running = false ∧ t.time.inc = s.time.inc) ∧
    (s.MayWrite m blkTime 0x104 → s.top.state = .dawn ∨ s.top.state = .night ∨ s.top.state = .morning ∧ s.refsel.inUse = none →
      ∃ t, exec (.incLoad m) s = .next t ∧ t.time.inc = s.time.incInt * 2 ^ 32 + s.time.incFrac.toNat ∧
        t = { s with sent := [], freeCtr := t.freeCtr, time := { s.time with inc := t.time.inc, counter := t.time.counter } }) ∧
    (s.MayWrite m blkTime 0x104 → s.top.state = .noon ∨ s.top.state = .dusk ∨ s.top.state = .morning ∧ s.refsel.inUse ≠ none →
      ∃ t, exec (.incLoad m) s = .next t ∧ (t.common blkTime).cfgRej = true ∧ (∀ b, b ≠ blkTime → t.common b = s.common b) ∧
        t = { s with sent := [], commons := t.commons }) ∧
    (s.refsel.mode = 1 ∨ s.refsel.mode = 2 → ∃ t, exec (.dpllUpdate corr) s = .next t ∧
      t = { s with
        sent := [], freeCtr := t.freeCtr, time := { s.time with corr := t.time.corr, counter := t.time.counter }
        refsel := { s.refsel with loopCorr := t.refsel.loopCorr, slewLeft := t.refsel.slewLeft } } ∧
      let lim : Int := s.time.inc * 50 / 1000000
      let step : Int := s.refsel.slewLeft / 1000000000000
      t.time.corr ≤ lim ∧ -lim ≤ t.time.corr ∧
        (s.refsel.mode = 1 → t.refsel.loopCorr ≤ s.refsel.loopCorr + step ∧ s.refsel.loopCorr - step ≤ t.refsel.loopCorr) ∧
        (s.refsel.mode = 2 → s.refsel.realign = 0 → -lim ≤ corr → corr ≤ lim → t.time.corr = corr))

/-- R288, R289: ARM loads target and period from the staging registers; a unit whose target the counter has passed at the write fires at once with
LATE_ARM; an armed unit fires as the counter reaches its target (while ticks run, one behind the next tick's start waits for that tick's event, log
186), which sets FIRED and, in periodic mode, moves the target on by the period, else ends ARM. -/
def Obligations.CompareUnitsArmAndFire : Prop :=
  ∀ (s : State) (m : Master) (u : Nat),
    let c := s.time.cmp u
    let now := s.quiet.elapse.time.counter
    let target := c.hi % 2 ^ 16 * 2 ^ 32 + c.lo.toNat
    let here := reached (s.time.counter / 2 ^ 32) c.target
    (s.MayWrite m blkTime (0x20C + 16 * u) → reached (now / 2 ^ 32) target = false →
      ∃ t, exec (.cmpArm m u) s = .next t ∧ t.time.cmp u = { c with target := target, period := c.per.toNat, arm := true } ∧
        (∀ v, v ≠ u → t.time.cmp v = s.time.cmp v) ∧ t = { s with sent := [], freeCtr := t.freeCtr, time := t.time } ∧ t.time.counter = now) ∧
    (s.MayWrite m blkTime (0x20C + 16 * u) → reached (now / 2 ^ 32) target = true →
      ∃ t, exec (.cmpArm m u) s = .next t ∧ (t.time.cmp u).lateArm = true ∧ (t.time.cmp u).fired = true) ∧
    (c.arm = true → here = true ∨ s.time.running = false ∨ s.cmpGoal u ≤ s.tickStart (s.time.tick + 1) →
      ∃ t, exec (.cmpFire u) s = .next t ∧ t = { s with sent := t.sent, time := t.time } ∧ (∀ v, v ≠ u → t.time.cmp v = s.time.cmp v) ∧
        t.time.counter = (if here then s.time.counter else s.time.countTo (s.cmpGoal u)) ∧
        (c.periodic = true → t.time.cmp u = { c with fired := true, target := (c.target + c.period) % 2 ^ 48, period := c.per.toNat }) ∧
        (c.periodic = false → t.time.cmp u = { c with fired := true, arm := false }))

/-- R296, R297: an evaluation disqualifies an enabled entry that has lost its signal (cause LOS) or exceeds its hard limit (cause HARD), and starts the
qualification of a disqualified entry that passes both; the phase it records is that of a phase-bearing entry, 0 for any other (R294, R322). -/
def Obligations.EvaluationsDisqualifyEntries : Prop :=
  ∀ (s : State) (x : RefMeas), s.top.state ≠ .night → x.entry < 16 → s.entryOn x.entry = true →
    let e := tget ({} : RefEntry) s.refsel.entries x.entry
    let hard := (1000 * s.cfg (0x1100 + x.entry) 6 : Int) < |x.f|
    let src := s.cfg (0x1100 + x.entry) 2
    let bears := s.timeBearing x.entry = true ∨ 16 ≤ src ∧ src ≤ 31 ∨ src ≤ 3 ∧ s.cfg (0x1100 + x.entry) 3 = 0 ∧ x.atFs = true
    ∃ t, exec (.refselEvaluation [x]) s = .next t ∧
      let e' := tget ({} : RefEntry) t.refsel.entries x.entry
      e'.los = x.los ∧ e'.f = x.f ∧ e'.drift = x.drift ∧ (bears → e'.phase = x.phase) ∧ (¬bears → e'.phase = 0) ∧
      (x.los = true → e'.st = 0 ∧ e'.cause = 1) ∧ (x.los = false → hard → e'.st = 0 ∧ e'.cause = 2) ∧
      (x.los = false → ¬hard → e.st = 0 → e'.st = 1 ∧ e'.qualMs = 0)

/-- R297, R298, R300, R301: an entry that passed its tests for QUAL is QUALIFIED, with a wait to restore where it ranks above the one in use; a SUSPECT
entry within 90 % of its limits for 5 s recovers; the end of DWELL of the entry in use starts the switch to the highest-priority QUALIFIED entry, the
end of WTR that to the entry itself where it is the highest-priority one and ranks above the one in use, with corr held at its mean over the 100 ms
before; REF_SWITCH selects the new entry, keeps what realignment has to remove, and is an event of class C. -/
def Obligations.EntriesQualifyRecoverAndSwitch : Prop :=
  ∀ (s : State) (e q u : Nat) (off : Int),
    let x := tget ({} : RefEntry) s.refsel.entries e
    let others (t : State) : Prop := ∀ n, n ≠ e → tget ({} : RefEntry) t.refsel.entries n = tget {} s.refsel.entries n
    let frozen := (corrMean (rleTake 100 s.refsel.untilLeft)).getD s.time.corr
    let switching (t : State) (n : Nat) : Prop := t = { s with
      sent := [], freeCtr := t.freeCtr, time := { s.time with corr := frozen, counter := t.time.counter }
      refsel := { s.refsel with switchTo := some n, mode := 4, loopCorr := frozen, slewLeft := 0, realign := 0, buildOut := 0 } }
    (x.st = 1 → 1000 * s.cfg (0x1100 + e) 9 ≤ x.qualMs →
      ∃ t, exec (.qualExpiry e) s = .next t ∧ t = { s with sent := [], refsel := { s.refsel with entries := t.refsel.entries } } ∧
      (s.refsel.switchTo = some u ∨ s.refsel.switchTo = none ∧ s.refsel.inUse = some u →
        tget ({} : RefEntry) t.refsel.entries e = { x with st := 2, wtr := if e < u ∧ s.cfgOn 0x1010 3 = true then some 0 else none }) ∧
      (s.refsel.switchTo = none → s.refsel.inUse = none → tget ({} : RefEntry) t.refsel.entries e = { x with st := 2, wtr := none }) ∧ others t) ∧
    (x.st = 3 → x.cause ≠ 5 → 5000 ≤ x.recMs →
      ∃ t, exec (.suspectRecovery e) s = .next t ∧ t = { s with sent := [], refsel := { s.refsel with entries := t.refsel.entries } } ∧
      (s.refsel.inUse = some e → tget ({} : RefEntry) t.refsel.entries e = { x with st := 4 }) ∧
      (s.refsel.inUse ≠ some e → tget ({} : RefEntry) t.refsel.entries e = { x with st := 1, qualMs := 0 }) ∧ others t) ∧
    (s.cfg 0x1010 1 = 0 → s.refsel.inUse = some u → s.refsel.switchTo = none → s.refsel.best = some q →
      (tget ({} : RefEntry) s.refsel.entries u).st = 3 → 1000 * s.cfg (0x1100 + u) 8 ≤ (tget ({} : RefEntry) s.refsel.entries u).suspMs →
      ∃ t, exec .dwellExpiry s = .next t ∧ switching t q) ∧
    (s.cfg 0x1010 1 = 0 → s.cfgOn 0x1010 3 = true → s.refsel.inUse = some u → s.refsel.switchTo = none → s.refsel.best = some e → e < u →
      (∃ n, x.wtr = some n ∧ 1000 * s.cfg (0x1100 + e) 10 ≤ n) →
      ∃ t, exec (.wtrExpiry e) s = .next t ∧ switching t e) ∧
    (s.refsel.switchTo = some q → s.top.shadows = [] →
      ∃ t, exec (.refSwitch off) s = .next t ∧ Recorded s t blkRefsel 0x13 .c s.tickDetail ∧ t.time = s.time ∧
        t.refsel = { s.refsel with
          entries := t.refsel.entries, inUse := some q, switchTo := none, mode := 1, hoSpec := false, buildOut := t.refsel.buildOut } ∧
        (s.timeBearing q = true → t.refsel.buildOut = 1000 * off) ∧ (s.phaseBearing q = false → t.refsel.buildOut = 0) ∧
        ((tget ({} : RefEntry) s.refsel.entries q).st = 2 → (tget ({} : RefEntry) t.refsel.entries q).st = 4) ∧
        (s.refsel.inUse = some u → u ≠ q → (tget ({} : RefEntry) s.refsel.entries u).st = 4 → (tget ({} : RefEntry) t.refsel.entries u).st = 2) ∧
        ∀ n, n ≠ q → s.refsel.inUse ≠ some n → (tget ({} : RefEntry) t.refsel.entries n).st = (tget ({} : RefEntry) s.refsel.entries n).st)

/-- R290-R293, R303, R304, R306, R309: loss of the holdover specification, of XO_IN and of the APLL are events of classes U, F and F; a master port of
the boundary clock sends Sync, with its transmit timestamp in it or in Follow_Up, and Announce, the slave port its Delay_Req. -/
def Obligations.ClockFailuresAreEvents : Prop :=
  ∀ (s : State) (p : Nat), s.top.shadows = [] → s.time.running = true →
    let stays := s.top.state = .dusk ∨ s.top.state = .night
    (s.refsel.mode = 3 → s.refsel.hoSpec = true → s.hoExceeds = true → ∃ t, exec .hoSpecLost s = .next t ∧
      Recorded s t blkRefsel 0x16 .u (s.time.tick % 2 ^ 32) ∧ t.refsel = { s.refsel with hoSpec := false } ∧ t.top.state = s.top.state) ∧
    (∃ t, exec .xoFail s = .next t ∧ Recorded s t blkTime 0x10 .f (s.time.tick % 2 ^ 32) ∧ t.pwr = { s.pwr with xoValid := false } ∧
      t.top.classF = (s.top.classF || decide ¬stays)) ∧
    (∃ t, exec .apllUnlock s = .next t ∧ Recorded s t blkRefsel 0x17 .f (s.time.tick % 2 ^ 32) ∧ t.refsel = { s.refsel with apllLocked := false } ∧
      t.top.classF = (s.top.classF || decide ¬stays)) ∧
    (s.cfgOn 0x1200 5 p = true → (s.port p).up = true → s.refsel.ptpMaster ≠ some p → ∃ t cls src, exec (.ptpSend p) s = .next t ∧
      (let stamp : Int := 125 * ((t.time.counter * 8 / 2 ^ 32 : Nat) : Int) + s.cfgI (0xC000 + p) 3 0
       (s.cfgOn 0x1200 9 p = true → .ptp p 0 0 0 stamp [] ∈ t.sent) ∧
        (s.cfgOn 0x1200 9 p = false → .ptp p 0 0 0 0 [] ∈ t.sent ∧ .ptp p 8 0 0 stamp [] ∈ t.sent)) ∧
      .ptp p 11 cls src 0 [] ∈ t.sent ∧ (∀ c, s.clockClass = some c → cls = c) ∧
      (s.cfgOn (0xC300 + p) 1 = false → t = { s with sent := t.sent, freeCtr := t.freeCtr, time := { s.time with counter := t.time.counter } })) ∧
    (s.cfgOn 0x1200 5 p = true → (s.port p).up = true → s.refsel.ptpMaster = some p → s.cfg 0x1200 8 ≠ 1 →
      ∃ t, exec (.ptpSend p) s = .next t ∧ .ptp p 1 0 0 0 [] ∈ t.sent)

/-- R25, R26, R507-R509, R417: one domain switches at a time: SWITCH starts a switch, or is refused with PWR_REJ where R26 forbids it
or the cluster is FAULTY (R111); the end of the switch sets or clears the domain's bit, and makes an OFF cluster SPARE; XO_IN starts the order of Dawn; a port half that goes down stops its ports.  That a standby core's domain also
stays on while an image is staged or watched is the model's choice (log 167). -/
def Obligations.DomainsSwitchOneAtATime : Prop :=
  ∀ (s : State) (d : Nat) (on : Bool),
    (d < 17 → s.pwr.busy = none → s.pwr.on.testBit d = !on → (on = false → s.mayGoOff d = true) → (on = true → s.heldDown d = false) →
      exec (.switch d on) s = .next { s with sent := [], pwr := { s.pwr with busy := some d, switchOn := on, avsHold := s.pwr.avsHold || on } }) ∧
    (on = false ∧ s.mayGoOff d = false ∨ on = true ∧ s.heldDown d = true → ∃ t, exec (.switch d on) s = .next t ∧ (t.common blkPwr).pwrRej = true ∧
      (∀ b, b ≠ blkPwr → t.common b = s.common b) ∧ t = { s with sent := [], commons := t.commons }) ∧
    (s.pwr.busy = some d → s.pwr.switchOn = true → s.pwr.queue = [] →
      ∃ t, exec (.domainOn d) s = .next t ∧ t = { s with sent := [], clusters := t.clusters, pwr := { s.pwr with on := s.pwr.on ||| 2 ^ d, busy := none } } ∧
        (d < 8 ∨ (s.cluster (d - 8)).role ≠ 2 → t.clusters = s.clusters) ∧
        (8 ≤ d → (s.cluster (d - 8)).role = 2 → t.cluster (d - 8) = { s.cluster (d - 8) with role := 0 })) ∧
    (s.pwr.busy = some d → s.pwr.switchOn = false → s.pwr.queue = [] → ∃ t, exec (.domainOff d) s = .next t ∧ t.pwr.busy = none ∧
      (∀ n, t.pwr.on.testBit n = (s.pwr.on.testBit n && n != d)) ∧ (d = 6 → t.memc.dram = []) ∧ (d = 7 → t.mix = {} ∧ t.dyn = {} ∧ t.dp = {} ∧ t.aln = {} ∧ t.sil = {}) ∧
      (8 ≤ d → (t.cluster (d - 8)).role = if (s.cluster (d - 8)).role = 3 then 3 else 2)) ∧
    (s.top.state = .dawn → s.top.inReset = false → s.pwr.busy = none → s.pwr.on.testBit 0 = false →
      exec .xoInValid s = .next { s with sent := [], pwr := { s.pwr with
        xoValid := true, busy := some 0, switchOn := true, avsHold := true
        queue := [1, 2, 3, 6, 4, 5, 7, 8, 9, 10, 11, 12, 13, 14, 15, 16].map fun n => (n, true) } }) ∧
    (∀ p : Instr × Nat, p ∈ [(.north true, 4), (.south true, 5)] → s.mayGoOff p.2 = true → s.groups = [] → s.pwr.busy = none → s.pwr.on.testBit p.2 = true →
      ∃ t, exec p.1 s = .next t ∧ t.pwr.busy = some p.2 ∧ t.pwr.switchOn = false ∧ ∀ n, n < 32 → portIn p.2 n = true → (t.port n).up = false)

/-- R513, R514, R519-R524: the AVS loop raises its set point by two steps below 15 units of margin and by one below its target, up to 40; regulators,
temperatures and voltages are supervised with their events; a thermal trip switches everything off. -/
def Obligations.SuppliesAndTemperaturesAreSupervised : Prop :=
  ∀ (s : State) (m : Int) (ms : List Int) (q : RegPoll) (rail : Nat) (fail : Bool), s.top.shadows = [] → s.time.running = true →
    (s.pwr.on.testBit 1 = true → s.avsHeld = false → (∀ y ∈ ms, m ≤ y) → ∃ t, exec (.avsEvaluation (m :: ms)) s = .next t ∧ t.pwr.margin = m ∧
      (m < 15 → t.pwr.vset = min 40 (s.pwr.vset + 2)) ∧ (15 ≤ m → m < s.cfg 0xD300 3 → t.pwr.vset = min 40 (s.pwr.vset + 1)) ∧
      (15 ≤ m → (s.cfg 0xD300 3 : Int) ≤ m → m ≤ s.cfg 0xD300 3 + 20 → t.pwr.vset = s.pwr.vset)) ∧
    (s.pwr.on.testBit 1 = true → s.resetting 8 = false → blkTw0 ∉ s.top.absent → q.reg < 16 → s.cfg (0xD310 + q.reg) 1 ≠ 0 → q.ack = false →
      (tget ({} : Regulator) s.pwr.regs q.reg).nackPolls = 2 → ∃ t, exec (.regulatorPoll [q]) s = .next t ∧ Recorded s t blkPwr 0x15 .u q.reg ∧
        (tget ({} : Regulator) t.pwr.regs q.reg).present = false ∧ (tget ({} : Regulator) t.pwr.regs q.reg).status = 0 ∧ t.tw1.attnHw.testBit 3 = true) ∧
    (∃ t, exec (.thermalRead (m :: ms)) s = .next t ∧ t.pwr.tmax ∈ m :: ms ∧ (∀ y ∈ m :: ms, y ≤ t.pwr.tmax) ∧ (m :: ms)[t.pwr.sensor]? = some t.pwr.tmax ∧
      ((s.thermAt 3 ≤ t.pwr.tmax) → t.pwr.therm = 3) ∧ ((∀ l ∈ [1, 2, 3], t.pwr.tmax ≤ s.thermAt l - 3) → t.pwr.therm = 0)) ∧
    (∃ t, exec .thermTrip s = .next t ∧ t.top.state = .night ∧ t.top.cause = 5 ∧ t.pwr.on = 0 ∧ t.time.running = false ∧ t.sec.sessions = []) ∧
    (rail < 9 → ∃ t, exec (.vmonWarn rail fail) s = .next t ∧ t.pwr = { s.pwr with vmon := s.pwr.vmon ||| 2 ^ rail } ∧
      (fail = false → Recorded s t blkPwr 0x1A .c (s.time.tick % 2 ^ 32)) ∧ (fail = true → Recorded s t blkPwr 0x1B .f (s.time.tick % 2 ^ 32) ∧ (s.top.state = .noon → t.top.classF = true)))

/-- R536-R540, R553: TW0 runs one transaction at a time, PWR's first; a try that is not acknowledged is an event of class C and is retried, until RETRY
retries have failed; a clock held low and a stuck bus are events of class U. -/
def Obligations.ControllerBusRetriesAndReports : Prop :=
  ∀ (s : State) (j : Tw0Job) (q : List Tw0Job), s.top.shadows = [] → s.resetting 8 = false → s.pwr.on.testBit 1 = true →
    (s.tw0.cur = none → s.tw0.next = (j, q) → exec (.tw0Transaction { res := .done, stretched := false }) s = .next { s with
      sent := [.bus (BitVec.ofNat 8 (2 * j.addr) :: j.data)], tw0 := { s.tw0 with cur := none, queue := q, tries := 0, busBusy := false } }) ∧
    (s.tw0.cur = none → s.tw0.next = (j, q) → 0 < s.tw0.retry → ∃ t, exec (.tw0Transaction { res := .nack, stretched := false }) s = .next t ∧
      Recorded s t blkTw0 0x12 .c s.tickDetail ∧ t.tw0 = { s.tw0 with cur := some j, queue := q, tries := 0, busBusy := false }) ∧
    (s.tw0.cur = some j → exec (.tw0Retry { res := .done, stretched := false }) s = .next { s with
      sent := [.bus (BitVec.ofNat 8 (2 * j.addr) :: j.data)], tw0 := { s.tw0 with cur := none, tries := 0, busBusy := false } }) ∧
    (s.tw0.cur = some j → s.tw0.tries + 1 < s.tw0.retry → ∃ t, exec (.tw0Retry { res := .nack, stretched := false }) s = .next t ∧
      Recorded s t blkTw0 0x12 .c s.tickDetail ∧ t.tw0 = { s.tw0 with tries := s.tw0.tries + 1, busBusy := false }) ∧
    (s.tw0.cur = some j → s.tw0.tries < s.tw0.retry → ∃ t, exec .twTimeout s = .next t ∧ Recorded s t blkTw0 0x14 .u s.tickDetail ∧
      t.tw0 = { s.tw0 with busBusy := true }) ∧
    exec (.twBusStuck true) s = .next { s with sent := [], tw0 := { s.tw0 with stuck := false, busBusy := false } } ∧
    ∃ t, exec (.twBusStuck false) s = .next t ∧ Recorded s t blkTw0 0x15 .u s.tickDetail ∧ t.tw0 = { s.tw0 with stuck := true, busBusy := true }

/-- R541-R545, R554, R556, R575: TW1 answers STAT and BUF_RD with their PEC, writes its buffer, wakes the engine from Night, reports failed PECs and
timeouts, requests attention while a bit is set, and follows PD_FAB with its timing. -/
def Obligations.TargetBusServesItsCommands : Prop :=
  ∀ (s : State) (off len : Nat) (data : List Byte) (d : DawnBoot) (i : FwImage), s.resetting 9 = false → s.top.shadows = [] →
    let a := BitVec.ofNat 8 (2 * s.tw1.addr)
    let a1 := BitVec.ofNat 8 (2 * s.tw1.addr + 1)
    let st := BitVec.ofNat 8 s.tw1.lastStatus :: BitVec.ofNat 8 s.tw1.dstate :: beBytes 2 s.tw1.resp.length
    exec .stat s = .next { s with sent := [.bus (st ++ [crc8 ([a, 3, a1] ++ st)])] } ∧
    (s.tw1Gate = 0 → 0 < len → len ≤ 64 → off + len ≤ 512 → off + len ≤ s.tw1.resp.length →
      let out := (0 : Byte) :: (s.tw1.resp.drop off).take len
      exec (.tw1BufRd off len) s = .next { s with
        sent := [.bus (out ++ [crc8 ([a, 0x12] ++ (beBytes 2 off ++ beBytes 1 len) ++ [a1] ++ out)])] }) ∧
    (Memory.wf s.tw1.req = true → s.tw1Gate = 0 → s.tw1.dstate ≠ 1 → data ≠ [] → data.length ≤ 64 → off + data.length ≤ 512 → ∃ t, exec (.tw1BufWr off data .pec) s = .next t ∧
      (∀ k, memGet t.tw1.req k = if off ≤ k ∧ k < off + data.length then (data[k - off]?).getD 0 else memGet s.tw1.req k) ∧
      t = { s with sent := [], tw1 := { s.tw1 with req := t.tw1.req, lastStatus := 0 } }) ∧
    (∃ t, exec (.tw1BufWr off data .badPec) s = .next t ∧ Recorded s t blkTw1 0x11 .c s.tickDetail ∧ t.tw1 = { s.tw1 with lastStatus := 1 }) ∧
    (∃ t, exec (.tw1BufWr off data .cut) s = .next t ∧ Recorded s t blkTw1 0x10 .c s.tickDetail ∧ t.tw1 = s.tw1) ∧
    (s.top.state = .night → d.trngOk = true → d.idkOk = true → d.romOk = true → d.a = some i → d.b = some i → i.headOk = true → i.bodyOk = true →
      s.sec.secMin ≤ i.secVer → ∃ t, exec (.opWake .pec d) s = .next t ∧ t.top.state = .dawn ∧ t.top.booted = true ∧ t.fab.runGen = i.gen ∧
        t.tw1.lastStatus = 0 ∧ t.sec.fuses = s.sec.fuses) ∧
    (∃ t, exec .tw1Timeout s = .next t ∧ Recorded s t blkTw1 0x12 .c s.tickDetail ∧ t.tw1 = s.tw1) ∧
    (s.tw1.attnHw ≠ 0 → s.tw1.attnRep ≠ 0 → exec .attn s = .next { s with sent := [.pin 1 true], tw1 := { s.tw1 with asked := true } }) ∧
    exec .tw1TimingSwitch s = .next { s with sent := [], tw1 := { s.tw1 with fast := s.pwr.on.testBit 1 } }

/-- R543, R545, R547, R549: TW1 reads and writes the registers of PD_AON; a DICT_GO of TW1 or HOSTP runs the request in its buffer. -/
def Obligations.BuffersCarryDictionaryRequests : Prop :=
  ∀ (s : State) (b off len : Nat) (v : Word) (r : DictReq),
    (s.resetting 9 = false → b = blkPwr ∨ b = blkTw1 → off < 65536 → off % 4 = 0 → regAssigned b off = true → ∃ t, exec (.tw1RegRd (regAddr b off)) s = .next t ∧
      let out := (0 : Byte) :: beBytes 4 (s.regVal .dma b off)
      t.sent = [.bus (out ++ [crc8 ([BitVec.ofNat 8 (2 * s.tw1.addr), 1] ++ beBytes 4 (regAddr b off) ++ [BitVec.ofNat 8 (2 * s.tw1.addr + 1)] ++ out)])] ∧
      (b = blkTw1 ∧ off = 0x104 → t.tw1.attnHw = 0 ∧ t.tw1.attnFw = 0)) ∧
    (s.resetting 9 = false → b = blkPwr ∨ b = blkTw1 → ∃ t, exec (.tw1RegWr (regAddr b 0x10) v .pec) s = .next t ∧
      (t.common b).intEn = v &&& 0xFFFF001E ∧ (∀ n, n ≠ b → t.common n = s.common n) ∧
      t = { s with sent := [], commons := t.commons, tw1 := { s.tw1 with lastStatus := 0 } }) ∧
    (s.resetting 9 = false → s.tw1Gate = 0 → s.tw1.dstate ≠ 1 → 24 ≤ len → len ≤ 512 → parseReq .tw1 (memBytes s.tw1.req 0 len) = (1, r) →
      ∃ t, exec (.tw1DictGo len .pec) s = .next t ∧
        exec (.read r) { s with sent := [], tw1 := { s.tw1 with lastStatus := 0, dstate := 1, resp := [] } } = .next t) ∧
    (s.resetting 10 = false → s.pwr.on.testBit 1 = true → s.hostp.dstate ≠ 1 → 24 ≤ len → len ≤ 8192 →
      parseReq .hostp (memBytes s.fab.ctrlSram 0x1FC000 len) = (1, r) →
      ∃ t t', exec (.hostpDictGo len { complete := true, crcOk := true, answered := true }) s = .next t ∧
        exec (.read r) { s with sent := [.bus (hpBytes 0 [])], hostp := { s.hostp with dstate := 1 } } = .next t' ∧
        t = { t' with sent := .bus (hpBytes 0 []) :: t'.sent })

/-- R546-R551, R557: HOSTP answers RESULT, data and SCRC once RCRC is right: registers by words, STATUS, and its two buffers in the control SRAM; a frame
that is cut off or whose CRC is wrong is counted, is an event of class C and does nothing else. -/
def Obligations.HostPortServesItsTransactions : Prop :=
  ∀ (s : State) (addr off len : Nat) (v : Word) (data : List Byte), s.resetting 10 = false → s.pwr.on.testBit 1 = true →
    let ok : HpFrame := { complete := true, crcOk := true, answered := true }
    exec (.status ok) s = .next { s with sent := [.bus (hpBytes 0 ([BitVec.ofNat 8 s.hostp.dstate] ++ beBytes 2 s.hostp.respLen ++ [BitVec.ofNat 8 s.hostRole]))] } ∧
    (0 < len → off + len ≤ 8192 →
      exec (.hostpBufRd off len ok) s = .next { s with sent := [.bus (hpBytes 0 (memBytes s.fab.ctrlSram (0x1FE000 + off) len))] }) ∧
    (Memory.wf s.fab.ctrlSram = true → data ≠ [] → off + data.length ≤ 8192 → s.hostp.dstate ≠ 1 → ∃ t, exec (.hostpBufWr off data ok) s = .next t ∧
      (∀ k, memGet t.fab.ctrlSram k = if 0x1FC000 + off ≤ k ∧ k < 0x1FC000 + off + data.length then (data[k - (0x1FC000 + off)]?).getD 0
        else memGet s.fab.ctrlSram k) ∧
      t = { s with sent := [.bus (hpBytes 0 [])], fab := { s.fab with ctrlSram := t.fab.ctrlSram } }) ∧
    (s.closed 3 = false → addr % 4 = 0 → s.targetOf addr = (2, addr - 0x40000000) → s.regCause .hostp addr 4 false = none →
      ∃ t, exec (.hostpRegRd addr 1 ok) s = .next t ∧
        t.sent = [.bus (hpBytes 0 (beBytes 4 (s.regVal .hostp ((addr - 0x40000000) / 65536) ((addr - 0x40000000) % 65536) % 2 ^ 32)))]) ∧
    (s.closed 2 = false → s.closed 3 = false → s.regCause .hostp (regAddr blkTop 0x40) 4 true = none → ∃ t, exec (.hostpRegWr (regAddr blkTop 0x40) [v] ok) s = .next t ∧
      (t.common blkTop).cntC = v ∧ (∀ n, n ≠ blkTop → t.common n = s.common n) ∧ t = { s with sent := [.bus (hpBytes 0 [])], commons := t.commons }) ∧
    (s.top.shadows = [] → s.hostp.frameErr < 0xFF → ∃ t, exec (.status { complete := false, crcOk := true, answered := true }) s = .next t ∧
      Recorded s t blkHostp 0x11 .c s.tickDetail ∧ t.sent = [] ∧ t.hostp = { s.hostp with frameErr := s.hostp.frameErr + 1 }) ∧
    (s.top.shadows = [] → s.hostp.crcErr < 0xFF → ∃ t, exec (.status { complete := true, crcOk := false, answered := true }) s = .next t ∧
      Recorded s t blkHostp 0x10 .c s.tickDetail ∧ t.sent = [.bus (hpBytes 1 [])] ∧ t.hostp = { s.hostp with crcErr := s.hostp.crcErr + 1 })

/-- R70, R484, R599, R600: a TDM port drives zero words where no audio leaves and counts misplaced frame syncs; FSYNC_LOSS and FSYNC_OK mark its loss and
its return with an event. -/
def Obligations.TdmPortsKeepFrameSync : Prop :=
  ∀ (s : State) (p k : Nat) (ws : List Int) (fsOk : Bool), s.top.shadows = [] →
    let x := tget ({} : TdmPort) s.tdm.ports p
    (s.pwr.on.testBit 1 = true → s.resetting (0x70 + p) = false → s.time.running = true → s.pair.role = 2 → s.emitting = false → s.tdmDars p = false →
      ∃ t, exec (.tdmFrame p k ws fsOk) s = .next t ∧ t.sent = [.tdm p (List.replicate s.tdmSlots 0)] ∧ t = { s with sent := t.sent, tdm := t.tdm } ∧
        (∀ n, n ≠ p → tget ({} : TdmPort) t.tdm.ports n = tget {} s.tdm.ports n) ∧
        tget ({} : TdmPort) t.tdm.ports p = if fsOk then { x with good := x.good + 1, bad := 0, sync := x.sync || !x.lostNow, last := some k }
          else { x with good := 0, bad := x.bad + 1, slips := min 0xFFFF (x.slips + 1), last := some k }) ∧
    (2 ≤ x.bad → x.lostNow = false → ∃ t, exec (.fsyncLoss p) s = .next t ∧ Recorded s t blkTdm 0x10 .u p ∧
      tget ({} : TdmPort) t.tdm.ports p = { x with sync := false, lost := true, lostNow := true, good := 0 } ∧
      ∀ n, n ≠ p → tget ({} : TdmPort) t.tdm.ports n = tget {} s.tdm.ports n) ∧
    (16 ≤ x.good → x.lostNow = true → ∃ t, exec (.fsyncOk p) s = .next t ∧ Recorded s t blkTdm 0x11 .c p ∧
      tget ({} : TdmPort) t.tdm.ports p = { x with sync := true, lostNow := false } ∧
      ∀ n, n ≠ p → tget ({} : TdmPort) t.tdm.ports n = tget {} s.tdm.ports n)

/-- R36, R128, R130-R134, R140, R206, R516, R518: a spare-in starts on the spare for a WORKING source, waits behind a running one, is abandoned
on request; its sweep brings STATE and the noise generators (for FORCED, STATE as zeros), and after 16 matching ticks the spare owns the work set and the
source is SPARE; a commit that changes a work set's image loads it into the owner and starts a running spare-in again; a failed march test makes the spare FAULTY; silent work sets gate their cluster, which wakes with CLUSTER_READY. -/
def Obligations.SpareInsMoveAWorkSet : Prop :=
  ∀ (s : State) (m : Master) (n src lane ws : Nat) (forced : Bool), s.top.shadows = [] →
    let c := s.cluster n
    (s.MayWrite m (blkCl n) 0x120 → c.role = 0 → src ≤ 8 → src ≠ n → s.spinRunning = false →
      ∃ t, exec (.spinStart m n src forced) s = .next t ∧ OnlyCluster s t n ∧
        t.cluster n = c.startedFor src forced false) ∧
    (s.MayWrite m (blkCl n) 0x120 → c.role = 0 → src ≤ 8 → src ≠ n → s.spinRunning = true →
      exec (.spinStart m n src forced) s = .next { s with sent := [], spinQ := some (src, forced) }) ∧
    (s.MayWrite m (blkCl n) 0x120 → c.role ≠ 0 ∨ 8 < src ∨ src = n → ∃ t, exec (.spinStart m n src forced) s = .next t ∧
      (t.common (blkCl n)).cfgRej = true ∧ t = { s with sent := [], commons := t.commons }) ∧
    (s.MayWrite m (blkCl n) 0x120 → c.phase ≠ 0 → ∃ t, exec (.spinAbandon m n) s = .next t ∧ OnlyCluster s t n ∧
      t.cluster n = { c with spinAbandon := true }) ∧
    (src ≤ 8 → (s.cluster src).role = 1 → s.spinRunning = false → s.findSpare = some n → ∃ t, exec (.spareIn src forced) s = .next t ∧
      OnlyCluster s t n ∧ t.cluster n = c.startedFor src forced false) ∧
    (src ≤ 8 → (s.cluster src).role = 1 → s.spinRunning = false → s.findSpare = none → exec (.spareIn src false) s = .next { s with sent := [] }) ∧
    (c.phase = 1 → c.spinTick + 4 ≤ s.time.tick → ∃ t, exec (.spareInSweep n) s = .next t ∧ OnlyCluster s t n ∧
      t.cluster n = { c with phase := 2, lanes := (t.cluster n).lanes } ∧
      ∀ (k : Nat) (x y : Lane), (s.cluster c.spinSrc).lanes[k]? = some x → c.lanes[k]? = some y → Memory.wf x.lmem = true → Memory.wf y.lmem = true →
        ∃ z, (t.cluster n).lanes[k]? = some z ∧ z = { y with lmem := z.lmem, noise := if c.spinForced then y.noise else x.noise } ∧
          ∀ i, memGet z.lmem i = if inRegions c.img.state i then (if c.spinForced then 0 else memGet x.lmem i) else memGet y.lmem i) ∧
    (c.phase = 3 ∧ c.matchCnt = 16 ∧ c.spinForced = false ∨ 2 ≤ c.phase ∧ c.spinForced = true ∧ c.forcedAt < s.time.tick ∧ c.spinTick + 6 ≤ s.time.tick →
      c.spinSrc ≠ n → c.spinSrc < 9 → ∃ t, exec (.spareInSwitch n) s = .next t ∧ (t.cluster n).role = 1 ∧ (t.cluster n).phase = 0 ∧
      (t.cluster n).wset = c.wset ∧ (c.spinForced = false → (t.cluster n).lanes = c.lanes) ∧ (t.workSet c.wset).zeroOut = false ∧
      (∀ k, k ≠ n → k ≠ c.spinSrc → t.cluster k = s.cluster k) ∧
      ((s.cluster c.spinSrc).condemned = false → t.cluster c.spinSrc = { s.cluster c.spinSrc with
          role := 0, wset := 0, wsv := false, stepping := false, march := 0, golden := false } ∧
        t = { s with sent := [], clusters := t.clusters, ws := t.ws }) ∧
      ((s.cluster c.spinSrc).condemned = true → (t.cluster c.spinSrc).role = 3 ∧ t.pwr.on.testBit (8 + c.spinSrc) = false)) ∧
    (c.phase = 3 → c.matchCnt < 16 → c.spinForced = false ∨ s.time.tick ≤ c.forcedAt → exec (.spareInSwitch n) s = .next { s with sent := [] }) ∧
    (s.top.state = .noon → s.pwr.therm < 2 → s.cfg 0xA000 1 ≠ 0 → s.spinRunning = false → s.spinQ = none → s.findSpare = some n →
      s.rotationSource = some src → ∃ t, exec .rotation s = .next t ∧ OnlyCluster s t n ∧
        t.cluster n = c.startedFor src false true) ∧
    (c.role = 0 → c.phase = 0 → s.pwr.on.testBit (8 + n) = true → s.pwr.therm < 2 →
      (∃ t, exec (.marchPass n true) s = .next t ∧ OnlyCluster s t n ∧ t.cluster n = { c with march := 0 }) ∧
      ∃ t, exec (.marchPass n false) s = .next t ∧ (t.cluster n).role = 3 ∧ (t.cluster n).stFail = true ∧ t.pwr.on.testBit (8 + n) = false ∧
        (t.common (blkCl n)).intStat &&& 0x80000 = 0x80000) ∧
    (4 ≤ s.replayCount n lane → c.role = 1 → s.spinRunning = false → s.findSpare = some src →
      ∃ t, exec (.laneDegraded n lane) s = .next t ∧ Recorded s t (blkCl n) 0x11 .u lane ∧ (t.cluster src).spinStart = true ∧
        (t.cluster src).spinSrc = n ∧ (t.cluster src).spinForced = false ∧ ∀ k, k ≠ src → t.cluster k = s.cluster k) ∧
    (∀ (k : Nat) (u : CUnit) (img : Image), k + 2 ≤ s.time.tick → tfind s.dict.sealed k = some [u] → u.kind = .trans → u.writes = [] →
      u.images = [(ws, img)] → imageStrips img = [] → n < 9 → c.wset = ws → s.dict.actions = [] → ∃ t, exec (.commitApply k) s = .next t ∧ (t.workSet ws).img = img ∧
        (c.role = 1 → c.stepping = false → (t.cluster n).img = img ∧ (t.cluster n).cmem = memOf img.cmem ∧ (t.cluster n).role = 1 ∧ (t.cluster n).phase = c.phase) ∧
        (c.role = 1 → c.stepping = true → t.cluster n = { c with loadDue := true }) ∧
        (c.role ≠ 1 → c.phase ≠ 0 → c.stepping = false → (t.cluster n).img = img ∧ (t.cluster n).phase = 1 ∧ (t.cluster n).spinTick = s.time.tick ∧ (t.cluster n).matchCnt = 0) ∧
        tget {} t.sil.mon ws = {}) ∧
    (∀ k, ws < 8 → s.csw.cutTick = some k → s.msTicks (cfgN (s.conf k) 0xD108 1 ws).toNat ≤ (tget ({} : ZeroMon) s.sil.mon ws).ticks → s.owner ws = some n → s.inSpin n = false →
      ∃ t, exec (.wsZero ws) s = .next t ∧ (tget ({} : ZeroMon) t.sil.mon ws).zero = true ∧ t.pwr = { s.pwr with gated := s.pwr.gated ||| 2 ^ n } ∧
        (∀ k, k ≠ ws → tget ({} : ZeroMon) t.sil.mon k = tget {} s.sil.mon k) ∧ t = { s with sent := [], sil := t.sil, pwr := t.pwr }) ∧
    (s.pwr.waking.testBit n = true → ∃ t, exec (.clusterReady n) s = .next t ∧ t.pwr.gated.testBit n = false ∧ t.pwr.waking.testBit n = false ∧
      (∀ k, k ≠ n → t.pwr.gated.testBit k = s.pwr.gated.testBit k ∧ t.pwr.waking.testBit k = s.pwr.waking.testBit k) ∧
      t = { s with sent := [], pwr := { s.pwr with gated := t.pwr.gated, waking := t.pwr.waking } })


/-- R22, R42, R46, R47, R97, R270, R479: a cutoff gives every tick-stream and RTP context its verdict; frames held early and words of the handshake
FIFOs reach the bank of their tick, or are discarded as late or with TAG_ERR; streams and paths that fail for 8 ticks are reported; a sealed commit
takes effect once, at the start of PROCESS, and its actions start; a wrong tag ends a spare-in; a class F event in Morning leads to Night at the next tick boundary. -/
def Obligations.StagesTakeTheirTicks : Prop :=
  ∀ (s : State) (x n ch k tag unit slot : Nat) (y : Int) (f : InForce) (us : List CUnit) (e : TickOps), s.top.shadows = [] → s.time.running = true →
    (s.top.state = .morning → s.top.classF = true → s.pair.role = 0 → s.dict.actions = [] → ∃ t, exec (.tickEvent e) s = .next t ∧
      t.top.state = .night ∧ t.top.cause = 5 ∧ t.top.classF = false ∧ t.time.running = false ∧ t.sec.sessions = []) ∧
    (n + 1 = s.time.tick → s.csw.cutTick ≠ some n → s.pair.role ≠ 2 → ∃ t, exec (.cutoff { tick := n }) s = .next t ∧ t.csw.cutTick = some n ∧
      tget [] t.csw.present n = ((gatherCtxs s.dict.vals).filter fun c => s.ownPresent c n) ∧ t.time = s.time) ∧
    (n + 2 ≤ s.time.tick → tfind s.dict.sealed n = none → exec (.commitApply n) s = .next (State.runActions { s with sent := [] })) ∧
    (n + 2 ≤ s.time.tick → tfind s.dict.sealed n = some us → ∃ t : State, exec (.commitApply n) s = .next t.runActions ∧ tfind t.dict.sealed n = none ∧
      t.dict.vals = overlay s.dict.vals ((writesOf us).filter fun w => !(isAction w)) ∧ t.dict.actions = s.dict.actions ++ (writesOf us).filter isAction ∧ t.time.tick = s.time.tick ∧ t.top.state = s.top.state) ∧
    ((s.ctx x).early = [f] → f.tick < s.time.tick → (∀ g ∈ (s.ctx x).inForce, g.tick ≠ f.tick) → ∃ t, exec (.earlyRelease x) s = .next t ∧
      (t.ctx x).early = [] ∧ (t.ctx x).inForce = f :: (s.ctx x).inForce ∧ tfind t.csw.gather (bankKey f.tick x) = some f.data) ∧
    (s.newestCount x = some n → s.countRun x 8 n = 8 → (s.ctx x).runRaised = none → ∃ t, exec (.streamTime x) s = .next t ∧
      Recorded s t blkCsw 0x10 .u x ∧ t.ctx x = { s.ctx x with runRaised := some n }) ∧
    (8 ≤ (s.ctx x).missA → (s.ctx x).downA = false → ∃ t, exec (.pathADown x false) s = .next t ∧ Recorded s t blkCsw 0x12 .c x ∧
      t.ctx x = { s.ctx x with downA := true, both := 0 }) ∧
    (8 ≤ (s.ctx x).missB → (s.ctx x).downB = false → ∃ t, exec (.pathADown x true) s = .next t ∧ Recorded s t blkCsw 0x13 .c x ∧
      t.ctx x = { s.ctx x with downB := true, both := 0 }) ∧
    (8 ≤ (s.ctx x).both → (s.ctx x).downA = true → ∃ t, exec (.pathAUp x false) s = .next t ∧ Recorded s t blkCsw 0x14 .c x ∧
      t.ctx x = { s.ctx x with downA := false }) ∧
    (8 ≤ (s.ctx x).both → (s.ctx x).downB = true → ∃ t, exec (.pathAUp x true) s = .next t ∧ Recorded s t blkCsw 0x15 .c x ∧
      t.ctx x = { s.ctx x with downB := false }) ∧
    (bankOf tag (s.time.tick - 1) = .now n → s.csw.cutTick ≠ some n → ∃ t, exec (.handshakeWord ⟨blkCsw, tag, .gather x ch k, y⟩) s = .next t ∧
      (let d := tget ({ nch := ctxNch s.dict.vals x, samples := [] } : TickData) s.csw.gather (bankKey n x)
      tfind t.csw.gather (bankKey n x) = some { d with samples := putAt d.samples (k * d.nch + ch) y }) ∧ t.csw.ctx = s.csw.ctx ∧ t.commons = s.commons) ∧
    (bankOf tag (s.time.tick - 1) = .past n → n ∉ (s.ctx x).dropped → ∃ t, exec (.handshakeWord ⟨blkCsw, tag, .gather x ch k, y⟩) s = .next t ∧
      x ∉ tget [] t.csw.present n ∧ n ∈ (t.ctx x).dropped ∧ tget 0 (t.ctx x).cnt 1 = tget 0 (s.ctx x).cnt 1 + 1 ∧ t.csw.gather = s.csw.gather) ∧
    (bankOf tag (s.time.tick - 2) = .now n → ∃ t, exec (.handshakeWord ⟨blkCsw, tag, .output unit slot k, y⟩) s = .next t ∧
      (let c := s.cluster (unit - 0x20)
      let zero := isCluster unit = true ∧ c.role = 1 ∧ (s.workSet c.wset).zeroOut = true
      tfind t.csw.out (bankKey n slot) = some (putAt (tget [] s.csw.out (bankKey n slot)) k (if zero then 0 else y))) ∧
      t = { s with sent := [], csw := { s.csw with out := t.csw.out }, pwr := { s.pwr with waking := t.pwr.waking } }) ∧
    (∀ ws step lane addr done, s.outsideSpin unit = true → (∀ m, bankOf tag (s.time.tick - 2) ≠ .now m) → ∃ t, exec (.handshakeWord ⟨unit, tag, .stepIn ws step lane addr done, y⟩) s = .next t ∧
      Recorded s t unit 4 .u s.tickDetail ∧ t.clusters = s.clusters) ∧
    (bankOf tag (s.time.tick - 2) = .past n → unit ∉ s.csw.lateNow → ∃ t, exec (.handshakeWord ⟨blkCsw, tag, .output unit slot k, y⟩) s = .next t ∧
      Recorded s t unit 2 .u s.tickDetail ∧ t.csw = { s.csw with lateNow := unit :: s.csw.lateNow }) ∧
    (s.outsideSpin unit = true → bankOf tag (s.time.tick - 2) = .none → ∃ t, exec (.handshakeWord ⟨unit, tag, .output unit slot k, y⟩) s = .next t ∧
      Recorded s t unit 4 .u s.tickDetail ∧ t.csw = s.csw) ∧
    (s.outsideSpin unit = false → bankOf tag (s.time.tick - 2) = .none → ∃ t, exec (.handshakeWord ⟨unit, tag, .output unit slot k, y⟩) s = .next t ∧
      (t.common unit).intStat &&& 0x10 = 0x10 ∧ (t.cluster (unit - 0x20)).role = 3 ∧ t.csw = s.csw)

/-- R37-R39, R43, R285: while ticks run and no fault or leave command waits, a tick event comes at the first value of the counter, which counts in steps
of its increment, that has reached the start of its tick; the tick number is what the counter gives, in 48 bits, and ticks go on; the actions of
the commit applied then start. -/
def Obligations.TicksAdvanceTheCounter : Prop :=
  ∀ (s : State) (e : TickOps), s.time.running = true → s.top.classF = false → s.top.leaveAt = none → 0 < s.time.incEff →
    s.tickStart e.tick + s.time.incEff ≤ 2 ^ 96 → ∃ t : State, exec (.tickEvent e) s = .next t.runActions ∧
    t.time.ticked = true ∧ t.time.running = true ∧ s.tickStart e.tick ≤ t.time.counter ∧
    (∃ k, t.time.counter = s.time.counter + k * s.time.incEff) ∧
    (s.time.counter < s.tickStart e.tick → t.time.counter < s.tickStart e.tick + s.time.incEff) ∧
    (s.tickStart e.tick ≤ s.time.counter → t.time.counter = s.time.counter) ∧
    t.time.tick = t.time.counter * s.fs / (s.spt * 1000000000 * 2 ^ 32) % 2 ^ 48 ∧
    (s.time.counter ≤ s.tickStart e.tick → s.tickStart e.tick + s.time.incEff ≤ s.tickStart (e.tick + 1) → e.tick < 2 ^ 48 → t.time.tick = e.tick)

/-- R98, R100, R101, R186, R197, R199-R201, R203, R230-R234: a fade ends with its samples and frees its slot, a queued change starts at a boundary; buses and
entries at mute stop; a detector at its hold is SILENT; each running direct channel computes its sample; an alignment output ramps up, crossfades to its
new tap and frees its region. -/
def Obligations.UnitsFinishTheirRamps : Prop :=
  ∀ (s : State) (c : Consumer) (f : Fade) (q : QueuedFade) (x k : Nat) (p : XTap), s.top.shadows = [] →
    let a := tget ({} : AlnOut) s.aln.outs x
    let b := tget ({} : Bus) s.mix.buses x
    let d := tget ({} : DpCh) s.dp.ch x
    (s.csw.fadeOf c = some f → f.lastTick s.spt ≤ s.foxTickNow → ∃ t, exec (.foxFadeEnd c) s = .next t ∧ t.csw.fadeOf c = none ∧
      (∀ g, g.cons ≠ c → (g ∈ t.csw.fades ↔ g ∈ s.csw.fades)) ∧ f ∈ t.csw.foxPast ∧
      t = { s with sent := [], csw := { s.csw with fades := t.csw.fades, foxPast := t.csw.foxPast } }) ∧
    (let n := s.foxTickNow
    s.csw.afterFade s.spt n c ≤ n → s.csw.fadeOf c = none → s.csw.fadeQ.find? (fun r => r.cons == c) = some q → s.csw.routeAt c n ≠ some q.new → q.len ≠ 0 → q.shape ≠ 0 →
      q.shape ≠ 3 → s.csw.fades.length < 8192 → ∃ t, exec (.foxQueuedStart c) s = .next t ∧
        t.csw.fadeOf c = some ⟨c, (s.csw.routeAt c n).getD ⟨none, none⟩, q.new, q.shape, q.len, n, none⟩ ∧ t.csw.routeAt c n = some q.new ∧
        (∀ r ∈ t.csw.fadeQ, r.cons ≠ c) ∧ t = { s with sent := [], csw := { s.csw with fades := t.csw.fades, fadeQ := t.csw.fadeQ, routes := t.csw.routes } }) ∧
    (b.running = true → b.stopping = true → b.gb.done s.processSample = true → ∃ t, exec (.busStop x) s = .next t ∧ tget ({} : Bus) t.mix.buses x = {} ∧
      (∀ n, n ≠ x → tget ({} : Bus) t.mix.buses n = tget {} s.mix.buses n) ∧ t = { s with sent := [], mix := { s.mix with buses := t.mix.buses } }) ∧
    (∃ t, exec (.entryDrop x k) s = .next t ∧ t = { s with sent := [], mix := { s.mix with buses := t.mix.buses } } ∧
      (∀ n, n ≠ x → tget ({} : Bus) t.mix.buses n = tget {} s.mix.buses n) ∧
      (∀ m, m ∈ (tget ({} : Bus) t.mix.buses x).entries ↔ m ∈ b.entries ∧ (m.pos ≠ k ∨ m.leaving = false ∨ m.gain.done s.processSample = false))) ∧
    (∀ g, detSig s.dict.vals x = some g → (tget ({} : Detector) s.sil.det x).sig = some g →
      s.detHold s.dict.vals x ≤ (tget ({} : Detector) s.sil.det x).quiet → ∃ t, exec (.silent x) s = .next t ∧
      tget ({} : Detector) t.sil.det x = { tget ({} : Detector) s.sil.det x with silent := true } ∧
      (∀ n, n ≠ x → tget ({} : Detector) t.sil.det n = tget {} s.sil.det n) ∧ (∀ m b, s.sil.log = [(g, m, b)] → t.sil.log = [(g, m, true)]) ∧
      t = { s with sent := [], sil := { s.sil with det := t.sil.det, log := t.sil.log } }) ∧
    (x < 64 → d.running = true → d.next = [] → s.resetting 3 = false → s.dpDue k = [k] → ∃ t, exec (.dpSample k []) s = .next t ∧
      tget ({} : DpCh) t.dp.ch x = (s.dpStep k (s.dpInput x k) d).1 ∧ t.dp.done = some k ∧
      (d.lim = false → d.bank.inv = false → d.bank.clipEn = false → (tget ({} : DpCh) t.dp.ch x).pipe.head? =
        some (k + 3, sat32 (satTo 39 (floorShift (s.dpInput x k * d.gain.at k + 2 ^ 26) 27)))) ∧ t.dp.late = s.dp.late ∧ t.commons = s.commons) ∧
    (x < 64 → d.running = true → d.next = [] → s.resetting 3 = false → s.dpDue k = [k] → ∃ t, exec (.dpSample k [x]) s = .next t ∧ (tget ({} : DpCh) t.dp.ch x).pipe.head? = some (k + 3, 0) ∧
      t.dp.late = s.dp.late + 1 ∧ Recorded s t blkDp 0x10 .u s.tickDetail) ∧
    (a.region.isSome = true → a.waiting = true → a.largest (alnN s.dict.vals x 6).toNat s.spt / 65536 + 13 ≤ a.horizon →
      ∃ t, exec (.alnGainRampStart x) s = .next t ∧ tget ({} : AlnOut) t.aln.outs x =
        { a with waiting := false, gs := ⟨0, alnGain s.dict.vals x, (alnN s.dict.vals x 13).toNat, s.processSample⟩ } ∧
        (∀ n, n ≠ x → tget ({} : AlnOut) t.aln.outs n = tget {} s.aln.outs n) ∧ t = { s with sent := [], aln := { s.aln with outs := t.aln.outs } }) ∧
    (a.region.isSome = true → a.faded s.processSample = true → ∃ t, exec (.alnRegionRelease x) s = .next t ∧
      tfind t.aln.outs x = none ∧ (∀ n, n ≠ x → tfind t.aln.outs n = tfind s.aln.outs n) ∧ t = { s with sent := [], aln := { s.aln with outs := t.aln.outs } }) ∧
    (a.xtap = some p → a.fading = false → a.queued = none → ∃ t, exec (.alnXtapEnd x) s = .next t ∧
      tget ({} : AlnOut) t.aln.outs x = { a with xtap := none, cur := a.target } ∧ (∀ n, n ≠ x → tget ({} : AlnOut) t.aln.outs n = tget {} s.aln.outs n) ∧
      t = { s with sent := [], aln := { s.aln with outs := t.aln.outs } })


/-- R46-R48, R60, R397, R400-R403: a port discards and counts what fails its checks, counts and handles the rest; an on-time tick-stream frame comes
into force with its samples in the gather bank, an early one waits, a late one is counted; PFC holds a class off at HI, is repeated, ends at LO, and
pauses the port until its quanta run out or a storm is ended; the frames that waited then leave. -/
def Obligations.MediaPortsCheckAndDeliver : Prop :=
  ∀ (s : State) (f : MediaFrame) (enc b : List Byte) (a bulk : Bool) (x n p occ : Nat), s.top.shadows = [] →
    let k := kapoHeader b
    let at' := (s.rxStamp f.port f.arrival).toNat
    let d := payloadData k.fmt k.nch s.spt (b.drop (32 + 8 * k.taglen))
    (s.TakesFrame f enc b a x n → n + 1 = s.time.tick → s.pastCutoff n at' = false → ∃ t, exec (.mediaFrameRx f) s = .next t ∧
      tfind t.csw.gather (bankKey n x) = some d ∧
      (t.ctx x).inForceAt n = some ⟨n, k.epoch, at', d, k.silent⟩ ∧ tget 0 (t.port f.port).cnt 0 = tget 0 (s.port f.port).cnt 0 + 1) ∧
    (s.TakesFrame f enc b a x n → n = s.time.tick → ∃ t, exec (.mediaFrameRx f) s = .next t ∧ t.csw.gather = s.csw.gather ∧
      (t.ctx x).early.head? = some ⟨n, k.epoch, at', d, k.silent⟩ ∧ tget 0 (t.ctx x).cnt 3 = tget 0 (s.ctx x).cnt 3 + 1) ∧
    (s.TakesFrame f enc b a x n → n + 1 < s.time.tick ∨ n + 1 = s.time.tick ∧ s.pastCutoff n at' = true → ∃ t, exec (.mediaFrameRx f) s = .next t ∧
      t.csw.gather = s.csw.gather ∧ (t.ctx x).inForce = (s.ctx x).inForce ∧ n ∈ (t.ctx x).dropped ∧ tget 0 (t.ctx x).cnt 1 = tget 0 (s.ctx x).cnt 1 + 1) ∧
    ((s.port f.port).up = true → f.smdOk = true → 64 ≤ f.len → f.len ≤ s.cfg (0xC000 + f.port) 9 → f.fcs = .bad → f.body = .other →
      ∃ t, exec (.mediaFrameRx f) s = .next t ∧ t = { s with sent := [], ports := t.ports } ∧
        t.port f.port = { s.port f.port with cnt := bump (s.port f.port).cnt 8 1 } ∧ ∀ q, q ≠ f.port → t.port q = s.port q) ∧
    ((s.port f.port).up = true → f.smdOk = true → 64 ≤ f.len → f.len ≤ s.cfg (0xC000 + f.port) 9 → s.rxFails f = none → f.cls = .control →
      s.cfgOn (0xC300 + f.port) 1 = false → s.cfgOn (0xC000 + f.port) 15 = false → (s.port f.port).paused false = false → ∀ dst, f.body = .query dst → ∃ t, exec (.mediaFrameRx f) s = .next t ∧
        t = { s with sent := if s.ownAddress f.port dst then [.answer f.port] else [], ports := t.ports } ∧
        tget 0 (t.port f.port).cnt 0 = tget 0 (s.port f.port).cnt 0 + 1 ∧ (t.port f.port).occ false = (s.port f.port).occ false + f.len ∧
        ∀ q, q ≠ f.port → t.port q = s.port q) ∧
    ((s.port f.port).up = true → f.smdOk = true → 64 ≤ f.len → f.len ≤ s.cfg (0xC000 + f.port) 9 → s.rxFails f = none →
      s.pcpOf f.port false ≠ s.pcpOf f.port true → f.body = .pfc [(s.pcpOf f.port bulk, occ)] → 1000 * (s.port f.port).ignore bulk ≤ at' →
      ∃ t, exec (.mediaFrameRx f) s = .next t ∧ (t.port f.port).paused bulk = decide (occ ≠ 0) ∧
        (t.port f.port).paused (!bulk) = (s.port f.port).paused (!bulk) ∧ tget 0 (t.port f.port).cnt 24 = tget 0 (s.port f.port).cnt 24 + 1) ∧
    (occ ≤ (s.port p).occ bulk → ((s.port p).xoff bulk = false ∨ s.loOf p bulk < occ) → ∃ t, exec (.pfcXon p bulk occ) s = .next t ∧
      t.port p = (s.port p).setOcc bulk occ ∧ (∀ q, q ≠ p → t.port q = s.port q) ∧ t = { s with sent := [], ports := t.ports }) ∧
    (occ ≤ (s.port p).occ bulk → (s.port p).xoff bulk = true → occ ≤ s.loOf p bulk → (s.port p).up = true → ∃ t, exec (.pfcXon p bulk occ) s = .next t ∧
      t.sent = (if s.cfgOn (0xC000 + p) 15 then [.pfc p (s.pcpOf p bulk) 0] else []) ∧ (t.port p).xoff bulk = false ∧ (t.port p).occ bulk = occ ∧ ∀ q, q ≠ p → t.port q = s.port q) ∧
    ((s.port p).xoff bulk = true → s.loOf p bulk < (s.port p).occ bulk → (s.port p).up = true → ∃ t, exec (.pfcRefresh p bulk) s = .next t ∧
      t.sent = (if s.cfgOn (0xC000 + p) 15 then [.pfc p (s.pcpOf p bulk) (s.cfg (0xC000 + p) 20)] else []) ∧ (t.port p).xoff bulk = true ∧ (∀ q, q ≠ p → t.port q = s.port q)) ∧
    ((s.port p).paused bulk = true → s.cfgOn (0xC000 + p) 21 = true → ∃ t, exec (.pfcStorm p bulk) s = .next t ∧
      Recorded s t (blkPort p) 0x14 .c s.tickDetail ∧ (t.port p).paused bulk = false ∧ (t.port p).ignore bulk = s.counterNow.2 / 2 ^ 32 + 1000000000 ∧
      ∀ q, q ≠ p → t.port q = s.port q) ∧
    let out := (s.port p).held.filter fun h => h.1 == bulk
    (out = [] → ∃ t, exec (.pfcPauseExpiry p bulk) s = .next t ∧ t.port p = (s.port p).setPaused bulk false ∧ (∀ q, q ≠ p → t.port q = s.port q) ∧
      t = { s with sent := [], ports := t.ports }) ∧
    ((s.port p).up = true → s.cfgOn (0xC300 + p) 1 = false → ∃ t, exec (.pfcPauseExpiry p bulk) s = .next t ∧ t.sent = out.map (·.2.2) ∧
      (t.port p).paused bulk = false ∧ (t.port p).held = (s.port p).held.filter (fun h => h.1 != bulk) ∧ (∀ q, q ≠ p → t.port q = s.port q) ∧
      t = { s with sent := t.sent, ports := t.ports })


/-- R261-R263, R266, R267, R277, R279, R280: a request that reaches its operation is answered once: READ and DESCRIBE give values and records or the code of the
item that fails; a WRITE that passes becomes a unit for its apply tick or enters its staged set, one that fails applies nothing; COMMIT takes a set,
and empties it where it is refused, ABORT empties it; an uploaded image becomes a unit, or is refused, with IMG_SIG when its signature check fails; scene operations become units or run in their slot. -/
def Obligations.DictionaryRequestsAreServed : Prop :=
  ∀ (s s1 : State) (r : DictReq) (w : Asker) (i : Item) (a : Member) (d : Dict) (es : List EWrite) (slot : Nat) (img : Image), s.Reaches s1 r w →
    let resp (op st n : Nat) (body : List Byte) : List Emission := [.response w.pk r.reqid st (responseBytes w.pk op r.reqid st n r.cid body)]
    let all (op st : Nat) : List Emission := resp op st r.items.length (r.items.flatMap fun i => itemHead i st i.count)
    let codes := s1.writeCodes w r.items
    let unit (op : Nat) (u : CUnit) : CUnit := { u with
      order := s1.dict.accepted, origin := r.reqid, session := w.pk, apply := s1.time.tick + 2, op := op, heads := r.items }
    let x := tget ({} : SceneSlot) s1.dict.slots (itemSlot r.items)
    (r.items = [i] → memberOf i.obj i.mem = some a → s1.checkItem w false true i = 0 → isString a.ty = false →
      40 + (pad8 (s1.itemValues false i a).1).length ≤ s1.responseMax r → s.Fits 1 r → ∃ t, exec (.read r) s = .next t ∧
        t.sent = resp 1 0 1 (itemHead { i with ty := a.ty } 0 i.count ++ pad8 ((List.range i.count).flatMap fun k => s1.readElem i.obj i.mem (i.elem + k) a)) ∧
        t.dict.vals = s.dict.vals ∧ t.dict.units = s.dict.units) ∧
    (r.items = [i] → s1.checkItem w false true i ≠ 0 → s.Fits 1 r → ∃ t, exec (.read r) s = .next t ∧
      t.sent = resp 1 (s1.checkItem w false true i) 1 (itemHead i (s1.checkItem w false true i) 0) ∧ t.dict.vals = s.dict.vals) ∧
    (r.items = [i] → memberOf i.obj i.mem = some a → s1.checkItem w false false i = 0 →
      40 + (pad8 (s1.describe i.obj i.mem a)).length ≤ s1.responseMax r → s.Fits 5 r → ∃ t, exec (.describe r) s = .next t ∧
        t.sent = resp 5 0 1 (itemHead { i with ty := a.ty } 0 i.count ++ pad8 (s1.describe i.obj i.mem a)) ∧ t.dict.vals = s.dict.vals) ∧
    (r.items.all framed = true → (∀ c ∈ codes, c = 0) → s1.pair.role ≠ 2 → (goodWrites r.items codes).any s1.badState = false → r.cid = 0 →
      r.upload = none → s1.time.ticked = true → r.apply = 0xFFFFFFFFFFFFFFFF → s1.pendingUnits < 256 → s.Fits 2 r → ∃ t, exec (.write r) s = .next t ∧ t.sent = [] ∧
        t.dict.units = s.dict.units ++ [unit 2 { kind := .trans, writes := goodWrites r.items codes }] ∧ t.dict.vals = s.dict.vals) ∧
    (r.items.all framed = true → (∀ c ∈ codes, c = 0) → s1.pair.role ≠ 2 → (goodWrites r.items codes).any s1.badState = false → r.cid ≠ 0 →
      r.upload = none → s1.dict.stage r.cid none (goodWrites r.items codes) = some d → s.Fits 2 r → ∃ t, exec (.write r) s = .next t ∧ t.sent = all 2 stStaged ∧
        t.dict.staged = d.staged ∧ t.dict.vals = s.dict.vals ∧ t.dict.units = s.dict.units) ∧
    (r.items.all framed = true → codes.any (· != 0) = true → s.Fits 2 r → ∃ t, exec (.write r) s = .next t ∧
      t.sent = resp 2 ((codes.find? (· != 0)).getD 0) r.items.length (heads r.items (notApplied codes)) ∧
      t.dict.vals = s.dict.vals ∧ t.dict.units = s.dict.units ∧ t.dict.staged = s.dict.staged) ∧
    (r.items = [] → r.cid = 0 → (w.role = 2 ∨ w.role = 3) → w.pk ≠ 1 → s1.pair.role ≠ 2 → r.upload = some (.workSet slot img true) → codeOk img = true → layoutOk img = true →
      s1.time.ticked = true → r.apply = 0xFFFFFFFFFFFFFFFF → s1.pendingUnits < 256 → s.Fits 2 r → ∃ t, exec (.write r) s = .next t ∧ t.sent = [] ∧
        t.dict.units = s.dict.units ++ [unit 2 { kind := .trans, images := [(slot, img)] }] ∧ t.ws = s.ws) ∧
    (r.items = [] → (w.role = 2 ∨ w.role = 3) → w.pk ≠ 1 → s1.pair.role ≠ 2 → r.upload = some (.workSet slot img true) → codeOk img = false ∨ layoutOk img = false →
      s.Fits 2 r → ∃ t, exec (.write r) s = .next t ∧ t.sent = all 2 stRefused ∧ t.dict.units = s.dict.units ∧ t.ws = s.ws ∧ t.commons = s.commons) ∧
    (r.items = [] → (w.role = 2 ∨ w.role = 3) → w.pk ≠ 1 → s1.pair.role ≠ 2 → r.upload = some (.workSet slot img false) → s.top.shadows = [] →
      s.Fits 2 r → ∃ t, exec (.write r) s = .next t ∧ t.dict.units = s.dict.units ∧ t.ws = s.ws ∧ Recorded s t blkSec 0x16 .c s.tickDetail) ∧
    (r.cid ≠ 0 → tget [] s1.dict.stagedImages r.cid = [] → tget [] s1.dict.staged r.cid ≠ [] → (∀ e ∈ tget [] s1.dict.staged r.cid, ∃ b, memberOf e.obj e.mem = some b ∧ s1.mayAccess w e.obj e.mem b true = true) →
      s1.pair.role ≠ 2 → s1.time.ticked = true → r.apply = 0xFFFFFFFFFFFFFFFF → s1.pendingUnits < 256 → s.Fits 3 r → ∃ t, exec (.commit r) s = .next t ∧
        t.sent = [] ∧ t.dict.units = s.dict.units ++ [unit 3 { kind := .trans, cid := r.cid }] ∧ t.dict.staged = s.dict.staged) ∧
    (r.cid = 0 ∨ (tget [] s1.dict.staged r.cid = [] ∧ tget [] s1.dict.stagedImages r.cid = []) → s.Fits 3 r → ∃ t, exec (.commit r) s = .next t ∧ t.sent = resp 3 stNoCid 0 [] ∧ t.dict.units = s.dict.units) ∧
    (r.cid ≠ 0 → tget [] s1.dict.stagedImages r.cid = [] → tget [] s1.dict.staged r.cid ≠ [] → (∀ e ∈ tget [] s1.dict.staged r.cid, ∃ b, memberOf e.obj e.mem = some b ∧ s1.mayAccess w e.obj e.mem b true = true) →
      s1.pair.role ≠ 2 → s1.time.ticked = false → s1.unitPasses s1.dict.vals (tget [] s1.dict.staged r.cid) 0 false = false → s.Fits 3 r → ∃ t, exec (.commit r) s = .next t ∧
        t.sent = all 3 stRefused ∧ tget [] t.dict.staged r.cid = [] ∧ t.dict.vals = s.dict.vals ∧ t.dict.units = s.dict.units) ∧
    (r.cid ≠ 0 → s.Fits 4 r → ∃ t, exec (.abort r) s = .next t ∧ t.sent = resp 4 0 0 [] ∧ tget [] t.dict.staged r.cid = [] ∧
      (∀ c, c ≠ r.cid → tget [] t.dict.staged c = tget [] s.dict.staged c) ∧ t.dict.vals = s.dict.vals) ∧
    (storeCode r.items = 0 → mayScene w .e = true → s1.pair.role ≠ 2 → s1.time.ticked = true → r.apply = 0xFFFFFFFFFFFFFFFF → s1.pendingUnits < 256 →
      s.Fits 6 r → ∃ t, exec (.sceneStore r) s = .next t ∧ t.sent = all 6 stPending ∧ t.dict.slots = s.dict.slots ∧
        t.dict.units = s.dict.units ++ [unit 6 { kind := .store, pendingAns := true, slot := itemSlot r.items }]) ∧
    (slotCode r.items = 0 → mayScene w .o = true → s1.pair.role ≠ 2 → s1.time.ticked = true → r.apply = 0xFFFFFFFFFFFFFFFF → s1.pendingUnits < 256 →
      s.Fits 7 r → ∃ t, exec (.sceneRecall r) s = .next t ∧ t.sent = [] ∧
        t.dict.units = s.dict.units ++ [unit 7 { kind := .recall, slot := itemSlot r.items }]) ∧
    (slotCode r.items = 0 → mayScene w .e = true → s1.pair.role ≠ 2 → x.running = false → x.valid = true → s.Fits 8 r → ∃ t, exec (.sceneCheck r) s = .next t ∧
      t.sent = all 8 stPending ∧ (tget ({} : SceneSlot) t.dict.slots (itemSlot r.items)).running = true ∧
      (tget ({} : SceneSlot) t.dict.slots (itemSlot r.items)).entries = x.entries ∧ t.dict.vals = s.dict.vals) ∧
    (let y := tget ({} : SceneSlot) s.dict.slots slot
    (y.running = true → y.captured = some es → ∃ t, exec (.sceneStoreDone slot) s = .next t ∧
      tget ({} : SceneSlot) t.dict.slots slot = { y with
        valid := true, stale := false, storeTick := y.capturedTick, gen := y.capturedGen, entries := es, running := false, captured := none } ∧
      t.memc.dram = memSetBytes s.memc.dram (s.slotBase slot) (tget ({} : SceneSlot) t.dict.slots slot).image ∧
      (∀ k, k ≠ slot → tget ({} : SceneSlot) t.dict.slots k = tget {} s.dict.slots k) ∧ t.dict.vals = s.dict.vals) ∧
    (y.running = true → y.captured = none → ∃ t, exec (.sceneCheckDone slot) s = .next t ∧
      tget ({} : SceneSlot) t.dict.slots slot = (if y.stale = false ∧ s.scenePasses y = true then { y with running := false, gen := s.dict.generation }
        else { y with running := false, stale := true }) ∧
      t.memc.dram = memSetBytes s.memc.dram (s.slotBase slot) (tget ({} : SceneSlot) t.dict.slots slot).image ∧
      (∀ k, k ≠ slot → tget ({} : SceneSlot) t.dict.slots k = tget {} s.dict.slots k) ∧ t.dict.vals = s.dict.vals))


/-- R370-R375, R377, R378, R380, R385-R389: handshakes open sessions with an accepted credential; an owner is enrolled, rotated and released under a fresh nonce
and its signature; a challenge and its response start a grant, which ends by time or command; closures and SEC_MIN only grow; keys switch, age and expire;
a failed TRNG is an event. -/
def Obligations.OwnersSessionsAndKeysAreManaged : Prop :=
  ∀ (s : State) (h : HelloMsg) (p : ProveMsg) (r : OwnerReq) (o : OpenResp) (hs : Nat × Nat × Nat) (n k : Nat), s.top.shadows = [] →
    let key := s.mediaKey n
    let port := tget ({} : KeySlot) s.sec.portKeys n
    (s.takesHandshake h.src h.ms = true → s.sec.sessions.length < 32 → ∃ t id eph sig, exec (.handshakeHello h) s = .next t ∧
      t.sent = [.response (id + 2) 0 stOk (eph ++ beBytes 4 id ++ s.sec.devCert ++ s.sec.idkPub ++ sig)] ∧ eph.length = 80 ∧ sig.length = 64 ∧
      t.sec = { s.sec with handshakes := (id, h.src, h.role) :: s.sec.handshakes }) ∧
    (s.sec.life = 1 → s.sec.ignores p.src p.ms = false → s.sec.handshakes.find? (fun x => x.1 == p.session && x.2.1 == p.src) = some hs →
      p.peer = none → s.proveOk p = true → ∃ t y, exec (.handshakeProve p) s = .next t ∧ t.sent = [.response (p.session + 2) 0 stOk []] ∧
        t.sec.sessions = y :: s.sec.sessions ∧ y.id = p.session ∧ y.role = sessionRole p.role hs.2.2 ∧ (p.role ≠ 4 → hs.2.2 ≠ 4 → y.role = min p.role hs.2.2) ∧
        y.certId = p.certId ∧ y.notAfter = p.notAfter ∧
        y.keyIn.length = 32 ∧ y.keyOut.length = 32 ∧
        (∀ x ∈ t.sec.handshakes, x.1 ≠ p.session)) ∧
    (s.sec.life = 1 → s.sec.ignores p.src p.ms = false → (∀ x ∈ s.sec.handshakes, x.1 ≠ p.session) → ∃ t, exec (.handshakeProve p) s = .next t ∧
      t.sent = [] ∧ t.sec.sessions = s.sec.sessions ∧ t.sec.hsFail = (s.sec.hsFail + 1) % 2 ^ 32) ∧
    exec (.sessionIdle n) s = .next { s with sent := [], sec := { s.sec with sessions := s.sec.sessions.filter fun y => y.id != n } } ∧
    (s.time.todSet = true → (∀ y ∈ s.sec.sessions, y.id = n → y.notAfter ≠ 0 ∧ y.notAfter < s.nowNs) → ∃ t, exec (.credentialExpiry n) s = .next t ∧
      (∀ y ∈ t.sec.sessions, y.id ≠ n) ∧ (∀ y ∈ s.sec.sessions, y.id ≠ n → y ∈ t.sec.sessions)) ∧
    (s.sec.trngOk = true → ∃ t, exec .nonce s = .next t ∧ t.sec.nonce.isSome = true ∧
      t = { s with sent := [], freeCtr := t.freeCtr, sec := { s.sec with nonce := t.sec.nonce } }) ∧
    (s.requestReaches r.via = true → s.sec.freeSlot = some k → s.requestOk r = true → r.op = 1 → s.sec.life = 0 → r.via ≠ .session → r.signer = r.newHash →
      r.burnOk = true → ∃ t, exec (.enrol r) s = .next t ∧ t.sec.life = 1 ∧ t.sec.slot = k ∧ t.sec.used = s.sec.used ||| 2 ^ k ∧ t.sec.nonce = none ∧
        tget [] t.sec.ownerHash k = r.newHash ∧ t.sec.receipt.take (s.dict.serial.length + 4 + r.newHash.length) =
          s.dict.serial ++ [BitVec.ofNat 8 k, 0, 0, 0] ++ r.newHash) ∧
    (s.requestReaches r.via = true → s.sec.freeSlot = some k → s.requestOk r = true → r.op = 2 → s.byOwner r = true → r.burnOk = true →
      ∃ t, exec (.rotate r) s = .next t ∧ t.sec.life = 1 ∧ t.sec.slot = k ∧ t.sec.used = s.sec.used ||| 2 ^ k ∧ t.sec.nonce = none ∧
        (k ≠ s.sec.slot → tget [] t.sec.ownerHash k = r.newHash ∧ tfind t.sec.ownerHash s.sec.slot = none) ∧ t.sec.sessions = [] ∧ t.sec.grant = none) ∧
    (s.requestReaches r.via = true → s.requestOk r = true → r.op = 3 → s.byOwner r = true → r.burnOk = true → ∃ t, exec (.release r) s = .next t ∧
      t.sec.life = (if s.sec.freeSlot.isSome then 0 else 2) ∧ t.sec.keys = [] ∧ t.sec.sessions = [] ∧ t.sec.grant = none ∧ t.top.cfgA = none ∧ t.top.cfgB = none) ∧
    (s.requestReaches r.via = true → s.requestOk r = false → ∃ t, exec (.release r) s = .next t ∧ Recorded s t blkSec 0x17 .c s.tickDetail ∧
      t.sec = { s.sec with nonce := none }) ∧
    exec (.close k true) s = .next { s with sent := [], sec := { s.sec with fuses := s.sec.fuses ||| k % 64 } } ∧
    (s.sec.secMin < s.fab.runSecVer → exec (.commitFw true) s = .next { s with sent := [], sec := { s.sec with secMin := s.fab.runSecVer } }) ∧
    (s.sec.grant.isSome = true → ∀ c ∈ [Instr.closeNow, Instr.grantExpiry], ∃ t, exec c s = .next t ∧
      t = { s with sent := [], sec := { s.sec with grant := none, sessions := s.sec.sessions.filter fun y => y.role != 4 }, jtag := t.jtag } ∧
      (s.jtag.ir ≠ .debug → t.jtag = s.jtag) ∧ (s.jtag.ir = .debug → s.sec.fuses.testBit 0 = true → t.jtag = { s.jtag with ir := .bypass })) ∧
    (s.sec.trngOk = true → s.sec.openFails < 4 → ∃ t, exec (.challenge n) s = .next t ∧ t.sec.challenge.isSome = true ∧
      t = { s with sent := [], freeCtr := t.freeCtr, sec := { s.sec with challenge := t.sec.challenge } }) ∧
    (s.responseOk o = true → ∃ t, exec (.response o) s = .next t ∧ t.sec.grant = some ⟨o.access, o.role, o.expiry⟩ ∧ t.sec.challenge = none ∧
      Recorded s t blkSec 0x1C .c s.tickDetail) ∧
    (s.responseOk o = false → ∃ t, exec (.response o) s = .next t ∧ t.sec = { s.sec with challenge := none, openFails := s.sec.openFails + 1 } ∧
      Recorded s t blkSec 0x18 .c s.tickDetail) ∧
    (s.time.running = true → key.next ≠ [] → key.switch + 2 ≤ s.time.tick → ∃ t, exec (.keySwitch (.media n)) s = .next t ∧
      (t.mediaKey n).cur = key.next ∧ (t.mediaKey n).next = [] ∧ (t.mediaKey n).units = 0 ∧ (∀ m, m ≠ n → t.mediaKey m = s.mediaKey m) ∧
      tfind t.dict.vals (dictKey (0xE400 + n) 1 0) = some (.bytes key.next) ∧ tfind t.dict.vals (dictKey (0xE400 + n) 2 0) = none) ∧
    (s.time.running = true → port.next ≠ [] → port.switch + 2 ≤ s.time.tick → ∃ t, exec (.keySwitch (.port n)) s = .next t ∧
      (tget ({} : KeySlot) t.sec.portKeys n).cur = port.next ∧ (tget ({} : KeySlot) t.sec.portKeys n).next = [] ∧
      (tget ({} : KeySlot) t.sec.portKeys n).an = (port.an + 1) % 4) ∧
    (1879048192 ≤ key.units → key.aged = false → ∃ t, exec (.keyAge (.media n)) s = .next t ∧ t.mediaKey n = { key with aged := true } ∧
      Recorded s t blkSec 0x1A .c s.tickDetail) ∧
    (2 ^ 31 ≤ key.units + 1 → key.expired = false → ∃ t, exec (.keyExpired (.media n)) s = .next t ∧ t.mediaKey n = { key with expired := true } ∧
      Recorded s t blkSec 0x1B .u s.tickDetail) ∧
    (∃ t, exec .trngFail s = .next t ∧ t.sec = { s.sec with trngOk := false } ∧ Recorded s t blkSec 0x14 .u s.tickDetail) ∧
    (s.paired = true → s.time.running = true → s.sec.mirrorNext = none → s.pair.rekey = none → ∃ t a, exec .mirrorRekey s = .next t ∧
      t.sec.mirrorNext = some a ∧ s.time.tick + 64 ≤ a ∧ t.sec.mirrorGen = s.sec.mirrorGen ∧ t.sec.mirrorKey = s.sec.mirrorKey ∧ t.sec.mirrorAgreed.length = 32 ∧
      t.pair.rekey = some s.time.tick) ∧
    (∀ a b, s.sec.mirrorNext = some a → a ≤ s.time.tick → s.pair.rekey = some b → s.time.tick < b + 2 ^ 24 → exec .mirrorRekey s = .next { s with
      sent := [], sec := { s.sec with mirrorGen := s.sec.mirrorGen + 1, mirrorNext := none, mirrorKey := s.sec.mirrorAgreed } })


/-- R106, R219, R243, R314, R321, R419, R452, R460-R471, R475, R476, R491: SNAP starts a capture in the writer's own instance, VALID sets when it is done and clears with the
read of the last word; RC fields clear; writes take effect, SLOW ones from their queue of four; bursts move their beats or get error responses. -/
def Obligations.RegistersMailboxesAndBursts : Prop :=
  ∀ (s : State) (m : Master) (k : MailKind) (host : Bool) (n p b off : Nat) (v : Word) (ws : List Word) (w : SlowWrite) (q : List SlowWrite) (u : BurstReq),
    s.top.shadows = [] →
    (∀ x ∈ ([(.cntSelSnap m n, blkCsw, 0x100, .cswCnt, 21), (.silSelSnap m n, blkSil, 0x104, .silSel, 4), (.oselSnap m n, blkAln, 0x114, .alnOsel, 4),
        (.mselSnap m n, blkRefsel, 0x10C, .refMsel, 3), (.dselSnap m n, blkMemc, 0x120, .memDsel, 10), (.timeSnap m, blkTime, 0x110, .timeSnap, 5),
        (.histSnap m b, b, 0x1C, .hist b, 4), (.cntCtlSnap m p, blkPort p, 0x100, .portCnt p, portWords p)] : List (Instr × Nat × Nat × MailKind × Nat)),
      s.MayWrite m x.2.1 x.2.2.1 → ((s.getMail x.2.2.2.1).of (isHost m)).capturing = none → ∃ t l, exec x.1 s = .next t ∧ l.length = x.2.2.2.2 ∧
        (t.getMail x.2.2.2.1).of (isHost m) = { (s.getMail x.2.2.2.1).of (isHost m) with valid := false, capturing := some l } ∧
        (t.getMail x.2.2.2.1).of (!isHost m) = (s.getMail x.2.2.2.1).of (!isHost m) ∧
        (x.2.2.2.1 = .cswCnt → ∀ i, i < 21 → l[i]? = some (if counterApplies s.dict.vals (n % 4096) i then tget 0 (s.ctx (n % 4096)).cnt i else 0)) ∧
        (x.2.2.2.1 = .portCnt p → s.otherLane p = false → ∀ i, i < portWords p → l[i]? = some (tget 0 (s.port p).cnt i)) ∧
        (x.2.2.2.1 = .refMsel → l = [BitVec.ofInt 32 (s.refsel.entry (n % 16)).f, BitVec.ofInt 32 (s.refsel.entry (n % 16)).drift,
          BitVec.ofInt 32 (s.refsel.entry (n % 16)).phase])) ∧
    (((s.getMail k).of host).capturing = some ws → ∃ t, exec (.mailboxCaptureDone k host) s = .next t ∧
      (t.getMail k).of host = { valid := true, capturing := none, data := ws } ∧ (t.getMail k).of (!host) = (s.getMail k).of (!host)) ∧
    (s.MayRead m blkCsw 0x160 → ∃ t, exec (.mailboxLastRead m (regAddr blkCsw 0x160) 4) s = .next t ∧
      t.sent = [.data [(at? 0 (s.csw.mail.of (isHost m)).data 20).toNat]] ∧ (t.csw.mail.of (isHost m)).valid = false ∧
      (t.csw.mail.of (isHost m)).data = (s.csw.mail.of (isHost m)).data ∧ t.csw.mail.of (!isHost m) = s.csw.mail.of (!isHost m)) ∧
    (n < 9 → s.MayRead m (blkCl n) 0x108 → ∃ t, exec (.rcRead m (regAddr (blkCl n) 0x108) 4) s = .next t ∧
      t.sent = [.data [s.regVal m (blkCl n) 0x108 % 2 ^ 32]] ∧ (t.cluster n) = { s.cluster n with peak := 0 } ∧ ∀ j, j ≠ n → t.cluster j = s.cluster j) ∧
    (s.MayWrite m blkTime 0x100 → exec (.registerWrite m (regAddr blkTime 0x100) 4 v) s = .next { s with sent := [], time := { s.time with incFrac := v } }) ∧
    (b < 0x70 → s.MayWrite m b 0xC → ∃ t, exec (.registerWrite m (regAddr b 0xC) 4 v) s = .next t ∧ (t.common b).intStat = (s.common b).intStat &&& ~~~v ∧
      (∀ j, j ≠ b → t.common j = s.common j) ∧ t = { s with sent := [], commons := t.commons }) ∧
    (s.MayWrite m blkTw1 0x100 → (s.common blkTw1).slowQ.length < 4 → (∀ x ∈ (s.common blkTw1).slowQ, x.off ≠ 0x100) →
      ∃ t, exec (.registerWrite m (regAddr blkTw1 0x100) 4 v) s = .next t ∧ (t.common blkTw1).slowQ = (s.common blkTw1).slowQ ++ [⟨0x100, v⟩] ∧
        t = { s with sent := [], commons := t.commons }) ∧
    (s.MayWrite m blkTw1 0x100 → 4 ≤ (s.common blkTw1).slowQ.length → (∀ x ∈ (s.common blkTw1).slowQ, x.off ≠ 0x100) →
      ∃ t, exec (.registerWrite m (regAddr blkTw1 0x100) 4 v) s = .next t ∧ t.sent = [.busError] ∧ t.fab.berrCause = 7 ∧ t.commons = s.commons ∧ t.tw1 = s.tw1) ∧
    ((s.common blkTw1).slowQ = w :: q → w.off = 0x100 → 8 ≤ w.val.toNat % 128 → w.val.toNat % 128 < 0x78 → ∃ t, exec (.slowWriteEffect blkTw1) s = .next t ∧
      (t.common blkTw1).slowQ = q ∧ t.tw1 = { s.tw1 with addr := w.val.toNat % 128, filt := bitsOf w.val.toNat 8 5, attnRep := bitsOf w.val.toNat 16 8 }) ∧
    (s.burstCause u = none → s.targetOf u.addr = (3, off) → u.write = false → ∃ t, exec (.burst u) s = .next t ∧
      t.sent = ((List.range u.beats).map fun i => .data [leNat (memBytes s.fab.hall (off + i * u.width) u.width)]) ∧ t = { s with sent := t.sent }) ∧
    (s.burstCause u = none → s.targetOf u.addr = (3, off) → u.write = true → Memory.wf s.fab.hall = true → ∃ t, exec (.burst u) s = .next t ∧
      (∀ a, memGet t.fab.hall a = if off ≤ a ∧ a < off + u.beats * u.width then ((leBytes u.width (at? 0 u.data ((a - off) / u.width)))[(a - off) % u.width]?).getD 0
        else memGet s.fab.hall a) ∧ t = { s with sent := [], fab := { s.fab with hall := t.fab.hall } }) ∧
    (s.burstCause u = some n → 0 < u.beats → ∃ t, exec (.burst u) s = .next t ∧ t.sent = List.replicate u.beats .busError ∧ t.fab.berrCause = n ∧
      t.fab.hall = s.fab.hall ∧ t.fab.ctrlSram = s.fab.ctrlSram ∧ t.memc = s.memc ∧ t.commons = s.commons) ∧
    (s.burstCause u = none → s.targetOf u.addr = (3, off) → u.write = false → n < u.beats → ∃ t, exec (.burstTo u n host) s = .next t ∧
      t.sent.take u.beats = ((List.range n).map fun i => .data [leNat (memBytes s.fab.hall (off + i * u.width) u.width)]) ++ List.replicate (u.beats - n) .busError ∧
      t.fab.btoMaster = masterCode u.master ∧ t.fab.btoTarget = 3 ∧ t.fab.btoStall = host ∧ t.fab.btoDone = n % 32 ∧ t.fab.berrCause = 6 ∧
      t.fab.hall = s.fab.hall ∧ Recorded s t blkFab 0x10 .u s.tickDetail)


/-- R425-R441, R447: the code of the SRAMs judges a word; corrections are written back and reported, rows that stay bad move to one of four spares, uncorrectable words are
logged and make what they held absent; the outer code of the DRAM judges every codeword of a line, corrections count, lines lost in both reads are poisoned; a channel migrates
to the spare and is repaired. -/
def Obligations.MemoriesAreCorrectedAndRepaired : Prop :=
  ∀ (s : State) (e : SramErr) (d : DramErr) (mem row word c x t0 i : Nat) (counts : List Nat) (again0 : Bool), s.top.shadows = [] →
    let k := macroKey e.region e.mac
    let w := (k, e.row, e.word)
    let wb := (mem, row, word)
    let held := s.memc.holdsSlot d.chan
    let line := if held then s.memc.line d.line else List.replicate 64 0
    let first := readWords line d.errs
    let again := readWords line d.retry
    (secded e.bits = .clean → exec (.sramReadError e) s = .next { s with sent := [] }) ∧
    (secded e.bits = .corrected → s.sramc.pendingWB.contains w = false → exec (.sramReadError e) s = .next { s with
      sent := [], sramc := { s.sramc with corr := s.sramc.corr + 1, unreported := s.sramc.unreported + 1, pendingWB := w :: s.sramc.pendingWB } }) ∧
    (secded e.bits = .corrected → s.sramc.pendingWB.contains w = true → exec (.sramReadError e) s = .next { s with sent := [] }) ∧
    (secded e.bits = .uncorrectable → e.mem = .output x t0 i → ∃ t, exec (.sramReadError e) s = .next t ∧ Recorded s t blkSramc 0x11 .u s.tickDetail ∧
      t.sramc = { s.sramc with elogMacro := k % 4096, elogRegion := k / 4096, elogRow := e.row % 4096, elogKind := 2, ue := true, pendingWB := s.sramc.pendingWB.erase w } ∧
      tget [] t.csw.out (bankKey t0 x) = (tget [] s.csw.out (bankKey t0 x)).set i 0 ∧ (∀ j, j ≠ bankKey t0 x → tfind t.csw.out j = tfind s.csw.out j)) ∧
    (∀ b : TickData, secded e.bits = .uncorrectable → e.mem = .gather x t0 i → tfind s.csw.gather (bankKey t0 x) = some b → ∃ t, exec (.sramReadError e) s = .next t ∧
      tfind t.csw.gather (bankKey t0 x) = some { b with samples := b.samples.set i 0, side := b.side.set i 0 } ∧ t.csw.out = s.csw.out) ∧
    (s.sramc.pendingWB.contains wb = true → ∃ t, exec (.sramWriteBack mem row ⟨word, false, false⟩) s = .next t ∧ Recorded s t blkSramc 0x10 .c s.tickDetail ∧
      t.sramc = { s.sramc with pendingWB := s.sramc.pendingWB.erase wb }) ∧
    (s.sramc.pendingWB.contains wb = true → exec (.sramWriteBack mem row ⟨word, again0, true⟩) s = .next { s with
      sent := [], sramc := { s.sramc with pendingWB := s.sramc.pendingWB.erase wb } }) ∧
    (s.sramc.pendingWB.contains wb = true → tget 0 s.sramc.spares mem < 4 → s.sramc.repair = none → exec (.sramWriteBack mem row ⟨word, true, false⟩) s = .next { s with
      sent := [], sramc := { s.sramc with
        pendingWB := s.sramc.pendingWB.erase wb, elogMacro := mem % 4096, elogRegion := mem / 4096, elogRow := row % 4096, elogKind := 1
        repair := some (mem, row) } }) ∧
    (s.sramc.repair = some (mem, row) → s.sramc.repairQ = none → ∃ t, exec (.rowRepaired mem row) s = .next t ∧ Recorded s t blkSramc 0x12 .c s.tickDetail ∧
      t.sramc.repair = none ∧ tget 0 t.sramc.spares mem = tget 0 s.sramc.spares mem + 1 ∧ (mem, row) ∈ t.sramc.mapped ∧ t.csw = s.csw ∧ t.clusters = s.clusters) ∧
    (∃ t, exec (.badgerPass []) s = .next t ∧ t = { s with sent := [], freeCtr := t.freeCtr, sramc := { s.sramc with
      passes := (s.sramc.passes + 1) % 65536, age := 0, clean := !s.sramc.ue, ue := false } }) ∧
    (d.chan < 3 → (held = true → d.line ∉ s.memc.poison) → none ∉ first → (first.any fun x => x.any fun y => !y.2.isEmpty) = true →
      d.row ∉ (s.chan d.chan).hits → ∃ t, exec (.dramReadError d) s = .next t ∧ t.memc.ce = s.memc.ce + w32 (first.filter fun x => x.any fun y => !y.2.isEmpty).length ∧
      d.row ∈ (t.chan d.chan).hits ∧ t.memc.poison = s.memc.poison ∧ (held = false → t.memc.dram = s.memc.dram) ∧
      (held = true → (first.map fun x => (x.map (·.1)).getD []).flatten = line → t.memc.dram = s.memc.dram)) ∧
    (d.chan < 3 → (held = true → d.line ∉ s.memc.poison) → none ∈ first → none ∉ again → ∃ t, exec (.dramReadError d) s = .next t ∧
      t.memc.ce = s.memc.ce + w32 ((again.filter fun x => x.any fun y => !y.2.isEmpty).length + (first.filter Option.isNone).length) ∧
      t.memc.ue = s.memc.ue ∧ t.memc.poison = s.memc.poison) ∧
    (d.chan < 3 → (held = true → d.line ∉ s.memc.poison) → (∀ x ∈ first, ∃ l, x = some (l, [])) → exec (.dramReadError d) s = .next { s with sent := [] }) ∧
    (d.chan < 3 → held = true ∧ d.line ∈ s.memc.poison ∨ none ∈ first ∧ none ∈ again → ∃ t, exec (.dramReadError d) s = .next t ∧ t.memc.ue = s.memc.ue + 1 ∧
      (held = true → d.line ∈ t.memc.poison) ∧
      (∀ l ∈ s.memc.poison, l ∈ t.memc.poison) ∧ (t.common blkMemc).intStat &&& 0x20000 = 0x20000 ∧ t.memc.dram = s.memc.dram) ∧
    (c < 3 → s.chState c < 5 → ∃ t, exec (.patrolScrub c []) s = .next t ∧ t.chan c = { s.chan c with hits := [] } ∧ (∀ j, j ≠ c → t.chan j = s.chan j) ∧
      t = { s with sent := [], memc := { s.memc with chans := t.memc.chans } }) ∧
    (c < 3 → s.chState c < 5 → (∀ n ∈ counts.take 10, n ≤ s.cfg 0xD200 4) → ∃ t, exec (.ecsRead c counts) s = .next t ∧
      t.chan c = { s.chan c with ecs := counts.take 10 } ∧ (∀ j, j ≠ c → t.chan j = s.chan j) ∧ t = { s with sent := [], memc := { s.memc with chans := t.memc.chans } }) ∧
    (s.chState c ≤ 1 → s.memc.phase ≠ 1 → s.chState s.memc.spare = 2 → exec (.migrate c) s = .next { s with
      sent := [], memc := { s.memc with phase := 1, migSlot := if c = s.memc.s0 then 0 else 1, blocks := 0 } }) ∧
    (s.memc.phase = 1 → ∃ t, exec .migrated s = .next t ∧ Recorded s t blkMemc 0x13 .c (if s.memc.migSlot = 0 then s.memc.s0 else s.memc.s1) ∧
      t.memc.s0 = (if s.memc.migSlot = 0 then s.memc.spare else s.memc.s0) ∧ t.memc.s1 = (if s.memc.migSlot = 0 then s.memc.s1 else s.memc.spare) ∧
      t.memc.spare = (if s.memc.migSlot = 0 then s.memc.s0 else s.memc.s1) ∧ t.memc.phase ≠ 1 ∧ t.memc.blocks = s.memc.cap * 262144 ∧
      t.memc.dram = s.memc.dram) ∧
    (c < 3 → s.chState c = 2 → s.domOn 6 = true → s.memc.ppr.isSome = true ∨ s.memc.phase = 1 ∧ c = s.memc.spare →
      exec (.repairAction c) s = .next { s with sent := [], memc := { s.memc with pprQ := some c } }) ∧
    (c < 3 → s.chState c = 2 → s.domOn 6 = true → s.memc.ppr = none → s.memc.phase ≠ 1 ∨ c ≠ s.memc.spare → ∃ t, exec (.repairAction c) s = .next t ∧ t.memc.ppr = some c ∧
      t.chan c = { s.chan c with state := 4 } ∧ (∀ j, j ≠ c → t.chan j = s.chan j) ∧ t.memc.dram = s.memc.dram ∧ t.commons = s.commons) ∧
    (s.memc.ppr = some c → s.memc.pprQ = none → s.memc.migQ = none → s.top.resumeWaits = none →
      (∃ t, exec (.pprComplete true) s = .next t ∧ t.memc.spare = c ∧ t.memc.ppr = none ∧ t.chan c = { s.chan c with state := 0, failRows := [], hits := [] } ∧
        t.commons = s.commons ∧ t.memc.dram = s.memc.dram) ∧
      ∃ t, exec (.pprComplete false) s = .next t ∧ (t.chan c).state = 5 ∧ t.memc.ppr = none ∧ (t.common blkMemc).intStat &&& 0x300000 = 0x300000)

/-- R457-R459, R473, R477: a primary that misses its seal or heartbeat gives way to the warm standby, or to CORE_FAIL without one; an image that passes is staged, is ready, and
takes over at the armed tick; after 1,024 ticks the old core is released; ERASE empties the flash that does not run. -/
def Obligations.FirmwareIsWatchedAndReplaced : Prop :=
  ∀ (s : State) (h flash : Nat) (i : FwImage), s.top.shadows = [] → s.time.running = true →
    (∀ c ∈ [Instr.sealMiss, Instr.heartbeatMiss], (c = .sealMiss → s.time.ticked = true) → (c = .heartbeatMiss → s.time.ticked = false ∧ s.top.booted = true) →
      (s.fab.stby = 1 → ∃ t, exec c s = .next t ∧ Recorded s t blkFab 0x11 .u s.tickDetail ∧ t.fab.primary = 1 - s.fab.primary ∧ t.fab.stby = 0 ∧
        t.fab.coreHeld = some s.fab.primary ∧ t.fab.runGen = s.fab.runGen) ∧
      (s.fab.stby = 2 → ∃ t, exec c s = .next t ∧ Recorded s t blkFab 0x11 .u s.tickDetail ∧ t.fab.primary = 1 - s.fab.primary ∧ t.fab.stby = 3 ∧
        t.fab.runGen = s.fab.stagedGen ∧ t.fab.oldGen = s.fab.runGen ∧ t.fab.watchEnd = some (s.time.tick + 1024)) ∧
      (s.fab.stby = 3 → ∃ t, exec c s = .next t ∧ Recorded s t blkFab 0x14 .u s.tickDetail ∧ t.fab.primary = 1 - s.fab.primary ∧
        t.fab.runGen = s.fab.oldGen ∧ t.fab.watchEnd = none) ∧
      (s.fab.stby = 0 → ∃ t, exec c s = .next t ∧ Recorded s t blkFab 0x12 .f s.tickDetail ∧ t.fab.primary = s.fab.primary ∧
        (s.top.state ≠ .dusk → s.top.state ≠ .night → t.top.classF = true) ∧ (s.top.state = .night → t.top.nightF = (blkFab, 0x12) :: s.top.nightF))) ∧
    (s.fab.stby = 1 → flash ≠ s.fab.runFlash → s.imageOk i = true → i.layoutOk = true → exec (.stage flash (some i)) s = .next { s with
      sent := [], fab := { s.fab with stage := 1, stby := 0, stagedGen := i.gen, stagedFlash := flash, stagedSecVer := i.secVer } }) ∧
    (s.fab.stby = 1 → flash = s.fab.runFlash → exec (.stage flash (some i)) s = .next { s with sent := [], fab := { s.fab with stage := 4, stagedGen := 0 } }) ∧
    (s.fab.stage = 1 → exec .stagedReady s = .next { s with sent := [], fab := { s.fab with stage := 3, stby := 2 } }) ∧
    (s.time.ticked = true → s.time.tick + 16 ≤ h → s.fab.watchEnd = none →
      exec (.arm h) s = .next { s with sent := [], fab := { s.fab with handover := some h, fwHandover := 1 } }) ∧
    (s.time.tick < h → h < s.time.tick + 16 → exec (.arm h) s = .next { s with sent := [] }) ∧
    (s.fab.handover = some h → h ≤ s.time.tick → s.fab.stby = 2 → ∃ t, exec .fwHandover s = .next t ∧ Recorded s t blkFab 0x13 .c s.tickDetail ∧
      t.fab.primary = 1 - s.fab.primary ∧ t.fab.runGen = s.fab.stagedGen ∧ t.fab.oldGen = s.fab.runGen ∧ t.fab.watchEnd = some (h + 1024) ∧ t.fab.handover = none) ∧
    (s.fab.handover = some h → h ≤ s.time.tick → s.fab.stby ≠ 2 →
      exec .fwHandover s = .next { s with sent := [], fab := { s.fab with handover := none, fwHandover := 4 } }) ∧
    (s.fab.watchEnd = some h → h ≤ s.time.tick →
      exec .fwRelease s = .next { s with sent := [], fab := { s.fab with watchEnd := none, stby := 1, fwHandover := 3 } }) ∧
    (flash ≠ s.fab.runFlash → exec (.erase flash) s = .next { s with sent := [], fab := { s.fab with
      pagesA := if flash = 0 then [] else s.fab.pagesA, pagesB := if flash = 0 then s.fab.pagesB else [] } }) ∧
    (flash = s.fab.runFlash → exec (.erase flash) s = .next { s with sent := [] })


/-- R327-R332, R336, R339, R350-R352, R355, R356, R569-R571: an engine of a pair reports to its Owl, a SHADOW with its health in every 16th tick, and keeps the token the Owl sends; the Owl grants, leases, supervises and hands over the
token under rising EPOCHs, and reports a SHADOW that is lost; a SHADOW that has STANDBY takes over at the boundary its partner's BEACON misses. -/
def Obligations.TheOwlKeepsOneTokenPerPair : Prop :=
  ∀ (s : State) (q a e ep tick x : Nat) (h : OwlHello) (b : OwlBeat) (g : OwlHealth), s.top.shadows = [] →
    let owl := s.cfg 0xB000 3
    let now := s.time.tick
    let v := s.owlSvc q
    let sh := s.owlOther q a
    let mail (ty epoch e arg : Nat) (body : List Byte) : List Emission := s.owlMail Config.pairNumber ty owl epoch e arg body
    let post (ty dst epoch e arg : Nat) : List Emission := s.owlMail q ty dst epoch e arg []
    (s.pairUp = true → s.holdsToken = false → exec .helloSend s = .next { s with
      sent := mail 1 (maxEpoch s.pair.epoch s.pair.epochSeen) 0 (s.helloCode + 4 * b2n s.pair.inSync) [] }) ∧
    (s.pairUp = true → s.time.running = true → ∃ arg,
      (s.pair.role ≠ 2 ∨ now % 16 ≠ 0 → exec .beatSend s = .next { s with sent := mail 2 s.pair.epoch 0 arg [] }) ∧
      (s.pair.role = 2 → now % 16 = 0 → exec .beatSend s = .next { s with
        sent := mail 2 s.pair.epoch 0 arg [] ++ mail 9 s.pair.epoch 0 0 (healthBytes s.health), top := { s.top with uev := 0, selfFail := 0 }
        sramc := { s.sramc with unreported := 0 }, memc := { s.memc with unreported := 0 } }) ∧
      bitAt arg 0 = s.mirrorUp ∧ bitAt arg 1 = s.pair.inSync ∧ bitAt arg 2 = s.pair.prov ∧ bitAt arg 3 = s.faultFlag ∧ bitAt arg 4 = s.lynxLostNow ∧
      arg / 2 ^ 32 = at? 0 s.pair.lm 0 % 65536) ∧
    (s.time.running = true → s.pair.role = 2 → s.pair.inSync = true → s.pair.noOwl = false → s.top.state = .noon → s.top.leaveAt = none →
      s.pair.standbyRx = some (now, ep) → ∃ t, exec .statusSend s = .next t ∧ t.pair = { s.pair with standby := true, stbySent := some now }) ∧
    (s.pairUp = true → epochFresh ep s.pair.epoch = true → s.pair.lease = none → exec (.lease ep tick (tick + 4)) s = .next { s with
      sent := [], pair := { s.pair with owlTick := now, noOwl := false, lease := some (tick, tick + 4), epochSeen := maxEpoch ep s.pair.epochSeen } }) ∧
    (s.pairUp = true → s.pair.role = 2 → s.pair.standbyRx = none → exec (.standby ep tick) s = .next { s with
      sent := [], pair := { s.pair with owlTick := now, noOwl := false, standbyRx := some (tick, ep) } }) ∧
    (s.pairUp = true → epochFresh ep s.pair.epoch = true → s.pair.role = 1 → s.pair.prov = true → exec (.grant ep tick) s = .next { s with sent := [], pair := { s.pair with
      owlTick := now, noOwl := false, prov := false, epoch := ep, grant := none, lease := some (now, now + 4), epochSeen := maxEpoch ep s.pair.epochSeen } }) ∧
    (s.pairUp = true → epochFresh ep s.pair.epoch = true → s.pair.role ≠ 1 → exec (.grant ep tick) s = .next { s with
      sent := [], pair := { s.pair with owlTick := now, noOwl := false, grant := some (ep, tick), epochSeen := maxEpoch ep s.pair.epochSeen } }) ∧
    (s.pairUp = true → epochFresh ep s.pair.epoch = true → s.pair.role = 1 →
      exec (.demote ep) s = .next { s with sent := [], pair := { s.pair with handoverAt := some (now + 1) } }) ∧
    (s.pairUp = true → s.time.running = true → owl ≠ 0 → s.pair.noOwl = false → s.pair.owlTick + 8 ≤ now → ∃ t, exec .noOwl s = .next t ∧
      Recorded s t blkPair 0x18 .u s.tickDetail ∧ t.pair = { s.pair with noOwl := true }) ∧
    (s.mayTake tick = true → s.pair.waitOver ≠ some tick → s.pair.standbyRx = some (x, ep) → s.pair.held = [] → ∃ t, exec (.takeover tick) s = .next t ∧
      t.pair.role = 1 ∧ t.pair.prov = true ∧ t.pair.epoch = ep ∧ t.pair.waitOver = some tick ∧ Recorded s t blkPair 0x19 .c s.tickDetail) ∧
    (s.pairUp = true → s.pair.role = 1 → now + 16 ≤ x → exec (.pairHandover x) s = .next { s with sent := mail 7 s.pair.epoch x 0 [] }) ∧
    (s.owlOn q = true → s.time.running = true → v.taker = none → v.active = some a → v.handover = none → v.handoverReq = none → s.beatsMissing q a = false →
      s.eligible q sh v.waiver = true → s.beatsMissing q sh = false → v.noLease = false → ∃ t, exec (.owlTickSend q) s = .next t ∧
        t.sent = post 3 a v.epoch (now + 4) (((s.owlRec q a).beatTick).getD 0) ++
          post 4 sh (nextEpoch v.epoch) (now + 4) (((s.owlRec q sh).beatTick).getD 0) ∧
        (t.owlSvc q).lastE = now + 4 ∧ (t.owlSvc q).stbySent = true ∧ (t.owlSvc q).active = some a ∧ (t.owlSvc q).epoch = v.epoch ∧
        (t.owlRec q sh).lost = false ∧ (∀ k, k ≠ q → t.owlSvc k = s.owlSvc k) ∧ t = { s with sent := t.sent, owl := t.owl }) ∧
    (s.owlOn q = true → s.time.running = true → v.taker = none → v.active = some a → v.handover = none → v.handoverReq = none → v.noLease = true →
      s.beatsMissing q sh = true → (s.owlRec q sh).lost = false → ∃ t, exec (.owlTickSend q) s = .next t ∧ t.sent = [] ∧ (t.owlSvc q).stbySent = false ∧
        (t.owlSvc q).noLease = true ∧ (t.owlRec q sh).lost = true ∧ Recorded s t blkPair 0x12 .c s.tickDetail) ∧
    (s.owlOn q = true → s.time.running = true → v.taker = some e → v.lastE ≤ now → ∃ t, exec (.owlTickSend q) s = .next t ∧
      t.sent = post 6 e (nextEpoch v.epoch) 0 0 ∧ (t.owlSvc q).active = some e ∧ (t.owlSvc q).epoch = nextEpoch v.epoch ∧ (t.owlSvc q).taker = none) ∧
    (s.owlOn q = true → s.owlKnows q h.engine = true → h.code = 2 → v.active = none → ∃ t, exec (.hello q h) s = .next t ∧ (t.owlSvc q).waiting = true ∧
      (t.owlRec q h.engine).code = 2 ∧ (t.owlRec q h.engine).epoch = h.epoch ∧ (t.owlSvc q).epoch = maxEpoch h.epoch v.epoch) ∧
    (s.owlOn q = true → v.waiting = true → v.active = none → v.a.code = 2 → v.b.code ≠ 2 → ∃ t n, exec (.owlGrantWait q) s = .next t ∧
      n = nextEpoch (maxEpoch (maxEpoch v.a.epoch v.b.epoch) v.epoch) ∧ t.sent = post 6 (s.owlAddr q).1 n 0 0 ∧
      t.owlSvc q = { v with active := some (s.owlAddr q).1, epoch := n, waiting := false, lastE := now, noLease := false }) ∧
    (s.owlOn q = true → s.owlKnows q b.engine = true → v.active = some b.engine → b.lynxLost = false → ∃ t, exec (.beat q b) s = .next t ∧ t.sent = [] ∧
      (t.owlRec q b.engine).beatTick = some b.tick ∧ (t.owlRec q b.engine).epoch = b.epoch ∧ (t.owlRec q b.engine).inSync = b.inSync ∧
      (t.owlRec q b.engine).limitsOk = (s.lmOk b.lm && s.loOk b.lo) ∧ (t.owlSvc q).active = v.active) ∧
    (s.owlOn q = true → s.owlKnows q e = true → v.active = some a → e ≠ a → v.stbySent = true → v.taker = none → ∃ t, exec (.take q e (nextEpoch v.epoch) tick) s = .next t ∧
      (t.owlSvc q).taker = some e ∧ (t.owlSvc q).active = some a ∧ t.sent = post 8 a v.epoch 0 0) ∧
    (s.owlOn q = true → v.active.isSome = true → v.taker = none → v.handoverReq ≠ some x → now + 2 < x → ∃ t, exec (.handover q x) s = .next t ∧
      t.owlSvc q = { v with handoverReq := some x, handover := none } ∧ t = { s with sent := [], owl := t.owl }) ∧
    (s.owlOn q = true → s.owlKnows q g.engine = true → ∃ t, exec (.health q g) s = .next t ∧ (t.owlRec q g.engine).healthTick = some g.tick ∧
      (t.owlRec q g.engine).lynxMatch = g.lynxMatch ∧ (t.owlRec q g.engine).impaired = g.impaired ∧ (t.owlRec q g.engine).selfTest = g.selfTest ∧
      (t.owlRec q g.engine).healthOk = (s.lmOk g.lm && skewOk g.skew) ∧
      t = { s with sent := [], owl := t.owl })


/-- R330, R331, R343-R346, R349, R350, R352-R354, R356: a SHADOW adopts the verdicts, repairs, TDM words and commits of its ACTIVE before their PROCESS, compares Lynx records, notes beacons,
status and fences; a joining engine takes a capture, catches up, refills and enters Noon in sync. -/
def Obligations.TheMirrorKeepsTheShadowEqual : Prop :=
  ∀ (s : State) (v : VerdictRec) (r : RepairRec) (st : StatusRec) (l : LynxRec) (j : JoinRec) (sr : SnapRec) (c : Snap) (d : TickData) (us : List CUnit) (ws : List (Nat × Int))
    (cs : List Word) (n x ep : Nat) (poison : Bool), s.top.shadows = [] →
    let heard := { s.pair with mirrorTick := s.time.tick }
    (s.adopts = true → s.beforeProcess v.tick = true → v.present = [] → ∃ t, exec (.verdict v) s = .next t ∧ tget [] t.csw.present v.tick = [] ∧
      t.pair = { heard with verdicts := ⟨v.tick, [], v.epochs, v.directs⟩ :: s.pair.verdicts }) ∧
    (s.adopts = true → s.beforeProcess v.tick = true → v.present = [x] → x ∈ gatherCtxs s.dict.vals → ctxMode s.dict.vals x = 0 → v.epochs = [] →
      (s.ctx x).inForce = [⟨v.tick, ep, n, d, false⟩] → (s.ctx x).epochCur = some ep → ∃ t, exec (.verdict v) s = .next t ∧
        tget [] t.csw.present v.tick = [x] ∧ tfind t.csw.gather (bankKey v.tick x) = some d ∧ t.pair.asked = s.pair.asked) ∧
    (s.pair.role = 1 → s.beforeProcess n = true → tfind s.csw.gather (bankKey n x) = some d → s.isPresent n x = true → exec (.miss n [x]) s = .next
      ({ s with sent := [], pair := heard }.sendMirror 2 2 n (repairBytes x d))) ∧
    (s.adopts = true → s.beforeProcess r.tick = true → ∃ t, exec (.repair r) s = .next t ∧
      tfind t.csw.gather (bankKey r.tick r.ctx) = some { nch := ctxNch s.dict.vals r.ctx, samples := r.samples, side := r.side } ∧
      (r.tick, r.ctx) ∈ t.pair.repaired ∧ t.pair.mirrorTick = s.time.tick) ∧
    (s.adopts = true → s.csw.cutTick = none → ∃ t, exec (.tdmRecord n ws) s = .next t ∧ n ∈ t.pair.tdmRec ∧ t.dict = s.dict) ∧
    (s.adopts = true → s.csw.cutTick = none → x < s.spt → ∃ t, exec (.tdmRecord n [(ep * s.spt + x, 5)]) s = .next t ∧
      (tfind t.csw.gather (bankKey n (tdmIndex ep))).map (fun d => d.samples[x]?) = some (some 5)) ∧
    (s.adopts = true → s.beforeProcess n = true → us ≠ [] → (∀ u ∈ us, u.kind ≠ .recall) → ∃ t, exec (.commitRecord n us) s = .next t ∧
      tfind t.dict.sealed n = some (tget [] s.dict.sealed n ++ us) ∧ n ∈ t.pair.commitRec ∧ t.dict.vals = s.dict.vals) ∧
    (s.paired = true → s.pair.role = 2 → ∃ t, exec (.beacon n ep) s = .next t ∧ t = { s with sent := [], pair := { heard with
      beacon := some n, epoch := if epochAbove ep s.pair.epoch then ep else s.pair.epoch, epochSeen := maxEpoch ep s.pair.epochSeen } }) ∧
    (s.paired = true → s.pair.role = 1 → exec (.statusRecord st) s = .next { s with sent := [], pair := { heard with
      status := some (st.tick, st.standby, st.take), standby := st.standby, mateSync := st.inSync, lastSync := if st.inSync then some st.tick else s.pair.lastSync } }) ∧
    (s.paired = true → s.pair.role ≠ 2 → exec (.fence n ep) s = .next { s with sent := [], pair := { heard with fenceB := some n } }) ∧
    (s.paired = true → s.pair.role = 2 → s.pair.noOwl = true → s.pair.inSync = true → s.top.state = .noon → exec (.fence n ep) s = .next { s with
      sent := [], pair := { heard with fenceB := some n, grant := some (nextEpoch (maxEpoch ep s.pair.epoch), if n ≤ s.time.tick then s.time.tick + 1 else n) } }) ∧
    (s.paired = true → s.time.tick ≤ l.stage + 3 → tfind s.pair.lynxOwn l.stage = some l.crcs → ∃ t, exec (.lynx l) s = .next t ∧
      t.pair.lynxHist.head? = some 0 ∧ t.pair.streak = min 0xFFFF (s.pair.streak + 1) ∧ t.pair.mism = s.pair.mism ∧ t.commons = s.commons ∧
      tfind t.pair.lynxOwn l.stage = none) ∧
    (s.paired = true → s.time.tick ≤ l.stage + 3 → tfind s.pair.lynxOwn l.stage = some cs → cs ≠ l.crcs → ∃ t, exec (.lynx l) s = .next t ∧
      t.pair.lynxHist.head? = some 1 ∧ t.pair.streak = 0 ∧ t.pair.mism = min 0xFFFF (s.pair.mism + 1) ∧
      (s.lynxCounts = true → (t.common blkPair).intStat &&& 0x200000 = 0x200000) ∧ (s.lynxCounts = false → t.commons = s.commons)) ∧
    (s.lynxOn = true → (tfind s.pair.lynxOwn n).isSome = true → n + 3 ≤ s.time.tick → ∃ t, exec (.lynxAbsent n) s = .next t ∧
      t.pair.lynxHist.head? = some 2 ∧ t.pair.streak = 0 ∧ t.pair.mism = s.pair.mism ∧ tfind t.pair.lynxOwn n = none) ∧
    (s.pair.role = 1 → s.top.state = .noon → s.pair.mateSync = true → s.pair.lynxFails = true → s.pair.lynxLostAt = none → ∃ t, exec .lynxLost s = .next t ∧
      Recorded s t blkPair 0x16 .u s.tickDetail ∧ t.pair = { s.pair with lynxLostAt := some s.time.tick }) ∧
    (s.pair.role = 2 → s.pair.mirrorTick + 8 ≤ s.time.tick → exec .mirrorSilence s = .next { s with sent := [], pair := { s.pair with inSync := false } }) ∧
    (s.paired = true → s.joinAgrees j = true → j.s = none → s.pair.role = 1 → s.top.state = .noon → ∃ t, exec (.join j) s = .next t ∧
      t.pair = { heard with capturing := some (s.time.tick + 16), snap := none, mateSync := false, refused := false }) ∧
    (s.paired = true → s.joinAgrees j = true → j.s = some n → s.pair.rejoin = 1 → ∃ t, exec (.join j) s = .next t ∧ t.pair.rejoin = 2 ∧ t.pair.joinS = some n) ∧
    (s.paired = true → s.joinAgrees j = false → ∃ t, exec (.join j) s = .next t ∧ Recorded s t blkPair 0x10 .u s.tickDetail ∧
      t.pair = { heard with rejoin := 0, refused := true }) ∧
    (s.pair.role = 1 → s.pair.snap = some c → s.pair.capturing = some c.tick → ∃ t, exec (.capture c.tick) s = .next t ∧
      t.pair = { s.pair with capturing := none, snap := none }) ∧
    (s.pair.rejoin = 2 → sr.whole = some c → exec (.snapRecord sr) s = .next { s with
      sent := [], pair := { heard with rejoin := 3, snap := some c, snapEnd := s.time.tick } }) ∧
    (s.pair.rejoin = 3 → s.pair.snap = some c → s.time.tick < c.tick + 2 → exec (.catchUp x poison) s = .next { s with sent := [] }) ∧
    (s.pair.rejoin = 3 → s.pair.snap = some c → s.refusesSnap c x poison = false → c.tick + 2 ≤ s.time.tick → ∃ t, exec (.catchUp x poison) s = .next t ∧
      t.pair.snap = none ∧ (t.pair.rejoin = 4 ∨ t.pair.rejoin = 5 ∧ t.pair.caught = true) ∧
      (c.tick + 2 = s.time.tick → s.dict.sealed = [] → s.dict.owed = [] → t.pair.rejoin = 5 ∧ t.pair.caught = true ∧ t.dp.ch = c.dp ∧ t.dp.done = c.dpDone ∧
        t.dict.vals = c.vals ++ s.dict.vals.filter fun e => !(pairWide (e.1 / 16777216) (e.1 / 65536 % 256)))) ∧
    (s.pair.rejoin = 4 → s.holdsCommits = true → s.csw.proc + 2 = s.time.tick → ∃ t, exec (.catchUp x false) s = .next t ∧ t.pair.rejoin = 5 ∧
      t.pair.caught = true ∧ t.dict = s.dict ∧ t.dp = s.dp) ∧
    (s.pair.rejoin = 3 → s.pair.snap = some c → c.tick + 2 ≤ s.time.tick → s.refusesSnap c x poison = true → s.pair.retries < 3 → ∃ t, exec (.catchUp x poison) s = .next t ∧
      Recorded s t blkPair 0x17 .u s.tickDetail ∧ t.pair = { s.pair with rejoin := 0, joinS := none, snap := none, retries := s.pair.retries + 1 }) ∧
    (s.pair.rejoin = 5 → (∀ e ∈ s.aln.outs, e.2.covered = true) → exec .refill s = .next { s with sent := [], pair := { s.pair with rejoin := 6, matchRun := 0 } }) ∧
    (s.pair.rejoin = 6 → 64 ≤ s.pair.matchRun → s.top.state = .morning → s.serviceReady = true → s.top.leaveAt = none → s.top.classF = false →
      ∃ t, exec .inSync s = .next t ∧ t.top.state = .noon ∧ t.top.cause = 4 ∧ t.pair.role = 2 ∧ t.pair.inSync = true ∧ t.pair.rejoin = 0)


/-- R395, R396, R404, R407-R413, R415, R421, R424: links come up and go down with their events; a group starts with its lanes, announces its credit, takes frames in FSEQ order, sends again what a NAK
names, removes and adds lanes, also where an eye is too small, and drains; a mirror frame reaches the pair under the mirror key alone. -/
def Obligations.LinksAndGroupsCarryFrames : Prop :=
  ∀ (s : State) (p g q eye fseq marker mask corr uncorr : Nat) (verified : Bool) (f : PlFrame) (r : PeerFrame) (e : Emission) (rec : List Byte), s.top.shadows = [] →
    let x := s.group g
    let y := s.port p
    let head := 32 + s.groupHead g
    let b := (r.bytes.take (r.bytes.length - 4)).drop 8
    let drains (c : Instr) : Prop := ∃ t, exec c s = .next t ∧ Recorded s t (blkPort head) 0x19 .u g ∧ t.group g = x.drained ∧
      t.sent.take 4 = [.block g 0x66 [4, 0, 0], .block g 0x4B [0, 4096, 0], .block g 0x4B [1, 4096, 0], .block g 0x4B [2, 4096, 0]] ∧
      ∀ k, k ≠ g → t.group k = s.group k
    (p < 32 → s.portLive p = true → y.up = false → ∃ t, exec (.linkUp p verified true) s = .next t ∧ Recorded s t (blkPort p) 0x10 .c s.tickDetail ∧
      t.port p = { y with up := true, preempt := s.cfgOn (0xC000 + p) 22 && (!(s.cfgOn (0xC000 + p) 23) || verified) } ∧ ∀ k, k ≠ p → t.port k = s.port k) ∧
    (q < 16 → s.portLive (32 + q) = true → s.groupOfLane q = some g → x.state = 0 → x.active = [] → s.cfg (0xC200 + g) 2 = 1 →
      ∃ t, exec (.linkUp (32 + q) verified true) s = .next t ∧ t.group g = { x.drained with active := [q], state := 1 } ∧ Recorded s t (blkPort head) 0x10 .c g ∧
        t.sent = [.block g 0x4B [0, 4096, 0], .block g 0x4B [1, 4096, 0], .block g 0x4B [2, 4096, 0]] ∧ (t.port (32 + q)).up = true) ∧
    (p < 32 → y.up = true → ∃ t, exec (.linkDown p) s = .next t ∧ Recorded s t (blkPort p) 0x11 .c s.tickDetail ∧
      t.port p = { y with up := false, preempt := false, pausedCtl := false, pausedBulk := false, held := [], cnt := bump y.cnt 33 1 } ∧ ∀ k, k ≠ p → t.port k = s.port k) ∧
    (s.cfg (0xC000 + p) 4 = 4 → ∃ t, exec (.fecDegrade p corr uncorr) s = .next t ∧ Recorded s t (blkPort p) 0x12 .c s.tickDetail ∧
      t.port p = { y with cnt := bump (bump y.cnt 31 corr) 32 uncorr }) ∧
    (y.up = true → s.cfgOn (0xC000 + p) 22 = true → s.cfgOn (0xC000 + p) 23 = true → ∃ t, exec (.preemptFail p) s = .next t ∧
      Recorded s t (blkPort p) 0x15 .c s.tickDetail ∧ t.port p = { y with preempt := false }) ∧
    (eye < 65536 → y.measured = true → (p < 32 ∨ s.cfg (0xC000 + p) 31 ≤ eye) → ∃ t, exec (.eyeMeasure p eye) s = .next t ∧
      t.port p = { y with eye := eye, low := min y.low eye } ∧ (∀ k, k ≠ p → t.port k = s.port k) ∧ t = { s with sent := [], ports := t.ports }) ∧
    (32 ≤ p → eye < s.cfg (0xC000 + p) 31 → eye < 65536 → (∀ k, s.groupOfLane (p - 32) = some k → p - 32 ∉ (s.group k).active) →
      ∃ t, exec (.eyeMeasure p eye) s = .next t ∧ Recorded s t (blkPort p) 0x16 .c s.tickDetail ∧ (t.port p).eye = eye ∧ t.groups = s.groups) ∧
    (32 ≤ p → eye < s.cfg (0xC000 + p) 31 → eye < 65536 → s.groupOfLane (p - 32) = some g → p - 32 ∈ x.active →
      ∃ t, exec (.eyeMeasure p eye) s = .next t ∧ (t.common (blkPort p)).intStat &&& 0xC00000 = 0xC00000 ∧ (t.port p).eye = eye ∧ (t.port p).up = false ∧
        (t.group g).active = (x.active.filter fun k => k != p - 32) ∧ ∀ k, k ≠ g → t.group k = s.group k) ∧
    (x.state = 2 → x.waiting = [] → ∃ t, exec (.credit g q mask fseq) s = .next t ∧ t = { s with sent := [], groups := t.groups } ∧
      t.group g = { x with credit := listSet x.credit q (min 4096 (at? 0 x.credit q + mask)), replay := x.replay.filter fun h => !(covers fseq h.fseq) }) ∧
    (x.state = 2 → x.waiting = [f] → f.replays = 0 → f.out = some e → f.vc < 3 → x.credit = [0, 0, 0] → f.credits ≤ mask → mask ≤ 4096 →
      ∃ t, exec (.credit g f.vc mask x.rxSeq) s = .next t ∧ t.sent = [onLink f.vc x.txSeq e] ∧ (t.group g).waiting = [] ∧ (t.group g).txSeq = (x.txSeq + 1) % 2 ^ 16 ∧
        { f with fseq := x.txSeq } ∈ (t.group g).replay) ∧
    (x.state = 2 → x.waiting = [] → x.replay = [f] → covers fseq f.fseq = false → f.replays < 4 → f.out = some e → f.credits ≤ at? 0 x.credit f.vc →
      ∃ t, exec (.nak g fseq) s = .next t ∧ t.sent = [onLink f.vc fseq e] ∧ (t.group g).replay = [{ f with fseq := fseq, replays := f.replays + 1 }] ∧
        (t.group g).txSeq = (fseq + 1) % 2 ^ 16 ∧ (t.group g).waiting = []) ∧
    (x.marker ≠ marker → (∀ k ∈ x.active, tget x.marker x.marks k = x.marker) → x.adding = none → ∃ t, exec (.align g q marker true) s = .next t ∧
      t.group g = { x with marker := marker, marks := tset x.marks q marker } ∧ t = { s with sent := [], groups := t.groups }) ∧
    (x.marker ≠ marker → x.adding = some (mask, marker) → ∃ t, exec (.align g q marker true) s = .next t ∧ (t.group g).adding = none ∧
      ∀ k ∈ s.groupLanes g, bitAt mask k = true → k ∈ (t.group g).active) ∧
    (∃ t, exec (.lanectlRemove g mask) s = .next t ∧ (t.group g).active = (x.active.filter fun k => !(bitAt mask k)) ∧ .block g 0x66 [3, mask, 0] ∈ t.sent ∧
      (∀ k ∈ x.active, bitAt mask k = true → (t.port (32 + k)).up = false) ∧ ∀ k, k ≠ g → t.group k = s.group k) ∧
    (∃ t, exec (.lanectlAdd g mask marker) s = .next t ∧ t = { s with sent := [.block g 0x66 [3, mask, marker]], groups := t.groups } ∧
      t.group g = { x with adding := some (mask, marker) } ∧ ∀ k, k ≠ g → t.group k = s.group k) ∧
    exec (.lanectlAck g mask) s = .next { s with sent := [] } ∧
    (x.state ≠ 0 → drains (.lanectlDrain g)) ∧ (x.state ≠ 0 → x.waiting ≠ [] → drains (.groupDrain g)) ∧
    (q ∈ x.active → x.state = 2 → s.cfg (0xC200 + g) 2 ≤ (x.active.filter fun k => k != q).length → ∃ t, exec (.laneLost g q) s = .next t ∧
      Recorded s t (blkPort (32 + q)) 0x17 .c q ∧ (t.group g).active = (x.active.filter fun k => k != q) ∧ (t.port (32 + q)).up = false ∧ (t.group g).nakSent = true) ∧
    ((s.group r.group).state ≠ 0 → pcrcOk r.bytes = true → field r.bytes 4 2 = (s.group r.group).rxSeq → plHeaderOk r.bytes = true →
      s.headerFails (s.plKapo r none) (kapoHeader b) = none → (kapoHeader b).length s.spt ≤ b.length → (kapoHeader b).mirror = true →
      r.authOk = false ∨ s.paired = false → ∃ t, exec (.peerLinkFrameRx r) s = .next t ∧ t = { s with sent := t.sent, groups := t.groups, ports := t.ports } ∧
        t.sent = [.block r.group 0x4B [field r.bytes 0 1 % 16, ceilDiv r.bytes.length 64, ((s.group r.group).rxSeq + 1) % 2 ^ 16]] ∧
        t.group r.group = { s.group r.group with rxSeq := ((s.group r.group).rxSeq + 1) % 2 ^ 16, nakSent := false } ∧
        tget 0 (t.port (32 + s.groupHead r.group)).cnt 0 = tget 0 (s.port (32 + s.groupHead r.group)).cnt 0 + 1) ∧
    ((s.group r.group).state ≠ 0 → pcrcOk r.bytes = true → field r.bytes 4 2 = (s.group r.group).rxSeq → plHeaderOk r.bytes = true →
      s.headerFails (s.plKapo r none) (kapoHeader b) = none → (kapoHeader b).length s.spt ≤ b.length → (kapoHeader b).mirror = true →
      r.authOk = true → s.paired = true → s.resetting 6 = false → (kapoHeader b).auth = true → (kapoHeader b).keyid = 0xFFFF → (kapoHeader b).stream = 0x500 →
      s.pair.parts = [] → (b.drop 32).take (4 * s.spt * (kapoHeader b).nch) ≠ [] → s.pair.role ≠ 1 → ∃ t, exec (.peerLinkFrameRx r) s = .next t ∧
        t.pair.beacon = some (fullTick s.time.tick (kapoHeader b).tick).toNat ∧ t.pair.mirrorTick = s.time.tick ∧ t.pair.parts = [] ∧
        t.group r.group = { s.group r.group with rxSeq := ((s.group r.group).rxSeq + 1) % 2 ^ 16, nakSent := false }) ∧
    ((s.group r.group).state ≠ 0 → pcrcOk r.bytes = false → (s.group r.group).nakSent = true → ∃ t, exec (.peerLinkFrameRx r) s = .next t ∧
      t.sent = [.block r.group 0x4B [field r.bytes 0 1 % 16, ceilDiv r.bytes.length 64, (s.group r.group).rxSeq]] ∧ t.groups = s.groups ∧
      tget 0 (t.port (32 + s.groupHead r.group)).cnt 6 = tget 0 (s.port (32 + s.groupHead r.group)).cnt 6 + 1) ∧
    (let m := s.group (s.cfg 0xB000 4)
    m.state ≠ 0 → m.waiting = [] → q < 3 → 0 < s.spt → 4 * s.spt ≤ 9540 → ceilDiv (60 + 4 * s.spt) 64 ≤ at? 0 m.credit q → rec.length ≤ 4 * s.spt →
      (let h := s.mirrorHead mask 0 marker (tget 0 m.mirSeq (mask * 256)) 1
      (s.sendMirror q mask marker rec).sent = s.sent ++ [onLink q m.txSeq (.mirror h (.wire (s.mirrorWire marker h rec 1)))]))


end
end

