-- ==== Sys2Proof/Laws/Memory.lean ====
section
/-! SUPPORT. Laws of the sparse tables and of the byte memories: read after write, and the canonical form is kept. -/

namespace Sys2Proof.Machine

/-! ### Tables -/

theorem tget_tset_same {α : Type} (d : α) (t : Tab α) (i : Nat) (x : α) : tget d (tset t i x) i = x := by
  induction t with
  | nil => simp [tset, tget]
  | cons e t ih => obtain ⟨k, v⟩ := e; by_cases h : k = i <;> simp [tset, tget, h, ih]

theorem tget_tset_other {α : Type} (d : α) (t : Tab α) (i j : Nat) (x : α) (h : j ≠ i) : tget d (tset t i x) j = tget d t j := by
  induction t with
  | nil => simp [tset, tget, h.symm]
  | cons e t ih =>
    obtain ⟨k, v⟩ := e
    by_cases hk : k = i
    · subst hk; simp [tset, tget, h.symm]
    · by_cases hj : k = j
      · subst hj; simp [tset, tget, hk]
      · simp [tset, tget, hk, hj, ih]

theorem tget_tmod_same {α : Type} (d : α) (t : Tab α) (i : Nat) (f : α → α) : tget d (tmod d t i f) i = f (tget d t i) :=
  tget_tset_same d t i _

theorem tget_tmod_other {α : Type} (d : α) (t : Tab α) (i j : Nat) (f : α → α) (h : j ≠ i) : tget d (tmod d t i f) j = tget d t j :=
  tget_tset_other d t i j _ h

theorem mem_tset {α : Type} {t : Tab α} {i : Nat} {x : α} {e : Nat × α} (h : e ∈ tset t i x) : e = (i, x) ∨ e ∈ t := by
  induction t with
  | nil => simpa [tset] using h
  | cons a t ih =>
    obtain ⟨k, v⟩ := a
    by_cases hk : k = i
    · simp [tset, hk] at h; rcases h with h | h <;> simp [h]
    · simp [tset, hk] at h
      rcases h with h | h
      · simp [h]
      · rcases ih h with h | h <;> simp [h]

theorem tget_mem_or {α : Type} (d : α) (t : Tab α) (i : Nat) : tget d t i = d ∨ ∃ e ∈ t, e.2 = tget d t i := by
  induction t with
  | nil => simp [tget]
  | cons a t ih =>
    obtain ⟨k, v⟩ := a
    by_cases hk : k = i
    · right; exact ⟨(k, v), by simp, by simp [tget, hk]⟩
    · rcases ih with h | ⟨e, he, h⟩
      · left; simpa [tget, hk] using h
      · right; exact ⟨e, by simp [he], by simpa [tget, hk] using h⟩

/-! ### Byte memories -/

/-- Every listed address is at least a bound. -/
def memAbove (a : Nat) (m : List Host.Cell) : Prop := ∀ c ∈ m, a ≤ c.1

theorem wf_cons {a : Nat} {b : Byte} {t : List Host.Cell} :
    Memory.wf ((a, b) :: t) = true ↔ b ≠ 0 ∧ memAbove (a + 1) t ∧ Memory.wf t = true := by
  induction t generalizing a b with
  | nil => simp [Memory.wf, memAbove]
  | cons e t ih =>
    obtain ⟨a', b'⟩ := e
    simp only [Memory.wf, Bool.and_eq_true, bne_iff_ne, decide_eq_true_eq, memAbove, List.mem_cons]
    constructor
    · rintro ⟨⟨hb, ha⟩, hw⟩
      refine ⟨hb, ?_, hw⟩
      rintro c (rfl | hc)
      · exact ha
      · have := (ih.1 hw).2.1 c hc; omega
    · rintro ⟨hb, ha, hw⟩
      exact ⟨⟨hb, ha _ (Or.inl rfl)⟩, hw⟩

theorem mem_memSet {m : List Host.Cell} {i : Nat} {v : Byte} {c : Host.Cell} (h : c ∈ memSet m i v) : c.1 = i ∨ c ∈ m := by
  induction m with
  | nil => by_cases hv : v = 0#8 <;> simp [memSet, hv] at h; simp [h]
  | cons e t ih =>
    obtain ⟨a, b⟩ := e
    simp only [memSet] at h
    split at h
    · split at h
      · exact .inr h
      · rcases List.mem_cons.1 h with h | h
        · exact .inl (by simp [h])
        · exact .inr h
    · split at h
      · split at h
        · exact .inr (by simp [h])
        · rcases List.mem_cons.1 h with h | h
          · exact .inl (by simp [h])
          · exact .inr (by simp [h])
      · rcases List.mem_cons.1 h with h | h
        · exact .inr (by simp [h])
        · rcases ih h with h | h
          · exact .inl h
          · exact .inr (by simp [h])

/-- A write keeps the canonical form. -/
theorem wf_memSet {m : List Host.Cell} (h : Memory.wf m = true) (i : Nat) (v : Byte) : Memory.wf (memSet m i v) = true := by
  induction m with
  | nil => by_cases hv : v = 0#8 <;> simp [memSet, hv, Memory.wf]
  | cons e t ih =>
    obtain ⟨a, b⟩ := e
    have ⟨hb, ha, hw⟩ := wf_cons.1 h
    simp only [memSet]
    split
    · split
      · exact h
      · refine wf_cons.2 ⟨by assumption, ?_, h⟩
        intro c hc
        rcases List.mem_cons.1 hc with rfl | hc
        · simp; omega
        · have := ha c hc; omega
    · split
      · split
        · exact hw
        · refine wf_cons.2 ⟨by assumption, ?_, hw⟩
          subst_vars; exact ha
      · refine wf_cons.2 ⟨hb, ?_, ih hw⟩
        intro c hc
        rcases mem_memSet hc with hc | hc
        · omega
        · exact ha c hc

theorem wf_memSetWord {m : List Host.Cell} (h : Memory.wf m = true) (a : Nat) (v : Word) : Memory.wf (memSetWord m a v) = true :=
  wf_memSet (wf_memSet (wf_memSet (wf_memSet h _ _) _ _) _ _) _ _

theorem wf_memSetBytes (l : List Byte) {m : List Host.Cell} (h : Memory.wf m = true) (a : Nat) : Memory.wf (memSetBytes m a l) = true := by
  induction l generalizing m a with
  | nil => exact h
  | cons b t ih => exact ih (wf_memSet h _ _) _

theorem wf_filter {m : List Host.Cell} (h : Memory.wf m = true) (p : Host.Cell → Bool) : Memory.wf (m.filter p) = true := by
  induction m with
  | nil => rfl
  | cons e t ih =>
    obtain ⟨a, b⟩ := e
    have ⟨hb, ha, hw⟩ := wf_cons.1 h
    rw [List.filter_cons]
    split
    · exact wf_cons.2 ⟨hb, fun c hc => ha c (List.mem_filter.1 hc).1, ih hw⟩
    · exact ih hw

theorem wf_foldl {α : Type} (f : List Host.Cell → α → List Host.Cell) (hf : ∀ m x, Memory.wf m = true → Memory.wf (f m x) = true)
    (l : List α) {m : List Host.Cell} (h : Memory.wf m = true) : Memory.wf (l.foldl f m) = true := by
  induction l generalizing m with
  | nil => exact h
  | cons x t ih => exact ih (hf _ _ h)

theorem memGet_above {m : List Host.Cell} {i : Nat} (h : memAbove (i + 1) m) : memGet m i = 0 := by
  induction m with
  | nil => rfl
  | cons e t ih =>
    obtain ⟨a, b⟩ := e
    have h1 := h (a, b) (by simp)
    have : a ≠ i := by intro e; subst e; simp at h1
    simp only [memGet, this, if_false]
    exact ih fun c hc => h c (by simp [hc])

/-- A read after a write to the same address gives the byte written. -/
theorem memGet_memSet_same {m : List Host.Cell} (h : Memory.wf m = true) (i : Nat) (v : Byte) : memGet (memSet m i v) i = v := by
  induction m with
  | nil => by_cases hv : v = 0#8 <;> simp [memSet, hv, memGet]
  | cons e t ih =>
    obtain ⟨a, b⟩ := e
    have ⟨hb, ha, hw⟩ := wf_cons.1 h
    simp only [memSet]
    split
    · split
      · subst_vars
        refine memGet_above ?_
        intro c hc
        rcases List.mem_cons.1 hc with rfl | hc
        · simp; omega
        · have := ha c hc; omega
      · simp [memGet]
    · split
      · split
        · subst_vars; exact memGet_above ha
        · simp [memGet]
      · rename_i h2
        simp only [memGet, h2, if_false]; exact ih hw

/-- A write leaves every other address alone. -/
theorem memGet_memSet_other (m : List Host.Cell) (i j : Nat) (v : Byte) (hj : j ≠ i) : memGet (memSet m i v) j = memGet m j := by
  induction m with
  | nil => by_cases hv : v = 0#8 <;> simp [memSet, hv, memGet, hj.symm]
  | cons e t ih =>
    obtain ⟨a, b⟩ := e
    simp only [memSet]
    split
    · split
      · rfl
      · simp [memGet, hj.symm]
    · split
      · subst_vars
        split <;> simp [memGet, hj.symm]
      · simp only [memGet]; split <;> simp_all

theorem memGet_memSetWord_other (m : List Host.Cell) (a : Nat) (v : Word) (j : Nat) (h : j < a ∨ a + 4 ≤ j) :
    memGet (memSetWord m a v) j = memGet m j := by
  unfold memSetWord
  rw [memGet_memSet_other _ _ _ _ (by omega), memGet_memSet_other _ _ _ _ (by omega), memGet_memSet_other _ _ _ _ (by omega),
    memGet_memSet_other _ _ _ _ (by omega)]

theorem memGet_memSetBytes_other (l : List Byte) (m : List Host.Cell) (a j : Nat) (h : j < a ∨ a + l.length ≤ j) :
    memGet (memSetBytes m a l) j = memGet m j := by
  induction l generalizing m a with
  | nil => rfl
  | cons b t ih =>
    simp only [List.length_cons] at h
    rw [memSetBytes, ih _ _ (by omega), memGet_memSet_other _ _ _ _ (by omega)]

theorem memGet_memSetBytes_at (l : List Byte) {m : List Host.Cell} (hm : Memory.wf m = true) (a k : Nat) (hk : k < l.length) :
    memGet (memSetBytes m a l) (a + k) = l[k] := by
  induction l generalizing m a k with
  | nil => simp at hk
  | cons b t ih =>
    cases k with
    | zero =>
      rw [memSetBytes, memGet_memSetBytes_other _ _ _ _ (by omega)]
      simpa using memGet_memSet_same hm a b
    | succ k =>
      have := ih (wf_memSet hm a b) (a + 1) k (by simpa using hk)
      simpa [memSetBytes, Nat.add_assoc, Nat.add_comm 1 k] using this

theorem memWord_memSetWord {m : List Host.Cell} (hm : Memory.wf m = true) (a : Nat) (v : Word) : memWord (memSetWord m a v) a = v := by
  have h0 := wf_memSet hm a (v.extractLsb' 0 8)
  have h1 := wf_memSet h0 (a + 1) (v.extractLsb' 8 8)
  have h2 := wf_memSet h1 (a + 2) (v.extractLsb' 16 8)
  have g3 : memGet (memSetWord m a v) (a + 3) = v.extractLsb' 24 8 := memGet_memSet_same h2 _ _
  have g2 : memGet (memSetWord m a v) (a + 2) = v.extractLsb' 16 8 := by
    unfold memSetWord; rw [memGet_memSet_other _ _ _ _ (by omega)]; exact memGet_memSet_same h1 _ _
  have g1 : memGet (memSetWord m a v) (a + 1) = v.extractLsb' 8 8 := by
    unfold memSetWord; rw [memGet_memSet_other _ _ _ _ (by omega), memGet_memSet_other _ _ _ _ (by omega)]; exact memGet_memSet_same h0 _ _
  have g0 : memGet (memSetWord m a v) a = v.extractLsb' 0 8 := by
    unfold memSetWord
    rw [memGet_memSet_other _ _ _ _ (by omega), memGet_memSet_other _ _ _ _ (by omega), memGet_memSet_other _ _ _ _ (by omega)]
    exact memGet_memSet_same hm _ _
  rw [memWord, g3, g2, g1, g0]
  apply BitVec.eq_of_getLsbD_eq
  intro i hi
  simp only [BitVec.getLsbD_append, BitVec.getLsbD_extractLsb']
  by_cases h8 : i < 8
  · simp [h8]
  · by_cases h16 : i - 8 < 8
    · have : 8 + (i - 8) = i := by omega
      simp [h8, h16, this]
    · by_cases h24 : i - 8 - 8 < 8
      · have : 16 + (i - 8 - 8) = i := by omega
        simp [h8, h16, h24, this]
      · have e : 24 + (i - 8 - 8 - 8) = i := by omega
        have d : i - 8 - 8 - 8 < 8 := by omega
        simp [h8, h16, h24, e, d]

end Sys2Proof.Machine
end

