-- ==== Sys2Proof/Laws/State.lean ====
section
/-! SUPPORT. One lemma per field of the state and per update of a sub-state: what the update leaves and what it sets. -/

namespace Sys2Proof.Machine

variable (s : State)

/-! ### setCommon -/

@[simp] theorem State.setCommon_pending (n : Nat) (f : Common → Common) : (s.setCommon n f).pending = s.pending := rfl
@[simp] theorem State.setCommon_sent (n : Nat) (f : Common → Common) : (s.setCommon n f).sent = s.sent := rfl
@[simp] theorem State.setCommon_freeCtr (n : Nat) (f : Common → Common) : (s.setCommon n f).freeCtr = s.freeCtr := rfl
@[simp] theorem State.setCommon_commons (n : Nat) (f : Common → Common) : (s.setCommon n f).commons = tmod {} s.commons n f := rfl
@[simp] theorem State.setCommon_top (n : Nat) (f : Common → Common) : (s.setCommon n f).top = s.top := rfl
@[simp] theorem State.setCommon_fab (n : Nat) (f : Common → Common) : (s.setCommon n f).fab = s.fab := rfl
@[simp] theorem State.setCommon_csw (n : Nat) (f : Common → Common) : (s.setCommon n f).csw = s.csw := rfl
@[simp] theorem State.setCommon_clusters (n : Nat) (f : Common → Common) : (s.setCommon n f).clusters = s.clusters := rfl
@[simp] theorem State.setCommon_ws (n : Nat) (f : Common → Common) : (s.setCommon n f).ws = s.ws := rfl
@[simp] theorem State.setCommon_spinQ (n : Nat) (f : Common → Common) : (s.setCommon n f).spinQ = s.spinQ := rfl
@[simp] theorem State.setCommon_dict (n : Nat) (f : Common → Common) : (s.setCommon n f).dict = s.dict := rfl
@[simp] theorem State.setCommon_mix (n : Nat) (f : Common → Common) : (s.setCommon n f).mix = s.mix := rfl
@[simp] theorem State.setCommon_dyn (n : Nat) (f : Common → Common) : (s.setCommon n f).dyn = s.dyn := rfl
@[simp] theorem State.setCommon_dp (n : Nat) (f : Common → Common) : (s.setCommon n f).dp = s.dp := rfl
@[simp] theorem State.setCommon_aln (n : Nat) (f : Common → Common) : (s.setCommon n f).aln = s.aln := rfl
@[simp] theorem State.setCommon_sil (n : Nat) (f : Common → Common) : (s.setCommon n f).sil = s.sil := rfl
@[simp] theorem State.setCommon_time (n : Nat) (f : Common → Common) : (s.setCommon n f).time = s.time := rfl
@[simp] theorem State.setCommon_refsel (n : Nat) (f : Common → Common) : (s.setCommon n f).refsel = s.refsel := rfl
@[simp] theorem State.setCommon_sec (n : Nat) (f : Common → Common) : (s.setCommon n f).sec = s.sec := rfl
@[simp] theorem State.setCommon_pair (n : Nat) (f : Common → Common) : (s.setCommon n f).pair = s.pair := rfl
@[simp] theorem State.setCommon_owl (n : Nat) (f : Common → Common) : (s.setCommon n f).owl = s.owl := rfl
@[simp] theorem State.setCommon_sramc (n : Nat) (f : Common → Common) : (s.setCommon n f).sramc = s.sramc := rfl
@[simp] theorem State.setCommon_memc (n : Nat) (f : Common → Common) : (s.setCommon n f).memc = s.memc := rfl
@[simp] theorem State.setCommon_pwr (n : Nat) (f : Common → Common) : (s.setCommon n f).pwr = s.pwr := rfl
@[simp] theorem State.setCommon_tw0 (n : Nat) (f : Common → Common) : (s.setCommon n f).tw0 = s.tw0 := rfl
@[simp] theorem State.setCommon_tw1 (n : Nat) (f : Common → Common) : (s.setCommon n f).tw1 = s.tw1 := rfl
@[simp] theorem State.setCommon_hostp (n : Nat) (f : Common → Common) : (s.setCommon n f).hostp = s.hostp := rfl
@[simp] theorem State.setCommon_tdm (n : Nat) (f : Common → Common) : (s.setCommon n f).tdm = s.tdm := rfl
@[simp] theorem State.setCommon_ports (n : Nat) (f : Common → Common) : (s.setCommon n f).ports = s.ports := rfl
@[simp] theorem State.setCommon_groups (n : Nat) (f : Common → Common) : (s.setCommon n f).groups = s.groups := rfl
@[simp] theorem State.setCommon_jtag (n : Nat) (f : Common → Common) : (s.setCommon n f).jtag = s.jtag := rfl

/-! ### setCluster -/

@[simp] theorem State.setCluster_pending (n : Nat) (f : Cluster → Cluster) : (s.setCluster n f).pending = s.pending := rfl
@[simp] theorem State.setCluster_sent (n : Nat) (f : Cluster → Cluster) : (s.setCluster n f).sent = s.sent := rfl
@[simp] theorem State.setCluster_freeCtr (n : Nat) (f : Cluster → Cluster) : (s.setCluster n f).freeCtr = s.freeCtr := rfl
@[simp] theorem State.setCluster_commons (n : Nat) (f : Cluster → Cluster) : (s.setCluster n f).commons = s.commons := rfl
@[simp] theorem State.setCluster_top (n : Nat) (f : Cluster → Cluster) : (s.setCluster n f).top = s.top := rfl
@[simp] theorem State.setCluster_fab (n : Nat) (f : Cluster → Cluster) : (s.setCluster n f).fab = s.fab := rfl
@[simp] theorem State.setCluster_csw (n : Nat) (f : Cluster → Cluster) : (s.setCluster n f).csw = s.csw := rfl
@[simp] theorem State.setCluster_clusters (n : Nat) (f : Cluster → Cluster) : (s.setCluster n f).clusters = tmod {} s.clusters n f := rfl
@[simp] theorem State.setCluster_ws (n : Nat) (f : Cluster → Cluster) : (s.setCluster n f).ws = s.ws := rfl
@[simp] theorem State.setCluster_spinQ (n : Nat) (f : Cluster → Cluster) : (s.setCluster n f).spinQ = s.spinQ := rfl
@[simp] theorem State.setCluster_dict (n : Nat) (f : Cluster → Cluster) : (s.setCluster n f).dict = s.dict := rfl
@[simp] theorem State.setCluster_mix (n : Nat) (f : Cluster → Cluster) : (s.setCluster n f).mix = s.mix := rfl
@[simp] theorem State.setCluster_dyn (n : Nat) (f : Cluster → Cluster) : (s.setCluster n f).dyn = s.dyn := rfl
@[simp] theorem State.setCluster_dp (n : Nat) (f : Cluster → Cluster) : (s.setCluster n f).dp = s.dp := rfl
@[simp] theorem State.setCluster_aln (n : Nat) (f : Cluster → Cluster) : (s.setCluster n f).aln = s.aln := rfl
@[simp] theorem State.setCluster_sil (n : Nat) (f : Cluster → Cluster) : (s.setCluster n f).sil = s.sil := rfl
@[simp] theorem State.setCluster_time (n : Nat) (f : Cluster → Cluster) : (s.setCluster n f).time = s.time := rfl
@[simp] theorem State.setCluster_refsel (n : Nat) (f : Cluster → Cluster) : (s.setCluster n f).refsel = s.refsel := rfl
@[simp] theorem State.setCluster_sec (n : Nat) (f : Cluster → Cluster) : (s.setCluster n f).sec = s.sec := rfl
@[simp] theorem State.setCluster_pair (n : Nat) (f : Cluster → Cluster) : (s.setCluster n f).pair = s.pair := rfl
@[simp] theorem State.setCluster_owl (n : Nat) (f : Cluster → Cluster) : (s.setCluster n f).owl = s.owl := rfl
@[simp] theorem State.setCluster_sramc (n : Nat) (f : Cluster → Cluster) : (s.setCluster n f).sramc = s.sramc := rfl
@[simp] theorem State.setCluster_memc (n : Nat) (f : Cluster → Cluster) : (s.setCluster n f).memc = s.memc := rfl
@[simp] theorem State.setCluster_pwr (n : Nat) (f : Cluster → Cluster) : (s.setCluster n f).pwr = s.pwr := rfl
@[simp] theorem State.setCluster_tw0 (n : Nat) (f : Cluster → Cluster) : (s.setCluster n f).tw0 = s.tw0 := rfl
@[simp] theorem State.setCluster_tw1 (n : Nat) (f : Cluster → Cluster) : (s.setCluster n f).tw1 = s.tw1 := rfl
@[simp] theorem State.setCluster_hostp (n : Nat) (f : Cluster → Cluster) : (s.setCluster n f).hostp = s.hostp := rfl
@[simp] theorem State.setCluster_tdm (n : Nat) (f : Cluster → Cluster) : (s.setCluster n f).tdm = s.tdm := rfl
@[simp] theorem State.setCluster_ports (n : Nat) (f : Cluster → Cluster) : (s.setCluster n f).ports = s.ports := rfl
@[simp] theorem State.setCluster_groups (n : Nat) (f : Cluster → Cluster) : (s.setCluster n f).groups = s.groups := rfl
@[simp] theorem State.setCluster_jtag (n : Nat) (f : Cluster → Cluster) : (s.setCluster n f).jtag = s.jtag := rfl

/-! ### setWorkSet -/

@[simp] theorem State.setWorkSet_pending (n : Nat) (f : WorkSet → WorkSet) : (s.setWorkSet n f).pending = s.pending := rfl
@[simp] theorem State.setWorkSet_sent (n : Nat) (f : WorkSet → WorkSet) : (s.setWorkSet n f).sent = s.sent := rfl
@[simp] theorem State.setWorkSet_freeCtr (n : Nat) (f : WorkSet → WorkSet) : (s.setWorkSet n f).freeCtr = s.freeCtr := rfl
@[simp] theorem State.setWorkSet_commons (n : Nat) (f : WorkSet → WorkSet) : (s.setWorkSet n f).commons = s.commons := rfl
@[simp] theorem State.setWorkSet_top (n : Nat) (f : WorkSet → WorkSet) : (s.setWorkSet n f).top = s.top := rfl
@[simp] theorem State.setWorkSet_fab (n : Nat) (f : WorkSet → WorkSet) : (s.setWorkSet n f).fab = s.fab := rfl
@[simp] theorem State.setWorkSet_csw (n : Nat) (f : WorkSet → WorkSet) : (s.setWorkSet n f).csw = s.csw := rfl
@[simp] theorem State.setWorkSet_clusters (n : Nat) (f : WorkSet → WorkSet) : (s.setWorkSet n f).clusters = s.clusters := rfl
@[simp] theorem State.setWorkSet_ws (n : Nat) (f : WorkSet → WorkSet) : (s.setWorkSet n f).ws = tmod {} s.ws n f := rfl
@[simp] theorem State.setWorkSet_spinQ (n : Nat) (f : WorkSet → WorkSet) : (s.setWorkSet n f).spinQ = s.spinQ := rfl
@[simp] theorem State.setWorkSet_dict (n : Nat) (f : WorkSet → WorkSet) : (s.setWorkSet n f).dict = s.dict := rfl
@[simp] theorem State.setWorkSet_mix (n : Nat) (f : WorkSet → WorkSet) : (s.setWorkSet n f).mix = s.mix := rfl
@[simp] theorem State.setWorkSet_dyn (n : Nat) (f : WorkSet → WorkSet) : (s.setWorkSet n f).dyn = s.dyn := rfl
@[simp] theorem State.setWorkSet_dp (n : Nat) (f : WorkSet → WorkSet) : (s.setWorkSet n f).dp = s.dp := rfl
@[simp] theorem State.setWorkSet_aln (n : Nat) (f : WorkSet → WorkSet) : (s.setWorkSet n f).aln = s.aln := rfl
@[simp] theorem State.setWorkSet_sil (n : Nat) (f : WorkSet → WorkSet) : (s.setWorkSet n f).sil = s.sil := rfl
@[simp] theorem State.setWorkSet_time (n : Nat) (f : WorkSet → WorkSet) : (s.setWorkSet n f).time = s.time := rfl
@[simp] theorem State.setWorkSet_refsel (n : Nat) (f : WorkSet → WorkSet) : (s.setWorkSet n f).refsel = s.refsel := rfl
@[simp] theorem State.setWorkSet_sec (n : Nat) (f : WorkSet → WorkSet) : (s.setWorkSet n f).sec = s.sec := rfl
@[simp] theorem State.setWorkSet_pair (n : Nat) (f : WorkSet → WorkSet) : (s.setWorkSet n f).pair = s.pair := rfl
@[simp] theorem State.setWorkSet_owl (n : Nat) (f : WorkSet → WorkSet) : (s.setWorkSet n f).owl = s.owl := rfl
@[simp] theorem State.setWorkSet_sramc (n : Nat) (f : WorkSet → WorkSet) : (s.setWorkSet n f).sramc = s.sramc := rfl
@[simp] theorem State.setWorkSet_memc (n : Nat) (f : WorkSet → WorkSet) : (s.setWorkSet n f).memc = s.memc := rfl
@[simp] theorem State.setWorkSet_pwr (n : Nat) (f : WorkSet → WorkSet) : (s.setWorkSet n f).pwr = s.pwr := rfl
@[simp] theorem State.setWorkSet_tw0 (n : Nat) (f : WorkSet → WorkSet) : (s.setWorkSet n f).tw0 = s.tw0 := rfl
@[simp] theorem State.setWorkSet_tw1 (n : Nat) (f : WorkSet → WorkSet) : (s.setWorkSet n f).tw1 = s.tw1 := rfl
@[simp] theorem State.setWorkSet_hostp (n : Nat) (f : WorkSet → WorkSet) : (s.setWorkSet n f).hostp = s.hostp := rfl
@[simp] theorem State.setWorkSet_tdm (n : Nat) (f : WorkSet → WorkSet) : (s.setWorkSet n f).tdm = s.tdm := rfl
@[simp] theorem State.setWorkSet_ports (n : Nat) (f : WorkSet → WorkSet) : (s.setWorkSet n f).ports = s.ports := rfl
@[simp] theorem State.setWorkSet_groups (n : Nat) (f : WorkSet → WorkSet) : (s.setWorkSet n f).groups = s.groups := rfl
@[simp] theorem State.setWorkSet_jtag (n : Nat) (f : WorkSet → WorkSet) : (s.setWorkSet n f).jtag = s.jtag := rfl

/-! ### setCtx -/

@[simp] theorem State.setCtx_pending (n : Nat) (f : Ctx → Ctx) : (s.setCtx n f).pending = s.pending := rfl
@[simp] theorem State.setCtx_sent (n : Nat) (f : Ctx → Ctx) : (s.setCtx n f).sent = s.sent := rfl
@[simp] theorem State.setCtx_freeCtr (n : Nat) (f : Ctx → Ctx) : (s.setCtx n f).freeCtr = s.freeCtr := rfl
@[simp] theorem State.setCtx_commons (n : Nat) (f : Ctx → Ctx) : (s.setCtx n f).commons = s.commons := rfl
@[simp] theorem State.setCtx_top (n : Nat) (f : Ctx → Ctx) : (s.setCtx n f).top = s.top := rfl
@[simp] theorem State.setCtx_fab (n : Nat) (f : Ctx → Ctx) : (s.setCtx n f).fab = s.fab := rfl
@[simp] theorem State.setCtx_csw (n : Nat) (f : Ctx → Ctx) : (s.setCtx n f).csw = { s.csw with ctx := tmod {} s.csw.ctx n f } := rfl
@[simp] theorem State.setCtx_clusters (n : Nat) (f : Ctx → Ctx) : (s.setCtx n f).clusters = s.clusters := rfl
@[simp] theorem State.setCtx_ws (n : Nat) (f : Ctx → Ctx) : (s.setCtx n f).ws = s.ws := rfl
@[simp] theorem State.setCtx_spinQ (n : Nat) (f : Ctx → Ctx) : (s.setCtx n f).spinQ = s.spinQ := rfl
@[simp] theorem State.setCtx_dict (n : Nat) (f : Ctx → Ctx) : (s.setCtx n f).dict = s.dict := rfl
@[simp] theorem State.setCtx_mix (n : Nat) (f : Ctx → Ctx) : (s.setCtx n f).mix = s.mix := rfl
@[simp] theorem State.setCtx_dyn (n : Nat) (f : Ctx → Ctx) : (s.setCtx n f).dyn = s.dyn := rfl
@[simp] theorem State.setCtx_dp (n : Nat) (f : Ctx → Ctx) : (s.setCtx n f).dp = s.dp := rfl
@[simp] theorem State.setCtx_aln (n : Nat) (f : Ctx → Ctx) : (s.setCtx n f).aln = s.aln := rfl
@[simp] theorem State.setCtx_sil (n : Nat) (f : Ctx → Ctx) : (s.setCtx n f).sil = s.sil := rfl
@[simp] theorem State.setCtx_time (n : Nat) (f : Ctx → Ctx) : (s.setCtx n f).time = s.time := rfl
@[simp] theorem State.setCtx_refsel (n : Nat) (f : Ctx → Ctx) : (s.setCtx n f).refsel = s.refsel := rfl
@[simp] theorem State.setCtx_sec (n : Nat) (f : Ctx → Ctx) : (s.setCtx n f).sec = s.sec := rfl
@[simp] theorem State.setCtx_pair (n : Nat) (f : Ctx → Ctx) : (s.setCtx n f).pair = s.pair := rfl
@[simp] theorem State.setCtx_owl (n : Nat) (f : Ctx → Ctx) : (s.setCtx n f).owl = s.owl := rfl
@[simp] theorem State.setCtx_sramc (n : Nat) (f : Ctx → Ctx) : (s.setCtx n f).sramc = s.sramc := rfl
@[simp] theorem State.setCtx_memc (n : Nat) (f : Ctx → Ctx) : (s.setCtx n f).memc = s.memc := rfl
@[simp] theorem State.setCtx_pwr (n : Nat) (f : Ctx → Ctx) : (s.setCtx n f).pwr = s.pwr := rfl
@[simp] theorem State.setCtx_tw0 (n : Nat) (f : Ctx → Ctx) : (s.setCtx n f).tw0 = s.tw0 := rfl
@[simp] theorem State.setCtx_tw1 (n : Nat) (f : Ctx → Ctx) : (s.setCtx n f).tw1 = s.tw1 := rfl
@[simp] theorem State.setCtx_hostp (n : Nat) (f : Ctx → Ctx) : (s.setCtx n f).hostp = s.hostp := rfl
@[simp] theorem State.setCtx_tdm (n : Nat) (f : Ctx → Ctx) : (s.setCtx n f).tdm = s.tdm := rfl
@[simp] theorem State.setCtx_ports (n : Nat) (f : Ctx → Ctx) : (s.setCtx n f).ports = s.ports := rfl
@[simp] theorem State.setCtx_groups (n : Nat) (f : Ctx → Ctx) : (s.setCtx n f).groups = s.groups := rfl
@[simp] theorem State.setCtx_jtag (n : Nat) (f : Ctx → Ctx) : (s.setCtx n f).jtag = s.jtag := rfl

/-! ### setPort -/

@[simp] theorem State.setPort_pending (n : Nat) (f : Port → Port) : (s.setPort n f).pending = s.pending := rfl
@[simp] theorem State.setPort_sent (n : Nat) (f : Port → Port) : (s.setPort n f).sent = s.sent := rfl
@[simp] theorem State.setPort_freeCtr (n : Nat) (f : Port → Port) : (s.setPort n f).freeCtr = s.freeCtr := rfl
@[simp] theorem State.setPort_commons (n : Nat) (f : Port → Port) : (s.setPort n f).commons = s.commons := rfl
@[simp] theorem State.setPort_top (n : Nat) (f : Port → Port) : (s.setPort n f).top = s.top := rfl
@[simp] theorem State.setPort_fab (n : Nat) (f : Port → Port) : (s.setPort n f).fab = s.fab := rfl
@[simp] theorem State.setPort_csw (n : Nat) (f : Port → Port) : (s.setPort n f).csw = s.csw := rfl
@[simp] theorem State.setPort_clusters (n : Nat) (f : Port → Port) : (s.setPort n f).clusters = s.clusters := rfl
@[simp] theorem State.setPort_ws (n : Nat) (f : Port → Port) : (s.setPort n f).ws = s.ws := rfl
@[simp] theorem State.setPort_spinQ (n : Nat) (f : Port → Port) : (s.setPort n f).spinQ = s.spinQ := rfl
@[simp] theorem State.setPort_dict (n : Nat) (f : Port → Port) : (s.setPort n f).dict = s.dict := rfl
@[simp] theorem State.setPort_mix (n : Nat) (f : Port → Port) : (s.setPort n f).mix = s.mix := rfl
@[simp] theorem State.setPort_dyn (n : Nat) (f : Port → Port) : (s.setPort n f).dyn = s.dyn := rfl
@[simp] theorem State.setPort_dp (n : Nat) (f : Port → Port) : (s.setPort n f).dp = s.dp := rfl
@[simp] theorem State.setPort_aln (n : Nat) (f : Port → Port) : (s.setPort n f).aln = s.aln := rfl
@[simp] theorem State.setPort_sil (n : Nat) (f : Port → Port) : (s.setPort n f).sil = s.sil := rfl
@[simp] theorem State.setPort_time (n : Nat) (f : Port → Port) : (s.setPort n f).time = s.time := rfl
@[simp] theorem State.setPort_refsel (n : Nat) (f : Port → Port) : (s.setPort n f).refsel = s.refsel := rfl
@[simp] theorem State.setPort_sec (n : Nat) (f : Port → Port) : (s.setPort n f).sec = s.sec := rfl
@[simp] theorem State.setPort_pair (n : Nat) (f : Port → Port) : (s.setPort n f).pair = s.pair := rfl
@[simp] theorem State.setPort_owl (n : Nat) (f : Port → Port) : (s.setPort n f).owl = s.owl := rfl
@[simp] theorem State.setPort_sramc (n : Nat) (f : Port → Port) : (s.setPort n f).sramc = s.sramc := rfl
@[simp] theorem State.setPort_memc (n : Nat) (f : Port → Port) : (s.setPort n f).memc = s.memc := rfl
@[simp] theorem State.setPort_pwr (n : Nat) (f : Port → Port) : (s.setPort n f).pwr = s.pwr := rfl
@[simp] theorem State.setPort_tw0 (n : Nat) (f : Port → Port) : (s.setPort n f).tw0 = s.tw0 := rfl
@[simp] theorem State.setPort_tw1 (n : Nat) (f : Port → Port) : (s.setPort n f).tw1 = s.tw1 := rfl
@[simp] theorem State.setPort_hostp (n : Nat) (f : Port → Port) : (s.setPort n f).hostp = s.hostp := rfl
@[simp] theorem State.setPort_tdm (n : Nat) (f : Port → Port) : (s.setPort n f).tdm = s.tdm := rfl
@[simp] theorem State.setPort_ports (n : Nat) (f : Port → Port) : (s.setPort n f).ports = tmod {} s.ports n f := rfl
@[simp] theorem State.setPort_groups (n : Nat) (f : Port → Port) : (s.setPort n f).groups = s.groups := rfl
@[simp] theorem State.setPort_jtag (n : Nat) (f : Port → Port) : (s.setPort n f).jtag = s.jtag := rfl

/-! ### setGroup -/

@[simp] theorem State.setGroup_pending (n : Nat) (f : Group → Group) : (s.setGroup n f).pending = s.pending := rfl
@[simp] theorem State.setGroup_sent (n : Nat) (f : Group → Group) : (s.setGroup n f).sent = s.sent := rfl
@[simp] theorem State.setGroup_freeCtr (n : Nat) (f : Group → Group) : (s.setGroup n f).freeCtr = s.freeCtr := rfl
@[simp] theorem State.setGroup_commons (n : Nat) (f : Group → Group) : (s.setGroup n f).commons = s.commons := rfl
@[simp] theorem State.setGroup_top (n : Nat) (f : Group → Group) : (s.setGroup n f).top = s.top := rfl
@[simp] theorem State.setGroup_fab (n : Nat) (f : Group → Group) : (s.setGroup n f).fab = s.fab := rfl
@[simp] theorem State.setGroup_csw (n : Nat) (f : Group → Group) : (s.setGroup n f).csw = s.csw := rfl
@[simp] theorem State.setGroup_clusters (n : Nat) (f : Group → Group) : (s.setGroup n f).clusters = s.clusters := rfl
@[simp] theorem State.setGroup_ws (n : Nat) (f : Group → Group) : (s.setGroup n f).ws = s.ws := rfl
@[simp] theorem State.setGroup_spinQ (n : Nat) (f : Group → Group) : (s.setGroup n f).spinQ = s.spinQ := rfl
@[simp] theorem State.setGroup_dict (n : Nat) (f : Group → Group) : (s.setGroup n f).dict = s.dict := rfl
@[simp] theorem State.setGroup_mix (n : Nat) (f : Group → Group) : (s.setGroup n f).mix = s.mix := rfl
@[simp] theorem State.setGroup_dyn (n : Nat) (f : Group → Group) : (s.setGroup n f).dyn = s.dyn := rfl
@[simp] theorem State.setGroup_dp (n : Nat) (f : Group → Group) : (s.setGroup n f).dp = s.dp := rfl
@[simp] theorem State.setGroup_aln (n : Nat) (f : Group → Group) : (s.setGroup n f).aln = s.aln := rfl
@[simp] theorem State.setGroup_sil (n : Nat) (f : Group → Group) : (s.setGroup n f).sil = s.sil := rfl
@[simp] theorem State.setGroup_time (n : Nat) (f : Group → Group) : (s.setGroup n f).time = s.time := rfl
@[simp] theorem State.setGroup_refsel (n : Nat) (f : Group → Group) : (s.setGroup n f).refsel = s.refsel := rfl
@[simp] theorem State.setGroup_sec (n : Nat) (f : Group → Group) : (s.setGroup n f).sec = s.sec := rfl
@[simp] theorem State.setGroup_pair (n : Nat) (f : Group → Group) : (s.setGroup n f).pair = s.pair := rfl
@[simp] theorem State.setGroup_owl (n : Nat) (f : Group → Group) : (s.setGroup n f).owl = s.owl := rfl
@[simp] theorem State.setGroup_sramc (n : Nat) (f : Group → Group) : (s.setGroup n f).sramc = s.sramc := rfl
@[simp] theorem State.setGroup_memc (n : Nat) (f : Group → Group) : (s.setGroup n f).memc = s.memc := rfl
@[simp] theorem State.setGroup_pwr (n : Nat) (f : Group → Group) : (s.setGroup n f).pwr = s.pwr := rfl
@[simp] theorem State.setGroup_tw0 (n : Nat) (f : Group → Group) : (s.setGroup n f).tw0 = s.tw0 := rfl
@[simp] theorem State.setGroup_tw1 (n : Nat) (f : Group → Group) : (s.setGroup n f).tw1 = s.tw1 := rfl
@[simp] theorem State.setGroup_hostp (n : Nat) (f : Group → Group) : (s.setGroup n f).hostp = s.hostp := rfl
@[simp] theorem State.setGroup_tdm (n : Nat) (f : Group → Group) : (s.setGroup n f).tdm = s.tdm := rfl
@[simp] theorem State.setGroup_ports (n : Nat) (f : Group → Group) : (s.setGroup n f).ports = s.ports := rfl
@[simp] theorem State.setGroup_groups (n : Nat) (f : Group → Group) : (s.setGroup n f).groups = tmod {} s.groups n f := rfl
@[simp] theorem State.setGroup_jtag (n : Nat) (f : Group → Group) : (s.setGroup n f).jtag = s.jtag := rfl

/-! ### setOwl -/

@[simp] theorem State.setOwl_pending (n : Nat) (f : OwlSvc → OwlSvc) : (s.setOwl n f).pending = s.pending := rfl
@[simp] theorem State.setOwl_sent (n : Nat) (f : OwlSvc → OwlSvc) : (s.setOwl n f).sent = s.sent := rfl
@[simp] theorem State.setOwl_freeCtr (n : Nat) (f : OwlSvc → OwlSvc) : (s.setOwl n f).freeCtr = s.freeCtr := rfl
@[simp] theorem State.setOwl_commons (n : Nat) (f : OwlSvc → OwlSvc) : (s.setOwl n f).commons = s.commons := rfl
@[simp] theorem State.setOwl_top (n : Nat) (f : OwlSvc → OwlSvc) : (s.setOwl n f).top = s.top := rfl
@[simp] theorem State.setOwl_fab (n : Nat) (f : OwlSvc → OwlSvc) : (s.setOwl n f).fab = s.fab := rfl
@[simp] theorem State.setOwl_csw (n : Nat) (f : OwlSvc → OwlSvc) : (s.setOwl n f).csw = s.csw := rfl
@[simp] theorem State.setOwl_clusters (n : Nat) (f : OwlSvc → OwlSvc) : (s.setOwl n f).clusters = s.clusters := rfl
@[simp] theorem State.setOwl_ws (n : Nat) (f : OwlSvc → OwlSvc) : (s.setOwl n f).ws = s.ws := rfl
@[simp] theorem State.setOwl_spinQ (n : Nat) (f : OwlSvc → OwlSvc) : (s.setOwl n f).spinQ = s.spinQ := rfl
@[simp] theorem State.setOwl_dict (n : Nat) (f : OwlSvc → OwlSvc) : (s.setOwl n f).dict = s.dict := rfl
@[simp] theorem State.setOwl_mix (n : Nat) (f : OwlSvc → OwlSvc) : (s.setOwl n f).mix = s.mix := rfl
@[simp] theorem State.setOwl_dyn (n : Nat) (f : OwlSvc → OwlSvc) : (s.setOwl n f).dyn = s.dyn := rfl
@[simp] theorem State.setOwl_dp (n : Nat) (f : OwlSvc → OwlSvc) : (s.setOwl n f).dp = s.dp := rfl
@[simp] theorem State.setOwl_aln (n : Nat) (f : OwlSvc → OwlSvc) : (s.setOwl n f).aln = s.aln := rfl
@[simp] theorem State.setOwl_sil (n : Nat) (f : OwlSvc → OwlSvc) : (s.setOwl n f).sil = s.sil := rfl
@[simp] theorem State.setOwl_time (n : Nat) (f : OwlSvc → OwlSvc) : (s.setOwl n f).time = s.time := rfl
@[simp] theorem State.setOwl_refsel (n : Nat) (f : OwlSvc → OwlSvc) : (s.setOwl n f).refsel = s.refsel := rfl
@[simp] theorem State.setOwl_sec (n : Nat) (f : OwlSvc → OwlSvc) : (s.setOwl n f).sec = s.sec := rfl
@[simp] theorem State.setOwl_pair (n : Nat) (f : OwlSvc → OwlSvc) : (s.setOwl n f).pair = s.pair := rfl
@[simp] theorem State.setOwl_owl (n : Nat) (f : OwlSvc → OwlSvc) : (s.setOwl n f).owl = tmod {} s.owl n f := rfl
@[simp] theorem State.setOwl_sramc (n : Nat) (f : OwlSvc → OwlSvc) : (s.setOwl n f).sramc = s.sramc := rfl
@[simp] theorem State.setOwl_memc (n : Nat) (f : OwlSvc → OwlSvc) : (s.setOwl n f).memc = s.memc := rfl
@[simp] theorem State.setOwl_pwr (n : Nat) (f : OwlSvc → OwlSvc) : (s.setOwl n f).pwr = s.pwr := rfl
@[simp] theorem State.setOwl_tw0 (n : Nat) (f : OwlSvc → OwlSvc) : (s.setOwl n f).tw0 = s.tw0 := rfl
@[simp] theorem State.setOwl_tw1 (n : Nat) (f : OwlSvc → OwlSvc) : (s.setOwl n f).tw1 = s.tw1 := rfl
@[simp] theorem State.setOwl_hostp (n : Nat) (f : OwlSvc → OwlSvc) : (s.setOwl n f).hostp = s.hostp := rfl
@[simp] theorem State.setOwl_tdm (n : Nat) (f : OwlSvc → OwlSvc) : (s.setOwl n f).tdm = s.tdm := rfl
@[simp] theorem State.setOwl_ports (n : Nat) (f : OwlSvc → OwlSvc) : (s.setOwl n f).ports = s.ports := rfl
@[simp] theorem State.setOwl_groups (n : Nat) (f : OwlSvc → OwlSvc) : (s.setOwl n f).groups = s.groups := rfl
@[simp] theorem State.setOwl_jtag (n : Nat) (f : OwlSvc → OwlSvc) : (s.setOwl n f).jtag = s.jtag := rfl

/-! ### setTdm -/

@[simp] theorem State.setTdm_pending (n : Nat) (f : TdmPort → TdmPort) : (s.setTdm n f).pending = s.pending := rfl
@[simp] theorem State.setTdm_sent (n : Nat) (f : TdmPort → TdmPort) : (s.setTdm n f).sent = s.sent := rfl
@[simp] theorem State.setTdm_freeCtr (n : Nat) (f : TdmPort → TdmPort) : (s.setTdm n f).freeCtr = s.freeCtr := rfl
@[simp] theorem State.setTdm_commons (n : Nat) (f : TdmPort → TdmPort) : (s.setTdm n f).commons = s.commons := rfl
@[simp] theorem State.setTdm_top (n : Nat) (f : TdmPort → TdmPort) : (s.setTdm n f).top = s.top := rfl
@[simp] theorem State.setTdm_fab (n : Nat) (f : TdmPort → TdmPort) : (s.setTdm n f).fab = s.fab := rfl
@[simp] theorem State.setTdm_csw (n : Nat) (f : TdmPort → TdmPort) : (s.setTdm n f).csw = s.csw := rfl
@[simp] theorem State.setTdm_clusters (n : Nat) (f : TdmPort → TdmPort) : (s.setTdm n f).clusters = s.clusters := rfl
@[simp] theorem State.setTdm_ws (n : Nat) (f : TdmPort → TdmPort) : (s.setTdm n f).ws = s.ws := rfl
@[simp] theorem State.setTdm_spinQ (n : Nat) (f : TdmPort → TdmPort) : (s.setTdm n f).spinQ = s.spinQ := rfl
@[simp] theorem State.setTdm_dict (n : Nat) (f : TdmPort → TdmPort) : (s.setTdm n f).dict = s.dict := rfl
@[simp] theorem State.setTdm_mix (n : Nat) (f : TdmPort → TdmPort) : (s.setTdm n f).mix = s.mix := rfl
@[simp] theorem State.setTdm_dyn (n : Nat) (f : TdmPort → TdmPort) : (s.setTdm n f).dyn = s.dyn := rfl
@[simp] theorem State.setTdm_dp (n : Nat) (f : TdmPort → TdmPort) : (s.setTdm n f).dp = s.dp := rfl
@[simp] theorem State.setTdm_aln (n : Nat) (f : TdmPort → TdmPort) : (s.setTdm n f).aln = s.aln := rfl
@[simp] theorem State.setTdm_sil (n : Nat) (f : TdmPort → TdmPort) : (s.setTdm n f).sil = s.sil := rfl
@[simp] theorem State.setTdm_time (n : Nat) (f : TdmPort → TdmPort) : (s.setTdm n f).time = s.time := rfl
@[simp] theorem State.setTdm_refsel (n : Nat) (f : TdmPort → TdmPort) : (s.setTdm n f).refsel = s.refsel := rfl
@[simp] theorem State.setTdm_sec (n : Nat) (f : TdmPort → TdmPort) : (s.setTdm n f).sec = s.sec := rfl
@[simp] theorem State.setTdm_pair (n : Nat) (f : TdmPort → TdmPort) : (s.setTdm n f).pair = s.pair := rfl
@[simp] theorem State.setTdm_owl (n : Nat) (f : TdmPort → TdmPort) : (s.setTdm n f).owl = s.owl := rfl
@[simp] theorem State.setTdm_sramc (n : Nat) (f : TdmPort → TdmPort) : (s.setTdm n f).sramc = s.sramc := rfl
@[simp] theorem State.setTdm_memc (n : Nat) (f : TdmPort → TdmPort) : (s.setTdm n f).memc = s.memc := rfl
@[simp] theorem State.setTdm_pwr (n : Nat) (f : TdmPort → TdmPort) : (s.setTdm n f).pwr = s.pwr := rfl
@[simp] theorem State.setTdm_tw0 (n : Nat) (f : TdmPort → TdmPort) : (s.setTdm n f).tw0 = s.tw0 := rfl
@[simp] theorem State.setTdm_tw1 (n : Nat) (f : TdmPort → TdmPort) : (s.setTdm n f).tw1 = s.tw1 := rfl
@[simp] theorem State.setTdm_hostp (n : Nat) (f : TdmPort → TdmPort) : (s.setTdm n f).hostp = s.hostp := rfl
@[simp] theorem State.setTdm_tdm (n : Nat) (f : TdmPort → TdmPort) : (s.setTdm n f).tdm = { s.tdm with ports := tmod {} s.tdm.ports n f } := rfl
@[simp] theorem State.setTdm_ports (n : Nat) (f : TdmPort → TdmPort) : (s.setTdm n f).ports = s.ports := rfl
@[simp] theorem State.setTdm_groups (n : Nat) (f : TdmPort → TdmPort) : (s.setTdm n f).groups = s.groups := rfl
@[simp] theorem State.setTdm_jtag (n : Nat) (f : TdmPort → TdmPort) : (s.setTdm n f).jtag = s.jtag := rfl

/-! ### setKey -/

@[simp] theorem State.setKey_pending (n : Nat) (f : KeySlot → KeySlot) : (s.setKey n f).pending = s.pending := rfl
@[simp] theorem State.setKey_sent (n : Nat) (f : KeySlot → KeySlot) : (s.setKey n f).sent = s.sent := rfl
@[simp] theorem State.setKey_freeCtr (n : Nat) (f : KeySlot → KeySlot) : (s.setKey n f).freeCtr = s.freeCtr := rfl
@[simp] theorem State.setKey_commons (n : Nat) (f : KeySlot → KeySlot) : (s.setKey n f).commons = s.commons := rfl
@[simp] theorem State.setKey_top (n : Nat) (f : KeySlot → KeySlot) : (s.setKey n f).top = s.top := rfl
@[simp] theorem State.setKey_fab (n : Nat) (f : KeySlot → KeySlot) : (s.setKey n f).fab = s.fab := rfl
@[simp] theorem State.setKey_csw (n : Nat) (f : KeySlot → KeySlot) : (s.setKey n f).csw = s.csw := rfl
@[simp] theorem State.setKey_clusters (n : Nat) (f : KeySlot → KeySlot) : (s.setKey n f).clusters = s.clusters := rfl
@[simp] theorem State.setKey_ws (n : Nat) (f : KeySlot → KeySlot) : (s.setKey n f).ws = s.ws := rfl
@[simp] theorem State.setKey_spinQ (n : Nat) (f : KeySlot → KeySlot) : (s.setKey n f).spinQ = s.spinQ := rfl
@[simp] theorem State.setKey_dict (n : Nat) (f : KeySlot → KeySlot) : (s.setKey n f).dict = s.dict := rfl
@[simp] theorem State.setKey_mix (n : Nat) (f : KeySlot → KeySlot) : (s.setKey n f).mix = s.mix := rfl
@[simp] theorem State.setKey_dyn (n : Nat) (f : KeySlot → KeySlot) : (s.setKey n f).dyn = s.dyn := rfl
@[simp] theorem State.setKey_dp (n : Nat) (f : KeySlot → KeySlot) : (s.setKey n f).dp = s.dp := rfl
@[simp] theorem State.setKey_aln (n : Nat) (f : KeySlot → KeySlot) : (s.setKey n f).aln = s.aln := rfl
@[simp] theorem State.setKey_sil (n : Nat) (f : KeySlot → KeySlot) : (s.setKey n f).sil = s.sil := rfl
@[simp] theorem State.setKey_time (n : Nat) (f : KeySlot → KeySlot) : (s.setKey n f).time = s.time := rfl
@[simp] theorem State.setKey_refsel (n : Nat) (f : KeySlot → KeySlot) : (s.setKey n f).refsel = s.refsel := rfl
@[simp] theorem State.setKey_sec (n : Nat) (f : KeySlot → KeySlot) : (s.setKey n f).sec = { s.sec with keys := tmod {} s.sec.keys n f } := rfl
@[simp] theorem State.setKey_pair (n : Nat) (f : KeySlot → KeySlot) : (s.setKey n f).pair = s.pair := rfl
@[simp] theorem State.setKey_owl (n : Nat) (f : KeySlot → KeySlot) : (s.setKey n f).owl = s.owl := rfl
@[simp] theorem State.setKey_sramc (n : Nat) (f : KeySlot → KeySlot) : (s.setKey n f).sramc = s.sramc := rfl
@[simp] theorem State.setKey_memc (n : Nat) (f : KeySlot → KeySlot) : (s.setKey n f).memc = s.memc := rfl
@[simp] theorem State.setKey_pwr (n : Nat) (f : KeySlot → KeySlot) : (s.setKey n f).pwr = s.pwr := rfl
@[simp] theorem State.setKey_tw0 (n : Nat) (f : KeySlot → KeySlot) : (s.setKey n f).tw0 = s.tw0 := rfl
@[simp] theorem State.setKey_tw1 (n : Nat) (f : KeySlot → KeySlot) : (s.setKey n f).tw1 = s.tw1 := rfl
@[simp] theorem State.setKey_hostp (n : Nat) (f : KeySlot → KeySlot) : (s.setKey n f).hostp = s.hostp := rfl
@[simp] theorem State.setKey_tdm (n : Nat) (f : KeySlot → KeySlot) : (s.setKey n f).tdm = s.tdm := rfl
@[simp] theorem State.setKey_ports (n : Nat) (f : KeySlot → KeySlot) : (s.setKey n f).ports = s.ports := rfl
@[simp] theorem State.setKey_groups (n : Nat) (f : KeySlot → KeySlot) : (s.setKey n f).groups = s.groups := rfl
@[simp] theorem State.setKey_jtag (n : Nat) (f : KeySlot → KeySlot) : (s.setKey n f).jtag = s.jtag := rfl

/-! ### setPortKey -/

@[simp] theorem State.setPortKey_pending (n : Nat) (f : KeySlot → KeySlot) : (s.setPortKey n f).pending = s.pending := rfl
@[simp] theorem State.setPortKey_sent (n : Nat) (f : KeySlot → KeySlot) : (s.setPortKey n f).sent = s.sent := rfl
@[simp] theorem State.setPortKey_freeCtr (n : Nat) (f : KeySlot → KeySlot) : (s.setPortKey n f).freeCtr = s.freeCtr := rfl
@[simp] theorem State.setPortKey_commons (n : Nat) (f : KeySlot → KeySlot) : (s.setPortKey n f).commons = s.commons := rfl
@[simp] theorem State.setPortKey_top (n : Nat) (f : KeySlot → KeySlot) : (s.setPortKey n f).top = s.top := rfl
@[simp] theorem State.setPortKey_fab (n : Nat) (f : KeySlot → KeySlot) : (s.setPortKey n f).fab = s.fab := rfl
@[simp] theorem State.setPortKey_csw (n : Nat) (f : KeySlot → KeySlot) : (s.setPortKey n f).csw = s.csw := rfl
@[simp] theorem State.setPortKey_clusters (n : Nat) (f : KeySlot → KeySlot) : (s.setPortKey n f).clusters = s.clusters := rfl
@[simp] theorem State.setPortKey_ws (n : Nat) (f : KeySlot → KeySlot) : (s.setPortKey n f).ws = s.ws := rfl
@[simp] theorem State.setPortKey_spinQ (n : Nat) (f : KeySlot → KeySlot) : (s.setPortKey n f).spinQ = s.spinQ := rfl
@[simp] theorem State.setPortKey_dict (n : Nat) (f : KeySlot → KeySlot) : (s.setPortKey n f).dict = s.dict := rfl
@[simp] theorem State.setPortKey_mix (n : Nat) (f : KeySlot → KeySlot) : (s.setPortKey n f).mix = s.mix := rfl
@[simp] theorem State.setPortKey_dyn (n : Nat) (f : KeySlot → KeySlot) : (s.setPortKey n f).dyn = s.dyn := rfl
@[simp] theorem State.setPortKey_dp (n : Nat) (f : KeySlot → KeySlot) : (s.setPortKey n f).dp = s.dp := rfl
@[simp] theorem State.setPortKey_aln (n : Nat) (f : KeySlot → KeySlot) : (s.setPortKey n f).aln = s.aln := rfl
@[simp] theorem State.setPortKey_sil (n : Nat) (f : KeySlot → KeySlot) : (s.setPortKey n f).sil = s.sil := rfl
@[simp] theorem State.setPortKey_time (n : Nat) (f : KeySlot → KeySlot) : (s.setPortKey n f).time = s.time := rfl
@[simp] theorem State.setPortKey_refsel (n : Nat) (f : KeySlot → KeySlot) : (s.setPortKey n f).refsel = s.refsel := rfl
@[simp] theorem State.setPortKey_sec (n : Nat) (f : KeySlot → KeySlot) : (s.setPortKey n f).sec = { s.sec with portKeys := tmod {} s.sec.portKeys n f } := rfl
@[simp] theorem State.setPortKey_pair (n : Nat) (f : KeySlot → KeySlot) : (s.setPortKey n f).pair = s.pair := rfl
@[simp] theorem State.setPortKey_owl (n : Nat) (f : KeySlot → KeySlot) : (s.setPortKey n f).owl = s.owl := rfl
@[simp] theorem State.setPortKey_sramc (n : Nat) (f : KeySlot → KeySlot) : (s.setPortKey n f).sramc = s.sramc := rfl
@[simp] theorem State.setPortKey_memc (n : Nat) (f : KeySlot → KeySlot) : (s.setPortKey n f).memc = s.memc := rfl
@[simp] theorem State.setPortKey_pwr (n : Nat) (f : KeySlot → KeySlot) : (s.setPortKey n f).pwr = s.pwr := rfl
@[simp] theorem State.setPortKey_tw0 (n : Nat) (f : KeySlot → KeySlot) : (s.setPortKey n f).tw0 = s.tw0 := rfl
@[simp] theorem State.setPortKey_tw1 (n : Nat) (f : KeySlot → KeySlot) : (s.setPortKey n f).tw1 = s.tw1 := rfl
@[simp] theorem State.setPortKey_hostp (n : Nat) (f : KeySlot → KeySlot) : (s.setPortKey n f).hostp = s.hostp := rfl
@[simp] theorem State.setPortKey_tdm (n : Nat) (f : KeySlot → KeySlot) : (s.setPortKey n f).tdm = s.tdm := rfl
@[simp] theorem State.setPortKey_ports (n : Nat) (f : KeySlot → KeySlot) : (s.setPortKey n f).ports = s.ports := rfl
@[simp] theorem State.setPortKey_groups (n : Nat) (f : KeySlot → KeySlot) : (s.setPortKey n f).groups = s.groups := rfl
@[simp] theorem State.setPortKey_jtag (n : Nat) (f : KeySlot → KeySlot) : (s.setPortKey n f).jtag = s.jtag := rfl

/-! ### modTop -/

@[simp] theorem State.modTop_pending (f : Top → Top) : (s.modTop f).pending = s.pending := rfl
@[simp] theorem State.modTop_sent (f : Top → Top) : (s.modTop f).sent = s.sent := rfl
@[simp] theorem State.modTop_freeCtr (f : Top → Top) : (s.modTop f).freeCtr = s.freeCtr := rfl
@[simp] theorem State.modTop_commons (f : Top → Top) : (s.modTop f).commons = s.commons := rfl
@[simp] theorem State.modTop_top (f : Top → Top) : (s.modTop f).top = f s.top := rfl
@[simp] theorem State.modTop_fab (f : Top → Top) : (s.modTop f).fab = s.fab := rfl
@[simp] theorem State.modTop_csw (f : Top → Top) : (s.modTop f).csw = s.csw := rfl
@[simp] theorem State.modTop_clusters (f : Top → Top) : (s.modTop f).clusters = s.clusters := rfl
@[simp] theorem State.modTop_ws (f : Top → Top) : (s.modTop f).ws = s.ws := rfl
@[simp] theorem State.modTop_spinQ (f : Top → Top) : (s.modTop f).spinQ = s.spinQ := rfl
@[simp] theorem State.modTop_dict (f : Top → Top) : (s.modTop f).dict = s.dict := rfl
@[simp] theorem State.modTop_mix (f : Top → Top) : (s.modTop f).mix = s.mix := rfl
@[simp] theorem State.modTop_dyn (f : Top → Top) : (s.modTop f).dyn = s.dyn := rfl
@[simp] theorem State.modTop_dp (f : Top → Top) : (s.modTop f).dp = s.dp := rfl
@[simp] theorem State.modTop_aln (f : Top → Top) : (s.modTop f).aln = s.aln := rfl
@[simp] theorem State.modTop_sil (f : Top → Top) : (s.modTop f).sil = s.sil := rfl
@[simp] theorem State.modTop_time (f : Top → Top) : (s.modTop f).time = s.time := rfl
@[simp] theorem State.modTop_refsel (f : Top → Top) : (s.modTop f).refsel = s.refsel := rfl
@[simp] theorem State.modTop_sec (f : Top → Top) : (s.modTop f).sec = s.sec := rfl
@[simp] theorem State.modTop_pair (f : Top → Top) : (s.modTop f).pair = s.pair := rfl
@[simp] theorem State.modTop_owl (f : Top → Top) : (s.modTop f).owl = s.owl := rfl
@[simp] theorem State.modTop_sramc (f : Top → Top) : (s.modTop f).sramc = s.sramc := rfl
@[simp] theorem State.modTop_memc (f : Top → Top) : (s.modTop f).memc = s.memc := rfl
@[simp] theorem State.modTop_pwr (f : Top → Top) : (s.modTop f).pwr = s.pwr := rfl
@[simp] theorem State.modTop_tw0 (f : Top → Top) : (s.modTop f).tw0 = s.tw0 := rfl
@[simp] theorem State.modTop_tw1 (f : Top → Top) : (s.modTop f).tw1 = s.tw1 := rfl
@[simp] theorem State.modTop_hostp (f : Top → Top) : (s.modTop f).hostp = s.hostp := rfl
@[simp] theorem State.modTop_tdm (f : Top → Top) : (s.modTop f).tdm = s.tdm := rfl
@[simp] theorem State.modTop_ports (f : Top → Top) : (s.modTop f).ports = s.ports := rfl
@[simp] theorem State.modTop_groups (f : Top → Top) : (s.modTop f).groups = s.groups := rfl
@[simp] theorem State.modTop_jtag (f : Top → Top) : (s.modTop f).jtag = s.jtag := rfl

/-! ### modCsw -/

@[simp] theorem State.modCsw_pending (f : Csw → Csw) : (s.modCsw f).pending = s.pending := rfl
@[simp] theorem State.modCsw_sent (f : Csw → Csw) : (s.modCsw f).sent = s.sent := rfl
@[simp] theorem State.modCsw_freeCtr (f : Csw → Csw) : (s.modCsw f).freeCtr = s.freeCtr := rfl
@[simp] theorem State.modCsw_commons (f : Csw → Csw) : (s.modCsw f).commons = s.commons := rfl
@[simp] theorem State.modCsw_top (f : Csw → Csw) : (s.modCsw f).top = s.top := rfl
@[simp] theorem State.modCsw_fab (f : Csw → Csw) : (s.modCsw f).fab = s.fab := rfl
@[simp] theorem State.modCsw_csw (f : Csw → Csw) : (s.modCsw f).csw = f s.csw := rfl
@[simp] theorem State.modCsw_clusters (f : Csw → Csw) : (s.modCsw f).clusters = s.clusters := rfl
@[simp] theorem State.modCsw_ws (f : Csw → Csw) : (s.modCsw f).ws = s.ws := rfl
@[simp] theorem State.modCsw_spinQ (f : Csw → Csw) : (s.modCsw f).spinQ = s.spinQ := rfl
@[simp] theorem State.modCsw_dict (f : Csw → Csw) : (s.modCsw f).dict = s.dict := rfl
@[simp] theorem State.modCsw_mix (f : Csw → Csw) : (s.modCsw f).mix = s.mix := rfl
@[simp] theorem State.modCsw_dyn (f : Csw → Csw) : (s.modCsw f).dyn = s.dyn := rfl
@[simp] theorem State.modCsw_dp (f : Csw → Csw) : (s.modCsw f).dp = s.dp := rfl
@[simp] theorem State.modCsw_aln (f : Csw → Csw) : (s.modCsw f).aln = s.aln := rfl
@[simp] theorem State.modCsw_sil (f : Csw → Csw) : (s.modCsw f).sil = s.sil := rfl
@[simp] theorem State.modCsw_time (f : Csw → Csw) : (s.modCsw f).time = s.time := rfl
@[simp] theorem State.modCsw_refsel (f : Csw → Csw) : (s.modCsw f).refsel = s.refsel := rfl
@[simp] theorem State.modCsw_sec (f : Csw → Csw) : (s.modCsw f).sec = s.sec := rfl
@[simp] theorem State.modCsw_pair (f : Csw → Csw) : (s.modCsw f).pair = s.pair := rfl
@[simp] theorem State.modCsw_owl (f : Csw → Csw) : (s.modCsw f).owl = s.owl := rfl
@[simp] theorem State.modCsw_sramc (f : Csw → Csw) : (s.modCsw f).sramc = s.sramc := rfl
@[simp] theorem State.modCsw_memc (f : Csw → Csw) : (s.modCsw f).memc = s.memc := rfl
@[simp] theorem State.modCsw_pwr (f : Csw → Csw) : (s.modCsw f).pwr = s.pwr := rfl
@[simp] theorem State.modCsw_tw0 (f : Csw → Csw) : (s.modCsw f).tw0 = s.tw0 := rfl
@[simp] theorem State.modCsw_tw1 (f : Csw → Csw) : (s.modCsw f).tw1 = s.tw1 := rfl
@[simp] theorem State.modCsw_hostp (f : Csw → Csw) : (s.modCsw f).hostp = s.hostp := rfl
@[simp] theorem State.modCsw_tdm (f : Csw → Csw) : (s.modCsw f).tdm = s.tdm := rfl
@[simp] theorem State.modCsw_ports (f : Csw → Csw) : (s.modCsw f).ports = s.ports := rfl
@[simp] theorem State.modCsw_groups (f : Csw → Csw) : (s.modCsw f).groups = s.groups := rfl
@[simp] theorem State.modCsw_jtag (f : Csw → Csw) : (s.modCsw f).jtag = s.jtag := rfl

/-! ### modFab -/

@[simp] theorem State.modFab_pending (f : Fab → Fab) : (s.modFab f).pending = s.pending := rfl
@[simp] theorem State.modFab_sent (f : Fab → Fab) : (s.modFab f).sent = s.sent := rfl
@[simp] theorem State.modFab_freeCtr (f : Fab → Fab) : (s.modFab f).freeCtr = s.freeCtr := rfl
@[simp] theorem State.modFab_commons (f : Fab → Fab) : (s.modFab f).commons = s.commons := rfl
@[simp] theorem State.modFab_top (f : Fab → Fab) : (s.modFab f).top = s.top := rfl
@[simp] theorem State.modFab_fab (f : Fab → Fab) : (s.modFab f).fab = f s.fab := rfl
@[simp] theorem State.modFab_csw (f : Fab → Fab) : (s.modFab f).csw = s.csw := rfl
@[simp] theorem State.modFab_clusters (f : Fab → Fab) : (s.modFab f).clusters = s.clusters := rfl
@[simp] theorem State.modFab_ws (f : Fab → Fab) : (s.modFab f).ws = s.ws := rfl
@[simp] theorem State.modFab_spinQ (f : Fab → Fab) : (s.modFab f).spinQ = s.spinQ := rfl
@[simp] theorem State.modFab_dict (f : Fab → Fab) : (s.modFab f).dict = s.dict := rfl
@[simp] theorem State.modFab_mix (f : Fab → Fab) : (s.modFab f).mix = s.mix := rfl
@[simp] theorem State.modFab_dyn (f : Fab → Fab) : (s.modFab f).dyn = s.dyn := rfl
@[simp] theorem State.modFab_dp (f : Fab → Fab) : (s.modFab f).dp = s.dp := rfl
@[simp] theorem State.modFab_aln (f : Fab → Fab) : (s.modFab f).aln = s.aln := rfl
@[simp] theorem State.modFab_sil (f : Fab → Fab) : (s.modFab f).sil = s.sil := rfl
@[simp] theorem State.modFab_time (f : Fab → Fab) : (s.modFab f).time = s.time := rfl
@[simp] theorem State.modFab_refsel (f : Fab → Fab) : (s.modFab f).refsel = s.refsel := rfl
@[simp] theorem State.modFab_sec (f : Fab → Fab) : (s.modFab f).sec = s.sec := rfl
@[simp] theorem State.modFab_pair (f : Fab → Fab) : (s.modFab f).pair = s.pair := rfl
@[simp] theorem State.modFab_owl (f : Fab → Fab) : (s.modFab f).owl = s.owl := rfl
@[simp] theorem State.modFab_sramc (f : Fab → Fab) : (s.modFab f).sramc = s.sramc := rfl
@[simp] theorem State.modFab_memc (f : Fab → Fab) : (s.modFab f).memc = s.memc := rfl
@[simp] theorem State.modFab_pwr (f : Fab → Fab) : (s.modFab f).pwr = s.pwr := rfl
@[simp] theorem State.modFab_tw0 (f : Fab → Fab) : (s.modFab f).tw0 = s.tw0 := rfl
@[simp] theorem State.modFab_tw1 (f : Fab → Fab) : (s.modFab f).tw1 = s.tw1 := rfl
@[simp] theorem State.modFab_hostp (f : Fab → Fab) : (s.modFab f).hostp = s.hostp := rfl
@[simp] theorem State.modFab_tdm (f : Fab → Fab) : (s.modFab f).tdm = s.tdm := rfl
@[simp] theorem State.modFab_ports (f : Fab → Fab) : (s.modFab f).ports = s.ports := rfl
@[simp] theorem State.modFab_groups (f : Fab → Fab) : (s.modFab f).groups = s.groups := rfl
@[simp] theorem State.modFab_jtag (f : Fab → Fab) : (s.modFab f).jtag = s.jtag := rfl

/-! ### modDict -/

@[simp] theorem State.modDict_pending (f : Dict → Dict) : (s.modDict f).pending = s.pending := rfl
@[simp] theorem State.modDict_sent (f : Dict → Dict) : (s.modDict f).sent = s.sent := rfl
@[simp] theorem State.modDict_freeCtr (f : Dict → Dict) : (s.modDict f).freeCtr = s.freeCtr := rfl
@[simp] theorem State.modDict_commons (f : Dict → Dict) : (s.modDict f).commons = s.commons := rfl
@[simp] theorem State.modDict_top (f : Dict → Dict) : (s.modDict f).top = s.top := rfl
@[simp] theorem State.modDict_fab (f : Dict → Dict) : (s.modDict f).fab = s.fab := rfl
@[simp] theorem State.modDict_csw (f : Dict → Dict) : (s.modDict f).csw = s.csw := rfl
@[simp] theorem State.modDict_clusters (f : Dict → Dict) : (s.modDict f).clusters = s.clusters := rfl
@[simp] theorem State.modDict_ws (f : Dict → Dict) : (s.modDict f).ws = s.ws := rfl
@[simp] theorem State.modDict_spinQ (f : Dict → Dict) : (s.modDict f).spinQ = s.spinQ := rfl
@[simp] theorem State.modDict_dict (f : Dict → Dict) : (s.modDict f).dict = f s.dict := rfl
@[simp] theorem State.modDict_mix (f : Dict → Dict) : (s.modDict f).mix = s.mix := rfl
@[simp] theorem State.modDict_dyn (f : Dict → Dict) : (s.modDict f).dyn = s.dyn := rfl
@[simp] theorem State.modDict_dp (f : Dict → Dict) : (s.modDict f).dp = s.dp := rfl
@[simp] theorem State.modDict_aln (f : Dict → Dict) : (s.modDict f).aln = s.aln := rfl
@[simp] theorem State.modDict_sil (f : Dict → Dict) : (s.modDict f).sil = s.sil := rfl
@[simp] theorem State.modDict_time (f : Dict → Dict) : (s.modDict f).time = s.time := rfl
@[simp] theorem State.modDict_refsel (f : Dict → Dict) : (s.modDict f).refsel = s.refsel := rfl
@[simp] theorem State.modDict_sec (f : Dict → Dict) : (s.modDict f).sec = s.sec := rfl
@[simp] theorem State.modDict_pair (f : Dict → Dict) : (s.modDict f).pair = s.pair := rfl
@[simp] theorem State.modDict_owl (f : Dict → Dict) : (s.modDict f).owl = s.owl := rfl
@[simp] theorem State.modDict_sramc (f : Dict → Dict) : (s.modDict f).sramc = s.sramc := rfl
@[simp] theorem State.modDict_memc (f : Dict → Dict) : (s.modDict f).memc = s.memc := rfl
@[simp] theorem State.modDict_pwr (f : Dict → Dict) : (s.modDict f).pwr = s.pwr := rfl
@[simp] theorem State.modDict_tw0 (f : Dict → Dict) : (s.modDict f).tw0 = s.tw0 := rfl
@[simp] theorem State.modDict_tw1 (f : Dict → Dict) : (s.modDict f).tw1 = s.tw1 := rfl
@[simp] theorem State.modDict_hostp (f : Dict → Dict) : (s.modDict f).hostp = s.hostp := rfl
@[simp] theorem State.modDict_tdm (f : Dict → Dict) : (s.modDict f).tdm = s.tdm := rfl
@[simp] theorem State.modDict_ports (f : Dict → Dict) : (s.modDict f).ports = s.ports := rfl
@[simp] theorem State.modDict_groups (f : Dict → Dict) : (s.modDict f).groups = s.groups := rfl
@[simp] theorem State.modDict_jtag (f : Dict → Dict) : (s.modDict f).jtag = s.jtag := rfl

/-! ### modHostp -/

@[simp] theorem State.modHostp_pending (f : Hostp → Hostp) : (s.modHostp f).pending = s.pending := rfl
@[simp] theorem State.modHostp_sent (f : Hostp → Hostp) : (s.modHostp f).sent = s.sent := rfl
@[simp] theorem State.modHostp_freeCtr (f : Hostp → Hostp) : (s.modHostp f).freeCtr = s.freeCtr := rfl
@[simp] theorem State.modHostp_commons (f : Hostp → Hostp) : (s.modHostp f).commons = s.commons := rfl
@[simp] theorem State.modHostp_top (f : Hostp → Hostp) : (s.modHostp f).top = s.top := rfl
@[simp] theorem State.modHostp_fab (f : Hostp → Hostp) : (s.modHostp f).fab = s.fab := rfl
@[simp] theorem State.modHostp_csw (f : Hostp → Hostp) : (s.modHostp f).csw = s.csw := rfl
@[simp] theorem State.modHostp_clusters (f : Hostp → Hostp) : (s.modHostp f).clusters = s.clusters := rfl
@[simp] theorem State.modHostp_ws (f : Hostp → Hostp) : (s.modHostp f).ws = s.ws := rfl
@[simp] theorem State.modHostp_spinQ (f : Hostp → Hostp) : (s.modHostp f).spinQ = s.spinQ := rfl
@[simp] theorem State.modHostp_dict (f : Hostp → Hostp) : (s.modHostp f).dict = s.dict := rfl
@[simp] theorem State.modHostp_mix (f : Hostp → Hostp) : (s.modHostp f).mix = s.mix := rfl
@[simp] theorem State.modHostp_dyn (f : Hostp → Hostp) : (s.modHostp f).dyn = s.dyn := rfl
@[simp] theorem State.modHostp_dp (f : Hostp → Hostp) : (s.modHostp f).dp = s.dp := rfl
@[simp] theorem State.modHostp_aln (f : Hostp → Hostp) : (s.modHostp f).aln = s.aln := rfl
@[simp] theorem State.modHostp_sil (f : Hostp → Hostp) : (s.modHostp f).sil = s.sil := rfl
@[simp] theorem State.modHostp_time (f : Hostp → Hostp) : (s.modHostp f).time = s.time := rfl
@[simp] theorem State.modHostp_refsel (f : Hostp → Hostp) : (s.modHostp f).refsel = s.refsel := rfl
@[simp] theorem State.modHostp_sec (f : Hostp → Hostp) : (s.modHostp f).sec = s.sec := rfl
@[simp] theorem State.modHostp_pair (f : Hostp → Hostp) : (s.modHostp f).pair = s.pair := rfl
@[simp] theorem State.modHostp_owl (f : Hostp → Hostp) : (s.modHostp f).owl = s.owl := rfl
@[simp] theorem State.modHostp_sramc (f : Hostp → Hostp) : (s.modHostp f).sramc = s.sramc := rfl
@[simp] theorem State.modHostp_memc (f : Hostp → Hostp) : (s.modHostp f).memc = s.memc := rfl
@[simp] theorem State.modHostp_pwr (f : Hostp → Hostp) : (s.modHostp f).pwr = s.pwr := rfl
@[simp] theorem State.modHostp_tw0 (f : Hostp → Hostp) : (s.modHostp f).tw0 = s.tw0 := rfl
@[simp] theorem State.modHostp_tw1 (f : Hostp → Hostp) : (s.modHostp f).tw1 = s.tw1 := rfl
@[simp] theorem State.modHostp_hostp (f : Hostp → Hostp) : (s.modHostp f).hostp = f s.hostp := rfl
@[simp] theorem State.modHostp_tdm (f : Hostp → Hostp) : (s.modHostp f).tdm = s.tdm := rfl
@[simp] theorem State.modHostp_ports (f : Hostp → Hostp) : (s.modHostp f).ports = s.ports := rfl
@[simp] theorem State.modHostp_groups (f : Hostp → Hostp) : (s.modHostp f).groups = s.groups := rfl
@[simp] theorem State.modHostp_jtag (f : Hostp → Hostp) : (s.modHostp f).jtag = s.jtag := rfl

/-! ### modSramc -/

@[simp] theorem State.modSramc_pending (f : Sramc → Sramc) : (s.modSramc f).pending = s.pending := rfl
@[simp] theorem State.modSramc_sent (f : Sramc → Sramc) : (s.modSramc f).sent = s.sent := rfl
@[simp] theorem State.modSramc_freeCtr (f : Sramc → Sramc) : (s.modSramc f).freeCtr = s.freeCtr := rfl
@[simp] theorem State.modSramc_commons (f : Sramc → Sramc) : (s.modSramc f).commons = s.commons := rfl
@[simp] theorem State.modSramc_top (f : Sramc → Sramc) : (s.modSramc f).top = s.top := rfl
@[simp] theorem State.modSramc_fab (f : Sramc → Sramc) : (s.modSramc f).fab = s.fab := rfl
@[simp] theorem State.modSramc_csw (f : Sramc → Sramc) : (s.modSramc f).csw = s.csw := rfl
@[simp] theorem State.modSramc_clusters (f : Sramc → Sramc) : (s.modSramc f).clusters = s.clusters := rfl
@[simp] theorem State.modSramc_ws (f : Sramc → Sramc) : (s.modSramc f).ws = s.ws := rfl
@[simp] theorem State.modSramc_spinQ (f : Sramc → Sramc) : (s.modSramc f).spinQ = s.spinQ := rfl
@[simp] theorem State.modSramc_dict (f : Sramc → Sramc) : (s.modSramc f).dict = s.dict := rfl
@[simp] theorem State.modSramc_mix (f : Sramc → Sramc) : (s.modSramc f).mix = s.mix := rfl
@[simp] theorem State.modSramc_dyn (f : Sramc → Sramc) : (s.modSramc f).dyn = s.dyn := rfl
@[simp] theorem State.modSramc_dp (f : Sramc → Sramc) : (s.modSramc f).dp = s.dp := rfl
@[simp] theorem State.modSramc_aln (f : Sramc → Sramc) : (s.modSramc f).aln = s.aln := rfl
@[simp] theorem State.modSramc_sil (f : Sramc → Sramc) : (s.modSramc f).sil = s.sil := rfl
@[simp] theorem State.modSramc_time (f : Sramc → Sramc) : (s.modSramc f).time = s.time := rfl
@[simp] theorem State.modSramc_refsel (f : Sramc → Sramc) : (s.modSramc f).refsel = s.refsel := rfl
@[simp] theorem State.modSramc_sec (f : Sramc → Sramc) : (s.modSramc f).sec = s.sec := rfl
@[simp] theorem State.modSramc_pair (f : Sramc → Sramc) : (s.modSramc f).pair = s.pair := rfl
@[simp] theorem State.modSramc_owl (f : Sramc → Sramc) : (s.modSramc f).owl = s.owl := rfl
@[simp] theorem State.modSramc_sramc (f : Sramc → Sramc) : (s.modSramc f).sramc = f s.sramc := rfl
@[simp] theorem State.modSramc_memc (f : Sramc → Sramc) : (s.modSramc f).memc = s.memc := rfl
@[simp] theorem State.modSramc_pwr (f : Sramc → Sramc) : (s.modSramc f).pwr = s.pwr := rfl
@[simp] theorem State.modSramc_tw0 (f : Sramc → Sramc) : (s.modSramc f).tw0 = s.tw0 := rfl
@[simp] theorem State.modSramc_tw1 (f : Sramc → Sramc) : (s.modSramc f).tw1 = s.tw1 := rfl
@[simp] theorem State.modSramc_hostp (f : Sramc → Sramc) : (s.modSramc f).hostp = s.hostp := rfl
@[simp] theorem State.modSramc_tdm (f : Sramc → Sramc) : (s.modSramc f).tdm = s.tdm := rfl
@[simp] theorem State.modSramc_ports (f : Sramc → Sramc) : (s.modSramc f).ports = s.ports := rfl
@[simp] theorem State.modSramc_groups (f : Sramc → Sramc) : (s.modSramc f).groups = s.groups := rfl
@[simp] theorem State.modSramc_jtag (f : Sramc → Sramc) : (s.modSramc f).jtag = s.jtag := rfl

/-! ### modMemc -/

@[simp] theorem State.modMemc_pending (f : Memc → Memc) : (s.modMemc f).pending = s.pending := rfl
@[simp] theorem State.modMemc_sent (f : Memc → Memc) : (s.modMemc f).sent = s.sent := rfl
@[simp] theorem State.modMemc_freeCtr (f : Memc → Memc) : (s.modMemc f).freeCtr = s.freeCtr := rfl
@[simp] theorem State.modMemc_commons (f : Memc → Memc) : (s.modMemc f).commons = s.commons := rfl
@[simp] theorem State.modMemc_top (f : Memc → Memc) : (s.modMemc f).top = s.top := rfl
@[simp] theorem State.modMemc_fab (f : Memc → Memc) : (s.modMemc f).fab = s.fab := rfl
@[simp] theorem State.modMemc_csw (f : Memc → Memc) : (s.modMemc f).csw = s.csw := rfl
@[simp] theorem State.modMemc_clusters (f : Memc → Memc) : (s.modMemc f).clusters = s.clusters := rfl
@[simp] theorem State.modMemc_ws (f : Memc → Memc) : (s.modMemc f).ws = s.ws := rfl
@[simp] theorem State.modMemc_spinQ (f : Memc → Memc) : (s.modMemc f).spinQ = s.spinQ := rfl
@[simp] theorem State.modMemc_dict (f : Memc → Memc) : (s.modMemc f).dict = s.dict := rfl
@[simp] theorem State.modMemc_mix (f : Memc → Memc) : (s.modMemc f).mix = s.mix := rfl
@[simp] theorem State.modMemc_dyn (f : Memc → Memc) : (s.modMemc f).dyn = s.dyn := rfl
@[simp] theorem State.modMemc_dp (f : Memc → Memc) : (s.modMemc f).dp = s.dp := rfl
@[simp] theorem State.modMemc_aln (f : Memc → Memc) : (s.modMemc f).aln = s.aln := rfl
@[simp] theorem State.modMemc_sil (f : Memc → Memc) : (s.modMemc f).sil = s.sil := rfl
@[simp] theorem State.modMemc_time (f : Memc → Memc) : (s.modMemc f).time = s.time := rfl
@[simp] theorem State.modMemc_refsel (f : Memc → Memc) : (s.modMemc f).refsel = s.refsel := rfl
@[simp] theorem State.modMemc_sec (f : Memc → Memc) : (s.modMemc f).sec = s.sec := rfl
@[simp] theorem State.modMemc_pair (f : Memc → Memc) : (s.modMemc f).pair = s.pair := rfl
@[simp] theorem State.modMemc_owl (f : Memc → Memc) : (s.modMemc f).owl = s.owl := rfl
@[simp] theorem State.modMemc_sramc (f : Memc → Memc) : (s.modMemc f).sramc = s.sramc := rfl
@[simp] theorem State.modMemc_memc (f : Memc → Memc) : (s.modMemc f).memc = f s.memc := rfl
@[simp] theorem State.modMemc_pwr (f : Memc → Memc) : (s.modMemc f).pwr = s.pwr := rfl
@[simp] theorem State.modMemc_tw0 (f : Memc → Memc) : (s.modMemc f).tw0 = s.tw0 := rfl
@[simp] theorem State.modMemc_tw1 (f : Memc → Memc) : (s.modMemc f).tw1 = s.tw1 := rfl
@[simp] theorem State.modMemc_hostp (f : Memc → Memc) : (s.modMemc f).hostp = s.hostp := rfl
@[simp] theorem State.modMemc_tdm (f : Memc → Memc) : (s.modMemc f).tdm = s.tdm := rfl
@[simp] theorem State.modMemc_ports (f : Memc → Memc) : (s.modMemc f).ports = s.ports := rfl
@[simp] theorem State.modMemc_groups (f : Memc → Memc) : (s.modMemc f).groups = s.groups := rfl
@[simp] theorem State.modMemc_jtag (f : Memc → Memc) : (s.modMemc f).jtag = s.jtag := rfl

/-! ### modPair -/

@[simp] theorem State.modPair_pending (f : Pair → Pair) : (s.modPair f).pending = s.pending := rfl
@[simp] theorem State.modPair_sent (f : Pair → Pair) : (s.modPair f).sent = s.sent := rfl
@[simp] theorem State.modPair_freeCtr (f : Pair → Pair) : (s.modPair f).freeCtr = s.freeCtr := rfl
@[simp] theorem State.modPair_commons (f : Pair → Pair) : (s.modPair f).commons = s.commons := rfl
@[simp] theorem State.modPair_top (f : Pair → Pair) : (s.modPair f).top = s.top := rfl
@[simp] theorem State.modPair_fab (f : Pair → Pair) : (s.modPair f).fab = s.fab := rfl
@[simp] theorem State.modPair_csw (f : Pair → Pair) : (s.modPair f).csw = s.csw := rfl
@[simp] theorem State.modPair_clusters (f : Pair → Pair) : (s.modPair f).clusters = s.clusters := rfl
@[simp] theorem State.modPair_ws (f : Pair → Pair) : (s.modPair f).ws = s.ws := rfl
@[simp] theorem State.modPair_spinQ (f : Pair → Pair) : (s.modPair f).spinQ = s.spinQ := rfl
@[simp] theorem State.modPair_dict (f : Pair → Pair) : (s.modPair f).dict = s.dict := rfl
@[simp] theorem State.modPair_mix (f : Pair → Pair) : (s.modPair f).mix = s.mix := rfl
@[simp] theorem State.modPair_dyn (f : Pair → Pair) : (s.modPair f).dyn = s.dyn := rfl
@[simp] theorem State.modPair_dp (f : Pair → Pair) : (s.modPair f).dp = s.dp := rfl
@[simp] theorem State.modPair_aln (f : Pair → Pair) : (s.modPair f).aln = s.aln := rfl
@[simp] theorem State.modPair_sil (f : Pair → Pair) : (s.modPair f).sil = s.sil := rfl
@[simp] theorem State.modPair_time (f : Pair → Pair) : (s.modPair f).time = s.time := rfl
@[simp] theorem State.modPair_refsel (f : Pair → Pair) : (s.modPair f).refsel = s.refsel := rfl
@[simp] theorem State.modPair_sec (f : Pair → Pair) : (s.modPair f).sec = s.sec := rfl
@[simp] theorem State.modPair_pair (f : Pair → Pair) : (s.modPair f).pair = f s.pair := rfl
@[simp] theorem State.modPair_owl (f : Pair → Pair) : (s.modPair f).owl = s.owl := rfl
@[simp] theorem State.modPair_sramc (f : Pair → Pair) : (s.modPair f).sramc = s.sramc := rfl
@[simp] theorem State.modPair_memc (f : Pair → Pair) : (s.modPair f).memc = s.memc := rfl
@[simp] theorem State.modPair_pwr (f : Pair → Pair) : (s.modPair f).pwr = s.pwr := rfl
@[simp] theorem State.modPair_tw0 (f : Pair → Pair) : (s.modPair f).tw0 = s.tw0 := rfl
@[simp] theorem State.modPair_tw1 (f : Pair → Pair) : (s.modPair f).tw1 = s.tw1 := rfl
@[simp] theorem State.modPair_hostp (f : Pair → Pair) : (s.modPair f).hostp = s.hostp := rfl
@[simp] theorem State.modPair_tdm (f : Pair → Pair) : (s.modPair f).tdm = s.tdm := rfl
@[simp] theorem State.modPair_ports (f : Pair → Pair) : (s.modPair f).ports = s.ports := rfl
@[simp] theorem State.modPair_groups (f : Pair → Pair) : (s.modPair f).groups = s.groups := rfl
@[simp] theorem State.modPair_jtag (f : Pair → Pair) : (s.modPair f).jtag = s.jtag := rfl

/-! ### modPwr -/

@[simp] theorem State.modPwr_pending (f : Pwr → Pwr) : (s.modPwr f).pending = s.pending := rfl
@[simp] theorem State.modPwr_sent (f : Pwr → Pwr) : (s.modPwr f).sent = s.sent := rfl
@[simp] theorem State.modPwr_freeCtr (f : Pwr → Pwr) : (s.modPwr f).freeCtr = s.freeCtr := rfl
@[simp] theorem State.modPwr_commons (f : Pwr → Pwr) : (s.modPwr f).commons = s.commons := rfl
@[simp] theorem State.modPwr_top (f : Pwr → Pwr) : (s.modPwr f).top = s.top := rfl
@[simp] theorem State.modPwr_fab (f : Pwr → Pwr) : (s.modPwr f).fab = s.fab := rfl
@[simp] theorem State.modPwr_csw (f : Pwr → Pwr) : (s.modPwr f).csw = s.csw := rfl
@[simp] theorem State.modPwr_clusters (f : Pwr → Pwr) : (s.modPwr f).clusters = s.clusters := rfl
@[simp] theorem State.modPwr_ws (f : Pwr → Pwr) : (s.modPwr f).ws = s.ws := rfl
@[simp] theorem State.modPwr_spinQ (f : Pwr → Pwr) : (s.modPwr f).spinQ = s.spinQ := rfl
@[simp] theorem State.modPwr_dict (f : Pwr → Pwr) : (s.modPwr f).dict = s.dict := rfl
@[simp] theorem State.modPwr_mix (f : Pwr → Pwr) : (s.modPwr f).mix = s.mix := rfl
@[simp] theorem State.modPwr_dyn (f : Pwr → Pwr) : (s.modPwr f).dyn = s.dyn := rfl
@[simp] theorem State.modPwr_dp (f : Pwr → Pwr) : (s.modPwr f).dp = s.dp := rfl
@[simp] theorem State.modPwr_aln (f : Pwr → Pwr) : (s.modPwr f).aln = s.aln := rfl
@[simp] theorem State.modPwr_sil (f : Pwr → Pwr) : (s.modPwr f).sil = s.sil := rfl
@[simp] theorem State.modPwr_time (f : Pwr → Pwr) : (s.modPwr f).time = s.time := rfl
@[simp] theorem State.modPwr_refsel (f : Pwr → Pwr) : (s.modPwr f).refsel = s.refsel := rfl
@[simp] theorem State.modPwr_sec (f : Pwr → Pwr) : (s.modPwr f).sec = s.sec := rfl
@[simp] theorem State.modPwr_pair (f : Pwr → Pwr) : (s.modPwr f).pair = s.pair := rfl
@[simp] theorem State.modPwr_owl (f : Pwr → Pwr) : (s.modPwr f).owl = s.owl := rfl
@[simp] theorem State.modPwr_sramc (f : Pwr → Pwr) : (s.modPwr f).sramc = s.sramc := rfl
@[simp] theorem State.modPwr_memc (f : Pwr → Pwr) : (s.modPwr f).memc = s.memc := rfl
@[simp] theorem State.modPwr_pwr (f : Pwr → Pwr) : (s.modPwr f).pwr = f s.pwr := rfl
@[simp] theorem State.modPwr_tw0 (f : Pwr → Pwr) : (s.modPwr f).tw0 = s.tw0 := rfl
@[simp] theorem State.modPwr_tw1 (f : Pwr → Pwr) : (s.modPwr f).tw1 = s.tw1 := rfl
@[simp] theorem State.modPwr_hostp (f : Pwr → Pwr) : (s.modPwr f).hostp = s.hostp := rfl
@[simp] theorem State.modPwr_tdm (f : Pwr → Pwr) : (s.modPwr f).tdm = s.tdm := rfl
@[simp] theorem State.modPwr_ports (f : Pwr → Pwr) : (s.modPwr f).ports = s.ports := rfl
@[simp] theorem State.modPwr_groups (f : Pwr → Pwr) : (s.modPwr f).groups = s.groups := rfl
@[simp] theorem State.modPwr_jtag (f : Pwr → Pwr) : (s.modPwr f).jtag = s.jtag := rfl

/-! ### modSec -/

@[simp] theorem State.modSec_pending (f : Sec → Sec) : (s.modSec f).pending = s.pending := rfl
@[simp] theorem State.modSec_sent (f : Sec → Sec) : (s.modSec f).sent = s.sent := rfl
@[simp] theorem State.modSec_freeCtr (f : Sec → Sec) : (s.modSec f).freeCtr = s.freeCtr := rfl
@[simp] theorem State.modSec_commons (f : Sec → Sec) : (s.modSec f).commons = s.commons := rfl
@[simp] theorem State.modSec_top (f : Sec → Sec) : (s.modSec f).top = s.top := rfl
@[simp] theorem State.modSec_fab (f : Sec → Sec) : (s.modSec f).fab = s.fab := rfl
@[simp] theorem State.modSec_csw (f : Sec → Sec) : (s.modSec f).csw = s.csw := rfl
@[simp] theorem State.modSec_clusters (f : Sec → Sec) : (s.modSec f).clusters = s.clusters := rfl
@[simp] theorem State.modSec_ws (f : Sec → Sec) : (s.modSec f).ws = s.ws := rfl
@[simp] theorem State.modSec_spinQ (f : Sec → Sec) : (s.modSec f).spinQ = s.spinQ := rfl
@[simp] theorem State.modSec_dict (f : Sec → Sec) : (s.modSec f).dict = s.dict := rfl
@[simp] theorem State.modSec_mix (f : Sec → Sec) : (s.modSec f).mix = s.mix := rfl
@[simp] theorem State.modSec_dyn (f : Sec → Sec) : (s.modSec f).dyn = s.dyn := rfl
@[simp] theorem State.modSec_dp (f : Sec → Sec) : (s.modSec f).dp = s.dp := rfl
@[simp] theorem State.modSec_aln (f : Sec → Sec) : (s.modSec f).aln = s.aln := rfl
@[simp] theorem State.modSec_sil (f : Sec → Sec) : (s.modSec f).sil = s.sil := rfl
@[simp] theorem State.modSec_time (f : Sec → Sec) : (s.modSec f).time = s.time := rfl
@[simp] theorem State.modSec_refsel (f : Sec → Sec) : (s.modSec f).refsel = s.refsel := rfl
@[simp] theorem State.modSec_sec (f : Sec → Sec) : (s.modSec f).sec = f s.sec := rfl
@[simp] theorem State.modSec_pair (f : Sec → Sec) : (s.modSec f).pair = s.pair := rfl
@[simp] theorem State.modSec_owl (f : Sec → Sec) : (s.modSec f).owl = s.owl := rfl
@[simp] theorem State.modSec_sramc (f : Sec → Sec) : (s.modSec f).sramc = s.sramc := rfl
@[simp] theorem State.modSec_memc (f : Sec → Sec) : (s.modSec f).memc = s.memc := rfl
@[simp] theorem State.modSec_pwr (f : Sec → Sec) : (s.modSec f).pwr = s.pwr := rfl
@[simp] theorem State.modSec_tw0 (f : Sec → Sec) : (s.modSec f).tw0 = s.tw0 := rfl
@[simp] theorem State.modSec_tw1 (f : Sec → Sec) : (s.modSec f).tw1 = s.tw1 := rfl
@[simp] theorem State.modSec_hostp (f : Sec → Sec) : (s.modSec f).hostp = s.hostp := rfl
@[simp] theorem State.modSec_tdm (f : Sec → Sec) : (s.modSec f).tdm = s.tdm := rfl
@[simp] theorem State.modSec_ports (f : Sec → Sec) : (s.modSec f).ports = s.ports := rfl
@[simp] theorem State.modSec_groups (f : Sec → Sec) : (s.modSec f).groups = s.groups := rfl
@[simp] theorem State.modSec_jtag (f : Sec → Sec) : (s.modSec f).jtag = s.jtag := rfl

/-! ### modTime -/

@[simp] theorem State.modTime_pending (f : Time → Time) : (s.modTime f).pending = s.pending := rfl
@[simp] theorem State.modTime_sent (f : Time → Time) : (s.modTime f).sent = s.sent := rfl
@[simp] theorem State.modTime_freeCtr (f : Time → Time) : (s.modTime f).freeCtr = s.freeCtr := rfl
@[simp] theorem State.modTime_commons (f : Time → Time) : (s.modTime f).commons = s.commons := rfl
@[simp] theorem State.modTime_top (f : Time → Time) : (s.modTime f).top = s.top := rfl
@[simp] theorem State.modTime_fab (f : Time → Time) : (s.modTime f).fab = s.fab := rfl
@[simp] theorem State.modTime_csw (f : Time → Time) : (s.modTime f).csw = s.csw := rfl
@[simp] theorem State.modTime_clusters (f : Time → Time) : (s.modTime f).clusters = s.clusters := rfl
@[simp] theorem State.modTime_ws (f : Time → Time) : (s.modTime f).ws = s.ws := rfl
@[simp] theorem State.modTime_spinQ (f : Time → Time) : (s.modTime f).spinQ = s.spinQ := rfl
@[simp] theorem State.modTime_dict (f : Time → Time) : (s.modTime f).dict = s.dict := rfl
@[simp] theorem State.modTime_mix (f : Time → Time) : (s.modTime f).mix = s.mix := rfl
@[simp] theorem State.modTime_dyn (f : Time → Time) : (s.modTime f).dyn = s.dyn := rfl
@[simp] theorem State.modTime_dp (f : Time → Time) : (s.modTime f).dp = s.dp := rfl
@[simp] theorem State.modTime_aln (f : Time → Time) : (s.modTime f).aln = s.aln := rfl
@[simp] theorem State.modTime_sil (f : Time → Time) : (s.modTime f).sil = s.sil := rfl
@[simp] theorem State.modTime_time (f : Time → Time) : (s.modTime f).time = f s.time := rfl
@[simp] theorem State.modTime_refsel (f : Time → Time) : (s.modTime f).refsel = s.refsel := rfl
@[simp] theorem State.modTime_sec (f : Time → Time) : (s.modTime f).sec = s.sec := rfl
@[simp] theorem State.modTime_pair (f : Time → Time) : (s.modTime f).pair = s.pair := rfl
@[simp] theorem State.modTime_owl (f : Time → Time) : (s.modTime f).owl = s.owl := rfl
@[simp] theorem State.modTime_sramc (f : Time → Time) : (s.modTime f).sramc = s.sramc := rfl
@[simp] theorem State.modTime_memc (f : Time → Time) : (s.modTime f).memc = s.memc := rfl
@[simp] theorem State.modTime_pwr (f : Time → Time) : (s.modTime f).pwr = s.pwr := rfl
@[simp] theorem State.modTime_tw0 (f : Time → Time) : (s.modTime f).tw0 = s.tw0 := rfl
@[simp] theorem State.modTime_tw1 (f : Time → Time) : (s.modTime f).tw1 = s.tw1 := rfl
@[simp] theorem State.modTime_hostp (f : Time → Time) : (s.modTime f).hostp = s.hostp := rfl
@[simp] theorem State.modTime_tdm (f : Time → Time) : (s.modTime f).tdm = s.tdm := rfl
@[simp] theorem State.modTime_ports (f : Time → Time) : (s.modTime f).ports = s.ports := rfl
@[simp] theorem State.modTime_groups (f : Time → Time) : (s.modTime f).groups = s.groups := rfl
@[simp] theorem State.modTime_jtag (f : Time → Time) : (s.modTime f).jtag = s.jtag := rfl

/-! ### modRef -/

@[simp] theorem State.modRef_pending (f : Refsel → Refsel) : (s.modRef f).pending = s.pending := rfl
@[simp] theorem State.modRef_sent (f : Refsel → Refsel) : (s.modRef f).sent = s.sent := rfl
@[simp] theorem State.modRef_freeCtr (f : Refsel → Refsel) : (s.modRef f).freeCtr = s.freeCtr := rfl
@[simp] theorem State.modRef_commons (f : Refsel → Refsel) : (s.modRef f).commons = s.commons := rfl
@[simp] theorem State.modRef_top (f : Refsel → Refsel) : (s.modRef f).top = s.top := rfl
@[simp] theorem State.modRef_fab (f : Refsel → Refsel) : (s.modRef f).fab = s.fab := rfl
@[simp] theorem State.modRef_csw (f : Refsel → Refsel) : (s.modRef f).csw = s.csw := rfl
@[simp] theorem State.modRef_clusters (f : Refsel → Refsel) : (s.modRef f).clusters = s.clusters := rfl
@[simp] theorem State.modRef_ws (f : Refsel → Refsel) : (s.modRef f).ws = s.ws := rfl
@[simp] theorem State.modRef_spinQ (f : Refsel → Refsel) : (s.modRef f).spinQ = s.spinQ := rfl
@[simp] theorem State.modRef_dict (f : Refsel → Refsel) : (s.modRef f).dict = s.dict := rfl
@[simp] theorem State.modRef_mix (f : Refsel → Refsel) : (s.modRef f).mix = s.mix := rfl
@[simp] theorem State.modRef_dyn (f : Refsel → Refsel) : (s.modRef f).dyn = s.dyn := rfl
@[simp] theorem State.modRef_dp (f : Refsel → Refsel) : (s.modRef f).dp = s.dp := rfl
@[simp] theorem State.modRef_aln (f : Refsel → Refsel) : (s.modRef f).aln = s.aln := rfl
@[simp] theorem State.modRef_sil (f : Refsel → Refsel) : (s.modRef f).sil = s.sil := rfl
@[simp] theorem State.modRef_time (f : Refsel → Refsel) : (s.modRef f).time = s.time := rfl
@[simp] theorem State.modRef_refsel (f : Refsel → Refsel) : (s.modRef f).refsel = f s.refsel := rfl
@[simp] theorem State.modRef_sec (f : Refsel → Refsel) : (s.modRef f).sec = s.sec := rfl
@[simp] theorem State.modRef_pair (f : Refsel → Refsel) : (s.modRef f).pair = s.pair := rfl
@[simp] theorem State.modRef_owl (f : Refsel → Refsel) : (s.modRef f).owl = s.owl := rfl
@[simp] theorem State.modRef_sramc (f : Refsel → Refsel) : (s.modRef f).sramc = s.sramc := rfl
@[simp] theorem State.modRef_memc (f : Refsel → Refsel) : (s.modRef f).memc = s.memc := rfl
@[simp] theorem State.modRef_pwr (f : Refsel → Refsel) : (s.modRef f).pwr = s.pwr := rfl
@[simp] theorem State.modRef_tw0 (f : Refsel → Refsel) : (s.modRef f).tw0 = s.tw0 := rfl
@[simp] theorem State.modRef_tw1 (f : Refsel → Refsel) : (s.modRef f).tw1 = s.tw1 := rfl
@[simp] theorem State.modRef_hostp (f : Refsel → Refsel) : (s.modRef f).hostp = s.hostp := rfl
@[simp] theorem State.modRef_tdm (f : Refsel → Refsel) : (s.modRef f).tdm = s.tdm := rfl
@[simp] theorem State.modRef_ports (f : Refsel → Refsel) : (s.modRef f).ports = s.ports := rfl
@[simp] theorem State.modRef_groups (f : Refsel → Refsel) : (s.modRef f).groups = s.groups := rfl
@[simp] theorem State.modRef_jtag (f : Refsel → Refsel) : (s.modRef f).jtag = s.jtag := rfl

/-! ### modTw1 -/

@[simp] theorem State.modTw1_pending (f : Tw1 → Tw1) : (s.modTw1 f).pending = s.pending := rfl
@[simp] theorem State.modTw1_sent (f : Tw1 → Tw1) : (s.modTw1 f).sent = s.sent := rfl
@[simp] theorem State.modTw1_freeCtr (f : Tw1 → Tw1) : (s.modTw1 f).freeCtr = s.freeCtr := rfl
@[simp] theorem State.modTw1_commons (f : Tw1 → Tw1) : (s.modTw1 f).commons = s.commons := rfl
@[simp] theorem State.modTw1_top (f : Tw1 → Tw1) : (s.modTw1 f).top = s.top := rfl
@[simp] theorem State.modTw1_fab (f : Tw1 → Tw1) : (s.modTw1 f).fab = s.fab := rfl
@[simp] theorem State.modTw1_csw (f : Tw1 → Tw1) : (s.modTw1 f).csw = s.csw := rfl
@[simp] theorem State.modTw1_clusters (f : Tw1 → Tw1) : (s.modTw1 f).clusters = s.clusters := rfl
@[simp] theorem State.modTw1_ws (f : Tw1 → Tw1) : (s.modTw1 f).ws = s.ws := rfl
@[simp] theorem State.modTw1_spinQ (f : Tw1 → Tw1) : (s.modTw1 f).spinQ = s.spinQ := rfl
@[simp] theorem State.modTw1_dict (f : Tw1 → Tw1) : (s.modTw1 f).dict = s.dict := rfl
@[simp] theorem State.modTw1_mix (f : Tw1 → Tw1) : (s.modTw1 f).mix = s.mix := rfl
@[simp] theorem State.modTw1_dyn (f : Tw1 → Tw1) : (s.modTw1 f).dyn = s.dyn := rfl
@[simp] theorem State.modTw1_dp (f : Tw1 → Tw1) : (s.modTw1 f).dp = s.dp := rfl
@[simp] theorem State.modTw1_aln (f : Tw1 → Tw1) : (s.modTw1 f).aln = s.aln := rfl
@[simp] theorem State.modTw1_sil (f : Tw1 → Tw1) : (s.modTw1 f).sil = s.sil := rfl
@[simp] theorem State.modTw1_time (f : Tw1 → Tw1) : (s.modTw1 f).time = s.time := rfl
@[simp] theorem State.modTw1_refsel (f : Tw1 → Tw1) : (s.modTw1 f).refsel = s.refsel := rfl
@[simp] theorem State.modTw1_sec (f : Tw1 → Tw1) : (s.modTw1 f).sec = s.sec := rfl
@[simp] theorem State.modTw1_pair (f : Tw1 → Tw1) : (s.modTw1 f).pair = s.pair := rfl
@[simp] theorem State.modTw1_owl (f : Tw1 → Tw1) : (s.modTw1 f).owl = s.owl := rfl
@[simp] theorem State.modTw1_sramc (f : Tw1 → Tw1) : (s.modTw1 f).sramc = s.sramc := rfl
@[simp] theorem State.modTw1_memc (f : Tw1 → Tw1) : (s.modTw1 f).memc = s.memc := rfl
@[simp] theorem State.modTw1_pwr (f : Tw1 → Tw1) : (s.modTw1 f).pwr = s.pwr := rfl
@[simp] theorem State.modTw1_tw0 (f : Tw1 → Tw1) : (s.modTw1 f).tw0 = s.tw0 := rfl
@[simp] theorem State.modTw1_tw1 (f : Tw1 → Tw1) : (s.modTw1 f).tw1 = f s.tw1 := rfl
@[simp] theorem State.modTw1_hostp (f : Tw1 → Tw1) : (s.modTw1 f).hostp = s.hostp := rfl
@[simp] theorem State.modTw1_tdm (f : Tw1 → Tw1) : (s.modTw1 f).tdm = s.tdm := rfl
@[simp] theorem State.modTw1_ports (f : Tw1 → Tw1) : (s.modTw1 f).ports = s.ports := rfl
@[simp] theorem State.modTw1_groups (f : Tw1 → Tw1) : (s.modTw1 f).groups = s.groups := rfl
@[simp] theorem State.modTw1_jtag (f : Tw1 → Tw1) : (s.modTw1 f).jtag = s.jtag := rfl

/-! ### emit -/

@[simp] theorem State.emit_pending (e : Emission) : (s.emit e).pending = s.pending := rfl
@[simp] theorem State.emit_sent (e : Emission) : (s.emit e).sent = s.sent ++ [e] := rfl
@[simp] theorem State.emit_freeCtr (e : Emission) : (s.emit e).freeCtr = s.freeCtr := rfl
@[simp] theorem State.emit_commons (e : Emission) : (s.emit e).commons = s.commons := rfl
@[simp] theorem State.emit_top (e : Emission) : (s.emit e).top = s.top := rfl
@[simp] theorem State.emit_fab (e : Emission) : (s.emit e).fab = s.fab := rfl
@[simp] theorem State.emit_csw (e : Emission) : (s.emit e).csw = s.csw := rfl
@[simp] theorem State.emit_clusters (e : Emission) : (s.emit e).clusters = s.clusters := rfl
@[simp] theorem State.emit_ws (e : Emission) : (s.emit e).ws = s.ws := rfl
@[simp] theorem State.emit_spinQ (e : Emission) : (s.emit e).spinQ = s.spinQ := rfl
@[simp] theorem State.emit_dict (e : Emission) : (s.emit e).dict = s.dict := rfl
@[simp] theorem State.emit_mix (e : Emission) : (s.emit e).mix = s.mix := rfl
@[simp] theorem State.emit_dyn (e : Emission) : (s.emit e).dyn = s.dyn := rfl
@[simp] theorem State.emit_dp (e : Emission) : (s.emit e).dp = s.dp := rfl
@[simp] theorem State.emit_aln (e : Emission) : (s.emit e).aln = s.aln := rfl
@[simp] theorem State.emit_sil (e : Emission) : (s.emit e).sil = s.sil := rfl
@[simp] theorem State.emit_time (e : Emission) : (s.emit e).time = s.time := rfl
@[simp] theorem State.emit_refsel (e : Emission) : (s.emit e).refsel = s.refsel := rfl
@[simp] theorem State.emit_sec (e : Emission) : (s.emit e).sec = s.sec := rfl
@[simp] theorem State.emit_pair (e : Emission) : (s.emit e).pair = s.pair := rfl
@[simp] theorem State.emit_owl (e : Emission) : (s.emit e).owl = s.owl := rfl
@[simp] theorem State.emit_sramc (e : Emission) : (s.emit e).sramc = s.sramc := rfl
@[simp] theorem State.emit_memc (e : Emission) : (s.emit e).memc = s.memc := rfl
@[simp] theorem State.emit_pwr (e : Emission) : (s.emit e).pwr = s.pwr := rfl
@[simp] theorem State.emit_tw0 (e : Emission) : (s.emit e).tw0 = s.tw0 := rfl
@[simp] theorem State.emit_tw1 (e : Emission) : (s.emit e).tw1 = s.tw1 := rfl
@[simp] theorem State.emit_hostp (e : Emission) : (s.emit e).hostp = s.hostp := rfl
@[simp] theorem State.emit_tdm (e : Emission) : (s.emit e).tdm = s.tdm := rfl
@[simp] theorem State.emit_ports (e : Emission) : (s.emit e).ports = s.ports := rfl
@[simp] theorem State.emit_groups (e : Emission) : (s.emit e).groups = s.groups := rfl
@[simp] theorem State.emit_jtag (e : Emission) : (s.emit e).jtag = s.jtag := rfl

/-! ### quiet -/

@[simp] theorem State.quiet_pending : (s.quiet).pending = s.pending := rfl
@[simp] theorem State.quiet_sent : (s.quiet).sent = [] := rfl
@[simp] theorem State.quiet_freeCtr : (s.quiet).freeCtr = s.freeCtr := rfl
@[simp] theorem State.quiet_commons : (s.quiet).commons = s.commons := rfl
@[simp] theorem State.quiet_top : (s.quiet).top = s.top := rfl
@[simp] theorem State.quiet_fab : (s.quiet).fab = s.fab := rfl
@[simp] theorem State.quiet_csw : (s.quiet).csw = s.csw := rfl
@[simp] theorem State.quiet_clusters : (s.quiet).clusters = s.clusters := rfl
@[simp] theorem State.quiet_ws : (s.quiet).ws = s.ws := rfl
@[simp] theorem State.quiet_spinQ : (s.quiet).spinQ = s.spinQ := rfl
@[simp] theorem State.quiet_dict : (s.quiet).dict = s.dict := rfl
@[simp] theorem State.quiet_mix : (s.quiet).mix = s.mix := rfl
@[simp] theorem State.quiet_dyn : (s.quiet).dyn = s.dyn := rfl
@[simp] theorem State.quiet_dp : (s.quiet).dp = s.dp := rfl
@[simp] theorem State.quiet_aln : (s.quiet).aln = s.aln := rfl
@[simp] theorem State.quiet_sil : (s.quiet).sil = s.sil := rfl
@[simp] theorem State.quiet_time : (s.quiet).time = s.time := rfl
@[simp] theorem State.quiet_refsel : (s.quiet).refsel = s.refsel := rfl
@[simp] theorem State.quiet_sec : (s.quiet).sec = s.sec := rfl
@[simp] theorem State.quiet_pair : (s.quiet).pair = s.pair := rfl
@[simp] theorem State.quiet_owl : (s.quiet).owl = s.owl := rfl
@[simp] theorem State.quiet_sramc : (s.quiet).sramc = s.sramc := rfl
@[simp] theorem State.quiet_memc : (s.quiet).memc = s.memc := rfl
@[simp] theorem State.quiet_pwr : (s.quiet).pwr = s.pwr := rfl
@[simp] theorem State.quiet_tw0 : (s.quiet).tw0 = s.tw0 := rfl
@[simp] theorem State.quiet_tw1 : (s.quiet).tw1 = s.tw1 := rfl
@[simp] theorem State.quiet_hostp : (s.quiet).hostp = s.hostp := rfl
@[simp] theorem State.quiet_tdm : (s.quiet).tdm = s.tdm := rfl
@[simp] theorem State.quiet_ports : (s.quiet).ports = s.ports := rfl
@[simp] theorem State.quiet_groups : (s.quiet).groups = s.groups := rfl
@[simp] theorem State.quiet_jtag : (s.quiet).jtag = s.jtag := rfl

/-! ### fresh -/

@[simp] theorem State.fresh_pending : (s.fresh).pending = s.pending := rfl
@[simp] theorem State.fresh_sent : (s.fresh).sent = s.sent := rfl
@[simp] theorem State.fresh_freeCtr : (s.fresh).freeCtr = s.freeCtr + 1 := rfl
@[simp] theorem State.fresh_commons : (s.fresh).commons = s.commons := rfl
@[simp] theorem State.fresh_top : (s.fresh).top = s.top := rfl
@[simp] theorem State.fresh_fab : (s.fresh).fab = s.fab := rfl
@[simp] theorem State.fresh_csw : (s.fresh).csw = s.csw := rfl
@[simp] theorem State.fresh_clusters : (s.fresh).clusters = s.clusters := rfl
@[simp] theorem State.fresh_ws : (s.fresh).ws = s.ws := rfl
@[simp] theorem State.fresh_spinQ : (s.fresh).spinQ = s.spinQ := rfl
@[simp] theorem State.fresh_dict : (s.fresh).dict = s.dict := rfl
@[simp] theorem State.fresh_mix : (s.fresh).mix = s.mix := rfl
@[simp] theorem State.fresh_dyn : (s.fresh).dyn = s.dyn := rfl
@[simp] theorem State.fresh_dp : (s.fresh).dp = s.dp := rfl
@[simp] theorem State.fresh_aln : (s.fresh).aln = s.aln := rfl
@[simp] theorem State.fresh_sil : (s.fresh).sil = s.sil := rfl
@[simp] theorem State.fresh_time : (s.fresh).time = s.time := rfl
@[simp] theorem State.fresh_refsel : (s.fresh).refsel = s.refsel := rfl
@[simp] theorem State.fresh_sec : (s.fresh).sec = s.sec := rfl
@[simp] theorem State.fresh_pair : (s.fresh).pair = s.pair := rfl
@[simp] theorem State.fresh_owl : (s.fresh).owl = s.owl := rfl
@[simp] theorem State.fresh_sramc : (s.fresh).sramc = s.sramc := rfl
@[simp] theorem State.fresh_memc : (s.fresh).memc = s.memc := rfl
@[simp] theorem State.fresh_pwr : (s.fresh).pwr = s.pwr := rfl
@[simp] theorem State.fresh_tw0 : (s.fresh).tw0 = s.tw0 := rfl
@[simp] theorem State.fresh_tw1 : (s.fresh).tw1 = s.tw1 := rfl
@[simp] theorem State.fresh_hostp : (s.fresh).hostp = s.hostp := rfl
@[simp] theorem State.fresh_tdm : (s.fresh).tdm = s.tdm := rfl
@[simp] theorem State.fresh_ports : (s.fresh).ports = s.ports := rfl
@[simp] theorem State.fresh_groups : (s.fresh).groups = s.groups := rfl
@[simp] theorem State.fresh_jtag : (s.fresh).jtag = s.jtag := rfl

/-! ### Reading an entry back -/

@[simp] theorem State.common_setCommon_same (n : Nat) (f : Common → Common) : (s.setCommon n f).common n = f (s.common n) :=
  tget_tmod_same _ _ _ _

theorem State.common_setCommon_other (n m : Nat) (f : Common → Common) (h : m ≠ n) : (s.setCommon n f).common m = s.common m :=
  tget_tmod_other _ _ _ _ _ h

@[simp] theorem State.cluster_setCluster_same (n : Nat) (f : Cluster → Cluster) : (s.setCluster n f).cluster n = f (s.cluster n) :=
  tget_tmod_same _ _ _ _

theorem State.cluster_setCluster_other (n m : Nat) (f : Cluster → Cluster) (h : m ≠ n) : (s.setCluster n f).cluster m = s.cluster m :=
  tget_tmod_other _ _ _ _ _ h

@[simp] theorem State.workSet_setWorkSet_same (n : Nat) (f : WorkSet → WorkSet) : (s.setWorkSet n f).workSet n = f (s.workSet n) :=
  tget_tmod_same _ _ _ _

theorem State.workSet_setWorkSet_other (n m : Nat) (f : WorkSet → WorkSet) (h : m ≠ n) : (s.setWorkSet n f).workSet m = s.workSet m :=
  tget_tmod_other _ _ _ _ _ h

@[simp] theorem State.port_setPort_same (n : Nat) (f : Port → Port) : (s.setPort n f).port n = f (s.port n) :=
  tget_tmod_same _ _ _ _

theorem State.port_setPort_other (n m : Nat) (f : Port → Port) (h : m ≠ n) : (s.setPort n f).port m = s.port m :=
  tget_tmod_other _ _ _ _ _ h

@[simp] theorem State.group_setGroup_same (n : Nat) (f : Group → Group) : (s.setGroup n f).group n = f (s.group n) :=
  tget_tmod_same _ _ _ _

theorem State.group_setGroup_other (n m : Nat) (f : Group → Group) (h : m ≠ n) : (s.setGroup n f).group m = s.group m :=
  tget_tmod_other _ _ _ _ _ h

@[simp] theorem State.ctx_setCtx_same (n : Nat) (f : Ctx → Ctx) : (s.setCtx n f).ctx n = f (s.ctx n) :=
  tget_tmod_same _ _ _ _

theorem State.ctx_setCtx_other (n m : Nat) (f : Ctx → Ctx) (h : m ≠ n) : (s.setCtx n f).ctx m = s.ctx m :=
  tget_tmod_other _ _ _ _ _ h

end Sys2Proof.Machine
end

