-- ==== Sys2Proof/Laws/Keeps.lean ====
section
/-! SUPPORT. What every command respects (Safety.lean): the relation is a preorder, and the updates of sub-states respect it. -/

namespace Sys2Proof.Machine

theorem Sec.Kept.refl (a : Sec) : a.Kept a := ⟨rfl, rfl, rfl, le_refl _, fun _ h => h, fun _ h => h⟩

theorem Sec.Kept.trans {a b c : Sec} (h : a.Kept b) (k : b.Kept c) : a.Kept c :=
  ⟨k.idk.trans h.idk, k.cert.trans h.cert, k.mac.trans h.mac, h.secMin.trans k.secMin, fun n x => k.fuses n (h.fuses n x),
    fun n x => k.used n (h.used n x)⟩

/-- A change of SEC that touches none of the one-time-programmable fields. -/
theorem Sec.Kept.same {a b : Sec} (h1 : b.idkPub = a.idkPub) (h2 : b.devCert = a.devCert) (h3 : b.baseMac = a.baseMac)
    (h4 : b.secMin = a.secMin) (h5 : b.fuses = a.fuses) (h6 : b.used = a.used) : a.Kept b :=
  ⟨h1, h2, h3, h4.ge, fun _ h => h5 ▸ h, fun _ h => h6 ▸ h⟩

theorem Keeps.refl (s : State) : Keeps s s := ⟨fun h => h, rfl, .refl _⟩

theorem Keeps.trans {s t u : State} (h : Keeps s t) (k : Keeps t u) : Keeps s u :=
  ⟨fun x => k.inv (h.inv x), k.queue.trans h.queue, h.otp.trans k.otp⟩

/-- A change of the state outside what `Keeps` speaks of. -/
theorem Keeps.same {s x t : State} (h : Keeps s x) (h1 : t.fab.ctrlSram = x.fab.ctrlSram) (h2 : t.fab.hall = x.fab.hall)
    (h3 : t.memc.dram = x.memc.dram) (h4 : t.tw1.req = x.tw1.req) (h5 : t.clusters = x.clusters) (h6 : t.pending = x.pending)
    (h7 : t.sec = x.sec) : Keeps s t :=
  h.trans ⟨fun i => by unfold State.Inv at *; rw [h1, h2, h3, h4, h5]; exact i, h6, by rw [h7]; exact .refl _⟩

/-- A state written out with some other fields, none of them part of what `Keeps` speaks of. -/
theorem Keeps.lit {s x : State} {sent : List Emission} {freeCtr : Nat} {commons : Tab Common} {top : Top} {fab : Fab} {csw : Csw} {ws : Tab WorkSet} {spinQ : Option (Nat × Bool)} {dict : Dict} {mix : Mix} {dyn : Dyn} {dp : Dp} {aln : Aln} {sil : Sil} {time : Time} {refsel : Refsel} {pair : Pair} {owl : Tab OwlSvc} {sramc : Sramc} {memc : Memc} {pwr : Pwr} {tw0 : Tw0} {tw1 : Tw1} {hostp : Hostp} {tdm : Tdm} {ports : Tab Port} {groups : Tab Group} {jtag : Jtag}
    (h : Keeps s x) (h1 : fab.ctrlSram = x.fab.ctrlSram) (h2 : fab.hall = x.fab.hall) (h3 : memc.dram = x.memc.dram)
    (h4 : tw1.req = x.tw1.req) :
    Keeps s ⟨x.pending, sent, freeCtr, commons, top, fab, csw, x.clusters, ws, spinQ, dict, mix, dyn, dp, aln, sil, time, refsel, x.sec, pair, owl, sramc, memc, pwr, tw0, tw1, hostp, tdm, ports, groups, jtag⟩ := h.same h1 h2 h3 h4 rfl rfl rfl

theorem Keeps.ite {s a b : State} {c : Prop} [Decidable c] (ha : Keeps s a) (hb : Keeps s b) : Keeps s (if c then a else b) := by
  split <;> assumption

theorem Keeps.ite1 {α : Type} {s : State} {a b : State × α} {c : Prop} [Decidable c] (ha : Keeps s a.1) (hb : Keeps s b.1) :
    Keeps s (if c then a else b).1 := by split <;> assumption

/-- What `Keeps` says of an outcome: the command ran, and it kept what every command respects. -/
def KeepsO (s : State) (o : Out) : Prop := ∃ t, o = .next t ∧ Keeps s t

theorem KeepsO.next {s t : State} (h : Keeps s t) : KeepsO s (.next t) := ⟨t, rfl, h⟩

theorem KeepsO.ite {s : State} {a b : Out} {c : Prop} [Decidable c] (ha : KeepsO s a) (hb : KeepsO s b) :
    KeepsO s (if c then a else b) := by split <;> assumption

/-! ### Updates of sub-states -/

section
variable {s x : State} (h : Keeps s x)
include h

theorem Keeps.setCommon (n : Nat) (f : Common → Common) : Keeps s (x.setCommon n f) := h.same rfl rfl rfl rfl rfl rfl rfl
theorem Keeps.setWorkSet (n : Nat) (f : WorkSet → WorkSet) : Keeps s (x.setWorkSet n f) := h.same rfl rfl rfl rfl rfl rfl rfl
theorem Keeps.setCtx (n : Nat) (f : Ctx → Ctx) : Keeps s (x.setCtx n f) := h.same rfl rfl rfl rfl rfl rfl rfl
theorem Keeps.setPort (n : Nat) (f : Port → Port) : Keeps s (x.setPort n f) := h.same rfl rfl rfl rfl rfl rfl rfl
theorem Keeps.setGroup (n : Nat) (f : Group → Group) : Keeps s (x.setGroup n f) := h.same rfl rfl rfl rfl rfl rfl rfl
theorem Keeps.setOwl (n : Nat) (f : OwlSvc → OwlSvc) : Keeps s (x.setOwl n f) := h.same rfl rfl rfl rfl rfl rfl rfl
theorem Keeps.setTdm (n : Nat) (f : TdmPort → TdmPort) : Keeps s (x.setTdm n f) := h.same rfl rfl rfl rfl rfl rfl rfl
theorem Keeps.modTop (f : Top → Top) : Keeps s (x.modTop f) := h.same rfl rfl rfl rfl rfl rfl rfl
theorem Keeps.modCsw (f : Csw → Csw) : Keeps s (x.modCsw f) := h.same rfl rfl rfl rfl rfl rfl rfl
theorem Keeps.modDict (f : Dict → Dict) : Keeps s (x.modDict f) := h.same rfl rfl rfl rfl rfl rfl rfl
theorem Keeps.modHostp (f : Hostp → Hostp) : Keeps s (x.modHostp f) := h.same rfl rfl rfl rfl rfl rfl rfl
theorem Keeps.modSramc (f : Sramc → Sramc) : Keeps s (x.modSramc f) := h.same rfl rfl rfl rfl rfl rfl rfl
theorem Keeps.modPair (f : Pair → Pair) : Keeps s (x.modPair f) := h.same rfl rfl rfl rfl rfl rfl rfl
theorem Keeps.modPwr (f : Pwr → Pwr) : Keeps s (x.modPwr f) := h.same rfl rfl rfl rfl rfl rfl rfl
theorem Keeps.modTime (f : Time → Time) : Keeps s (x.modTime f) := h.same rfl rfl rfl rfl rfl rfl rfl
theorem Keeps.modRef (f : Refsel → Refsel) : Keeps s (x.modRef f) := h.same rfl rfl rfl rfl rfl rfl rfl
theorem Keeps.emit (e : Emission) : Keeps s (x.emit e) := h.same rfl rfl rfl rfl rfl rfl rfl
theorem Keeps.quiet : Keeps s x.quiet := h.same rfl rfl rfl rfl rfl rfl rfl
theorem Keeps.fresh : Keeps s x.fresh := h.same rfl rfl rfl rfl rfl rfl rfl

theorem Keeps.modFab (f : Fab → Fab) (h1 : ∀ a, Memory.wf a.ctrlSram = true → Memory.wf (f a).ctrlSram = true)
    (h2 : ∀ a, Memory.wf a.hall = true → Memory.wf (f a).hall = true) : Keeps s (x.modFab f) :=
  h.trans ⟨fun ⟨a, b, c⟩ => ⟨h1 _ a, h2 _ b, c⟩, rfl, .refl _⟩

theorem Keeps.modMemc (f : Memc → Memc) (h1 : ∀ a, Memory.wf a.dram = true → Memory.wf (f a).dram = true) : Keeps s (x.modMemc f) :=
  h.trans ⟨fun ⟨a, b, c, d⟩ => ⟨a, b, h1 _ c, d⟩, rfl, .refl _⟩

theorem Keeps.modTw1 (f : Tw1 → Tw1) (h1 : ∀ a, Memory.wf a.req = true → Memory.wf (f a).req = true) : Keeps s (x.modTw1 f) :=
  h.trans ⟨fun ⟨a, b, c, d, e⟩ => ⟨a, b, c, h1 _ d, e⟩, rfl, .refl _⟩

theorem Keeps.modSec (f : Sec → Sec) (h1 : ∀ a, Sec.Kept a (f a)) : Keeps s (x.modSec f) :=
  h.trans ⟨fun i => i, rfl, h1 _⟩

theorem Keeps.setKey (n : Nat) (f : KeySlot → KeySlot) : Keeps s (x.setKey n f) :=
  h.trans ⟨fun i => i, rfl, .same rfl rfl rfl rfl rfl rfl⟩

theorem Keeps.setPortKey (n : Nat) (f : KeySlot → KeySlot) : Keeps s (x.setPortKey n f) :=
  h.trans ⟨fun i => i, rfl, .same rfl rfl rfl rfl rfl rfl⟩

theorem Keeps.foldS {α : Type} (f : State → α → State) (hf : ∀ y a, Keeps s y → Keeps s (f y a)) (l : List α) :
    Keeps s (foldS f x l) := by
  induction l generalizing x with
  | nil => exact h
  | cons a t ih => exact ih (hf _ _ h)

theorem Keeps.iter (f : State → State) (hf : ∀ y, Keeps s y → Keeps s (f y)) (n : Nat) : Keeps s (iter f n x) := by
  induction n generalizing x with
  | zero => exact h
  | succ n ih => exact ih (hf _ h)

theorem Keeps.foldl {α : Type} (f : State → α → State) (hf : ∀ y a, Keeps s y → Keeps s (f y a)) (l : List α) :
    Keeps s (l.foldl f x) := by
  induction l generalizing x with
  | nil => exact h
  | cons a t ih => exact ih (hf _ _ h)

end

/-! ### Clusters -/

theorem Cluster.ok_default : ({} : Cluster).Ok :=
  ⟨rfl, rfl, rfl, rfl, fun l hl => by rw [List.eq_of_mem_replicate hl]; exact ⟨rfl, rfl⟩⟩

theorem State.Inv.cluster {s : State} (h : s.Inv) (n : Nat) : (s.cluster n).Ok := by
  rcases tget_mem_or ({} : Cluster) s.clusters n with e | ⟨e, he, hv⟩
  · unfold State.cluster; rw [e]; exact Cluster.ok_default
  · unfold State.cluster; rw [← hv]; exact h.2.2.2.2 e he

theorem Keeps.setCluster {s x : State} (h : Keeps s x) (n : Nat) (f : Cluster → Cluster) (hf : ∀ c, c.Ok → (f c).Ok) :
    Keeps s (x.setCluster n f) := by
  refine h.trans ⟨fun i => ?_, rfl, .refl _⟩
  have hc := i.cluster n
  obtain ⟨a, b, c, d, e⟩ := i
  refine ⟨a, b, c, d, fun y hy => ?_⟩
  rcases mem_tset hy with r | r
  · subst r; exact hf _ hc
  · exact e y r

theorem Keeps.mapClusters {s x : State} (h : Keeps s x) (f : Nat × Cluster → Cluster) (hf : ∀ e, e.2.Ok → (f e).Ok) :
    Keeps s { x with clusters := x.clusters.map fun e => (e.1, f e) } := by
  refine h.trans ⟨fun ⟨a, b, c, d, e⟩ => ⟨a, b, c, d, fun y hy => ?_⟩, rfl, .same rfl rfl rfl rfl rfl rfl⟩
  obtain ⟨z, hz, rfl⟩ := List.mem_map.1 hy
  exact hf z (e z hz)

/-- A change that leaves the memories of a cluster. -/
theorem Cluster.Ok.same {c d : Cluster} (h : c.Ok) (h1 : d.cmem = c.cmem) (h2 : d.imem = c.imem) (h3 : d.lanes = c.lanes)
    (h4 : d.cpar = c.cpar := by rfl) : d.Ok := by
  unfold Cluster.Ok; rw [h1, h2, h3, h4]; exact h

/-- A cluster written out with its lanes and memories as they were. -/
theorem Cluster.Ok.lit {c : Cluster} {role : Nat} {wset : Nat} {wsv : Bool} {phase : Nat} {matchCnt : Nat} {mismatches : Nat} {spinSrc : Nat} {spinForced : Bool} {forcedAt : Nat} {regSrc : Nat} {regForced : Bool} {spinStart : Bool} {spinAbandon : Bool} {spinTick : Nat} {spinRotation : Bool} {parDue : Bool} {loadDue : Bool} {cycles : Nat} {replays : Nat} {peak : Nat} {hostOvg : Word} {hostSat : Word} {hostCirc : Word} {hostAddr : Word} {stPass : Nat} {march : Nat} {stFail : Bool} {ik : Bool} {replayTicks : Tab (List Nat)} {sh : Tab Nat} {loopActive : Bool} {loopStack : List LoopFrame} {ikOuter : Nat} {ikWritten : Nat} {sharedFlight : List SharedFlight} {pc : Nat} {after : Option AfterSlots} {slots : Nat} {rpt : Nat} {stepping : Bool} {stepNo : Nat} {ended : Bool} {mask : Bool} {pend : Nat} {handler : Bool} {afterReti : Bool} {saved : Option SavedCtx} {issued : Nat} {spareSince : Nat} {condemned : Bool} {img : Image} {inFull : List Nat} {stepsRun : Nat} {stepTick : Nat} {outs : Tab (List Int)} {idle : Bool} {golden : Bool} {seen : ClusterSeen} (h : c.Ok) :
    Cluster.Ok ⟨role, wset, wsv, phase, matchCnt, mismatches, spinSrc, spinForced, forcedAt, regSrc, regForced, spinStart, spinAbandon, spinTick, spinRotation, parDue, loadDue, cycles, replays, peak, hostOvg, hostSat, hostCirc, hostAddr, stPass, march, stFail, ik, replayTicks, c.lanes, c.cmem, c.cpar, c.imem, sh, loopActive, loopStack, ikOuter, ikWritten, sharedFlight, pc, after, slots, rpt, stepping, stepNo, ended, mask, pend, handler, afterReti, saved, issued, spareSince, condemned, img, inFull, stepsRun, stepTick, outs, idle, golden, seen⟩ := h

theorem Cluster.Ok.ite {a b : Cluster} {p : Prop} [Decidable p] (ha : a.Ok) (hb : b.Ok) : (if p then a else b).Ok := by
  split <;> assumption

theorem Cluster.Ok.foldl {α : Type} {c : Cluster} (h : c.Ok) (f : Cluster → α → Cluster) (hf : ∀ d a, d.Ok → (f d a).Ok) (l : List α) :
    (l.foldl f c).Ok := by
  induction l generalizing c with
  | nil => exact h
  | cons a t ih => exact ih (hf _ _ h)

/-- A change that maps the lanes and leaves the other memories. -/
theorem Cluster.Ok.lanesTo {c d : Cluster} (h : c.Ok) (h1 : d.cmem = c.cmem) (h2 : d.imem = c.imem) (h3 : d.lanes.length = c.lanes.length)
    (h4 : (∀ l ∈ c.lanes, l.Ok) → ∀ l ∈ d.lanes, l.Ok) (h5 : d.cpar = c.cpar := by rfl) : d.Ok :=
  ⟨h1 ▸ h.1, h5 ▸ h.2.1, h2 ▸ h.2.2.1, h3.trans h.2.2.2.1, h4 h.2.2.2.2⟩

theorem mapBelow_length {α : Type} (f : Nat → α → α) (b i : Nat) (l : List α) : (mapBelow f b i l).length = l.length := by
  induction l generalizing i with
  | nil => rfl
  | cons x t ih => simp [mapBelow, ih]

theorem mapBelow_all {α : Type} (p : α → Prop) (f : Nat → α → α) (b i : Nat) {l : List α} (h : ∀ x ∈ l, p x) (hf : ∀ j x, p x → p (f j x)) :
    ∀ x ∈ mapBelow f b i l, p x := by
  induction l generalizing i with
  | nil => intro x hx; cases hx
  | cons a t ih =>
    intro x hx
    rcases List.mem_cons.1 hx with r | r
    · subst r
      split
      · exact hf _ _ (h _ (by simp))
      · exact h _ (by simp)
    · exact ih (i + 1) (fun y hy => h y (by simp [hy])) x r

theorem Cluster.Ok.onLanes {c : Cluster} (h : c.Ok) (f : Nat → Lane → Lane × Sticky)
    (hf : ∀ i (l : Lane), l.Ok → (f i l).1.Ok) : (c.onLanes f).Ok := by
  refine h.lanesTo rfl rfl (by simp [Cluster.onLanes, mapBelow_length]) fun hl l hm => ?_
  simp only [Cluster.onLanes, List.mem_map] at hm
  obtain ⟨p, hp, rfl⟩ := hm
  refine mapBelow_all (fun q : Lane × Sticky => q.1.Ok) _ _ _ ?_ ?_ p hp
  · intro q hq
    obtain ⟨y, hy, rfl⟩ := List.mem_map.1 hq
    exact hl y hy
  · intro j q hq; exact hf j q.1 hq

end Sys2Proof.Machine
end

