-- ==== Sys2Proof/Laws/ClusterKeeps.lean ====
section
/-! SUPPORT. Every operation of a cluster keeps its memories canonical and its lanes 32. -/

namespace Sys2Proof.Machine

/-! ### Lanes -/


theorem Lane.Ok.aluWrite {l : Lane} (h : l.Ok) (keep : Bool) (dd : Nat) (x : Int) : (l.aluWrite keep dd x).1.Ok := by
  unfold Lane.aluWrite; dsimp only; split <;> exact h

theorem Lane.Ok.accWrite {l : Lane} (h : l.Ok) (keep : Bool) (an : Nat) (x : Int) : (l.accWrite keep an x).1.Ok := by
  unfold Lane.accWrite; dsimp only; split <;> exact h

/-! ### Clusters -/

section
variable {c : Cluster} (h : c.Ok)
include h

theorem Cluster.Ok.abandonSpin : c.abandonSpin.Ok := by
  unfold Cluster.abandonSpin; exact .ite h (h.same rfl rfl rfl)

theorem Cluster.Ok.setShared (code v : Nat) : (c.setShared code v).Ok := h.same rfl rfl rfl

theorem Cluster.Ok.postModify (n : Nat) (m : Int) : (c.postModify n m).Ok := by
  unfold Cluster.postModify
  simp only
  split
  · refine Cluster.Ok.onLanes ?_ _ fun _ _ k => k
    split
    · exact h.setShared _ _
    · exact h
  · split
    · exact h.setShared _ _
    · exact h

theorem Cluster.Ok.afterEA (e : EA) : (c.afterEA e).Ok := by
  unfold Cluster.afterEA
  split <;> first | exact h | exact h.postModify _ _

theorem Cluster.Ok.loadInto (dd a : Nat) : (c.loadInto dd a).Ok := by
  refine h.onLanes _ fun _ l k => ?_
  dsimp only
  split <;> exact k

theorem Cluster.Ok.storeFrom (dd a : Nat) : (c.storeFrom dd a).Ok := by
  refine h.onLanes _ fun _ l k => ?_
  split
  · exact ⟨wf_memSetWord k.1 _ _, k.2⟩
  · exact k

theorem Cluster.Ok.loopWritten (code : Nat) : (c.loopWritten code).Ok := by
  unfold Cluster.loopWritten
  split
  · exact h
  · dsimp only
    split <;> exact h.same rfl rfl rfl

theorem Cluster.Ok.popLoop : c.popLoop.Ok := by
  unfold Cluster.popLoop
  split
  · exact h.same rfl rfl rfl
  · split
    · exact h.same rfl rfl rfl
    · split <;> exact h.same rfl rfl rfl

theorem Cluster.Ok.pushLoop : c.pushLoop.Ok := h.same rfl rfl rfl

theorem Cluster.Ok.landAll (l : List SharedFlight) : (landAll l c).Ok := by
  induction l generalizing c with
  | nil => exact h
  | cons e t ih => exact ih ((h.setShared _ _).loopWritten _)

theorem Cluster.Ok.restore : c.restore.Ok := by
  unfold Cluster.restore
  split
  · exact h.same rfl rfl rfl
  · rename_i v _
    have k := h.landAll c.sharedFlight
    have lanes := mapBelow_all Lane.Ok (fun i (l : Lane) => l.giveBack v ((List.range c.resD).map (31 - ·)) i) c.laneCount 0
      h.2.2.2.2 fun _ _ a => a
    dsimp only
    split
    · exact ⟨k.1, k.2.1, k.2.2.1, (mapBelow_length _ _ _ _).trans h.2.2.2.1, lanes⟩
    · exact ⟨k.1, k.2.1, k.2.2.1, (mapBelow_length _ _ _ _).trans h.2.2.2.1, lanes⟩

theorem Cluster.Ok.seqNext : c.seqNext.Ok := by
  unfold Cluster.seqNext
  split
  · split
    · exact h.same rfl rfl rfl
    · exact h.popLoop.same rfl rfl rfl
  · exact h.same rfl rfl rfl

theorem Cluster.Ok.advance : c.advance.Ok := by
  unfold Cluster.advance
  have k : ({ c.seqNext with issued := c.issued + 1, afterReti := c.afterReti && c.handler } : Cluster).Ok := h.seqNext.same rfl rfl rfl
  dsimp only
  split
  · exact k
  · split
    · exact k.same rfl rfl rfl
    · split
      · exact k.same rfl rfl rfl
      · exact k.same rfl rfl rfl
      · exact k.same rfl rfl rfl
      · exact Cluster.Ok.restore (k.same rfl rfl rfl)

theorem Cluster.Ok.landShared (l : List SharedFlight) : (landShared l c).Ok := by
  induction l generalizing c with
  | nil => exact h.same rfl rfl rfl
  | cons e t ih =>
    unfold Machine.landShared
    split
    · exact ih ((h.setShared _ _).loopWritten _)
    · exact (ih h).same rfl rfl rfl

theorem Cluster.Ok.ageAll : c.ageAll.Ok := by
  unfold Cluster.ageAll
  refine Cluster.Ok.landShared ?_ _
  refine h.lanesTo rfl rfl (by simp [mapBelow_length]) fun hl => ?_
  exact mapBelow_all (Lane.Ok) _ _ _ hl fun _ _ k => k

theorem Cluster.Ok.branchTo (a : AfterSlots) : (c.branchTo a).Ok := h.same rfl rfl rfl

theorem Cluster.Ok.aluOp (dd : Nat) (f : Nat → Lane → Int) : (aluOp dd f c).Ok :=
  h.onLanes _ fun _ _ k => k.aluWrite _ _ _

theorem Cluster.Ok.alu2 (dd da db : Nat) (f : Word → Word → Int) : (alu2 dd da db f c).Ok := h.aluOp _ _

theorem Cluster.Ok.aluI (dd da : Nat) (imm : Word) (f : Word → Word → Int) : (aluI dd da imm f c).Ok := h.aluOp _ _

theorem Cluster.Ok.alu1 (dd da : Nat) (f : Word → Int) : (alu1 dd da f c).Ok := h.aluOp _ _

theorem Cluster.Ok.putOp (dd : Nat) (late : Bool) (f : Nat → Lane → Word) : (putOp dd late f c).Ok :=
  h.onLanes _ fun _ l k => by split <;> exact k

theorem Cluster.Ok.cmpOp (f : Lane → Int × Int) : (cmpOp f c).Ok := h.onLanes _ fun _ _ k => k

theorem Cluster.Ok.searchOp (dd da db : Nat) (b : Int → Int → Bool) : (searchOp dd da db b c).Ok :=
  h.onLanes _ fun _ l k => by split; dsimp only; split <;> split <;> exact k

theorem Cluster.Ok.reduceOp (dd da : Nat) (b : Int → Int → Bool) : (reduceOp dd da b c).Ok := by
  unfold Machine.reduceOp
  dsimp only
  exact Cluster.Ok.putOp (Cluster.Ok.putOp h _ _ _) _ _ _

theorem Cluster.Ok.accOp (an : Nat) (f : Lane → Int) : (accOp an f c).Ok :=
  h.onLanes _ fun _ _ k => k.accWrite _ _ _

theorem Cluster.Ok.dualLoads (dl : DualLoads) : (dualLoads dl c).Ok := by
  unfold Machine.dualLoads
  dsimp only
  have step : ∀ (o : Option DualLoad) (x : Cluster), x.Ok →
      (match o with | some d => x.postModify d.p (signed24 (x.shared (0x30 + d.m))) | none => x).Ok := by
    intro o x k; cases o
    · exact k
    · exact k.postModify _ _
  refine step _ _ (step _ _ ?_)
  have l1 : (match dl.l1, dl.l1.map (fun d : DualLoad => c.shared (0x20 + d.p) / 4 * 4) with | some d, some a => c.loadInto d.d a | _, _ => c).Ok := by
    split
    · exact h.loadInto _ _
    · exact h
  split
  · split
    · exact Cluster.Ok.onLanes l1 _ fun _ l k => by split <;> exact k
    · exact l1.loadInto _ _
  · exact l1

theorem Cluster.Ok.savOp (dx an sh : Nat) (t : Bool) : (savOp dx an sh t c).Ok :=
  h.onLanes _ fun _ l k => by split; dsimp only; split <;> exact k

theorem Cluster.Ok.rndOp (dd : Nat) : (rndOp dd c).Ok :=
  h.onLanes _ fun _ l k => by split <;> [split; skip] <;> exact k

theorem Cluster.Ok.pendSource (n : Nat) : (c.pendSource n).Ok := h.same rfl rfl rfl

theorem Cluster.Ok.inDone (j : Nat) : (c.inDone j).Ok := by
  have k : ({ c with inFull := if c.inFull.contains j then c.inFull else j :: c.inFull } : Cluster).Ok := h.same rfl rfl rfl
  exact .ite (k.pendSource 1) k

theorem Cluster.Ok.nestLoop : c.nestLoop.Ok := by
  unfold Cluster.nestLoop
  exact .ite h (.ite (h.same rfl rfl rfl) h.pushLoop)

theorem Cluster.Ok.startLoop (n a b : Nat) : (c.startLoop n a b).Ok :=
  (((h.nestLoop.setShared 0x48 n).setShared 0x49 a).setShared 0x4A b).same rfl rfl rfl

theorem Cluster.Ok.stepOver (n m : Nat) : (c.stepOver n m).Ok := h.same rfl rfl rfl

theorem Cluster.Ok.enterHandler : c.enterHandler.Ok := by
  unfold Cluster.enterHandler
  have map : ∀ l ∈ c.lanes.map (fun l => { l with d := landD l.d l.flight, flight := [] }), l.Ok := by
    intro l hl
    obtain ⟨y, hy, rfl⟩ := List.mem_map.1 hl
    exact h.2.2.2.2 y hy
  dsimp only
  split
  · exact h.lanesTo rfl rfl (by simp) fun _ => map
  · exact h.lanesTo rfl rfl (by simp) fun _ => map

theorem Cluster.Ok.startStep (n t : Nat) : (c.startStep n t).Ok := by
  have k := mapBelow_all Lane.Ok (fun _ l => { l with d := [], a := [], fl := {}, flight := [], fhist := [] }) c.laneCount 0 h.2.2.2.2
    fun _ _ a => a
  refine h.lanesTo rfl rfl ?_ fun _ => ?_
  · show (if n = 0 then _ else _ : List Lane).length = _
    split <;> simp [mapBelow_length]
  · show ∀ l ∈ (if n = 0 then _ else _ : List Lane), _
    split
    · intro l hm
      obtain ⟨y, hy, rfl⟩ := List.mem_map.1 hm
      exact ⟨wf_filter (k y hy).1 _, (k y hy).2⟩
    · exact k

theorem Cluster.Ok.sendShared (n v : Nat) : (c.sendShared n v).Ok := by
  unfold Cluster.sendShared; exact .ite (h.same rfl rfl rfl) h

theorem Cluster.Ok.mvrOp (a b : Nat) : (mvrOp a b c).Ok := by
  unfold Machine.mvrOp
  split
  · split <;> exact h.putOp _ _ _
  · exact h.sendShared _ _

theorem Cluster.Ok.mviOp (a b : Nat) : (mviOp a b c).Ok := by
  unfold Machine.mviOp
  split
  · exact h.putOp _ _ _
  · exact h.sendShared _ _

variable {f : Cluster → Cluster} (hf : ∀ c : Cluster, c.Ok → (f c).Ok)
include hf

theorem Cluster.Ok.issue1 : (Cluster.issue1 f c).Ok := (hf _ h.ageAll).advance

theorem Cluster.Ok.repeat1 : (Cluster.repeat1 f c).Ok := (hf _ h.ageAll).same rfl rfl rfl

theorem Cluster.Ok.iterRepeat (n : Nat) : (iter (Cluster.repeat1 f) n c).Ok := by
  induction n generalizing c with
  | zero => exact h
  | succ n ih => exact ih (h.repeat1 hf)

theorem Cluster.Ok.issue : (Cluster.issue f c).Ok :=
  Cluster.Ok.issue1 (Cluster.Ok.iterRepeat (c := { c with rpt := 0 }) (h.same rfl rfl rfl) hf _) hf

theorem Cluster.Ok.issueOnce : (Cluster.issueOnce f c).Ok :=
  Cluster.Ok.issue1 (c := { c with rpt := 0 }) (h.same rfl rfl rfl) hf

end

end Sys2Proof.Machine
end

