-- ==== Sys2Proof/Laws/Cluster.lean ====
section
/-! SUPPORT. Laws of the shared operations of the clusters: lanes one by one, results in flight, the issue of an instruction. -/

namespace Sys2Proof.Machine

/-! ### Lanes of a cluster -/

theorem mapBelow_get {α : Type} (f : Nat → α → α) (b i : Nat) (l : List α) (k : Nat) :
    (mapBelow f b i l)[k]? = l[k]?.map fun x => if i + k < b then f (i + k) x else x := by
  induction l generalizing i k with
  | nil => rfl
  | cons a t ih =>
    cases k with
    | zero => rfl
    | succ k => simp only [mapBelow, List.getElem?_cons_succ, ih]; congr; funext x; rw [show i + 1 + k = i + (k + 1) by omega]

/-- What an operation over the lanes makes of an executing lane. -/
theorem onLanes_get (f : Nat → Lane → Lane × Sticky) (c : Cluster) (k : Nat) (l : Lane) (hk : k < c.laneCount) (hl : c.lanes[k]? = some l) :
    (c.onLanes f).lanes[k]? = some { (f k l).1 with st := (f k l).1.st.or (f k l).2 } := by
  simp [Cluster.onLanes, mapBelow_get, hl, hk]

@[simp] theorem onLanes_laneCount (f : Nat → Lane → Lane × Sticky) (c : Cluster) : (c.onLanes f).laneCount = c.laneCount := rfl

theorem Sticky.or_none (a : Sticky) : a.or {} = a := by simp [Sticky.or]

/-! ### Results in flight (R118) -/

theorem newest_append (p : InFlight → Bool) (r : Nat) (d : Word) (l : List InFlight) (e : InFlight) :
    newest p r d (l ++ [e]) = if e.reg = r && p e then e.val else newest p r d l := by
  induction l generalizing d with
  | nil => rfl
  | cons a t ih => exact ih _

theorem retire_append (d : Tab Word) (l : List InFlight) (e : InFlight) (he : e.age < 3) :
    retire d (l ++ [e]) = ((retire d l).1, (retire d l).2 ++ [e]) := by
  induction l generalizing d with
  | nil =>
    have : ¬ 3 ≤ e.age := by omega
    simp [retire, this]
  | cons a t ih =>
    simp only [List.cons_append, retire]
    split
    · exact ih _
    · simp [ih]

theorem tick_put (l : Lane) (r : Nat) (v : Word) (late : Bool) :
    (l.put r v late).tick = { l.tick with flight := l.tick.flight ++ [⟨r, v, late, 1⟩] } := by
  simp only [Lane.tick, Lane.put, List.map_append, List.map_cons, List.map_nil]
  rw [retire_append _ _ _ (by simp)]

/-- A result just put in flight, as later instructions see it: the next one, unless it is late, and the others as before. -/
theorem sees_put (l : Lane) (r q : Nat) (v : Word) (late : Bool) :
    (l.put r v late).sees q = if q = r ∧ late = false then v else l.sees q := by
  unfold Lane.sees Lane.operand
  rw [tick_put]
  simp only [newest_append]
  cases late <;> by_cases e : r = q
  · subst e; simp [InFlight.operandDist]
  · simp [e, Ne.symm e]
  · simp [InFlight.operandDist]
  · simp [e]

/-- A late result is seen by the second instruction after its producer. -/
theorem tick_sees_put (l : Lane) (r : Nat) (v : Word) (late : Bool) : (l.put r v late).tick.sees r = v := by
  unfold Lane.sees Lane.operand
  rw [tick_put]
  simp only [Lane.tick, List.map_append, List.map_cons, List.map_nil]
  rw [retire_append _ _ _ (by simp)]
  cases late <;> simp [newest_append, InFlight.operandDist]

/-- A change of the flags, of sticky flags, of accumulators, of LMEM or of the noise state is no change of D. -/
theorem sees_congr {a b : Lane} (hd : a.d = b.d) (hf : a.flight = b.flight) (r : Nat) : a.sees r = b.sees r := by
  unfold Lane.sees Lane.operand Lane.tick
  rw [hd, hf]

/-! ### Issue -/

@[simp] theorem setShared_lanes (c : Cluster) (n v : Nat) : (c.setShared n v).lanes = c.lanes := rfl
@[simp] theorem setShared_laneCount (c : Cluster) (n v : Nat) : (c.setShared n v).laneCount = c.laneCount := rfl

/-- What shared registers in flight leave. -/
structure Cluster.SameBut (a b : Cluster) : Prop where
  lanes : b.lanes = a.lanes
  ik : b.ik = a.ik
  img : b.img = a.img
  cmem : b.cmem = a.cmem
  imem : b.imem = a.imem
  handler : b.handler = a.handler
  after : b.after = a.after
  rpt : b.rpt = a.rpt
  pc : b.pc = a.pc
  ended : b.ended = a.ended

theorem Cluster.SameBut.refl (c : Cluster) : c.SameBut c := ⟨rfl, rfl, rfl, rfl, rfl, rfl, rfl, rfl, rfl, rfl⟩

theorem Cluster.SameBut.trans {a b c : Cluster} (h : a.SameBut b) (k : b.SameBut c) : a.SameBut c :=
  ⟨k.lanes.trans h.lanes, k.ik.trans h.ik, k.img.trans h.img, k.cmem.trans h.cmem, k.imem.trans h.imem, k.handler.trans h.handler,
    k.after.trans h.after, k.rpt.trans h.rpt, k.pc.trans h.pc, k.ended.trans h.ended⟩

theorem loopWritten_same (c : Cluster) (n : Nat) : c.SameBut (c.loopWritten n) := by
  unfold Cluster.loopWritten
  split
  · exact .refl c
  · dsimp only
    split <;> exact ⟨rfl, rfl, rfl, rfl, rfl, rfl, rfl, rfl, rfl, rfl⟩

theorem landShared_same (l : List SharedFlight) (c : Cluster) : c.SameBut (landShared l c) := by
  induction l generalizing c with
  | nil => exact ⟨rfl, rfl, rfl, rfl, rfl, rfl, rfl, rfl, rfl, rfl⟩
  | cons e t ih =>
    unfold landShared
    split
    · have h := (loopWritten_same (c.setShared e.code e.val) e.code).trans (ih _)
      exact ⟨h.lanes, h.ik, h.img, h.cmem, h.imem, h.handler, h.after, h.rpt, h.pc, h.ended⟩
    · have h := ih c
      exact ⟨h.lanes, h.ik, h.img, h.cmem, h.imem, h.handler, h.after, h.rpt, h.pc, h.ended⟩

/-- What is older when an instruction issues: results and flags of the lanes, nothing else that an instruction sees. -/
theorem ageAll_same (c : Cluster) :
    Cluster.SameBut { c with lanes := mapBelow (fun _ l => l.tick) c.laneCount 0 c.lanes } c.ageAll := by
  unfold Cluster.ageAll
  exact landShared_same _ _

/-- A pending RPT plays no part in what shared registers in flight do. -/
theorem loopWritten_rpt (c : Cluster) (n k : Nat) : Cluster.loopWritten { c with rpt := n } k = { c.loopWritten k with rpt := n } := by
  unfold Cluster.loopWritten
  by_cases h : (!c.ik || decide (k < 0x48) || decide (0x4A < k)) = true
  · rw [if_pos h, if_pos h]
  · rw [if_neg h, if_neg h]
    dsimp only
    by_cases h2 : c.ikWritten.lor (2 ^ (k - 0x48)) = 7 ∧ (!c.loopActive) = true ∧ 0 < c.ikOuter
    · rw [if_pos h2, if_pos h2]
    · rw [if_neg h2, if_neg h2]

theorem landShared_rpt (l : List SharedFlight) (c : Cluster) (n : Nat) : landShared l { c with rpt := n } = { landShared l c with rpt := n } := by
  induction l generalizing c with
  | nil => rfl
  | cons e t ih =>
    by_cases h : 4 ≤ e.age
    · rw [landShared, landShared, if_pos h, if_pos h, ← ih, ← loopWritten_rpt]
      rfl
    · rw [landShared, landShared, if_neg h, if_neg h, ih]

theorem ageAll_rpt (c : Cluster) (n : Nat) : Cluster.ageAll { c with rpt := n } = { c.ageAll with rpt := n } := by
  exact landShared_rpt (c.sharedFlight.map fun e => { e with age := e.age + 1 })
    { c with lanes := mapBelow (fun _ l => l.tick) c.laneCount 0 c.lanes } n

theorem ageAll_get (c : Cluster) (k : Nat) (l : Lane) (hk : k < c.laneCount) (hl : c.lanes[k]? = some l) : c.ageAll.lanes[k]? = some l.tick := by
  rw [(ageAll_same c).lanes]; simp [mapBelow_get, hl, hk]

/-- What the loop control of R162 leaves; without an active loop it steps to the next instruction. -/
theorem seqNext_same (c : Cluster) : c.seqNext.lanes = c.lanes ∧ c.seqNext.ik = c.ik ∧ c.seqNext.cmem = c.cmem ∧ c.seqNext.imem = c.imem ∧
    c.seqNext.handler = c.handler ∧ c.seqNext.after = c.after ∧ c.seqNext.ended = c.ended ∧
    (c.loopActive = false → c.seqNext.pc = c.pc + 1) := by
  have p : c.popLoop.lanes = c.lanes ∧ c.popLoop.ik = c.ik ∧ c.popLoop.cmem = c.cmem ∧ c.popLoop.imem = c.imem ∧
      c.popLoop.handler = c.handler ∧ c.popLoop.after = c.after ∧ c.popLoop.ended = c.ended := by
    unfold Cluster.popLoop
    split
    · exact ⟨rfl, rfl, rfl, rfl, rfl, rfl, rfl⟩
    · split
      · exact ⟨rfl, rfl, rfl, rfl, rfl, rfl, rfl⟩
      · split <;> exact ⟨rfl, rfl, rfl, rfl, rfl, rfl, rfl⟩
  unfold Cluster.seqNext
  split
  · rename_i h
    split
    · exact ⟨rfl, rfl, rfl, rfl, rfl, rfl, rfl, fun e => by simp [e] at h⟩
    · exact ⟨p.1, p.2.1, p.2.2.1, p.2.2.2.1, p.2.2.2.2.1, p.2.2.2.2.2.1, p.2.2.2.2.2.2, fun e => by simp [e] at h⟩
  · exact ⟨rfl, rfl, rfl, rfl, rfl, rfl, rfl, fun _ => rfl⟩

/-- The issue of an instruction that is no delay slot: the lanes are what its effect makes of the older cluster. -/
theorem issue1_same (f : Cluster → Cluster) (c : Cluster) (ha : (f c.ageAll).after = none) :
    (Cluster.issue1 f c).lanes = (f c.ageAll).lanes ∧ (Cluster.issue1 f c).ik = (f c.ageAll).ik ∧
    (Cluster.issue1 f c).cmem = (f c.ageAll).cmem ∧ (Cluster.issue1 f c).imem = (f c.ageAll).imem ∧
    (Cluster.issue1 f c).handler = (f c.ageAll).handler ∧ (Cluster.issue1 f c).ended = (f c.ageAll).ended ∧
    ((f c.ageAll).loopActive = false → (Cluster.issue1 f c).pc = (f c.ageAll).pc + 1) := by
  have h := seqNext_same (f c.ageAll)
  unfold Cluster.issue1 Cluster.advance
  have e : ({ (f c.ageAll).seqNext with issued := (f c.ageAll).issued + 1, afterReti := (f c.ageAll).afterReti && (f c.ageAll).handler } : Cluster).after = none := by
    show (f c.ageAll).seqNext.after = none
    rw [h.2.2.2.2.2.1, ha]
  dsimp only at e ⊢
  simp only [e]
  exact ⟨h.1, h.2.1, h.2.2.1, h.2.2.2.1, h.2.2.2.2.1, h.2.2.2.2.2.2.1, h.2.2.2.2.2.2.2⟩

theorem issue_once (f : Cluster → Cluster) (c : Cluster) (h : c.rpt ≤ 1) : Cluster.issue f c = Cluster.issue1 f { c with rpt := 0 } := by
  unfold Cluster.issue
  have : c.rpt - 1 = 0 := by omega
  dsimp only
  rw [this]; rfl

/-- What the effect of an instruction leaves of its cluster, where it is no control transfer. -/
structure Cluster.Straight (f : Cluster → Cluster) : Prop where
  ik : ∀ c, (f c).ik = c.ik
  cmem : ∀ c, (f c).cmem = c.cmem
  imem : ∀ c, (f c).imem = c.imem
  handler : ∀ c, (f c).handler = c.handler
  after : ∀ c, (f c).after = c.after
  pc : ∀ c, (f c).pc = c.pc
  loopActive : ∀ c, (f c).loopActive = c.loopActive
  ended : ∀ c, (f c).ended = c.ended

theorem Cluster.Straight.id : Cluster.Straight id :=
  ⟨fun _ => rfl, fun _ => rfl, fun _ => rfl, fun _ => rfl, fun _ => rfl, fun _ => rfl, fun _ => rfl, fun _ => rfl⟩

theorem Cluster.Straight.onLanes (g : Cluster → Nat → Lane → Lane × Sticky) : Cluster.Straight fun c => c.onLanes (g c) :=
  ⟨fun _ => rfl, fun _ => rfl, fun _ => rfl, fun _ => rfl, fun _ => rfl, fun _ => rfl, fun _ => rfl, fun _ => rfl⟩

theorem Cluster.Straight.comp {f g : Cluster → Cluster} (hf : Cluster.Straight f) (hg : Cluster.Straight g) : Cluster.Straight fun c => f (g c) :=
  ⟨fun c => (hf.ik _).trans (hg.ik c), fun c => (hf.cmem _).trans (hg.cmem c), fun c => (hf.imem _).trans (hg.imem c),
    fun c => (hf.handler _).trans (hg.handler c), fun c => (hf.after _).trans (hg.after c), fun c => (hf.pc _).trans (hg.pc c),
    fun c => (hf.loopActive _).trans (hg.loopActive c), fun c => (hf.ended _).trans (hg.ended c)⟩

/-- The state after an instruction whose effect is no control transfer, issued once by a cluster that runs no delay slots. -/
theorem issued_of_issue (s : State) (cl : Nat) (f : Cluster → Cluster) (h : s.AtInstr cl) (hf : Cluster.Straight f) :
    IssuedIn s (s.quiet.issueIn cl (Cluster.issue f)) cl ∧
    ((s.quiet.issueIn cl (Cluster.issue f)).cluster cl).lanes = (f (Cluster.ageAll { s.cluster cl with rpt := 0 })).lanes ∧
    ((s.quiet.issueIn cl (Cluster.issue f)).cluster cl).laneCount = (s.cluster cl).laneCount := by
  have a := ageAll_same { s.cluster cl with rpt := 0 }
  have k := issue1_same f { s.cluster cl with rpt := 0 } ((hf.after _).trans (a.after.trans h.2))
  have e1 : (s.quiet.setCluster cl (Cluster.issue f)).cluster cl = Cluster.issue1 f { s.cluster cl with rpt := 0 } :=
    (State.cluster_setCluster_same _ _ _).trans (issue_once f _ h.1)
  have e2 : s.quiet.issueIn cl (Cluster.issue f) = s.quiet.setCluster cl (Cluster.issue f) := by
    unfold State.issueIn
    dsimp only
    rw [e1, k.2.2.2.2.2.1, hf.ended, a.ended, show (s.quiet.cluster cl).ended = (s.cluster cl).ended from rfl]
    simp
  rw [e2, e1]
  refine ⟨⟨fun n hn => ?_, rfl, ?_, ?_, ?_, fun hl => ?_⟩, k.1, ?_⟩
  · exact State.cluster_setCluster_other _ _ _ _ hn
  · rw [e1, k.2.2.1, hf.cmem, a.cmem]
  · rw [e1, k.2.2.2.1, hf.imem, a.imem]
  · rw [e1, k.2.2.2.2.1, hf.handler, a.handler]
  · have hl' : (Cluster.ageAll { s.cluster cl with rpt := 0 }).loopActive = false := by rw [ageAll_rpt]; exact hl
    rw [e1, k.2.2.2.2.2.2 ((hf.loopActive _).trans hl'), hf.pc, a.pc]
  · unfold Cluster.laneCount
    rw [k.2.1, hf.ik, a.ik]

/-- An instruction of FMT 1 to 4 that is repeated by no RPT and passes its residue check. -/
theorem issueCI_issued (s : State) (i : CI) (f : Cluster → Cluster) (hr : i.residue = .ok) (h : s.AtInstr i.cl) (hf : Cluster.Straight f) :
    ∃ t, issueCI i f s = .next t ∧ IssuedIn s t i.cl ∧ (t.cluster i.cl).lanes = (f (Cluster.ageAll { s.cluster i.cl with rpt := 0 })).lanes ∧
      (t.cluster i.cl).laneCount = (s.cluster i.cl).laneCount := by
  refine ⟨_, rfl, ?_⟩
  have e : (s.quiet.issueIn i.cl (Cluster.issue f)).residue i = s.quiet.issueIn i.cl (Cluster.issue f) := by
    unfold State.residue
    rw [hr]
  rw [e]
  exact issued_of_issue s i.cl f h hf

/-- A lane after an instruction whose effect is one operation over the lanes. -/
theorem lane_after (c : Cluster) (g : Cluster → Nat → Lane → Lane × Sticky) (k : Nat) (l : Lane) (hk : k < c.laneCount) (hl : c.lanes[k]? = some l) :
    ((Cluster.ageAll { c with rpt := 0 }).onLanes (g (Cluster.ageAll { c with rpt := 0 }))).lanes[k]? =
      some { (g (Cluster.ageAll { c with rpt := 0 }) k l.tick).1 with
        st := (g (Cluster.ageAll { c with rpt := 0 }) k l.tick).1.st.or (g (Cluster.ageAll { c with rpt := 0 }) k l.tick).2 } := by
  have hc : (Cluster.ageAll { c with rpt := 0 }).laneCount = c.laneCount := by
    unfold Cluster.laneCount; rw [(ageAll_same { c with rpt := 0 }).ik]
  exact onLanes_get _ _ _ _ (by rw [hc]; exact hk) (ageAll_get { c with rpt := 0 } k l hk hl)

theorem mayD_age (c : Cluster) (r : Nat) : (Cluster.ageAll { c with rpt := 0 }).mayD r = !decide (c.handler = true ∧ r < 32 - c.resD) := by
  have a := ageAll_same { c with rpt := 0 }
  have h : (Cluster.ageAll { c with rpt := 0 }).handler = c.handler := a.handler
  have r' : (Cluster.ageAll { c with rpt := 0 }).resD = c.resD := by unfold Cluster.resD; rw [a.ik, a.img]
  unfold Cluster.mayD
  rw [h, r']
  cases c.handler
  · simp
  · rw [Bool.eq_iff_iff]
    simp only [Bool.not_true, Bool.false_or, decide_eq_true_eq, true_and, Bool.not_eq_true', decide_eq_false_iff_not, Nat.not_lt]

theorem mayA_age (c : Cluster) (r : Nat) : (Cluster.ageAll { c with rpt := 0 }).mayA r = !decide (c.handler = true ∧ r < 8 - c.resA) := by
  have a := ageAll_same { c with rpt := 0 }
  have h : (Cluster.ageAll { c with rpt := 0 }).handler = c.handler := a.handler
  have r' : (Cluster.ageAll { c with rpt := 0 }).resA = c.resA := by unfold Cluster.resA; rw [a.ik, a.img]
  unfold Cluster.mayA
  rw [h, r']
  cases c.handler
  · simp
  · rw [Bool.eq_iff_iff]
    simp only [Bool.not_true, Bool.false_or, decide_eq_true_eq, true_and, Bool.not_eq_true', decide_eq_false_iff_not, Nat.not_lt]

/-- An ALU instruction: the lane it leaves (R156). -/
theorem aluOp_after (s : State) (i : CI) (dd k : Nat) (l : Lane) (f : Nat → Lane → Int) (h : s.AtInstr i.cl) (hr : i.residue = .ok) (hl : s.LaneIs i.cl k l) :
    ∃ t l', issueCI i (aluOp dd f) s = .next t ∧ IssuedIn s t i.cl ∧ t.LaneIs i.cl k l' ∧ l'.AluWrote (s.cluster i.cl) l dd (f k l.tick) := by
  obtain ⟨t, h1, h2, h3, h4⟩ := issueCI_issued s i (aluOp dd f) hr h (Cluster.Straight.onLanes fun c i l => l.aluWrite (c.mayD dd) dd (f i l))
  have hg := lane_after (s.cluster i.cl) (fun c i l => l.aluWrite (c.mayD dd) dd (f i l)) k l hl.1 hl.2
  refine ⟨t, _, h1, h2, ⟨by rw [h4]; exact hl.1, by rw [h3]; exact hg⟩, ?_⟩
  rw [mayD_age]
  generalize f k l.tick = x
  unfold Lane.aluWrite
  by_cases hd : (s.cluster i.cl).handler = true ∧ dd < 32 - (s.cluster i.cl).resD
  · rw [decide_eq_true hd]
    refine ⟨?_, rfl, ?_, fun r hr => ?_, rfl, rfl, rfl⟩
    · rw [if_pos hd]; exact sees_congr rfl rfl _
    · simp [Sticky.or, Lane.tick]
    · exact sees_congr rfl rfl _
  · rw [decide_eq_false hd]
    refine ⟨?_, rfl, ?_, fun r hr => ?_, rfl, rfl, rfl⟩
    · rw [if_neg hd]
      refine (sees_congr (b := Lane.put l.tick dd (BitVec.ofInt 32 (sat32 x)) false) rfl rfl _).trans ?_
      rw [sees_put]; simp
    · simp [Sticky.or, Lane.tick, Lane.put]
    · refine (sees_congr (b := Lane.put l.tick dd (BitVec.ofInt 32 (sat32 x)) false) rfl rfl _).trans ?_
      rw [sees_put]; simp [hr]

/-- An instruction whose effect is one operation over the lanes: the lane it leaves. -/
theorem lanes_after (s : State) (i : CI) (g : Cluster → Nat → Lane → Lane × Sticky) (k : Nat) (l : Lane) (h : s.AtInstr i.cl)
    (hr : i.residue = .ok) (hl : s.LaneIs i.cl k l) :
    ∃ t, issueCI i (fun c => c.onLanes (g c)) s = .next t ∧ IssuedIn s t i.cl ∧
      t.LaneIs i.cl k { (g (Cluster.ageAll { s.cluster i.cl with rpt := 0 }) k l.tick).1 with
        st := (g (Cluster.ageAll { s.cluster i.cl with rpt := 0 }) k l.tick).1.st.or (g (Cluster.ageAll { s.cluster i.cl with rpt := 0 }) k l.tick).2 } := by
  obtain ⟨t, h1, h2, h3, h4⟩ := issueCI_issued s i (fun c => c.onLanes (g c)) hr h (Cluster.Straight.onLanes g)
  refine ⟨t, h1, h2, by rw [h4]; exact hl.1, ?_⟩
  rw [h3]
  exact lane_after (s.cluster i.cl) g k l hl.1 hl.2

/-- What a lane holds after a value went into Dd, or did not because a handler may not write it. -/
theorem took_put (c : Cluster) (l m : Lane) (dd : Nat) (late : Bool) (v : Word) (st : Sticky)
    (hm : m = { (if !decide (c.handler = true ∧ dd < 32 - c.resD) then l.tick.put dd v late else l.tick) with st := st }) : m.Took c l dd late v := by
  subst hm
  by_cases hd : c.handler = true ∧ dd < 32 - c.resD
  · rw [decide_eq_true hd]
    refine ⟨?_, rfl, fun r hr => sees_congr rfl rfl _, rfl, rfl⟩
    rw [if_pos hd]
    cases late
    · exact sees_congr rfl rfl _
    · exact sees_congr rfl rfl _
  · rw [decide_eq_false hd]
    refine ⟨?_, rfl, fun r hr => ?_, rfl, rfl⟩
    · rw [if_neg hd]
      cases late
      · refine (sees_congr (b := l.tick.put dd v false) rfl rfl _).trans ?_
        rw [sees_put]; simp
      · exact (sees_congr (a := Lane.tick _) (b := (l.tick.put dd v true).tick) rfl rfl _).trans (tick_sees_put _ _ _ _)
    · refine (sees_congr (b := l.tick.put dd v late) rfl rfl _).trans ?_
      rw [sees_put]; simp [hr]

/-- An instruction that moves a value into Dd and leaves the flags (R156-R159). -/
theorem putOp_after (s : State) (i : CI) (dd k : Nat) (late : Bool) (f : Nat → Lane → Word) (l : Lane) (h : s.AtInstr i.cl)
    (hr : i.residue = .ok) (hl : s.LaneIs i.cl k l) :
    ∃ t l', issueCI i (putOp dd late f) s = .next t ∧ IssuedIn s t i.cl ∧ t.LaneIs i.cl k l' ∧
      l'.Took (s.cluster i.cl) l dd late (f k l.tick) ∧ l'.st = l.st ∧ l'.noise = l.noise := by
  obtain ⟨t, h1, h2, h3⟩ := lanes_after s i (fun c i l => (if c.mayD dd then l.put dd (f i l) late else l, {})) k l h hr hl
  refine ⟨t, _, h1, h2, h3, ?_, ?_, ?_⟩
  · rw [mayD_age, Sticky.or_none]
    exact took_put _ _ _ _ _ _ _ rfl
  · rw [Sticky.or_none]
    dsimp only
    split <;> rfl
  · dsimp only
    split <;> rfl

/-- An accumulator instruction: the lane it leaves (R154). -/
theorem accOp_after (s : State) (i : CI) (an k : Nat) (f : Lane → Int) (l : Lane) (h : s.AtInstr i.cl) (hr : i.residue = .ok)
    (hl : s.LaneIs i.cl k l) :
    ∃ t l', issueCI i (accOp an f) s = .next t ∧ IssuedIn s t i.cl ∧ t.LaneIs i.cl k l' ∧ l'.AccWrote (s.cluster i.cl) l an (f l.tick) := by
  obtain ⟨t, h1, h2, h3⟩ := lanes_after s i (fun c _ l => l.accWrite (c.mayA an) an (f l)) k l h hr hl
  refine ⟨t, _, h1, h2, h3, ?_⟩
  rw [mayA_age]
  generalize f l.tick = x
  unfold Lane.accWrite
  by_cases hd : (s.cluster i.cl).handler = true ∧ an < 8 - (s.cluster i.cl).resA
  · rw [decide_eq_true hd]
    exact ⟨by rw [if_pos hd]; rfl, rfl, fun _ _ => rfl, fun r => sees_congr rfl rfl _, rfl, rfl⟩
  · rw [decide_eq_false hd]
    refine ⟨?_, rfl, fun m hm => ?_, fun r => sees_congr rfl rfl _, rfl, rfl⟩
    · rw [if_neg hd]; exact tget_tset_same _ _ _ _
    · exact tget_tset_other _ _ _ _ _ hm

end Sys2Proof.Machine
end

