-- ==== Sys2Proof/Laws/Events.lean ====
section
/-! SUPPORT. What raising an event does, and writes that carry a command. -/

namespace Sys2Proof.Machine

/-- A write that is performed does what its row says. -/
theorem viaWrite_ok (s : State) (m : Master) (b off : Nat) (f : State → State) (h : s.MayWrite m b off) : s.quiet.viaWrite m b off f = f s.quiet := by
  unfold State.viaWrite
  rw [show s.quiet.regCause m (regAddr b off) 4 true = none from h]

/-- The common registers of a block after a change of one block's. -/
theorem common_setCommon (s : State) (b n : Nat) (f : Common → Common) : (s.setCommon b f).common n = if n = b then f (s.common b) else s.common n := by
  unfold State.setCommon State.common tmod
  dsimp only
  split
  · subst_vars; exact tget_tset_same _ _ _ _
  · exact tget_tset_other _ _ _ _ _ (by assumption)

/-- With no reset running, no shadow holds an event back. -/
theorem shadowFor_nil (s : State) (h : s.top.shadows = []) (b ev who : Nat) : s.shadowFor b ev who = none := by
  unfold State.shadowFor; rw [h]; rfl

@[simp] theorem mark_pulse_state (t : Top) (cls : EvClass) (b n : Nat) : ((t.pulse cls).mark b cls n).state = t.state := by
  unfold Top.mark Top.pulse Top.fault
  dsimp only
  repeat' split
  all_goals rfl

/-- A class F event while ticks run, in Dawn, Morning or Noon, waits for the next tick boundary (R479). -/
theorem classFNow_running (s : State) (b ev : Nat) (hr : s.time.running = true) (h1 : s.top.state ≠ .night) (h2 : s.top.state ≠ .dusk) :
    s.classFNow b ev = s.modTop fun t => { t with classF := true } := by
  unfold State.classFNow
  split
  · rename_i x; exact absurd x h1
  · rename_i x; exact absurd x h2
  · rw [if_pos hr]

/-- What raising an event outside every shadow does, with ticks running in Dawn, Morning or Noon where it is of class F (R485, R479). -/
theorem raise_eq (s : State) (b ev who detail : Nat) (cls : EvClass) (h : s.top.shadows = []) 
    (hr : cls = .f → s.time.running = true ∧ s.top.state ≠ .night ∧ s.top.state ≠ .dusk) :
    Recorded s (s.raiseAs b ev cls who detail none) b ev cls detail ∧
    (s.raiseAs b ev cls who detail none) = { s with 
      sent := if cls = .f ∨ (cls = .u ∧ s.top.errUen) then s.sent ++ [.pin 0 true] else s.sent
      commons := (s.raiseAs b ev cls who detail none).commons
      top := (if cls = .f then fun (t : Top) => { t with classF := true } else id) ((s.top.pulse cls).mark b cls s.time.tick)
      tw1 := if cls = .f ∨ (cls = .u ∧ s.top.errUen) then { s.tw1 with attnHw := s.tw1.attnHw.lor 1 } else s.tw1 } := by
  have hsh : (if cls = .f then none else s.shadowFor b ev who) = none := by split <;> simp [shadowFor_nil s h]
  unfold State.raiseAs
  rw [hsh]
  dsimp only
  constructor
  · have key : ∀ u : State, u.commons = (((s.setCommon b fun c => (c.log { code := b * 256 + ev, cls := cls, conseq := false, forced := false, polled := false, persist := false, func := 0, stamped := false, stamp := 0, detail := detail % 2 ^ 32 }).noteOverrun ev).setCommon b fun c => c.flag ev cls)).commons → Recorded s u b ev cls detail := by
      intro u hu
      have hc : ∀ n, u.common n = State.common (((s.setCommon b fun c => (c.log { code := b * 256 + ev, cls := cls, conseq := false, forced := false, polled := false, persist := false, func := 0, stamped := false, stamp := 0, detail := detail % 2 ^ 32 }).noteOverrun ev).setCommon b fun c => c.flag ev cls)) n := by
        intro n; unfold State.common; rw [hu]
      have hb := hc b
      simp only [common_setCommon, if_true] at hb
      refine ⟨?_, ?_, ?_, ?_, ?_, fun n hn => ?_⟩
      · rw [hb]; cases cls <;> simp [Common.flag, Common.noteOverrun, Common.log, eventBit, w32] <;> split <;> rfl
      · rw [hb]; cases cls <;> simp [Common.flag, Common.noteOverrun, Common.log] <;> split <;> rfl
      · rw [hb]; cases cls <;> simp [Common.flag, Common.noteOverrun, Common.log] <;> split <;> rfl
      · rw [hb]; cases cls <;> simp [Common.flag, Common.noteOverrun, Common.log] <;> split <;> rfl
      · rw [hb]; cases cls <;> simp [Common.flag, Common.noteOverrun, Common.log] <;> split <;> rfl
      · rw [hc]; simp [common_setCommon, hn]
    apply key
    cases cls
    · simp
    · by_cases hu : s.top.errUen = true <;> simp [hu] <;> rfl
    · obtain ⟨e, e1, e2⟩ := hr rfl
      rw [if_pos rfl, classFNow_running _ _ _ (by simpa using e) (by simpa using e1) (by simpa using e2)]
      simp
  · cases cls
    · rfl
    · by_cases hu : s.top.errUen = true <;> simp [hu] <;> rfl
    · obtain ⟨e, e1, e2⟩ := hr rfl
      rw [if_pos rfl, classFNow_running _ _ _ (by simpa using e) (by simpa using e1) (by simpa using e2)]
      simp [State.modTop, State.setCommon, State.emit]

end Sys2Proof.Machine
end

