-- ==== Sys2Proof/Laws/KeepsOps.lean ====
section
/-! SUPPORT. Each operation of Machine/Ops.lean keeps what every command respects. -/

namespace Sys2Proof.Machine

theorem Keeps.count {s x : State} (h : Keeps s x) (y1 : ℕ) (y2 : ℕ) (y3 : ℕ) : Keeps s (State.count x y1 y2 y3) := by
  unfold State.count
  repeat' first | with_reducible assumption | with_reducible apply Keeps.setCtx

theorem Keeps.countPort {s x : State} (h : Keeps s x) (y1 : ℕ) (y2 : ℕ) (y3 : ℕ) : Keeps s (State.countPort x y1 y2 y3) := by
  unfold State.countPort
  repeat' first | with_reducible assumption | with_reducible apply Keeps.setPort

end Sys2Proof.Machine
end

