-- ==== Sys2Proof/Laws/KeepsEvents.lean ====
section
/-! SUPPORT. Each operation of Machine/Events.lean keeps what every command respects. -/

namespace Sys2Proof.Machine

theorem Keeps.holdIn {s x : State} (h : Keeps s x) (y1 : Shadow) (y2 : HeldCond) : Keeps s (State.holdIn x y1 y2) := h.modTop _

theorem Keeps.domainLost {s x : State} (h : Keeps s x) (d : Nat) : Keeps s (x.domainLost d) := by
  unfold State.domainLost
  have k : Keeps s { x with commons := x.commons.map fun (e : Nat × Common) => if blockDomain e.1 = some d then (e.1, e.2.keepRws) else e } :=
    h.lit rfl rfl rfl rfl
  dsimp only
  refine .ite (k.lit rfl rfl rfl rfl) (.ite ?_ (.ite (k.modFab _ (fun _ a => a) fun _ a => a) (.ite (k.lit rfl rfl rfl rfl) (.ite ?_
    (.ite (k.lit rfl rfl rfl rfl) (k.setCluster _ _ fun c _ => Cluster.ok_default.same rfl rfl rfl))))))
  · exact k.trans ⟨fun ⟨_, _, i⟩ => ⟨rfl, rfl, i⟩, rfl, .refl _⟩
  · exact k.trans ⟨fun ⟨a, b, _, i⟩ => ⟨a, b, rfl, i⟩, rfl, .refl _⟩

theorem Keeps.enter {s x : State} (h : Keeps s x) (y1 : EState) (y2 : ℕ) : Keeps s (State.enter x y1 y2) := by
  unfold State.enter
  repeat' first | with_reducible assumption | with_reducible apply Keeps.ite | with_reducible apply KeepsO.ite | with_reducible apply KeepsO.next | split | dsimp only | intro _ | with_reducible refine Keeps.lit ?_ rfl rfl rfl rfl

theorem Keeps.enterNight {s x : State} (h : Keeps s x) (cause : Nat) : Keeps s (x.enterNight cause) := by
  unfold State.enterNight
  refine Keeps.foldS ?_ _ (fun _ _ k => k.domainLost _) _
  have k : Keeps s (x.enter .night cause) := h.enter _ _
  refine k.trans ⟨fun ⟨a, b, c, d, e⟩ => ⟨a, b, c, d, fun y hy => ?_⟩, rfl, .same rfl rfl rfl rfl rfl rfl⟩
  obtain ⟨z, hz, rfl⟩ := List.mem_map.1 hy
  exact (e z hz).abandonSpin

theorem Keeps.classFNow {s x : State} (h : Keeps s x) (y1 y2 : ℕ) : Keeps s (State.classFNow x y1 y2) := by
  unfold State.classFNow
  repeat' first | with_reducible assumption | with_reducible apply Keeps.modTop | with_reducible apply Keeps.enterNight | with_reducible apply Keeps.enter | with_reducible apply Keeps.ite | with_reducible apply KeepsO.ite | with_reducible apply KeepsO.next | split

theorem Keeps.raiseAs {s x : State} (h : Keeps s x) (y1 : ℕ) (y2 : ℕ) (y3 : EvClass) (y4 : ℕ) (y5 : ℕ) (y6 : Option ℕ) : Keeps s (State.raiseAs x y1 y2 y3 y4 y5 y6) := by
  unfold State.raiseAs
  repeat' first | with_reducible assumption | with_reducible apply Keeps.setCommon | with_reducible apply Keeps.modTop | with_reducible apply Keeps.holdIn | with_reducible apply Keeps.emit | with_reducible apply Keeps.classFNow | with_reducible apply Keeps.ite | with_reducible apply KeepsO.ite | with_reducible apply KeepsO.next | split | dsimp only | intro _ | with_reducible refine Keeps.lit ?_ rfl rfl rfl rfl

theorem Keeps.raise {s x : State} (h : Keeps s x) (y1 : ℕ) (y2 : ℕ) (y3 : EvClass) (y4 : ℕ) : Keeps s (State.raise x y1 y2 y3 y4) := by
  unfold State.raise
  repeat' first | with_reducible assumption | with_reducible apply Keeps.raiseAs

theorem Keeps.raiseT {s x : State} (h : Keeps s x) (y1 : ℕ) (y2 : ℕ) (y3 : EvClass) (y4 : ℕ) : Keeps s (State.raiseT x y1 y2 y3 y4) := by
  unfold State.raiseT
  repeat' first | with_reducible assumption | with_reducible apply Keeps.raiseAs

end Sys2Proof.Machine
end

