-- ==== Sys2Proof/Laws/KeepsWire.lean ====
section
/-! SUPPORT. Each operation of Machine/Wire.lean keeps what every command respects. -/

namespace Sys2Proof.Machine

theorem Keeps.keyUse {s x : State} (h : Keeps s x) (y1 : ℕ) (y2 : ℕ) (y3 : ℕ) : Keeps s (State.keyUse x y1 y2 y3) := by
  unfold State.keyUse
  repeat' first | with_reducible assumption | with_reducible apply Keeps.setKey | with_reducible apply Keeps.ite | with_reducible apply KeepsO.ite | with_reducible apply KeepsO.next | split

theorem Keeps.countTx {s x : State} (h : Keeps s x) (y1 : ℕ) (y2 : ℕ) : Keeps s (State.countTx x y1 y2) := by
  unfold State.countTx
  repeat' first | with_reducible assumption | with_reducible apply Keeps.setPort | with_reducible apply Keeps.countPort

theorem Keeps.countRx {s x : State} (h : Keeps s x) (y1 : ℕ) (y2 : ℕ) : Keeps s (State.countRx x y1 y2) := by
  unfold State.countRx
  repeat' first | with_reducible assumption | with_reducible apply Keeps.setPort | with_reducible apply Keeps.countPort

theorem Keeps.secure {s x : State} (h : Keeps s x) (y1 : ℕ) : Keeps s (State.secure x y1) := by
  unfold State.secure
  repeat' first | with_reducible assumption | with_reducible apply Keeps.setPortKey | with_reducible apply Keeps.emit | with_reducible apply Keeps.ite

theorem Keeps.sendMedia {s x : State} (h : Keeps s x) (y1 : ℕ) (y2 : ℕ) (y3 : Emission) : Keeps s (State.sendMedia x y1 y2 y3) := by
  unfold State.sendMedia
  repeat' first | with_reducible assumption | with_reducible apply Keeps.secure | with_reducible apply Keeps.emit | with_reducible apply Keeps.countTx | with_reducible apply Keeps.ite

theorem Keeps.sendClass {s x : State} (h : Keeps s x) (y1 : ℕ) (y2 : Bool) (y3 : ℕ) (y4 : Emission) : Keeps s (State.sendClass x y1 y2 y3 y4) := by
  unfold State.sendClass
  repeat' first | with_reducible assumption | with_reducible apply Keeps.setPort | with_reducible apply Keeps.sendMedia | with_reducible apply Keeps.ite | with_reducible apply Keeps.ite1 | with_reducible apply KeepsO.ite | with_reducible apply KeepsO.next | split | dsimp only | intro _ | with_reducible refine Keeps.lit ?_ rfl rfl rfl rfl

theorem Keeps.unpause {s x : State} (h : Keeps s x) (y1 : ℕ) (y2 : Bool) : Keeps s (State.unpause x y1 y2) := by
  unfold State.unpause
  repeat' first | with_reducible assumption | with_reducible apply Keeps.setPort | with_reducible refine Keeps.foldS ?_ _ (fun _ _ _ => ?_) _ | with_reducible apply Keeps.sendMedia | with_reducible apply Keeps.ite | with_reducible apply Keeps.ite1 | with_reducible apply KeepsO.ite | with_reducible apply KeepsO.next | split | dsimp only | intro _ | with_reducible refine Keeps.lit ?_ rfl rfl rfl rfl

theorem Keeps.plStart {s x : State} (h : Keeps s x) (y1 : ℕ) (y2 : PlFrame) : Keeps s (State.plStart x y1 y2) := by
  unfold State.plStart
  repeat' first | with_reducible assumption | with_reducible apply Keeps.countTx | with_reducible apply Keeps.setGroup | with_reducible apply Keeps.emit | with_reducible apply Keeps.ite | with_reducible apply KeepsO.ite | with_reducible apply KeepsO.next | split

theorem Keeps.plSend {s x : State} (h : Keeps s x) (y1 : ℕ) (y2 : PlFrame) : Keeps s (State.plSend x y1 y2) := by
  unfold State.plSend
  repeat' first | with_reducible assumption | with_reducible apply Keeps.plStart | with_reducible apply Keeps.setGroup | with_reducible apply Keeps.ite

theorem Keeps.plNext {s x : State} (h : Keeps s x) (y1 : ℕ) (y2 : ℕ) : Keeps s (State.plNext x y1 y2) := by
  unfold State.plNext
  repeat' first | with_reducible assumption | with_reducible apply Keeps.plStart | with_reducible apply Keeps.setGroup | with_reducible apply Keeps.ite | with_reducible apply KeepsO.ite | with_reducible apply KeepsO.next | split

theorem Keeps.plAgain {s x : State} (h : Keeps s x) (y1 : ℕ) : Keeps s (State.plAgain x y1) := by
  unfold State.plAgain
  repeat' first | with_reducible assumption | with_reducible apply Keeps.countPort | with_reducible apply Keeps.plStart | with_reducible apply Keeps.setGroup | with_reducible apply Keeps.ite | with_reducible apply KeepsO.ite | with_reducible apply KeepsO.next | split

theorem Keeps.plServe {s x : State} (h : Keeps s x) (y1 : ℕ) : Keeps s (State.plServe x y1) := by
  unfold State.plServe
  repeat' first | with_reducible assumption | with_reducible apply Keeps.iter | with_reducible apply Keeps.plAgain | with_reducible apply Keeps.foldS | with_reducible apply Keeps.plNext | with_reducible apply Keeps.ite | with_reducible apply KeepsO.ite | with_reducible apply KeepsO.next | split | dsimp only | intro _

theorem Keeps.sendOn {s x : State} (h : Keeps s x) (y1 : ℕ) (y2 : Bool) (y3 : ℕ) (y4 : Emission) : Keeps s (State.sendOn x y1 y2 y3 y4) := by
  unfold State.sendOn
  repeat' first | with_reducible assumption | with_reducible apply Keeps.sendMedia | with_reducible apply Keeps.plSend | with_reducible apply Keeps.ite | with_reducible apply KeepsO.ite | with_reducible apply KeepsO.next | split

theorem Keeps.sendFrame {s x : State} (h : Keeps s x) (y1 : ℕ) (y2 : ℕ) (y3 : ℕ → Bool → Emission) : Keeps s (State.sendFrame x y1 y2 y3) := by
  unfold State.sendFrame
  repeat' first | with_reducible assumption | with_reducible apply Keeps.count | with_reducible apply Keeps.setCtx | with_reducible apply Keeps.foldS | with_reducible apply Keeps.sendOn | with_reducible apply Keeps.ite | with_reducible apply KeepsO.ite | with_reducible apply KeepsO.next | split | dsimp only | intro _

theorem Keeps.skipSeq {s x : State} (h : Keeps s x) (y1 : ℕ) (y2 : ℕ) : Keeps s (State.skipSeq x y1 y2) := by
  unfold State.skipSeq
  repeat' first | with_reducible assumption | with_reducible apply Keeps.setCtx | with_reducible apply Keeps.ite

end Sys2Proof.Machine
end

