-- ==== Sys2Proof/Laws/KeepsEncap.lean ====
section
/-! SUPPORT. Each operation of Machine/Encap.lean keeps what every command respects. -/

namespace Sys2Proof.Machine

theorem Keeps.sendPart {s x : State} (h : Keeps s x) (y1 : ℕ) (y2 : ℕ) (y3 : ℕ) (y4 : List Byte → ℕ → ℕ → MirrorBody) (y5 : ℕ × ℕ) : Keeps s (State.sendPart y1 y2 y3 y4 x y5) := by
  unfold State.sendPart
  repeat' first | with_reducible assumption | with_reducible apply Keeps.setGroup | with_reducible apply Keeps.plSend | with_reducible apply Keeps.ite | with_reducible apply Keeps.ite1 | with_reducible apply KeepsO.ite | with_reducible apply KeepsO.next | split | dsimp only | intro _ | with_reducible refine Keeps.lit ?_ rfl rfl rfl rfl

theorem Keeps.sendRecord {s x : State} (h : Keeps s x) (y1 : ℕ) (y2 : ℕ) (y3 : ℕ) (y4 : ℕ) (y5 : List Byte → ℕ → ℕ → MirrorBody) : Keeps s (State.sendRecord x y1 y2 y3 y4 y5) := by
  unfold State.sendRecord
  repeat' first | with_reducible assumption | with_reducible refine Keeps.foldS ?_ _ (fun _ _ _ => ?_) _ | with_reducible apply Keeps.sendPart | with_reducible apply Keeps.ite | with_reducible apply Keeps.ite1 | with_reducible apply KeepsO.ite | with_reducible apply KeepsO.next | split | dsimp only | intro _ | with_reducible refine Keeps.lit ?_ rfl rfl rfl rfl

theorem Keeps.sendMirror {s x : State} (h : Keeps s x) (y1 : ℕ) (y2 : ℕ) (y3 : ℕ) (y4 : List Byte) : Keeps s (State.sendMirror x y1 y2 y3 y4) := by
  unfold State.sendMirror
  repeat' first | with_reducible assumption | with_reducible apply Keeps.sendRecord | with_reducible apply Keeps.ite | with_reducible apply Keeps.ite1 | with_reducible apply KeepsO.ite | with_reducible apply KeepsO.next | split | dsimp only | intro _ | with_reducible refine Keeps.lit ?_ rfl rfl rfl rfl

end Sys2Proof.Machine
end

