-- ==== Sys2Proof/Laws/KeepsFox.lean ====
section
/-! SUPPORT. Each operation of Machine/Fox.lean keeps what every command respects. -/

namespace Sys2Proof.Machine

theorem KeepsO.execFoxFadeEnd {s x : State} (h : Keeps s x) (y1 : Consumer) : KeepsO s (execFoxFadeEnd y1 x) := by
  unfold Machine.execFoxFadeEnd
  repeat' first | with_reducible assumption | with_reducible apply Keeps.quiet | with_reducible apply Keeps.modCsw | with_reducible apply Keeps.ite | with_reducible apply KeepsO.ite | with_reducible apply KeepsO.next | split | dsimp only

theorem KeepsO.execFoxQueuedStart {s x : State} (h : Keeps s x) (y1 : Consumer) : KeepsO s (execFoxQueuedStart y1 x) := by
  unfold Machine.execFoxQueuedStart
  repeat' first | with_reducible assumption | with_reducible apply Keeps.quiet | with_reducible apply Keeps.modCsw | with_reducible apply Keeps.ite | with_reducible apply KeepsO.ite | with_reducible apply KeepsO.next | split | dsimp only

end Sys2Proof.Machine
end

