-- ==== Sys2Proof/Laws/KeepsBanks.lean ====
section
/-! SUPPORT. Each operation of Machine/Banks.lean keeps what every command respects. -/

namespace Sys2Proof.Machine

theorem Keeps.wake {s x : State} (h : Keeps s x) (y1 : ℕ) : Keeps s (State.wake x y1) := by
  unfold State.wake
  repeat' first | with_reducible assumption | with_reducible apply Keeps.ite | with_reducible apply Keeps.ite1 | with_reducible apply KeepsO.ite | with_reducible apply KeepsO.next | split | dsimp only | intro _ | with_reducible refine Keeps.lit ?_ rfl rfl rfl rfl

theorem Keeps.wakeReaders {s x : State} (h : Keeps s x) (y1 : ℕ) (y2 : ℕ) (y3 : ℕ) (y4 : List ℤ) : Keeps s (State.wakeReaders x y1 y2 y3 y4) := by
  unfold State.wakeReaders
  repeat' first | with_reducible assumption | with_reducible refine Keeps.foldS ?_ _ (fun _ _ _ => ?_) _ | with_reducible apply Keeps.wake | with_reducible apply Keeps.ite | with_reducible apply Keeps.ite1 | with_reducible apply KeepsO.ite | with_reducible apply KeepsO.next | split

theorem Keeps.putSlot {s x : State} (h : Keeps s x) (y1 : ℕ) (y2 : ℕ) (y3 : List ℤ) : Keeps s (State.putSlot x y1 y2 y3) := by
  unfold State.putSlot
  repeat' first | with_reducible assumption | with_reducible apply Keeps.modCsw | with_reducible apply Keeps.wakeReaders

end Sys2Proof.Machine
end

