-- ==== Sys2Proof/Laws/KeepsMix.lean ====
section
/-! SUPPORT. Each operation of Machine/Mix.lean keeps what every command respects. -/

namespace Sys2Proof.Machine

theorem Keeps.runBus {s x : State} (h : Keeps s x) (y1 : ℕ) (y2 : ℕ) : Keeps s (State.runBus x y1 y2) := by
  unfold State.runBus
  repeat' first | with_reducible assumption | with_reducible apply Keeps.putSlot | with_reducible apply Keeps.ite | with_reducible apply KeepsO.ite | with_reducible apply KeepsO.next | split | dsimp only | intro _ | with_reducible refine Keeps.lit ?_ rfl rfl rfl rfl

theorem KeepsO.execBusStop {s x : State} (h : Keeps s x) (y1 : ℕ) : KeepsO s (execBusStop y1 x) := by
  unfold Machine.execBusStop
  repeat' first | with_reducible assumption | with_reducible apply Keeps.quiet | with_reducible apply Keeps.ite | with_reducible apply KeepsO.ite | with_reducible apply KeepsO.next | split | dsimp only | intro _ | with_reducible refine Keeps.lit ?_ rfl rfl rfl rfl

theorem KeepsO.execEntryDrop {s x : State} (h : Keeps s x) (y1 : ℕ) (y2 : ℕ) : KeepsO s (execEntryDrop y1 y2 x) := by
  unfold Machine.execEntryDrop
  repeat' first | with_reducible assumption | with_reducible apply Keeps.quiet | with_reducible apply Keeps.ite | with_reducible apply KeepsO.ite | with_reducible apply KeepsO.next | split | dsimp only | intro _ | with_reducible refine Keeps.lit ?_ rfl rfl rfl rfl

end Sys2Proof.Machine
end

