-- ==== Sys2Proof/Laws/KeepsDynamics.lean ====
section
/-! SUPPORT. Each operation of Machine/Dynamics.lean keeps what every command respects. -/

namespace Sys2Proof.Machine

theorem Keeps.runDyn {s x : State} (h : Keeps s x) (y1 : ℕ) (y2 : List ℕ) : Keeps s (State.runDyn x y1 y2) := by
  unfold State.runDyn
  repeat' first | with_reducible assumption | with_reducible apply Keeps.foldS | with_reducible apply Keeps.putSlot | with_reducible apply Keeps.ite | with_reducible apply KeepsO.ite | with_reducible apply KeepsO.next | split | dsimp only | intro _ | with_reducible refine Keeps.lit ?_ rfl rfl rfl rfl

end Sys2Proof.Machine
end

