-- ==== Sys2Proof/Laws/KeepsDirect.lean ====
section
/-! SUPPORT. Each operation of Machine/Direct.lean keeps what every command respects. -/

namespace Sys2Proof.Machine

theorem Keeps.dpChannel {s x : State} (h : Keeps s x) (y1 : ℕ) (y2 : List ℕ) (y3 : ℕ) : Keeps s (State.dpChannel y1 y2 x y3) := by
  unfold State.dpChannel
  repeat' first | with_reducible assumption | with_reducible apply Keeps.raiseT | with_reducible apply Keeps.ite | with_reducible apply KeepsO.ite | with_reducible apply KeepsO.next | split | dsimp only | intro _ | with_reducible refine Keeps.lit ?_ rfl rfl rfl rfl

theorem Keeps.dpRun {s x : State} (h : Keeps s x) (y1 : List ℕ) (y2 : ℕ) : Keeps s (State.dpRun y1 x y2) := by
  unfold State.dpRun
  repeat' first | with_reducible assumption | with_reducible refine Keeps.foldS ?_ _ (fun _ _ _ => ?_) _ | with_reducible apply Keeps.dpChannel | with_reducible apply Keeps.ite | with_reducible apply Keeps.ite1 | with_reducible apply KeepsO.ite | with_reducible apply KeepsO.next | split | dsimp only | intro _ | with_reducible refine Keeps.lit ?_ rfl rfl rfl rfl

theorem Keeps.emitDirect1 {s x : State} (h : Keeps s x) (y1 : ℕ) (y2 : Bool) (y3 : ℕ) : Keeps s (State.emitDirect1 y1 y2 x y3) := by
  unfold State.emitDirect1
  repeat' first | with_reducible assumption | with_reducible apply Keeps.count | with_reducible apply Keeps.modCsw | with_reducible apply Keeps.skipSeq | with_reducible apply Keeps.sendFrame | with_reducible apply Keeps.keyUse | with_reducible apply Keeps.ite

theorem Keeps.emitDirect {s x : State} (h : Keeps s x) (y1 : ℕ) (y2 : Bool) : Keeps s (State.emitDirect x y1 y2) := by
  unfold State.emitDirect
  repeat' first | with_reducible assumption | with_reducible refine Keeps.foldS ?_ _ (fun _ _ _ => ?_) _ | with_reducible apply Keeps.emitDirect1

theorem KeepsO.execDpSample {s x : State} (h : Keeps s x) (y1 : ℕ) (y2 : List ℕ) : KeepsO s (Machine.execDpSample y1 y2 x) := by
  unfold Machine.execDpSample
  repeat' first | with_reducible assumption | with_reducible apply Keeps.quiet | with_reducible refine Keeps.foldS ?_ _ (fun _ _ _ => ?_) _ | with_reducible apply Keeps.dpRun | with_reducible apply Keeps.emitDirect | with_reducible apply Keeps.ite | with_reducible apply Keeps.ite1 | with_reducible apply KeepsO.ite | with_reducible apply KeepsO.next

end Sys2Proof.Machine
end

