-- ==== Sys2Proof/Laws/KeepsSilence.lean ====
section
/-! SUPPORT. Each operation of Machine/Silence.lean keeps what every command respects. -/

namespace Sys2Proof.Machine

theorem Keeps.detDecide {s x : State} (h : Keeps s x) (y1 : Tab Val) (y2 : ℕ) (y3 : ℕ) (y4 : ℕ) (y5 : List ℤ) : Keeps s (State.detDecide x y1 y2 y3 y4 y5) := by
  unfold State.detDecide
  repeat' first | with_reducible assumption | with_reducible apply Keeps.quiet | with_reducible apply Keeps.ite | with_reducible apply Keeps.ite1 | with_reducible apply KeepsO.ite | with_reducible apply KeepsO.next | split | dsimp only | intro _ | with_reducible refine Keeps.lit ?_ rfl rfl rfl rfl

theorem Keeps.detAssign {s x : State} (h : Keeps s x) (y1 : Tab Val) (y2 : ℕ) : Keeps s (State.detAssign x y1 y2) := by
  unfold State.detAssign
  repeat' first | with_reducible assumption | with_reducible refine Keeps.foldl ?_ _ (fun _ _ _ => ?_) _ | with_reducible apply Cluster.Ok.foldl | with_reducible apply Keeps.ite | with_reducible apply Keeps.ite1 | with_reducible apply KeepsO.ite | with_reducible apply KeepsO.next | split | dsimp only | intro _ | with_reducible refine Keeps.lit ?_ rfl rfl rfl rfl

theorem Keeps.silCutoff {s x : State} (h : Keeps s x) (y1 : ℕ) : Keeps s (State.silCutoff x y1) := by
  unfold State.silCutoff
  repeat' first | with_reducible assumption | with_reducible refine Keeps.foldS ?_ _ (fun _ _ _ => ?_) _ | with_reducible apply Keeps.detDecide | with_reducible apply Keeps.detAssign | with_reducible apply Keeps.ite | with_reducible apply Keeps.ite1 | with_reducible apply KeepsO.ite | with_reducible apply KeepsO.next | split | dsimp only | intro _ | with_reducible refine Keeps.lit ?_ rfl rfl rfl rfl

theorem Keeps.silProcess {s x : State} (h : Keeps s x) (y1 : ℕ) : Keeps s (State.silProcess x y1) := by
  unfold State.silProcess
  repeat' first | with_reducible assumption | with_reducible refine Keeps.foldS ?_ _ (fun _ _ _ => ?_) _ | with_reducible apply Keeps.detDecide | with_reducible apply Keeps.detFree | with_reducible apply Keeps.ite | with_reducible apply Keeps.ite1 | with_reducible apply KeepsO.ite | with_reducible apply KeepsO.next | split

theorem KeepsO.execSilent {s x : State} (h : Keeps s x) (y1 : ℕ) : KeepsO s (execSilent y1 x) := by
  unfold Machine.execSilent
  repeat' first | with_reducible assumption | with_reducible apply Keeps.quiet | with_reducible apply Keeps.ite | with_reducible apply KeepsO.ite | with_reducible apply KeepsO.next | split | dsimp only | intro _ | with_reducible refine Keeps.lit ?_ rfl rfl rfl rfl

theorem Keeps.wsZero {s x : State} (h : Keeps s x) (y1 : Tab Val) (y2 : ℕ) : Keeps s (State.wsZero x y1 y2) := by
  unfold State.wsZero
  repeat' first | with_reducible assumption | with_reducible apply Keeps.ite | with_reducible apply Keeps.ite1 | with_reducible apply KeepsO.ite | with_reducible apply KeepsO.next | split | dsimp only | intro _ | with_reducible refine Keeps.lit ?_ rfl rfl rfl rfl

theorem Keeps.monCutoff {s x : State} (h : Keeps s x) (y1 : ℕ) : Keeps s (State.monCutoff x y1) := by
  unfold State.monCutoff
  repeat' first | with_reducible assumption | with_reducible refine Keeps.foldS ?_ _ (fun _ _ _ => ?_) _ | with_reducible apply Keeps.wsZero | with_reducible apply Keeps.ite | with_reducible apply Keeps.ite1 | with_reducible apply KeepsO.ite | with_reducible apply KeepsO.next | split | dsimp only | intro _ | with_reducible refine Keeps.lit ?_ rfl rfl rfl rfl

theorem Keeps.cutoffDecide {s x : State} (h : Keeps s x) (y1 : ℕ) : Keeps s (State.cutoffDecide x y1) := by
  unfold State.cutoffDecide
  repeat' first | with_reducible assumption | with_reducible apply Keeps.silCutoff | with_reducible apply Keeps.monCutoff | with_reducible apply Keeps.ite | with_reducible apply Keeps.ite1 | with_reducible apply KeepsO.ite | with_reducible apply KeepsO.next | split | dsimp only | intro _ | with_reducible refine Keeps.lit ?_ rfl rfl rfl rfl

theorem KeepsO.execWsZero {s x : State} (h : Keeps s x) (y1 : ℕ) : KeepsO s (Machine.execWsZero y1 x) := by
  unfold Machine.execWsZero
  repeat' first | with_reducible assumption | with_reducible apply Keeps.quiet | with_reducible apply Keeps.wsZero | with_reducible apply Keeps.ite | with_reducible apply Keeps.ite1 | with_reducible apply KeepsO.ite | with_reducible apply KeepsO.next | split

theorem KeepsO.execClusterReady {s x : State} (h : Keeps s x) (y1 : ℕ) : KeepsO s (execClusterReady y1 x) := by
  unfold Machine.execClusterReady
  repeat' first | with_reducible assumption | with_reducible apply Keeps.quiet | with_reducible apply Keeps.ite | with_reducible apply KeepsO.ite | with_reducible apply KeepsO.next | split | dsimp only | intro _ | with_reducible refine Keeps.lit ?_ rfl rfl rfl rfl

theorem Keeps.silRest {s x : State} (h : Keeps s x)  : Keeps s (State.silRest x) := by
  unfold State.silRest
  repeat' first | with_reducible assumption | with_reducible apply Keeps.foldS | with_reducible apply Keeps.wake | with_reducible apply Keeps.ite | with_reducible apply KeepsO.ite | with_reducible apply KeepsO.next | split | dsimp only | intro _ | with_reducible refine Keeps.lit ?_ rfl rfl rfl rfl

end Sys2Proof.Machine
end

