-- ==== Sys2Proof/Laws/KeepsAlign.lean ====
section
/-! SUPPORT. Each operation of Machine/Align.lean keeps what every command respects. -/

namespace Sys2Proof.Machine

theorem Keeps.dramUE {s x : State} (h : Keeps s x) (y1 : ℕ) : Keeps s (State.dramUE x y1) := by
  unfold State.dramUE
  repeat' first | with_reducible assumption | with_reducible apply Keeps.raise | with_reducible apply Keeps.ite | with_reducible apply KeepsO.ite | with_reducible apply KeepsO.next | split | dsimp only | intro _ | with_reducible refine Keeps.lit ?_ rfl rfl rfl rfl

theorem wf_putWords (l : List ℤ) {m : List Host.Cell} (h : Memory.wf m = true) (a : ℕ) : Memory.wf (putWords a l m) = true := by
  induction l generalizing a m with
  | nil => exact h
  | cons x t ih => exact ih (wf_memSetWord h _ _) _

theorem wf_push (base : Nat) (l : List Int) (a : AlnOut) (m : Memc) (h : Memory.wf m.dram = true) :
    Memory.wf (l.foldl (AlnOut.push base) (a, m)).2.dram = true := by
  induction l generalizing a m with
  | nil => exact h
  | cons v t ih =>
    have k : Memory.wf (AlnOut.push base (a, m) v).2.dram = true := by
      unfold AlnOut.push
      dsimp only
      split
      · exact wf_putWords _ h _
      · exact h
    exact ih _ _ k

theorem Keeps.runAln {s x : State} (h : Keeps s x) (y1 : ℕ) (y2 : Bool) (y3 : ℕ) : Keeps s (State.runAln x y1 y2 y3) := by
  unfold State.runAln
  dsimp only
  split
  · exact h
  · rename_i base _ _
    have k : Keeps s { x with memc := ((x.sigTick y1 (alnN x.dict.vals y3 2).toNat).foldl (AlnOut.push base) (tget ({} : AlnOut) x.aln.outs y3, x.memc)).2 } :=
      h.trans ⟨fun ⟨a, b, c, i⟩ => ⟨a, b, wf_push _ _ _ _ c, i⟩, rfl, .refl _⟩
    repeat' first | with_reducible exact k | with_reducible apply Keeps.raiseT | with_reducible refine Keeps.foldS ?_ _ (fun _ _ _ => ?_) _ | with_reducible apply Keeps.dramUE | with_reducible apply Keeps.modCsw | with_reducible apply Keeps.putSlot | with_reducible apply Keeps.ite | with_reducible exact k.same rfl rfl rfl rfl rfl rfl rfl | with_reducible assumption

theorem Keeps.alnClamped {s x : State} (h : Keeps s x) (y1 : ℕ) (y2 : Bool) : Keeps s (State.alnClamped x y1 y2) := by
  unfold State.alnClamped
  repeat' first | with_reducible assumption | with_reducible apply Keeps.raise | with_reducible apply Keeps.ite | with_reducible apply Keeps.ite1 | with_reducible apply KeepsO.ite | with_reducible apply KeepsO.next | split | dsimp only | intro _ | with_reducible refine Keeps.lit ?_ rfl rfl rfl rfl

theorem Keeps.alnCommit {s x : State} (h : Keeps s x) (y1 : ℕ) (y2 : ℕ) (y3 : ℕ → Bool) : Keeps s (State.alnCommit x y1 y2 y3) := by
  unfold State.alnCommit
  repeat' first | with_reducible assumption | with_reducible apply Keeps.alnClamped | with_reducible apply Keeps.ite | with_reducible apply Keeps.ite1 | with_reducible apply KeepsO.ite | with_reducible apply KeepsO.next | split | dsimp only | intro _ | with_reducible refine Keeps.lit ?_ rfl rfl rfl rfl

theorem KeepsO.execAlnGainRampStart {s x : State} (h : Keeps s x) (y1 : ℕ) : KeepsO s (execAlnGainRampStart y1 x) := by
  unfold Machine.execAlnGainRampStart
  repeat' first | with_reducible assumption | with_reducible apply Keeps.quiet | with_reducible apply Keeps.ite | with_reducible apply KeepsO.ite | with_reducible apply KeepsO.next | split | dsimp only | intro _ | with_reducible refine Keeps.lit ?_ rfl rfl rfl rfl

theorem KeepsO.execAlnRegionRelease {s x : State} (h : Keeps s x) (y1 : ℕ) : KeepsO s (execAlnRegionRelease y1 x) := by
  unfold Machine.execAlnRegionRelease
  repeat' first | with_reducible assumption | with_reducible apply Keeps.quiet | with_reducible apply Keeps.ite | with_reducible apply KeepsO.ite | with_reducible apply KeepsO.next | split | dsimp only | intro _ | with_reducible refine Keeps.lit ?_ rfl rfl rfl rfl

theorem KeepsO.execAlnXtapEnd {s x : State} (h : Keeps s x) (y1 : ℕ) : KeepsO s (execAlnXtapEnd y1 x) := by
  unfold Machine.execAlnXtapEnd
  repeat' first | with_reducible assumption | with_reducible apply Keeps.quiet | with_reducible apply Keeps.ite | with_reducible apply KeepsO.ite | with_reducible apply KeepsO.next | split | dsimp only | intro _ | with_reducible refine Keeps.lit ?_ rfl rfl rfl rfl

end Sys2Proof.Machine
end

