-- ==== Sys2Proof/Laws/KeepsProcess.lean ====
section
/-! SUPPORT. Each operation of Machine/Process.lean keeps what every command respects. -/

namespace Sys2Proof.Machine

theorem Keeps.startSpin {s x : State} (h : Keeps s x) (y1 : ℕ) (y2 : ℕ) (y3 : Bool) (y4 : Bool) : Keeps s (State.startSpin x y1 y2 y3 y4) := by
  unfold State.startSpin
  repeat' first | with_reducible assumption | with_reducible refine Keeps.setCluster ?_ _ _ (fun _ _ => ?_) | with_reducible apply Keeps.ite | with_reducible apply Keeps.ite1 | with_reducible apply KeepsO.ite | with_reducible apply KeepsO.next | with_reducible apply Cluster.Ok.ite | split | dsimp only | intro _ | with_reducible refine Keeps.lit ?_ rfl rfl rfl rfl | with_reducible apply Cluster.Ok.lit

theorem Keeps.noteNoSpare {s x : State} (h : Keeps s x) (y1 : ℕ) : Keeps s (State.noteNoSpare x y1) := by
  unfold State.noteNoSpare
  repeat' first | with_reducible assumption | with_reducible apply Keeps.raiseT | with_reducible apply Keeps.ite | with_reducible apply Keeps.ite1 | with_reducible apply KeepsO.ite | with_reducible apply KeepsO.next | split | dsimp only | intro _ | with_reducible refine Keeps.lit ?_ rfl rfl rfl rfl

theorem Keeps.makeFaulty {s x : State} (h : Keeps s x) (y1 : ℕ) : Keeps s (State.makeFaulty x y1) :=
  (h.setCluster y1 _ fun c _ => Cluster.ok_default.same (d := { ({} : Cluster) with
    role := 3, stFail := c.stFail, spareSince := c.spareSince, peak := c.peak, hostOvg := c.hostOvg, hostSat := c.hostSat
    hostCirc := c.hostCirc, hostAddr := c.hostAddr, stPass := c.stPass, march := c.march, seen := c.seen }) rfl rfl rfl).lit rfl rfl rfl rfl

theorem Keeps.spareFails {s x : State} (h : Keeps s x) (y1 : ℕ) : Keeps s (State.spareFails x y1) := by
  unfold State.spareFails
  repeat' first | with_reducible assumption | with_reducible apply Keeps.makeFaulty | with_reducible apply Keeps.noteNoSpare | with_reducible apply Keeps.ite | with_reducible apply Keeps.ite1 | with_reducible apply KeepsO.ite | with_reducible apply KeepsO.next | split | dsimp only | intro _ | with_reducible refine Keeps.lit ?_ rfl rfl rfl rfl

theorem Keeps.selfTestFails {s x : State} (h : Keeps s x) (y1 : ℕ) : Keeps s (State.selfTestFails x y1) := by
  unfold State.selfTestFails
  repeat' first | with_reducible assumption | with_reducible refine Keeps.setCluster ?_ _ _ (fun _ _ => ?_) | with_reducible apply Keeps.modTop | with_reducible apply Keeps.raiseT | with_reducible apply Keeps.spareFails | with_reducible apply Keeps.ite | with_reducible apply Keeps.ite1 | with_reducible apply KeepsO.ite | with_reducible apply KeepsO.next | with_reducible apply Cluster.Ok.ite | split | dsimp only | intro _ | with_reducible refine Keeps.lit ?_ rfl rfl rfl rfl | with_reducible apply Cluster.Ok.lit

theorem Keeps.spareEvent {s x : State} (h : Keeps s x) (y1 : ℕ) : Keeps s (State.spareEvent x y1) := by
  unfold State.spareEvent
  repeat' first | with_reducible assumption | with_reducible apply Keeps.spareFails | with_reducible apply Keeps.ite | with_reducible apply Keeps.ite1 | with_reducible apply KeepsO.ite | with_reducible apply KeepsO.next | split | dsimp only | intro _ | with_reducible refine Keeps.lit ?_ rfl rfl rfl rfl

theorem Keeps.repairSpin {s x : State} (h : Keeps s x) (y1 : ℕ) (y2 : Bool) : Keeps s (State.repairSpin x y1 y2) := by
  unfold State.repairSpin
  repeat' first | with_reducible assumption | with_reducible apply Keeps.startSpin | with_reducible apply Keeps.ite | with_reducible apply Keeps.ite1 | with_reducible apply KeepsO.ite | with_reducible apply KeepsO.next | split | dsimp only | intro _ | with_reducible refine Keeps.lit ?_ rfl rfl rfl rfl

theorem Keeps.runUnit {s x : State} (h : Keeps s x) (y1 : ℕ) (y2 : ProcUnit) : Keeps s (State.runUnit y1 x y2) := by
  unfold State.runUnit
  repeat' first | with_reducible assumption | with_reducible apply Keeps.runBus | with_reducible apply Keeps.runDyn | with_reducible apply Keeps.modCsw | with_reducible apply Keeps.ite | with_reducible apply Keeps.ite1 | with_reducible apply KeepsO.ite | with_reducible apply KeepsO.next | split

theorem Keeps.restStep {s x : State} (h : Keeps s x) (y1 : ℕ) (y2 : ℕ) : Keeps s (State.restStep y1 x y2) := by
  unfold State.restStep
  repeat' first | with_reducible assumption | with_reducible refine Keeps.foldS ?_ _ (fun _ _ _ => ?_) _ | with_reducible apply Keeps.putSlot | with_reducible refine Keeps.setCluster ?_ _ _ (fun _ _ => ?_) | with_reducible apply Keeps.wake | with_reducible apply Keeps.ite | with_reducible apply Keeps.ite1 | with_reducible apply KeepsO.ite | with_reducible apply KeepsO.next | with_reducible apply Cluster.Ok.ite | split | dsimp only | intro _ | with_reducible refine Keeps.lit ?_ rfl rfl rfl rfl | with_reducible apply Cluster.Ok.lit

theorem Keeps.round {s x : State} (h : Keeps s x) (y1 : ℕ) : Keeps s (State.round y1 x) := by
  unfold State.round
  repeat' first | with_reducible assumption | with_reducible refine Keeps.foldS ?_ _ (fun _ _ _ => ?_) _ | with_reducible apply Keeps.restStep | with_reducible apply Keeps.runUnit

theorem Cluster.Ok.fillPort {x : Cluster} (h : x.Ok) (y1 : List ℤ) (y2 : InPort) : (Cluster.fillPort y1 y2 x).Ok := by
  refine h.lanesTo rfl rfl (mapBelow_length _ _ _ _) fun hl => mapBelow_all Lane.Ok _ _ _ hl fun l y k => ?_
  split
  · exact ⟨wf_putWords _ k.1 _, k.2⟩
  · exact k

theorem Keeps.fillStep {s x : State} (h : Keeps s x) (y1 y2 y3 : ℕ) : Keeps s (State.fillStep y1 y2 x y3) := by
  unfold State.fillStep
  dsimp only
  split
  · exact h
  · exact .ite h (h.setCluster _ _ fun c k => (k.foldl _ (fun _ _ a => a.fillPort _ _) _).inDone _)

theorem Keeps.fillCluster {s x : State} (h : Keeps s x) (y1 : ℕ) (y2 : ℕ) : Keeps s (State.fillCluster y1 x y2) := by
  unfold State.fillCluster
  repeat' first | with_reducible assumption | with_reducible refine Keeps.foldS ?_ _ (fun _ _ _ => ?_) _ | with_reducible apply Keeps.fillStep | with_reducible apply Keeps.ite

theorem Keeps.advanceProcess {s x : State} (h : Keeps s x) : Keeps s (State.advanceProcess x) := by
  unfold State.advanceProcess
  repeat' first | with_reducible assumption | with_reducible refine Keeps.foldS ?_ _ (fun _ _ _ => ?_) _ | with_reducible apply Keeps.fillCluster | with_reducible refine Keeps.iter ?_ _ (fun _ _ => ?_) _ | with_reducible apply Keeps.round

theorem Keeps.settle {s x : State} (h : Keeps s x) (y1 : ℕ) : Keeps s (State.settle x y1) := by
  unfold State.settle
  repeat' first | with_reducible assumption | with_reducible apply Keeps.ite | with_reducible apply Keeps.ite1 | with_reducible apply KeepsO.ite | with_reducible apply KeepsO.next | split | dsimp only | intro _ | with_reducible refine Keeps.lit ?_ rfl rfl rfl rfl

theorem Keeps.alnStart {s x : State} (h : Keeps s x) (y1 : ℕ) : Keeps s (State.alnStart x y1) := by
  unfold State.alnStart
  repeat' first | with_reducible assumption | with_reducible apply Keeps.ite | with_reducible apply Keeps.ite1 | with_reducible apply KeepsO.ite | with_reducible apply KeepsO.next | split | dsimp only | intro _ | with_reducible refine Keeps.lit ?_ rfl rfl rfl rfl

theorem Cluster.Ok.freshTick {x : Cluster} (h : x.Ok) (y1 : Bool) : (Cluster.freshTick y1 x).Ok := h.lit

theorem Keeps.startProcess {s x : State} (h : Keeps s x) (y1 : ℕ) (y2 : List ℕ) : Keeps s (State.startProcess x y1 y2) := by
  unfold State.startProcess
  have k := ((h.settle y1).alnStart y1).modCsw fun c => { c with proc := y1, ran := [], idle := y2 }
  exact (k.mapClusters (fun e => e.2.freshTick (y2.contains (blkCl e.1))) fun _ a => a.freshTick _).advanceProcess

theorem Keeps.measure {s x : State} (h : Keeps s x) (y1 : ℕ) : Keeps s (State.measure x y1) := by
  unfold State.measure
  repeat' first | with_reducible assumption | with_reducible apply Keeps.ite | with_reducible apply KeepsO.ite | with_reducible apply KeepsO.next | split | dsimp only | intro _ | with_reducible refine Keeps.lit ?_ rfl rfl rfl rfl

theorem Keeps.dropLate {s x : State} (h : Keeps s x) (y1 : ℕ) (y2 : LateUnit) : Keeps s (State.dropLate y1 x y2) := by
  unfold State.dropLate
  repeat' first | with_reducible assumption | with_reducible apply Keeps.modCsw

theorem Keeps.overrun {s x : State} (h : Keeps s x) (y1 : ℕ) : Keeps s (State.overrun x y1) := by
  unfold State.overrun
  repeat' first | with_reducible assumption | with_reducible apply Keeps.raiseT | with_reducible apply Keeps.spareEvent | with_reducible apply Keeps.ite | with_reducible apply Keeps.ite1 | with_reducible apply KeepsO.ite | with_reducible apply KeepsO.next | split | dsimp only | intro _ | with_reducible refine Keeps.lit ?_ rfl rfl rfl rfl

theorem Keeps.noteStates {s x : State} (h : Keeps s x) : Keeps s (State.noteStates x) := by
  unfold State.noteStates
  repeat' first | with_reducible assumption | with_reducible apply Keeps.ite | with_reducible apply Keeps.ite1 | with_reducible apply KeepsO.ite | with_reducible apply KeepsO.next | split | dsimp only | intro _ | with_reducible refine Keeps.lit ?_ rfl rfl rfl rfl

theorem Keeps.runAlns {s x : State} (h : Keeps s x) (y1 : ℕ) : Keeps s (State.runAlns x y1) := by
  unfold State.runAlns
  repeat' first | with_reducible assumption | with_reducible refine Keeps.foldS ?_ _ (fun _ _ _ => ?_) _ | with_reducible apply Keeps.runAln

theorem Keeps.runLate {s x : State} (h : Keeps s x) (y1 : ℕ) (y2 : List LateUnit) : Keeps s (State.runLate x y1 y2) := by
  unfold State.runLate
  repeat' first | with_reducible assumption | with_reducible refine Keeps.foldS ?_ _ (fun _ _ _ => ?_) _ | with_reducible apply Keeps.overrun | with_reducible apply Keeps.dropLate | with_reducible apply Keeps.modCsw

theorem Keeps.endProcess {s x : State} (h : Keeps s x) (y1 : ℕ) (y2 : List LateUnit) : Keeps s (State.endProcess x y1 y2) :=
  have k := (((h.runAlns y1).runLate y1 y2).measure y1).noteStates
  .ite k (k.silProcess _)

theorem Keeps.overrunBlock {s x : State} (h : Keeps s x) (y1 : ℕ) : Keeps s (State.overrunBlock x y1) := by
  unfold State.overrunBlock
  repeat' first | with_reducible assumption | with_reducible apply Keeps.raiseT

end Sys2Proof.Machine
end

