-- ==== Sys2Proof/Laws/KeepsClusterOps.lean ====
section
/-! SUPPORT. Each operation of Machine/ClusterOps.lean keeps what every command respects. -/

namespace Sys2Proof.Machine

theorem wf_memOf (l : List (Nat × Byte)) : Memory.wf (memOf l) = true := wf_foldl _ (fun _ _ k => wf_memSet k _ _) _ rfl

theorem Cluster.Ok.load {c : Cluster} (h : c.Ok) (img : Image) (seed : BitVec 64) : (c.load img seed).Ok :=
  ⟨wf_memOf _, rfl, wf_memOf _, (mapBelow_length _ _ _ _).trans h.2.2.2.1,
    mapBelow_all Lane.Ok _ _ _ h.2.2.2.2 fun _ _ _ => ⟨wf_memOf _, rfl⟩⟩

theorem wf_copyRegions {src dst : List Host.Cell} (h : Memory.wf dst = true) (rs : List (ℕ × ℕ)) : Memory.wf (copyRegions rs src dst) = true :=
  wf_foldl _ (fun _ _ k => wf_memSet k _ _) _ (wf_filter h _)

theorem Cluster.Ok.newParams {x : Cluster} (h : x.Ok) (y1 : Tab Val) : (Cluster.newParams y1 x).Ok :=
  ⟨wf_copyRegions h.1 _, wf_filter h.1 _, h.2.2.1, (mapBelow_length _ _ _ _).trans h.2.2.2.1,
    mapBelow_all Lane.Ok _ _ _ h.2.2.2.2 fun _ _ k => ⟨wf_copyRegions k.1 _, wf_filter k.1 _⟩⟩

theorem Cluster.Ok.loadFor {x : Cluster} (h : x.Ok) (y1 : Tab Val) (y2 : Image) (y3 : BitVec 64) : (Cluster.loadFor x y1 y2 y3).Ok := by
  unfold Cluster.loadFor
  repeat' first | with_reducible assumption | with_reducible apply Cluster.Ok.load | with_reducible apply Cluster.Ok.newParams | with_reducible apply Cluster.Ok.ite

theorem Keeps.drain {s x : State} (h : Keeps s x) (y1 : ℕ) : Keeps s (State.drain x y1) := by
  unfold State.drain
  repeat' first | with_reducible assumption | with_reducible apply Keeps.modCsw | with_reducible apply Keeps.raiseT | with_reducible refine Keeps.foldS ?_ _ (fun _ _ _ => ?_) _ | with_reducible apply Keeps.putSlot | with_reducible apply Keeps.ite

theorem Cluster.Ok.afterStep {x : Cluster} (h : x.Ok) (y1 : Tab Val) (y2 : ℕ) (y3 : ℕ) : (Cluster.afterStep y1 y2 y3 x).Ok := by
  unfold Cluster.afterStep
  repeat' first | with_reducible assumption | with_reducible refine Keeps.foldl ?_ _ (fun _ _ _ => ?_) _ | with_reducible apply Cluster.Ok.foldl | with_reducible apply Cluster.Ok.ite | split | dsimp only | intro _ | with_reducible apply Cluster.Ok.lit

theorem Keeps.lateCommit {s x : State} (h : Keeps s x) (y1 : ℕ) : Keeps s (State.lateCommit x y1) := by
  unfold State.lateCommit
  repeat' first | with_reducible assumption | with_reducible refine Keeps.setCluster ?_ _ _ (fun _ _ => ?_) | with_reducible apply Cluster.Ok.loadFor | with_reducible apply Cluster.Ok.newParams | with_reducible apply Keeps.ite | with_reducible apply Keeps.ite1 | with_reducible apply KeepsO.ite | with_reducible apply KeepsO.next | with_reducible apply Cluster.Ok.ite | split | dsimp only | intro _ | with_reducible refine Keeps.lit ?_ rfl rfl rfl rfl | with_reducible apply Cluster.Ok.lit

theorem Keeps.stepEnds {s x : State} (h : Keeps s x) (y1 : ℕ) : Keeps s (State.stepEnds x y1) := by
  unfold State.stepEnds
  repeat' first | with_reducible assumption | with_reducible apply Keeps.drain | with_reducible refine Keeps.setCluster ?_ _ _ (fun _ _ => ?_) | with_reducible apply Cluster.Ok.afterStep | with_reducible apply Keeps.lateCommit | with_reducible apply Keeps.advanceProcess | with_reducible apply Keeps.ite | with_reducible apply Keeps.ite1 | with_reducible apply KeepsO.ite | with_reducible apply KeepsO.next | with_reducible apply Cluster.Ok.ite | split | dsimp only | intro _ | with_reducible refine Keeps.lit ?_ rfl rfl rfl rfl | with_reducible apply Cluster.Ok.lit

theorem Keeps.issueIn {s x : State} (h : Keeps s x) (y1 : ℕ) (y2 : Cluster → Cluster) (hf : ∀ c : Cluster, c.Ok → (y2 c).Ok) :
    Keeps s (State.issueIn x y1 y2) :=
  have k := h.setCluster y1 y2 hf
  .ite (k.stepEnds _) k

theorem Keeps.containCluster {s x : State} (h : Keeps s x) (y1 : ℕ) : Keeps s (State.containCluster x y1) := by
  unfold State.containCluster
  repeat' first | with_reducible assumption | with_reducible apply Keeps.setWorkSet | with_reducible refine Keeps.setCluster ?_ _ _ (fun _ _ => ?_) | with_reducible apply Keeps.repairSpin | with_reducible apply Keeps.ite | with_reducible apply Keeps.ite1 | with_reducible apply KeepsO.ite | with_reducible apply KeepsO.next | with_reducible apply Cluster.Ok.ite | split | dsimp only | intro _ | with_reducible refine Keeps.lit ?_ rfl rfl rfl rfl | with_reducible apply Cluster.Ok.lit

theorem Keeps.residue {s x : State} (h : Keeps s x) (i : CI) : Keeps s (x.residue i) := by
  unfold State.residue
  dsimp only
  split
  · exact h
  · exact (h.setCluster _ _ fun _ k => k.lit).raise _ _ _ _
  · exact ((((h.setCluster _ _ fun _ k => k.lit).raise _ _ _ _).raise _ _ _ _).spareEvent _).containCluster _

theorem KeepsO.issueCI {s x : State} (h : Keeps s x) (i : CI) (f : Cluster → Cluster) (hf : ∀ c : Cluster, c.Ok → (f c).Ok) :
    KeepsO s (issueCI i f x) :=
  .next ((h.quiet.issueIn _ _ fun _ k => k.issue hf).residue _)

theorem KeepsO.issueRep {s x : State} (h : Keeps s x) (n : Nat) (f : Cluster → Cluster) (hf : ∀ c : Cluster, c.Ok → (f c).Ok) :
    KeepsO s (issueRep n f x) :=
  .next (h.quiet.issueIn _ _ fun _ k => k.issue hf)

theorem KeepsO.issueCtl {s x : State} (h : Keeps s x) (n : Nat) (f : Cluster → Cluster) (hf : ∀ c : Cluster, c.Ok → (f c).Ok) :
    KeepsO s (issueCtl n f x) :=
  .next (h.quiet.issueIn _ _ fun _ k => k.issueOnce hf)

theorem KeepsO.nativeCI {s x : State} (h : Keeps s x) (i : CI) (f : Cluster → Cluster) (hf : ∀ c : Cluster, c.Ok → (f c).Ok) :
    KeepsO s (nativeCI i f x) :=
  .ite (.next h.quiet) (.issueCI h i f hf)

theorem KeepsO.dualCI {s x : State} (h : Keeps s x) (l : DualLoads) (i : CI) (f : Cluster → Cluster) (hf : ∀ c : Cluster, c.Ok → (f c).Ok) :
    KeepsO s (dualCI l i f x) :=
  .ite (.issueCI h i f hf) (.next h.quiet)

theorem KeepsO.evenCI {s x : State} (h : Keeps s x) (dd : ℕ) (i : CI) (f : Cluster → Cluster) (hf : ∀ c : Cluster, c.Ok → (f c).Ok) :
    KeepsO s (evenCI dd i f x) :=
  .ite (.issueCI h i f hf) (.next h.quiet)

theorem KeepsO.nativeEvenCI {s x : State} (h : Keeps s x) (dd : ℕ) (i : CI) (f : Cluster → Cluster) (hf : ∀ c : Cluster, c.Ok → (f c).Ok) :
    KeepsO s (nativeEvenCI dd i f x) :=
  .ite (.nativeCI h i f hf) (.next h.quiet)

end Sys2Proof.Machine
end

