-- ==== Sys2Proof/Laws/KeepsClusterAlu.lean ====
section
/-! SUPPORT. Each operation of Machine/ClusterAlu.lean keeps what every command respects. -/

namespace Sys2Proof.Machine

theorem KeepsO.execAdd {s x : State} (h : Keeps s x) (y1 : CI) (y2 : ℕ) (y3 : ℕ) (y4 : ℕ) : KeepsO s (execAdd y1 y2 y3 y4 x) := by
  unfold Machine.execAdd
  repeat' first | with_reducible assumption | with_reducible apply KeepsO.issueCI | with_reducible apply Cluster.Ok.alu2 | with_reducible apply Keeps.ite | with_reducible apply KeepsO.ite | with_reducible apply KeepsO.next | split | dsimp only | intro _

theorem KeepsO.execSub {s x : State} (h : Keeps s x) (y1 : CI) (y2 : ℕ) (y3 : ℕ) (y4 : ℕ) : KeepsO s (execSub y1 y2 y3 y4 x) := by
  unfold Machine.execSub
  repeat' first | with_reducible assumption | with_reducible apply KeepsO.issueCI | with_reducible apply Cluster.Ok.alu2 | with_reducible apply Keeps.ite | with_reducible apply KeepsO.ite | with_reducible apply KeepsO.next | split | dsimp only | intro _

theorem KeepsO.execAnd {s x : State} (h : Keeps s x) (y1 : CI) (y2 : ℕ) (y3 : ℕ) (y4 : ℕ) : KeepsO s (execAnd y1 y2 y3 y4 x) := by
  unfold Machine.execAnd
  repeat' first | with_reducible assumption | with_reducible apply KeepsO.issueCI | with_reducible apply Cluster.Ok.alu2 | with_reducible apply Keeps.ite | with_reducible apply KeepsO.ite | with_reducible apply KeepsO.next | split | dsimp only | intro _

theorem KeepsO.execOr {s x : State} (h : Keeps s x) (y1 : CI) (y2 : ℕ) (y3 : ℕ) (y4 : ℕ) : KeepsO s (execOr y1 y2 y3 y4 x) := by
  unfold Machine.execOr
  repeat' first | with_reducible assumption | with_reducible apply KeepsO.issueCI | with_reducible apply Cluster.Ok.alu2 | with_reducible apply Keeps.ite | with_reducible apply KeepsO.ite | with_reducible apply KeepsO.next | split | dsimp only | intro _

theorem KeepsO.execXor {s x : State} (h : Keeps s x) (y1 : CI) (y2 : ℕ) (y3 : ℕ) (y4 : ℕ) : KeepsO s (execXor y1 y2 y3 y4 x) := by
  unfold Machine.execXor
  repeat' first | with_reducible assumption | with_reducible apply KeepsO.issueCI | with_reducible apply Cluster.Ok.alu2 | with_reducible apply Keeps.ite | with_reducible apply KeepsO.ite | with_reducible apply KeepsO.next | split | dsimp only | intro _

theorem KeepsO.execAsl {s x : State} (h : Keeps s x) (y1 : CI) (y2 : ℕ) (y3 : ℕ) (y4 : ℕ) : KeepsO s (execAsl y1 y2 y3 y4 x) := by
  unfold Machine.execAsl
  repeat' first | with_reducible assumption | with_reducible apply KeepsO.issueCI | with_reducible apply Cluster.Ok.alu2 | with_reducible apply Keeps.ite | with_reducible apply KeepsO.ite | with_reducible apply KeepsO.next | split | dsimp only | intro _

theorem KeepsO.execAsr {s x : State} (h : Keeps s x) (y1 : CI) (y2 : ℕ) (y3 : ℕ) (y4 : ℕ) : KeepsO s (execAsr y1 y2 y3 y4 x) := by
  unfold Machine.execAsr
  repeat' first | with_reducible assumption | with_reducible apply KeepsO.issueCI | with_reducible apply Cluster.Ok.alu2 | with_reducible apply Keeps.ite | with_reducible apply KeepsO.ite | with_reducible apply KeepsO.next | split | dsimp only | intro _

theorem KeepsO.execLsr {s x : State} (h : Keeps s x) (y1 : CI) (y2 : ℕ) (y3 : ℕ) (y4 : ℕ) : KeepsO s (execLsr y1 y2 y3 y4 x) := by
  unfold Machine.execLsr
  repeat' first | with_reducible assumption | with_reducible apply KeepsO.issueCI | with_reducible apply Cluster.Ok.alu2 | with_reducible apply Keeps.ite | with_reducible apply KeepsO.ite | with_reducible apply KeepsO.next | split | dsimp only | intro _

theorem KeepsO.execMin {s x : State} (h : Keeps s x) (y1 : CI) (y2 : ℕ) (y3 : ℕ) (y4 : ℕ) : KeepsO s (execMin y1 y2 y3 y4 x) := by
  unfold Machine.execMin
  repeat' first | with_reducible assumption | with_reducible apply KeepsO.issueCI | with_reducible apply Cluster.Ok.alu2 | with_reducible apply Keeps.ite | with_reducible apply KeepsO.ite | with_reducible apply KeepsO.next | split | dsimp only | intro _

theorem KeepsO.execMax {s x : State} (h : Keeps s x) (y1 : CI) (y2 : ℕ) (y3 : ℕ) (y4 : ℕ) : KeepsO s (execMax y1 y2 y3 y4 x) := by
  unfold Machine.execMax
  repeat' first | with_reducible assumption | with_reducible apply KeepsO.issueCI | with_reducible apply Cluster.Ok.alu2 | with_reducible apply Keeps.ite | with_reducible apply KeepsO.ite | with_reducible apply KeepsO.next | split | dsimp only | intro _

theorem KeepsO.execMpyr {s x : State} (h : Keeps s x) (y1 : CI) (y2 : ℕ) (y3 : ℕ) (y4 : ℕ) : KeepsO s (execMpyr y1 y2 y3 y4 x) := by
  unfold Machine.execMpyr
  repeat' first | with_reducible assumption | with_reducible apply KeepsO.nativeCI | with_reducible apply Cluster.Ok.alu2 | with_reducible apply Keeps.ite | with_reducible apply KeepsO.ite | with_reducible apply KeepsO.next | split | dsimp only | intro _

theorem KeepsO.execNeg {s x : State} (h : Keeps s x) (y1 : CI) (y2 : ℕ) (y3 : ℕ) : KeepsO s (execNeg y1 y2 y3 x) := by
  unfold Machine.execNeg
  repeat' first | with_reducible assumption | with_reducible apply KeepsO.issueCI | with_reducible apply Cluster.Ok.alu1 | with_reducible apply Keeps.ite | with_reducible apply KeepsO.ite | with_reducible apply KeepsO.next | split | dsimp only | intro _

theorem KeepsO.execAbs {s x : State} (h : Keeps s x) (y1 : CI) (y2 : ℕ) (y3 : ℕ) : KeepsO s (execAbs y1 y2 y3 x) := by
  unfold Machine.execAbs
  repeat' first | with_reducible assumption | with_reducible apply KeepsO.issueCI | with_reducible apply Cluster.Ok.alu1 | with_reducible apply Keeps.ite | with_reducible apply KeepsO.ite | with_reducible apply KeepsO.next | split | dsimp only | intro _

theorem KeepsO.execNot {s x : State} (h : Keeps s x) (y1 : CI) (y2 : ℕ) (y3 : ℕ) : KeepsO s (execNot y1 y2 y3 x) := by
  unfold Machine.execNot
  repeat' first | with_reducible assumption | with_reducible apply KeepsO.issueCI | with_reducible apply Cluster.Ok.alu1 | with_reducible apply Keeps.ite | with_reducible apply KeepsO.ite | with_reducible apply KeepsO.next | split | dsimp only | intro _

theorem KeepsO.execCmp {s x : State} (h : Keeps s x) (y1 : CI) (y2 : ℕ) (y3 : ℕ) : KeepsO s (execCmp y1 y2 y3 x) := by
  unfold Machine.execCmp
  repeat' first | with_reducible assumption | with_reducible apply KeepsO.issueCI | with_reducible apply Cluster.Ok.cmpOp | with_reducible apply Keeps.ite | with_reducible apply KeepsO.ite | with_reducible apply KeepsO.next | split | dsimp only | intro _

theorem KeepsO.execSel {s x : State} (h : Keeps s x) (y1 : CI) (y2 : ℕ) (y3 : ℕ) (y4 : ℕ) (y5 : ℕ) : KeepsO s (execSel y1 y2 y3 y4 y5 x) := by
  unfold Machine.execSel
  repeat' first | with_reducible assumption | with_reducible apply KeepsO.issueCI | with_reducible apply Cluster.Ok.aluOp | with_reducible apply Keeps.ite | with_reducible apply KeepsO.ite | with_reducible apply KeepsO.next | split | dsimp only | intro _

theorem KeepsO.execMov {s x : State} (h : Keeps s x) (y1 : CI) (y2 : ℕ) (y3 : ℕ) : KeepsO s (execMov y1 y2 y3 x) := by
  unfold Machine.execMov
  repeat' first | with_reducible assumption | with_reducible apply KeepsO.issueCI | with_reducible apply Cluster.Ok.alu1 | with_reducible apply Keeps.ite | with_reducible apply KeepsO.ite | with_reducible apply KeepsO.next | split | dsimp only | intro _

theorem KeepsO.execAluiAdd {s x : State} (h : Keeps s x) (y1 : CI) (y2 : ℕ) (y3 : ℕ) (y4 : Word) : KeepsO s (execAluiAdd y1 y2 y3 y4 x) := by
  unfold Machine.execAluiAdd
  repeat' first | with_reducible assumption | with_reducible apply KeepsO.issueCI | with_reducible apply Cluster.Ok.aluI | with_reducible apply Keeps.ite | with_reducible apply KeepsO.ite | with_reducible apply KeepsO.next | split | dsimp only | intro _

theorem KeepsO.execAluiSub {s x : State} (h : Keeps s x) (y1 : CI) (y2 : ℕ) (y3 : ℕ) (y4 : Word) : KeepsO s (execAluiSub y1 y2 y3 y4 x) := by
  unfold Machine.execAluiSub
  repeat' first | with_reducible assumption | with_reducible apply KeepsO.issueCI | with_reducible apply Cluster.Ok.aluI | with_reducible apply Keeps.ite | with_reducible apply KeepsO.ite | with_reducible apply KeepsO.next | split | dsimp only | intro _

theorem KeepsO.execAluiAnd {s x : State} (h : Keeps s x) (y1 : CI) (y2 : ℕ) (y3 : ℕ) (y4 : Word) : KeepsO s (execAluiAnd y1 y2 y3 y4 x) := by
  unfold Machine.execAluiAnd
  repeat' first | with_reducible assumption | with_reducible apply KeepsO.issueCI | with_reducible apply Cluster.Ok.aluI | with_reducible apply Keeps.ite | with_reducible apply KeepsO.ite | with_reducible apply KeepsO.next | split | dsimp only | intro _

theorem KeepsO.execAluiOr {s x : State} (h : Keeps s x) (y1 : CI) (y2 : ℕ) (y3 : ℕ) (y4 : Word) : KeepsO s (execAluiOr y1 y2 y3 y4 x) := by
  unfold Machine.execAluiOr
  repeat' first | with_reducible assumption | with_reducible apply KeepsO.issueCI | with_reducible apply Cluster.Ok.aluI | with_reducible apply Keeps.ite | with_reducible apply KeepsO.ite | with_reducible apply KeepsO.next | split | dsimp only | intro _

theorem KeepsO.execAluiXor {s x : State} (h : Keeps s x) (y1 : CI) (y2 : ℕ) (y3 : ℕ) (y4 : Word) : KeepsO s (execAluiXor y1 y2 y3 y4 x) := by
  unfold Machine.execAluiXor
  repeat' first | with_reducible assumption | with_reducible apply KeepsO.issueCI | with_reducible apply Cluster.Ok.aluI | with_reducible apply Keeps.ite | with_reducible apply KeepsO.ite | with_reducible apply KeepsO.next | split | dsimp only | intro _

theorem KeepsO.execAluiAsl {s x : State} (h : Keeps s x) (y1 : CI) (y2 : ℕ) (y3 : ℕ) (y4 : Word) : KeepsO s (execAluiAsl y1 y2 y3 y4 x) := by
  unfold Machine.execAluiAsl
  repeat' first | with_reducible assumption | with_reducible apply KeepsO.issueCI | with_reducible apply Cluster.Ok.aluI | with_reducible apply Keeps.ite | with_reducible apply KeepsO.ite | with_reducible apply KeepsO.next | split | dsimp only | intro _

theorem KeepsO.execAluiAsr {s x : State} (h : Keeps s x) (y1 : CI) (y2 : ℕ) (y3 : ℕ) (y4 : Word) : KeepsO s (execAluiAsr y1 y2 y3 y4 x) := by
  unfold Machine.execAluiAsr
  repeat' first | with_reducible assumption | with_reducible apply KeepsO.issueCI | with_reducible apply Cluster.Ok.aluI | with_reducible apply Keeps.ite | with_reducible apply KeepsO.ite | with_reducible apply KeepsO.next | split | dsimp only | intro _

theorem KeepsO.execAluiLsr {s x : State} (h : Keeps s x) (y1 : CI) (y2 : ℕ) (y3 : ℕ) (y4 : Word) : KeepsO s (execAluiLsr y1 y2 y3 y4 x) := by
  unfold Machine.execAluiLsr
  repeat' first | with_reducible assumption | with_reducible apply KeepsO.issueCI | with_reducible apply Cluster.Ok.aluI | with_reducible apply Keeps.ite | with_reducible apply KeepsO.ite | with_reducible apply KeepsO.next | split | dsimp only | intro _

theorem KeepsO.execAluiMin {s x : State} (h : Keeps s x) (y1 : CI) (y2 : ℕ) (y3 : ℕ) (y4 : Word) : KeepsO s (execAluiMin y1 y2 y3 y4 x) := by
  unfold Machine.execAluiMin
  repeat' first | with_reducible assumption | with_reducible apply KeepsO.issueCI | with_reducible apply Cluster.Ok.aluI | with_reducible apply Keeps.ite | with_reducible apply KeepsO.ite | with_reducible apply KeepsO.next | split | dsimp only | intro _

theorem KeepsO.execAluiMax {s x : State} (h : Keeps s x) (y1 : CI) (y2 : ℕ) (y3 : ℕ) (y4 : Word) : KeepsO s (execAluiMax y1 y2 y3 y4 x) := by
  unfold Machine.execAluiMax
  repeat' first | with_reducible assumption | with_reducible apply KeepsO.issueCI | with_reducible apply Cluster.Ok.aluI | with_reducible apply Keeps.ite | with_reducible apply KeepsO.ite | with_reducible apply KeepsO.next | split | dsimp only | intro _

theorem KeepsO.execAluiCmp {s x : State} (h : Keeps s x) (y1 : CI) (y2 : ℕ) (y3 : Word) : KeepsO s (execAluiCmp y1 y2 y3 x) := by
  unfold Machine.execAluiCmp
  repeat' first | with_reducible assumption | with_reducible apply KeepsO.issueCI | with_reducible apply Cluster.Ok.cmpOp | with_reducible apply Keeps.ite | with_reducible apply KeepsO.ite | with_reducible apply KeepsO.next | split | dsimp only | intro _

theorem KeepsO.execAluiMov {s x : State} (h : Keeps s x) (y1 : CI) (y2 : ℕ) (y3 : Word) : KeepsO s (execAluiMov y1 y2 y3 x) := by
  unfold Machine.execAluiMov
  repeat' first | with_reducible assumption | with_reducible apply KeepsO.issueCI | with_reducible apply Cluster.Ok.aluOp | with_reducible apply Keeps.ite | with_reducible apply KeepsO.ite | with_reducible apply KeepsO.next | split | dsimp only | intro _

theorem KeepsO.execMaxi {s x : State} (h : Keeps s x) (y1 : CI) (y2 : ℕ) (y3 : ℕ) (y4 : ℕ) : KeepsO s (Machine.execMaxi y1 y2 y3 y4 x) := by
  unfold Machine.execMaxi
  repeat' first | with_reducible assumption | with_reducible apply KeepsO.evenCI | with_reducible apply Cluster.Ok.searchOp | with_reducible apply Keeps.ite | with_reducible apply Keeps.ite1 | with_reducible apply KeepsO.ite | with_reducible apply KeepsO.next | split | dsimp only | intro _

theorem KeepsO.execMini {s x : State} (h : Keeps s x) (y1 : CI) (y2 : ℕ) (y3 : ℕ) (y4 : ℕ) : KeepsO s (Machine.execMini y1 y2 y3 y4 x) := by
  unfold Machine.execMini
  repeat' first | with_reducible assumption | with_reducible apply KeepsO.evenCI | with_reducible apply Cluster.Ok.searchOp | with_reducible apply Keeps.ite | with_reducible apply Keeps.ite1 | with_reducible apply KeepsO.ite | with_reducible apply KeepsO.next | split | dsimp only | intro _

theorem KeepsO.execRmax {s x : State} (h : Keeps s x) (y1 : CI) (y2 : ℕ) (y3 : ℕ) : KeepsO s (Machine.execRmax y1 y2 y3 x) := by
  unfold Machine.execRmax
  repeat' first | with_reducible assumption | with_reducible apply KeepsO.nativeEvenCI | with_reducible apply Cluster.Ok.reduceOp | with_reducible apply Keeps.ite | with_reducible apply Keeps.ite1 | with_reducible apply KeepsO.ite | with_reducible apply KeepsO.next | split | dsimp only | intro _

theorem KeepsO.execRmin {s x : State} (h : Keeps s x) (y1 : CI) (y2 : ℕ) (y3 : ℕ) : KeepsO s (Machine.execRmin y1 y2 y3 x) := by
  unfold Machine.execRmin
  repeat' first | with_reducible assumption | with_reducible apply KeepsO.nativeEvenCI | with_reducible apply Cluster.Ok.reduceOp | with_reducible apply Keeps.ite | with_reducible apply Keeps.ite1 | with_reducible apply KeepsO.ite | with_reducible apply KeepsO.next | split | dsimp only | intro _

theorem KeepsO.execRnd {s x : State} (h : Keeps s x) (y1 : CI) (y2 : ℕ) : KeepsO s (execRnd y1 y2 x) := by
  unfold Machine.execRnd
  repeat' first | with_reducible assumption | with_reducible apply KeepsO.nativeCI | with_reducible apply Cluster.Ok.rndOp | with_reducible apply Keeps.ite | with_reducible apply KeepsO.ite | with_reducible apply KeepsO.next | split | dsimp only | intro _

theorem KeepsO.execLid {s x : State} (h : Keeps s x) (y1 : CI) (y2 : ℕ) : KeepsO s (execLid y1 y2 x) := by
  unfold Machine.execLid
  repeat' first | with_reducible assumption | with_reducible apply KeepsO.issueCI | with_reducible apply Cluster.Ok.putOp | with_reducible apply Keeps.ite | with_reducible apply KeepsO.ite | with_reducible apply KeepsO.next | split | dsimp only | intro _

theorem KeepsO.execRdflg {s x : State} (h : Keeps s x) (y1 : CI) (y2 : ℕ) : KeepsO s (execRdflg y1 y2 x) := by
  unfold Machine.execRdflg
  repeat' first | with_reducible assumption | with_reducible apply KeepsO.issueCI | with_reducible apply Cluster.Ok.putOp | with_reducible apply Keeps.ite | with_reducible apply KeepsO.ite | with_reducible apply KeepsO.next | split | dsimp only | intro _

theorem KeepsO.execClrflg {s x : State} (h : Keeps s x) (i : CI) (k : Nat) : KeepsO s (execClrflg i k x) :=
  .issueCI h i _ fun _ k => k.onLanes _ fun _ _ m => m

end Sys2Proof.Machine
end

