-- ==== Sys2Proof/Laws/KeepsClusterAcc.lean ====
section
/-! SUPPORT. Each operation of Machine/ClusterAcc.lean keeps what every command respects. -/

namespace Sys2Proof.Machine

theorem KeepsO.execMpy {s x : State} (h : Keeps s x) (y1 : CI) (y2 : ℕ) (y3 : ℕ) (y4 : ℕ) : KeepsO s (execMpy y1 y2 y3 y4 x) := by
  unfold Machine.execMpy
  repeat' first | with_reducible assumption | with_reducible apply KeepsO.issueCI | with_reducible apply Cluster.Ok.accOp | with_reducible apply Keeps.ite | with_reducible apply KeepsO.ite | with_reducible apply KeepsO.next | split | dsimp only | intro _

theorem KeepsO.execMac {s x : State} (h : Keeps s x) (y1 : CI) (y2 : ℕ) (y3 : ℕ) (y4 : ℕ) : KeepsO s (execMac y1 y2 y3 y4 x) := by
  unfold Machine.execMac
  repeat' first | with_reducible assumption | with_reducible apply KeepsO.issueCI | with_reducible apply Cluster.Ok.accOp | with_reducible apply Keeps.ite | with_reducible apply KeepsO.ite | with_reducible apply KeepsO.next | split | dsimp only | intro _

theorem KeepsO.execMsu {s x : State} (h : Keeps s x) (y1 : CI) (y2 : ℕ) (y3 : ℕ) (y4 : ℕ) : KeepsO s (execMsu y1 y2 y3 y4 x) := by
  unfold Machine.execMsu
  repeat' first | with_reducible assumption | with_reducible apply KeepsO.issueCI | with_reducible apply Cluster.Ok.accOp | with_reducible apply Keeps.ite | with_reducible apply KeepsO.ite | with_reducible apply KeepsO.next | split | dsimp only | intro _

theorem KeepsO.execClra {s x : State} (h : Keeps s x) (y1 : CI) (y2 : ℕ) : KeepsO s (execClra y1 y2 x) := by
  unfold Machine.execClra
  repeat' first | with_reducible assumption | with_reducible apply KeepsO.issueCI | with_reducible apply Cluster.Ok.accOp | with_reducible apply Keeps.ite | with_reducible apply KeepsO.ite | with_reducible apply KeepsO.next | split | dsimp only | intro _

theorem KeepsO.execMova {s x : State} (h : Keeps s x) (y1 : CI) (y2 : ℕ) (y3 : ℕ) : KeepsO s (execMova y1 y2 y3 x) := by
  unfold Machine.execMova
  repeat' first | with_reducible assumption | with_reducible apply KeepsO.issueCI | with_reducible apply Cluster.Ok.accOp | with_reducible apply Keeps.ite | with_reducible apply KeepsO.ite | with_reducible apply KeepsO.next | split | dsimp only | intro _

theorem KeepsO.execAdda {s x : State} (h : Keeps s x) (y1 : CI) (y2 : ℕ) (y3 : ℕ) : KeepsO s (execAdda y1 y2 y3 x) := by
  unfold Machine.execAdda
  repeat' first | with_reducible assumption | with_reducible apply KeepsO.issueCI | with_reducible apply Cluster.Ok.accOp | with_reducible apply Keeps.ite | with_reducible apply KeepsO.ite | with_reducible apply KeepsO.next | split | dsimp only | intro _

theorem KeepsO.execSuba {s x : State} (h : Keeps s x) (y1 : CI) (y2 : ℕ) (y3 : ℕ) : KeepsO s (execSuba y1 y2 y3 x) := by
  unfold Machine.execSuba
  repeat' first | with_reducible assumption | with_reducible apply KeepsO.issueCI | with_reducible apply Cluster.Ok.accOp | with_reducible apply Keeps.ite | with_reducible apply KeepsO.ite | with_reducible apply KeepsO.next | split | dsimp only | intro _

theorem KeepsO.execLda {s x : State} (h : Keeps s x) (y1 : CI) (y2 : ℕ) (y3 : ℕ) (y4 : ℕ) : KeepsO s (execLda y1 y2 y3 y4 x) := by
  unfold Machine.execLda
  repeat' first | with_reducible assumption | with_reducible apply Keeps.quiet | with_reducible apply KeepsO.issueCI | with_reducible apply Cluster.Ok.accOp | with_reducible apply Keeps.ite | with_reducible apply KeepsO.ite | with_reducible apply KeepsO.next | split | dsimp only | intro _

theorem KeepsO.execAsla {s x : State} (h : Keeps s x) (y1 : CI) (y2 : ℕ) (y3 : ℕ) : KeepsO s (execAsla y1 y2 y3 x) := by
  unfold Machine.execAsla
  repeat' first | with_reducible assumption | with_reducible apply KeepsO.issueCI | with_reducible apply Cluster.Ok.accOp | with_reducible apply Keeps.ite | with_reducible apply KeepsO.ite | with_reducible apply KeepsO.next | split | dsimp only | intro _

theorem KeepsO.execAsra {s x : State} (h : Keeps s x) (y1 : CI) (y2 : ℕ) (y3 : ℕ) : KeepsO s (execAsra y1 y2 y3 x) := by
  unfold Machine.execAsra
  repeat' first | with_reducible assumption | with_reducible apply KeepsO.issueCI | with_reducible apply Cluster.Ok.accOp | with_reducible apply Keeps.ite | with_reducible apply KeepsO.ite | with_reducible apply KeepsO.next | split | dsimp only | intro _

theorem KeepsO.execNega {s x : State} (h : Keeps s x) (y1 : CI) (y2 : ℕ) : KeepsO s (execNega y1 y2 x) := by
  unfold Machine.execNega
  repeat' first | with_reducible assumption | with_reducible apply KeepsO.issueCI | with_reducible apply Cluster.Ok.accOp | with_reducible apply Keeps.ite | with_reducible apply KeepsO.ite | with_reducible apply KeepsO.next | split | dsimp only | intro _

theorem KeepsO.execSav {s x : State} (h : Keeps s x) (y1 : CI) (y2 : ℕ) (y3 : ℕ) (y4 : ℕ) (y5 : Bool) : KeepsO s (execSav y1 y2 y3 y4 y5 x) := by
  unfold Machine.execSav
  repeat' first | with_reducible assumption | with_reducible apply KeepsO.issueCI | with_reducible apply Cluster.Ok.savOp | with_reducible apply Keeps.ite | with_reducible apply KeepsO.ite | with_reducible apply KeepsO.next | split | dsimp only | intro _

end Sys2Proof.Machine
end

