-- ==== Sys2Proof/Laws/KeepsClusterMem.lean ====
section
/-! SUPPORT. Each operation of Machine/ClusterMem.lean keeps what every command respects. -/

namespace Sys2Proof.Machine

theorem KeepsO.execLdd {s x : State} (h : Keeps s x) (y1 : CI) (y2 : DualLoads) : KeepsO s (Machine.execLdd y1 y2 x) := by
  unfold Machine.execLdd
  repeat' first | with_reducible assumption | with_reducible apply KeepsO.dualCI | with_reducible apply Cluster.Ok.dualLoads | with_reducible apply Keeps.ite | with_reducible apply Keeps.ite1 | with_reducible apply KeepsO.ite | with_reducible apply KeepsO.next | split | dsimp only | intro _

theorem KeepsO.execMpyl {s x : State} (h : Keeps s x) (y1 : CI) (y2 : ℕ) (y3 : ℕ) (y4 : ℕ) (y5 : DualLoads) : KeepsO s (Machine.execMpyl y1 y2 y3 y4 y5 x) := by
  unfold Machine.execMpyl
  repeat' first | with_reducible assumption | with_reducible apply KeepsO.dualCI | with_reducible apply Cluster.Ok.dualLoads | with_reducible apply Cluster.Ok.accOp | with_reducible apply Keeps.ite | with_reducible apply Keeps.ite1 | with_reducible apply KeepsO.ite | with_reducible apply KeepsO.next | split | dsimp only | intro _

theorem KeepsO.execMacl {s x : State} (h : Keeps s x) (y1 : CI) (y2 : ℕ) (y3 : ℕ) (y4 : ℕ) (y5 : DualLoads) : KeepsO s (Machine.execMacl y1 y2 y3 y4 y5 x) := by
  unfold Machine.execMacl
  repeat' first | with_reducible assumption | with_reducible apply KeepsO.dualCI | with_reducible apply Cluster.Ok.dualLoads | with_reducible apply Cluster.Ok.accOp | with_reducible apply Keeps.ite | with_reducible apply Keeps.ite1 | with_reducible apply KeepsO.ite | with_reducible apply KeepsO.next | split | dsimp only | intro _

theorem KeepsO.execMsul {s x : State} (h : Keeps s x) (y1 : CI) (y2 : ℕ) (y3 : ℕ) (y4 : ℕ) (y5 : DualLoads) : KeepsO s (Machine.execMsul y1 y2 y3 y4 y5 x) := by
  unfold Machine.execMsul
  repeat' first | with_reducible assumption | with_reducible apply KeepsO.dualCI | with_reducible apply Cluster.Ok.dualLoads | with_reducible apply Cluster.Ok.accOp | with_reducible apply Keeps.ite | with_reducible apply Keeps.ite1 | with_reducible apply KeepsO.ite | with_reducible apply KeepsO.next | split | dsimp only | intro _

theorem KeepsO.execLd {s x : State} (h : Keeps s x) (y1 : ℕ) (y2 : ℕ) (y3 : EA) : KeepsO s (execLd y1 y2 y3 x) := by
  unfold Machine.execLd
  repeat' first | with_reducible assumption | with_reducible apply KeepsO.issueRep | with_reducible apply Cluster.Ok.afterEA | with_reducible apply Cluster.Ok.loadInto | with_reducible apply Keeps.ite | with_reducible apply KeepsO.ite | with_reducible apply KeepsO.next | split | dsimp only | intro _

theorem KeepsO.execSt {s x : State} (h : Keeps s x) (y1 : ℕ) (y2 : ℕ) (y3 : EA) : KeepsO s (execSt y1 y2 y3 x) := by
  unfold Machine.execSt
  repeat' first | with_reducible assumption | with_reducible apply KeepsO.issueRep | with_reducible apply Cluster.Ok.afterEA | with_reducible apply Cluster.Ok.storeFrom | with_reducible apply Keeps.ite | with_reducible apply KeepsO.ite | with_reducible apply KeepsO.next | split | dsimp only | intro _

theorem KeepsO.execModp {s x : State} (h : Keeps s x) (y1 : ℕ) (y2 : EA) : KeepsO s (execModp y1 y2 x) := by
  unfold Machine.execModp
  repeat' first | with_reducible assumption | with_reducible apply KeepsO.issueRep | with_reducible apply Cluster.Ok.afterEA | with_reducible apply Keeps.ite | with_reducible apply KeepsO.ite | with_reducible apply KeepsO.next | split | dsimp only | intro _

theorem KeepsO.execMvr {s x : State} (h : Keeps s x) (y1 : ℕ) (y2 : ℕ) (y3 : ℕ) : KeepsO s (execMvr y1 y2 y3 x) := by
  unfold Machine.execMvr
  repeat' first | with_reducible assumption | with_reducible apply KeepsO.issueCtl | with_reducible apply Cluster.Ok.mvrOp | with_reducible apply Keeps.ite | with_reducible apply KeepsO.ite | with_reducible apply KeepsO.next | split | dsimp only | intro _

theorem KeepsO.execMvi {s x : State} (h : Keeps s x) (y1 : ℕ) (y2 : ℕ) (y3 : ℕ) : KeepsO s (execMvi y1 y2 y3 x) := by
  unfold Machine.execMvi
  repeat' first | with_reducible assumption | with_reducible apply KeepsO.issueCtl | with_reducible apply Cluster.Ok.mviOp | with_reducible apply Keeps.ite | with_reducible apply KeepsO.ite | with_reducible apply KeepsO.next | split | dsimp only | intro _

end Sys2Proof.Machine
end

