-- ==== Sys2Proof/Laws/KeepsClusterCtl.lean ====
section
/-! SUPPORT. Each operation of Machine/ClusterCtl.lean keeps what every command respects. -/

namespace Sys2Proof.Machine

theorem KeepsO.execNop {s x : State} (h : Keeps s x) (n : Nat) : KeepsO s (execNop n x) := .issueCtl h _ _ fun _ k => k

theorem KeepsO.execBr {s x : State} (h : Keeps s x) (y1 : ℕ) (y2 : ℕ) (y3 : ℕ) (y4 : ℕ) : KeepsO s (execBr y1 y2 y3 y4 x) := by
  unfold Machine.execBr
  repeat' first | with_reducible assumption | with_reducible apply KeepsO.issueCtl | with_reducible apply Cluster.Ok.branchTo | with_reducible apply Keeps.ite | with_reducible apply KeepsO.ite | with_reducible apply KeepsO.next | split | dsimp only | intro _

theorem KeepsO.execCall {s x : State} (h : Keeps s x) (y1 : ℕ) (y2 : ℕ) : KeepsO s (execCall y1 y2 x) := by
  unfold Machine.execCall
  repeat' first | with_reducible assumption | with_reducible apply KeepsO.issueCtl | with_reducible apply Cluster.Ok.branchTo | with_reducible apply Cluster.Ok.setShared | with_reducible apply Keeps.ite | with_reducible apply KeepsO.ite | with_reducible apply KeepsO.next | split | dsimp only | intro _

theorem KeepsO.execRet {s x : State} (h : Keeps s x) (y1 : ℕ) : KeepsO s (execRet y1 x) := by
  unfold Machine.execRet
  repeat' first | with_reducible assumption | with_reducible apply KeepsO.issueCtl | with_reducible apply Cluster.Ok.branchTo | with_reducible apply Keeps.ite | with_reducible apply KeepsO.ite | with_reducible apply KeepsO.next | split | dsimp only | intro _

theorem KeepsO.execReti {s x : State} (h : Keeps s x) (y1 : ℕ) : KeepsO s (execReti y1 x) := by
  unfold Machine.execReti
  repeat' first | with_reducible assumption | with_reducible apply KeepsO.issueCtl | with_reducible apply Cluster.Ok.branchTo | with_reducible apply Keeps.ite | with_reducible apply KeepsO.ite | with_reducible apply KeepsO.next | split | dsimp only | intro _

theorem KeepsO.execTrap {s x : State} (h : Keeps s x) (y1 : ℕ) : KeepsO s (execTrap y1 x) := by
  unfold Machine.execTrap
  repeat' first | with_reducible assumption | with_reducible apply KeepsO.issueCtl | with_reducible apply Cluster.Ok.pendSource | with_reducible apply Keeps.ite | with_reducible apply KeepsO.ite | with_reducible apply KeepsO.next | split | dsimp only | intro _

theorem KeepsO.execEnds {s x : State} (h : Keeps s x) (n : Nat) : KeepsO s (execEnds n x) := by
  unfold Machine.execEnds
  refine .ite (.issueCtl h n _ fun _ k => k) (.next ?_)
  have k : Keeps s (x.quiet.setCluster n (Cluster.issueOnce fun c =>
      { (c.branchTo .ends) with cycles := (x.cluster n).tickCycles n, peak := max c.peak ((x.cluster n).tickCycles n) })) :=
    h.quiet.setCluster _ _ fun _ k => k.issueOnce fun _ k => k.lit
  exact .ite ((k.raiseT _ _ _ _).spareEvent _) k

theorem KeepsO.execLoop {s x : State} (h : Keeps s x) (y1 : ℕ) (y2 : ℕ) (y3 : ℕ) : KeepsO s (execLoop y1 y2 y3 x) := by
  unfold Machine.execLoop
  repeat' first | with_reducible assumption | with_reducible apply Keeps.setCluster | with_reducible apply Keeps.quiet | with_reducible apply Cluster.Ok.ageAll | with_reducible apply Cluster.Ok.stepOver | with_reducible apply Cluster.Ok.startLoop | with_reducible apply Keeps.ite | with_reducible apply KeepsO.ite | with_reducible apply KeepsO.next | split | dsimp only | intro _

theorem KeepsO.execLoopp {s x : State} (h : Keeps s x) (y1 : ℕ) (y2 : ℕ) (y3 : ℕ) : KeepsO s (Machine.execLoopp y1 y2 y3 x) := by
  unfold Machine.execLoopp
  repeat' first | with_reducible assumption | with_reducible apply Keeps.quiet | with_reducible refine Keeps.setCluster ?_ _ _ (fun _ _ => ?_) | with_reducible apply Cluster.Ok.ageAll | with_reducible apply Cluster.Ok.nestLoop | with_reducible apply Cluster.Ok.stepOver | with_reducible apply Cluster.Ok.startLoop | with_reducible apply Keeps.ite | with_reducible apply Keeps.ite1 | with_reducible apply KeepsO.ite | with_reducible apply KeepsO.next | with_reducible apply Cluster.Ok.ite

theorem KeepsO.execRpt {s x : State} (h : Keeps s x) (y1 : ℕ) (y2 : ℕ) : KeepsO s (execRpt y1 y2 x) := by
  unfold Machine.execRpt
  repeat' first | with_reducible assumption | with_reducible apply Keeps.setCluster | with_reducible apply Keeps.quiet | with_reducible apply Keeps.ite | with_reducible apply KeepsO.ite | with_reducible apply KeepsO.next | split | dsimp only | intro _ | with_reducible refine Keeps.lit ?_ rfl rfl rfl rfl | with_reducible apply Cluster.Ok.lit

theorem KeepsO.leaveLoop {s x : State} (h : Keeps s x) (y1 : ℕ) : KeepsO s (leaveLoop y1 x) := by
  unfold Machine.leaveLoop
  repeat' first | with_reducible assumption | with_reducible apply Keeps.quiet | with_reducible apply Keeps.setCluster | with_reducible apply Cluster.Ok.ageAll | with_reducible apply Cluster.Ok.stepOver | with_reducible apply Cluster.Ok.popLoop | with_reducible apply Keeps.ite | with_reducible apply KeepsO.ite | with_reducible apply KeepsO.next | split | dsimp only | intro _

theorem KeepsO.execDi {s x : State} (h : Keeps s x) (n : Nat) : KeepsO s (execDi n x) := .issueCtl h _ _ fun _ k => k.lit

theorem KeepsO.execEi {s x : State} (h : Keeps s x) (n : Nat) : KeepsO s (execEi n x) := .issueCtl h _ _ fun _ k => k.lit

theorem KeepsO.execInterruptEntry {s x : State} (h : Keeps s x) (y1 : ℕ) : KeepsO s (execInterruptEntry y1 x) := by
  unfold Machine.execInterruptEntry
  repeat' first | with_reducible assumption | with_reducible apply Keeps.setCluster | with_reducible apply Keeps.quiet | with_reducible apply Cluster.Ok.enterHandler | with_reducible apply Keeps.ite | with_reducible apply KeepsO.ite | with_reducible apply KeepsO.next | split | dsimp only | intro _

theorem KeepsO.execClusterStepStart {s x : State} (h : Keeps s x) (y1 : ℕ) (y2 : ℕ) : KeepsO s (Machine.execClusterStepStart y1 y2 x) := by
  unfold Machine.execClusterStepStart
  repeat' first | with_reducible assumption | with_reducible apply Keeps.quiet | with_reducible apply Keeps.raise | with_reducible apply Keeps.fillStep | with_reducible refine Keeps.setCluster ?_ _ _ (fun _ _ => ?_) | with_reducible apply Cluster.Ok.startStep | with_reducible apply Keeps.ite | with_reducible apply Keeps.ite1 | with_reducible apply KeepsO.ite | with_reducible apply KeepsO.next | with_reducible apply Cluster.Ok.ite | split | dsimp only | intro _ | with_reducible refine Keeps.lit ?_ rfl rfl rfl rfl

end Sys2Proof.Machine
end

