-- ==== Sys2Proof/Laws/KeepsSpare.lean ====
section
/-! SUPPORT. Each operation of Machine/Spare.lean keeps what every command respects. -/

namespace Sys2Proof.Machine

theorem Keeps.spinCommand {s x : State} (h : Keeps s x) (y1 : ℕ) (y2 : ℕ) (y3 : Bool) : Keeps s (State.spinCommand x y1 y2 y3) := by
  unfold State.spinCommand
  repeat' first | with_reducible assumption | with_reducible apply Keeps.setCommon | with_reducible apply Keeps.startSpin | with_reducible apply Keeps.ite | with_reducible apply KeepsO.ite | with_reducible apply KeepsO.next | split | dsimp only | intro _ | with_reducible refine Keeps.lit ?_ rfl rfl rfl rfl

theorem Keeps.spinAbandon {s x : State} (h : Keeps s x) (y1 : ℕ) : Keeps s (State.spinAbandon x y1) := by
  unfold State.spinAbandon
  repeat' first | with_reducible assumption | with_reducible apply Keeps.setCluster | with_reducible apply Keeps.ite | with_reducible apply KeepsO.ite | with_reducible apply KeepsO.next | split | dsimp only | intro _ | with_reducible refine Keeps.lit ?_ rfl rfl rfl rfl | with_reducible apply Cluster.Ok.lit

theorem KeepsO.execSpareIn {s x : State} (h : Keeps s x) (y1 : ℕ) (y2 : Bool) : KeepsO s (execSpareIn y1 y2 x) := by
  unfold Machine.execSpareIn
  repeat' first | with_reducible assumption | with_reducible apply Keeps.repairSpin | with_reducible apply Keeps.quiet | with_reducible apply Keeps.ite | with_reducible apply KeepsO.ite | with_reducible apply KeepsO.next

theorem sweepLanes_ok (img : Image) (as : List Lane) {bs : List Lane} (hb : ∀ l ∈ bs, l.Ok) :
    (sweepLanes img as bs).length = bs.length ∧ ∀ l ∈ sweepLanes img as bs, l.Ok := by
  induction as generalizing bs with
  | nil => unfold sweepLanes; exact ⟨rfl, hb⟩
  | cons a as ih =>
    cases bs with
    | nil => unfold sweepLanes; exact ⟨rfl, hb⟩
    | cons b bs =>
      have ⟨i1, i2⟩ := ih (bs := bs) (fun l m => hb l (by simp [m]))
      unfold sweepLanes
      refine ⟨by simp [i1], fun l m => ?_⟩
      rcases List.mem_cons.1 m with r | r
      · subst r
        exact ⟨wf_copyRegions (hb b (by simp)).1 _, (hb b (by simp)).2⟩
      · exact i2 l r

theorem Cluster.Ok.zeroState {x : Cluster} (h : x.Ok) : (Cluster.zeroState x).Ok := by
  refine h.lanesTo rfl rfl (by simp [Cluster.zeroState]) fun hl l m => ?_
  obtain ⟨y, hy, rfl⟩ := List.mem_map.1 m
  exact ⟨wf_filter (hl y hy).1 _, (hl y hy).2⟩

theorem Keeps.sweep {s x : State} (h : Keeps s x) (y1 : ℕ) : Keeps s (State.sweep x y1) := by
  unfold State.sweep
  refine h.setCluster _ _ fun c k => .ite k.zeroState ?_
  have sw := sweepLanes_ok c.img (x.cluster (x.cluster y1).spinSrc).lanes k.2.2.2.2
  exact k.lanesTo rfl rfl sw.1 fun _ => sw.2

theorem KeepsO.execSpareInSweep {s x : State} (h : Keeps s x) (n : Nat) : KeepsO s (execSpareInSweep n x) :=
  .next (.ite ((h.quiet.setCluster _ _ fun _ k => k.lit).sweep _) h.quiet)

theorem Keeps.switchOwner {s x : State} (h : Keeps s x) (y1 : ℕ) : Keeps s (State.switchOwner x y1) := by
  unfold State.switchOwner
  repeat' first | with_reducible assumption | with_reducible apply Keeps.sweep | with_reducible refine Keeps.setCluster ?_ _ _ (fun _ _ => ?_) | with_reducible apply Keeps.spinAbandon | with_reducible apply Keeps.makeFaulty | with_reducible apply Keeps.setWorkSet | with_reducible apply Keeps.noteNoSpare | with_reducible apply Keeps.ite | with_reducible apply Keeps.ite1 | with_reducible apply KeepsO.ite | with_reducible apply KeepsO.next | with_reducible apply Cluster.Ok.ite | split | dsimp only | intro _ | with_reducible refine Keeps.lit ?_ rfl rfl rfl rfl | with_reducible apply Cluster.Ok.lit

theorem KeepsO.execSpareInSwitch {s x : State} (h : Keeps s x) (y1 : ℕ) : KeepsO s (Machine.execSpareInSwitch y1 x) := by
  unfold Machine.execSpareInSwitch
  repeat' first | with_reducible assumption | with_reducible apply Keeps.quiet | with_reducible apply Keeps.switchOwner | with_reducible apply Keeps.ite | with_reducible apply Keeps.ite1 | with_reducible apply KeepsO.ite | with_reducible apply KeepsO.next

theorem KeepsO.execRotation {s x : State} (h : Keeps s x)  : KeepsO s (execRotation x) := by
  unfold Machine.execRotation
  repeat' first | with_reducible assumption | with_reducible apply Keeps.quiet | with_reducible apply Keeps.startSpin | with_reducible apply Keeps.ite | with_reducible apply KeepsO.ite | with_reducible apply KeepsO.next | split

theorem KeepsO.execMarchPass {s x : State} (h : Keeps s x) (y1 : ℕ) (y2 : Bool) : KeepsO s (execMarchPass y1 y2 x) := by
  unfold Machine.execMarchPass
  repeat' first | with_reducible assumption | with_reducible apply Keeps.quiet | with_reducible apply Keeps.setCluster | with_reducible apply Keeps.selfTestFails | with_reducible apply Keeps.ite | with_reducible apply KeepsO.ite | with_reducible apply KeepsO.next | split | dsimp only | intro _ | with_reducible refine Keeps.lit ?_ rfl rfl rfl rfl | with_reducible apply Cluster.Ok.lit

theorem KeepsO.execLaneDegraded {s x : State} (h : Keeps s x) (y1 : ℕ) (y2 : ℕ) : KeepsO s (execLaneDegraded y1 y2 x) := by
  unfold Machine.execLaneDegraded
  repeat' first | with_reducible assumption | with_reducible apply Keeps.quiet | with_reducible apply Keeps.spareEvent | with_reducible apply Keeps.raise | with_reducible apply Keeps.repairSpin | with_reducible apply Keeps.ite | with_reducible apply KeepsO.ite | with_reducible apply KeepsO.next

theorem Keeps.spinLoad {s x : State} (h : Keeps s x) (y1 : ℕ) (y2 : ℕ) : Keeps s (State.spinLoad x y1 y2) := by
  unfold State.spinLoad
  repeat' first | with_reducible assumption | with_reducible refine Keeps.setCluster ?_ _ _ (fun _ _ => ?_) | with_reducible apply Cluster.Ok.abandonSpin | with_reducible apply Cluster.Ok.loadFor | with_reducible apply Keeps.wake | with_reducible apply Keeps.ite | with_reducible apply Keeps.ite1 | with_reducible apply KeepsO.ite | with_reducible apply KeepsO.next | with_reducible apply Cluster.Ok.ite | split | dsimp only | intro _ | with_reducible refine Keeps.lit ?_ rfl rfl rfl rfl | with_reducible apply Cluster.Ok.lit

theorem Keeps.verdict {s x : State} (h : Keeps s x) (y1 : ℕ) : Keeps s (State.verdict x y1) := by
  unfold State.verdict
  repeat' first | with_reducible assumption | with_reducible refine Keeps.setCluster ?_ _ _ (fun _ _ => ?_) | with_reducible apply Cluster.Ok.abandonSpin | with_reducible apply Keeps.raiseT | with_reducible apply Keeps.ite | with_reducible apply Keeps.ite1 | with_reducible apply KeepsO.ite | with_reducible apply KeepsO.next | with_reducible apply Cluster.Ok.ite | split | dsimp only | intro _ | with_reducible refine Keeps.lit ?_ rfl rfl rfl rfl | with_reducible apply Cluster.Ok.lit

theorem Keeps.selfTest {s x : State} (h : Keeps s x) (y1 : TickOps) (y2 : ℕ) : Keeps s (State.selfTest y1 x y2) := by
  unfold State.selfTest
  repeat' first | with_reducible assumption | with_reducible refine Keeps.setCluster ?_ _ _ (fun _ _ => ?_) | with_reducible apply Keeps.selfTestFails | with_reducible apply Keeps.ite | with_reducible apply Keeps.ite1 | with_reducible apply KeepsO.ite | with_reducible apply KeepsO.next | with_reducible apply Cluster.Ok.ite | split | dsimp only | intro _ | with_reducible refine Keeps.lit ?_ rfl rfl rfl rfl | with_reducible apply Cluster.Ok.lit

theorem Keeps.dutyBoundary {s x : State} (h : Keeps s x) (y1 : TickOps) (y2 : ℕ) : Keeps s (State.dutyBoundary y1 x y2) := by
  unfold State.dutyBoundary
  repeat' first | with_reducible assumption | with_reducible apply Keeps.spinAbandon | with_reducible refine Keeps.setCluster ?_ _ _ (fun _ _ => ?_) | with_reducible apply Cluster.Ok.abandonSpin | with_reducible apply Keeps.spinLoad | with_reducible apply Keeps.selfTest | with_reducible apply Keeps.sweep | with_reducible apply Keeps.verdict | with_reducible apply Keeps.ite | with_reducible apply Keeps.ite1 | with_reducible apply KeepsO.ite | with_reducible apply KeepsO.next | with_reducible apply Cluster.Ok.ite | split | dsimp only | intro _ | with_reducible refine Keeps.lit ?_ rfl rfl rfl rfl | with_reducible apply Cluster.Ok.lit

theorem Cluster.Ok.closeTick {x : Cluster} (h : x.Ok) : x.closeTick.Ok := h.lit

theorem Cluster.Ok.look {x : Cluster} (h : x.Ok) (y1 : Option ℕ) : (x.look y1).Ok := h.lit

theorem Keeps.serveSpinQ {s x : State} (h : Keeps s x) : Keeps s (State.serveSpinQ x) := by
  unfold State.serveSpinQ
  repeat' first | with_reducible assumption | with_reducible apply Keeps.startSpin | with_reducible apply Keeps.ite | with_reducible apply Keeps.ite1 | with_reducible apply KeepsO.ite | with_reducible apply KeepsO.next | split | dsimp only | intro _ | with_reducible refine Keeps.lit ?_ rfl rfl rfl rfl

theorem Keeps.clusterBoundary {s x : State} (h : Keeps s x) (y1 : TickOps) (y2 : List ℕ) : Keeps s (State.clusterBoundary x y1 y2) := by
  unfold State.clusterBoundary
  refine Keeps.foldS (Keeps.serveSpinQ (Keeps.foldS (Keeps.foldS ?_ _ (fun _ _ k => k.dutyBoundary _ _) _) _ (fun _ _ k => k.switchOwner _) _))
    _ (fun _ _ k => k.setCluster _ _ fun _ a => a.look _) _
  exact h.mapClusters (fun e => if !(y2.contains (blkCl e.1)) then e.2.closeTick else e.2) fun _ k => .ite k.closeTick k

end Sys2Proof.Machine
end

