-- ==== Sys2Proof/Laws/KeepsCommit.lean ====
section
/-! SUPPORT. Each operation of Machine/Commit.lean keeps what every command respects. -/

namespace Sys2Proof.Machine

theorem Keeps.withImages {s x : State} (h : Keeps s x) (y1 : List (ℕ × Image)) : Keeps s (State.withImages x y1) := by
  unfold State.withImages
  repeat' first | with_reducible assumption | with_reducible refine Keeps.foldS ?_ _ (fun _ _ _ => ?_) _ | with_reducible apply Keeps.setWorkSet

end Sys2Proof.Machine
end

