-- ==== Sys2Proof/Laws/KeepsApply.lean ====
section
/-! SUPPORT. Each operation of Machine/Apply.lean keeps what every command respects. -/

namespace Sys2Proof.Machine

theorem Keeps.respond {s x : State} (h : Keeps s x) (y1 : ℕ) (y2 : ℕ) (y3 : ℕ) (y4 : List Byte) : Keeps s (State.respond x y1 y2 y3 y4) := by
  unfold State.respond
  repeat' first | with_reducible assumption | with_reducible apply Keeps.sendClass | with_reducible apply Keeps.emit | with_reducible apply Keeps.ite | with_reducible apply Keeps.ite1 | with_reducible apply KeepsO.ite | with_reducible apply KeepsO.next | split | dsimp only | intro _ | with_reducible refine Keeps.lit ?_ rfl rfl rfl rfl

theorem Keeps.answer {s x : State} (h : Keeps s x) (pk op reqid status nitem cid : Nat) (body : List Byte) :
    Keeps s (x.answer pk op reqid status nitem cid body) := by
  unfold State.answer
  generalize responseBytes pk op reqid status nitem cid body = b
  dsimp only
  have k : Keeps s ((x.modDict fun d => { d with
    cache := cachePut ⟨pk, reqid, op, status, b⟩ d.cache
    counters := tmod 0 d.counters (if status < 0x100 then 1 else 2) fun n => (n + 1) % 2 ^ 32 }).respond pk reqid status b) := (h.modDict _).respond _ _ _ _
  generalize (x.modDict _).respond _ _ _ _ = y at k
  refine .ite ?_ (.ite ?_ ?_)
  · exact k.trans ⟨fun ⟨a, b, i⟩ => ⟨wf_memSetBytes _ a _, b, i⟩, rfl, .refl _⟩
  · exact k.same rfl rfl rfl rfl rfl rfl rfl
  · exact k.trans ⟨fun i => i, rfl, .same rfl rfl rfl rfl rfl rfl⟩

theorem Keeps.commitSets {s x : State} (h : Keeps s x) (y1 : List CUnit) : Keeps s (State.commitSets x y1) := by
  unfold State.commitSets
  repeat' first | with_reducible assumption | with_reducible refine Keeps.foldS ?_ _ (fun _ _ _ => ?_) _ | with_reducible apply Keeps.setWorkSet | with_reducible apply Keeps.wake | with_reducible apply Keeps.ite | with_reducible apply Keeps.ite1 | with_reducible apply KeepsO.ite | with_reducible apply KeepsO.next | split | dsimp only | intro _ | with_reducible refine Keeps.lit ?_ rfl rfl rfl rfl

theorem Cluster.Ok.reseed {x : Cluster} (h : x.Ok) (y1 : BitVec 64) : (Cluster.reseed x y1).Ok :=
  h.lanesTo rfl rfl (mapBelow_length _ _ _ _) fun hl => mapBelow_all Lane.Ok _ _ _ hl fun _ _ k => k

theorem Keeps.commitCluster {s x : State} (h : Keeps s x) (y1 : List CUnit) (y2 : ℕ) : Keeps s (State.commitCluster x y1 y2) := by
  unfold State.commitCluster
  repeat' first | with_reducible assumption | with_reducible refine Keeps.setCluster ?_ _ _ (fun _ _ => ?_) | with_reducible apply Cluster.Ok.loadFor | with_reducible apply Cluster.Ok.reseed | with_reducible apply Cluster.Ok.newParams | with_reducible apply Keeps.ite | with_reducible apply Keeps.ite1 | with_reducible apply KeepsO.ite | with_reducible apply KeepsO.next | with_reducible apply Cluster.Ok.ite | split | dsimp only | intro _ | with_reducible refine Keeps.lit ?_ rfl rfl rfl rfl | with_reducible apply Cluster.Ok.lit

theorem Keeps.commitIsland {s x : State} (h : Keeps s x) (y1 : ℕ) (y2 : List CUnit) (y3 : ℕ) : Keeps s (State.commitIsland y1 y2 x y3) := by
  unfold State.commitIsland
  repeat' first | with_reducible assumption | with_reducible refine Keeps.foldl ?_ _ (fun _ _ _ => ?_) _ | with_reducible apply Cluster.Ok.foldl | with_reducible refine Keeps.foldS ?_ _ (fun _ _ _ => ?_) _ | with_reducible apply Keeps.alnCommit | with_reducible apply Keeps.commitCluster | with_reducible apply Keeps.ite | with_reducible apply Keeps.ite1 | with_reducible apply KeepsO.ite | with_reducible apply KeepsO.next | split | dsimp only | intro _ | with_reducible refine Keeps.lit ?_ rfl rfl rfl rfl

theorem Keeps.commitFixed {s x : State} (h : Keeps s x) (y1 : ℕ) (y2 : List CUnit) (y3 : List ℕ) : Keeps s (State.commitFixed x y1 y2 y3) := by
  unfold State.commitFixed
  repeat' first | with_reducible assumption | with_reducible apply Keeps.settle | with_reducible apply Keeps.modDict | with_reducible refine Keeps.foldS ?_ _ (fun _ _ _ => ?_) _ | with_reducible apply Keeps.commitIsland | with_reducible apply Keeps.commitSets | with_reducible apply Keeps.ite | with_reducible apply Keeps.ite1 | with_reducible apply KeepsO.ite | with_reducible apply KeepsO.next | split | dsimp only | intro _ | with_reducible refine Keeps.lit ?_ rfl rfl rfl rfl

theorem Keeps.payOwed {s x : State} (h : Keeps s x) (y1 : List ℕ) (y2 : ℕ) : Keeps s (State.payOwed x y1 y2) := by
  unfold State.payOwed
  repeat' first | with_reducible assumption | with_reducible refine Keeps.foldS ?_ _ (fun _ _ _ => ?_) _ | with_reducible apply Keeps.commitIsland | with_reducible apply Keeps.modDict

theorem Keeps.ahead {s x : State} (h : Keeps s x) (y1 : ℕ) : Keeps s (State.ahead x y1) := by
  unfold State.ahead
  repeat' first | with_reducible assumption | with_reducible refine Keeps.foldS ?_ _ (fun _ _ _ => ?_) _ | with_reducible apply Keeps.commitFixed

theorem Keeps.foxTick {s x : State} (h : Keeps s x) (y1 : ℕ) : Keeps s (State.foxTick x y1) := by
  unfold State.foxTick
  repeat' first | with_reducible assumption | with_reducible apply Keeps.modCsw | with_reducible refine Keeps.foldl ?_ _ (fun _ _ _ => ?_) _ | with_reducible apply Cluster.Ok.foldl | with_reducible apply Keeps.ite

theorem Keeps.foxRun {s x : State} (h : Keeps s x) (y1 : ℕ) : Keeps s (State.foxRun x y1) := by
  unfold State.foxRun
  repeat' first | with_reducible assumption | with_reducible apply Keeps.modCsw | with_reducible apply Keeps.foxTick | with_reducible refine Keeps.foldS ?_ _ (fun _ _ _ => ?_) _ | with_reducible apply Keeps.ite | with_reducible apply Keeps.ite1 | with_reducible apply KeepsO.ite | with_reducible apply KeepsO.next | split | dsimp only | intro _ | with_reducible refine Keeps.lit ?_ rfl rfl rfl rfl

theorem Keeps.foxRebuild {s x : State} (h : Keeps s x) : Keeps s (State.foxRebuild x) := by
  unfold State.foxRebuild
  repeat' first | with_reducible assumption | with_reducible apply Keeps.modCsw

theorem Keeps.unitResult {s x : State} (h : Keeps s x) (y1 : CUnit) (y2 : ℕ) : Keeps s (State.unitResult x y1 y2) := by
  unfold State.unitResult
  repeat' first | with_reducible assumption | with_reducible apply Keeps.answer | with_reducible apply Keeps.modDict | with_reducible apply Keeps.ite

theorem Keeps.sealUnit {s : State} (ah : State) (a : Nat) {p : State × Tab Val × List CUnit} (h : Keeps s p.1) (u : CUnit) :
    Keeps s (State.sealUnit ah a p u).1 := by
  obtain ⟨x, v, acc⟩ := p
  replace h : Keeps s x := h
  unfold State.sealUnit
  dsimp only
  split
  · exact h.unitResult _ _
  · split
    · show Keeps s ((x.modDict fun d => d.unstage u.cid).unitResult u stRefused)
      exact Keeps.unitResult (h.modDict _) _ _
    · exact Keeps.unitResult (x := x.modDict fun d => d.unstage u.cid) (h.modDict _) _ _

theorem Keeps.sealUnits {s : State} (ah : State) (a : Nat) (l : List CUnit) {p : State × Tab Val × List CUnit} (h : Keeps s p.1) :
    Keeps s (l.foldl (State.sealUnit ah a) p).1 := by
  induction l generalizing p with
  | nil => exact h
  | cons u t ih => exact ih (h.sealUnit _ _ _)

theorem Keeps.putSealed {s x : State} (h : Keeps s x) (y1 : ℕ) (y2 : List CUnit) : Keeps s (State.putSealed x y1 y2) := by
  unfold State.putSealed
  repeat' first | with_reducible assumption | with_reducible apply Keeps.modDict | with_reducible refine Keeps.foldl ?_ _ (fun _ _ _ => ?_) _ | with_reducible apply Cluster.Ok.foldl | with_reducible apply Keeps.ite | with_reducible apply Keeps.ite1 | with_reducible apply KeepsO.ite | with_reducible apply KeepsO.next | split | dsimp only | intro _ | with_reducible refine Keeps.lit ?_ rfl rfl rfl rfl

theorem Keeps.seal {s x : State} (h : Keeps s x) (a : Nat) : Keeps s (x.seal a) := by
  unfold State.seal
  have k0 : Keeps s (x.modDict fun d => { d with units := d.units.filter fun u => u.apply != a }) := h.modDict _
  generalize (x.modDict fun d => { d with units := d.units.filter fun u => u.apply != a }) = y at k0 ⊢
  dsimp only
  have k := Keeps.sealUnits (y.ahead a) a (sortUnits (x.dict.units.filter fun u => u.apply == a)) (p := (y, y.configAt a, [])) k0
  generalize List.foldl _ _ _ = p at k ⊢
  obtain ⟨z, v, acc⟩ := p
  exact .ite (Keeps.sendRecord (Keeps.putSealed k _ _) _ _ _ _ _) (Keeps.putSealed k _ _)

theorem Keeps.startStore {s x : State} (h : Keeps s x) (y1 : ℕ) (y2 : CUnit) : Keeps s (State.startStore x y1 y2) := by
  unfold State.startStore
  repeat' first | with_reducible assumption | with_reducible apply Keeps.modDict | with_reducible apply Keeps.ite

theorem Keeps.slotToDram {s x : State} (h : Keeps s x) (y1 : ℕ) : Keeps s (State.slotToDram x y1) := by
  unfold State.slotToDram
  dsimp only
  generalize (tget ({} : SceneSlot) x.dict.slots y1).image = l
  generalize x.slotBase y1 = b
  exact h.trans ⟨fun ⟨a, c, d, i⟩ => ⟨a, c, wf_memSetBytes l d b, i⟩, rfl, .refl _⟩

theorem Keeps.slotStored {s x : State} (h : Keeps s x) (y1 : ℕ) (y2 : List EWrite) : Keeps s (State.slotStored x y1 y2) := by
  unfold State.slotStored
  repeat' first | with_reducible assumption | with_reducible apply Keeps.modDict | with_reducible apply Keeps.slotToDram | with_reducible apply Keeps.ite | with_reducible apply Keeps.ite1 | with_reducible apply KeepsO.ite | with_reducible apply KeepsO.next | split | dsimp only | intro _ | with_reducible refine Keeps.lit ?_ rfl rfl rfl rfl

theorem Keeps.loadXo {s x : State} (h : Keeps s x)  : Keeps s (State.loadXo x) := by
  unfold State.loadXo
  repeat' first | with_reducible assumption | with_reducible apply Keeps.ite | with_reducible apply KeepsO.ite | with_reducible apply KeepsO.next | split | dsimp only | intro _ | with_reducible refine Keeps.lit ?_ rfl rfl rfl rfl

theorem Keeps.writeEffect {s x : State} (h : Keeps s x) (w : EWrite) : Keeps s (x.writeEffect w) := by
  unfold State.writeEffect
  refine .ite ?_ (.ite ?_ (.ite (h.setPort _ _) (.ite h.loadXo (.ite ?_ (.ite ?_ h)))))
  · exact h.trans ⟨fun i => i, rfl, .same rfl rfl rfl rfl rfl rfl⟩
  · exact h.trans ⟨fun i => i, rfl, .same rfl rfl rfl rfl rfl rfl⟩
  · split
    · refine h.modFab _ (fun f a => ?_) fun f a => ?_ <;> split <;> exact a
    · exact h
  · split
    · exact h.trans ⟨fun i => i, rfl, .same rfl rfl rfl rfl rfl rfl⟩
    · exact h

theorem Keeps.ctxTurn {s x : State} (h : Keeps s x) (y1 : ℕ) (y2 : ℕ × Bool) : Keeps s (State.ctxTurn y1 x y2) := by
  unfold State.ctxTurn
  repeat' first | with_reducible assumption | with_reducible apply Keeps.setCtx | with_reducible apply Keeps.ite | with_reducible apply Keeps.ite1 | with_reducible apply KeepsO.ite | with_reducible apply KeepsO.next | split | dsimp only | intro _ | with_reducible refine Keeps.lit ?_ rfl rfl rfl rfl

theorem Keeps.ctxCommit {s x : State} (h : Keeps s x) (y1 : Tab Val) (y2 : ℕ) (y3 : List CUnit) (y4 : List ℕ) : Keeps s (State.ctxCommit x y1 y2 y3 y4) := by
  unfold State.ctxCommit
  repeat' first | with_reducible assumption | with_reducible apply Keeps.modCsw | with_reducible refine Keeps.foldS ?_ _ (fun _ _ _ => ?_) _ | with_reducible apply Keeps.ctxTurn | with_reducible apply Keeps.ite | with_reducible apply Keeps.ite1 | with_reducible apply KeepsO.ite | with_reducible apply KeepsO.next | split | dsimp only | intro _ | with_reducible refine Keeps.lit ?_ rfl rfl rfl rfl

theorem Keeps.payCtx {s x : State} (h : Keeps s x) (y1 : ℕ) (y2 : List ℕ) : Keeps s (State.payCtx x y1 y2) := by
  unfold State.payCtx
  repeat' first | with_reducible assumption | with_reducible refine Keeps.foldS ?_ _ (fun _ _ _ => ?_) _ | with_reducible apply Keeps.ctxTurn | with_reducible apply Keeps.modCsw | with_reducible apply Keeps.ite | with_reducible apply Keeps.ite1 | with_reducible apply KeepsO.ite | with_reducible apply KeepsO.next | split | dsimp only | intro _ | with_reducible refine Keeps.lit ?_ rfl rfl rfl rfl

theorem Keeps.commitUnits {s x : State} (h : Keeps s x) (y1 : List CUnit) (y2 : ℕ) (y3 : List ℕ) : Keeps s (State.commitUnits x y1 y2 y3) := by
  unfold State.commitUnits
  repeat' first | with_reducible assumption | with_reducible apply Keeps.commitFixed | with_reducible apply Keeps.ctxCommit | with_reducible refine Keeps.foldS ?_ _ (fun _ _ _ => ?_) _ | with_reducible apply Keeps.writeEffect | with_reducible apply Keeps.modDict | with_reducible apply Keeps.startStore | with_reducible apply Keeps.ite | with_reducible apply Keeps.ite1 | with_reducible apply KeepsO.ite | with_reducible apply KeepsO.next | split | dsimp only | intro _ | with_reducible refine Keeps.lit ?_ rfl rfl rfl rfl

theorem Keeps.applySealed {s x : State} (h : Keeps s x) (y1 : List ℕ) (y2 : ℕ) : Keeps s (State.applySealed y1 x y2) := by
  unfold State.applySealed
  repeat' first | with_reducible assumption | with_reducible apply Keeps.modDict | with_reducible apply Keeps.commitUnits | with_reducible apply Keeps.ite | with_reducible apply Keeps.ite1 | with_reducible apply KeepsO.ite | with_reducible apply KeepsO.next | split

theorem Keeps.applyDue {s x : State} (h : Keeps s x) (y1 : ℕ) (y2 : List ℕ) : Keeps s (State.applyDue x y1 y2) := by
  unfold State.applyDue
  repeat' first | with_reducible assumption | with_reducible refine Keeps.foldS ?_ _ (fun _ _ _ => ?_) _ | with_reducible apply Keeps.applySealed | with_reducible apply Keeps.settle | with_reducible apply Keeps.payOwed | with_reducible apply Keeps.payCtx | with_reducible apply Keeps.ite | with_reducible apply Keeps.ite1 | with_reducible apply KeepsO.ite | with_reducible apply KeepsO.next | split | dsimp only | intro _ | with_reducible refine Keeps.lit ?_ rfl rfl rfl rfl

theorem Keeps.banksNow {s x : State} (h : Keeps s x) (y1 : List CUnit) (y2 : Tab Val) : Keeps s (State.banksNow x y1 y2) := by
  unfold State.banksNow
  repeat' first | with_reducible assumption | with_reducible refine Keeps.foldl ?_ _ (fun _ _ _ => ?_) _ | with_reducible apply Cluster.Ok.foldl | with_reducible apply Keeps.ite | with_reducible apply Keeps.ite1 | with_reducible apply KeepsO.ite | with_reducible apply KeepsO.next | split | dsimp only | intro _ | with_reducible refine Keeps.lit ?_ rfl rfl rfl rfl

theorem Keeps.dropStaged {s x : State} (h : Keeps s x) : Keeps s (State.dropStaged x) := by
  unfold State.dropStaged
  repeat' first | with_reducible assumption | with_reducible apply Keeps.modDict | with_reducible apply Keeps.ite | with_reducible apply Keeps.ite1 | with_reducible apply KeepsO.ite | with_reducible apply KeepsO.next | split | dsimp only | intro _ | with_reducible refine Keeps.lit ?_ rfl rfl rfl rfl

theorem Keeps.applyNow {s x : State} (h : Keeps s x) (y1 : CUnit) : Keeps s (State.applyNow x y1).1 := by
  unfold State.applyNow
  repeat' first | with_reducible assumption | with_reducible apply Keeps.modDict | with_reducible apply Keeps.slotStored | with_reducible apply Keeps.withImages | with_reducible apply Keeps.commitUnits | with_reducible apply Keeps.banksNow | with_reducible apply Keeps.foxRebuild | with_reducible apply Keeps.ite | with_reducible apply Keeps.ite1 | with_reducible apply KeepsO.ite | with_reducible apply KeepsO.next | split | dsimp only | intro _ | with_reducible refine Keeps.lit ?_ rfl rfl rfl rfl

theorem Keeps.applyNow_eq {s x t : State} (h : Keeps s x) {y1 : CUnit} {n} (e : State.applyNow x y1 = (t, n)) : Keeps s t := by
  have k := Keeps.applyNow h y1
  rw [e] at k; exact k

end Sys2Proof.Machine
end

