-- ==== Sys2Proof/Laws/KeepsStage.lean ====
section
/-! SUPPORT. Each operation of Machine/Stage.lean keeps what every command respects. -/

namespace Sys2Proof.Machine

theorem Keeps.formCtx {s x : State} (h : Keeps s x) (y1 : ℕ) (y2 : ℕ) (y3 : ℕ) : Keeps s (State.formCtx x y1 y2 y3).1 := by
  unfold State.formCtx
  repeat' first | with_reducible assumption | with_reducible apply Keeps.count | with_reducible apply Keeps.setCtx | with_reducible apply Keeps.ite | with_reducible apply KeepsO.ite | with_reducible apply KeepsO.next | split | dsimp only

theorem Keeps.formCtx_eq {s x t : State} (h : Keeps s x) {y1 : ℕ} {y2 : ℕ} {y3 : ℕ} {n} (e : State.formCtx x y1 y2 y3 = (t, n)) : Keeps s t := by
  have k := Keeps.formCtx h y1 y2 y3
  rw [e] at k; exact k

theorem Keeps.formCtxs {s : State} (n label : Nat) (l : List Nat) {p : State × List StageOut} (h : Keeps s p.1) :
    Keeps s (l.foldl (fun (p : State × List StageOut) x => let (s1, o) := p.1.formCtx x n label; (s1, p.2 ++ [o])) p).1 := by
  induction l generalizing p with
  | nil => exact h
  | cons a t ih => exact ih (h.formCtx _ _ _)

theorem Keeps.formAll {s x : State} (h : Keeps s x) (a b c : Nat) : Keeps s (x.formAll a b c).1 := Keeps.formCtxs b c _ h

theorem Keeps.sendOut {s x : State} (h : Keeps s x) (y1 : Bool) (y2 : ℕ) (y3 : StageOut) : Keeps s (State.sendOut y1 y2 x y3) := by
  unfold State.sendOut
  repeat' first | with_reducible assumption | with_reducible apply Keeps.foldS | with_reducible apply Keeps.sendFrame | with_reducible apply Keeps.keyUse | with_reducible apply Keeps.ite | with_reducible apply KeepsO.ite | with_reducible apply KeepsO.next | split | dsimp only | intro _

end Sys2Proof.Machine
end

