-- ==== Sys2Proof/Laws/KeepsPairing.lean ====
section
/-! SUPPORT. Each operation of Machine/Pairing.lean keeps what every command respects. -/

namespace Sys2Proof.Machine

theorem Keeps.freeBits {s x : State} (h : Keeps s x) (y1 : Config.Use) (y2 : ℕ) : Keeps s (State.freeBits x y1 y2).1 := by
  unfold State.freeBits
  repeat' first | with_reducible assumption | with_reducible apply Keeps.fresh

theorem Keeps.freeBits_eq {s x t : State} (h : Keeps s x) {y1 : Config.Use} {y2 : ℕ} {n} (e : State.freeBits x y1 y2 = (t, n)) : Keeps s t := by
  have k := Keeps.freeBits h y1 y2
  rw [e] at k; exact k

theorem Keeps.sendOwl {s x : State} (h : Keeps s x) (y1 : ℕ) (y2 : ℕ) (y3 : ℕ) (y4 : ℕ) (y5 : ℕ) (y6 : ℕ) (y7 : List Byte) : Keeps s (State.sendOwl x y1 y2 y3 y4 y5 y6 y7) := by
  unfold State.sendOwl
  repeat' first | with_reducible assumption | with_reducible apply Keeps.ite | with_reducible apply Keeps.ite1 | with_reducible apply KeepsO.ite | with_reducible apply KeepsO.next | split | dsimp only | intro _ | with_reducible refine Keeps.lit ?_ rfl rfl rfl rfl

theorem Keeps.toOwl {s x : State} (h : Keeps s x) (y1 : ℕ) (y2 : ℕ) (y3 : ℕ) : Keeps s (State.toOwl x y1 y2 y3) := by
  unfold State.toOwl
  repeat' first | with_reducible assumption | with_reducible apply Keeps.sendOwl | with_reducible apply Keeps.ite | with_reducible apply Keeps.ite1 | with_reducible apply KeepsO.ite | with_reducible apply KeepsO.next | split | dsimp only | intro _ | with_reducible refine Keeps.lit ?_ rfl rfl rfl rfl

theorem Keeps.fence {s x : State} (h : Keeps s x) (y1 : ℕ) (y2 : Bool) : Keeps s (State.fence x y1 y2) := by
  unfold State.fence
  repeat' first | with_reducible assumption | with_reducible apply Keeps.modPair | with_reducible apply Keeps.sendMirror | with_reducible apply Keeps.raiseT | with_reducible apply Keeps.ite

theorem Keeps.enterNoon {s x : State} (h : Keeps s x) (y1 : ℕ) : Keeps s (State.enterNoon x y1) := by
  unfold State.enterNoon
  repeat' first | with_reducible assumption | with_reducible apply Keeps.modPair | with_reducible apply Keeps.enter

theorem Keeps.classFBoundary {s x : State} (h : Keeps s x) (y1 : ℕ) : Keeps s (State.classFBoundary x y1) := by
  unfold State.classFBoundary
  repeat' first | with_reducible assumption | with_reducible apply Keeps.modTop | with_reducible apply Keeps.enter | with_reducible apply Keeps.fence | with_reducible apply Keeps.enterNight | with_reducible apply Keeps.ite | with_reducible apply KeepsO.ite | with_reducible apply KeepsO.next | split

theorem Keeps.leaveBoundary {s x : State} (h : Keeps s x) (y1 : ℕ) : Keeps s (State.leaveBoundary x y1) := by
  unfold State.leaveBoundary
  repeat' first | with_reducible assumption | with_reducible apply Keeps.modTop | with_reducible apply Keeps.enter | with_reducible apply Keeps.enterNight | with_reducible apply Keeps.ite | with_reducible apply KeepsO.ite | with_reducible apply KeepsO.next | split

theorem Keeps.grantBoundary {s x : State} (h : Keeps s x) (y1 : ℕ) : Keeps s (State.grantBoundary x y1) := by
  unfold State.grantBoundary
  repeat' first | with_reducible assumption | with_reducible apply Keeps.enterNoon | with_reducible apply Keeps.modPair | with_reducible apply Keeps.dropStaged | with_reducible apply Keeps.ite | with_reducible apply Keeps.ite1 | with_reducible apply KeepsO.ite | with_reducible apply KeepsO.next | split | dsimp only | intro _ | with_reducible refine Keeps.lit ?_ rfl rfl rfl rfl

theorem Keeps.gateBoundary {s x : State} (h : Keeps s x) (b : Nat) : Keeps s (x.gateBoundary b) := by
  unfold State.gateBoundary
  dsimp only
  have k := h.fence b true
  exact .ite h (.ite (.ite (k.enter _ _) k) (.ite h (.ite (k.fresh.enter _ _) k)))

theorem Keeps.impairCheck {s x : State} (h : Keeps s x) (y1 : ℕ) (y2 : ℕ) : Keeps s (State.impairCheck x y1 y2) := by
  unfold State.impairCheck
  repeat' first | with_reducible assumption | with_reducible apply Keeps.modPair | with_reducible apply Keeps.modTop | with_reducible apply Keeps.raiseT | with_reducible apply Keeps.ite

theorem Keeps.toRejoin {s x : State} (h : Keeps s x)  : Keeps s (State.toRejoin x) := by
  unfold State.toRejoin
  repeat' first | with_reducible assumption | with_reducible apply Keeps.modTop | with_reducible apply Keeps.modPair

theorem Keeps.commitCheck {s x : State} (h : Keeps s x) (y1 : ℕ) : Keeps s (State.commitCheck x y1) := by
  unfold State.commitCheck
  repeat' first | with_reducible assumption | with_reducible apply Keeps.toRejoin | with_reducible apply Keeps.raiseT | with_reducible apply Keeps.ite

theorem Keeps.lynxCompare {s x : State} (h : Keeps s x) (y1 : ℕ) : Keeps s (State.lynxCompare x y1) := by
  unfold State.lynxCompare
  repeat' first | with_reducible assumption | with_reducible apply Keeps.modPair | with_reducible apply Keeps.raise | with_reducible apply Keeps.raiseT | with_reducible apply Keeps.ite | with_reducible apply KeepsO.ite | with_reducible apply KeepsO.next | split

theorem Keeps.lynxStage {s x : State} (h : Keeps s x) (y1 : List StageOut) (y2 : ℕ) (y3 : ℕ) : Keeps s (State.lynxStage x y1 y2 y3) := by
  unfold State.lynxStage
  repeat' first | with_reducible assumption | with_reducible apply Keeps.lynxCompare | with_reducible apply Keeps.sendMirror | with_reducible apply Keeps.modPair | with_reducible apply Keeps.ite

theorem Keeps.captureAt {s x : State} (h : Keeps s x) (y1 : ℕ) : Keeps s (State.captureAt x y1) := by
  unfold State.captureAt
  repeat' first | with_reducible assumption | with_reducible apply Keeps.modPair | with_reducible apply Keeps.ite

theorem Keeps.sendJoin {s x : State} (h : Keeps s x) (y1 : Option ℕ) : Keeps s (State.sendJoin x y1) := by
  unfold State.sendJoin
  repeat' first | with_reducible assumption | with_reducible apply Keeps.sendRecord | with_reducible apply Keeps.ite | with_reducible apply Keeps.ite1 | with_reducible apply KeepsO.ite | with_reducible apply KeepsO.next | split | dsimp only | intro _ | with_reducible refine Keeps.lit ?_ rfl rfl rfl rfl

theorem Keeps.tryJoin {s x : State} (h : Keeps s x) : Keeps s (State.tryJoin x) := by
  unfold State.tryJoin
  repeat' first | with_reducible assumption | with_reducible apply Keeps.modPair | with_reducible apply Keeps.sendJoin | with_reducible apply Keeps.ite | with_reducible apply Keeps.ite1 | with_reducible apply KeepsO.ite | with_reducible apply KeepsO.next | split | dsimp only | intro _ | with_reducible refine Keeps.lit ?_ rfl rfl rfl rfl

theorem Keeps.timingStep {s x : State} (h : Keeps s x) (y1 : TickOps) : Keeps s (State.timingStep x y1) := by
  unfold State.timingStep
  repeat' first | with_reducible assumption | with_reducible apply Keeps.modPair | with_reducible apply Keeps.raiseT | with_reducible apply Keeps.ite

end Sys2Proof.Machine
end

