-- ==== Sys2Proof/Laws/KeepsTicks.lean ====
section
/-! SUPPORT. Each operation of Machine/Ticks.lean keeps what every command respects. -/

namespace Sys2Proof.Machine

theorem Keeps.elapse {s x : State} (h : Keeps s x) : Keeps s (State.elapse x) := by
  unfold State.elapse
  repeat' first | with_reducible assumption | with_reducible apply Keeps.fresh | with_reducible apply Keeps.modTime | with_reducible apply Keeps.ite | with_reducible apply Keeps.ite1 | with_reducible apply KeepsO.ite | with_reducible apply KeepsO.next | split | dsimp only | intro _ | with_reducible refine Keeps.lit ?_ rfl rfl rfl rfl

theorem Keeps.advance {s x : State} (h : Keeps s x) (y1 : ℕ) : Keeps s (State.advance x y1) := by
  unfold State.advance
  repeat' first | with_reducible assumption | with_reducible apply Keeps.ite | with_reducible apply KeepsO.ite | with_reducible apply KeepsO.next | split | dsimp only | intro _ | with_reducible refine Keeps.lit ?_ rfl rfl rfl rfl

theorem Keeps.noteNumbers {s x : State} (h : Keeps s x) (y1 : List (ℕ × ℕ)) : Keeps s (State.noteNumbers x y1) := by
  unfold State.noteNumbers
  repeat' first | with_reducible assumption | with_reducible apply Keeps.ite | with_reducible apply Keeps.ite1 | with_reducible apply KeepsO.ite | with_reducible apply KeepsO.next | split | dsimp only | intro _ | with_reducible refine Keeps.lit ?_ rfl rfl rfl rfl

theorem Keeps.boundary {s x : State} (h : Keeps s x) (y1 : ℕ) (y2 : List ℕ) : Keeps s (State.boundary x y1 y2) := by
  unfold State.boundary
  repeat' first | with_reducible assumption | with_reducible apply Keeps.classFBoundary | with_reducible apply Keeps.leaveBoundary | with_reducible apply Keeps.grantBoundary | with_reducible apply Keeps.gateBoundary | with_reducible apply Keeps.ite | with_reducible apply Keeps.ite1 | with_reducible apply KeepsO.ite | with_reducible apply KeepsO.next | split | dsimp only | intro _ | with_reducible refine Keeps.lit ?_ rfl rfl rfl rfl

theorem Keeps.seqOnly {s x : State} (h : Keeps s x) (y1 : List StageOut) : Keeps s (State.seqOnly x y1) := by
  unfold State.seqOnly
  repeat' first | with_reducible assumption | with_reducible refine Keeps.foldS ?_ _ (fun _ _ _ => ?_) _ | with_reducible apply Keeps.skipSeq

theorem Keeps.emitStage {s x : State} (h : Keeps s x) (y1 : ℕ) (y2 : List StageOut) (y3 : List ℕ) : Keeps s (State.emitStage x y1 y2 y3) := by
  unfold State.emitStage
  repeat' first | with_reducible assumption | with_reducible refine Keeps.foldS ?_ _ (fun _ _ _ => ?_) _ | with_reducible apply Keeps.sendOut | with_reducible apply Keeps.sendMirror | with_reducible apply Keeps.modPair | with_reducible apply Keeps.seqOnly | with_reducible apply Keeps.lynxStage | with_reducible apply Keeps.ite

theorem Keeps.formUnless {s x : State} (h : Keeps s x) (y1 : List ℕ) (y2 : ℕ) (y3 : ℕ) (y4 : ℕ) : Keeps s (State.formUnless x y1 y2 y3 y4).1 := by
  unfold State.formUnless
  repeat' first | with_reducible assumption | with_reducible apply Keeps.formAll | with_reducible apply Keeps.ite | with_reducible apply Keeps.ite1

theorem Keeps.formUnless_eq {s x t : State} (h : Keeps s x) {y1 : List ℕ} {y2 : ℕ} {y3 : ℕ} {y4 : ℕ} {n} (e : State.formUnless x y1 y2 y3 y4 = (t, n)) : Keeps s t := by
  have k := Keeps.formUnless h y1 y2 y3 y4
  rw [e] at k; exact k

theorem Keeps.prune {s x : State} (h : Keeps s x) (y1 : ℕ) : Keeps s (State.prune x y1) := by
  unfold State.prune
  repeat' first | with_reducible assumption | with_reducible apply Keeps.ite | with_reducible apply KeepsO.ite | with_reducible apply KeepsO.next | split | dsimp only | intro _ | with_reducible refine Keeps.lit ?_ rfl rfl rfl rfl

theorem Keeps.pairBefore {s x : State} (h : Keeps s x) (y1 : ℕ) (y2 : ℕ) (y3 : List ℕ) : Keeps s (State.pairBefore x y1 y2 y3) := by
  unfold State.pairBefore
  repeat' first | with_reducible assumption | with_reducible apply Keeps.captureAt | with_reducible apply Keeps.impairCheck | with_reducible apply Keeps.commitCheck | with_reducible apply Keeps.ite

theorem Keeps.closeProcess {s x : State} (h : Keeps s x) (y1 : TickOps) (y2 : ℕ) : Keeps s (State.closeProcess x y1 y2) := by
  unfold State.closeProcess
  repeat' first | with_reducible assumption | with_reducible refine Keeps.foldS ?_ _ (fun _ _ _ => ?_) _ | with_reducible apply Keeps.overrunBlock | with_reducible apply Keeps.endProcess | with_reducible apply Keeps.overrun | with_reducible apply Keeps.ite

theorem Keeps.decideLate {s x : State} (h : Keeps s x) : Keeps s (State.decideLate x) := by
  unfold State.decideLate
  repeat' first | with_reducible assumption | with_reducible apply Keeps.cutoffDecide | with_reducible apply Keeps.ite | with_reducible apply Keeps.ite1 | with_reducible apply KeepsO.ite | with_reducible apply KeepsO.next | split | dsimp only | intro _ | with_reducible refine Keeps.lit ?_ rfl rfl rfl rfl

theorem Keeps.takeCommits {s x : State} (h : Keeps s x) (y1 : ℕ) (y2 : List ℕ) : Keeps s (State.takeCommits x y1 y2) := by
  unfold State.takeCommits
  repeat' first | with_reducible assumption | with_reducible apply Keeps.foxRun | with_reducible apply Keeps.applyDue | with_reducible apply Keeps.ite

theorem Keeps.openProcess {s x : State} (h : Keeps s x) (y1 : ℕ) (y2 : List ℕ) : Keeps s (State.openProcess x y1 y2) := by
  unfold State.openProcess
  repeat' first | with_reducible assumption | with_reducible apply Keeps.modCsw | with_reducible apply Keeps.startProcess | with_reducible apply Keeps.ite | with_reducible apply Keeps.ite1 | with_reducible apply KeepsO.ite | with_reducible apply KeepsO.next | split | dsimp only | intro _ | with_reducible refine Keeps.lit ?_ rfl rfl rfl rfl

theorem Keeps.look {s x : State} (h : Keeps s x) : Keeps s (State.look x) := by
  unfold State.look
  repeat' first | with_reducible assumption | with_reducible apply Cluster.Ok.look | with_reducible apply Keeps.ite | with_reducible apply Keeps.ite1 | with_reducible apply KeepsO.ite | with_reducible apply KeepsO.next | split | dsimp only | intro _ | with_reducible refine Keeps.lit ?_ rfl rfl rfl rfl

theorem Keeps.unhide {s x : State} (h : Keeps s x) : Keeps s (State.unhide x) := by
  unfold State.unhide
  repeat' first | with_reducible assumption | with_reducible apply Keeps.modCsw | with_reducible apply Keeps.ite | with_reducible apply Keeps.ite1 | with_reducible apply KeepsO.ite | with_reducible apply KeepsO.next | split | dsimp only | intro _ | with_reducible refine Keeps.lit ?_ rfl rfl rfl rfl

theorem Keeps.pairAfter {s x : State} (h : Keeps s x) (y1 : TickOps) (y2 : List ℕ) : Keeps s (State.pairAfter x y1 y2) := by
  unfold State.pairAfter
  repeat' first | with_reducible assumption | with_reducible apply Keeps.timingStep | with_reducible apply Keeps.tryJoin | with_reducible apply Keeps.ite

theorem Keeps.tickWork {s x : State} (h : Keeps s x) (y1 : TickOps) (y2 : List ℕ) : Keeps s (State.tickWork y1 y2 x) := by
  unfold State.tickWork
  repeat' first | with_reducible assumption | with_reducible apply Keeps.decideLate | with_reducible apply Keeps.closeProcess | with_reducible apply Keeps.formUnless | with_reducible refine Keeps.formUnless_eq ?_ (by assumption) | with_reducible apply Keeps.pairBefore | with_reducible apply Keeps.takeCommits | with_reducible apply Keeps.emitStage | with_reducible apply Keeps.clusterBoundary | with_reducible apply Keeps.look | with_reducible apply Cluster.Ok.look | with_reducible apply Keeps.openProcess | with_reducible apply Keeps.unhide | with_reducible apply Keeps.pairAfter | with_reducible apply Keeps.prune | with_reducible apply Keeps.ite | with_reducible apply Keeps.ite1 | with_reducible apply KeepsO.ite | with_reducible apply KeepsO.next | split | dsimp only | intro _ | with_reducible refine Keeps.lit ?_ rfl rfl rfl rfl

theorem Keeps.tickSeq {s x : State} (h : Keeps s x) (y1 : ℕ) : Keeps s (State.tickSeq x y1) := by
  unfold State.tickSeq
  repeat' first | with_reducible assumption | with_reducible apply Keeps.raiseT | with_reducible apply Keeps.spareEvent | with_reducible apply Keeps.ite

theorem Keeps.spareBudget {s x : State} (h : Keeps s x) (y1 : TickOps) : Keeps s (State.spareBudget y1 x) := by
  unfold State.spareBudget
  repeat' first | with_reducible assumption | with_reducible refine Keeps.foldS ?_ _ (fun _ _ _ => ?_) _ | with_reducible apply Keeps.spareEvent

theorem Keeps.tickEvent {s x : State} (h : Keeps s x) (y1 : TickOps) : Keeps s (State.tickEvent y1 x) := by
  unfold State.tickEvent
  repeat' first | with_reducible assumption | with_reducible apply Keeps.advance | with_reducible apply Cluster.Ok.advance | with_reducible apply Keeps.noteNumbers | with_reducible apply Keeps.boundary | with_reducible apply Keeps.tickWork | with_reducible apply Keeps.spareBudget | with_reducible refine Keeps.foldS ?_ _ (fun _ _ _ => ?_) _ | with_reducible apply Keeps.tickSeq | with_reducible apply Keeps.ite | with_reducible apply Keeps.ite1 | with_reducible apply KeepsO.ite | with_reducible apply KeepsO.next | split | dsimp only | intro _ | with_reducible refine Keeps.lit ?_ rfl rfl rfl rfl

end Sys2Proof.Machine
end

