-- ==== Sys2Proof/Laws/KeepsArrival.lean ====
section
/-! SUPPORT. Each operation of Machine/Arrival.lean keeps what every command respects. -/

namespace Sys2Proof.Machine

theorem Keeps.gatherPut {s x : State} (h : Keeps s x) (y1 : ℕ) (y2 : ℕ) (y3 : TickData) : Keeps s (State.gatherPut x y1 y2 y3) := by
  unfold State.gatherPut
  repeat' first | with_reducible assumption | with_reducible apply Keeps.wakeReaders | with_reducible apply Keeps.modCsw

theorem Keeps.withdrawTags {s x : State} (h : Keeps s x) (y1 : ℕ) (y2 : ℕ) (y3 : ℕ) : Keeps s (State.withdrawTags x y1 y2 y3) := by
  unfold State.withdrawTags
  repeat' first | with_reducible assumption | with_reducible apply Keeps.modDict | with_reducible apply Keeps.setCtx

theorem Keeps.settleTags {s x : State} (h : Keeps s x) (y1 : ℕ) : Keeps s (State.settleTags x y1) := by
  unfold State.settleTags
  repeat' first | with_reducible assumption | with_reducible apply Keeps.modDict

theorem Keeps.acceptFrame {s x : State} (h : Keeps s x) (y1 : ℕ) (y2 : InForce) : Keeps s (State.acceptFrame x y1 y2).1 := by
  unfold State.acceptFrame
  repeat' first | with_reducible assumption | with_reducible apply Keeps.setCtx | with_reducible apply Keeps.gatherPut | with_reducible apply Keeps.count | with_reducible apply Keeps.withdrawTags | with_reducible apply Keeps.ite | with_reducible apply KeepsO.ite | with_reducible apply KeepsO.next | split | dsimp only

theorem Keeps.acceptFrame_eq {s x t : State} (h : Keeps s x) {y1 : ℕ} {y2 : InForce} {n} (e : State.acceptFrame x y1 y2 = (t, n)) : Keeps s t := by
  have k := Keeps.acceptFrame h y1 y2
  rw [e] at k; exact k

theorem Keeps.release {s y : State} (h : Keeps s y) (x : Nat) (f : InForce) : Keeps s (State.release x y f) := by
  unfold State.release
  have k := h.acceptFrame x f
  exact .ite k (k.withdrawTags _ _ _)

theorem KeepsO.execEarlyRelease {s x : State} (h : Keeps s x) (y1 : ℕ) : KeepsO s (execEarlyRelease y1 x) := by
  unfold Machine.execEarlyRelease
  repeat' first | with_reducible assumption | with_reducible apply Keeps.quiet | with_reducible apply Keeps.setCtx | with_reducible apply Keeps.foldS | with_reducible apply Keeps.release | with_reducible apply Keeps.ite | with_reducible apply KeepsO.ite | with_reducible apply KeepsO.next | split | dsimp only | intro _

theorem Keeps.pathStep {s x : State} (h : Keeps s x) (y1 : ℕ) (y2 : ℕ) : Keeps s (State.pathStep x y1 y2) := by
  unfold State.pathStep
  repeat' first | with_reducible assumption | with_reducible apply Keeps.setCtx | with_reducible apply Keeps.count | with_reducible apply Keeps.ite

theorem Keeps.verdictCtx {s : State} (n : Nat) {p : State × List Nat × List (Nat × Nat)} (h : Keeps s p.1) (x : Nat) :
    Keeps s (State.verdictCtx n p x).1 := by
  obtain ⟨y, a, b⟩ := p
  unfold State.verdictCtx
  have k := Keeps.pathStep h x n
  dsimp only
  split
  · split
    · exact k
    · exact Keeps.ite (k.count _ _ _) ((k.count _ _ _).setCtx _ _)
  · exact k.count _ _ _

theorem Keeps.verdictCtxs {s : State} (n : Nat) (l : List Nat) {p : State × List Nat × List (Nat × Nat)} (h : Keeps s p.1) :
    Keeps s (l.foldl (State.verdictCtx n) p).1 := by
  induction l generalizing p with
  | nil => exact h
  | cons a t ih => exact ih (Keeps.verdictCtx n h a)

theorem Keeps.cutoff {s x : State} (h : Keeps s x) (n : Nat) : Keeps s (x.cutoff n) := by
  unfold State.cutoff
  dsimp only
  have k0 : Keeps s (Machine.foldS (fun (s : State) x => s.pathStep x n) (x.settleTags n) (directCtxs x.dict.vals)) :=
    (h.settleTags _).foldS _ (fun _ _ k => k.pathStep _ _) _
  have k1 := Keeps.verdictCtxs n (gatherCtxs x.dict.vals) (p := (_, [], [])) k0
  generalize List.foldl (State.verdictCtx n) _ _ = p at k1 ⊢
  obtain ⟨s1, pres, eps⟩ := p
  have k5 : ∀ y : State, Keeps s y → Keeps s (if (y.holdsCommits || y.followsVerdicts) = true then y else y.cutoffDecide n) := fun y k =>
    .ite k (k.cutoffDecide _)
  exact (k5 _ (.ite (Keeps.sendMirror (Keeps.modCsw k1 _) _ _ _ _) (Keeps.modCsw k1 _))).seal _

theorem KeepsO.execCutoff {s x : State} (h : Keeps s x) (y1 : CutoffOps) : KeepsO s (execCutoff y1 x) := by
  unfold Machine.execCutoff
  repeat' first | with_reducible assumption | with_reducible apply Keeps.quiet | with_reducible apply Keeps.cutoff | with_reducible apply Keeps.ite | with_reducible apply KeepsO.ite | with_reducible apply KeepsO.next

theorem KeepsO.execStreamTime {s x : State} (h : Keeps s x) (y1 : ℕ) : KeepsO s (execStreamTime y1 x) := by
  unfold Machine.execStreamTime
  repeat' first | with_reducible assumption | with_reducible apply Keeps.quiet | with_reducible apply Keeps.setCtx | with_reducible apply Keeps.raise | with_reducible apply Keeps.ite | with_reducible apply KeepsO.ite | with_reducible apply KeepsO.next | split | dsimp only

theorem KeepsO.execPathADown {s x : State} (h : Keeps s x) (y1 : ℕ) (y2 : Bool) : KeepsO s (execPathADown y1 y2 x) := by
  unfold Machine.execPathADown
  repeat' first | with_reducible assumption | with_reducible apply Keeps.quiet | with_reducible apply Keeps.raise | with_reducible apply Keeps.setCtx | with_reducible apply Keeps.ite | with_reducible apply KeepsO.ite | with_reducible apply KeepsO.next

theorem KeepsO.execPathAUp {s x : State} (h : Keeps s x) (y1 : ℕ) (y2 : Bool) : KeepsO s (execPathAUp y1 y2 x) := by
  unfold Machine.execPathAUp
  repeat' first | with_reducible assumption | with_reducible apply Keeps.quiet | with_reducible apply Keeps.raise | with_reducible apply Keeps.setCtx | with_reducible apply Keeps.ite | with_reducible apply KeepsO.ite | with_reducible apply KeepsO.next

theorem Keeps.tagErr {s x : State} (h : Keeps s x) (y1 : ℕ) : Keeps s (State.tagErr x y1) := by
  unfold State.tagErr
  repeat' first | with_reducible assumption | with_reducible apply Keeps.raiseT | with_reducible apply Keeps.spareEvent | with_reducible apply Keeps.ite | with_reducible apply Keeps.ite1 | with_reducible apply KeepsO.ite | with_reducible apply KeepsO.next | split | dsimp only | intro _ | with_reducible refine Keeps.lit ?_ rfl rfl rfl rfl

theorem Keeps.putGather {s x : State} (h : Keeps s x) (y1 : ℕ) (y2 : ℕ) (y3 : ℕ) (y4 : ℕ) (y5 : ℤ) : Keeps s (State.putGather x y1 y2 y3 y4 y5) := by
  unfold State.putGather
  repeat' first | with_reducible assumption | with_reducible apply Keeps.gatherPut

theorem Keeps.lateGather {s x : State} (h : Keeps s x) (y1 : ℕ) (y2 : ℕ) : Keeps s (State.lateGather x y1 y2) := by
  unfold State.lateGather
  repeat' first | with_reducible assumption | with_reducible apply Keeps.modCsw | with_reducible apply Keeps.count | with_reducible apply Keeps.setCtx | with_reducible apply Keeps.ite

theorem Keeps.lateOutput {s x : State} (h : Keeps s x) (y1 : ℕ) : Keeps s (State.lateOutput x y1) := by
  unfold State.lateOutput
  repeat' first | with_reducible assumption | with_reducible apply Keeps.raiseT | with_reducible apply Keeps.modCsw | with_reducible apply Keeps.ite

theorem Cluster.Ok.putIn {x : Cluster} (h : x.Ok) (y1 : ℕ) (y2 : ℕ) (y3 : ℤ) : (Cluster.putIn x y1 y2 y3).Ok := by
  refine h.lanesTo rfl rfl (mapBelow_length _ _ _ _) fun hl => mapBelow_all Lane.Ok _ _ _ hl fun l y k => ?_
  split
  · exact ⟨wf_memSetWord k.1 _ _, k.2⟩
  · exact k

theorem Keeps.putStepIn {s x : State} (h : Keeps s x) (y1 : ℕ) (y2 : ℕ) (y3 : ℕ) (y4 : ℕ) (y5 : Bool) (y6 : ℤ) : Keeps s (State.putStepIn x y1 y2 y3 y4 y5 y6) := by
  unfold State.putStepIn
  repeat' first | with_reducible assumption | with_reducible refine Keeps.foldS ?_ _ (fun _ _ _ => ?_) _ | with_reducible refine Keeps.setCluster ?_ _ _ (fun _ _ => ?_) | with_reducible apply Cluster.Ok.putIn | with_reducible apply Cluster.Ok.inDone | with_reducible apply Keeps.wake | with_reducible apply Keeps.ite | with_reducible apply Keeps.ite1 | with_reducible apply KeepsO.ite | with_reducible apply KeepsO.next | with_reducible apply Cluster.Ok.ite | split

theorem KeepsO.execHandshakeWord {s x : State} (h : Keeps s x) (y1 : HsWord) : KeepsO s (Machine.execHandshakeWord y1 x) := by
  unfold Machine.execHandshakeWord
  repeat' first | with_reducible assumption | with_reducible apply Keeps.quiet | with_reducible apply Keeps.lateGather | with_reducible apply Keeps.putGather | with_reducible apply Keeps.tagErr | with_reducible apply Keeps.putSlot | with_reducible apply Keeps.lateOutput | with_reducible apply Keeps.putStepIn | with_reducible apply Keeps.advanceProcess | with_reducible apply Keeps.ite | with_reducible apply Keeps.ite1 | with_reducible apply KeepsO.ite | with_reducible apply KeepsO.next | split

end Sys2Proof.Machine
end

