-- ==== Sys2Proof/Laws/KeepsBus.lean ====
section
/-! SUPPORT. Each operation of Machine/Bus.lean keeps what every command respects. -/

namespace Sys2Proof.Machine

theorem Keeps.berr {s x : State} (h : Keeps s x) (y1 : Master) (y2 : ℕ) (y3 : Bool) (y4 : ℕ) : Keeps s (State.berr x y1 y2 y3 y4) := by
  unfold State.berr
  repeat' first | with_reducible assumption | with_reducible apply Keeps.emit | with_reducible apply Keeps.modFab | with_reducible apply Keeps.ite | with_reducible apply KeepsO.ite | with_reducible apply KeepsO.next | split | dsimp only | intro _

theorem Keeps.viaWrite {s x : State} (h : Keeps s x) (m : Master) (b off : Nat) (f : State → State) (hf : ∀ y, Keeps s y → Keeps s (f y)) :
    Keeps s (x.viaWrite m b off f) := by
  unfold State.viaWrite
  split
  · exact h.berr _ _ _ _
  · exact hf _ h

end Sys2Proof.Machine
end

