-- ==== Sys2Proof/Laws/KeepsJtag.lean ====
section
/-! SUPPORT. Each operation of Machine/Jtag.lean keeps what every command respects. -/

namespace Sys2Proof.Machine

theorem Keeps.tck {s x : State} (h : Keeps s x) (y1 : Bool) (y2 : Bool) : Keeps s (State.tck x y1 y2) := by
  unfold State.tck
  repeat' first | with_reducible assumption | with_reducible apply Keeps.fresh | with_reducible apply Keeps.ite | with_reducible apply Keeps.ite1 | with_reducible apply KeepsO.ite | with_reducible apply KeepsO.next | split | dsimp only | intro _ | with_reducible refine Keeps.lit ?_ rfl rfl rfl rfl

theorem Keeps.trst {s x : State} (h : Keeps s x) : Keeps s (State.trst x) := by
  unfold State.trst
  repeat' first | with_reducible assumption | with_reducible apply Keeps.ite | with_reducible apply Keeps.ite1 | with_reducible apply KeepsO.ite | with_reducible apply KeepsO.next | split | dsimp only | intro _ | with_reducible refine Keeps.lit ?_ rfl rfl rfl rfl

theorem Keeps.stopDebug {s x : State} (h : Keeps s x) : Keeps s (State.stopDebug x) := by
  unfold State.stopDebug
  repeat' first | with_reducible assumption | with_reducible apply Keeps.ite | with_reducible apply Keeps.ite1 | with_reducible apply KeepsO.ite | with_reducible apply KeepsO.next | split | dsimp only | intro _ | with_reducible refine Keeps.lit ?_ rfl rfl rfl rfl

end Sys2Proof.Machine
end

