-- ==== Sys2Proof/Laws/KeepsTime.lean ====
section
/-! SUPPORT. Each operation of Machine/Time.lean keeps what every command respects. -/

namespace Sys2Proof.Machine

theorem Keeps.stepCounter {s x : State} (h : Keeps s x) (y1 : ℕ) : Keeps s (State.stepCounter x y1) := by
  unfold State.stepCounter
  repeat' first | with_reducible assumption | with_reducible apply Keeps.modTime | with_reducible apply Keeps.ite | with_reducible apply Keeps.ite1 | with_reducible apply KeepsO.ite | with_reducible apply KeepsO.next | split | dsimp only | intro _ | with_reducible refine Keeps.lit ?_ rfl rfl rfl rfl

theorem Keeps.stepTime {s x : State} (h : Keeps s x) (y1 : ℕ) : Keeps s (State.stepTime x y1) := by
  unfold State.stepTime
  repeat' first | with_reducible assumption | with_reducible apply Keeps.stepCounter | with_reducible apply Keeps.ite | with_reducible apply Keeps.ite1 | with_reducible apply KeepsO.ite | with_reducible apply KeepsO.next | split | dsimp only | intro _ | with_reducible refine Keeps.lit ?_ rfl rfl rfl rfl

theorem KeepsO.execSet {s x : State} (h : Keeps s x) (y1 : ℕ) : KeepsO s (execSet y1 x) := by
  unfold Machine.execSet
  repeat' first | with_reducible assumption | with_reducible apply Keeps.quiet | with_reducible apply Keeps.stepTime | with_reducible apply Keeps.ite | with_reducible apply KeepsO.ite | with_reducible apply KeepsO.next

theorem Keeps.counterNow {s x : State} (h : Keeps s x) : Keeps s (State.counterNow x).1 := by
  unfold State.counterNow
  repeat' first | with_reducible assumption | with_reducible apply Keeps.elapse | with_reducible apply Keeps.ite | with_reducible apply Keeps.ite1 | with_reducible apply KeepsO.ite | with_reducible apply KeepsO.next | split | dsimp only | intro _ | with_reducible refine Keeps.lit ?_ rfl rfl rfl rfl

theorem Keeps.counterNow_eq {s x t : State} (h : Keeps s x) {n} (e : State.counterNow x = (t, n)) : Keeps s t := by
  have k := Keeps.counterNow h 
  rw [e] at k; exact k

theorem Keeps.loadInc {s x : State} (h : Keeps s x) : Keeps s (State.loadInc x) := by
  unfold State.loadInc
  repeat' first | with_reducible assumption | with_reducible apply Keeps.elapse | with_reducible apply Keeps.modTime | with_reducible apply Keeps.setCommon | with_reducible apply Keeps.ite | with_reducible apply Keeps.ite1 | with_reducible apply KeepsO.ite | with_reducible apply KeepsO.next | split | dsimp only | intro _ | with_reducible refine Keeps.lit ?_ rfl rfl rfl rfl

theorem KeepsO.execIncLoad {s x : State} (h : Keeps s x) (y1 : Master) : KeepsO s (execIncLoad y1 x) := by
  unfold Machine.execIncLoad
  repeat' first | with_reducible assumption | with_reducible apply Keeps.viaWrite | with_reducible apply Keeps.quiet | with_reducible apply Keeps.loadInc | with_reducible apply Keeps.ite | with_reducible apply KeepsO.ite | with_reducible apply KeepsO.next

theorem Keeps.timeWords {s x : State} (h : Keeps s x)  : Keeps s (State.timeWords x).1 := by
  unfold State.timeWords
  repeat' first | with_reducible assumption | with_reducible apply Keeps.counterNow

theorem Keeps.timeWords_eq {s x t : State} (h : Keeps s x)  {n} (e : State.timeWords x = (t, n)) : Keeps s t := by
  have k := Keeps.timeWords h 
  rw [e] at k; exact k

theorem Keeps.setCmp {s x : State} (h : Keeps s x) (y1 : ℕ) (y2 : Cmp → Cmp) : Keeps s (State.setCmp x y1 y2) := by
  unfold State.setCmp
  repeat' first | with_reducible assumption | with_reducible apply Keeps.modTime

theorem Keeps.fireCmp {s x : State} (h : Keeps s x) (y1 : ℕ) : Keeps s (State.fireCmp x y1) := by
  unfold State.fireCmp
  repeat' first | with_reducible assumption | with_reducible apply Keeps.setCmp | with_reducible apply Keeps.emit | with_reducible apply Keeps.ite

theorem Keeps.armCmp {s x : State} (h : Keeps s x) (y1 : ℕ) : Keeps s (State.armCmp x y1) := by
  unfold State.armCmp
  repeat' first | with_reducible assumption | with_reducible apply Keeps.elapse | with_reducible apply Keeps.setCmp | with_reducible apply Keeps.fireCmp | with_reducible apply Keeps.ite | with_reducible apply Keeps.ite1 | with_reducible apply KeepsO.ite | with_reducible apply KeepsO.next | split | dsimp only | intro _ | with_reducible refine Keeps.lit ?_ rfl rfl rfl rfl

theorem KeepsO.execCmpArm {s x : State} (h : Keeps s x) (y1 : Master) (y2 : ℕ) : KeepsO s (execCmpArm y1 y2 x) := by
  unfold Machine.execCmpArm
  repeat' first | with_reducible assumption | with_reducible apply Keeps.viaWrite | with_reducible apply Keeps.quiet | with_reducible apply Keeps.armCmp | with_reducible apply Keeps.ite | with_reducible apply KeepsO.ite | with_reducible apply KeepsO.next | split | dsimp only | intro _

theorem KeepsO.execCmpFire {s x : State} (h : Keeps s x) (y1 : ℕ) : KeepsO s (Machine.execCmpFire y1 x) := by
  unfold Machine.execCmpFire
  repeat' first | with_reducible assumption | with_reducible apply Keeps.quiet | with_reducible apply Keeps.fireCmp | with_reducible apply Keeps.modTime | with_reducible apply Keeps.ite | with_reducible apply Keeps.ite1 | with_reducible apply KeepsO.ite | with_reducible apply KeepsO.next | split | dsimp only | intro _ | with_reducible refine Keeps.lit ?_ rfl rfl rfl rfl

theorem Keeps.setEntry {s x : State} (h : Keeps s x) (y1 : ℕ) (y2 : RefEntry → RefEntry) : Keeps s (State.setEntry x y1 y2) := by
  unfold State.setEntry
  repeat' first | with_reducible assumption | with_reducible apply Keeps.modRef

theorem Keeps.moveEntry {s x : State} (h : Keeps s x) (y1 : Refsel) (y2 : List (Bool × Option (ℕ × Bool))) (y3 : List (Bool × Option (ℕ × Bool))) (y4 : ℕ) : Keeps s (State.moveEntry y1 y2 y3 x y4) := by
  unfold State.moveEntry
  repeat' first | with_reducible assumption | with_reducible apply Keeps.setEntry | with_reducible apply Keeps.raiseAs | with_reducible apply Keeps.ite | with_reducible apply Keeps.ite1 | with_reducible apply KeepsO.ite | with_reducible apply KeepsO.next | split | dsimp only | intro _ | with_reducible refine Keeps.lit ?_ rfl rfl rfl rfl

theorem Keeps.holdCorr {s x : State} (h : Keeps s x) (y1 : ℤ) : Keeps s (State.holdCorr x y1) := by
  unfold State.holdCorr
  repeat' first | with_reducible assumption | with_reducible apply Keeps.modTime | with_reducible apply Keeps.modRef | with_reducible apply Keeps.ite | with_reducible apply Keeps.ite1 | with_reducible apply KeepsO.ite | with_reducible apply KeepsO.next | split | dsimp only | intro _ | with_reducible refine Keeps.lit ?_ rfl rfl rfl rfl

theorem Keeps.unselect {s x : State} (h : Keeps s x)  : Keeps s (State.unselect x) := by
  unfold State.unselect
  repeat' first | with_reducible assumption | with_reducible apply Keeps.setEntry | with_reducible apply Keeps.ite | with_reducible apply KeepsO.ite | with_reducible apply KeepsO.next | split

theorem Keeps.nightwatch {s x : State} (h : Keeps s x) : Keeps s (State.nightwatch x) := by
  unfold State.nightwatch
  repeat' first | with_reducible assumption | with_reducible apply Keeps.unselect | with_reducible apply Keeps.modRef | with_reducible apply Keeps.holdCorr | with_reducible apply Keeps.raiseT | with_reducible apply Keeps.ite | with_reducible apply Keeps.ite1 | with_reducible apply KeepsO.ite | with_reducible apply KeepsO.next | split | dsimp only | intro _ | with_reducible refine Keeps.lit ?_ rfl rfl rfl rfl

theorem Keeps.freeRun {s x : State} (h : Keeps s x) : Keeps s (State.freeRun x) := by
  unfold State.freeRun
  repeat' first | with_reducible assumption | with_reducible apply Keeps.unselect | with_reducible apply Keeps.modRef | with_reducible apply Keeps.holdCorr | with_reducible apply Keeps.modTop | with_reducible apply Keeps.ite | with_reducible apply Keeps.ite1 | with_reducible apply KeepsO.ite | with_reducible apply KeepsO.next | split | dsimp only | intro _ | with_reducible refine Keeps.lit ?_ rfl rfl rfl rfl

theorem Keeps.switchTo {s x : State} (h : Keeps s x) (y1 : ℕ) : Keeps s (State.switchTo x y1) := by
  unfold State.switchTo
  repeat' first | with_reducible assumption | with_reducible apply Keeps.modRef | with_reducible apply Keeps.holdCorr | with_reducible apply Keeps.ite | with_reducible apply Keeps.ite1 | with_reducible apply KeepsO.ite | with_reducible apply KeepsO.next | split | dsimp only | intro _ | with_reducible refine Keeps.lit ?_ rfl rfl rfl rfl

theorem Keeps.refDecide {s x : State} (h : Keeps s x) (y1 : Bool) : Keeps s (State.refDecide x y1) := by
  unfold State.refDecide
  repeat' first | with_reducible assumption | with_reducible apply Keeps.switchTo | with_reducible apply Keeps.nightwatch | with_reducible apply Keeps.freeRun | with_reducible apply Keeps.ite | with_reducible apply Keeps.ite1 | with_reducible apply KeepsO.ite | with_reducible apply KeepsO.next | split | dsimp only

theorem Keeps.measureRefs {s x : State} (h : Keeps s x) (y1 : List RefMeas) : Keeps s (State.measureRefs x y1) := by
  unfold State.measureRefs
  repeat' first | with_reducible assumption | with_reducible apply Keeps.foldS | with_reducible apply Keeps.setEntry | with_reducible apply Keeps.ite | with_reducible apply KeepsO.ite | with_reducible apply KeepsO.next | split | dsimp only | intro _

theorem Keeps.refHistory {s x : State} (h : Keeps s x)  : Keeps s (State.refHistory x) := by
  unfold State.refHistory
  repeat' first | with_reducible assumption | with_reducible apply Keeps.modRef

theorem Keeps.writeCorr {s x : State} (h : Keeps s x) : Keeps s (State.writeCorr x) := by
  unfold State.writeCorr
  repeat' first | with_reducible assumption | with_reducible apply Keeps.modTime | with_reducible apply Keeps.ite | with_reducible apply Keeps.ite1 | with_reducible apply KeepsO.ite | with_reducible apply KeepsO.next | split | dsimp only | intro _ | with_reducible refine Keeps.lit ?_ rfl rfl rfl rfl

theorem Keeps.realignStep {s x : State} (h : Keeps s x) : Keeps s (State.realignStep x) := by
  unfold State.realignStep
  repeat' first | with_reducible assumption | with_reducible apply Keeps.modRef | with_reducible apply Keeps.switchTo | with_reducible apply Keeps.writeCorr | with_reducible apply Keeps.ite | with_reducible apply Keeps.ite1 | with_reducible apply KeepsO.ite | with_reducible apply KeepsO.next | split | dsimp only | intro _ | with_reducible refine Keeps.lit ?_ rfl rfl rfl rfl

theorem Keeps.lockHolds {s x : State} (h : Keeps s x)  : Keeps s (State.lockHolds x) := by
  unfold State.lockHolds
  repeat' first | with_reducible assumption | with_reducible apply Keeps.modTop | with_reducible apply Keeps.ite

theorem KeepsO.execRefselEvaluation {s x : State} (h : Keeps s x) (y1 : List RefMeas) : KeepsO s (Machine.execRefselEvaluation y1 x) := by
  unfold Machine.execRefselEvaluation
  repeat' first | with_reducible assumption | with_reducible apply Keeps.quiet | with_reducible apply Keeps.elapse | with_reducible apply Keeps.measureRefs | with_reducible refine Keeps.foldS ?_ _ (fun _ _ _ => ?_) _ | with_reducible apply Keeps.moveEntry | with_reducible apply Keeps.raiseT | with_reducible apply Keeps.modRef | with_reducible apply Keeps.switchTo | with_reducible apply Keeps.refHistory | with_reducible apply Keeps.realignStep | with_reducible apply Keeps.refDecide | with_reducible apply Keeps.lockHolds | with_reducible apply Keeps.look | with_reducible apply Cluster.Ok.look | with_reducible apply Keeps.ite | with_reducible apply Keeps.ite1 | with_reducible apply KeepsO.ite | with_reducible apply KeepsO.next | split | dsimp only | intro _ | with_reducible refine Keeps.lit ?_ rfl rfl rfl rfl

theorem KeepsO.execQualExpiry {s x : State} (h : Keeps s x) (y1 : ℕ) : KeepsO s (execQualExpiry y1 x) := by
  unfold Machine.execQualExpiry
  repeat' first | with_reducible assumption | with_reducible apply Keeps.quiet | with_reducible apply Keeps.setEntry | with_reducible apply Keeps.ite | with_reducible apply KeepsO.ite | with_reducible apply KeepsO.next

theorem KeepsO.execDwellExpiry {s x : State} (h : Keeps s x) : KeepsO s (Machine.execDwellExpiry x) := by
  unfold Machine.execDwellExpiry
  repeat' first | with_reducible assumption | with_reducible apply Keeps.quiet | with_reducible apply Keeps.elapse | with_reducible apply Keeps.switchTo | with_reducible apply Keeps.ite | with_reducible apply Keeps.ite1 | with_reducible apply KeepsO.ite | with_reducible apply KeepsO.next | split | dsimp only | intro _ | with_reducible refine Keeps.lit ?_ rfl rfl rfl rfl

theorem KeepsO.execWtrExpiry {s x : State} (h : Keeps s x) (y1 : ℕ) : KeepsO s (Machine.execWtrExpiry y1 x) := by
  unfold Machine.execWtrExpiry
  repeat' first | with_reducible assumption | with_reducible apply Keeps.quiet | with_reducible apply Keeps.elapse | with_reducible apply Keeps.switchTo | with_reducible apply Keeps.ite | with_reducible apply Keeps.ite1 | with_reducible apply KeepsO.ite | with_reducible apply KeepsO.next | split | dsimp only | intro _ | with_reducible refine Keeps.lit ?_ rfl rfl rfl rfl

theorem KeepsO.execSuspectRecovery {s x : State} (h : Keeps s x) (y1 : ℕ) : KeepsO s (execSuspectRecovery y1 x) := by
  unfold Machine.execSuspectRecovery
  repeat' first | with_reducible assumption | with_reducible apply Keeps.quiet | with_reducible apply Keeps.setEntry | with_reducible apply Keeps.ite | with_reducible apply KeepsO.ite | with_reducible apply KeepsO.next

theorem KeepsO.execRefSwitch {s x : State} (h : Keeps s x) (y1 : ℤ) : KeepsO s (execRefSwitch y1 x) := by
  unfold Machine.execRefSwitch
  repeat' first | with_reducible assumption | with_reducible apply Keeps.quiet | with_reducible apply Keeps.modRef | with_reducible apply Keeps.setEntry | with_reducible apply Keeps.unselect | with_reducible apply Keeps.raiseAs | with_reducible apply Keeps.ite | with_reducible apply KeepsO.ite | with_reducible apply KeepsO.next | split | dsimp only

theorem KeepsO.execHoSpecLost {s x : State} (h : Keeps s x)  : KeepsO s (execHoSpecLost x) := by
  unfold Machine.execHoSpecLost
  repeat' first | with_reducible assumption | with_reducible apply Keeps.quiet | with_reducible apply Keeps.raiseT | with_reducible apply Keeps.modRef | with_reducible apply Keeps.ite | with_reducible apply KeepsO.ite | with_reducible apply KeepsO.next

theorem KeepsO.execXoFail {s x : State} (h : Keeps s x)  : KeepsO s (execXoFail x) := by
  unfold Machine.execXoFail
  repeat' first | with_reducible assumption | with_reducible apply Keeps.raiseT | with_reducible apply Keeps.quiet | with_reducible apply Keeps.ite | with_reducible apply KeepsO.ite | with_reducible apply KeepsO.next | split | dsimp only | intro _ | with_reducible refine Keeps.lit ?_ rfl rfl rfl rfl

theorem KeepsO.execApllUnlock {s x : State} (h : Keeps s x)  : KeepsO s (execApllUnlock x) := by
  unfold Machine.execApllUnlock
  repeat' first | with_reducible assumption | with_reducible apply Keeps.raiseT | with_reducible apply Keeps.modRef | with_reducible apply Keeps.quiet | with_reducible apply Keeps.ite | with_reducible apply KeepsO.ite | with_reducible apply KeepsO.next

theorem KeepsO.execDpllUpdate {s x : State} (h : Keeps s x) (y1 : ℤ) : KeepsO s (Machine.execDpllUpdate y1 x) := by
  unfold Machine.execDpllUpdate
  repeat' first | with_reducible assumption | with_reducible apply Keeps.quiet | with_reducible apply Keeps.elapse | with_reducible apply Keeps.modRef | with_reducible apply Keeps.writeCorr | with_reducible apply Keeps.ite | with_reducible apply Keeps.ite1 | with_reducible apply KeepsO.ite | with_reducible apply KeepsO.next | split | dsimp only | intro _ | with_reducible refine Keeps.lit ?_ rfl rfl rfl rfl

theorem KeepsO.execTimeLock {s x : State} (h : Keeps s x)  : KeepsO s (execTimeLock x) := by
  unfold Machine.execTimeLock
  repeat' first | with_reducible assumption | with_reducible apply Keeps.quiet | with_reducible apply Keeps.modTop | with_reducible apply Keeps.modRef | with_reducible apply Keeps.ite | with_reducible apply KeepsO.ite | with_reducible apply KeepsO.next

theorem Keeps.sendPtp {s x : State} (h : Keeps s x) (y1 : ℕ) (y2 : ℕ) (y3 : ℕ) (y4 : ℕ) (y5 : ℤ) (y6 : List Byte) : Keeps s (State.sendPtp x y1 y2 y3 y4 y5 y6) := by
  unfold State.sendPtp
  repeat' first | with_reducible assumption | with_reducible apply Keeps.secure | with_reducible apply Keeps.emit | with_reducible apply Keeps.ite | with_reducible apply Keeps.ite1 | with_reducible apply KeepsO.ite | with_reducible apply KeepsO.next | split | dsimp only | intro _ | with_reducible refine Keeps.lit ?_ rfl rfl rfl rfl

theorem Keeps.sendStamped {s x : State} (h : Keeps s x) (y1 : ℕ) (y2 : ℕ) (y3 : ℕ) : Keeps s (State.sendStamped x y1 y2 y3) := by
  unfold State.sendStamped
  repeat' first | with_reducible assumption | with_reducible apply Keeps.elapse | with_reducible apply Keeps.sendPtp | with_reducible apply Keeps.ite | with_reducible apply Keeps.ite1 | with_reducible apply KeepsO.ite | with_reducible apply KeepsO.next | split | dsimp only | intro _ | with_reducible refine Keeps.lit ?_ rfl rfl rfl rfl

theorem Keeps.delayRequest {s x : State} (h : Keeps s x) (y1 : ℕ) : Keeps s (State.delayRequest x y1) := by
  unfold State.delayRequest
  repeat' first | with_reducible assumption | with_reducible apply Keeps.sendPtp | with_reducible apply Keeps.ite | with_reducible apply Keeps.ite1 | with_reducible apply KeepsO.ite | with_reducible apply KeepsO.next | split | dsimp only | intro _ | with_reducible refine Keeps.lit ?_ rfl rfl rfl rfl

theorem KeepsO.execPtpSend {s x : State} (h : Keeps s x) (y1 : ℕ) : KeepsO s (Machine.execPtpSend y1 x) := by
  unfold Machine.execPtpSend
  repeat' first | with_reducible assumption | with_reducible apply Keeps.quiet | with_reducible apply Keeps.delayRequest | with_reducible apply Keeps.freeBits | with_reducible refine Keeps.freeBits_eq ?_ (by assumption) | with_reducible apply Keeps.sendStamped | with_reducible apply Keeps.sendPtp | with_reducible apply Keeps.ite | with_reducible apply Keeps.ite1 | with_reducible apply KeepsO.ite | with_reducible apply KeepsO.next | split | dsimp only | intro _ | with_reducible refine Keeps.lit ?_ rfl rfl rfl rfl

end Sys2Proof.Machine
end

