-- ==== Sys2Proof/Laws/KeepsFaults.lean ====
section
/-! SUPPORT. Each operation of Machine/Faults.lean keeps what every command respects. -/

namespace Sys2Proof.Machine

theorem Keeps.clusterReaction {s x : State} (h : Keeps s x) (y1 : ℕ) (y2 : ℕ) : Keeps s (State.clusterReaction x y1 y2) := by
  unfold State.clusterReaction
  repeat' first | with_reducible assumption | with_reducible apply Keeps.spareEvent | with_reducible apply Keeps.repairSpin | with_reducible apply Keeps.containCluster | with_reducible apply Keeps.spareFails | with_reducible apply Keeps.ite

theorem Keeps.react {s x : State} (h : Keeps s x) (y1 : ℕ) (y2 : ℕ) : Keeps s (State.react x y1 y2) := by
  unfold State.react
  repeat' first | with_reducible assumption | with_reducible apply Keeps.clusterReaction | with_reducible apply Keeps.toRejoin | with_reducible apply Keeps.ite

theorem Keeps.forceEvent {s x : State} (h : Keeps s x) (y1 : Bool) (y2 : ℕ) (y3 : ℕ) : Keeps s (State.forceEvent y1 y2 x y3) := by
  unfold State.forceEvent
  repeat' first | with_reducible assumption | with_reducible apply Keeps.setCommon | with_reducible apply Keeps.modTop | with_reducible apply Keeps.emit | with_reducible apply Keeps.react | with_reducible apply Keeps.classFNow | with_reducible apply Keeps.ite | with_reducible apply KeepsO.ite | with_reducible apply KeepsO.next | split | dsimp only | intro _ | with_reducible refine Keeps.lit ?_ rfl rfl rfl rfl

theorem Keeps.force {s x : State} (h : Keeps s x) (y1 : ℕ) (y2 : Word) : Keeps s (State.force x y1 y2) := by
  unfold State.force
  repeat' first | with_reducible assumption | with_reducible apply Keeps.foldS | with_reducible apply Keeps.forceEvent | with_reducible apply Keeps.setCommon | with_reducible apply Keeps.ite | with_reducible apply KeepsO.ite | with_reducible apply KeepsO.next | split | dsimp only | intro _

theorem KeepsO.execForce {s x : State} (h : Keeps s x) (y1 : Master) (y2 : ℕ) (y3 : Word) : KeepsO s (execForce y1 y2 y3 x) := by
  unfold Machine.execForce
  repeat' first | with_reducible assumption | with_reducible apply Keeps.viaWrite | with_reducible apply Keeps.quiet | with_reducible apply Keeps.force | with_reducible apply Keeps.ite | with_reducible apply KeepsO.ite | with_reducible apply KeepsO.next | split | dsimp only | intro _

theorem Keeps.clearHist {s x : State} (h : Keeps s x) (y1 : ℕ) : Keeps s (State.clearHist x y1) := by
  unfold State.clearHist
  repeat' first | with_reducible assumption | with_reducible apply Keeps.setCommon

theorem KeepsO.execClear {s x : State} (h : Keeps s x) (y1 : Master) (y2 : ℕ) : KeepsO s (execClear y1 y2 x) := by
  unfold Machine.execClear
  repeat' first | with_reducible assumption | with_reducible apply Keeps.viaWrite | with_reducible apply Keeps.quiet | with_reducible apply Keeps.clearHist | with_reducible apply Keeps.ite | with_reducible apply KeepsO.ite | with_reducible apply KeepsO.next | split | dsimp only | intro _

theorem Keeps.readIntStat {s x : State} (h : Keeps s x) (y1 : Master) (y2 : ℕ) : Keeps s (State.readIntStat x y1 y2) := by
  unfold State.readIntStat
  repeat' first | with_reducible assumption | with_reducible apply Keeps.fresh | with_reducible apply Keeps.setCommon | with_reducible apply Keeps.ite

theorem KeepsO.execIntStatRead {s x : State} (h : Keeps s x) (y1 : Master) (y2 : ℕ) : KeepsO s (execIntStatRead y1 y2 x) := by
  unfold Machine.execIntStatRead
  repeat' first | with_reducible assumption | with_reducible apply Keeps.quiet | with_reducible apply Keeps.berr | with_reducible apply Keeps.emit | with_reducible apply Keeps.readIntStat | with_reducible apply Keeps.ite | with_reducible apply KeepsO.ite | with_reducible apply KeepsO.next | split | dsimp only

theorem KeepsO.execFaultPoll {s x : State} (h : Keeps s x) : KeepsO s (execFaultPoll x) :=
  .next (h.quiet.fresh.foldS _ (fun _ _ k => .ite (k.setCommon _ _) k) _)

theorem KeepsO.execErrPulseEnd {s x : State} (h : Keeps s x)  : KeepsO s (execErrPulseEnd x) := by
  unfold Machine.execErrPulseEnd
  repeat' first | with_reducible assumption | with_reducible apply Keeps.quiet | with_reducible apply Keeps.modTop | with_reducible apply Keeps.emit | with_reducible apply Keeps.ite | with_reducible apply KeepsO.ite | with_reducible apply KeepsO.next | split | dsimp only

theorem Keeps.holdRelease {s x : State} (h : Keeps s x)  : Keeps s (State.holdRelease x) := by
  unfold State.holdRelease
  repeat' first | with_reducible assumption | with_reducible apply Keeps.modTop | with_reducible apply Keeps.emit | with_reducible apply Keeps.ite

theorem Keeps.holdSet {s x : State} (h : Keeps s x)  : Keeps s (State.holdSet x) := by
  unfold State.holdSet
  repeat' first | with_reducible assumption | with_reducible apply Keeps.emit | with_reducible apply Keeps.modTop

theorem KeepsO.execHoldRelease {s x : State} (h : Keeps s x) (y1 : Master) : KeepsO s (execHoldRelease y1 x) := by
  unfold Machine.execHoldRelease
  repeat' first | with_reducible assumption | with_reducible apply Keeps.viaWrite | with_reducible apply Keeps.quiet | with_reducible apply Keeps.holdRelease | with_reducible apply Keeps.ite | with_reducible apply KeepsO.ite | with_reducible apply KeepsO.next

theorem KeepsO.execHoldSet {s x : State} (h : Keeps s x) (y1 : Master) : KeepsO s (execHoldSet y1 x) := by
  unfold Machine.execHoldSet
  repeat' first | with_reducible assumption | with_reducible apply Keeps.viaWrite | with_reducible apply Keeps.quiet | with_reducible apply Keeps.holdSet | with_reducible apply Keeps.ite | with_reducible apply KeepsO.ite | with_reducible apply KeepsO.next

theorem Keeps.drainGroup {s x : State} (h : Keeps s x) (y1 : ℕ) : Keeps s (State.drainGroup x y1) := by
  unfold State.drainGroup
  repeat' first | with_reducible assumption | with_reducible apply Keeps.emit | with_reducible apply Keeps.countPort | with_reducible apply Keeps.setGroup | with_reducible apply Keeps.raise | with_reducible apply Keeps.foldS | with_reducible apply Keeps.ite | with_reducible apply KeepsO.ite | with_reducible apply KeepsO.next | split | dsimp only | intro _

theorem Keeps.settleGroup {s x : State} (h : Keeps s x) (y1 : ℕ) : Keeps s (State.settleGroup x y1) := by
  unfold State.settleGroup
  repeat' first | with_reducible assumption | with_reducible apply Keeps.raiseAs | with_reducible apply Keeps.setGroup | with_reducible apply Keeps.ite

theorem Keeps.resetPort {s x : State} (h : Keeps s x) (y1 : ℕ) : Keeps s (State.resetPort x y1) := by
  unfold State.resetPort
  repeat' first | with_reducible assumption | with_reducible apply Keeps.setPort | with_reducible apply Keeps.raiseAs | with_reducible apply Keeps.drainGroup | with_reducible apply Keeps.ite | with_reducible apply KeepsO.ite | with_reducible apply KeepsO.next | split

theorem Keeps.resetCsw {s x : State} (h : Keeps s x)  : Keeps s (State.resetCsw x) := by
  unfold State.resetCsw
  repeat' first | with_reducible assumption | with_reducible apply Keeps.foldS | with_reducible apply Keeps.withdrawTags | with_reducible apply Keeps.modCsw | with_reducible apply Keeps.ite | with_reducible apply KeepsO.ite | with_reducible apply KeepsO.next | split | dsimp only | intro _

theorem Keeps.startReset {s x : State} (h : Keeps s x) (y1 : ℕ) : Keeps s (State.startReset x y1) := by
  unfold State.startReset
  repeat' first | with_reducible assumption | with_reducible apply Keeps.modTop | with_reducible apply Keeps.resetPort | with_reducible apply Keeps.resetCsw | with_reducible apply Keeps.ite | with_reducible apply KeepsO.ite | with_reducible apply KeepsO.next | split | dsimp only | intro _ | with_reducible refine Keeps.lit ?_ rfl rfl rfl rfl

theorem Keeps.requestReset {s x : State} (h : Keeps s x) (y1 : Master) (y2 : ℕ) : Keeps s (State.requestReset y1 x y2) := by
  unfold State.requestReset
  repeat' first | with_reducible assumption | with_reducible apply Keeps.modTop | with_reducible apply Keeps.startReset | with_reducible apply Keeps.ite

theorem Keeps.writeFrst0 {s x : State} (h : Keeps s x) (y1 : Master) (y2 : Word) : Keeps s (State.writeFrst0 x y1 y2) := by
  unfold State.writeFrst0
  repeat' first | with_reducible assumption | with_reducible apply Keeps.modTop | with_reducible apply Keeps.foldS | with_reducible apply Keeps.requestReset | with_reducible apply Keeps.ite | with_reducible apply KeepsO.ite | with_reducible apply KeepsO.next | split | dsimp only | intro _

theorem Keeps.goFrst1 {s x : State} (h : Keeps s x) (y1 : Master) (y2 : ℕ) : Keeps s (State.goFrst1 x y1 y2) := by
  unfold State.goFrst1
  repeat' first | with_reducible assumption | with_reducible apply Keeps.requestReset | with_reducible apply Keeps.modTop

theorem KeepsO.execFrst0 {s x : State} (h : Keeps s x) (y1 : Master) (y2 : Word) : KeepsO s (execFrst0 y1 y2 x) := by
  unfold Machine.execFrst0
  repeat' first | with_reducible assumption | with_reducible apply Keeps.viaWrite | with_reducible apply Keeps.quiet | with_reducible apply Keeps.writeFrst0 | with_reducible apply Keeps.ite | with_reducible apply KeepsO.ite | with_reducible apply KeepsO.next | split | dsimp only | intro _

theorem KeepsO.execFrst1Go {s x : State} (h : Keeps s x) (y1 : Master) (y2 : ℕ) : KeepsO s (execFrst1Go y1 y2 x) := by
  unfold Machine.execFrst1Go
  repeat' first | with_reducible assumption | with_reducible apply Keeps.viaWrite | with_reducible apply Keeps.quiet | with_reducible apply Keeps.goFrst1 | with_reducible apply Keeps.ite | with_reducible apply KeepsO.ite | with_reducible apply KeepsO.next | split | dsimp only | intro _

theorem Cluster.Ok.rest {x : Cluster} (h : x.Ok) : (Cluster.rest x).Ok := by
  unfold Cluster.rest
  repeat' first | with_reducible assumption | with_reducible apply Cluster.Ok.ite | split | dsimp only | intro _ | with_reducible apply Cluster.Ok.lit

theorem Keeps.functionRest {s x : State} (h : Keeps s x) (y1 : ℕ) : Keeps s (State.functionRest x y1) := by
  unfold State.functionRest
  repeat' first | with_reducible assumption | with_reducible apply Keeps.setCommon | with_reducible apply Cluster.Ok.rest | with_reducible apply Keeps.silRest | with_reducible apply Keeps.modCsw | with_reducible refine Keeps.setCluster ?_ _ _ (fun _ _ => ?_) | with_reducible apply Keeps.ite | with_reducible apply Keeps.ite1 | with_reducible apply KeepsO.ite | with_reducible apply KeepsO.next | with_reducible apply Cluster.Ok.ite | split | dsimp only | intro _ | with_reducible refine Keeps.lit ?_ rfl rfl rfl rfl

theorem Keeps.nextReset {s x : State} (h : Keeps s x)  : Keeps s (State.nextReset x) := by
  unfold State.nextReset
  repeat' first | with_reducible assumption | with_reducible apply Keeps.startReset | with_reducible apply Keeps.modTop | with_reducible apply Keeps.ite | with_reducible apply KeepsO.ite | with_reducible apply KeepsO.next | split | dsimp only

theorem KeepsO.execFrstDone {s x : State} (h : Keeps s x) (y1 : ℕ) : KeepsO s (execFrstDone y1 x) := by
  unfold Machine.execFrstDone
  repeat' first | with_reducible assumption | with_reducible apply Keeps.quiet | with_reducible apply Keeps.functionRest | with_reducible apply Keeps.modTop | with_reducible apply Keeps.nextReset | with_reducible apply Keeps.raise | with_reducible apply Keeps.ite | with_reducible apply KeepsO.ite | with_reducible apply KeepsO.next

theorem KeepsO.execFrstFail {s x : State} (h : Keeps s x) (y1 : ℕ) : KeepsO s (execFrstFail y1 x) := by
  unfold Machine.execFrstFail
  repeat' first | with_reducible assumption | with_reducible apply Keeps.quiet | with_reducible apply Keeps.modTop | with_reducible apply Keeps.nextReset | with_reducible apply Keeps.raise | with_reducible apply Keeps.ite | with_reducible apply KeepsO.ite | with_reducible apply KeepsO.next

theorem Keeps.reexamine {s x : State} (h : Keeps s x) (y1 : ℕ) (y2 : HeldCond) : Keeps s (State.reexamine y1 x y2) := by
  unfold State.reexamine
  repeat' first | with_reducible assumption | with_reducible apply Keeps.holdIn | with_reducible apply Keeps.raiseAs | with_reducible apply Keeps.ite | with_reducible apply Keeps.ite1 | with_reducible apply KeepsO.ite | with_reducible apply KeepsO.next | split

theorem KeepsO.execShadowClose {s x : State} (h : Keeps s x) (y1 : ℕ) : KeepsO s (Machine.execShadowClose y1 x) := by
  unfold Machine.execShadowClose
  repeat' first | with_reducible assumption | with_reducible apply Keeps.quiet | with_reducible refine Keeps.foldS ?_ _ (fun _ _ _ => ?_) _ | with_reducible apply Keeps.reexamine | with_reducible apply Keeps.modTop | with_reducible apply Keeps.ite | with_reducible apply Keeps.ite1 | with_reducible apply KeepsO.ite | with_reducible apply KeepsO.next | split | dsimp only

theorem KeepsO.execSpinStart {s x : State} (h : Keeps s x) (y1 : Master) (y2 : ℕ) (y3 : ℕ) (y4 : Bool) : KeepsO s (execSpinStart y1 y2 y3 y4 x) := by
  unfold Machine.execSpinStart
  repeat' first | with_reducible assumption | with_reducible apply Keeps.viaWrite | with_reducible apply Keeps.quiet | with_reducible apply Keeps.spinCommand | with_reducible apply Keeps.ite | with_reducible apply KeepsO.ite | with_reducible apply KeepsO.next | split | dsimp only | intro _

theorem KeepsO.execSpinAbandon {s x : State} (h : Keeps s x) (y1 : Master) (y2 : ℕ) : KeepsO s (execSpinAbandon y1 y2 x) := by
  unfold Machine.execSpinAbandon
  repeat' first | with_reducible assumption | with_reducible apply Keeps.viaWrite | with_reducible apply Keeps.quiet | with_reducible apply Keeps.spinAbandon | with_reducible apply Keeps.ite | with_reducible apply KeepsO.ite | with_reducible apply KeepsO.next | split | dsimp only | intro _

end Sys2Proof.Machine
end

