-- ==== Sys2Proof/Laws/KeepsPower.lean ====
section
/-! SUPPORT. Each operation of Machine/Power.lean keeps what every command respects. -/

namespace Sys2Proof.Machine

theorem Keeps.beginSwitch {s x : State} (h : Keeps s x) (y1 : ℕ) (y2 : Bool) : Keeps s (State.beginSwitch x y1 y2) := by
  unfold State.beginSwitch
  repeat' first | with_reducible assumption | with_reducible apply Keeps.modPwr

theorem Keeps.switchDomain {s x : State} (h : Keeps s x) (y1 : ℕ) (y2 : Bool) : Keeps s (State.switchDomain x y1 y2) := by
  unfold State.switchDomain
  repeat' first | with_reducible assumption | with_reducible apply Keeps.setCommon | with_reducible apply Keeps.modPwr | with_reducible apply Keeps.beginSwitch | with_reducible apply Keeps.ite

theorem Keeps.nextSwitch {s x : State} (h : Keeps s x) (l : List (Nat × Bool)) : Keeps s (x.nextSwitch l) := by
  induction l generalizing x with
  | nil => exact h.modPwr _
  | cons a t ih => unfold State.nextSwitch; exact .ite (ih h) (.ite (ih (h.setCommon _ _)) ((h.modPwr _).beginSwitch _ _))

theorem KeepsO.execSwitch {s x : State} (h : Keeps s x) (y1 : ℕ) (y2 : Bool) : KeepsO s (execSwitch y1 y2 x) := by
  unfold Machine.execSwitch
  repeat' first | with_reducible assumption | with_reducible apply Keeps.switchDomain | with_reducible apply Keeps.quiet | with_reducible apply Keeps.ite | with_reducible apply KeepsO.ite | with_reducible apply KeepsO.next

theorem Keeps.poweredOn {s x : State} (h : Keeps s x) (y1 : ℕ) : Keeps s (State.poweredOn x y1) := by
  unfold State.poweredOn
  repeat' first | with_reducible assumption | with_reducible refine Keeps.setCluster ?_ _ _ (fun _ _ => ?_) | with_reducible apply Keeps.ite | with_reducible apply Keeps.ite1 | with_reducible apply KeepsO.ite | with_reducible apply KeepsO.next | with_reducible apply Cluster.Ok.ite | split | dsimp only | intro _ | with_reducible refine Keeps.lit ?_ rfl rfl rfl rfl | with_reducible apply Cluster.Ok.lit

theorem Keeps.poweredOff {s t : State} (x : State) (h : Keeps s t) (d : ℕ) : Keeps s (State.poweredOff x t d) := .ite (h.noteNoSpare _) h

theorem KeepsO.execDomainOn {s x : State} (h : Keeps s x) (y1 : ℕ) : KeepsO s (Machine.execDomainOn y1 x) := by
  unfold Machine.execDomainOn
  repeat' first | with_reducible assumption | with_reducible apply Keeps.quiet | with_reducible apply Keeps.modPwr | with_reducible apply Keeps.poweredOn | with_reducible apply Keeps.nextSwitch | with_reducible apply Keeps.ite | with_reducible apply Keeps.ite1 | with_reducible apply KeepsO.ite | with_reducible apply KeepsO.next | split | dsimp only | intro _ | with_reducible refine Keeps.lit ?_ rfl rfl rfl rfl

theorem KeepsO.execDomainOff {s x : State} (h : Keeps s x) (y1 : ℕ) : KeepsO s (Machine.execDomainOff y1 x) := by
  unfold Machine.execDomainOff
  repeat' first | with_reducible assumption | with_reducible apply Keeps.quiet | with_reducible apply Keeps.poweredOff | with_reducible apply Keeps.modPwr | with_reducible apply Keeps.domainLost | with_reducible apply Keeps.nextSwitch | with_reducible apply Keeps.ite | with_reducible apply Keeps.ite1 | with_reducible apply KeepsO.ite | with_reducible apply KeepsO.next | split | dsimp only | intro _ | with_reducible refine Keeps.lit ?_ rfl rfl rfl rfl

theorem Keeps.removeLanes {s x : State} (h : Keeps s x) (y1 : ℕ) (y2 : List ℕ) : Keeps s (State.removeLanes x y1 y2) := by
  unfold State.removeLanes
  repeat' first | with_reducible assumption | with_reducible apply Keeps.setGroup | with_reducible apply Keeps.foldS | with_reducible apply Keeps.setPort | with_reducible apply Keeps.emit | with_reducible apply Keeps.settleGroup | with_reducible apply Keeps.ite | with_reducible apply KeepsO.ite | with_reducible apply KeepsO.next | split | dsimp only | intro _

theorem Keeps.dropLink {s x : State} (h : Keeps s x) (y1 : ℕ) : Keeps s (State.dropLink x y1) := by
  unfold State.dropLink
  repeat' first | with_reducible assumption | with_reducible apply Keeps.setPort | with_reducible apply Keeps.countPort | with_reducible apply Keeps.raiseAs | with_reducible apply Keeps.ite | with_reducible apply Keeps.ite1 | with_reducible apply KeepsO.ite | with_reducible apply KeepsO.next | split | dsimp only | intro _ | with_reducible refine Keeps.lit ?_ rfl rfl rfl rfl

theorem Keeps.switchHalf {s x : State} (h : Keeps s x) (y1 : ℕ) (y2 : Bool) : Keeps s (State.switchHalf x y1 y2) := by
  unfold State.switchHalf
  repeat' first | with_reducible assumption | with_reducible apply Keeps.switchDomain | with_reducible refine Keeps.foldS ?_ _ (fun _ _ _ => ?_) _ | with_reducible apply Keeps.removeLanes | with_reducible apply Keeps.dropLink | with_reducible apply Keeps.modPwr | with_reducible apply Keeps.beginSwitch | with_reducible apply Keeps.ite | with_reducible apply Keeps.ite1 | with_reducible apply KeepsO.ite | with_reducible apply KeepsO.next | split | dsimp only | intro _ | with_reducible refine Keeps.lit ?_ rfl rfl rfl rfl

theorem KeepsO.execNorth {s x : State} (h : Keeps s x) (y1 : Bool) : KeepsO s (execNorth y1 x) := by
  unfold Machine.execNorth
  repeat' first | with_reducible assumption | with_reducible apply Keeps.switchHalf | with_reducible apply Keeps.quiet | with_reducible apply Keeps.ite | with_reducible apply KeepsO.ite | with_reducible apply KeepsO.next

theorem KeepsO.execSouth {s x : State} (h : Keeps s x) (y1 : Bool) : KeepsO s (execSouth y1 x) := by
  unfold Machine.execSouth
  repeat' first | with_reducible assumption | with_reducible apply Keeps.switchHalf | with_reducible apply Keeps.quiet | with_reducible apply Keeps.ite | with_reducible apply KeepsO.ite | with_reducible apply KeepsO.next

theorem KeepsO.execXoInValid {s x : State} (h : Keeps s x)  : KeepsO s (execXoInValid x) := by
  unfold Machine.execXoInValid
  repeat' first | with_reducible assumption | with_reducible apply Keeps.modPwr | with_reducible apply Keeps.quiet | with_reducible apply Keeps.nextSwitch | with_reducible apply Keeps.ite | with_reducible apply KeepsO.ite | with_reducible apply KeepsO.next

theorem Keeps.sendVout {s x : State} (h : Keeps s x) : Keeps s (State.sendVout x) := by
  unfold State.sendVout
  repeat' first | with_reducible assumption | with_reducible apply Keeps.fresh | with_reducible apply Keeps.ite | with_reducible apply Keeps.ite1 | with_reducible apply KeepsO.ite | with_reducible apply KeepsO.next | split | dsimp only | intro _ | with_reducible refine Keeps.lit ?_ rfl rfl rfl rfl

theorem KeepsO.execAvsEvaluation {s x : State} (h : Keeps s x) (y1 : List ℤ) : KeepsO s (execAvsEvaluation y1 x) := by
  unfold Machine.execAvsEvaluation
  repeat' first | with_reducible assumption | with_reducible apply Keeps.quiet | with_reducible apply Keeps.modPwr | with_reducible apply Keeps.sendVout | with_reducible apply Keeps.raiseT | with_reducible apply Keeps.ite | with_reducible apply KeepsO.ite | with_reducible apply KeepsO.next | split

theorem Keeps.attnReg {s x : State} (h : Keeps s x)  : Keeps s (State.attnReg x) := by
  unfold State.attnReg
  repeat' first | with_reducible assumption | with_reducible apply Keeps.ite | with_reducible apply KeepsO.ite | with_reducible apply KeepsO.next | split | dsimp only | intro _ | with_reducible refine Keeps.lit ?_ rfl rfl rfl rfl

theorem Keeps.setReg {s x : State} (h : Keeps s x) (y1 : ℕ) (y2 : Regulator → Regulator) : Keeps s (State.setReg x y1 y2) := by
  unfold State.setReg
  repeat' first | with_reducible assumption | with_reducible apply Keeps.modPwr

theorem Keeps.pollReg {s x : State} (h : Keeps s x) (y1 : RegPoll) : Keeps s (State.pollReg x y1) := by
  unfold State.pollReg
  repeat' first | with_reducible assumption | with_reducible apply Keeps.setReg | with_reducible apply Keeps.attnReg | with_reducible apply Keeps.raise | with_reducible apply Keeps.ite

theorem KeepsO.execRegulatorPoll {s x : State} (h : Keeps s x) (y1 : List RegPoll) : KeepsO s (execRegulatorPoll y1 x) := by
  unfold Machine.execRegulatorPoll
  repeat' first | with_reducible assumption | with_reducible apply Keeps.quiet | with_reducible apply Keeps.foldS | with_reducible apply Keeps.pollReg | with_reducible apply Keeps.ite | with_reducible apply KeepsO.ite | with_reducible apply KeepsO.next | split | dsimp only | intro _

theorem KeepsO.execThermalRead {s x : State} (h : Keeps s x) (y1 : List ℤ) : KeepsO s (execThermalRead y1 x) := by
  unfold Machine.execThermalRead
  repeat' first | with_reducible assumption | with_reducible apply Keeps.quiet | with_reducible apply Keeps.modPwr | with_reducible apply Keeps.raiseT | with_reducible apply Keeps.ite | with_reducible apply KeepsO.ite | with_reducible apply KeepsO.next | split | dsimp only | intro _ | with_reducible refine Keeps.lit ?_ rfl rfl rfl rfl

theorem Keeps.tripOff {s x : State} (h : Keeps s x)  : Keeps s (State.tripOff x) := by
  unfold State.tripOff
  repeat' first | with_reducible assumption | with_reducible apply Keeps.enterNight | with_reducible apply Keeps.foldS | with_reducible apply Keeps.domainLost | with_reducible apply Keeps.ite | with_reducible apply KeepsO.ite | with_reducible apply KeepsO.next | split | dsimp only | intro _ | with_reducible refine Keeps.lit ?_ rfl rfl rfl rfl

theorem KeepsO.execThermTrip {s x : State} (h : Keeps s x)  : KeepsO s (execThermTrip x) := by
  unfold Machine.execThermTrip
  repeat' first | with_reducible assumption | with_reducible apply Keeps.raiseT | with_reducible apply Keeps.tripOff | with_reducible apply Keeps.quiet | with_reducible apply Keeps.ite | with_reducible apply KeepsO.ite | with_reducible apply KeepsO.next

theorem KeepsO.execVmonWarn {s x : State} (h : Keeps s x) (y1 : ℕ) (y2 : Bool) : KeepsO s (execVmonWarn y1 y2 x) := by
  unfold Machine.execVmonWarn
  repeat' first | with_reducible assumption | with_reducible apply Keeps.quiet | with_reducible apply Keeps.modPwr | with_reducible apply Keeps.raiseT | with_reducible apply Keeps.ite | with_reducible apply KeepsO.ite | with_reducible apply KeepsO.next

end Sys2Proof.Machine
end

