-- ==== Sys2Proof/Laws/KeepsSecurity.lean ====
section
/-! SUPPORT. Each operation of Machine/Security.lean keeps what every command respects. -/

namespace Sys2Proof.Machine

theorem Keeps.secEvent {s x : State} (h : Keeps s x) (y1 : ℕ) (y2 : EvClass) (y3 : ℕ) : Keeps s (State.secEvent x y1 y2 y3) := by
  unfold State.secEvent
  repeat' first | with_reducible assumption | with_reducible apply Keeps.raiseAs

theorem Keeps.freshNonce {s x : State} (h : Keeps s x)  : Keeps s (State.freshNonce x).1 := by
  unfold State.freshNonce
  repeat' first | with_reducible assumption | with_reducible apply Keeps.fresh

theorem Keeps.freshNonce_eq {s x t : State} (h : Keeps s x)  {n} (e : State.freshNonce x = (t, n)) : Keeps s t := by
  have k := Keeps.freshNonce h 
  rw [e] at k; exact k

theorem KeepsO.execHandshakeHello {s x : State} (h : Keeps s x) (y1 : HelloMsg) : KeepsO s (execHandshakeHello y1 x) := by
  unfold Machine.execHandshakeHello
  repeat' first | with_reducible assumption | with_reducible apply Keeps.quiet | with_reducible apply Keeps.modSec | with_reducible apply Keeps.fresh | with_reducible apply Keeps.emit | with_reducible apply Keeps.ite | with_reducible apply KeepsO.ite | with_reducible apply KeepsO.next | split | dsimp only | intro _ | with_reducible refine Keeps.lit ?_ rfl rfl rfl rfl | exact Sec.Kept.same rfl rfl rfl rfl rfl rfl

theorem Keeps.handshakeFails {s x : State} (h : Keeps s x) (y1 : ℕ) (y2 : ℕ) : Keeps s (State.handshakeFails x y1 y2) := by
  unfold State.handshakeFails
  repeat' first | with_reducible assumption | with_reducible apply Keeps.modSec | with_reducible apply Keeps.secEvent | with_reducible apply Keeps.ite | with_reducible apply KeepsO.ite | with_reducible apply KeepsO.next | split | dsimp only | intro _ | with_reducible refine Keeps.lit ?_ rfl rfl rfl rfl | exact Sec.Kept.same rfl rfl rfl rfl rfl rfl

theorem KeepsO.execHandshakeProve {s x : State} (h : Keeps s x) (y1 : ProveMsg) : KeepsO s (execHandshakeProve y1 x) := by
  unfold Machine.execHandshakeProve
  repeat' first | with_reducible assumption | with_reducible apply Keeps.quiet | with_reducible apply Keeps.handshakeFails | with_reducible apply Keeps.modSec | with_reducible apply Keeps.fresh | with_reducible apply Keeps.emit | with_reducible apply Keeps.ite | with_reducible apply KeepsO.ite | with_reducible apply KeepsO.next | split | dsimp only | intro _ | with_reducible refine Keeps.lit ?_ rfl rfl rfl rfl | exact Sec.Kept.same rfl rfl rfl rfl rfl rfl

theorem Keeps.endSession {s x : State} (h : Keeps s x) (y1 : ℕ) : Keeps s (State.endSession x y1) := by
  unfold State.endSession
  repeat' first | with_reducible assumption | with_reducible apply Keeps.modSec | with_reducible apply Keeps.ite | with_reducible apply KeepsO.ite | with_reducible apply KeepsO.next | split | dsimp only | intro _ | with_reducible refine Keeps.lit ?_ rfl rfl rfl rfl | exact Sec.Kept.same rfl rfl rfl rfl rfl rfl

theorem KeepsO.execSessionIdle {s x : State} (h : Keeps s x) (y1 : ℕ) : KeepsO s (execSessionIdle y1 x) := by
  unfold Machine.execSessionIdle
  repeat' first | with_reducible assumption | with_reducible apply Keeps.endSession | with_reducible apply Keeps.quiet | with_reducible apply Keeps.ite | with_reducible apply KeepsO.ite | with_reducible apply KeepsO.next

theorem KeepsO.execCredentialExpiry {s x : State} (h : Keeps s x) (y1 : ℕ) : KeepsO s (execCredentialExpiry y1 x) := by
  unfold Machine.execCredentialExpiry
  repeat' first | with_reducible assumption | with_reducible apply Keeps.quiet | with_reducible apply Keeps.modSec | with_reducible apply Keeps.fresh | with_reducible apply Keeps.ite | with_reducible apply KeepsO.ite | with_reducible apply KeepsO.next | split | dsimp only | intro _ | with_reducible refine Keeps.lit ?_ rfl rfl rfl rfl | exact Sec.Kept.same rfl rfl rfl rfl rfl rfl

theorem Keeps.endGrant {s x : State} (h : Keeps s x) : Keeps s (State.endGrant x) := by
  unfold State.endGrant
  repeat' first | with_reducible assumption | with_reducible refine Keeps.modSec ?_ _ (fun _ => .same rfl rfl rfl rfl rfl rfl) | with_reducible apply Keeps.stopDebug | with_reducible apply Keeps.ite | with_reducible apply Keeps.ite1 | with_reducible apply KeepsO.ite | with_reducible apply KeepsO.next | split

theorem KeepsO.execGrantExpiry {s x : State} (h : Keeps s x)  : KeepsO s (execGrantExpiry x) := by
  unfold Machine.execGrantExpiry
  repeat' first | with_reducible assumption | with_reducible apply Keeps.endGrant | with_reducible apply Keeps.quiet | with_reducible apply Keeps.ite | with_reducible apply KeepsO.ite | with_reducible apply KeepsO.next

theorem KeepsO.execCloseNow {s x : State} (h : Keeps s x)  : KeepsO s (execCloseNow x) := by
  unfold Machine.execCloseNow
  repeat' first | with_reducible assumption | with_reducible apply Keeps.endGrant | with_reducible apply Keeps.quiet | with_reducible apply Keeps.ite | with_reducible apply KeepsO.ite | with_reducible apply KeepsO.next

theorem KeepsO.execChallenge {s x : State} (h : Keeps s x) (n : Nat) : KeepsO s (execChallenge n x) :=
  .ite (.next h.quiet) (.next (h.quiet.fresh.modSec _ fun _ => .same rfl rfl rfl rfl rfl rfl))

theorem KeepsO.execResponse {s x : State} (h : Keeps s x) (y1 : OpenResp) : KeepsO s (execResponse y1 x) := by
  unfold Machine.execResponse
  repeat' first | with_reducible assumption | with_reducible apply Keeps.quiet | with_reducible apply Keeps.modSec | with_reducible apply Keeps.secEvent | with_reducible apply Keeps.ite | with_reducible apply KeepsO.ite | with_reducible apply KeepsO.next | split | dsimp only | intro _ | with_reducible refine Keeps.lit ?_ rfl rfl rfl rfl | exact Sec.Kept.same rfl rfl rfl rfl rfl rfl

theorem KeepsO.execNonce {s x : State} (h : Keeps s x) : KeepsO s (execNonce x) :=
  .ite (.next h.quiet) (.next (h.quiet.fresh.modSec _ fun _ => .same rfl rfl rfl rfl rfl rfl))

theorem Keeps.requestFails {s x : State} (h : Keeps s x) (y1 : ℕ) (y2 : EvClass) : Keeps s (State.requestFails x y1 y2) := by
  unfold State.requestFails
  repeat' first | with_reducible assumption | with_reducible apply Keeps.secEvent | with_reducible apply Keeps.modSec | with_reducible apply Keeps.ite | with_reducible apply KeepsO.ite | with_reducible apply KeepsO.next | split | dsimp only | intro _ | with_reducible refine Keeps.lit ?_ rfl rfl rfl rfl | exact Sec.Kept.same rfl rfl rfl rfl rfl rfl

theorem Sec.kept_takeSlot (c : Sec) (k : Nat) (l : List Byte) : c.Kept (c.takeSlot k l) :=
  ⟨rfl, rfl, rfl, le_refl _, fun _ k => k, fun n k => by simp [Sec.takeSlot, Nat.testBit_or, k]⟩

theorem KeepsO.execEnrol {s x : State} (h : Keeps s x) (r : OwnerReq) : KeepsO s (execEnrol r x) := by
  unfold Machine.execEnrol
  dsimp only
  refine .ite (.next h.quiet) ?_
  split
  · exact .next (h.quiet.requestFails _ _)
  · rename_i k _
    refine .ite (.next (h.quiet.requestFails _ _)) (.ite (.next (h.quiet.requestFails _ _)) (.next (h.quiet.fresh.modSec _ fun c => ?_)))
    exact (c.kept_takeSlot k r.newHash).trans (.same rfl rfl rfl rfl rfl rfl)

theorem KeepsO.execRotate {s x : State} (h : Keeps s x) (r : OwnerReq) : KeepsO s (execRotate r x) := by
  unfold Machine.execRotate
  dsimp only
  refine .ite (.next h.quiet) ?_
  split
  · exact .next (h.quiet.requestFails _ _)
  · rename_i k _
    refine .ite (.next (h.quiet.requestFails _ _)) (.ite (.next (h.quiet.requestFails _ _)) (.next (h.quiet.endGrant.modSec _ fun c => ?_)))
    exact (c.kept_takeSlot k r.newHash).trans (.same rfl rfl rfl rfl rfl rfl)

theorem Keeps.eraseKeys {s x : State} (h : Keeps s x) : Keeps s x.eraseKeys :=
  h.trans ⟨fun i => i, rfl, .same rfl rfl rfl rfl rfl rfl⟩

theorem KeepsO.execRelease {s x : State} (h : Keeps s x) (y1 : OwnerReq) : KeepsO s (execRelease y1 x) := by
  unfold Machine.execRelease
  repeat' first | with_reducible assumption | with_reducible apply Keeps.quiet | with_reducible apply Keeps.requestFails | with_reducible apply Keeps.modSec | with_reducible apply Keeps.eraseKeys | with_reducible apply Keeps.endGrant | with_reducible apply Keeps.ite | with_reducible apply KeepsO.ite | with_reducible apply KeepsO.next | split | dsimp only | intro _ | with_reducible refine Keeps.lit ?_ rfl rfl rfl rfl | exact Sec.Kept.same rfl rfl rfl rfl rfl rfl

theorem KeepsO.execClose {s x : State} (h : Keeps s x) (m : Nat) (b : Bool) : KeepsO s (execClose m b x) :=
  .next (.ite (h.quiet.modSec _ fun _ => ⟨rfl, rfl, rfl, le_refl _, fun n k => by simp [Nat.testBit_or, k], fun _ k => k⟩)
    (h.quiet.secEvent _ _ _))

theorem KeepsO.execCommitFw {s x : State} (h : Keeps s x) (b : Bool) : KeepsO s (execCommitFw b x) := by
  unfold Machine.execCommitFw
  dsimp only
  split
  · exact .next h.quiet
  · rename_i hn
    exact .next (.ite (h.quiet.trans ⟨fun i => i, rfl, ⟨rfl, rfl, rfl, (not_le.1 hn).le, fun _ k => k, fun _ k => k⟩⟩) (h.quiet.secEvent _ _ _))

theorem KeepsO.execKeySwitch {s x : State} (h : Keeps s x) (y1 : KeySel) : KeepsO s (execKeySwitch y1 x) := by
  unfold Machine.execKeySwitch
  repeat' first | with_reducible assumption | with_reducible apply Keeps.quiet | with_reducible apply Keeps.modDict | with_reducible apply Keeps.setKey | with_reducible apply Keeps.modSec | with_reducible apply Keeps.ite | with_reducible apply KeepsO.ite | with_reducible apply KeepsO.next | split | dsimp only | intro _ | with_reducible refine Keeps.lit ?_ rfl rfl rfl rfl | exact Sec.Kept.same rfl rfl rfl rfl rfl rfl

theorem KeepsO.execKeyAge {s x : State} (h : Keeps s x) (y1 : KeySel) : KeepsO s (execKeyAge y1 x) := by
  unfold Machine.execKeyAge
  repeat' first | with_reducible assumption | with_reducible apply Keeps.quiet | with_reducible apply Keeps.secEvent | with_reducible apply Keeps.setKey | with_reducible apply Keeps.ite | with_reducible apply KeepsO.ite | with_reducible apply KeepsO.next | split

theorem KeepsO.execKeyExpired {s x : State} (h : Keeps s x) (y1 : KeySel) : KeepsO s (execKeyExpired y1 x) := by
  unfold Machine.execKeyExpired
  repeat' first | with_reducible assumption | with_reducible apply Keeps.quiet | with_reducible apply Keeps.secEvent | with_reducible apply Keeps.setKey | with_reducible apply Keeps.ite | with_reducible apply KeepsO.ite | with_reducible apply KeepsO.next | split

theorem KeepsO.execTrngFail {s x : State} (h : Keeps s x)  : KeepsO s (execTrngFail x) := by
  unfold Machine.execTrngFail
  repeat' first | with_reducible assumption | with_reducible apply Keeps.secEvent | with_reducible apply Keeps.modSec | with_reducible apply Keeps.quiet | with_reducible apply Keeps.ite | with_reducible apply KeepsO.ite | with_reducible apply KeepsO.next | split | dsimp only | intro _ | with_reducible refine Keeps.lit ?_ rfl rfl rfl rfl | exact Sec.Kept.same rfl rfl rfl rfl rfl rfl

theorem KeepsO.execMirrorRekey {s x : State} (h : Keeps s x) : KeepsO s (Machine.execMirrorRekey x) := by
  unfold Machine.execMirrorRekey
  repeat' first | with_reducible assumption | with_reducible apply Keeps.quiet | with_reducible refine Keeps.modSec ?_ _ (fun _ => .same rfl rfl rfl rfl rfl rfl) | with_reducible apply Keeps.freeBits | with_reducible refine Keeps.freeBits_eq ?_ (by assumption) | with_reducible apply Keeps.modPair | with_reducible apply Keeps.ite | with_reducible apply Keeps.ite1 | with_reducible apply KeepsO.ite | with_reducible apply KeepsO.next | split | dsimp only | intro _ | with_reducible refine Keeps.lit ?_ rfl rfl rfl rfl

end Sys2Proof.Machine
end

