-- ==== Sys2Proof/Laws/KeepsLifecycle.lean ====
section
/-! SUPPORT. Each operation of Machine/Lifecycle.lean keeps what every command respects. -/

namespace Sys2Proof.Machine

theorem State.inv_reset : State.reset.Inv := ⟨rfl, rfl, rfl, rfl, fun _ h => by cases h⟩

theorem Keeps.fullReset {s x : State} (h : Keeps s x) (p : Bool) : Keeps s (x.fullReset p) := by
  unfold State.fullReset
  have k : ∀ (t : Top) (f : Fab) (c : Csw) (d : Dict) (n : Nat), f.ctrlSram = [] → f.hall = [] → Keeps s { State.reset with
      pending := x.pending, freeCtr := n, sec := x.sec.kept p, top := t, fab := f, csw := c, dict := d } := fun t f c d n e1 e2 =>
    h.trans ⟨fun _ => ⟨by show Memory.wf f.ctrlSram = true; rw [e1]; rfl, by show Memory.wf f.hall = true; rw [e2]; rfl, rfl, rfl,
      fun _ m => by cases m⟩, rfl, .same rfl rfl rfl rfl rfl rfl⟩
  exact .ite ((k _ _ _ _ _ rfl rfl).emit _) (k _ _ _ _ _ rfl rfl)

theorem KeepsO.execPowerOnReset {s x : State} (h : Keeps s x)  : KeepsO s (execPowerOnReset x) := by
  unfold Machine.execPowerOnReset
  repeat' first | with_reducible assumption | with_reducible apply Keeps.fullReset | with_reducible apply Keeps.quiet | with_reducible apply Keeps.ite | with_reducible apply KeepsO.ite | with_reducible apply KeepsO.next

theorem KeepsO.execResetAssert {s x : State} (h : Keeps s x)  : KeepsO s (execResetAssert x) := by
  unfold Machine.execResetAssert
  repeat' first | with_reducible assumption | with_reducible apply Keeps.fullReset | with_reducible apply Keeps.quiet | with_reducible apply Keeps.ite | with_reducible apply KeepsO.ite | with_reducible apply KeepsO.next

theorem KeepsO.execSlowclkLoss {s x : State} (h : Keeps s x)  : KeepsO s (execSlowclkLoss x) := by
  unfold Machine.execSlowclkLoss
  repeat' first | with_reducible assumption | with_reducible apply Keeps.fullReset | with_reducible apply Keeps.quiet | with_reducible apply Keeps.ite | with_reducible apply KeepsO.ite | with_reducible apply KeepsO.next

theorem Keeps.bootRej {s x : State} (h : Keeps s x) (y1 : ℕ) : Keeps s (State.bootRej x y1) := by
  unfold State.bootRej
  repeat' first | with_reducible assumption | with_reducible apply Keeps.secEvent

theorem Keeps.tryImages {s x : State} (h : Keeps s x) (l : List (Nat × FwImage)) : Keeps s (x.tryImages l) := by
  induction l generalizing x with
  | nil => exact (h.enterNight _).secEvent _ _ _
  | cons c t ih =>
    unfold State.tryImages
    exact .ite ((h.modTop _).modFab _ (fun _ a => a) fun _ a => a) (ih (h.bootRej _))

theorem Keeps.dawn {s x : State} (h : Keeps s x) (y1 : DawnBoot) : Keeps s (State.dawn x y1) := by
  unfold State.dawn
  repeat' first | with_reducible assumption | with_reducible apply Keeps.modSec | with_reducible apply Keeps.modTop | with_reducible apply Keeps.secEvent | with_reducible apply Keeps.enterNight | with_reducible apply Keeps.bootRej | with_reducible apply Keeps.tryImages | with_reducible apply Keeps.ite | with_reducible apply KeepsO.ite | with_reducible apply KeepsO.next | split | dsimp only | intro _ | with_reducible refine Keeps.lit ?_ rfl rfl rfl rfl | exact Sec.Kept.same rfl rfl rfl rfl rfl rfl

theorem KeepsO.execResetRelease {s x : State} (h : Keeps s x) (y1 : DawnBoot) : KeepsO s (execResetRelease y1 x) := by
  unfold Machine.execResetRelease
  repeat' first | with_reducible assumption | with_reducible apply Keeps.quiet | with_reducible apply Keeps.dawn | with_reducible apply Keeps.ite | with_reducible apply KeepsO.ite | with_reducible apply KeepsO.next

theorem Keeps.wakeDawn {s x : State} (h : Keeps s x) (d : DawnBoot) : Keeps s (x.wakeDawn d) := by
  have k := h.fullReset false
  unfold State.wakeDawn
  refine Keeps.dawn ?_ _
  refine ⟨fun i => ⟨(k.inv i).1, (k.inv i).2.1, (k.inv i).2.2.1, (h.inv i).2.2.2.1, fun e he => ?_⟩, k.queue, k.otp⟩
  obtain ⟨z, _, rfl⟩ := List.mem_map.1 he
  exact Cluster.ok_default.same rfl rfl rfl rfl

theorem Keeps.dawnFails {s x : State} (h : Keeps s x) (y1 : List ℕ) : Keeps s (State.dawnFails x y1) := by
  unfold State.dawnFails
  repeat' first | with_reducible assumption | with_reducible apply Keeps.enterNight | with_reducible apply Keeps.foldS | with_reducible apply Keeps.domainLost | with_reducible apply Keeps.raise | with_reducible apply Keeps.ite | with_reducible apply KeepsO.ite | with_reducible apply KeepsO.next | split | dsimp only | intro _ | with_reducible refine Keeps.lit ?_ rfl rfl rfl rfl

theorem Keeps.degrade {s x : State} (h : Keeps s x) (y1 : ℕ) : Keeps s (State.degrade x y1) := by
  unfold State.degrade
  repeat' first | with_reducible assumption | with_reducible apply Keeps.makeFaulty | with_reducible refine Keeps.setCluster ?_ _ _ (fun _ _ => ?_) | with_reducible apply Keeps.modTop | with_reducible apply Keeps.raise | with_reducible apply Keeps.ite | with_reducible apply Keeps.ite1 | with_reducible apply KeepsO.ite | with_reducible apply KeepsO.next | with_reducible apply Cluster.Ok.ite | split | dsimp only | intro _ | with_reducible refine Keeps.lit ?_ rfl rfl rfl rfl | with_reducible apply Cluster.Ok.lit

theorem Keeps.dramStep {s x : State} (h : Keeps s x) (d : DawnResult) : Keeps s (x.dramStep d) := by
  unfold State.dramStep
  have k0 : Keeps s (x.modDict fun d => { d with slots := [] }) := h.modDict _
  generalize (x.modDict fun d => { d with slots := [] }) = y at k0
  have k : ∀ m : Memc, m.dram = [] → Keeps s { y with memc := m } := fun m e =>
    k0.trans ⟨fun ⟨a, b, _, i⟩ => ⟨a, b, by show Memory.wf m.dram = true; rw [e]; rfl, i⟩, rfl, .refl _⟩
  exact .ite (k _ rfl) ((k _ rfl).raiseT _ _ _ _)

theorem Keeps.assignClusters {s x : State} (h : Keeps s x) : Keeps s (State.assignClusters x) := by
  unfold State.assignClusters
  repeat' first | with_reducible assumption | with_reducible apply Keeps.setWorkSet | with_reducible refine Keeps.setCluster ?_ _ _ (fun _ _ => ?_) | with_reducible apply Cluster.Ok.loadFor | with_reducible refine Keeps.foldS ?_ _ (fun _ _ _ => ?_) _ | with_reducible apply Keeps.ite | with_reducible apply Keeps.ite1 | with_reducible apply KeepsO.ite | with_reducible apply KeepsO.next | with_reducible apply Cluster.Ok.ite | split | dsimp only | intro _ | with_reducible refine Keeps.lit ?_ rfl rfl rfl rfl | with_reducible apply Cluster.Ok.lit

theorem Keeps.toDefaults {s x : State} (h : Keeps s x) : Keeps s (State.toDefaults x) :=
  h.trans ⟨fun i => i, rfl, .same rfl rfl rfl rfl rfl rfl⟩

theorem Keeps.loadCopy {s x t : State} (h : Keeps s x) {c : CfgCopy} (e : x.loadCopy c = some t) : Keeps s t := by
  unfold State.loadCopy at e
  dsimp only at e
  split at e
  · generalize State.withBanks _ _ _ _ = u at e
    have k := ((h.commitUnits [u] 0 []).banksNow [u] x.dict.vals).foxRebuild
    generalize State.foxRebuild _ = y at k e
    have e := Option.some.inj e
    rw [← e]
    refine Keeps.foldS ?_ _ (fun _ _ a => a.slotToDram _) _
    exact k.same rfl rfl rfl rfl rfl rfl rfl
  · cases e

theorem Keeps.loadConfig {s x : State} (h : Keeps s x) (l : List CfgCopy) : Keeps s (x.loadConfig l) := by
  unfold State.loadConfig
  generalize e : l.findSome? x.loadCopy = o
  cases o with
  | none => exact .ite h (h.raise _ _ _ _)
  | some y =>
    obtain ⟨c, _, hc⟩ := List.exists_of_findSome?_eq_some e
    exact Keeps.loadCopy h hc

theorem Keeps.enterMorning {s x : State} (h : Keeps s x) (y1 : ℕ) (y2 : DawnResult) : Keeps s (State.enterMorning x y1 y2) := by
  unfold State.enterMorning
  repeat' first | with_reducible assumption | with_reducible apply Keeps.enter | with_reducible apply Keeps.toDefaults | with_reducible apply Keeps.loadConfig | with_reducible apply Keeps.assignClusters | with_reducible apply Keeps.raiseT | with_reducible apply Keeps.ite | with_reducible apply Keeps.ite1 | with_reducible apply KeepsO.ite | with_reducible apply KeepsO.next | split | dsimp only | intro _ | with_reducible refine Keeps.lit ?_ rfl rfl rfl rfl

theorem KeepsO.execDawnComplete {s x : State} (h : Keeps s x) (y1 : DawnResult) : KeepsO s (Machine.execDawnComplete y1 x) := by
  unfold Machine.execDawnComplete
  repeat' first | with_reducible assumption | with_reducible apply Keeps.quiet | with_reducible apply Keeps.dawn | with_reducible apply Keeps.dawnFails | with_reducible refine Keeps.foldS ?_ _ (fun _ _ _ => ?_) _ | with_reducible apply Keeps.degrade | with_reducible apply Keeps.dramStep | with_reducible apply Keeps.raiseT | with_reducible apply Keeps.enterMorning | with_reducible apply Keeps.ite | with_reducible apply Keeps.ite1 | with_reducible apply KeepsO.ite | with_reducible apply KeepsO.next | split | dsimp only | intro _ | with_reducible refine Keeps.lit ?_ rfl rfl rfl rfl

theorem Keeps.allOn {s x : State} (h : Keeps s x) : Keeps s (State.allOn x) :=
  (h.mapClusters (fun e => if e.2.role = 3 then { e.2 with role := 2 } else e.2) fun _ k => .ite k.lit k).lit rfl rfl rfl rfl

theorem Keeps.underCopy {s x : State} (h : Keeps s x) (y1 : DawnResult) : Keeps s (State.underCopy x y1) := by
  unfold State.underCopy
  repeat' first | with_reducible assumption | with_reducible apply Keeps.modDict | with_reducible apply Keeps.withImages | with_reducible apply Keeps.ite | with_reducible apply Keeps.ite1 | with_reducible apply KeepsO.ite | with_reducible apply KeepsO.next | split | dsimp only | intro _ | with_reducible refine Keeps.lit ?_ rfl rfl rfl rfl

theorem Keeps.resumeNow {s x : State} (h : Keeps s x) (y1 : DawnResult) : Keeps s (State.resumeNow x y1) := by
  unfold State.resumeNow
  have k0 : Keeps s (x.modTop fun t => { t with resumeWaits := none }) := h.modTop _
  generalize (x.modTop fun t => { t with resumeWaits := none }) = y at k0 ⊢
  dsimp only
  refine .ite (k0.foldS _ (fun _ _ k => k.raise _ _ _ _) _) ?_
  have k2 := ((k0.allOn.foldS State.degrade (fun _ _ k => k.degrade _) (degradedBlocks y1)).dramStep y1).modFab
    (fun f => if f.coreHeld.isSome then { f with coreHeld := none, stby := 1 } else f)
    (fun f a => by split <;> exact a) (fun f a => by split <;> exact a)
  exact .ite (k2.raiseT _ _ _ _) (k2.enterMorning _ _)

theorem Keeps.resume {s x : State} (h : Keeps s x) (y1 : DawnResult) : Keeps s (State.resume x y1) := by
  unfold State.resume
  repeat' first | with_reducible assumption | with_reducible apply Keeps.modTop | with_reducible apply Keeps.resumeNow | with_reducible apply Keeps.ite

theorem Keeps.resumeWaiting {s x : State} (h : Keeps s x) : Keeps s (State.resumeWaiting x) := by
  unfold State.resumeWaiting
  repeat' first | with_reducible assumption | with_reducible apply Keeps.resume | with_reducible apply Keeps.modTop | with_reducible apply Keeps.ite | split

theorem KeepsO.execResume {s x : State} (h : Keeps s x) (y1 : DawnResult) : KeepsO s (execResume y1 x) := by
  unfold Machine.execResume
  repeat' first | with_reducible assumption | with_reducible apply Keeps.resume | with_reducible apply Keeps.quiet | with_reducible apply Keeps.ite | with_reducible apply KeepsO.ite | with_reducible apply KeepsO.next

theorem Keeps.takeSave {s x : State} (h : Keeps s x) : Keeps s (State.takeSave x) := by
  unfold State.takeSave
  repeat' first | with_reducible assumption | with_reducible apply Keeps.modTop | with_reducible apply Keeps.ite | with_reducible apply Keeps.ite1 | with_reducible apply KeepsO.ite | with_reducible apply KeepsO.next | split | dsimp only | intro _ | with_reducible refine Keeps.lit ?_ rfl rfl rfl rfl

theorem Keeps.startSave {s x : State} (h : Keeps s x) (y1 : ℕ) : Keeps s (State.startSave x y1) := by
  unfold State.startSave
  repeat' first | with_reducible assumption | with_reducible apply Keeps.modTop | with_reducible apply Keeps.takeSave | with_reducible apply Keeps.ite | with_reducible apply Keeps.ite1 | with_reducible apply KeepsO.ite | with_reducible apply KeepsO.next | split | dsimp only | intro _ | with_reducible refine Keeps.lit ?_ rfl rfl rfl rfl

theorem KeepsO.execSave {s x : State} (h : Keeps s x) (y1 : ℕ) : KeepsO s (execSave y1 x) := by
  unfold Machine.execSave
  repeat' first | with_reducible assumption | with_reducible apply Keeps.quiet | with_reducible apply Keeps.modTop | with_reducible apply Keeps.startSave | with_reducible apply Keeps.ite | with_reducible apply KeepsO.ite | with_reducible apply KeepsO.next

theorem KeepsO.execSaveDone {s x : State} (h : Keeps s x) (y1 : ℕ) : KeepsO s (execSaveDone y1 x) := by
  unfold Machine.execSaveDone
  repeat' first | with_reducible assumption | with_reducible apply Keeps.resumeWaiting | with_reducible apply Keeps.quiet | with_reducible apply Keeps.startSave | with_reducible apply Keeps.ite | with_reducible apply KeepsO.ite | with_reducible apply KeepsO.next | split | dsimp only | intro _ | with_reducible refine Keeps.lit ?_ rfl rfl rfl rfl

theorem KeepsO.execReady {s x : State} (h : Keeps s x)  : KeepsO s (execReady x) := by
  unfold Machine.execReady
  repeat' first | with_reducible assumption | with_reducible apply Keeps.quiet | with_reducible apply Keeps.modTop | with_reducible apply Keeps.ite | with_reducible apply KeepsO.ite | with_reducible apply KeepsO.next

theorem KeepsO.execMorningToNoon {s x : State} (h : Keeps s x)  : KeepsO s (execMorningToNoon x) := by
  unfold Machine.execMorningToNoon
  repeat' first | with_reducible assumption | with_reducible apply Keeps.quiet | with_reducible apply Keeps.enterNoon | with_reducible apply Keeps.ite | with_reducible apply KeepsO.ite | with_reducible apply KeepsO.next

theorem Keeps.leave {s x : State} (h : Keeps s x) : Keeps s (State.leave x) := by
  unfold State.leave
  repeat' first | with_reducible assumption | with_reducible apply Keeps.modTop | with_reducible apply Keeps.modPair | with_reducible apply Keeps.boundary | with_reducible apply Keeps.sendMirror | with_reducible apply Keeps.toOwl | with_reducible apply Keeps.enterNight | with_reducible apply Keeps.ite | with_reducible apply Keeps.ite1 | with_reducible apply KeepsO.ite | with_reducible apply KeepsO.next | split | dsimp only | intro _ | with_reducible refine Keeps.lit ?_ rfl rfl rfl rfl

theorem KeepsO.execLeave {s x : State} (h : Keeps s x) (y1 : LeaveForm) : KeepsO s (execLeave y1 x) := by
  unfold Machine.execLeave
  repeat' first | with_reducible assumption | with_reducible apply KeepsO.leaveLoop | with_reducible apply Keeps.leave | with_reducible apply Keeps.quiet | with_reducible apply Keeps.ite | with_reducible apply KeepsO.ite | with_reducible apply KeepsO.next | split

theorem KeepsO.execDrainComplete {s x : State} (h : Keeps s x)  : KeepsO s (execDrainComplete x) := by
  unfold Machine.execDrainComplete
  repeat' first | with_reducible assumption | with_reducible apply Keeps.quiet | with_reducible apply Keeps.enterNight | with_reducible apply Keeps.ite | with_reducible apply KeepsO.ite | with_reducible apply KeepsO.next

theorem KeepsO.execDuskTimeout {s x : State} (h : Keeps s x)  : KeepsO s (execDuskTimeout x) := by
  unfold Machine.execDuskTimeout
  repeat' first | with_reducible assumption | with_reducible apply Keeps.quiet | with_reducible apply Keeps.enterNight | with_reducible apply Keeps.ite | with_reducible apply KeepsO.ite | with_reducible apply KeepsO.next

end Sys2Proof.Machine
end

