-- ==== Sys2Proof/Laws/KeepsOwl.lean ====
section
/-! SUPPORT. Each operation of Machine/Owl.lean keeps what every command respects. -/

namespace Sys2Proof.Machine

theorem KeepsO.execHelloSend {s x : State} (h : Keeps s x) : KeepsO s (Machine.execHelloSend x) := by
  unfold Machine.execHelloSend
  repeat' first | with_reducible assumption | with_reducible apply Keeps.quiet | with_reducible apply Keeps.sendOwl | with_reducible apply Keeps.ite | with_reducible apply Keeps.ite1 | with_reducible apply KeepsO.ite | with_reducible apply KeepsO.next | split | dsimp only | intro _ | with_reducible refine Keeps.lit ?_ rfl rfl rfl rfl

theorem Keeps.sendHealth {s x : State} (h : Keeps s x) : Keeps s (State.sendHealth x) := by
  unfold State.sendHealth
  repeat' first | with_reducible assumption | with_reducible apply Keeps.sendOwl | with_reducible apply Keeps.ite | with_reducible apply Keeps.ite1 | with_reducible apply KeepsO.ite | with_reducible apply KeepsO.next | split | dsimp only | intro _ | with_reducible refine Keeps.lit ?_ rfl rfl rfl rfl

theorem KeepsO.execBeatSend {s x : State} (h : Keeps s x) : KeepsO s (Machine.execBeatSend x) := by
  unfold Machine.execBeatSend
  repeat' first | with_reducible assumption | with_reducible apply Keeps.quiet | with_reducible apply Keeps.toOwl | with_reducible apply Keeps.sendHealth | with_reducible apply Keeps.ite | with_reducible apply Keeps.ite1 | with_reducible apply KeepsO.ite | with_reducible apply KeepsO.next | split | dsimp only | intro _ | with_reducible refine Keeps.lit ?_ rfl rfl rfl rfl

theorem KeepsO.execStatusSend {s x : State} (h : Keeps s x)  : KeepsO s (execStatusSend x) := by
  unfold Machine.execStatusSend
  repeat' first | with_reducible assumption | with_reducible apply Keeps.quiet | with_reducible apply Keeps.sendMirror | with_reducible apply Keeps.modPair | with_reducible apply Keeps.ite | with_reducible apply KeepsO.ite | with_reducible apply KeepsO.next

theorem Keeps.heardOwl {s x : State} (h : Keeps s x)  : Keeps s (State.heardOwl x) := by
  unfold State.heardOwl
  repeat' first | with_reducible assumption | with_reducible apply Keeps.modPair

theorem Keeps.onLease {s x : State} (h : Keeps s x) (y1 : ℕ) (y2 : ℕ) (y3 : ℕ) : Keeps s (State.onLease x y1 y2 y3) := by
  unfold State.onLease
  repeat' first | with_reducible assumption | with_reducible apply Keeps.heardOwl | with_reducible apply Keeps.modPair | with_reducible apply Keeps.ite | with_reducible apply Keeps.ite1 | with_reducible apply KeepsO.ite | with_reducible apply KeepsO.next | split | dsimp only | intro _ | with_reducible refine Keeps.lit ?_ rfl rfl rfl rfl

theorem KeepsO.execLease {s x : State} (h : Keeps s x) (y1 : ℕ) (y2 : ℕ) (y3 : ℕ) : KeepsO s (Machine.execLease y1 y2 y3 x) := by
  unfold Machine.execLease
  repeat' first | with_reducible assumption | with_reducible apply Keeps.quiet | with_reducible apply Keeps.onLease | with_reducible apply Keeps.ite | with_reducible apply Keeps.ite1 | with_reducible apply KeepsO.ite | with_reducible apply KeepsO.next | split | dsimp only | intro _ | with_reducible refine Keeps.lit ?_ rfl rfl rfl rfl

theorem Keeps.onStandby {s x : State} (h : Keeps s x) (y1 : ℕ) (y2 : ℕ) : Keeps s (State.onStandby x y1 y2) := by
  unfold State.onStandby
  repeat' first | with_reducible assumption | with_reducible apply Keeps.heardOwl | with_reducible apply Keeps.modPair | with_reducible apply Keeps.ite | with_reducible apply Keeps.ite1 | with_reducible apply KeepsO.ite | with_reducible apply KeepsO.next | split | dsimp only | intro _ | with_reducible refine Keeps.lit ?_ rfl rfl rfl rfl

theorem KeepsO.execStandby {s x : State} (h : Keeps s x) (y1 : ℕ) (y2 : ℕ) : KeepsO s (Machine.execStandby y1 y2 x) := by
  unfold Machine.execStandby
  repeat' first | with_reducible assumption | with_reducible apply Keeps.quiet | with_reducible apply Keeps.onStandby | with_reducible apply Keeps.ite | with_reducible apply Keeps.ite1 | with_reducible apply KeepsO.ite | with_reducible apply KeepsO.next | split | dsimp only | intro _ | with_reducible refine Keeps.lit ?_ rfl rfl rfl rfl

theorem Keeps.onGrant {s x : State} (h : Keeps s x) (y1 : ℕ) (y2 : ℕ) : Keeps s (State.onGrant x y1 y2) := by
  unfold State.onGrant
  repeat' first | with_reducible assumption | with_reducible apply Keeps.heardOwl | with_reducible apply Keeps.modPair | with_reducible apply Keeps.ite | with_reducible apply Keeps.ite1 | with_reducible apply KeepsO.ite | with_reducible apply KeepsO.next | split | dsimp only | intro _ | with_reducible refine Keeps.lit ?_ rfl rfl rfl rfl

theorem KeepsO.execGrant {s x : State} (h : Keeps s x) (y1 : ℕ) (y2 : ℕ) : KeepsO s (Machine.execGrant y1 y2 x) := by
  unfold Machine.execGrant
  repeat' first | with_reducible assumption | with_reducible apply Keeps.quiet | with_reducible apply Keeps.onGrant | with_reducible apply Keeps.ite | with_reducible apply Keeps.ite1 | with_reducible apply KeepsO.ite | with_reducible apply KeepsO.next | split | dsimp only | intro _ | with_reducible refine Keeps.lit ?_ rfl rfl rfl rfl

theorem Keeps.onDemote {s x : State} (h : Keeps s x) (y1 : ℕ) : Keeps s (State.onDemote x y1) := by
  unfold State.onDemote
  repeat' first | with_reducible assumption | with_reducible apply Keeps.modPair | with_reducible apply Keeps.toRejoin | with_reducible apply Keeps.ite | with_reducible apply Keeps.ite1 | with_reducible apply KeepsO.ite | with_reducible apply KeepsO.next | split | dsimp only | intro _ | with_reducible refine Keeps.lit ?_ rfl rfl rfl rfl

theorem KeepsO.execDemote {s x : State} (h : Keeps s x) (y1 : ℕ) : KeepsO s (Machine.execDemote y1 x) := by
  unfold Machine.execDemote
  repeat' first | with_reducible assumption | with_reducible apply Keeps.quiet | with_reducible apply Keeps.onDemote | with_reducible apply Keeps.ite | with_reducible apply Keeps.ite1 | with_reducible apply KeepsO.ite | with_reducible apply KeepsO.next | split | dsimp only | intro _ | with_reducible refine Keeps.lit ?_ rfl rfl rfl rfl

theorem KeepsO.execNoOwl {s x : State} (h : Keeps s x)  : KeepsO s (execNoOwl x) := by
  unfold Machine.execNoOwl
  repeat' first | with_reducible assumption | with_reducible apply Keeps.quiet | with_reducible apply Keeps.raiseT | with_reducible apply Keeps.modPair | with_reducible apply Keeps.ite | with_reducible apply KeepsO.ite | with_reducible apply KeepsO.next

theorem Keeps.emitHeld {s x : State} (h : Keeps s x) (y1 : ℕ) (y2 : ℕ) : Keeps s (State.emitHeld x y1 y2) := by
  unfold State.emitHeld
  repeat' first | with_reducible assumption | with_reducible apply Keeps.dropStaged | with_reducible apply Keeps.modPair | with_reducible refine Keeps.foldS ?_ _ (fun _ _ _ => ?_) _ | with_reducible apply Keeps.sendOut | with_reducible apply Keeps.sendMirror | with_reducible apply Keeps.ite | with_reducible apply Keeps.ite1 | with_reducible apply KeepsO.ite | with_reducible apply KeepsO.next | split | dsimp only | intro _ | with_reducible refine Keeps.lit ?_ rfl rfl rfl rfl

theorem Keeps.take {s x : State} (h : Keeps s x) (y1 : ℕ) : Keeps s (State.take x y1) := by
  unfold State.take
  repeat' first | with_reducible assumption | with_reducible apply Keeps.emitHeld | with_reducible apply Keeps.modPair | with_reducible apply Keeps.toOwl | with_reducible apply Keeps.raiseT | with_reducible apply Keeps.ite | with_reducible apply Keeps.ite1 | with_reducible apply KeepsO.ite | with_reducible apply KeepsO.next | split | dsimp only | intro _ | with_reducible refine Keeps.lit ?_ rfl rfl rfl rfl

theorem KeepsO.execTakeover {s x : State} (h : Keeps s x) (y1 : ℕ) : KeepsO s (Machine.execTakeover y1 x) := by
  unfold Machine.execTakeover
  repeat' first | with_reducible assumption | with_reducible apply Keeps.quiet | with_reducible apply Keeps.take | with_reducible apply Keeps.modPair | with_reducible apply Keeps.ite | with_reducible apply Keeps.ite1 | with_reducible apply KeepsO.ite | with_reducible apply KeepsO.next | split | dsimp only | intro _ | with_reducible refine Keeps.lit ?_ rfl rfl rfl rfl

theorem KeepsO.execPairHandover {s x : State} (h : Keeps s x) (y1 : ℕ) : KeepsO s (execPairHandover y1 x) := by
  unfold Machine.execPairHandover
  repeat' first | with_reducible assumption | with_reducible apply Keeps.quiet | with_reducible apply Keeps.toOwl | with_reducible apply Keeps.ite | with_reducible apply KeepsO.ite | with_reducible apply KeepsO.next

theorem Keeps.setRec {s x : State} (h : Keeps s x) (y1 : ℕ) (y2 : ℕ) (y3 : OwlEngine → OwlEngine) : Keeps s (State.setRec x y1 y2 y3) := by
  unfold State.setRec
  repeat' first | with_reducible assumption | with_reducible apply Keeps.setOwl

theorem Keeps.fromOwl {s x : State} (h : Keeps s x) (y1 : ℕ) (y2 : ℕ) (y3 : ℕ) (y4 : ℕ) (y5 : ℕ) (y6 : ℕ) : Keeps s (State.fromOwl x y1 y2 y3 y4 y5 y6) := by
  unfold State.fromOwl
  repeat' first | with_reducible assumption | with_reducible apply Keeps.sendOwl | with_reducible apply Keeps.ite | with_reducible apply Keeps.ite1 | with_reducible apply KeepsO.ite | with_reducible apply KeepsO.next | split | dsimp only | intro _ | with_reducible refine Keeps.lit ?_ rfl rfl rfl rfl

theorem Keeps.owlStandby {s x : State} (h : Keeps s x) (y1 : ℕ) (y2 : ℕ) (y3 : ℕ) : Keeps s (State.owlStandby x y1 y2 y3) := by
  unfold State.owlStandby
  repeat' first | with_reducible assumption | with_reducible apply Keeps.fromOwl | with_reducible apply Keeps.setOwl | with_reducible apply Keeps.setRec | with_reducible apply Keeps.raiseAs | with_reducible apply Keeps.ite | with_reducible apply Keeps.ite1 | with_reducible apply KeepsO.ite | with_reducible apply KeepsO.next | split | dsimp only | intro _ | with_reducible refine Keeps.lit ?_ rfl rfl rfl rfl

theorem Keeps.owlLease {s x : State} (h : Keeps s x) (y1 : ℕ) (y2 : ℕ) (y3 : ℕ) : Keeps s (State.owlLease x y1 y2 y3) := by
  unfold State.owlLease
  repeat' first | with_reducible assumption | with_reducible apply Keeps.setOwl | with_reducible apply Keeps.fromOwl | with_reducible apply Keeps.ite | with_reducible apply Keeps.ite1 | with_reducible apply KeepsO.ite | with_reducible apply KeepsO.next | split | dsimp only | intro _ | with_reducible refine Keeps.lit ?_ rfl rfl rfl rfl

theorem Keeps.owlTaking {s x : State} (h : Keeps s x) (y1 : ℕ) (y2 : ℕ) : Keeps s (State.owlTaking x y1 y2) := by
  unfold State.owlTaking
  repeat' first | with_reducible assumption | with_reducible apply Keeps.fromOwl | with_reducible apply Keeps.setOwl | with_reducible apply Keeps.ite | with_reducible apply Keeps.ite1 | with_reducible apply KeepsO.ite | with_reducible apply KeepsO.next | split | dsimp only | intro _ | with_reducible refine Keeps.lit ?_ rfl rfl rfl rfl

theorem Keeps.owlHandedOver {s x : State} (h : Keeps s x) (y1 : ℕ) (y2 : ℕ) : Keeps s (State.owlHandedOver x y1 y2) := by
  unfold State.owlHandedOver
  repeat' first | with_reducible assumption | with_reducible apply Keeps.setOwl | with_reducible apply Keeps.ite | with_reducible apply KeepsO.ite | with_reducible apply KeepsO.next | split

theorem Keeps.owlGrantHandover {s x : State} (h : Keeps s x) (y1 : ℕ) (y2 : ℕ) : Keeps s (State.owlGrantHandover x y1 y2) := by
  unfold State.owlGrantHandover
  repeat' first | with_reducible assumption | with_reducible apply Keeps.fromOwl | with_reducible apply Keeps.setOwl | with_reducible apply Keeps.ite | with_reducible apply Keeps.ite1 | with_reducible apply KeepsO.ite | with_reducible apply KeepsO.next | split | dsimp only | intro _ | with_reducible refine Keeps.lit ?_ rfl rfl rfl rfl

theorem KeepsO.execOwlTickSend {s x : State} (h : Keeps s x) (y1 : ℕ) : KeepsO s (execOwlTickSend y1 x) := by
  unfold Machine.execOwlTickSend
  repeat' first | with_reducible assumption | with_reducible apply Keeps.quiet | with_reducible apply Keeps.owlTaking | with_reducible apply Keeps.owlHandedOver | with_reducible apply Keeps.owlGrantHandover | with_reducible apply Keeps.owlStandby | with_reducible apply Keeps.owlLease | with_reducible apply Keeps.ite | with_reducible apply KeepsO.ite | with_reducible apply KeepsO.next | split

theorem Keeps.onHello {s x : State} (h : Keeps s x) (y1 : ℕ) (y2 : OwlHello) : Keeps s (State.onHello x y1 y2) := by
  unfold State.onHello
  repeat' first | with_reducible assumption | with_reducible apply Keeps.setRec | with_reducible apply Keeps.setOwl | with_reducible apply Keeps.ite | with_reducible apply Keeps.ite1 | with_reducible apply KeepsO.ite | with_reducible apply KeepsO.next | split | dsimp only | intro _ | with_reducible refine Keeps.lit ?_ rfl rfl rfl rfl

theorem KeepsO.execHello {s x : State} (h : Keeps s x) (y1 : ℕ) (y2 : OwlHello) : KeepsO s (Machine.execHello y1 y2 x) := by
  unfold Machine.execHello
  repeat' first | with_reducible assumption | with_reducible apply Keeps.quiet | with_reducible apply Keeps.onHello | with_reducible apply Keeps.ite | with_reducible apply Keeps.ite1 | with_reducible apply KeepsO.ite | with_reducible apply KeepsO.next | split | dsimp only | intro _ | with_reducible refine Keeps.lit ?_ rfl rfl rfl rfl

theorem KeepsO.execOwlGrantWait {s x : State} (h : Keeps s x) (y1 : ℕ) : KeepsO s (Machine.execOwlGrantWait y1 x) := by
  unfold Machine.execOwlGrantWait
  repeat' first | with_reducible assumption | with_reducible apply Keeps.quiet | with_reducible apply Keeps.setOwl | with_reducible apply Keeps.fromOwl | with_reducible apply Keeps.ite | with_reducible apply Keeps.ite1 | with_reducible apply KeepsO.ite | with_reducible apply KeepsO.next | split | dsimp only | intro _ | with_reducible refine Keeps.lit ?_ rfl rfl rfl rfl

theorem Keeps.owlLynxLost {s x : State} (h : Keeps s x) (y1 : ℕ) (y2 : ℕ) : Keeps s (State.owlLynxLost x y1 y2) := by
  unfold State.owlLynxLost
  repeat' first | with_reducible assumption | with_reducible apply Keeps.setOwl | with_reducible apply Keeps.fromOwl | with_reducible apply Keeps.ite | with_reducible apply Keeps.ite1 | with_reducible apply KeepsO.ite | with_reducible apply KeepsO.next | split | dsimp only | intro _ | with_reducible refine Keeps.lit ?_ rfl rfl rfl rfl

theorem Keeps.owlDuplicate {s x : State} (h : Keeps s x) (y1 : ℕ) (y2 : ℕ) (y3 : ℕ) : Keeps s (State.owlDuplicate x y1 y2 y3) := by
  unfold State.owlDuplicate
  repeat' first | with_reducible assumption | with_reducible apply Keeps.fromOwl | with_reducible apply Keeps.setOwl | with_reducible apply Keeps.ite | with_reducible apply Keeps.ite1 | with_reducible apply KeepsO.ite | with_reducible apply KeepsO.next | split | dsimp only | intro _ | with_reducible refine Keeps.lit ?_ rfl rfl rfl rfl

theorem Keeps.onBeat {s x : State} (h : Keeps s x) (y1 : ℕ) (y2 : OwlBeat) : Keeps s (State.onBeat x y1 y2) := by
  unfold State.onBeat
  repeat' first | with_reducible assumption | with_reducible apply Keeps.setRec | with_reducible apply Keeps.owlDuplicate | with_reducible apply Keeps.owlLynxLost | with_reducible apply Keeps.ite | with_reducible apply Keeps.ite1 | with_reducible apply KeepsO.ite | with_reducible apply KeepsO.next | split | dsimp only | intro _ | with_reducible refine Keeps.lit ?_ rfl rfl rfl rfl

theorem KeepsO.execBeat {s x : State} (h : Keeps s x) (y1 : ℕ) (y2 : OwlBeat) : KeepsO s (Machine.execBeat y1 y2 x) := by
  unfold Machine.execBeat
  repeat' first | with_reducible assumption | with_reducible apply Keeps.quiet | with_reducible apply Keeps.onBeat | with_reducible apply Keeps.ite | with_reducible apply Keeps.ite1 | with_reducible apply KeepsO.ite | with_reducible apply KeepsO.next | split | dsimp only | intro _ | with_reducible refine Keeps.lit ?_ rfl rfl rfl rfl

theorem Keeps.onTake {s x : State} (h : Keeps s x) (y1 : ℕ) (y2 : ℕ) (y3 : ℕ) (y4 : ℕ) : Keeps s (State.onTake x y1 y2 y3 y4) := by
  unfold State.onTake
  repeat' first | with_reducible assumption | with_reducible apply Keeps.setRec | with_reducible apply Keeps.setOwl | with_reducible apply Keeps.fromOwl | with_reducible apply Keeps.ite | with_reducible apply Keeps.ite1 | with_reducible apply KeepsO.ite | with_reducible apply KeepsO.next | split | dsimp only | intro _ | with_reducible refine Keeps.lit ?_ rfl rfl rfl rfl

theorem KeepsO.execTake {s x : State} (h : Keeps s x) (y1 : ℕ) (y2 : ℕ) (y3 : ℕ) (y4 : ℕ) : KeepsO s (Machine.execTake y1 y2 y3 y4 x) := by
  unfold Machine.execTake
  repeat' first | with_reducible assumption | with_reducible apply Keeps.quiet | with_reducible apply Keeps.onTake | with_reducible apply Keeps.ite | with_reducible apply Keeps.ite1 | with_reducible apply KeepsO.ite | with_reducible apply KeepsO.next | split | dsimp only | intro _ | with_reducible refine Keeps.lit ?_ rfl rfl rfl rfl

theorem Keeps.onHandover {s x : State} (h : Keeps s x) (y1 : ℕ) (y2 : ℕ) : Keeps s (State.onHandover x y1 y2) := by
  unfold State.onHandover
  repeat' first | with_reducible assumption | with_reducible apply Keeps.setOwl | with_reducible apply Keeps.ite | with_reducible apply Keeps.ite1 | with_reducible apply KeepsO.ite | with_reducible apply KeepsO.next | split | dsimp only | intro _ | with_reducible refine Keeps.lit ?_ rfl rfl rfl rfl

theorem KeepsO.execHandover {s x : State} (h : Keeps s x) (y1 : ℕ) (y2 : ℕ) : KeepsO s (Machine.execHandover y1 y2 x) := by
  unfold Machine.execHandover
  repeat' first | with_reducible assumption | with_reducible apply Keeps.quiet | with_reducible apply Keeps.onHandover | with_reducible apply Keeps.ite | with_reducible apply Keeps.ite1 | with_reducible apply KeepsO.ite | with_reducible apply KeepsO.next | split | dsimp only | intro _ | with_reducible refine Keeps.lit ?_ rfl rfl rfl rfl

theorem Keeps.onHealth {s x : State} (h : Keeps s x) (y1 : ℕ) (y2 : OwlHealth) : Keeps s (State.onHealth x y1 y2) := by
  unfold State.onHealth
  repeat' first | with_reducible assumption | with_reducible apply Keeps.setRec | with_reducible apply Keeps.selfTest | with_reducible apply Keeps.ite | with_reducible apply Keeps.ite1 | with_reducible apply KeepsO.ite | with_reducible apply KeepsO.next | split | dsimp only | intro _ | with_reducible refine Keeps.lit ?_ rfl rfl rfl rfl

theorem KeepsO.execHealth {s x : State} (h : Keeps s x) (y1 : ℕ) (y2 : OwlHealth) : KeepsO s (Machine.execHealth y1 y2 x) := by
  unfold Machine.execHealth
  repeat' first | with_reducible assumption | with_reducible apply Keeps.quiet | with_reducible apply Keeps.onHealth | with_reducible apply Keeps.ite | with_reducible apply Keeps.ite1 | with_reducible apply KeepsO.ite | with_reducible apply KeepsO.next | split | dsimp only | intro _ | with_reducible refine Keeps.lit ?_ rfl rfl rfl rfl

theorem Keeps.firstOwl {s x t : State} (h : Keeps s x) {y1 : ℕ × ℕ × ℕ} (e : State.firstOwl x y1 = some t) : Keeps s t := by
  unfold State.firstOwl at e
  repeat' first | split at e | (obtain rfl := Option.some.inj e) | cases e
  all_goals
    repeat' first | with_reducible assumption | with_reducible apply Keeps.modPair | with_reducible apply Keeps.take | with_reducible apply Keeps.ite | with_reducible apply Keeps.ite1 | with_reducible apply KeepsO.ite | with_reducible apply KeepsO.next | split | dsimp only | intro _ | with_reducible refine Keeps.lit ?_ rfl rfl rfl rfl

theorem Keeps.owlMessage {s x : State} (h : Keeps s x) (y1 : List Byte) (y2 : ℕ) : Keeps s (State.owlMessage x y1 y2) := by
  unfold State.owlMessage
  dsimp only
  refine .ite h ?_
  split
  · exact h
  · rename_i e
    replace h := h.firstOwl e
    repeat' first | with_reducible assumption | with_reducible apply Keeps.onHello | with_reducible apply Keeps.onBeat | with_reducible apply Keeps.onLease | with_reducible apply Keeps.onStandby | with_reducible apply Keeps.onTake | with_reducible apply Keeps.onGrant | with_reducible apply Keeps.onHandover | with_reducible apply Keeps.onDemote | with_reducible apply Keeps.onHealth | with_reducible apply Keeps.ite | split

end Sys2Proof.Machine
end

