-- ==== Sys2Proof/Laws/KeepsMirror.lean ====
section
/-! SUPPORT. Each operation of Machine/Mirror.lean keeps what every command respects. -/

namespace Sys2Proof.Machine

theorem Keeps.heardMirror {s x : State} (h : Keeps s x)  : Keeps s (State.heardMirror x) := by
  unfold State.heardMirror
  repeat' first | with_reducible assumption | with_reducible apply Keeps.modPair

theorem Keeps.adoptCtx {s : State} (n : Nat) (e : List (Nat × Nat)) {p : State × List Nat} (h : Keeps s p.1) (x : Nat) :
    Keeps s (State.adoptCtx n e p x).1 := by
  obtain ⟨y, m⟩ := p
  replace h : Keeps s y := h
  unfold State.adoptCtx
  dsimp only
  split
  · split <;> exact h
  · split
    · show Keeps s (State.gatherPut _ _ _ _)
      exact (h.setCtx _ _).gatherPut _ _ _
    · exact h.setCtx _ _

theorem Keeps.adoptCtxs {s : State} (n : Nat) (e : List (Nat × Nat)) (l : List Nat) {p : State × List Nat} (h : Keeps s p.1) :
    Keeps s (l.foldl (State.adoptCtx n e) p).1 := by
  induction l generalizing p with
  | nil => exact h
  | cons a t ih => exact ih (Keeps.adoptCtx n e h a)

theorem Keeps.onVerdict {s x : State} (h : Keeps s x) (v : VerdictRec) : Keeps s (State.onVerdict x v) := by
  unfold State.onVerdict
  refine .ite h ?_
  have k1 : Keeps s ((x.heardMirror.modPair fun p => { p with verdicts := ⟨v.tick, v.present, v.epochs, v.directs⟩ :: p.verdicts }).modCsw fun c =>
    ({ c with present := tset c.present v.tick v.present }).adoptDirect v.tick v.directs) := (h.heardMirror.modPair _).modCsw _
  generalize State.modCsw _ _ = y at k1
  have k : Keeps s (((gatherCtxs y.dict.vals).filter v.present.contains).foldl (State.adoptCtx v.tick v.epochs) (y, [])).1 := Keeps.adoptCtxs _ _ _ k1
  exact .ite k ((k.modPair _).sendMirror _ _ _ _)

theorem KeepsO.execVerdict {s x : State} (h : Keeps s x) (y1 : VerdictRec) : KeepsO s (Machine.execVerdict y1 x) := by
  unfold Machine.execVerdict
  repeat' first | with_reducible assumption | with_reducible apply Keeps.quiet | with_reducible apply Keeps.onVerdict | with_reducible apply Keeps.ite | with_reducible apply Keeps.ite1 | with_reducible apply KeepsO.ite | with_reducible apply KeepsO.next | split | dsimp only | intro _ | with_reducible refine Keeps.lit ?_ rfl rfl rfl rfl

theorem Keeps.onMiss {s x : State} (h : Keeps s x) (y1 : ℕ) (y2 : List ℕ) : Keeps s (State.onMiss x y1 y2) := by
  unfold State.onMiss
  repeat' first | with_reducible assumption | with_reducible refine Keeps.foldS ?_ _ (fun _ _ _ => ?_) _ | with_reducible apply Keeps.sendMirror | with_reducible apply Keeps.heardMirror | with_reducible apply Keeps.ite | with_reducible apply Keeps.ite1 | with_reducible apply KeepsO.ite | with_reducible apply KeepsO.next | split | dsimp only | intro _ | with_reducible refine Keeps.lit ?_ rfl rfl rfl rfl

theorem KeepsO.execMiss {s x : State} (h : Keeps s x) (y1 : ℕ) (y2 : List ℕ) : KeepsO s (Machine.execMiss y1 y2 x) := by
  unfold Machine.execMiss
  repeat' first | with_reducible assumption | with_reducible apply Keeps.quiet | with_reducible apply Keeps.onMiss | with_reducible apply Keeps.ite | with_reducible apply Keeps.ite1 | with_reducible apply KeepsO.ite | with_reducible apply KeepsO.next | split | dsimp only | intro _ | with_reducible refine Keeps.lit ?_ rfl rfl rfl rfl

theorem Keeps.onRepair {s x : State} (h : Keeps s x) (y1 : RepairRec) : Keeps s (State.onRepair x y1) := by
  unfold State.onRepair
  repeat' first | with_reducible assumption | with_reducible apply Keeps.heardMirror | with_reducible apply Keeps.gatherPut | with_reducible apply Keeps.modPair | with_reducible apply Keeps.ite | with_reducible apply Keeps.ite1 | with_reducible apply KeepsO.ite | with_reducible apply KeepsO.next | split | dsimp only | intro _ | with_reducible refine Keeps.lit ?_ rfl rfl rfl rfl

theorem KeepsO.execRepair {s x : State} (h : Keeps s x) (y1 : RepairRec) : KeepsO s (Machine.execRepair y1 x) := by
  unfold Machine.execRepair
  repeat' first | with_reducible assumption | with_reducible apply Keeps.quiet | with_reducible apply Keeps.onRepair | with_reducible apply Keeps.ite | with_reducible apply Keeps.ite1 | with_reducible apply KeepsO.ite | with_reducible apply KeepsO.next | split | dsimp only | intro _ | with_reducible refine Keeps.lit ?_ rfl rfl rfl rfl

theorem Keeps.onTdm {s x : State} (h : Keeps s x) (y1 : ℕ) (y2 : List (ℕ × ℤ)) : Keeps s (State.onTdm x y1 y2) := by
  unfold State.onTdm
  repeat' first | with_reducible assumption | with_reducible refine Keeps.foldS ?_ _ (fun _ _ _ => ?_) _ | with_reducible apply Keeps.modCsw | with_reducible apply Keeps.wakeReaders | with_reducible apply Keeps.heardMirror | with_reducible apply Keeps.modPair | with_reducible apply Keeps.ite | with_reducible apply Keeps.ite1 | with_reducible apply KeepsO.ite | with_reducible apply KeepsO.next | split | dsimp only | intro _ | with_reducible refine Keeps.lit ?_ rfl rfl rfl rfl

theorem KeepsO.execTdmRecord {s x : State} (h : Keeps s x) (y1 : ℕ) (y2 : List (ℕ × ℤ)) : KeepsO s (Machine.execTdmRecord y1 y2 x) := by
  unfold Machine.execTdmRecord
  repeat' first | with_reducible assumption | with_reducible apply Keeps.quiet | with_reducible apply Keeps.onTdm | with_reducible apply Keeps.ite | with_reducible apply Keeps.ite1 | with_reducible apply KeepsO.ite | with_reducible apply KeepsO.next | split | dsimp only | intro _ | with_reducible refine Keeps.lit ?_ rfl rfl rfl rfl

theorem KeepsO.execCommitRecord {s x : State} (h : Keeps s x) (y1 : ℕ) (y2 : List CUnit) : KeepsO s (Machine.execCommitRecord y1 y2 x) := by
  unfold Machine.execCommitRecord
  repeat' first | with_reducible assumption | with_reducible apply Keeps.quiet | with_reducible apply Keeps.heardMirror | with_reducible apply Keeps.raiseT | with_reducible apply Keeps.toRejoin | with_reducible apply Keeps.modPair | with_reducible apply Keeps.putSealed | with_reducible apply Keeps.ite | with_reducible apply Keeps.ite1 | with_reducible apply KeepsO.ite | with_reducible apply KeepsO.next

theorem Keeps.onBeacon {s x : State} (h : Keeps s x) (y1 : ℕ) (y2 : ℕ) : Keeps s (State.onBeacon x y1 y2) := by
  unfold State.onBeacon
  repeat' first | with_reducible assumption | with_reducible apply Keeps.heardMirror | with_reducible apply Keeps.modPair | with_reducible apply Keeps.boundary | with_reducible apply Keeps.ite | with_reducible apply Keeps.ite1 | with_reducible apply KeepsO.ite | with_reducible apply KeepsO.next | split | dsimp only | intro _ | with_reducible refine Keeps.lit ?_ rfl rfl rfl rfl

theorem KeepsO.execBeacon {s x : State} (h : Keeps s x) (y1 : ℕ) (y2 : ℕ) : KeepsO s (Machine.execBeacon y1 y2 x) := by
  unfold Machine.execBeacon
  repeat' first | with_reducible assumption | with_reducible apply Keeps.quiet | with_reducible apply Keeps.onBeacon | with_reducible apply Keeps.boundary | with_reducible apply Keeps.ite | with_reducible apply Keeps.ite1 | with_reducible apply KeepsO.ite | with_reducible apply KeepsO.next | split | dsimp only | intro _ | with_reducible refine Keeps.lit ?_ rfl rfl rfl rfl

theorem Keeps.onStatus {s x : State} (h : Keeps s x) (y1 : StatusRec) : Keeps s (State.onStatus x y1) := by
  unfold State.onStatus
  repeat' first | with_reducible assumption | with_reducible apply Keeps.heardMirror | with_reducible apply Keeps.modPair | with_reducible apply Keeps.take | with_reducible apply Keeps.ite | with_reducible apply Keeps.ite1 | with_reducible apply KeepsO.ite | with_reducible apply KeepsO.next | split | dsimp only | intro _ | with_reducible refine Keeps.lit ?_ rfl rfl rfl rfl

theorem KeepsO.execStatusRecord {s x : State} (h : Keeps s x) (y1 : StatusRec) : KeepsO s (Machine.execStatusRecord y1 x) := by
  unfold Machine.execStatusRecord
  repeat' first | with_reducible assumption | with_reducible apply Keeps.quiet | with_reducible apply Keeps.onStatus | with_reducible apply Keeps.ite | with_reducible apply Keeps.ite1 | with_reducible apply KeepsO.ite | with_reducible apply KeepsO.next | split | dsimp only | intro _ | with_reducible refine Keeps.lit ?_ rfl rfl rfl rfl

theorem Keeps.onFence {s x : State} (h : Keeps s x) (y1 : ℕ) (y2 : ℕ) : Keeps s (State.onFence x y1 y2) := by
  unfold State.onFence
  repeat' first | with_reducible assumption | with_reducible apply Keeps.heardMirror | with_reducible apply Keeps.modPair | with_reducible apply Keeps.boundary | with_reducible apply Keeps.ite | with_reducible apply Keeps.ite1 | with_reducible apply KeepsO.ite | with_reducible apply KeepsO.next | split | dsimp only | intro _ | with_reducible refine Keeps.lit ?_ rfl rfl rfl rfl

theorem KeepsO.execFence {s x : State} (h : Keeps s x) (y1 : ℕ) (y2 : ℕ) : KeepsO s (Machine.execFence y1 y2 x) := by
  unfold Machine.execFence
  repeat' first | with_reducible assumption | with_reducible apply Keeps.quiet | with_reducible apply Keeps.onFence | with_reducible apply Keeps.boundary | with_reducible apply Keeps.ite | with_reducible apply Keeps.ite1 | with_reducible apply KeepsO.ite | with_reducible apply KeepsO.next | split | dsimp only | intro _ | with_reducible refine Keeps.lit ?_ rfl rfl rfl rfl

theorem Keeps.onLynx {s x : State} (h : Keeps s x) (y1 : LynxRec) : Keeps s (State.onLynx x y1) := by
  unfold State.onLynx
  repeat' first | with_reducible assumption | with_reducible apply Keeps.heardMirror | with_reducible apply Keeps.modPair | with_reducible apply Keeps.lynxCompare | with_reducible apply Keeps.ite | with_reducible apply Keeps.ite1 | with_reducible apply KeepsO.ite | with_reducible apply KeepsO.next | split | dsimp only | intro _ | with_reducible refine Keeps.lit ?_ rfl rfl rfl rfl

theorem KeepsO.execLynx {s x : State} (h : Keeps s x) (y1 : LynxRec) : KeepsO s (Machine.execLynx y1 x) := by
  unfold Machine.execLynx
  repeat' first | with_reducible assumption | with_reducible apply Keeps.quiet | with_reducible apply Keeps.onLynx | with_reducible apply Keeps.ite | with_reducible apply Keeps.ite1 | with_reducible apply KeepsO.ite | with_reducible apply KeepsO.next | split | dsimp only | intro _ | with_reducible refine Keeps.lit ?_ rfl rfl rfl rfl

theorem KeepsO.execLynxAbsent {s x : State} (h : Keeps s x) (y1 : ℕ) : KeepsO s (execLynxAbsent y1 x) := by
  unfold Machine.execLynxAbsent
  repeat' first | with_reducible assumption | with_reducible apply Keeps.quiet | with_reducible apply Keeps.modPair | with_reducible apply Keeps.ite | with_reducible apply KeepsO.ite | with_reducible apply KeepsO.next

theorem KeepsO.execLynxLost {s x : State} (h : Keeps s x)  : KeepsO s (execLynxLost x) := by
  unfold Machine.execLynxLost
  repeat' first | with_reducible assumption | with_reducible apply Keeps.quiet | with_reducible apply Keeps.raiseT | with_reducible apply Keeps.modPair | with_reducible apply Keeps.toRejoin | with_reducible apply Keeps.ite | with_reducible apply KeepsO.ite | with_reducible apply KeepsO.next

theorem KeepsO.execMirrorSilence {s x : State} (h : Keeps s x)  : KeepsO s (execMirrorSilence x) := by
  unfold Machine.execMirrorSilence
  repeat' first | with_reducible assumption | with_reducible apply Keeps.quiet | with_reducible apply Keeps.modPair | with_reducible apply Keeps.ite | with_reducible apply KeepsO.ite | with_reducible apply KeepsO.next

theorem Keeps.onJoin {s x : State} (h : Keeps s x) (y1 : JoinRec) : Keeps s (State.onJoin x y1) := by
  unfold State.onJoin
  repeat' first | with_reducible assumption | with_reducible apply Keeps.heardMirror | with_reducible apply Keeps.modPair | with_reducible apply Keeps.sendJoin | with_reducible apply Keeps.raiseT | with_reducible apply Keeps.ite | with_reducible apply Keeps.ite1 | with_reducible apply KeepsO.ite | with_reducible apply KeepsO.next | split | dsimp only | intro _ | with_reducible refine Keeps.lit ?_ rfl rfl rfl rfl

theorem KeepsO.execJoin {s x : State} (h : Keeps s x) (y1 : JoinRec) : KeepsO s (Machine.execJoin y1 x) := by
  unfold Machine.execJoin
  repeat' first | with_reducible assumption | with_reducible apply Keeps.quiet | with_reducible apply Keeps.onJoin | with_reducible apply Keeps.ite | with_reducible apply Keeps.ite1 | with_reducible apply KeepsO.ite | with_reducible apply KeepsO.next | split | dsimp only | intro _ | with_reducible refine Keeps.lit ?_ rfl rfl rfl rfl

theorem KeepsO.execCapture {s x : State} (h : Keeps s x) (y1 : ℕ) : KeepsO s (Machine.execCapture y1 x) := by
  unfold Machine.execCapture
  repeat' first | with_reducible assumption | with_reducible apply Keeps.quiet | with_reducible apply Keeps.modPair | with_reducible apply Keeps.sendRecord | with_reducible apply Keeps.ite | with_reducible apply Keeps.ite1 | with_reducible apply KeepsO.ite | with_reducible apply KeepsO.next | split | dsimp only | intro _ | with_reducible refine Keeps.lit ?_ rfl rfl rfl rfl

theorem KeepsO.execSnapRecord {s x : State} (h : Keeps s x) (y1 : SnapRec) : KeepsO s (execSnapRecord y1 x) := by
  unfold Machine.execSnapRecord
  repeat' first | with_reducible assumption | with_reducible apply Keeps.quiet | with_reducible apply Keeps.modPair | with_reducible apply Keeps.heardMirror | with_reducible apply Keeps.ite | with_reducible apply KeepsO.ite | with_reducible apply KeepsO.next

theorem Keeps.loadWs {s x : State} (h : Keeps s x) (e : Nat × WsSnap) : Keeps s (x.loadWs e) := by
  unfold State.loadWs
  split
  · exact h
  · refine h.setCluster _ _ fun c q => ?_
    refine q.lanesTo rfl rfl (mapBelow_length _ _ _ _) fun hl => ?_
    refine mapBelow_all Lane.Ok _ _ _ hl fun _ _ q => ?_
    split
    · exact ⟨wf_foldl _ (fun m c k => wf_memSet k _ _) _ (wf_filter q.1 _), q.2⟩
    · exact q

theorem Keeps.sameParams {s x : State} (h : Keeps s x) (y1 : ℕ) : Keeps s (State.sameParams x y1) := by
  unfold State.sameParams
  repeat' first | with_reducible assumption | with_reducible refine Keeps.setCluster ?_ _ _ (fun _ _ => ?_) | with_reducible apply Cluster.Ok.newParams | with_reducible apply Keeps.ite | with_reducible apply Keeps.ite1 | with_reducible apply KeepsO.ite | with_reducible apply KeepsO.next | with_reducible apply Cluster.Ok.ite | split | dsimp only | intro _ | with_reducible refine Keeps.lit ?_ rfl rfl rfl rfl | with_reducible apply Cluster.Ok.lit

theorem Keeps.loadSnap {s x : State} (h : Keeps s x) (y1 : Snap) : Keeps s (State.loadSnap x y1) := by
  unfold State.loadSnap
  repeat' first | with_reducible assumption | with_reducible apply Keeps.modDict | with_reducible refine Keeps.foldl ?_ _ (fun _ _ _ => ?_) _ | with_reducible apply Cluster.Ok.foldl | with_reducible refine Keeps.foldS ?_ _ (fun _ _ _ => ?_) _ | with_reducible apply Keeps.loadWs | with_reducible apply Keeps.sameParams | with_reducible apply Keeps.noteStates | with_reducible apply Keeps.ite | with_reducible apply Keeps.ite1 | with_reducible apply KeepsO.ite | with_reducible apply KeepsO.next | split | dsimp only | intro _ | with_reducible refine Keeps.lit ?_ rfl rfl rfl rfl

theorem Keeps.catchStart {s x : State} (h : Keeps s x) (y1 : ℕ) : Keeps s (State.catchStart x y1) := by
  unfold State.catchStart
  repeat' first | with_reducible assumption | with_reducible apply Keeps.foxRun | with_reducible apply Keeps.applyDue | with_reducible apply Keeps.startProcess

theorem Keeps.catchNext {s x : State} (h : Keeps s x) : Keeps s (State.catchNext x) := by
  unfold State.catchNext
  repeat' first | with_reducible assumption | with_reducible apply Keeps.cutoffDecide | with_reducible apply Keeps.endProcess | with_reducible apply Keeps.catchStart | with_reducible apply Keeps.ite | with_reducible apply Keeps.ite1 | with_reducible apply KeepsO.ite | with_reducible apply KeepsO.next | split | dsimp only | intro _ | with_reducible refine Keeps.lit ?_ rfl rfl rfl rfl

theorem Keeps.catchOn {s x : State} (h : Keeps s x) : Keeps s (State.catchOn x) := by
  unfold State.catchOn
  repeat' first | with_reducible assumption | with_reducible refine Keeps.iter ?_ _ (fun _ _ => ?_) _ | with_reducible apply Keeps.catchNext | with_reducible refine Keeps.foldS ?_ _ (fun _ _ _ => ?_) _ | with_reducible apply Keeps.cutoffDecide | with_reducible apply Keeps.modPair | with_reducible apply Keeps.ite | with_reducible apply Keeps.ite1 | with_reducible apply KeepsO.ite | with_reducible apply KeepsO.next | split | dsimp only | intro _ | with_reducible refine Keeps.lit ?_ rfl rfl rfl rfl

theorem Keeps.rejoinFails {s x : State} (h : Keeps s x)  : Keeps s (State.rejoinFails x) := by
  unfold State.rejoinFails
  repeat' first | with_reducible assumption | with_reducible apply Keeps.raiseT | with_reducible apply Keeps.modPair | with_reducible apply Keeps.enterNight | with_reducible apply Keeps.ite

theorem KeepsO.execCatchUp {s x : State} (h : Keeps s x) (y1 : ℕ) (y2 : Bool) : KeepsO s (Machine.execCatchUp y1 y2 x) := by
  unfold Machine.execCatchUp
  repeat' first | with_reducible assumption | with_reducible apply Keeps.quiet | with_reducible apply Keeps.rejoinFails | with_reducible apply Keeps.catchOn | with_reducible apply Keeps.loadSnap | with_reducible apply Keeps.modPair | with_reducible apply Keeps.catchStart | with_reducible apply Keeps.ite | with_reducible apply Keeps.ite1 | with_reducible apply KeepsO.ite | with_reducible apply KeepsO.next | split | dsimp only | intro _ | with_reducible refine Keeps.lit ?_ rfl rfl rfl rfl

theorem KeepsO.execRefill {s x : State} (h : Keeps s x)  : KeepsO s (execRefill x) := by
  unfold Machine.execRefill
  repeat' first | with_reducible assumption | with_reducible apply Keeps.quiet | with_reducible apply Keeps.modPair | with_reducible apply Keeps.ite | with_reducible apply KeepsO.ite | with_reducible apply KeepsO.next

theorem KeepsO.execInSync {s x : State} (h : Keeps s x)  : KeepsO s (execInSync x) := by
  unfold Machine.execInSync
  repeat' first | with_reducible assumption | with_reducible apply Keeps.quiet | with_reducible apply Keeps.modPair | with_reducible apply Keeps.enterNoon | with_reducible apply Keeps.ite | with_reducible apply KeepsO.ite | with_reducible apply KeepsO.next

end Sys2Proof.Machine
end

