-- ==== Sys2Proof/Laws/KeepsMemory.lean ====
section
/-! SUPPORT. Each operation of Machine/Memory.lean keeps what every command respects. -/

namespace Sys2Proof.Machine

theorem Keeps.noRowCluster {s x : State} (h : Keeps s x) (y1 : ℕ) : Keeps s (State.noRowCluster x y1) := by
  unfold State.noRowCluster
  repeat' first | with_reducible assumption | with_reducible apply Keeps.repairSpin | with_reducible apply Keeps.setCluster | with_reducible apply Keeps.spareFails | with_reducible apply Keeps.ite | with_reducible apply KeepsO.ite | with_reducible apply KeepsO.next | split | dsimp only | intro _ | with_reducible refine Keeps.lit ?_ rfl rfl rfl rfl | with_reducible apply Cluster.Ok.lit

theorem Keeps.requestRow {s x : State} (h : Keeps s x) (y1 : ℕ) (y2 : ℕ) : Keeps s (State.requestRow x y1 y2) := by
  unfold State.requestRow
  repeat' first | with_reducible assumption | with_reducible apply Keeps.noRowCluster | with_reducible apply Keeps.raiseT | with_reducible apply Keeps.modSramc | with_reducible apply Keeps.ite

theorem KeepsO.execRowRepaired {s x : State} (h : Keeps s x) (y1 : ℕ) (y2 : ℕ) : KeepsO s (execRowRepaired y1 y2 x) := by
  unfold Machine.execRowRepaired
  repeat' first | with_reducible assumption | with_reducible apply Keeps.quiet | with_reducible apply Keeps.modSramc | with_reducible apply Keeps.raiseT | with_reducible apply Keeps.requestRow | with_reducible apply Keeps.ite | with_reducible apply KeepsO.ite | with_reducible apply KeepsO.next | split

theorem Keeps.sramReact {s x : State} (h : Keeps s x) (m : SramMem) : Keeps s (x.sramReact m) := by
  unfold State.sramReact
  split
  · exact .ite (h.containCluster _) (.ite (h.selfTestFails _) h)
  · refine Keeps.setCtx ?_ _ _
    split
    · exact h.modCsw _
    · exact h
  · exact h.modCsw _
  · exact h.modCsw _
  · exact h.modCsw _
  · exact h.modCsw _
  · exact h.modCsw _
  · exact h.modCsw _
  · refine h.trans ⟨fun ⟨a, b, c, d, e⟩ => ⟨a, b, c, d, fun y hy => ?_⟩, rfl, .refl _⟩
    obtain ⟨z, hz, rfl⟩ := List.mem_map.1 hy
    split
    · exact (e z hz).lit
    · exact e z hz
  · exact h.requestReset _ _
  · exact h
  · exact h
  · exact h
  · exact h

theorem KeepsO.execSramReadError {s x : State} (h : Keeps s x) (y1 : SramErr) : KeepsO s (Machine.execSramReadError y1 x) := by
  unfold Machine.execSramReadError
  repeat' first | with_reducible assumption | with_reducible apply Keeps.quiet | with_reducible apply Keeps.modSramc | with_reducible apply Keeps.raiseT | with_reducible apply Keeps.sramReact | with_reducible apply Keeps.ite | with_reducible apply Keeps.ite1 | with_reducible apply KeepsO.ite | with_reducible apply KeepsO.next | split

theorem KeepsO.execSramWriteBack {s x : State} (h : Keeps s x) (y1 : ℕ) (y2 : ℕ) (y3 : WriteBack) : KeepsO s (Machine.execSramWriteBack y1 y2 y3 x) := by
  unfold Machine.execSramWriteBack
  repeat' first | with_reducible assumption | with_reducible apply Keeps.quiet | with_reducible apply Keeps.modSramc | with_reducible apply Keeps.requestRow | with_reducible apply Keeps.raiseT | with_reducible apply Keeps.ite | with_reducible apply Keeps.ite1 | with_reducible apply KeepsO.ite | with_reducible apply KeepsO.next

theorem Keeps.badgerRow {s x : State} (h : Keeps s x) (y1 : ℕ) (y2 : ℕ × ℕ) : Keeps s (State.badgerRow y1 x y2) := by
  unfold State.badgerRow
  repeat' first | with_reducible assumption | with_reducible apply Keeps.modSramc | with_reducible apply Keeps.requestRow | with_reducible apply Keeps.ite

theorem KeepsO.execBadgerPass {s x : State} (h : Keeps s x) (y1 : List (ℕ × ℕ)) : KeepsO s (execBadgerPass y1 x) := by
  unfold Machine.execBadgerPass
  repeat' first | with_reducible assumption | with_reducible apply Keeps.quiet | with_reducible apply Keeps.modSramc | with_reducible apply Keeps.fresh | with_reducible apply Keeps.foldS | with_reducible apply Keeps.badgerRow | with_reducible apply Keeps.ite | with_reducible apply KeepsO.ite | with_reducible apply KeepsO.next | split | dsimp only | intro _

theorem Keeps.setChan {s x : State} (h : Keeps s x) (y1 : ℕ) (y2 : DramChan → DramChan) : Keeps s (State.setChan x y1 y2) := by
  unfold State.setChan
  repeat' first | with_reducible assumption | with_reducible apply Keeps.modMemc | with_reducible apply Keeps.ite | with_reducible apply KeepsO.ite | with_reducible apply KeepsO.next | split | dsimp only | intro _

theorem Keeps.startPpr {s x : State} (h : Keeps s x) (y1 : ℕ) : Keeps s (State.startPpr x y1) := by
  unfold State.startPpr
  repeat' first | with_reducible assumption | with_reducible apply Keeps.modMemc | with_reducible apply Keeps.setChan | with_reducible apply Keeps.ite | with_reducible apply KeepsO.ite | with_reducible apply KeepsO.next | split | dsimp only | intro _

theorem Keeps.startMigration {s x : State} (h : Keeps s x) (y1 : ℕ) : Keeps s (State.startMigration x y1) := by
  unfold State.startMigration
  repeat' first | with_reducible assumption | with_reducible apply Keeps.modMemc | with_reducible apply Keeps.ite | with_reducible apply KeepsO.ite | with_reducible apply KeepsO.next | split | dsimp only | intro _

theorem Keeps.degradeChan {s x : State} (h : Keeps s x) (y1 : ℕ) : Keeps s (State.degradeChan x y1) := by
  unfold State.degradeChan
  repeat' first | with_reducible assumption | with_reducible apply Keeps.raise | with_reducible apply Keeps.startMigration | with_reducible refine Keeps.modMemc ?_ _ (fun _ a => a) | with_reducible apply Keeps.startPpr | with_reducible apply Keeps.ite

theorem Keeps.failRow {s x : State} (h : Keeps s x) (y1 : ℕ) (y2 : ℕ) : Keeps s (State.failRow x y1 y2).1 := by
  unfold State.failRow
  repeat' first | with_reducible assumption | with_reducible apply Keeps.setChan | with_reducible apply Keeps.ite | with_reducible apply KeepsO.ite | with_reducible apply KeepsO.next | split | dsimp only

theorem Keeps.failRow_eq {s x t : State} (h : Keeps s x) {y1 : ℕ} {y2 : ℕ} {n} (e : State.failRow x y1 y2 = (t, n)) : Keeps s t := by
  have k := Keeps.failRow h y1 y2
  rw [e] at k; exact k

theorem Keeps.dramCorrected {s x : State} (h : Keeps s x) (e : DramErr) (data : List ℕ) (words : ℕ) (devs : List ℕ) :
    Keeps s (x.dramCorrected e data words devs) := by
  have fr : ∀ (c : Prop) [Decidable c] (y : State) (n : Nat), Keeps s y → Keeps s (if c then y.failRow e.chan n else (y, false)).1 := by
    intro c _ y n k
    split
    · exact k.failRow _ _
    · exact k
  unfold State.dramCorrected
  have k1 := h.modMemc (fun m => { m with
      ce := m.ce + w32 words, unreported := m.unreported + words
      dram := if data = m.line e.line then m.dram else memSetBytes m.dram (64 * e.line) (data.map (BitVec.ofNat 8)) })
    (fun m a => show Memory.wf (if _ then _ else _) = true by split <;> [exact a; exact wf_memSetBytes _ a _])
  dsimp only
  generalize State.modMemc _ _ = y at k1 ⊢
  generalize (fun z : DramChan => ({ z with
    hits := if z.hits.contains e.row then z.hits else e.row :: z.hits
    corrs := devs.map (fun d => (x.nowNs / 1000000000, d)) ++ z.corrs.filter fun p => decide (x.nowNs / 1000000000 < p.1 + 3600)
    ceAt := some (x.nowNs / 1000000000) } : DramChan)) = f
  have k2 := k1.setChan e.chan f
  have k3 : Keeps s (if (x.chan e.chan).ceAt ≠ some (x.nowNs / 1000000000) then (y.setChan e.chan f).raise blkMemc 0x10 .c e.chan else y.setChan e.chan f) :=
    .ite (k2.raise _ _ _ _) k2
  have k4 := fr (((x.chan e.chan).hits.contains e.row) = true) _ e.row k3
  exact .ite (k4.degradeChan _) k4

theorem Keeps.abandonMigration {s x : State} (h : Keeps s x)  : Keeps s (State.abandonMigration x) := by
  unfold State.abandonMigration
  repeat' first | with_reducible assumption | with_reducible apply Keeps.raiseT | with_reducible apply Keeps.startPpr | with_reducible apply Keeps.modMemc | with_reducible apply Keeps.ite | with_reducible apply KeepsO.ite | with_reducible apply KeepsO.next | split | dsimp only | intro _

theorem Keeps.dramLost {s x : State} (h : Keeps s x) (e : DramErr) : Keeps s (x.dramLost e) := by
  unfold State.dramLost
  dsimp only
  have k := (((h.modMemc (fun m => { m with
      ue := m.ue + 1, poison := if m.poison.contains e.line || !m.holdsSlot e.chan then m.poison else e.line :: m.poison }) fun _ a => a).raise
    blkMemc 0x11 .u (64 * e.line)).failRow e.chan e.row)
  generalize State.failRow _ _ _ = p at k ⊢
  refine .ite k.abandonMigration ?_
  split
  · exact (k.degradeChan _).raiseT _ _ _ _
  · exact k.degradeChan _

theorem Keeps.dramError {s x : State} (h : Keeps s x) (e : DramErr) : Keeps s (x.dramError e) := by
  unfold State.dramError
  exact .ite h (.ite (h.dramLost _) (.ite (h.dramLost _) (.ite h (h.dramCorrected _ _ _ _))))

theorem KeepsO.execDramReadError {s x : State} (h : Keeps s x) (y1 : DramErr) : KeepsO s (execDramReadError y1 x) := by
  unfold Machine.execDramReadError
  repeat' first | with_reducible assumption | with_reducible apply Keeps.dramError | with_reducible apply Keeps.quiet | with_reducible apply Keeps.ite | with_reducible apply KeepsO.ite | with_reducible apply KeepsO.next

theorem KeepsO.execPatrolScrub {s x : State} (h : Keeps s x) (y1 : ℕ) (y2 : List DramErr) : KeepsO s (execPatrolScrub y1 y2 x) := by
  unfold Machine.execPatrolScrub
  repeat' first | with_reducible assumption | with_reducible apply Keeps.quiet | with_reducible apply Keeps.setChan | with_reducible apply Keeps.foldS | with_reducible apply Keeps.dramError | with_reducible apply Keeps.ite | with_reducible apply KeepsO.ite | with_reducible apply KeepsO.next | split | dsimp only | intro _

theorem KeepsO.execEcsRead {s x : State} (h : Keeps s x) (y1 : ℕ) (y2 : List ℕ) : KeepsO s (execEcsRead y1 y2 x) := by
  unfold Machine.execEcsRead
  repeat' first | with_reducible assumption | with_reducible apply Keeps.quiet | with_reducible apply Keeps.setChan | with_reducible apply Keeps.degradeChan | with_reducible apply Keeps.ite | with_reducible apply KeepsO.ite | with_reducible apply KeepsO.next

theorem KeepsO.execMigrate {s x : State} (h : Keeps s x) (y1 : ℕ) : KeepsO s (execMigrate y1 x) := by
  unfold Machine.execMigrate
  repeat' first | with_reducible assumption | with_reducible apply Keeps.startMigration | with_reducible apply Keeps.quiet | with_reducible apply Keeps.ite | with_reducible apply KeepsO.ite | with_reducible apply KeepsO.next

theorem KeepsO.execMigrated {s x : State} (h : Keeps s x)  : KeepsO s (execMigrated x) := by
  unfold Machine.execMigrated
  repeat' first | with_reducible assumption | with_reducible apply Keeps.quiet | with_reducible apply Keeps.modMemc | with_reducible apply Keeps.startPpr | with_reducible apply Keeps.raise | with_reducible apply Keeps.setChan | with_reducible apply Keeps.ite | with_reducible apply KeepsO.ite | with_reducible apply KeepsO.next | split | dsimp only | intro _

theorem KeepsO.execRepairAction {s x : State} (h : Keeps s x) (y1 : ℕ) : KeepsO s (execRepairAction y1 x) := by
  unfold Machine.execRepairAction
  repeat' first | with_reducible assumption | with_reducible apply Keeps.quiet | with_reducible apply Keeps.startPpr | with_reducible apply Keeps.ite | with_reducible apply KeepsO.ite | with_reducible apply KeepsO.next

theorem Keeps.afterPpr {s x : State} (h : Keeps s x)  : Keeps s (State.afterPpr x) := by
  unfold State.afterPpr
  repeat' first | with_reducible assumption | with_reducible apply Keeps.startPpr | with_reducible apply Keeps.modMemc | with_reducible apply Keeps.startMigration | with_reducible apply Keeps.ite | with_reducible apply KeepsO.ite | with_reducible apply KeepsO.next | split | dsimp only | intro _

theorem KeepsO.execPprComplete {s x : State} (h : Keeps s x) (y1 : Bool) : KeepsO s (execPprComplete y1 x) := by
  unfold Machine.execPprComplete
  repeat' first | with_reducible assumption | with_reducible apply Keeps.resumeWaiting | with_reducible apply Keeps.quiet | with_reducible apply Keeps.modMemc | with_reducible apply Keeps.afterPpr | with_reducible apply Keeps.setChan | with_reducible apply Keeps.raiseT | with_reducible apply Keeps.raise | with_reducible apply Keeps.ite | with_reducible apply KeepsO.ite | with_reducible apply KeepsO.next | split | dsimp only | intro _

end Sys2Proof.Machine
end

