-- ==== Sys2Proof/Laws/KeepsRegisters.lean ====
section
/-! SUPPORT. Each operation of Machine/Registers.lean keeps what every command respects. -/

namespace Sys2Proof.Machine

theorem Keeps.modMail {s x : State} (h : Keeps s x) (y1 : MailKind) (y2 : Mailboxes → Mailboxes) : Keeps s (State.modMail x y1 y2) := by
  unfold State.modMail
  repeat' first | with_reducible assumption | with_reducible apply Keeps.setCommon | with_reducible apply Keeps.modCsw | with_reducible apply Keeps.modRef | with_reducible apply Keeps.modMemc | with_reducible apply Keeps.setPort | with_reducible apply Keeps.modTime | with_reducible apply Keeps.ite | with_reducible apply KeepsO.ite | with_reducible apply KeepsO.next | split | dsimp only | intro _ | with_reducible refine Keeps.lit ?_ rfl rfl rfl rfl

theorem Keeps.mailWords {s x : State} (h : Keeps s x) (k : MailKind) : Keeps s (x.mailWords k).1 := by
  unfold State.mailWords
  split <;> first | exact h | exact h.fresh | exact h.timeWords | exact h.same rfl rfl rfl rfl rfl rfl rfl

theorem Keeps.snapMail {s x : State} (h : Keeps s x) (b : Bool) (k : MailKind) : Keeps s (x.snapMail b k) :=
  .ite h ((h.mailWords k).modMail _ _)

theorem KeepsO.execMailboxCaptureDone {s x : State} (h : Keeps s x) (y1 : MailKind) (y2 : Bool) : KeepsO s (execMailboxCaptureDone y1 y2 x) := by
  unfold Machine.execMailboxCaptureDone
  repeat' first | with_reducible assumption | with_reducible apply Keeps.quiet | with_reducible apply Keeps.modMail | with_reducible apply Keeps.ite | with_reducible apply KeepsO.ite | with_reducible apply KeepsO.next | split | dsimp only

theorem Keeps.readEffect {s x : State} (h : Keeps s x) (y1 : Master) (y2 : ℕ) (y3 : ℕ) (y4 : ℕ) (y5 : ℕ) : Keeps s (State.readEffect x y1 y2 y3 y4 y5) := by
  unfold State.readEffect
  repeat' first | with_reducible assumption | with_reducible apply Keeps.setCluster | with_reducible apply Keeps.readIntStat | with_reducible apply Keeps.modMail | with_reducible apply Keeps.ite | with_reducible apply KeepsO.ite | with_reducible apply KeepsO.next | split | dsimp only | intro _ | with_reducible refine Keeps.lit ?_ rfl rfl rfl rfl | with_reducible apply Cluster.Ok.lit

theorem Keeps.readOne {s x : State} (h : Keeps s x) (y1 : Master) (y2 : ℕ) (y3 : ℕ) : Keeps s (State.readOne x y1 y2 y3).1 := by
  unfold State.readOne
  repeat' first | with_reducible assumption | with_reducible apply Keeps.berr | with_reducible apply Keeps.fresh | with_reducible apply Keeps.readEffect | with_reducible apply Keeps.ite | with_reducible apply KeepsO.ite | with_reducible apply KeepsO.next | split

theorem Keeps.readOne_eq {s x t : State} (h : Keeps s x) {y1 : Master} {y2 : ℕ} {y3 : ℕ} {n} (e : State.readOne x y1 y2 y3 = (t, n)) : Keeps s t := by
  have k := Keeps.readOne h y1 y2 y3
  rw [e] at k; exact k

theorem Keeps.readReg {s x : State} (h : Keeps s x) (m : Master) (a n : Nat) : Keeps s (x.readReg m a n) := by
  have put : ∀ (p : State × Option Nat), Keeps s p.1 → Keeps s (match p.2 with | some v => p.1.emit (.data [v]) | none => p.1) := by
    intro p k
    split
    · exact k.emit _
    · exact k
  unfold State.readReg
  exact .ite (put _ (Keeps.readOne (put _ (h.readOne _ _ _)) _ _ _)) (put _ (h.readOne _ _ _))

theorem KeepsO.execRcRead {s x : State} (h : Keeps s x) (y1 : Master) (y2 : ℕ) (y3 : ℕ) : KeepsO s (execRcRead y1 y2 y3 x) := by
  unfold Machine.execRcRead
  repeat' first | with_reducible assumption | with_reducible apply Keeps.readReg | with_reducible apply Keeps.quiet | with_reducible apply Keeps.ite | with_reducible apply KeepsO.ite | with_reducible apply KeepsO.next

theorem KeepsO.execMailboxLastRead {s x : State} (h : Keeps s x) (y1 : Master) (y2 : ℕ) (y3 : ℕ) : KeepsO s (execMailboxLastRead y1 y2 y3 x) := by
  unfold Machine.execMailboxLastRead
  repeat' first | with_reducible assumption | with_reducible apply Keeps.readReg | with_reducible apply Keeps.quiet | with_reducible apply Keeps.ite | with_reducible apply KeepsO.ite | with_reducible apply KeepsO.next

theorem Keeps.writeCommon {s x : State} (h : Keeps s x) (y1 : Master) (y2 : ℕ) (y3 : ℕ) (y4 : Word) : Keeps s (State.writeCommon x y1 y2 y3 y4) := by
  unfold State.writeCommon
  repeat' first | with_reducible assumption | with_reducible apply Keeps.modTop | with_reducible apply Keeps.setCommon | with_reducible apply Keeps.force | with_reducible apply Keeps.clearHist | with_reducible apply Keeps.snapMail | with_reducible apply Keeps.ite

theorem Keeps.reject {s x : State} (h : Keeps s x) (y1 : ℕ) : Keeps s (State.reject x y1) := by
  unfold State.reject
  repeat' first | with_reducible assumption | with_reducible apply Keeps.setCommon

theorem Keeps.writeTop {s x : State} (h : Keeps s x) (y1 : Master) (y2 : ℕ) (y3 : Word) : Keeps s (State.writeTop x y1 y2 y3) := by
  unfold State.writeTop
  repeat' first | with_reducible assumption | with_reducible apply Keeps.writeFrst0 | with_reducible apply Keeps.modTop | with_reducible apply Keeps.goFrst1 | with_reducible apply Keeps.holdRelease | with_reducible apply Keeps.holdSet | with_reducible apply Keeps.ite

theorem Keeps.writeTime {s x : State} (h : Keeps s x) (y1 : Master) (y2 : ℕ) (y3 : Word) : Keeps s (State.writeTime x y1 y2 y3) := by
  unfold State.writeTime
  repeat' first | with_reducible assumption | with_reducible apply Keeps.modTime | with_reducible apply Keeps.loadInc | with_reducible apply Keeps.snapMail | with_reducible apply Keeps.setCmp | with_reducible apply Keeps.armCmp | with_reducible apply Keeps.ite

theorem Keeps.writeSpin {s x : State} (h : Keeps s x) (y1 : ℕ) (y2 : Word) : Keeps s (State.writeSpin x y1 y2) := by
  unfold State.writeSpin
  repeat' first | with_reducible assumption | with_reducible apply Keeps.reject | with_reducible refine Keeps.setCluster ?_ _ _ (fun _ _ => ?_) | with_reducible apply Keeps.spinCommand | with_reducible apply Keeps.spinAbandon | with_reducible apply Keeps.ite | with_reducible apply Keeps.ite1 | with_reducible apply KeepsO.ite | with_reducible apply KeepsO.next | with_reducible apply Cluster.Ok.ite | split | dsimp only | intro _ | with_reducible refine Keeps.lit ?_ rfl rfl rfl rfl | with_reducible apply Cluster.Ok.lit

theorem Keeps.writeCl {s x : State} (h : Keeps s x) (y1 : ℕ) (y2 : ℕ) (y3 : Word) : Keeps s (State.writeCl x y1 y2 y3) := by
  unfold State.writeCl
  repeat' first | with_reducible assumption | with_reducible apply Keeps.setCluster | with_reducible apply Keeps.writeSpin | with_reducible apply Keeps.reject | with_reducible apply Keeps.ite | with_reducible apply KeepsO.ite | with_reducible apply KeepsO.next | split | dsimp only | intro _ | with_reducible refine Keeps.lit ?_ rfl rfl rfl rfl | with_reducible apply Cluster.Ok.lit

theorem Keeps.selSnap {s x : State} (h : Keeps s x) (m : Master) (k : MailKind) (v : Word) (f : State → State)
    (hf : ∀ y, Keeps s y → Keeps s (f y)) : Keeps s (x.selSnap m k v f) := .ite ((hf _ h).snapMail _ _) (hf _ h)

theorem Keeps.setSilSel {s x : State} (h : Keeps s x) (y1 : ℕ) : Keeps s (State.setSilSel x y1) := by
  unfold State.setSilSel
  repeat' first | with_reducible assumption | with_reducible apply Keeps.ite | with_reducible apply KeepsO.ite | with_reducible apply KeepsO.next | split | dsimp only | intro _ | with_reducible refine Keeps.lit ?_ rfl rfl rfl rfl

theorem Keeps.setOsel {s x : State} (h : Keeps s x) (y1 : ℕ) : Keeps s (State.setOsel x y1) := by
  unfold State.setOsel
  repeat' first | with_reducible assumption | with_reducible apply Keeps.ite | with_reducible apply KeepsO.ite | with_reducible apply KeepsO.next | split | dsimp only | intro _ | with_reducible refine Keeps.lit ?_ rfl rfl rfl rfl

theorem Keeps.setMsel {s x : State} (h : Keeps s x) (y1 : ℕ) : Keeps s (State.setMsel x y1) := by
  unfold State.setMsel
  repeat' first | with_reducible assumption | with_reducible apply Keeps.modRef

theorem Keeps.setDsel {s x : State} (h : Keeps s x) (y1 : ℕ) : Keeps s (State.setDsel x y1) := by
  unfold State.setDsel
  repeat' first | with_reducible assumption | with_reducible apply Keeps.modMemc | with_reducible apply Keeps.ite | with_reducible apply KeepsO.ite | with_reducible apply KeepsO.next | split | dsimp only | intro _

theorem Keeps.setCntSel {s x : State} (h : Keeps s x) (y1 : ℕ) : Keeps s (State.setCntSel x y1) := by
  unfold State.setCntSel
  repeat' first | with_reducible assumption | with_reducible apply Keeps.modCsw

theorem Keeps.writeFixed {s x : State} (h : Keeps s x) (y1 : Master) (y2 : ℕ) (y3 : ℕ) (y4 : Word) : Keeps s (State.writeFixed x y1 y2 y3 y4) := by
  unfold State.writeFixed
  repeat' first | with_reducible assumption | with_reducible apply Keeps.selSnap | with_reducible apply Keeps.setOsel | with_reducible apply Keeps.setSilSel | with_reducible apply Keeps.ite | with_reducible apply KeepsO.ite | with_reducible apply KeepsO.next | split | dsimp only | intro _ | with_reducible refine Keeps.lit ?_ rfl rfl rfl rfl

theorem Keeps.writeTw0 {s x : State} (h : Keeps s x) (y1 : ℕ) (y2 : Word) : Keeps s (State.writeTw0 x y1 y2) := by
  unfold State.writeTw0
  repeat' first | with_reducible assumption | with_reducible apply Keeps.reject | with_reducible apply Keeps.ite | with_reducible apply KeepsO.ite | with_reducible apply KeepsO.next | split | dsimp only | intro _ | with_reducible refine Keeps.lit ?_ rfl rfl rfl rfl

theorem Keeps.slowEffect {s x : State} (h : Keeps s x) (y1 : ℕ) (y2 : ℕ) (y3 : Word) : Keeps s (State.slowEffect x y1 y2 y3) := by
  unfold State.slowEffect
  repeat' first | with_reducible assumption | with_reducible apply Keeps.modPwr | with_reducible apply Keeps.reject | with_reducible apply Keeps.ite | with_reducible apply KeepsO.ite | with_reducible apply KeepsO.next | split | dsimp only | intro _ | with_reducible refine Keeps.lit ?_ rfl rfl rfl rfl

theorem Keeps.postSlow {s x t : State} (h : Keeps s x) {b r : Nat} {v : Word} (e : x.postSlow b r v = some t) : Keeps s t := by
  unfold State.postSlow at e
  dsimp only at e
  split at e
  · cases e; exact h.setCommon _ _
  · split at e
    · cases e
    · cases e; exact h.setCommon _ _

theorem KeepsO.execSlowWriteEffect {s x : State} (h : Keeps s x) (y1 : ℕ) : KeepsO s (execSlowWriteEffect y1 x) := by
  unfold Machine.execSlowWriteEffect
  repeat' first | with_reducible assumption | with_reducible apply Keeps.quiet | with_reducible apply Keeps.slowEffect | with_reducible apply Keeps.setCommon | with_reducible apply Keeps.ite | with_reducible apply KeepsO.ite | with_reducible apply KeepsO.next | split | dsimp only

theorem Keeps.writeVal {s x : State} (h : Keeps s x) (y1 : Master) (y2 : ℕ) (y3 : ℕ) (y4 : Word) : Keeps s (State.writeVal x y1 y2 y3 y4) := by
  unfold State.writeVal
  repeat' first | with_reducible assumption | with_reducible apply Keeps.writeCommon | with_reducible apply Keeps.writeTop | with_reducible apply Keeps.writeTime | with_reducible apply Keeps.selSnap | with_reducible apply Keeps.setMsel | with_reducible apply Keeps.modFab | with_reducible apply Keeps.setCntSel | with_reducible apply Keeps.modCsw | with_reducible apply Keeps.writeFixed | with_reducible apply Keeps.modPair | with_reducible apply Keeps.modMemc | with_reducible apply Keeps.setDsel | with_reducible apply Keeps.modSramc | with_reducible apply Keeps.writeTw0 | with_reducible apply Keeps.writeCl | with_reducible apply Keeps.snapMail | with_reducible apply Keeps.ite | with_reducible apply KeepsO.ite | with_reducible apply KeepsO.next | split | dsimp only | intro _ | with_reducible refine Keeps.lit ?_ rfl rfl rfl rfl

theorem Keeps.writeOne {s x : State} (h : Keeps s x) (m : Master) (a n : Nat) (v : Word) : Keeps s (x.writeOne m a n v) := by
  unfold State.writeOne
  split
  · exact h.berr _ _ _ _
  · refine .ite ?_ (h.writeVal _ _ _ _)
    split
    · exact Keeps.postSlow h ‹_›
    · exact h.berr _ _ _ _

theorem KeepsO.execRegisterWrite {s x : State} (h : Keeps s x) (y1 : Master) (y2 : ℕ) (y3 : ℕ) (y4 : Word) : KeepsO s (execRegisterWrite y1 y2 y3 y4 x) := by
  unfold Machine.execRegisterWrite
  repeat' first | with_reducible assumption | with_reducible apply Keeps.writeOne | with_reducible apply Keeps.quiet | with_reducible apply Keeps.ite | with_reducible apply KeepsO.ite | with_reducible apply KeepsO.next

theorem KeepsO.execTimeSnap {s x : State} (h : Keeps s x) (y1 : Master) : KeepsO s (execTimeSnap y1 x) := by
  unfold Machine.execTimeSnap
  repeat' first | with_reducible assumption | with_reducible apply Keeps.viaWrite | with_reducible apply Keeps.quiet | with_reducible apply Keeps.snapMail | with_reducible apply Keeps.ite | with_reducible apply KeepsO.ite | with_reducible apply KeepsO.next | split | dsimp only | intro _

theorem KeepsO.execCntSelSnap {s x : State} (h : Keeps s x) (y1 : Master) (y2 : ℕ) : KeepsO s (execCntSelSnap y1 y2 x) := by
  unfold Machine.execCntSelSnap
  repeat' first | with_reducible assumption | with_reducible apply Keeps.viaWrite | with_reducible apply Keeps.quiet | with_reducible apply Keeps.snapMail | with_reducible apply Keeps.setCntSel | with_reducible apply Keeps.ite | with_reducible apply KeepsO.ite | with_reducible apply KeepsO.next | split | dsimp only | intro _

theorem KeepsO.execSilSelSnap {s x : State} (h : Keeps s x) (y1 : Master) (y2 : ℕ) : KeepsO s (execSilSelSnap y1 y2 x) := by
  unfold Machine.execSilSelSnap
  repeat' first | with_reducible assumption | with_reducible apply Keeps.viaWrite | with_reducible apply Keeps.quiet | with_reducible apply Keeps.snapMail | with_reducible apply Keeps.setSilSel | with_reducible apply Keeps.ite | with_reducible apply KeepsO.ite | with_reducible apply KeepsO.next | split | dsimp only | intro _

theorem KeepsO.execOselSnap {s x : State} (h : Keeps s x) (y1 : Master) (y2 : ℕ) : KeepsO s (execOselSnap y1 y2 x) := by
  unfold Machine.execOselSnap
  repeat' first | with_reducible assumption | with_reducible apply Keeps.viaWrite | with_reducible apply Keeps.quiet | with_reducible apply Keeps.snapMail | with_reducible apply Keeps.setOsel | with_reducible apply Keeps.ite | with_reducible apply KeepsO.ite | with_reducible apply KeepsO.next | split | dsimp only | intro _

theorem KeepsO.execMselSnap {s x : State} (h : Keeps s x) (y1 : Master) (y2 : ℕ) : KeepsO s (execMselSnap y1 y2 x) := by
  unfold Machine.execMselSnap
  repeat' first | with_reducible assumption | with_reducible apply Keeps.viaWrite | with_reducible apply Keeps.quiet | with_reducible apply Keeps.snapMail | with_reducible apply Keeps.setMsel | with_reducible apply Keeps.ite | with_reducible apply KeepsO.ite | with_reducible apply KeepsO.next | split | dsimp only | intro _

theorem KeepsO.execDselSnap {s x : State} (h : Keeps s x) (y1 : Master) (y2 : ℕ) : KeepsO s (execDselSnap y1 y2 x) := by
  unfold Machine.execDselSnap
  repeat' first | with_reducible assumption | with_reducible apply Keeps.viaWrite | with_reducible apply Keeps.quiet | with_reducible apply Keeps.snapMail | with_reducible apply Keeps.setDsel | with_reducible apply Keeps.ite | with_reducible apply KeepsO.ite | with_reducible apply KeepsO.next | split | dsimp only | intro _

theorem KeepsO.execCntCtlSnap {s x : State} (h : Keeps s x) (y1 : Master) (y2 : ℕ) : KeepsO s (execCntCtlSnap y1 y2 x) := by
  unfold Machine.execCntCtlSnap
  repeat' first | with_reducible assumption | with_reducible apply Keeps.viaWrite | with_reducible apply Keeps.quiet | with_reducible apply Keeps.snapMail | with_reducible apply Keeps.ite | with_reducible apply KeepsO.ite | with_reducible apply KeepsO.next | split | dsimp only | intro _

theorem KeepsO.execHistSnap {s x : State} (h : Keeps s x) (y1 : Master) (y2 : ℕ) : KeepsO s (execHistSnap y1 y2 x) := by
  unfold Machine.execHistSnap
  repeat' first | with_reducible assumption | with_reducible apply Keeps.viaWrite | with_reducible apply Keeps.quiet | with_reducible apply Keeps.snapMail | with_reducible apply Keeps.ite | with_reducible apply KeepsO.ite | with_reducible apply KeepsO.next | split | dsimp only | intro _

end Sys2Proof.Machine
end

