-- ==== Sys2Proof/Laws/KeepsFabric.lean ====
section
/-! SUPPORT. Each operation of Machine/Fabric.lean keeps what every command respects. -/

namespace Sys2Proof.Machine

theorem Keeps.coreMiss {s x : State} (h : Keeps s x)  : Keeps s (State.coreMiss x) := by
  unfold State.coreMiss
  repeat' first | with_reducible assumption | with_reducible apply Keeps.raiseT | with_reducible apply Keeps.ite | with_reducible apply KeepsO.ite | with_reducible apply KeepsO.next | split | dsimp only | intro _ | with_reducible refine Keeps.lit ?_ rfl rfl rfl rfl

theorem KeepsO.execSealMiss {s x : State} (h : Keeps s x)  : KeepsO s (execSealMiss x) := by
  unfold Machine.execSealMiss
  repeat' first | with_reducible assumption | with_reducible apply Keeps.quiet | with_reducible apply Keeps.coreMiss | with_reducible apply Keeps.ite | with_reducible apply KeepsO.ite | with_reducible apply KeepsO.next

theorem KeepsO.execHeartbeatMiss {s x : State} (h : Keeps s x)  : KeepsO s (execHeartbeatMiss x) := by
  unfold Machine.execHeartbeatMiss
  repeat' first | with_reducible assumption | with_reducible apply Keeps.quiet | with_reducible apply Keeps.coreMiss | with_reducible apply Keeps.ite | with_reducible apply KeepsO.ite | with_reducible apply KeepsO.next

theorem KeepsO.execStage {s x : State} (h : Keeps s x) (y1 : ℕ) (y2 : Option FwImage) : KeepsO s (execStage y1 y2 x) := by
  unfold Machine.execStage
  repeat' first | with_reducible assumption | with_reducible apply Keeps.quiet | with_reducible apply Keeps.modFab | with_reducible apply Keeps.ite | with_reducible apply KeepsO.ite | with_reducible apply KeepsO.next | split | dsimp only | intro _

theorem KeepsO.execStagedReady {s x : State} (h : Keeps s x)  : KeepsO s (execStagedReady x) := by
  unfold Machine.execStagedReady
  repeat' first | with_reducible assumption | with_reducible apply Keeps.quiet | with_reducible apply Keeps.modFab | with_reducible apply Keeps.ite | with_reducible apply KeepsO.ite | with_reducible apply KeepsO.next | split | dsimp only | intro _

theorem KeepsO.execArm {s x : State} (h : Keeps s x) (y1 : ℕ) : KeepsO s (execArm y1 x) := by
  unfold Machine.execArm
  repeat' first | with_reducible assumption | with_reducible apply Keeps.quiet | with_reducible apply Keeps.modFab | with_reducible apply Keeps.ite | with_reducible apply KeepsO.ite | with_reducible apply KeepsO.next | split | dsimp only | intro _

theorem KeepsO.execFwHandover {s x : State} (h : Keeps s x) : KeepsO s (execFwHandover x) := by
  unfold Machine.execFwHandover
  dsimp only
  split
  · exact .next h.quiet
  · refine .ite (.next h.quiet) (.ite (.next (h.quiet.modFab _ (fun _ a => a) fun _ a => a)) (.next (Keeps.raiseT (h.quiet.modFab _ ?_ ?_) _ _ _ _)))
    · intro f a; exact a
    · intro f a; exact a

theorem KeepsO.execFwRelease {s x : State} (h : Keeps s x)  : KeepsO s (execFwRelease x) := by
  unfold Machine.execFwRelease
  repeat' first | with_reducible assumption | with_reducible apply Keeps.quiet | with_reducible apply Keeps.modFab | with_reducible apply Keeps.ite | with_reducible apply KeepsO.ite | with_reducible apply KeepsO.next | split | dsimp only | intro _

theorem KeepsO.execErase {s x : State} (h : Keeps s x) (y1 : ℕ) : KeepsO s (execErase y1 x) := by
  unfold Machine.execErase
  repeat' first | with_reducible assumption | with_reducible apply Keeps.quiet | with_reducible apply Keeps.modFab | with_reducible apply Keeps.ite | with_reducible apply KeepsO.ite | with_reducible apply KeepsO.next | split | dsimp only | intro _

theorem Keeps.readBeat {s x : State} (h : Keeps s x) (y1 : BurstReq) (y2 : ℕ) : Keeps s (State.readBeat x y1 y2).1 := by
  unfold State.readBeat
  repeat' first | with_reducible assumption | with_reducible apply Keeps.berr | with_reducible apply Keeps.dramUE | with_reducible apply Keeps.fresh | with_reducible apply Keeps.ite | with_reducible apply KeepsO.ite | with_reducible apply KeepsO.next | split | dsimp only

theorem Keeps.readBeat_eq {s x t : State} (h : Keeps s x) {y1 : BurstReq} {y2 : ℕ} {n} (e : State.readBeat x y1 y2 = (t, n)) : Keeps s t := by
  have k := Keeps.readBeat h y1 y2
  rw [e] at k; exact k

theorem Keeps.writeBeat {s x : State} (h : Keeps s x) (b : BurstReq) (a v : Nat) : Keeps s (x.writeBeat b a v) := by
  unfold State.writeBeat
  dsimp only
  exact .ite (h.modFab _ (fun _ k => wf_memSetBytes _ k _) fun _ k => k) (.ite (h.modFab _ (fun _ k => k) fun _ k => wf_memSetBytes _ k _)
    (.ite (h.modMemc _ fun _ k => wf_memSetBytes _ k _) h))

theorem Keeps.beat {s x : State} (h : Keeps s x) (y1 : BurstReq) (y2 : ℕ) : Keeps s (State.beat y1 x y2) := by
  unfold State.beat
  repeat' first | with_reducible assumption | with_reducible apply Keeps.readReg | with_reducible apply Keeps.writeOne | with_reducible apply Keeps.writeBeat | with_reducible apply Keeps.emit | with_reducible apply Keeps.readBeat | exact Keeps.readBeat_eq (by assumption) (by assumption) | with_reducible apply Keeps.ite | with_reducible apply Keeps.ite1 | with_reducible apply KeepsO.ite | with_reducible apply KeepsO.next | split

theorem Keeps.errBeats {s x : State} (h : Keeps s x) (y1 : BurstReq) (y2 : ℕ) (y3 : List ℕ) : Keeps s (State.errBeats x y1 y2 y3) := by
  unfold State.errBeats
  repeat' first | with_reducible assumption | with_reducible apply Keeps.foldS | with_reducible apply Keeps.berr | with_reducible apply Keeps.ite | with_reducible apply KeepsO.ite | with_reducible apply KeepsO.next | split | dsimp only | intro _

theorem KeepsO.execBurst {s x : State} (h : Keeps s x) (y1 : BurstReq) : KeepsO s (execBurst y1 x) := by
  unfold Machine.execBurst
  repeat' first | with_reducible assumption | with_reducible apply Keeps.quiet | with_reducible apply Keeps.errBeats | with_reducible apply Keeps.foldS | with_reducible apply Keeps.beat | with_reducible apply Keeps.ite | with_reducible apply KeepsO.ite | with_reducible apply KeepsO.next | split | dsimp only | intro _

theorem KeepsO.execBurstTo {s x : State} (h : Keeps s x) (y1 : BurstReq) (y2 : ℕ) (y3 : Bool) : KeepsO s (execBurstTo y1 y2 y3 x) := by
  unfold Machine.execBurstTo
  repeat' first | with_reducible assumption | with_reducible apply Keeps.quiet | with_reducible apply Keeps.errBeats | with_reducible apply Keeps.foldS | with_reducible apply Keeps.beat | with_reducible apply Keeps.raiseT | with_reducible apply Keeps.modFab | with_reducible apply Keeps.ite | with_reducible apply KeepsO.ite | with_reducible apply KeepsO.next | split | dsimp only | intro _

end Sys2Proof.Machine
end

