-- ==== Sys2Proof/Laws/KeepsActions.lean ====
section
/-! SUPPORT. Each operation of Machine/Actions.lean keeps what every command respects. -/

namespace Sys2Proof.Machine

theorem Keeps.act {s x : State} (h : Keeps s x) (f : State → Out) (k : KeepsO s (f x)) : Keeps s (State.act x f) := by
  obtain ⟨t, e, k⟩ := k
  unfold State.act
  rw [e]
  exact k.same rfl rfl rfl rfl rfl rfl rfl

theorem KeepsO.iteF {s x : State} {f g : State → Out} {c : Prop} [Decidable c] (a : KeepsO s (f x)) (b : KeepsO s (g x)) :
    KeepsO s ((if c then f else g) x) := by split <;> assumption

/-- Each of the actions keeps what every command respects. -/
theorem KeepsO.actionOf (y : State) {s x : State} (h : Keeps s x) (obj m n : ℕ) : KeepsO s (Machine.actionOf y obj m n x) := by
  unfold Machine.actionOf
  repeat' first | with_reducible apply KeepsO.iteF | with_reducible apply KeepsO.execArm | with_reducible apply KeepsO.execErase | with_reducible apply KeepsO.execSave | with_reducible apply KeepsO.execReady | with_reducible apply KeepsO.execSet | with_reducible apply KeepsO.execSpareIn | with_reducible apply KeepsO.execLeave | with_reducible apply KeepsO.execPairHandover | with_reducible apply KeepsO.execNorth | with_reducible apply KeepsO.execSouth | with_reducible apply KeepsO.execMigrate | with_reducible apply KeepsO.execRepairAction | with_reducible apply KeepsO.execSwitch | with_reducible apply KeepsO.execClose | with_reducible apply KeepsO.execCommitFw | with_reducible apply KeepsO.execCloseNow | with_reducible exact .next h.quiet | with_reducible assumption

theorem KeepsO.nonceOf (y : State) {s x : State} (h : Keeps s x) (obj m : ℕ) : KeepsO s (Machine.nonceOf y obj m x) := by
  exact .iteF (KeepsO.execNonce h) (.iteF (KeepsO.execChallenge h _) (.next h.quiet))

theorem Keeps.startAction {s x : State} (h : Keeps s x) (w : EWrite) : Keeps s (State.startAction x w) := by
  unfold State.startAction
  split
  · exact h.fresh.act _ (KeepsO.actionOf x h.fresh _ _ _)
  · exact (h.fresh.act _ (KeepsO.nonceOf x h.fresh _ _)).writeEffect _

theorem Keeps.runActions {s x : State} (h : Keeps s x) : Keeps s (State.runActions x) := by
  unfold State.runActions
  repeat' first | with_reducible assumption | with_reducible refine Keeps.foldS ?_ _ (fun _ _ _ => ?_) _ | with_reducible apply Keeps.startAction | with_reducible apply Keeps.modDict | with_reducible apply Keeps.ite | with_reducible apply Keeps.ite1 | with_reducible apply KeepsO.ite | with_reducible apply KeepsO.next | split | dsimp only | intro _ | with_reducible refine Keeps.lit ?_ rfl rfl rfl rfl

theorem KeepsO.execCommitApply {s x : State} (h : Keeps s x) (y1 : ℕ) : KeepsO s (Machine.execCommitApply y1 x) := by
  unfold Machine.execCommitApply
  repeat' first | with_reducible assumption | with_reducible apply Keeps.quiet | with_reducible apply Keeps.applySealed | with_reducible apply Keeps.runActions | with_reducible apply Keeps.ite | with_reducible apply Keeps.ite1 | with_reducible apply KeepsO.ite | with_reducible apply KeepsO.next | split | dsimp only | intro _ | with_reducible refine Keeps.lit ?_ rfl rfl rfl rfl

theorem KeepsO.execTickEvent {s x : State} (h : Keeps s x) (y1 : TickOps) : KeepsO s (Machine.execTickEvent y1 x) := by
  unfold Machine.execTickEvent
  repeat' first | with_reducible assumption | with_reducible apply Keeps.quiet | with_reducible apply Keeps.tickEvent | with_reducible apply Keeps.takeSave | with_reducible apply Keeps.runActions | with_reducible apply Keeps.ite | with_reducible apply Keeps.ite1 | with_reducible apply KeepsO.ite | with_reducible apply KeepsO.next | split | dsimp only | intro _ | with_reducible refine Keeps.lit ?_ rfl rfl rfl rfl

end Sys2Proof.Machine
end

