-- ==== Sys2Proof/Laws/KeepsDictionary.lean ====
section
/-! SUPPORT. Each operation of Machine/Dictionary.lean keeps what every command respects. -/

namespace Sys2Proof.Machine

theorem Keeps.answerAll {s x : State} (h : Keeps s x) (y1 : Asker) (y2 : ℕ) (y3 : DictReq) (y4 : ℕ) : Keeps s (State.answerAll x y1 y2 y3 y4) := by
  unfold State.answerAll
  repeat' first | with_reducible assumption | with_reducible apply Keeps.answer

theorem Keeps.answerBare {s x : State} (h : Keeps s x) (y1 : Asker) (y2 : ℕ) (y3 : DictReq) (y4 : ℕ) : Keeps s (State.answerBare x y1 y2 y3 y4) := by
  unfold State.answerBare
  repeat' first | with_reducible assumption | with_reducible apply Keeps.answer

theorem Keeps.refuse {s x : State} (h : Keeps s x) (y1 : Asker) (y2 : ℕ) (y3 : DictReq) (y4 : UKind) (y5 : ℕ) (y6 : ℕ) : Keeps s (State.refuse x y1 y2 y3 y4 y5 y6) := by
  unfold State.refuse
  repeat' first | with_reducible assumption | with_reducible apply Keeps.modDict | with_reducible apply Keeps.answerAll | with_reducible apply Keeps.ite

theorem Keeps.submit {s x : State} (h : Keeps s x) (y1 : Asker) (y2 : ℕ) (y3 : DictReq) (y4 : CUnit) : Keeps s (State.submit x y1 y2 y3 y4) := by
  unfold State.submit
  repeat' first | with_reducible assumption | with_reducible apply Keeps.applyNow | with_reducible refine Keeps.applyNow_eq ?_ (by assumption) | with_reducible apply Keeps.runActions | with_reducible apply Keeps.answerAll | with_reducible apply Keeps.refuse | with_reducible apply Keeps.answerBare | with_reducible apply Keeps.modDict | with_reducible apply Keeps.ite | with_reducible apply Keeps.ite1 | with_reducible apply KeepsO.ite | with_reducible apply KeepsO.next | split | dsimp only | intro _ | with_reducible refine Keeps.lit ?_ rfl rfl rfl rfl

theorem Keeps.takePath {s x : State} (h : Keeps s x) {p : Path} {t : State} {a : Asker} (e : x.takePath p = some (t, a)) : Keeps s t := by
  unfold State.takePath at e
  split at e
  · cases e; exact h
  · cases e; exact h
  · split at e
    · cases e
    · dsimp only at e
      split at e
      · cases e
      · cases e; exact h.modSec _ fun _ => .same rfl rfl rfl rfl rfl rfl

theorem Keeps.seqOver {s x : State} (h : Keeps s x) (y1 : Path) : Keeps s (State.seqOver x y1) := by
  unfold State.seqOver
  repeat' first | with_reducible assumption | with_reducible apply Keeps.endSession | with_reducible apply Keeps.ite | with_reducible apply Keeps.ite1 | with_reducible apply KeepsO.ite | with_reducible apply KeepsO.next | split

theorem Keeps.resend {s x : State} (h : Keeps s x) (c : Cached) : Keeps s (x.resend c) := by
  unfold State.resend
  dsimp only
  have k := h.respond c.path c.reqid c.status c.body
  generalize x.respond c.path c.reqid c.status c.body = y at k
  repeat' first | exact k | with_reducible apply Keeps.ite | exact k.trans ⟨fun ⟨a, b, i⟩ => ⟨wf_memSetBytes _ a _, b, i⟩, rfl, .refl _⟩ | exact k.same rfl rfl rfl rfl rfl rfl rfl

theorem Keeps.notePort {s x : State} (h : Keeps s x) (y1 : DictReq) : Keeps s (State.notePort x y1) := by
  unfold State.notePort
  repeat' first | with_reducible assumption | with_reducible refine Keeps.modSec ?_ _ (fun _ => .same rfl rfl rfl rfl rfl rfl) | with_reducible apply Keeps.ite | with_reducible apply Keeps.ite1 | with_reducible apply KeepsO.ite | with_reducible apply KeepsO.next | split | dsimp only | intro _ | with_reducible refine Keeps.lit ?_ rfl rfl rfl rfl

theorem Keeps.request {s x : State} (h : Keeps s x) (op : Nat) (r : DictReq) (f : State → Asker → State)
    (hf : ∀ y w, Keeps s y → Keeps s (f y w)) : Keeps s (x.request op r f) := by
  have k := h.quiet.fresh
  unfold State.request
  refine .ite k ?_
  split
  · exact k.seqOver _
  · have k1 := (Keeps.takePath k ‹_›).notePort r
    dsimp only
    split
    · exact k1.resend _
    · exact .ite (k1.answerBare _ _ _ _) (.ite (k1.answerBare _ _ _ _) (.ite (k1.answerBare _ _ _ _) (.ite (k1.answerAll _ _ _ _) (hf _ _ k1))))

theorem Keeps.doRead {s x : State} (h : Keeps s x) (y1 : ℕ) (y2 : DictReq) (y3 : Asker) : Keeps s (State.doRead x y1 y2 y3) := by
  unfold State.doRead
  repeat' first | with_reducible assumption | with_reducible apply Keeps.answer

theorem KeepsO.execRead {s x : State} (h : Keeps s x) (y1 : DictReq) : KeepsO s (execRead y1 x) := by
  unfold Machine.execRead
  repeat' first | with_reducible assumption | with_reducible apply Keeps.request | with_reducible apply Keeps.doRead | with_reducible apply Keeps.ite | with_reducible apply KeepsO.ite | with_reducible apply KeepsO.next | split | dsimp only | intro _

theorem KeepsO.execDescribe {s x : State} (h : Keeps s x) (y1 : DictReq) : KeepsO s (execDescribe y1 x) := by
  unfold Machine.execDescribe
  repeat' first | with_reducible assumption | with_reducible apply Keeps.request | with_reducible apply Keeps.doRead | with_reducible apply Keeps.ite | with_reducible apply KeepsO.ite | with_reducible apply KeepsO.next | split | dsimp only | intro _

theorem Keeps.refuseUpload {s x : State} (h : Keeps s x) (w : Asker) (r : DictReq) (n : Nat) : Keeps s (State.refuseUpload x w r n) := by
  unfold State.refuseUpload
  exact (Keeps.ite (h.secEvent _ _ _) h).answerAll _ _ _ _

theorem Keeps.doWrite {s x : State} (h : Keeps s x) (y1 : DictReq) (y2 : Asker) : Keeps s (State.doWrite y1 x y2) := by
  unfold State.doWrite
  repeat' first | with_reducible assumption | with_reducible apply Keeps.answerBare | with_reducible apply Keeps.answer | with_reducible apply Keeps.answerAll | with_reducible apply Keeps.submit | with_reducible apply Keeps.refuseUpload | with_reducible apply Keeps.modDict | with_reducible apply Keeps.ite | with_reducible apply KeepsO.ite | with_reducible apply KeepsO.next | split | dsimp only | intro _ | with_reducible refine Keeps.lit ?_ rfl rfl rfl rfl

theorem KeepsO.execWrite {s x : State} (h : Keeps s x) (y1 : DictReq) : KeepsO s (execWrite y1 x) := by
  unfold Machine.execWrite
  repeat' first | with_reducible assumption | with_reducible apply Keeps.request | with_reducible apply Keeps.doWrite | with_reducible apply Keeps.ite | with_reducible apply KeepsO.ite | with_reducible apply KeepsO.next | split | dsimp only | intro _

theorem Keeps.doCommit {s x : State} (h : Keeps s x) (y1 : DictReq) (y2 : Asker) : Keeps s (State.doCommit y1 x y2) := by
  unfold State.doCommit
  repeat' first | with_reducible assumption | with_reducible apply Keeps.answerBare | with_reducible apply Keeps.submit | with_reducible apply Keeps.ite

theorem KeepsO.execCommit {s x : State} (h : Keeps s x) (y1 : DictReq) : KeepsO s (execCommit y1 x) := by
  unfold Machine.execCommit
  repeat' first | with_reducible assumption | with_reducible apply Keeps.request | with_reducible apply Keeps.doCommit | with_reducible apply Keeps.ite | with_reducible apply KeepsO.ite | with_reducible apply KeepsO.next | split | dsimp only | intro _

theorem KeepsO.execAbort {s x : State} (h : Keeps s x) (y1 : DictReq) : KeepsO s (execAbort y1 x) := by
  unfold Machine.execAbort
  repeat' first | with_reducible assumption | with_reducible apply Keeps.request | with_reducible apply Keeps.answerBare | with_reducible apply Keeps.modDict | with_reducible apply Keeps.ite | with_reducible apply KeepsO.ite | with_reducible apply KeepsO.next | split | dsimp only | intro _

theorem KeepsO.execSceneStore {s x : State} (h : Keeps s x) (y1 : DictReq) : KeepsO s (execSceneStore y1 x) := by
  unfold Machine.execSceneStore
  repeat' first | with_reducible assumption | with_reducible apply Keeps.request | with_reducible apply Keeps.answerAll | with_reducible apply Keeps.submit | with_reducible apply Keeps.ite | with_reducible apply KeepsO.ite | with_reducible apply KeepsO.next | split | dsimp only | intro _

theorem KeepsO.execSceneStoreDone {s x : State} (h : Keeps s x) (y1 : ℕ) : KeepsO s (Machine.execSceneStoreDone y1 x) := by
  unfold Machine.execSceneStoreDone
  repeat' first | with_reducible assumption | with_reducible apply Keeps.quiet | with_reducible apply Keeps.slotStored | with_reducible apply Keeps.modDict | with_reducible apply Keeps.ite | with_reducible apply Keeps.ite1 | with_reducible apply KeepsO.ite | with_reducible apply KeepsO.next | split | dsimp only | intro _ | with_reducible refine Keeps.lit ?_ rfl rfl rfl rfl

theorem KeepsO.execSceneRecall {s x : State} (h : Keeps s x) (y1 : DictReq) : KeepsO s (execSceneRecall y1 x) := by
  unfold Machine.execSceneRecall
  repeat' first | with_reducible assumption | with_reducible apply Keeps.request | with_reducible apply Keeps.answerAll | with_reducible apply Keeps.submit | with_reducible apply Keeps.ite | with_reducible apply KeepsO.ite | with_reducible apply KeepsO.next | split | dsimp only | intro _

theorem Keeps.slotChecked {s x : State} (h : Keeps s x) (y1 : ℕ) : Keeps s (State.slotChecked x y1) := by
  unfold State.slotChecked
  repeat' first | with_reducible assumption | with_reducible apply Keeps.modDict | with_reducible apply Keeps.slotToDram | with_reducible apply Keeps.ite | with_reducible apply Keeps.ite1 | with_reducible apply KeepsO.ite | with_reducible apply KeepsO.next | split | dsimp only | intro _ | with_reducible refine Keeps.lit ?_ rfl rfl rfl rfl

theorem KeepsO.execSceneCheck {s x : State} (h : Keeps s x) (y1 : DictReq) : KeepsO s (Machine.execSceneCheck y1 x) := by
  unfold Machine.execSceneCheck
  repeat' first | with_reducible assumption | with_reducible apply Keeps.request | with_reducible apply Keeps.answerAll | with_reducible apply Keeps.slotChecked | with_reducible apply Keeps.modDict | with_reducible apply Keeps.ite | with_reducible apply Keeps.ite1 | with_reducible apply KeepsO.ite | with_reducible apply KeepsO.next | split | dsimp only | intro _ | with_reducible refine Keeps.lit ?_ rfl rfl rfl rfl

theorem KeepsO.execSceneCheckDone {s x : State} (h : Keeps s x) (y1 : ℕ) : KeepsO s (Machine.execSceneCheckDone y1 x) := by
  unfold Machine.execSceneCheckDone
  repeat' first | with_reducible assumption | with_reducible apply Keeps.quiet | with_reducible apply Keeps.slotChecked | with_reducible apply Keeps.modDict | with_reducible apply Keeps.ite | with_reducible apply Keeps.ite1 | with_reducible apply KeepsO.ite | with_reducible apply KeepsO.next | split | dsimp only | intro _ | with_reducible refine Keeps.lit ?_ rfl rfl rfl rfl

theorem KeepsO.runOp {s x : State} (h : Keeps s x) (y1 : ℕ) (y2 : DictReq) : KeepsO s (runOp y1 y2 x) := by
  unfold Machine.runOp
  repeat' first | with_reducible assumption | with_reducible apply KeepsO.execRead | with_reducible apply KeepsO.execWrite | with_reducible apply KeepsO.execCommit | with_reducible apply KeepsO.execAbort | with_reducible apply KeepsO.execDescribe | with_reducible apply KeepsO.execSceneStore | with_reducible apply KeepsO.execSceneRecall | with_reducible apply KeepsO.execSceneCheck | with_reducible apply Keeps.request | with_reducible apply Keeps.answerBare | with_reducible apply Keeps.ite | with_reducible apply KeepsO.ite | with_reducible apply KeepsO.next | split | dsimp only | intro _

end Sys2Proof.Machine
end

