-- ==== Sys2Proof/Laws/KeepsTwoWire.lean ====
section
/-! SUPPORT. Each operation of Machine/TwoWire.lean keeps what every command respects. -/

namespace Sys2Proof.Machine

theorem Keeps.modTw0 {s x : State} (h : Keeps s x) (y1 : Tw0 → Tw0) : Keeps s (State.modTw0 x y1) := by
  unfold State.modTw0
  repeat' first | with_reducible assumption | with_reducible apply Keeps.ite | with_reducible apply KeepsO.ite | with_reducible apply KeepsO.next | split | dsimp only | intro _ | with_reducible refine Keeps.lit ?_ rfl rfl rfl rfl

theorem Keeps.tw0Fails {s x : State} (h : Keeps s x)  : Keeps s (State.tw0Fails x) := by
  unfold State.tw0Fails
  repeat' first | with_reducible assumption | with_reducible apply Keeps.raiseT | with_reducible apply Keeps.modTw0 | with_reducible apply Keeps.ite

theorem Keeps.tw0Try {s x : State} (h : Keeps s x) (y1 : Tw0Out) : Keeps s (State.tw0Try x y1) := by
  unfold State.tw0Try
  repeat' first | with_reducible assumption | with_reducible apply Keeps.raiseT | with_reducible apply Keeps.modTw0 | with_reducible apply Keeps.emit | with_reducible apply Keeps.tw0Fails | with_reducible apply Keeps.ite | with_reducible apply KeepsO.ite | with_reducible apply KeepsO.next | split

theorem KeepsO.execTw0Transaction {s x : State} (h : Keeps s x) (y1 : Tw0Out) : KeepsO s (execTw0Transaction y1 x) := by
  unfold Machine.execTw0Transaction
  repeat' first | with_reducible assumption | with_reducible apply Keeps.quiet | with_reducible apply Keeps.tw0Try | with_reducible apply Keeps.modTw0 | with_reducible apply Keeps.ite | with_reducible apply KeepsO.ite | with_reducible apply KeepsO.next

theorem KeepsO.execTw0Retry {s x : State} (h : Keeps s x) (y1 : Tw0Out) : KeepsO s (execTw0Retry y1 x) := by
  unfold Machine.execTw0Retry
  repeat' first | with_reducible assumption | with_reducible apply Keeps.quiet | with_reducible apply Keeps.tw0Try | with_reducible apply Keeps.modTw0 | with_reducible apply Keeps.ite | with_reducible apply KeepsO.ite | with_reducible apply KeepsO.next

theorem KeepsO.execTwTimeout {s x : State} (h : Keeps s x)  : KeepsO s (execTwTimeout x) := by
  unfold Machine.execTwTimeout
  repeat' first | with_reducible assumption | with_reducible apply Keeps.quiet | with_reducible apply Keeps.tw0Fails | with_reducible apply Keeps.raiseT | with_reducible apply Keeps.modTw0 | with_reducible apply Keeps.ite | with_reducible apply KeepsO.ite | with_reducible apply KeepsO.next

theorem KeepsO.execTwBusStuck {s x : State} (h : Keeps s x) (y1 : Bool) : KeepsO s (execTwBusStuck y1 x) := by
  unfold Machine.execTwBusStuck
  repeat' first | with_reducible assumption | with_reducible apply Keeps.quiet | with_reducible apply Keeps.modTw0 | with_reducible apply Keeps.raiseT | with_reducible apply Keeps.ite | with_reducible apply KeepsO.ite | with_reducible apply KeepsO.next

theorem Keeps.tw1Reply {s x : State} (h : Keeps s x) (y1 : ℕ) (y2 : List Byte) (y3 : List Byte) : Keeps s (State.tw1Reply x y1 y2 y3) := by
  unfold State.tw1Reply
  repeat' first | with_reducible assumption | with_reducible apply Keeps.emit

theorem Keeps.tw1Denied {s x : State} (h : Keeps s x) (y1 : ℕ) : Keeps s (State.tw1Denied x y1) := by
  unfold State.tw1Denied
  repeat' first | with_reducible assumption | with_reducible apply Keeps.raiseT | with_reducible apply Keeps.ite

theorem Keeps.tw1Aon {s x : State} (h : Keeps s x) (y1 : ℕ) (y2 : ℕ) : Keeps s (State.tw1Aon x y1 y2).1 := by
  unfold State.tw1Aon
  repeat' first | with_reducible assumption | with_reducible apply Keeps.readEffect | with_reducible apply Keeps.modTw1 | with_reducible apply Keeps.ite | with_reducible apply KeepsO.ite | with_reducible apply KeepsO.next | split | dsimp only | intro _

theorem Keeps.tw1Aon_eq {s x t : State} (h : Keeps s x) {y1 : ℕ} {y2 : ℕ} {n} (e : State.tw1Aon x y1 y2 = (t, n)) : Keeps s t := by
  have k := Keeps.tw1Aon h y1 y2
  rw [e] at k; exact k

theorem Keeps.tw1Read {s x : State} (h : Keeps s x) (a : Nat) : Keeps s (x.tw1Read a).1 := by
  unfold State.tw1Read
  split
  · exact h.tw1Aon _ _
  · refine .ite1 h (.ite1 h ?_)
    dsimp only
    split <;> exact h.readOne _ _ _

theorem KeepsO.execTw1RegRd {s x : State} (h : Keeps s x) (a : Nat) : KeepsO s (execTw1RegRd a x) :=
  .ite (.next h.quiet) (.next (((h.quiet.tw1Read a).tw1Denied _).tw1Reply _ _ _).fresh)

theorem Keeps.tw1Command {s x : State} (h : Keeps s x) (p : Tw1End) (f : State → State × Nat) (hf : ∀ y, Keeps s y → Keeps s (f y).1) :
    Keeps s (x.tw1Command p f) := by
  have k : ∀ y n, Keeps s y → Keeps s (y.modTw1 fun t => { t with lastStatus := n }) := fun y n q => q.modTw1 _ fun _ k => k
  unfold State.tw1Command
  refine .ite h ?_
  split
  · exact h.raiseT _ _ _ _
  · exact (k _ _ h).raiseT _ _ _ _
  · exact (k _ _ (hf _ h)).tw1Denied _

theorem Keeps.tw1Write {s x : State} (h : Keeps s x) (a : Nat) (v : Word) : Keeps s (x.tw1Write a v).1 := by
  unfold State.tw1Write
  split
  · exact h
  · refine .ite1 h (.ite1 h (.ite1 ?_ (h.writeVal _ _ _ _)))
    split
    · exact Keeps.postSlow h ‹_›
    · exact h

theorem KeepsO.execTw1RegWr {s x : State} (h : Keeps s x) (y1 : ℕ) (y2 : Word) (y3 : Tw1End) : KeepsO s (execTw1RegWr y1 y2 y3 x) := by
  unfold Machine.execTw1RegWr
  repeat' first | with_reducible assumption | with_reducible apply Keeps.tw1Command | with_reducible apply Keeps.quiet | with_reducible apply Keeps.tw1Write | with_reducible apply Keeps.ite | with_reducible apply Keeps.ite1 | with_reducible apply KeepsO.ite | with_reducible apply KeepsO.next | split | dsimp only | intro _

theorem KeepsO.execStat {s x : State} (h : Keeps s x)  : KeepsO s (execStat x) := by
  unfold Machine.execStat
  repeat' first | with_reducible assumption | with_reducible apply Keeps.quiet | with_reducible apply Keeps.tw1Reply | with_reducible apply Keeps.ite | with_reducible apply KeepsO.ite | with_reducible apply KeepsO.next

theorem KeepsO.execOpWake {s x : State} (h : Keeps s x) (y1 : Tw1End) (y2 : DawnBoot) : KeepsO s (execOpWake y1 y2 x) := by
  unfold Machine.execOpWake
  repeat' first | with_reducible assumption | with_reducible apply Keeps.tw1Command | with_reducible apply Keeps.quiet | with_reducible apply Keeps.wakeDawn | with_reducible apply Keeps.ite | with_reducible apply Keeps.ite1 | with_reducible apply KeepsO.ite | with_reducible apply KeepsO.next | split | dsimp only | intro _

theorem KeepsO.execOpResume {s x : State} (h : Keeps s x) (y1 : Tw1End) (y2 : DawnResult) : KeepsO s (execOpResume y1 y2 x) := by
  unfold Machine.execOpResume
  repeat' first | with_reducible assumption | with_reducible apply Keeps.tw1Command | with_reducible apply Keeps.quiet | with_reducible apply Keeps.resume | with_reducible apply Keeps.ite | with_reducible apply Keeps.ite1 | with_reducible apply KeepsO.ite | with_reducible apply KeepsO.next | split | dsimp only | intro _

theorem Keeps.tw1BufWr {s x : State} (h : Keeps s x) (o : Nat) (d : List Byte) : Keeps s (x.tw1BufWr o d).1 := by
  have k : Keeps s (x.modTw1 fun t => { t with req := memSetBytes t.req o d }) := h.modTw1 _ fun _ k => wf_memSetBytes _ k _
  exact .ite1 h (.ite1 h (.ite1 h k))

theorem KeepsO.execTw1BufWr {s x : State} (h : Keeps s x) (y1 : ℕ) (y2 : List Byte) (y3 : Tw1End) : KeepsO s (execTw1BufWr y1 y2 y3 x) := by
  unfold Machine.execTw1BufWr
  repeat' first | with_reducible assumption | with_reducible apply Keeps.tw1Command | with_reducible apply Keeps.quiet | with_reducible apply Keeps.tw1BufWr | with_reducible apply Keeps.ite | with_reducible apply Keeps.ite1 | with_reducible apply KeepsO.ite | with_reducible apply KeepsO.next | split | dsimp only | intro _

theorem KeepsO.execTw1DictGo {s x : State} (h : Keeps s x) (y1 : ℕ) (y2 : Tw1End) : KeepsO s (execTw1DictGo y1 y2 x) := by
  unfold Machine.execTw1DictGo
  repeat' first | with_reducible assumption | with_reducible apply Keeps.quiet | with_reducible apply Keeps.tw1Command | with_reducible apply KeepsO.runOp | with_reducible apply Keeps.modTw1 | with_reducible apply Keeps.ite | with_reducible apply Keeps.ite1 | with_reducible apply KeepsO.ite | with_reducible apply KeepsO.next | split | dsimp only | intro _

theorem KeepsO.execTw1BufRd {s x : State} (h : Keeps s x) (y1 : ℕ) (y2 : ℕ) : KeepsO s (execTw1BufRd y1 y2 x) := by
  unfold Machine.execTw1BufRd
  repeat' first | with_reducible assumption | with_reducible apply Keeps.quiet | with_reducible apply Keeps.tw1Reply | with_reducible apply Keeps.tw1Denied | with_reducible apply Keeps.ite | with_reducible apply KeepsO.ite | with_reducible apply KeepsO.next

theorem KeepsO.execTw1Timeout {s x : State} (h : Keeps s x)  : KeepsO s (execTw1Timeout x) := by
  unfold Machine.execTw1Timeout
  repeat' first | with_reducible assumption | with_reducible apply Keeps.quiet | with_reducible apply Keeps.raiseT | with_reducible apply Keeps.ite | with_reducible apply KeepsO.ite | with_reducible apply KeepsO.next

theorem KeepsO.execAttn {s x : State} (h : Keeps s x)  : KeepsO s (execAttn x) := by
  unfold Machine.execAttn
  repeat' first | with_reducible assumption | with_reducible apply Keeps.quiet | with_reducible apply Keeps.emit | with_reducible apply Keeps.modTw1 | with_reducible apply Keeps.ite | with_reducible apply KeepsO.ite | with_reducible apply KeepsO.next | split | dsimp only | intro _

theorem KeepsO.execTw1TimingSwitch {s x : State} (h : Keeps s x)  : KeepsO s (execTw1TimingSwitch x) := by
  unfold Machine.execTw1TimingSwitch
  repeat' first | with_reducible assumption | with_reducible apply Keeps.quiet | with_reducible apply Keeps.modTw1 | with_reducible apply Keeps.ite | with_reducible apply KeepsO.ite | with_reducible apply KeepsO.next | split | dsimp only | intro _

end Sys2Proof.Machine
end

