-- ==== Sys2Proof/Laws/KeepsHostPort.lean ====
section
/-! SUPPORT. Each operation of Machine/HostPort.lean keeps what every command respects. -/

namespace Sys2Proof.Machine

theorem Keeps.hpFrameErr {s x : State} (h : Keeps s x)  : Keeps s (State.hpFrameErr x) := by
  unfold State.hpFrameErr
  repeat' first | with_reducible assumption | with_reducible apply Keeps.raiseT | with_reducible apply Keeps.modHostp

theorem Keeps.hpEvent {s x : State} (h : Keeps s x) (y1 : ℕ) : Keeps s (State.hpEvent x y1) := by
  unfold State.hpEvent
  repeat' first | with_reducible assumption | with_reducible apply Keeps.raiseT | with_reducible apply Keeps.hpFrameErr | with_reducible apply Keeps.ite

theorem Keeps.hpRun {s x : State} (h : Keeps s x) (f : HpFrame) (g : State → State × Nat × List Byte) (hg : ∀ y, Keeps s y → Keeps s (g y).1) :
    Keeps s (x.hpRun f g) := by
  unfold State.hpRun
  refine .ite h (.ite h.hpFrameErr ?_)
  have k : Keeps s (if f.crcOk then g x
      else ((x.modHostp fun h => { h with crcErr := stopAt 0xFF h.crcErr 1 }).raiseT blkHostp 0x10 .c, 1, [])).1 :=
    .ite1 (hg _ h) ((h.modHostp _).raiseT _ _ _ _)
  exact .ite ((k.hpEvent _).emit _) (k.hpEvent _)

theorem Keeps.hpBurst {s x : State} (h : Keeps s x) (y1 : BurstReq) : Keeps s (State.hpBurst x y1).1 := by
  unfold State.hpBurst
  repeat' first | with_reducible assumption | with_reducible apply Keeps.errBeats | with_reducible apply Keeps.foldS | with_reducible apply Keeps.beat | with_reducible apply Keeps.ite | with_reducible apply KeepsO.ite | with_reducible apply KeepsO.next | split | dsimp only | intro _ | with_reducible refine Keeps.lit ?_ rfl rfl rfl rfl

theorem Keeps.hpBurst_eq {s x t : State} (h : Keeps s x) {y1 : BurstReq} {n} (e : State.hpBurst x y1 = (t, n)) : Keeps s t := by
  have k := Keeps.hpBurst h y1
  rw [e] at k; exact k

theorem KeepsO.execHostpRegRd {s x : State} (h : Keeps s x) (a n : Nat) (f : HpFrame) : KeepsO s (execHostpRegRd a n f x) :=
  .next (h.quiet.hpRun _ _ fun _ k => .ite1 k (.ite1 k (k.hpBurst _)))

theorem KeepsO.execHostpRegWr {s x : State} (h : Keeps s x) (a : Nat) (d : List Word) (f : HpFrame) : KeepsO s (execHostpRegWr a d f x) :=
  .next (h.quiet.hpRun _ _ fun _ k => .ite1 k (.ite1 k (k.hpBurst _)))

theorem KeepsO.execStatus {s x : State} (h : Keeps s x) (f : HpFrame) : KeepsO s (execStatus f x) :=
  .next (h.quiet.hpRun _ _ fun _ k => k)

theorem KeepsO.execHostpBufWr {s x : State} (h : Keeps s x) (o : Nat) (d : List Byte) (f : HpFrame) : KeepsO s (execHostpBufWr o d f x) := by
  refine .next (h.quiet.hpRun _ _ fun y k => ?_)
  have q : Keeps s (y.modFab fun x => { x with ctrlSram := memSetBytes x.ctrlSram (0x1FC000 + o) d }) :=
    k.modFab _ (fun _ q => wf_memSetBytes _ q _) fun _ q => q
  exact .ite1 k (.ite1 k q)

theorem KeepsO.execHostpBufRd {s x : State} (h : Keeps s x) (o n : Nat) (f : HpFrame) : KeepsO s (execHostpBufRd o n f x) :=
  .next (h.quiet.hpRun _ _ fun _ k => .ite1 k k)

theorem KeepsO.execHostpDictGo {s x : State} (h : Keeps s x) (n : Nat) (f : HpFrame) : KeepsO s (execHostpDictGo n f x) := by
  unfold Machine.execHostpDictGo
  have k := h.quiet.hpRun f (fun s => (s, s.hpGoCode n, [])) fun _ k => k
  refine .ite (.next k) ?_
  dsimp only
  obtain ⟨u, he, hu⟩ := KeepsO.runOp (k.modHostp fun h => { h with dstate := 1 }) (parseReq .hostp (memBytes (x.quiet.hpRun f fun s => (s, s.hpGoCode n, [])).fab.ctrlSram 0x1FC000 n)).1
    (parseReq .hostp (memBytes (x.quiet.hpRun f fun s => (s, s.hpGoCode n, [])).fab.ctrlSram 0x1FC000 n)).2
  refine ⟨{ u with sent := (x.quiet.hpRun f fun s => (s, s.hpGoCode n, [])).sent ++ u.sent }, ?_, hu.same rfl rfl rfl rfl rfl rfl rfl⟩
  rw [he]; rfl

end Sys2Proof.Machine
end

