-- ==== Sys2Proof/Laws/KeepsTags.lean ====
section
/-! SUPPORT. Each operation of Machine/Tags.lean keeps what every command respects. -/

namespace Sys2Proof.Machine

theorem Keeps.queueTag {s x : State} (h : Keeps s x) (y1 : TagSrc) (y2 : Tag) (y3 : CUnit) : Keeps s (State.queueTag y1 y2 x y3) := by
  unfold State.queueTag
  repeat' first | with_reducible assumption | with_reducible apply Keeps.count | with_reducible apply Keeps.raiseT | with_reducible apply Keeps.modDict | with_reducible apply Keeps.ite

theorem Keeps.tagReject {s x : State} (h : Keeps s x) (y1 : ℕ) : Keeps s (State.tagReject x y1) := by
  unfold State.tagReject
  repeat' first | with_reducible assumption | with_reducible apply Keeps.modDict

theorem Keeps.tagParam {s x : State} (h : Keeps s x) (y1 : TagSrc) (y2 : Asker) (y3 : Tag) : Keeps s (State.tagParam y1 y2 y3 x) := by
  unfold State.tagParam
  repeat' first | with_reducible assumption | with_reducible apply Keeps.tagReject | with_reducible apply Keeps.queueTag | with_reducible apply Keeps.count | with_reducible apply Keeps.modDict | with_reducible apply Keeps.ite | with_reducible apply Keeps.ite1 | with_reducible apply KeepsO.ite | with_reducible apply KeepsO.next | split | dsimp only | intro _ | with_reducible refine Keeps.lit ?_ rfl rfl rfl rfl

theorem Keeps.tagCommit {s x : State} (h : Keeps s x) (y1 : TagSrc) (y2 : Asker) (y3 : Tag) : Keeps s (State.tagCommit y1 y2 y3 x) := by
  unfold State.tagCommit
  repeat' first | with_reducible assumption | with_reducible apply Keeps.tagReject | with_reducible apply Keeps.queueTag | with_reducible apply Keeps.ite

theorem Keeps.tagRecall {s x : State} (h : Keeps s x) (y1 : TagSrc) (y2 : Asker) (y3 : Tag) : Keeps s (State.tagRecall y1 y2 y3 x) := by
  unfold State.tagRecall
  repeat' first | with_reducible assumption | with_reducible apply Keeps.tagReject | with_reducible apply Keeps.queueTag | with_reducible apply Keeps.ite

theorem Keeps.tagMark {s x : State} (h : Keeps s x) (y1 : TagSrc) (y2 : Tag) : Keeps s (State.tagMark y1 y2 x) := by
  unfold State.tagMark
  repeat' first | with_reducible assumption | with_reducible apply Keeps.tagReject | with_reducible apply Keeps.queueTag | with_reducible apply Keeps.ite

theorem Keeps.tagSilence {s x : State} (h : Keeps s x) (y1 : TagSrc) (y2 : ℕ) (y3 : Tag) : Keeps s (State.tagSilence y1 y2 y3 x) := by
  unfold State.tagSilence
  repeat' first | with_reducible assumption | with_reducible apply Keeps.setCtx | with_reducible apply Keeps.ite

theorem Keeps.takeTag {s x : State} (h : Keeps s x) (y1 : TagSrc) (y2 : ℕ) (y3 : Tag) : Keeps s (State.takeTag y1 y2 x y3) := by
  unfold State.takeTag
  repeat' first | with_reducible assumption | with_reducible apply Keeps.count | with_reducible apply Keeps.tagParam | with_reducible apply Keeps.tagCommit | with_reducible apply Keeps.tagRecall | with_reducible apply Keeps.tagSilence | with_reducible apply Keeps.tagMark | with_reducible apply Keeps.ite

theorem Keeps.takeTags {s x : State} (h : Keeps s x) (y1 : TagSrc) (y2 : Kapo) (y3 : List Byte) : Keeps s (State.takeTags y1 y2 y3 x) := by
  unfold State.takeTags
  repeat' first | with_reducible assumption | with_reducible apply Keeps.foldS | with_reducible apply Keeps.takeTag | with_reducible apply Keeps.count | with_reducible apply Keeps.ite | with_reducible apply KeepsO.ite | with_reducible apply KeepsO.next | split | dsimp only | intro _

end Sys2Proof.Machine
end

