-- ==== Sys2Proof/Laws/KeepsKapoIn.lean ====
section
/-! SUPPORT. Each operation of Machine/KapoIn.lean keeps what every command respects. -/

namespace Sys2Proof.Machine

theorem Keeps.cutCopy {s x : State} (h : Keeps s x) (y1 : ℕ) (y2 : KapoRx) (y3 : Bool) (y4 : ℕ) : Keeps s (State.cutCopy y1 y2 y3 x y4) := by
  unfold State.cutCopy
  repeat' first | with_reducible assumption | with_reducible apply Keeps.sendMedia | with_reducible apply Keeps.plSend | with_reducible apply Keeps.count | with_reducible apply Keeps.ite | with_reducible apply KeepsO.ite | with_reducible apply KeepsO.next | split

theorem Keeps.cutCopies {s x : State} (h : Keeps s x) (y1 : ℕ) (y2 : ℕ) (y3 : KapoRx) (y4 : Bool) : Keeps s (State.cutCopies x y1 y2 y3 y4) := by
  unfold State.cutCopies
  repeat' first | with_reducible assumption | with_reducible apply Keeps.foldS | with_reducible apply Keeps.cutCopy | with_reducible apply Keeps.ite | with_reducible apply KeepsO.ite | with_reducible apply KeepsO.next | split | dsimp only | intro _

theorem Keeps.authUse {s x : State} (h : Keeps s x) (y1 : Kapo) (y2 : ℕ) : Keeps s (State.authUse x y1 y2) := by
  unfold State.authUse
  repeat' first | with_reducible assumption | with_reducible apply Keeps.setKey | with_reducible apply Keeps.ite

theorem Keeps.noteSeq {s x : State} (h : Keeps s x) (y1 : ℕ) (y2 : Kapo) : Keeps s (State.noteSeq x y1 y2) := by
  unfold State.noteSeq
  repeat' first | with_reducible assumption | with_reducible apply Keeps.count | with_reducible apply Keeps.setCtx | with_reducible apply Keeps.ite

theorem Keeps.noteTstart {s x : State} (h : Keeps s x) (y1 : ℕ) (y2 : Kapo) (y3 : ℕ) : Keeps s (State.noteTstart x y1 y2 y3) := by
  unfold State.noteTstart
  repeat' first | with_reducible assumption | with_reducible apply Keeps.count | with_reducible apply Keeps.ite

theorem Keeps.noteCopy {s x : State} (h : Keeps s x) (y1 : ℕ) (y2 : CopySeen) : Keeps s (State.noteCopy x y1 y2) := by
  unfold State.noteCopy
  repeat' first | with_reducible assumption | with_reducible apply Keeps.setCtx | with_reducible apply Keeps.ite

theorem Keeps.noteSkew {s x : State} (h : Keeps s x) (y1 : ℕ) (y2 : ℕ) (y3 : ℕ) : Keeps s (State.noteSkew x y1 y2 y3) := by
  unfold State.noteSkew
  repeat' first | with_reducible assumption | with_reducible apply Keeps.count | with_reducible apply Keeps.ite

theorem Keeps.takeMedia {s x : State} (h : Keeps s x) (y1 : ℕ) (y2 : ℕ) (y3 : Kapo) (y4 : KapoRx) (y5 : Bool) : Keeps s (State.takeMedia x y1 y2 y3 y4 y5) := by
  unfold State.takeMedia
  repeat' first | with_reducible assumption | with_reducible apply Keeps.takeTags | with_reducible apply Keeps.setCtx | with_reducible apply Keeps.count | with_reducible apply Keeps.withdrawTags | with_reducible apply Keeps.acceptFrame | with_reducible refine Keeps.acceptFrame_eq ?_ (by assumption) | with_reducible apply Keeps.ite | with_reducible apply Keeps.ite1 | with_reducible apply KeepsO.ite | with_reducible apply KeepsO.next | split | dsimp only | intro _ | with_reducible refine Keeps.lit ?_ rfl rfl rfl rfl

theorem Keeps.missWindow {s x : State} (h : Keeps s x) (y1 : ℕ) (y2 : ℕ) (y3 : ℕ) : Keeps s (State.missWindow x y1 y2 y3) := by
  unfold State.missWindow
  repeat' first | with_reducible assumption | with_reducible apply Keeps.count | with_reducible apply Keeps.setCtx

theorem Keeps.mediaFrame {s x : State} (h : Keeps s x) (y1 : ℕ) (y2 : Kapo) (y3 : KapoRx) (y4 : ℤ) : Keeps s (State.mediaFrame x y1 y2 y3 y4) := by
  unfold State.mediaFrame
  repeat' first | with_reducible assumption | with_reducible apply Keeps.noteSkew | with_reducible apply Keeps.noteCopy | with_reducible apply Keeps.count | with_reducible apply Keeps.missWindow | with_reducible apply Keeps.takeMedia | with_reducible apply Keeps.ite | with_reducible apply KeepsO.ite | with_reducible apply KeepsO.next | split | dsimp only

theorem Keeps.controlFrame {s x : State} (h : Keeps s x) (y1 : ℕ) (y2 : Kapo) (y3 : KapoRx) (y4 : ℤ) : Keeps s (State.controlFrame x y1 y2 y3 y4) := by
  unfold State.controlFrame
  repeat' first | with_reducible assumption | with_reducible apply Keeps.count | with_reducible apply Keeps.setCtx | with_reducible apply Keeps.takeTags | with_reducible apply Keeps.ite

theorem Keeps.holdDirect {s x : State} (h : Keeps s x) (y1 : ℕ) (y2 : ℕ) (y3 : Kapo) (y4 : KapoRx) : Keeps s (State.holdDirect x y1 y2 y3 y4) := by
  unfold State.holdDirect
  repeat' first | with_reducible assumption | with_reducible apply Keeps.fitChannels | with_reducible apply Keeps.modCsw | with_reducible apply Keeps.count | with_reducible apply Keeps.takeTags | with_reducible apply Keeps.withdrawTags | with_reducible apply Keeps.ite | with_reducible apply Keeps.ite1 | with_reducible apply KeepsO.ite | with_reducible apply KeepsO.next | split

theorem Keeps.directFrame {s x : State} (h : Keeps s x) (y1 : ℕ) (y2 : Kapo) (y3 : KapoRx) (y4 : ℤ) : Keeps s (State.directFrame x y1 y2 y3 y4) := by
  unfold State.directFrame
  repeat' first | with_reducible assumption | with_reducible apply Keeps.noteSkew | with_reducible apply Keeps.noteCopy | with_reducible apply Keeps.count | with_reducible apply Keeps.holdDirect | with_reducible apply Keeps.ite | with_reducible apply KeepsO.ite | with_reducible apply KeepsO.next | split | dsimp only

theorem Keeps.ctxFrame {s x : State} (h : Keeps s x) (y1 : ℕ) (y2 : Kapo) (y3 : KapoRx) : Keeps s (State.ctxFrame x y1 y2 y3) := by
  unfold State.ctxFrame
  repeat' first | with_reducible assumption | with_reducible apply Keeps.cutCopies | with_reducible apply Keeps.noteCopy | with_reducible apply Keeps.count | with_reducible apply Keeps.noteTstart | with_reducible apply Keeps.noteSeq | with_reducible apply Keeps.authUse | with_reducible apply Keeps.controlFrame | with_reducible apply Keeps.directFrame | with_reducible apply Keeps.mediaFrame | with_reducible apply Keeps.ite

theorem Keeps.takeRecord {s x : State} (h : Keeps s x) (y1 : ℕ) (y2 : ℕ) (y3 : ℕ) (y4 : List Byte) : Keeps s (State.takeRecord x y1 y2 y3 y4) := by
  unfold State.takeRecord
  repeat' first | with_reducible assumption | with_reducible apply Keeps.onVerdict | with_reducible apply Keeps.onMiss | with_reducible apply Keeps.onRepair | with_reducible apply Keeps.onTdm | with_reducible apply Keeps.onBeacon | with_reducible apply Keeps.onStatus | with_reducible apply Keeps.take | with_reducible apply Keeps.onFence | with_reducible apply Keeps.onLynx | with_reducible apply Keeps.ite | with_reducible apply Keeps.ite1 | with_reducible apply KeepsO.ite | with_reducible apply KeepsO.next | split | dsimp only | intro _ | with_reducible refine Keeps.lit ?_ rfl rfl rfl rfl

theorem Keeps.mirrorFrame {s x : State} (h : Keeps s x) (y1 : KapoRx) (y2 : Kapo) : Keeps s (State.mirrorFrame x y1 y2) := by
  unfold State.mirrorFrame
  repeat' first | with_reducible assumption | with_reducible apply Keeps.take | with_reducible apply Keeps.heardMirror | with_reducible apply Keeps.modPair | with_reducible apply Keeps.takeRecord | with_reducible apply Keeps.ite | with_reducible apply Keeps.ite1 | with_reducible apply KeepsO.ite | with_reducible apply KeepsO.next | split | dsimp only | intro _ | with_reducible refine Keeps.lit ?_ rfl rfl rfl rfl

theorem Keeps.kapoFrame {s x : State} (h : Keeps s x) (y1 : KapoRx) : Keeps s (State.kapoFrame x y1) := by
  unfold State.kapoFrame
  repeat' first | with_reducible assumption | with_reducible apply Keeps.cutCopies | with_reducible apply Keeps.countPort | with_reducible apply Keeps.noteCopy | with_reducible apply Keeps.mirrorFrame | with_reducible apply Keeps.ctxFrame | with_reducible apply Keeps.ite | with_reducible apply Keeps.ite1 | with_reducible apply KeepsO.ite | with_reducible apply KeepsO.next | split | dsimp only | intro _ | with_reducible refine Keeps.lit ?_ rfl rfl rfl rfl

end Sys2Proof.Machine
end

