-- ==== Sys2Proof/Laws/KeepsReceive.lean ====
section
/-! SUPPORT. Each operation of Machine/Receive.lean keeps what every command respects. -/

namespace Sys2Proof.Machine

theorem Keeps.sendPfc {s x : State} (h : Keeps s x) (y1 : ℕ) (y2 : Bool) (y3 : ℕ) : Keeps s (State.sendPfc x y1 y2 y3) := by
  unfold State.sendPfc
  repeat' first | with_reducible assumption | with_reducible apply Keeps.sendMedia | with_reducible apply Keeps.countPort | with_reducible apply Keeps.ite | with_reducible apply Keeps.ite1 | with_reducible apply KeepsO.ite | with_reducible apply KeepsO.next | split | dsimp only | intro _ | with_reducible refine Keeps.lit ?_ rfl rfl rfl rfl

theorem Keeps.pfcOn {s x : State} (h : Keeps s x) (p : ℕ) (f : State → State) (k : ∀ y, Keeps s y → Keeps s (f y)) : Keeps s (State.pfcOn x p f) :=
  .ite (k _ h) h

theorem Keeps.buffer {s x : State} (h : Keeps s x) (y1 : ℕ) (y2 : Bool) (y3 : ℕ) : Keeps s (State.buffer x y1 y2 y3) := by
  unfold State.buffer
  repeat' first | with_reducible assumption | with_reducible apply Keeps.setPort | with_reducible apply Keeps.sendPfc | with_reducible apply Keeps.ite

theorem KeepsO.execPfcXon {s x : State} (h : Keeps s x) (y1 : ℕ) (y2 : Bool) (y3 : ℕ) : KeepsO s (Machine.execPfcXon y1 y2 y3 x) := by
  unfold Machine.execPfcXon
  repeat' first | with_reducible assumption | with_reducible apply Keeps.quiet | with_reducible apply Keeps.setPort | with_reducible apply Keeps.pfcOn | with_reducible apply Keeps.sendPfc | with_reducible apply Keeps.ite | with_reducible apply Keeps.ite1 | with_reducible apply KeepsO.ite | with_reducible apply KeepsO.next | split | dsimp only | intro _ | with_reducible refine Keeps.lit ?_ rfl rfl rfl rfl

theorem KeepsO.execPfcRefresh {s x : State} (h : Keeps s x) (y1 : ℕ) (y2 : Bool) : KeepsO s (Machine.execPfcRefresh y1 y2 x) := by
  unfold Machine.execPfcRefresh
  repeat' first | with_reducible assumption | with_reducible apply Keeps.quiet | with_reducible apply Keeps.pfcOn | with_reducible apply Keeps.sendPfc | with_reducible apply Keeps.ite | with_reducible apply Keeps.ite1 | with_reducible apply KeepsO.ite | with_reducible apply KeepsO.next | split | dsimp only | intro _ | with_reducible refine Keeps.lit ?_ rfl rfl rfl rfl

theorem Keeps.takePfc {s x : State} (h : Keeps s x) (y1 : ℕ) (y2 : ℕ) (y3 : List (ℕ × ℕ)) : Keeps s (State.takePfc x y1 y2 y3) := by
  unfold State.takePfc
  repeat' first | with_reducible assumption | with_reducible apply Keeps.countPort | with_reducible refine Keeps.foldS ?_ _ (fun _ _ _ => ?_) _ | with_reducible apply Keeps.unpause | with_reducible apply Keeps.setPort | with_reducible apply Keeps.ite | with_reducible apply Keeps.ite1 | with_reducible apply KeepsO.ite | with_reducible apply KeepsO.next | split | dsimp only | intro _ | with_reducible refine Keeps.lit ?_ rfl rfl rfl rfl

theorem KeepsO.execPfcStorm {s x : State} (h : Keeps s x) (y1 : ℕ) (y2 : Bool) : KeepsO s (Machine.execPfcStorm y1 y2 x) := by
  unfold Machine.execPfcStorm
  repeat' first | with_reducible assumption | with_reducible apply Keeps.quiet | with_reducible apply Keeps.counterNow | with_reducible refine Keeps.counterNow_eq ?_ (by assumption) | with_reducible apply Keeps.unpause | with_reducible apply Keeps.setPort | with_reducible apply Keeps.raiseAs | with_reducible apply Keeps.ite | with_reducible apply Keeps.ite1 | with_reducible apply KeepsO.ite | with_reducible apply KeepsO.next | split | dsimp only | intro _ | with_reducible refine Keeps.lit ?_ rfl rfl rfl rfl

theorem KeepsO.execPfcPauseExpiry {s x : State} (h : Keeps s x) (y1 : ℕ) (y2 : Bool) : KeepsO s (Machine.execPfcPauseExpiry y1 y2 x) := by
  unfold Machine.execPfcPauseExpiry
  repeat' first | with_reducible assumption | with_reducible apply Keeps.quiet | with_reducible apply Keeps.unpause | with_reducible apply Keeps.ite | with_reducible apply Keeps.ite1 | with_reducible apply KeepsO.ite | with_reducible apply KeepsO.next | split | dsimp only | intro _ | with_reducible refine Keeps.lit ?_ rfl rfl rfl rfl

theorem Keeps.rtpGather {s x : State} (h : Keeps s x) (y1 : ℕ) (y2 : ℕ) : Keeps s (State.rtpGather x y1 y2) := by
  unfold State.rtpGather
  repeat' first | with_reducible assumption | with_reducible apply Keeps.gatherPut | with_reducible apply Keeps.ite | with_reducible apply KeepsO.ite | with_reducible apply KeepsO.next | split

theorem Keeps.placeRtp {s x : State} (h : Keeps s x) (y1 : ℕ) (y2 : ℕ) (y3 : RtpPacket) : Keeps s (State.placeRtp x y1 y2 y3) := by
  unfold State.placeRtp
  repeat' first | with_reducible assumption | with_reducible apply Keeps.setCtx | with_reducible apply Keeps.count | with_reducible refine Keeps.foldl ?_ _ (fun _ _ _ => ?_) _ | with_reducible apply Cluster.Ok.foldl | with_reducible refine Keeps.foldS ?_ _ (fun _ _ _ => ?_) _ | with_reducible apply Keeps.rtpGather | with_reducible apply Keeps.ite

theorem Keeps.rtpPacket {s x : State} (h : Keeps s x) (y1 : ℕ) (y2 : ℕ) (y3 : RtpPacket) : Keeps s (State.rtpPacket x y1 y2 y3) := by
  unfold State.rtpPacket
  repeat' first | with_reducible assumption | with_reducible apply Keeps.countPort | with_reducible apply Keeps.count | with_reducible refine Keeps.foldS ?_ _ (fun _ _ _ => ?_) _ | with_reducible apply Keeps.noteCopy | with_reducible apply Keeps.noteSkew | with_reducible apply Keeps.setCtx | with_reducible apply Keeps.placeRtp | with_reducible apply Keeps.ite | with_reducible apply Keeps.ite1 | with_reducible apply KeepsO.ite | with_reducible apply KeepsO.next | split

theorem Keeps.ptpMessage {s x : State} (h : Keeps s x) (y1 : ℕ) (y2 : ℕ) (y3 : PtpMsg) : Keeps s (State.ptpMessage x y1 y2 y3) := by
  unfold State.ptpMessage
  repeat' first | with_reducible assumption | with_reducible apply Keeps.modRef | with_reducible apply Keeps.elapse | with_reducible apply Keeps.stepCounter | with_reducible apply Keeps.sendPtp | with_reducible apply Keeps.sendStamped | with_reducible apply Keeps.countPort | with_reducible apply Keeps.ite | with_reducible apply Keeps.ite1 | with_reducible apply KeepsO.ite | with_reducible apply KeepsO.next | split | dsimp only | intro _ | with_reducible refine Keeps.lit ?_ rfl rfl rfl rfl

theorem Keeps.noteSecTag {s x : State} (h : Keeps s x) (y1 : MediaFrame) : Keeps s (State.noteSecTag x y1) := by
  unfold State.noteSecTag
  repeat' first | with_reducible assumption | with_reducible apply Keeps.setPortKey | with_reducible apply Keeps.ite | with_reducible apply Keeps.ite1 | with_reducible apply KeepsO.ite | with_reducible apply KeepsO.next | split

theorem Keeps.rxDrop {s x : State} (h : Keeps s x) (y1 : MediaFrame) (y2 : ℕ) : Keeps s (State.rxDrop x y1 y2) := by
  unfold State.rxDrop
  repeat' first | with_reducible assumption | with_reducible apply Keeps.countPort | with_reducible apply Keeps.raiseAs | with_reducible apply Keeps.kapoFrame | with_reducible apply Keeps.ite | with_reducible apply KeepsO.ite | with_reducible apply KeepsO.next | split

theorem Keeps.rxHandle {s x : State} (h : Keeps s x) (y1 : MediaFrame) : Keeps s (State.rxHandle x y1) := by
  unfold State.rxHandle
  repeat' first | with_reducible assumption | with_reducible apply Keeps.kapoFrame | with_reducible apply Keeps.countPort | with_reducible apply Keeps.rtpPacket | with_reducible apply Keeps.ptpMessage | with_reducible apply Keeps.takePfc | with_reducible apply Keeps.owlMessage | with_reducible apply Keeps.sendClass | with_reducible apply Keeps.answer | with_reducible apply Keeps.ite | with_reducible apply Keeps.ite1 | with_reducible apply KeepsO.ite | with_reducible apply KeepsO.next | split | dsimp only | intro _ | with_reducible refine Keeps.lit ?_ rfl rfl rfl rfl

theorem KeepsO.execMediaFrameRx {s x : State} (h : Keeps s x) (y1 : MediaFrame) : KeepsO s (Machine.execMediaFrameRx y1 x) := by
  unfold Machine.execMediaFrameRx
  repeat' first | with_reducible assumption | with_reducible apply Keeps.quiet | with_reducible apply Keeps.countPort | with_reducible apply Keeps.rxDrop | with_reducible apply Keeps.buffer | with_reducible apply Keeps.noteSecTag | with_reducible apply Keeps.countRx | with_reducible apply Keeps.rxHandle | with_reducible apply Keeps.ite | with_reducible apply Keeps.ite1 | with_reducible apply KeepsO.ite | with_reducible apply KeepsO.next | split

end Sys2Proof.Machine
end

