-- ==== Sys2Proof/Laws/KeepsLinks.lean ====
section
/-! SUPPORT. Each operation of Machine/Links.lean keeps what every command respects. -/

namespace Sys2Proof.Machine

theorem Keeps.giveCredit {s x : State} (h : Keeps s x) (y1 : ℕ) (y2 : ℕ) (y3 : ℕ) : Keeps s (State.giveCredit x y1 y2 y3) := by
  unfold State.giveCredit
  repeat' first | with_reducible assumption | with_reducible apply Keeps.emit

theorem Keeps.startGroup {s x : State} (h : Keeps s x) (y1 : ℕ) : Keeps s (State.startGroup x y1) := by
  unfold State.startGroup
  repeat' first | with_reducible assumption | with_reducible apply Keeps.setGroup | with_reducible apply Keeps.foldS | with_reducible apply Keeps.giveCredit | with_reducible apply Keeps.ite | with_reducible apply KeepsO.ite | with_reducible apply KeepsO.next | split | dsimp only | intro _

theorem Keeps.sendNak {s x : State} (h : Keeps s x) (y1 : ℕ) : Keeps s (State.sendNak x y1) := by
  unfold State.sendNak
  repeat' first | with_reducible assumption | with_reducible apply Keeps.countPort | with_reducible apply Keeps.emit | with_reducible apply Keeps.setGroup

theorem Keeps.discardPl {s x : State} (h : Keeps s x) (y1 : ℕ) (y2 : List Byte) : Keeps s (State.discardPl x y1 y2) := by
  unfold State.discardPl
  repeat' first | with_reducible assumption | with_reducible apply Keeps.giveCredit | with_reducible apply Keeps.sendNak | with_reducible apply Keeps.ite

theorem KeepsO.execPeerLinkFrameRx {s x : State} (h : Keeps s x) (y1 : PeerFrame) : KeepsO s (execPeerLinkFrameRx y1 x) := by
  unfold Machine.execPeerLinkFrameRx
  repeat' first | with_reducible assumption | with_reducible apply Keeps.quiet | with_reducible apply Keeps.discardPl | with_reducible apply Keeps.countPort | with_reducible apply Keeps.kapoFrame | with_reducible apply Keeps.setGroup | with_reducible apply Keeps.giveCredit | with_reducible apply Keeps.countRx | with_reducible apply Keeps.ite | with_reducible apply KeepsO.ite | with_reducible apply KeepsO.next

theorem KeepsO.execCredit {s x : State} (h : Keeps s x) (y1 : ℕ) (y2 : ℕ) (y3 : ℕ) (y4 : ℕ) : KeepsO s (execCredit y1 y2 y3 y4 x) := by
  unfold Machine.execCredit
  repeat' first | with_reducible assumption | with_reducible apply Keeps.quiet | with_reducible apply Keeps.setGroup | with_reducible apply Keeps.plServe | with_reducible apply Keeps.ite | with_reducible apply KeepsO.ite | with_reducible apply KeepsO.next

theorem KeepsO.execNak {s x : State} (h : Keeps s x) (y1 : ℕ) (y2 : ℕ) : KeepsO s (execNak y1 y2 x) := by
  unfold Machine.execNak
  repeat' first | with_reducible assumption | with_reducible apply Keeps.quiet | with_reducible apply Keeps.countPort | with_reducible apply Keeps.setGroup | with_reducible apply Keeps.plServe | with_reducible apply Keeps.ite | with_reducible apply KeepsO.ite | with_reducible apply KeepsO.next

theorem KeepsO.execLanectlDrain {s x : State} (h : Keeps s x) (y1 : ℕ) : KeepsO s (execLanectlDrain y1 x) := by
  unfold Machine.execLanectlDrain
  repeat' first | with_reducible assumption | with_reducible apply Keeps.quiet | with_reducible apply Keeps.drainGroup | with_reducible apply Keeps.ite | with_reducible apply KeepsO.ite | with_reducible apply KeepsO.next

theorem KeepsO.execGroupDrain {s x : State} (h : Keeps s x) (y1 : ℕ) : KeepsO s (execGroupDrain y1 x) := by
  unfold Machine.execGroupDrain
  repeat' first | with_reducible assumption | with_reducible apply Keeps.quiet | with_reducible apply Keeps.drainGroup | with_reducible apply Keeps.ite | with_reducible apply KeepsO.ite | with_reducible apply KeepsO.next

theorem Keeps.joinLanes {s x : State} (h : Keeps s x) (y1 : ℕ) (y2 : ℕ) : Keeps s (State.joinLanes x y1 y2) := by
  unfold State.joinLanes
  repeat' first | with_reducible assumption | with_reducible apply Keeps.setGroup | with_reducible apply Keeps.settleGroup | with_reducible apply Keeps.foldS | with_reducible apply Keeps.setPort | with_reducible apply Keeps.ite | with_reducible apply KeepsO.ite | with_reducible apply KeepsO.next | split | dsimp only | intro _

theorem KeepsO.execAlign {s x : State} (h : Keeps s x) (y1 : ℕ) (y2 : ℕ) (y3 : ℕ) (y4 : Bool) : KeepsO s (execAlign y1 y2 y3 y4 x) := by
  unfold Machine.execAlign
  repeat' first | with_reducible assumption | with_reducible apply Keeps.quiet | with_reducible apply Keeps.foldS | with_reducible apply Keeps.countPort | with_reducible apply Keeps.setGroup | with_reducible apply Keeps.joinLanes | with_reducible apply Keeps.ite | with_reducible apply KeepsO.ite | with_reducible apply KeepsO.next | split | dsimp only | intro _

theorem Keeps.ackLanes {s x : State} (h : Keeps s x) (y1 : ℕ) (y2 : ℕ) (y3 : ℕ) : Keeps s (State.ackLanes x y1 y2 y3) := by
  unfold State.ackLanes
  repeat' first | with_reducible assumption | with_reducible apply Keeps.emit

theorem KeepsO.execLanectlRemove {s x : State} (h : Keeps s x) (y1 : ℕ) (y2 : ℕ) : KeepsO s (execLanectlRemove y1 y2 x) := by
  unfold Machine.execLanectlRemove
  repeat' first | with_reducible assumption | with_reducible apply Keeps.quiet | with_reducible apply Keeps.setGroup | with_reducible apply Keeps.foldS | with_reducible apply Keeps.countPort | with_reducible apply Keeps.setPort | with_reducible apply Keeps.settleGroup | with_reducible apply Keeps.ackLanes | with_reducible apply Keeps.ite | with_reducible apply KeepsO.ite | with_reducible apply KeepsO.next | split | dsimp only | intro _

theorem KeepsO.execLanectlAdd {s x : State} (h : Keeps s x) (y1 : ℕ) (y2 : ℕ) (y3 : ℕ) : KeepsO s (execLanectlAdd y1 y2 y3 x) := by
  unfold Machine.execLanectlAdd
  repeat' first | with_reducible assumption | with_reducible apply Keeps.ackLanes | with_reducible apply Keeps.setGroup | with_reducible apply Keeps.quiet | with_reducible apply Keeps.ite | with_reducible apply KeepsO.ite | with_reducible apply KeepsO.next

theorem KeepsO.execLanectlAck {s x : State} (h : Keeps s x) (y1 : ℕ) (y2 : ℕ) : KeepsO s (execLanectlAck y1 y2 x) := by
  unfold Machine.execLanectlAck
  repeat' first | with_reducible assumption | with_reducible apply Keeps.quiet | with_reducible apply Keeps.ite | with_reducible apply KeepsO.ite | with_reducible apply KeepsO.next

theorem Keeps.loseLane {s x : State} (h : Keeps s x) (y1 : ℕ) (y2 : ℕ) : Keeps s (State.loseLane x y1 y2) := by
  unfold State.loseLane
  repeat' first | with_reducible assumption | with_reducible apply Keeps.sendNak | with_reducible apply Keeps.removeLanes | with_reducible apply Keeps.raiseAs | with_reducible apply Keeps.countPort | with_reducible apply Keeps.ite

theorem KeepsO.execLaneLost {s x : State} (h : Keeps s x) (y1 : ℕ) (y2 : ℕ) : KeepsO s (execLaneLost y1 y2 x) := by
  unfold Machine.execLaneLost
  repeat' first | with_reducible assumption | with_reducible apply Keeps.loseLane | with_reducible apply Keeps.quiet | with_reducible apply Keeps.ite | with_reducible apply KeepsO.ite | with_reducible apply KeepsO.next

theorem Keeps.laneUsable {s x : State} (h : Keeps s x) (y1 : ℕ) (y2 : ℕ) : Keeps s (State.laneUsable x y1 y2) := by
  unfold State.laneUsable
  repeat' first | with_reducible assumption | with_reducible apply Keeps.joinLanes | with_reducible apply Keeps.raiseAs | with_reducible apply Keeps.startGroup | with_reducible apply Keeps.emit | with_reducible apply Keeps.setGroup | with_reducible apply Keeps.ite

theorem KeepsO.execLinkUp {s x : State} (h : Keeps s x) (y1 : ℕ) (y2 : Bool) (y3 : Bool) : KeepsO s (execLinkUp y1 y2 y3 x) := by
  unfold Machine.execLinkUp
  repeat' first | with_reducible assumption | with_reducible apply Keeps.quiet | with_reducible apply Keeps.laneUsable | with_reducible apply Keeps.countPort | with_reducible apply Keeps.raiseAs | with_reducible apply Keeps.setPort | with_reducible apply Keeps.ite | with_reducible apply KeepsO.ite | with_reducible apply KeepsO.next | split

theorem KeepsO.execLinkDown {s x : State} (h : Keeps s x) (y1 : ℕ) : KeepsO s (Machine.execLinkDown y1 x) := by
  unfold Machine.execLinkDown
  repeat' first | with_reducible assumption | with_reducible apply Keeps.quiet | with_reducible apply Keeps.loseLane | with_reducible apply Keeps.dropLink | with_reducible apply Keeps.ite | with_reducible apply Keeps.ite1 | with_reducible apply KeepsO.ite | with_reducible apply KeepsO.next | split | dsimp only | intro _ | with_reducible refine Keeps.lit ?_ rfl rfl rfl rfl

theorem KeepsO.execFecDegrade {s x : State} (h : Keeps s x) (y1 : ℕ) (y2 : ℕ) (y3 : ℕ) : KeepsO s (execFecDegrade y1 y2 y3 x) := by
  unfold Machine.execFecDegrade
  repeat' first | with_reducible assumption | with_reducible apply Keeps.quiet | with_reducible apply Keeps.raiseAs | with_reducible apply Keeps.countPort | with_reducible apply Keeps.ite | with_reducible apply KeepsO.ite | with_reducible apply KeepsO.next

theorem KeepsO.execPreemptFail {s x : State} (h : Keeps s x) (y1 : ℕ) : KeepsO s (execPreemptFail y1 x) := by
  unfold Machine.execPreemptFail
  repeat' first | with_reducible assumption | with_reducible apply Keeps.quiet | with_reducible apply Keeps.raiseAs | with_reducible apply Keeps.setPort | with_reducible apply Keeps.ite | with_reducible apply KeepsO.ite | with_reducible apply KeepsO.next

theorem KeepsO.execEyeMeasure {s x : State} (h : Keeps s x) (y1 : ℕ) (y2 : ℕ) : KeepsO s (Machine.execEyeMeasure y1 y2 x) := by
  unfold Machine.execEyeMeasure
  repeat' first | with_reducible assumption | with_reducible apply Keeps.quiet | with_reducible apply Keeps.setPort | with_reducible apply Keeps.raiseAs | with_reducible apply Keeps.loseLane | with_reducible apply Keeps.ite | with_reducible apply Keeps.ite1 | with_reducible apply KeepsO.ite | with_reducible apply KeepsO.next | split | dsimp only | intro _ | with_reducible refine Keeps.lit ?_ rfl rfl rfl rfl

end Sys2Proof.Machine
end

