-- ==== Sys2Proof/Laws/KeepsTdmPorts.lean ====
section
/-! SUPPORT. Each operation of Machine/TdmPorts.lean keeps what every command respects. -/

namespace Sys2Proof.Machine

theorem Keeps.alnAhead {s x : State} (h : Keeps s x) (y1 : ℕ) : Keeps s (State.alnAhead x y1) := by
  unfold State.alnAhead
  repeat' first | with_reducible assumption | with_reducible refine Keeps.foldS ?_ _ (fun _ _ _ => ?_) _ | with_reducible apply Keeps.runAln | with_reducible apply Keeps.ite | with_reducible apply Keeps.ite1 | with_reducible apply KeepsO.ite | with_reducible apply KeepsO.next | split | dsimp only | intro _ | with_reducible refine Keeps.lit ?_ rfl rfl rfl rfl

theorem Keeps.tdmGather {s x : State} (h : Keeps s x) (y1 : ℕ) (y2 : ℕ) (y3 : List ℤ) : Keeps s (State.tdmGather x y1 y2 y3) := by
  unfold State.tdmGather
  repeat' first | with_reducible assumption | with_reducible apply Keeps.foldS | with_reducible apply Keeps.wakeReaders | with_reducible apply Keeps.modCsw | with_reducible apply Keeps.ite | with_reducible apply KeepsO.ite | with_reducible apply KeepsO.next | split | dsimp only | intro _

theorem Keeps.tdmMirror {s x : State} (h : Keeps s x) (y1 : ℕ) : Keeps s (State.tdmMirror x y1) := by
  unfold State.tdmMirror
  repeat' first | with_reducible assumption | with_reducible apply Keeps.sendMirror | with_reducible apply Keeps.ite

theorem KeepsO.execTdmFrame {s x : State} (h : Keeps s x) (y1 : ℕ) (y2 : ℕ) (y3 : List ℤ) (y4 : Bool) : KeepsO s (execTdmFrame y1 y2 y3 y4 x) := by
  unfold Machine.execTdmFrame
  repeat' first | with_reducible assumption | with_reducible apply Keeps.quiet | with_reducible apply Keeps.emit | with_reducible apply Keeps.setTdm | with_reducible apply Keeps.tdmMirror | with_reducible apply Keeps.tdmGather | with_reducible apply Keeps.ite | with_reducible apply KeepsO.ite | with_reducible apply KeepsO.next

theorem KeepsO.execFsyncLoss {s x : State} (h : Keeps s x) (y1 : ℕ) : KeepsO s (execFsyncLoss y1 x) := by
  unfold Machine.execFsyncLoss
  repeat' first | with_reducible assumption | with_reducible apply Keeps.quiet | with_reducible apply Keeps.raise | with_reducible apply Keeps.setTdm | with_reducible apply Keeps.ite | with_reducible apply KeepsO.ite | with_reducible apply KeepsO.next

theorem KeepsO.execFsyncOk {s x : State} (h : Keeps s x) (y1 : ℕ) : KeepsO s (execFsyncOk y1 x) := by
  unfold Machine.execFsyncOk
  repeat' first | with_reducible assumption | with_reducible apply Keeps.quiet | with_reducible apply Keeps.raise | with_reducible apply Keeps.setTdm | with_reducible apply Keeps.ite | with_reducible apply KeepsO.ite | with_reducible apply KeepsO.next

end Sys2Proof.Machine
end

