-- ==== Sys2Proof/Tests/Slice0.lean ====
section
/-! SUPPORT. Tests: ill-formed commands are refused, and every premise of a statement is met by a concrete state and operands. -/

-- One theorem after another: elaborated at once, their kernel evaluations take more threads than the memory limit allows.
set_option Elab.async false

namespace Sys2Proof.Tests
open Sys2Proof.Machine

/-- The state after a command that runs. -/
def after (c : Instr) (s : State) : State := match exec c s with | .next t => t | _ => State.reset

/-- The engine in Noon: ticks run, every domain is on, it has an owner. -/
def noon : State := { State.reset with
  top := { State.reset.top with state := .noon, inReset := false, booted := true, cfgReady := true, timeLocked := true }
  time := { State.reset.time with running := true, ticked := true, todSet := true, tick := 1000, counter := 83334000 * 2 ^ 32 }
  pwr := { State.reset.pwr with on := 0x1FFFF, xoValid := true }
  sec := { State.reset.sec with life := 1, trngOk := true, idkOk := true } }

/-- A cluster whose lanes 0 and 1 are given. -/
def clusterOf (a b : Lane) : Cluster := { role := 1, stepping := true, lanes := a :: b :: List.replicate 30 {} }

/-- Noon with that cluster as cluster 0. -/
def with2 (a b : Lane) : State := { noon with clusters := [(0, clusterOf a b)] }

/-- Of an Owl message: MTYPE, destination, EPOCH, TICK, E and ARG (R338). -/
def owlOf : Emission → List Nat
  | .owl _ dst _ m => [field m 1 1, dst, field m 6 2, field m 8 8, field m 16 8, field m 24 8]
  | _ => []

/-- Lane `k` of cluster 0. -/
def lane (k : Nat) (t : State) : Lane := at? {} (t.cluster 0).lanes k

/-! ### Well-formed commands (R79, R110, R147, R149, R155, R259, R461, R475, R503) -/

theorem test_wf_cluster_number : (Instr.nop 9).wf = false ∧ (Instr.nop 8).wf = true := by decide
theorem test_wf_replay_lane : (Instr.rnd ⟨0, .replay 32⟩ 0).wf = false ∧ (Instr.rnd ⟨0, .failTwice 31⟩ 0).wf = true := by decide
theorem test_wf_register : (Instr.add ⟨0, .ok⟩ 32 0 0).wf = false ∧ (Instr.add ⟨0, .ok⟩ 31 0 0).wf = true := by decide
theorem test_wf_address : (Instr.ld 0 0 ⟨16, .postInc⟩).wf = false ∧ (Instr.ld 0 0 ⟨0, .postM 8⟩).wf = false ∧
    (Instr.ld 0 0 ⟨0, .postImm 16384⟩).wf = false ∧ (Instr.ld 0 0 ⟨0, .offset (-16385)⟩).wf = false ∧ (Instr.ld 0 0 ⟨15, .offset (-16384)⟩).wf = true := by decide
theorem test_wf_dual_load : (Instr.ldd ⟨0, .ok⟩ ⟨some ⟨32, 0, 0⟩, none⟩).wf = false ∧ (Instr.ldd ⟨0, .ok⟩ ⟨none, some ⟨0, 0, 8⟩⟩).wf = false ∧
    (Instr.ldd ⟨0, .ok⟩ ⟨some ⟨31, 15, 7⟩, none⟩).wf = true := by decide
theorem test_wf_consumer : (Instr.foxFadeEnd (.direct 64)).wf = false ∧ (Instr.foxFadeEnd (.inStrip 4096)).wf = false ∧
    (Instr.foxFadeEnd (.egress 4095 255)).wf = true := by decide
theorem test_wf_tag : (Instr.handshakeWord ⟨3, 16, .gather 0 0 0, 0⟩).wf = false ∧ (Instr.handshakeWord ⟨3, 15, .gather 0 0 0, 0⟩).wf = true := by decide
theorem test_wf_request : (Instr.read { path := .tw1, reqid := 2 ^ 32 }).wf = false ∧
    (Instr.read { path := .tw1, reqid := 0, items := [⟨65539, 0, 0, 0, 0, []⟩] }).wf = false ∧ (Instr.read { path := .tw1, reqid := 0 }).wf = true := by decide
theorem test_wf_leave : (Instr.leave (.loop 9)).wf = false ∧ (Instr.leave .service).wf = true := by decide
theorem test_wf_width : (Instr.rcRead .hostp 0 3).wf = false ∧ (Instr.rcRead .hostp 0 8).wf = true := by decide
theorem test_wf_burst : (Instr.burst { master := .ctl0, addr := 0, write := false, width := 8, beats := 17, data := [] }).wf = false ∧
    (Instr.burst { master := .ctl0, addr := 0, write := false, width := 8, beats := 16, data := [] }).wf = true := by decide
theorem test_wf_function : (Instr.frstDone 11).wf = false ∧ (Instr.frstDone 0x18).wf = true ∧ (Instr.frstDone 0x80).wf = false := by decide

/-- The opcode table gives no command bits, so no word spells one. -/
theorem test_no_word_is_a_command : decodeTableWord 32 0 = none := by decide

/-! ### The queue and the invariant -/

theorem test_queue : ({ noon with pending := [.ready, .nonce] } : State).pending = .ready :: [.nonce] ∧ noon.pending = [] ∧
    (match step { noon with pending := [.ready, .nonce] } with | .next t => t.pending | _ => []) = [.nonce] := by decide +kernel

/-- The reset state meets the invariant, and one step of it answers a next state. -/
theorem test_invariant_holds_somewhere : State.reset.Inv ∧ step State.reset = .next State.reset := by
  refine ⟨?_, rfl⟩
  simp [State.Inv, State.reset, Memory.wf]

/-! ### Clusters (chapters 04 and 05) -/

/-- D0 = 2^31 - 1, D1 = 1, D2 = -3, D3 = 68, A0 = 2^79 - 1. -/
def laneA : Lane := { d := [(0, 0x7FFFFFFF), (1, 1), (2, BitVec.ofInt 32 (-3)), (3, 68)], a := [(0, BitVec.ofInt 80 (2 ^ 79 - 1)), (1, BitVec.ofInt 80 (-6))] }

/-- D0 = 2^31 - 1 too, D1 = 5. -/
def laneB : Lane := { d := [(0, 0x7FFFFFFF), (1, 5), (2, BitVec.ofInt 32 (-3))] }

def c0 : State := with2 laneA laneB

theorem test_lane_of_a_cluster : c0.AtInstr 0 ∧ c0.LaneIs 0 0 laneA ∧ c0.LaneIs 0 31 {} ∧ (c0.cluster 0).ik = false ∧
    (c0.cluster 0).handler = false ∧ (c0.cluster 0).loopActive = false := by decide +kernel

/-- 2^31 - 1 + 1 saturates: V and SAT (R156, R119). -/
theorem test_add_saturates : ((lane 0 (after (.add ⟨0, .ok⟩ 4 0 1) c0)).sees 4 = 0x7FFFFFFF) ∧
    (lane 0 (after (.add ⟨0, .ok⟩ 4 0 1) c0)).fl = ⟨false, false, true⟩ ∧ (lane 0 (after (.add ⟨0, .ok⟩ 4 0 1) c0)).st.sat = true := by decide +kernel

/-- A shift count is taken modulo 64: 68 shifts by 4 (R156). -/
theorem test_shifts_use_six_bits : (lane 0 (after (.asl ⟨0, .ok⟩ 4 1 3) c0)).sees 4 = 16 ∧
    (lane 0 (after (.asr ⟨0, .ok⟩ 4 2 3) c0)).sees 4 = 0xFFFFFFFF ∧ (lane 0 (after (.lsr ⟨0, .ok⟩ 4 2 3) c0)).sees 4 = 0x0FFFFFFF := by decide +kernel

/-- -3 compares below 1 (R156); NEG and ABS of -3. -/
theorem test_compare_and_abs : (lane 0 (after (.cmp ⟨0, .ok⟩ 2 1) c0)).fl = ⟨false, true, false⟩ ∧
    (lane 0 (after (.abs ⟨0, .ok⟩ 4 2) c0)).sees 4 = 3 ∧ (lane 0 (after (.neg ⟨0, .ok⟩ 4 1) c0)).sees 4 = 0xFFFFFFFF := by decide +kernel

theorem test_immediates : (lane 0 (after (.aluiSub ⟨0, .ok⟩ 4 1 3) c0)).sees 4 = 0xFFFFFFFE ∧
    (lane 0 (after (.aluiMov ⟨0, .ok⟩ 4 0x80000000) c0)).sees 4 = 0x80000000 := by decide +kernel

/-- The flags of the instruction before CMP steer SEL (R152). -/
theorem test_sel_follows_cmp : (lane 0 (after (.sel ⟨0, .ok⟩ 4 1 2 3) (after (.cmp ⟨0, .ok⟩ 2 1) c0))).sees 4 = 1 := by decide +kernel

/-- The pair search keeps the lower second register on a tie; RMAX names the lowest lane (R157). -/
theorem test_searches : (lane 0 (after (.maxi ⟨0, .ok⟩ 0 0 2) c0)).sees 1 = BitVec.ofInt 32 (-3) ∧
    (lane 1 (after (.rmax ⟨0, .ok⟩ 4 0) c0)).sees 5 = 0 ∧ (lane 1 (after (.rmin ⟨0, .ok⟩ 4 2) c0)).sees 4 = BitVec.ofInt 32 (-3) := by decide +kernel

theorem test_lane_number : (lane 1 (after (.lid ⟨0, .ok⟩ 7) c0)).sees 7 = 1 := by decide +kernel

/-- 2^79 - 1 + 1 clamps with OVG; LDA of a shift of 48 is within R171 (R121, R154). -/
theorem test_accumulators : (lane 0 (after (.mac ⟨0, .ok⟩ 0 1 1) c0)).acc 0 = BitVec.ofInt 80 (2 ^ 79 - 1) ∧
    (lane 0 (after (.mac ⟨0, .ok⟩ 0 1 1) c0)).st.ovg = true ∧ (lane 0 (after (.lda ⟨0, .ok⟩ 2 2 48) c0)).acc 2 = BitVec.ofInt 80 (-3 * 2 ^ 48) ∧
    (lane 0 (after (.mpy ⟨0, .ok⟩ 2 0 2) c0)).acc 2 = BitVec.ofInt 80 (-3 * (2 ^ 31 - 1)) := by decide +kernel

/-- -6 / 4 rounds half up to -1 and truncates to -2 (R122). -/
theorem test_sav_rounds : (lane 0 (after (.sav ⟨0, .ok⟩ 4 1 2 false) c0)).tick.sees 4 = BitVec.ofInt 32 (-1) ∧
    (lane 0 (after (.sav ⟨0, .ok⟩ 4 1 2 true) c0)).tick.sees 4 = BitVec.ofInt 32 (-2) ∧
    (lane 0 (after (.sav ⟨0, .ok⟩ 4 0 2 true) c0)).st.sat = true := by decide +kernel

/-- P0 = 0x100 in LMEM, P1 = 0x400004 and P2 = 0x400008 in CMEM, P3 past every memory, M0 = -4, LR = 7; A0 = 10, D0 = 3, D1 = 4. -/
def c1 : State := { noon with clusters := [(0, { clusterOf
    { d := [(0, 3), (1, 4)], a := [(0, 10)], lmem := [(0x100, 0x78), (0x101, 0x56), (0x102, 0x34), (0x103, 0x12)] } {} with
  cmem := [(4, 0xAA), (8, 0xBB)], sh := [(0x20, 0x100), (0x21, 0x400004), (0x22, 0x400008), (0x23, 0x800000), (0x30, 0xFFFFFC), (0x4B, 7)] })] }

theorem test_loads_premises : c1.AtInstr 0 ∧ c1.LaneIs 0 0 (lane 0 c1) ∧ (c1.cluster 0).handler = false ∧ Memory.wf (lane 0 c1).lmem = true := by decide +kernel

/-- LDD delivers two words at distance 2, P0 moves by M0 (R155); two words of CMEM clash. -/
theorem test_dual_format : (lane 0 (after (.macl ⟨0, .ok⟩ 0 0 1 ⟨some ⟨5, 0, 0⟩, some ⟨6, 1, 1⟩⟩) c1)).tick.sees 5 = 0x12345678 ∧
    (lane 0 (after (.macl ⟨0, .ok⟩ 0 0 1 ⟨some ⟨5, 0, 0⟩, some ⟨6, 1, 1⟩⟩) c1)).tick.sees 6 = 0xAA ∧
    (lane 0 (after (.msul ⟨0, .ok⟩ 0 0 1 ⟨some ⟨5, 0, 0⟩, none⟩) c1)).acc 0 = BitVec.ofInt 80 (-2) ∧
    ((after (.ldd ⟨0, .ok⟩ ⟨some ⟨5, 0, 0⟩, none⟩) c1).cluster 0).shared 0x20 = 0xFC ∧
    (lane 0 (after (.ldd ⟨0, .ok⟩ ⟨some ⟨5, 1, 1⟩, some ⟨6, 2, 1⟩⟩) c1)).tick.sees 6 = 0 ∧
    (lane 0 (after (.ldd ⟨0, .ok⟩ ⟨some ⟨5, 1, 1⟩, some ⟨6, 2, 1⟩⟩) c1)).st.addr = true := by decide +kernel

/-- A load is seen by the second instruction after it, and outside the map delivers 0 with ADDR_RANGE (R118, R114). -/
theorem test_load : (lane 0 (after (.ld 0 5 ⟨0, .postInc⟩) c1)).sees 5 = 0 ∧ (lane 0 (after (.ld 0 5 ⟨0, .postInc⟩) c1)).tick.sees 5 = 0x12345678 ∧
    ((after (.ld 0 5 ⟨0, .postInc⟩) c1).cluster 0).shared 0x20 = 0x104 ∧ (lane 0 (after (.ld 0 5 ⟨3, .offset 0⟩) c1)).st.addr = true ∧
    ((after (.modp 0 ⟨0, .postM 0⟩) c1).cluster 0).shared 0x20 = 0xFC := by decide +kernel

/-- A store is little-endian; CMEM takes none (R9, R153). -/
theorem test_store : memGet (lane 0 (after (.st 0 1 ⟨0, .offset 1⟩) c1)).lmem 0x104 = 4 ∧ memGet (lane 0 (after (.st 0 1 ⟨0, .offset 1⟩) c1)).lmem 0x103 = 0x12 ∧
    (lane 0 (after (.st 0 1 ⟨1, .postInc⟩) c1)).lmem = (lane 0 c1).lmem ∧ (lane 0 (after (.st 0 1 ⟨1, .postInc⟩) c1)).st.addr = true := by decide +kernel

/-- M0 extends its sign into D; a pointer takes a move at the fourth instruction after it (R118, R158). -/
theorem test_moves : (lane 0 (after (.mvr 0 5 0x30) c1)).sees 5 = 0xFFFFFFFC ∧
    ((after (.mvr 0 0x20 0) c1).cluster 0).shared 0x20 = 0x100 ∧
    ((after (.nop 0) (after (.nop 0) (after (.nop 0) (after (.nop 0) (after (.mvi 0 0x20 0x44) c1))))).cluster 0).shared 0x20 = 0x44 := by decide +kernel

/-- Lane 0 with Z after the third instruction before. -/
def c2 : State := with2 { fhist := [{}, { z := true }, {}] } {}

/-- BR looks three instructions back; CALL links past its delay slots; the second delay slot ends at the target (R118, R151). -/
theorem test_branches : (c2.cluster 0).loopActive = false ∧ (c2.cluster 0).after = none ∧
    ((after (.br 0 1 0 40) c2).cluster 0).after = some (.target 40) ∧ ((after (.br 0 1 2 40) c2).cluster 0).after = some .fall ∧
    ((after (.call 0 40) c1).cluster 0).shared 0x4B = 3 ∧ ((after (.ret 0) c1).cluster 0).after = some (.target 7) ∧
    ((after (.nop 0) (after (.nop 0) (after (.call 0 40) c1))).cluster 0).pc = 40 ∧
    ((after (.nop 0) (after (.nop 0) (after (.br 0 1 2 40) c2))).cluster 0).pc = 3 := by decide +kernel

/-- A cluster at an interruptible boundary with TICK pending. -/
def c3 : State := { noon with clusters := [(0, { clusterOf { fl := ⟨true, false, false⟩ } {} with
  pc := 9, pend := 2, img := { enabled := 3, handlerEntry := 100 }, sh := [(0x4B, 5)] })] }

/-- The same cluster in its handler, in the last delay slot of RETI. -/
def c4 : State := after (.nop 0) (after (.reti 0) (after (.interruptEntry 0) c3))

theorem test_interrupts : (c3.cluster 0).stepping = true ∧ ((c3.cluster 0).pend &&& (c3.cluster 0).img.enabled).testBit 1 = true ∧
    ((c3.cluster 0).pend &&& (c3.cluster 0).img.enabled).testBit 0 = false ∧ ((after (.interruptEntry 0) c3).cluster 0).pc = 100 ∧
    (c4.cluster 0).after = some .reti ∧ (c4.cluster 0).slots ≤ 1 ∧ (c4.cluster 0).saved.isSome = true ∧ (c4.cluster 0).loopActive = false ∧
    ((after (.nop 0) c4).cluster 0).pc = 9 ∧ (lane 0 (after (.nop 0) c4)).fl.z = true ∧ ((after (.trap 0) c3).cluster 0).pend = 3 := by decide +kernel

/-- A loop of 3 passes over the instruction at 1: its end at LE, first with LC = 3, at last with LC = 1. -/
def c5 : State := after (.loop 0 3 1) c2

theorem test_loops : (c5.cluster 0).loopActive = true ∧ (c5.aged 0).pc = (c5.aged 0).shared 0x4A ∧ ((after (.nop 0) c5).cluster 0).pc = 1 ∧
    ((after (.nop 0) c5).cluster 0).shared 0x48 = 2 ∧ ((after (.nop 0) (after (.nop 0) (after (.nop 0) c5))).cluster 0).loopActive = false ∧
    (c5.cluster 0).saved = none ∧ ((after (.leave (.loop 0)) c5).cluster 0).loopActive = false ∧ ((after (.loopp 0 0 20) c2).cluster 0).pc = 21 ∧ ((after (.modp 0 ⟨0, .postInc⟩) (after (.rpt 0 5) c1)).cluster 0).shared 0x20 = 0x114 := by decide +kernel

/-- A working cluster before its first step, with its IN region complete; its one output channel goes to slot 7. -/
def c6 : State := { noon with
  csw := { noon.csw with proc := 998 }
  clusters := [(0, { role := 1, inFull := [0], img := { steps := [{ entry := 50, worst := 400, out := [⟨.slot 7, 0, 8⟩] }], scratch := [(0, 8)] }, lanes := { d := [(0, 1)], lmem := [(4, 1), (8, 2)] } :: List.replicate 31 {} })] }

def started : State := after (.clusterStepStart 0 0) c6
def inSlots : State := after (.nop 0) (after (.ends 0) started)
def stepDone : State := after (.nop 0) inSlots

/-- The step starts at its entry with SCRATCH cleared; with the last delay slot of ENDS its OUT region drains (R115, R116, R145, R170). -/
theorem test_steps : (c6.cluster 0).role = 1 ∧ (c6.cluster 0).stepsRun = 0 ∧ (c6.cluster 0).idle = false ∧ 0 ∈ (c6.cluster 0).inFull ∧
    c6.pwr.gated.testBit 0 = false ∧ c6.pwr.waking.testBit 0 = false ∧
    (started.cluster 0).pc = 50 ∧ (lane 0 started).lmem = [(8, 2)] ∧
    (inSlots.cluster 0).after = some .ends ∧ (inSlots.cluster 0).slots ≤ 1 ∧ (inSlots.cluster 0).ended = false ∧
    (stepDone.cluster 0).stepping = false ∧ (stepDone.cluster 0).stepsRun = 1 ∧ tfind inSlots.csw.out (bankKey 998 7) = none ∧
    (tfind stepDone.csw.out (bankKey 998 7)).map (fun l => l.take 2) = some [2, 0] ∧ c6.pwr.gateLate < 0xFFFF ∧
    (after (.clusterStepStart 0 0) { c6 with pwr := { c6.pwr with gated := 1 } }).pwr.gateLate = 1 := by decide +kernel

/-! ### Events, histories and per-function resets (chapter 15) -/

theorem test_events_outside_shadows : noon.top.shadows = [] ∧ noon.time.running = true ∧ noon.top.errPw = 0x64 ∧
    ((noon.raise blkCsw 2 .u 7).common blkCsw).intStat = 4 ∧ (noon.raise blkCsw 2 .u 7).sent = [] ∧
    (noon.raise blkPwr 0x11 .f 7).sent = [.pin 0 true] ∧ (noon.raise blkPwr 0x11 .f 7).top.classF = true ∧
    ({ noon with top := { noon.top with state := .night } }.raise blkPwr 0x11 .f 7).top.nightF = [(blkPwr, 0x11)] ∧
    ({ noon with top := { noon.top with state := .dusk } }.raise blkPwr 0x11 .f 7).top.classF = false := by decide +kernel

/-- Noon in the shadow of a reset of MIX. -/
def shaded : State := { noon with top := { noon.top with shadows := [⟨0, 999, some 4, [], [], []⟩], resets := [⟨0, 999⟩] } }

theorem test_shadows : shaded.shadowFor blkMix 2 0 = some ⟨0, 999, some 4, [], [], []⟩ ∧ ((shaded.raise blkMix 2 .u 0).common blkMix).intStat = 0 ∧
    (((shaded.raise blkMix 2 .u 0).common blkMix).hist.map fun e => (e.code, e.conseq)) = [(0x702, true)] := by decide +kernel

theorem test_force : noon.MayWrite .ctl0 blkCsw 0x14 ∧ eventClass blkCsw 2 = some .u ∧
    ((after (.force .ctl0 blkCsw 4) noon).common blkCsw).cntU = 1 ∧
    (((after (.force .ctl0 blkCsw 4) noon).common blkCsw).hist.map fun e => (e.forced, e.detail)) = [(true, 0xFFFFFFFF)] := by decide +kernel

theorem test_histories : noon.MayWrite .hostp blkCsw 0x18 ∧ noon.MayRead .ctl0 blkCsw 0xC ∧ noon.isPrimary .ctl0 = true ∧ noon.blockOn blkCsw = true ∧
    (after (.intStatRead .ctl0 blkCsw) (noon.raise blkCsw 2 .u 7)).sent = [.data [4]] ∧
    ((after (.clear .hostp blkCsw) (noon.raise blkCsw 2 .u 7)).common blkCsw).hist = [] ∧
    (((after .faultPoll (noon.raise blkCsw 2 .u 7)).common blkCsw).hist.all fun e => e.stamped && e.polled) = true := by decide +kernel

/-- A pulse runs that ends in a hold. -/
def pulsing : State := noon.raise blkPwr 0x11 .f 0

theorem test_err_pin : pulsing.top.errPulse = some ⟨0x64, true⟩ ∧ (after .errPulseEnd pulsing).top.errHold = true ∧
    (after .errPulseEnd pulsing).MayWrite .ctl0 blkTop 0x120 ∧ (after (.holdRelease .ctl0) (after .errPulseEnd pulsing)).sent = [.pin 0 false] ∧
    (after (.holdSet .ctl0) noon).top.errHold = true := by decide +kernel

theorem test_function_resets : noon.MayWrite .ctl0 blkTop 0x110 ∧ noon.resetRefused .ctl0 0 = false ∧ noon.resetRefused .hostp 10 = true ∧
    (after (.frst0 .ctl0 1) noon).top.shadows = [⟨0, 1000, some 4, [], noon.downstream 0, []⟩] ∧ (after (.frst0 .hostp (BitVec.ofNat 32 (2 ^ 10))) noon).top.frstRej = true ∧
    noon.MayWrite .ctl0 blkTop 0x114 ∧ noon.resetRefused .ctl0 0x43 = false ∧ (noon.port 3).up = false ∧
    (after (.frst1Go .ctl0 3) noon).top.resets = [⟨0x43, 1000⟩] := by decide +kernel

/-- A shadow that is over, with PATH_A_DOWN of context 5 held in it. -/
def ending (down : Bool) : State := { noon with
  csw := { noon.csw with ctx := [(5, { downA := down })] }, top := { noon.top with shadows := [⟨0, 990, some 4, [⟨blkCsw, 0x12, 5⟩], [], []⟩] } }

theorem test_shadows_close : eventClass blkCsw 0x12 = some .c ∧ (ending true).conditionHolds ⟨blkCsw, 0x12, 5⟩ = true ∧
    (ending false).conditionHolds ⟨blkCsw, 0x12, 5⟩ = false ∧ ((after (.shadowClose 0) (ending false)).common blkCsw).hist = [] ∧
    (((after (.shadowClose 0) (ending true)).common blkCsw).hist.map fun e => (e.code, e.persist, e.func)) = [(blkCsw * 256 + 0x12, true, 0)] ∧
    (after (.shadowClose 0) (ending true)).top.shadows = [] := by decide +kernel

/-- A reset of MIX has ended its hold. -/
def held : State := { noon with top := { noon.top with resets := [⟨0, 990⟩] } }

theorem test_resets_end : held.top.resets.any (fun r => r.func == 0) = true ∧ held.top.resetQ = [] ∧ held.top.shadows = [] ∧
    (after (.frstDone 0) held).top.resets = [] ∧ ((after (.frstDone 0) held).common blkTop).intStat = 0x10000 ∧
    (after (.frstFail 0) held).top.frstHeld = [0] ∧ ((after (.frstFail 0) held).common blkTop).intStat = 0x20000 ∧
    (after (.shadowClose 0) { noon with top := { noon.top with shadows := [⟨0, 990, some 4, [], [], []⟩] } }).top.shadows = [] := by decide +kernel

/-! ### The life of the engine (chapters 01, 11, 18) -/

/-- Noon with a grant, burnt fuses and SEC_MIN 3. -/
def burnt : State := { noon with sec := { noon.sec with fuses := 0x2B, secMin := 3, used := 1, grant := some ⟨1, 4, 50⟩ } }

theorem test_resets : (after .powerOnReset burnt).sec.fuses = 0x2B ∧ (after .powerOnReset burnt).sec.grant = none ∧
    (after .resetAssert burnt).sec.grant = some ⟨1, 4, 50⟩ ∧ (after .slowclkLoss burnt).top.state = .dawn ∧
    (after .slowclkLoss burnt).sec.secMin = 3 ∧ (after .slowclkLoss burnt).pwr.on = 0 := by decide +kernel

/-- Images of GEN 4 and GEN 9. -/
def boot4and9 : DawnBoot := { a := some { gen := 4, secVer := 3 }, b := some { gen := 9, secVer := 3 } }

theorem test_boot : State.reset.top.inReset = true ∧ (after (.resetRelease boot4and9) State.reset).fab.runGen = 9 ∧
    (after (.resetRelease boot4and9) State.reset).fab.runFlash = 1 ∧
    (after (.resetRelease { boot4and9 with b := some { gen := 9, secVer := 3, bodyOk := false } }) State.reset).fab.runGen = 4 ∧
    (after (.resetRelease { idkOk := false }) State.reset).top.state = .night := by decide +kernel

/-- Dawn after boot; Night with the domains off. -/
def dawn : State := after (.resetRelease boot4and9) State.reset
def night : State := { noon with top := { noon.top with state := .night }, time := { noon.time with running := false, ticked := false } }

theorem test_morning : dawn.top.state = .dawn ∧ dawn.top.inReset = false ∧ dawn.top.booted = true ∧ dawn.top.cfgA = none ∧ dawn.top.cfgB = none ∧
    (after (.dawnComplete { ms := 900 }) dawn).top.state = .morning ∧ (after (.dawnComplete { ms := 900 }) dawn).pwr.on = 0x1FFFF ∧
    night.top.nightDeep = false ∧ night.classFHolds = false ∧ night.top.saveRun = false ∧ night.memc.ppr = none ∧ night.resetting 9 = false ∧
    (night.cluster 8).role ≠ 3 ∧ (after (.resume {}) night).top.cause = 9 ∧ (after (.opResume .pec {}) night).top.state = .morning := by decide +kernel

/-- Morning entered with a configuration copy that holds an image of work set 1. -/
def loaded : State := after (.dawnComplete {}) { dawn with top := { dawn.top with
  cfgA := some ⟨2, true, [], [], [(1, { steps := [⟨50, 400, [], []⟩], cmem := [(0, 7)], init := [[(300, 5)]] })], [77]⟩ } }

theorem test_images_load : loaded.top.state = .morning ∧ loaded.top.cfgGen = 2 ∧ loaded.dict.golden = [77] ∧ (loaded.cluster 1).role = 1 ∧
    (loaded.cluster 1).wset = 1 ∧ (loaded.cluster 1).cmem = [(0, 7)] ∧ ((loaded.cluster 1).lanes.map fun l => l.lmem).take 2 = [[(300, 5)], []] ∧
    (loaded.cluster 8).role = 0 ∧ ((after (.save 0) loaded).top.saveCopy.map fun c => (c.golden, c.images.map (·.1))) = some ([77], [1]) := by decide +kernel

/-- Night with a save that runs and a RESUME that waits for it. -/
def waiting : State := after (.resume {}) { night with top := { night.top with saveRun := true, saveCopy := some ⟨3, true, [], [], [], []⟩ } }

theorem test_resume_waits : waiting.top.state = .night ∧ waiting.top.resumeWaits = some {} ∧ waiting.top.saveQ = none ∧ waiting.classFHolds = false ∧
    (after (.saveDone 3) waiting).top.state = .morning ∧ (after (.saveDone 3) waiting).top.cause = 9 ∧ (after (.saveDone 3) waiting).top.result = 3 := by decide +kernel

/-- Morning with the selected reference 2 locked. -/
def morning : State := { noon with
  top := { noon.top with state := .morning }
  refsel := { noon.refsel with inUse := some 2, entries := [(2, { st := 4, los := false })], mode := 1 } }

theorem test_noon : morning.refsel.inUse = some 2 ∧ (tget ({} : RefEntry) morning.refsel.entries 2).st = 4 ∧ morning.refsel.switchTo = none ∧
    (after .timeLock morning).refsel.mode = 2 ∧ morning.sec.life = 1 ∧ morning.paired = false ∧ morning.top.leaveAt = none ∧
    (after .morningToNoon morning).top.state = .noon ∧ (after .morningToNoon morning).top.cause = 4 ∧
    (after .ready { morning with top := { morning.top with cfgReady := false } }).top.cfgReady = true := by decide +kernel

theorem test_leaving : noon.top.state = .noon ∧ noon.pair.role = 0 ∧ (after (.leave .service) noon).top.leaveAt = some 1001 ∧
    (after (.leave .service) { noon with pair := { noon.pair with role := 1, epoch := 6 } }).sent.map owlOf = [[7, 0, 6, 1000, 1016, 0]] ∧
    { noon with top := { noon.top with state := .dusk } }.drainIdle = true ∧
    (after .drainComplete { noon with top := { noon.top with state := .dusk } }).top.cause = 7 ∧
    (after .duskTimeout { noon with top := { noon.top with state := .dusk, duskTicks := 64 } }).top.cause = 8 ∧
    (after .duskTimeout { noon with top := { noon.top with state := .dusk, duskTicks := 63 } }).top.state = .dusk := by decide +kernel

/-- A save runs; flash A holds the newer copy. -/
def saving : State := after (.save 1000) { noon with csw := { noon.csw with cutTick := some 998 }, top := { noon.top with cfgA := some ⟨7, true, [], [], [], []⟩, cfgB := some ⟨6, true, [], [], [], []⟩ } }

/-- Without that seal the save of tick 1000 waits for it. -/
theorem test_save_waits : (after (.save 1000) noon).top.saveCopy = none ∧ (after (.save 1000) noon).top.saveFor = some 1000 ∧ noon.sealedTo = 0 ∧
    saving.sealedTo = 1001 := by decide +kernel

theorem test_saves : noon.top.saveRun = false ∧ saving.top.saveRun = true ∧ saving.top.saveQ = none ∧ saving.top.resumeWaits = none ∧ (saving.top.saveCopy.map fun c => c.gen) = some 8 ∧
    (after (.save 1001) saving).top.saveQ = some 1001 ∧ ((after (.saveDone 2) saving).top.cfgB.map fun c => c.gen) = some 8 ∧
    ((after (.saveDone 4) saving).top.cfgB.map fun c => c.valid) = some false ∧ (after (.saveDone 3) saving).top.cfgB = saving.top.cfgB := by decide +kernel

/-! ### Time and references (chapter 09) -/

/-- Dawn with TOD_SRC HOST. -/
def dawnHost : State := { dawn with dict := { dawn.dict with vals := [(dictKey 0x1001 1 0, .num 1)] } }

/-- A state whose counter stands still: what it reads as a command comes is then known. -/
def still (s : State) : State := { s with time := { s.time with inc := 0, corr := 0 } }

/-- Morning with a loop that may move by 100 since its last update; Noon with a locked loop. -/
def pulled : State := { noon with refsel := { noon.refsel with mode := 1, slewLeft := 100 * 1000000000000 } }
def locked : State := { noon with refsel := { noon.refsel with mode := 2 } }

theorem test_time_set : dawnHost.top.state = .dawn ∧ dawnHost.cfg 0x1001 1 = 1 ∧ (after (.set 5) dawnHost).time.counter = 5 * 2 ^ 32 ∧
    night.MayWrite .ctl0 blkTime 0x104 ∧ night.top.state = .night ∧ (after (.incLoad .ctl0) night).time.inc = 2 * 2 ^ 32 ∧
    noon.MayWrite .ctl0 blkTime 0x104 ∧ ((after (.incLoad .ctl0) noon).common blkTime).cfgRej = true ∧ pulled.refsel.mode = 1 ∧
    (after (.dpllUpdate 1000000) pulled).time.corr = 100 ∧ (after (.dpllUpdate (-1000000)) pulled).time.corr = -100 ∧
    (after (.dpllUpdate (-7)) pulled).time.corr = -7 ∧ locked.refsel.realign = 0 ∧ (after (.dpllUpdate 1000000) locked).time.corr = 429496 ∧
    (after (.dpllUpdate (-7)) locked).time.corr = -7 := by decide +kernel

/-- Units 4 and 5 staged for the counter's value and the ns after it; 2 and 6 armed in periodic mode, 1 once, all but 6 passed. -/
def compare : State := { noon with time := { noon.time with cmps := [(2, { arm := true, periodic := true, target := 2 ^ 48 - 1, per := 10, period := 9 }),
  (1, { arm := true }), (4, { lo := 83334000 }), (5, { lo := 83334001 }), (6, { arm := true, periodic := true, target := 83334001, period := 7 })] } }

/-- The counter stands at 83,334,000 ns: a target there has come, one 1 ns later has not, and is reached in steps of 2 ns. -/
theorem test_compare_units : compare.MayWrite .ctl0 blkTime (0x20C + 16 * 4) ∧ reached ((still compare).quiet.elapse.time.counter / 2 ^ 32) 83334000 = true ∧
    ((after (.cmpArm .ctl0 4) (still compare)).time.cmp 4).lateArm = true ∧ compare.MayWrite .ctl0 blkTime (0x20C + 16 * 5) ∧
    reached ((still compare).quiet.elapse.time.counter / 2 ^ 32) 83334001 = false ∧ ((after (.cmpArm .ctl0 5) (still compare)).time.cmp 5).arm = true ∧
    (compare.time.cmp 2).arm = true ∧ ((after (.cmpFire 2) compare).time.cmp 2).target = 8 ∧ ((after (.cmpFire 2) compare).time.cmp 2).period = 10 ∧
    ((after (.cmpFire 1) compare).time.cmp 1).arm = false ∧ reached (compare.time.counter / 2 ^ 32) (compare.time.cmp 6).target = false ∧
    compare.cmpGoal 6 ≤ compare.tickStart 1001 ∧ (after (.cmpFire 6) compare).time.counter = 83334002 * 2 ^ 32 ∧
    ((after (.cmpFire 6) compare).time.cmp 6).target = 83334008 ∧ (after (.cmpFire 1) compare).time.counter = compare.time.counter := by decide +kernel

/-- Entries 1, 2 and 4 enabled; entry 2 is in use, entry 1 qualifying, entry 4 SUSPECT; entry 1 has a hard limit of 100 ppb. -/
def refs : State := { noon with
  dict := { noon.dict with vals := [(dictKey 0x1101 1 0, .num 1), (dictKey 0x1102 1 0, .num 1), (dictKey 0x1104 1 0, .num 1), (dictKey 0x1010 3 0, .num 1),
    (dictKey 0x1101 6 0, .num 100), (dictKey 0x1101 9 0, .num 10), (dictKey 0x1102 8 0, .num 10), (dictKey 0x1101 10 0, .num 30)] }
  refsel := { noon.refsel with
    inUse := some 2, mode := 2
    entries := [(1, { st := 1, los := false, qualMs := 10000 }), (2, { st := 4, los := false }), (4, { st := 3, cause := 3, los := false, recMs := 5000 })] } }

theorem test_evaluations : refs.top.state ≠ .night ∧ refs.entryOn 1 = true ∧ refs.cfg 0x1101 6 = 100 ∧
    (tget ({} : RefEntry) (after (.refselEvaluation [{ entry := 1, los := true }]) refs).refsel.entries 1).cause = 1 ∧
    (tget ({} : RefEntry) (after (.refselEvaluation [{ entry := 1, f := -100001 }]) refs).refsel.entries 1).cause = 2 ∧
    (tget ({} : RefEntry) (after (.refselEvaluation [{ entry := 1, f := 5 }])
      { refs with refsel := { refs.refsel with entries := [(1, { st := 0 })] } }).refsel.entries 1).st = 1 := by decide +kernel

/-- Entry 1 has waited to restore; entry 2, in use, has been SUSPECT for its DWELL. -/
def refsW : State := { refs with refsel := { refs.refsel with
  entries := [(1, { st := 2, los := false, wtr := some 30000 }), (2, { st := 3, cause := 3, los := false, suspMs := 10000 })] } }

/-- A switch to entry 1 is at its moment. -/
def refsS : State := { refs with refsel := { refs.refsel with switchTo := some 1, entries := [(1, { st := 2, los := false }), (2, { st := 4, los := false })] } }

/-- The same with entry 1 a reference of PTP, which bears phase and time. -/
def refsP : State := { refsS with dict := { refsS.dict with vals := (dictKey 0x1101 2 0, .num 128) :: refsS.dict.vals } }

/-- The same with entry 1 at 10 MHz, which bears frequency only. -/
def refsF : State := { refsS with dict := { refsS.dict with vals := (dictKey 0x1101 3 0, .num 1) :: refsS.dict.vals } }

theorem test_entries : 1000 * refs.cfg (0x1100 + 1) 9 = 10000 ∧ refs.cfgOn 0x1010 3 = true ∧
    (tget ({} : RefEntry) (after (.qualExpiry 1) refs).refsel.entries 1) = { st := 2, los := false, qualMs := 10000, wtr := some 0 } ∧
    (tget ({} : RefEntry) (after (.qualExpiry 1) { refs with refsel := { refs.refsel with inUse := none } }).refsel.entries 1).wtr = none ∧
    (tget ({} : RefEntry) (after (.suspectRecovery 4) { refs with refsel := { refs.refsel with inUse := some 4 } }).refsel.entries 4).st = 4 ∧
    (tget ({} : RefEntry) (after (.suspectRecovery 4) refs).refsel.entries 4).st = 1 ∧ refsW.refsel.best = some 1 ∧ refsW.cfg 0x1010 1 = 0 ∧
    refsW.refsel.switchTo = none ∧ (after .dwellExpiry refsW).refsel.switchTo = some 1 ∧ (after (.wtrExpiry 1) refsW).refsel.switchTo = some 1 ∧
    (after .dwellExpiry refsW).time.corr = refsW.time.corr ∧ (after .dwellExpiry refsW).refsel.mode = 4 := by decide +kernel

theorem test_switch : refsS.refsel.switchTo = some 1 ∧ refsS.top.shadows = [] ∧ (after (.refSwitch 17) refsS).refsel.inUse = some 1 ∧
    ((after (.refSwitch 17) refsS).common blkRefsel).intStat = 0x80000 ∧ refsF.phaseBearing 1 = false ∧ (after (.refSwitch 17) refsF).refsel.buildOut = 0 ∧
    refsP.timeBearing 1 = true ∧ (after (.refSwitch 17) refsP).refsel.buildOut = 17000 ∧
    (refsS.refsel.entry 1).st = 2 ∧ ((after (.refSwitch 17) refsS).refsel.entry 1).st = 4 ∧ refsS.refsel.inUse = some 2 ∧
    ((after (.refSwitch 17) refsS).refsel.entry 2).st = 2 := by decide +kernel

/-- In holdover past its specification. -/
def holdover : State := { noon with
  dict := { noon.dict with vals := [(dictKey 0x1200 5 6, .num 1)] }
  refsel := { noon.refsel with mode := 3, hoSpec := true, hoMs := 2000000000 }
  ports := [(6, { up := true })] }

/-- The same where port 6 stamps in one step. -/
def oneStep : State := { holdover with dict := { holdover.dict with vals := (dictKey 0x1200 9 6, .num 1) :: holdover.dict.vals } }

theorem test_clock_failures : holdover.refsel.mode = 3 ∧ holdover.refsel.hoSpec = true ∧ holdover.hoExceeds = true ∧ holdover.time.running = true ∧
    ((after .hoSpecLost holdover).common blkRefsel).intStat = 0x400000 ∧ (after .xoFail noon).top.classF = true ∧
    ((after .apllUnlock noon).common blkRefsel).cntF = 1 := by decide +kernel

/-- The counter stands at 83,334,000 ns, which is 83,334,000,000 ps. -/
theorem test_master_port : holdover.cfgOn 0x1200 5 6 = true ∧ (holdover.port 6).up = true ∧ holdover.refsel.ptpMaster ≠ some 6 ∧
    holdover.cfgOn 0x1200 9 6 = false ∧ (after (.ptpSend 6) (still holdover)).sent.contains (.ptp 6 8 0 0 83334000000 []) = true ∧
    oneStep.cfgOn 0x1200 9 6 = true ∧ (after (.ptpSend 6) (still oneStep)).sent.contains (.ptp 6 0 0 0 83334000000 []) = true ∧
    holdover.cfgOn (0xC300 + 6) 1 = false ∧ holdover.cfg 0x1200 8 ≠ 1 := by decide +kernel

theorem test_slave_port :
    (after (.ptpSend 6) { holdover with refsel := { holdover.refsel with ptpMaster := some 6 } }).sent.contains (.ptp 6 1 0 0 0 []) = true := by decide +kernel

/-! ### Power and the buses of the board (chapters 16, 17, 19, 20) -/

/-- Noon with the north ports off. -/
def northOff : State := { noon with pwr := { noon.pwr with on := 0x1FFEF } }

theorem test_domains : northOff.pwr.busy = none ∧ northOff.pwr.on.testBit 4 = false ∧ (after (.switch 4 true) northOff).pwr.busy = some 4 ∧
    noon.mayGoOff 1 = false ∧ ((after (.switch 1 false) noon).common blkPwr).pwrRej = true ∧ noon.mayGoOff 5 = true ∧
    (after (.switch 5 false) noon).pwr.busy = some 5 ∧ (after (.domainOn 4) (after (.switch 4 true) northOff)).pwr.on = 0x1FFFF ∧
    (after (.domainOff 5) (after (.switch 5 false) noon)).pwr.on = 0x1FFDF ∧ dawn.pwr.on.testBit 0 = false ∧ dawn.top.inReset = false ∧
    (after .xoInValid dawn).pwr.busy = some 0 ∧ noon.groups = [] ∧ (after (.south true) noon).pwr.switchOn = false ∧
    (after (.domainOff 16) { noon with pwr := { noon.pwr with busy := some 16 } }).cluster 8 = { role := 2 } := by decide +kernel

/-- Cluster 8 is OFF and its domain is being switched on; cluster 7 is FAULTY. -/
def clusterOff : State := { noon with
  clusters := [(8, { role := 2 }), (7, { role := 3 })]
  pwr := { noon.pwr with busy := some 16, switchOn := true, on := 0x7FFF } }

theorem test_cluster_domains : clusterOff.pwr.queue = [] ∧ ((after (.domainOn 16) clusterOff).cluster 8).role = 0 ∧ clusterOff.heldDown 15 = true ∧
    ((after (.switch 15 true) clusterOff).common blkPwr).pwrRej = true ∧ noon.heldDown 4 = false ∧
    ((after (.domainOff 15) { clusterOff with pwr := { noon.pwr with busy := some 15 } }).cluster 7).role = 3 := by decide +kernel

/-- Two polls of regulator 3 have gone unanswered. -/
def polled : State := { noon with
  dict := { noon.dict with vals := [(dictKey 0xD313 1 0, .num 0x40)] }
  pwr := { noon.pwr with regs := [(3, { present := true, nackPolls := 2 })] } }

theorem test_supplies : noon.avsHeld = false ∧ (after (.avsEvaluation [14, 30]) noon).pwr.vset = 0x16 ∧ (after (.avsEvaluation [15, 30]) noon).pwr.margin = 15 ∧
    noon.cfg 0xD300 3 = 40 ∧ (after (.avsEvaluation [39, 50]) noon).pwr.vset = 0x15 ∧ (after (.avsEvaluation [40, 50]) noon).pwr.vset = 0x14 ∧
    polled.resetting 8 = false ∧ blkTw0 ∉ polled.top.absent ∧ polled.cfg (0xD310 + 3) 1 ≠ 0 ∧
    ((after (.regulatorPoll [{ reg := 3, ack := false }]) polled).common blkPwr).intStat = 0x200000 ∧
    noon.pwr.therm = 0 ∧ (after .thermTrip noon).pwr.on = 0 ∧ (after .thermTrip noon).top.cause = 5 ∧
    (after (.vmonWarn 8 true) noon).top.classF = true ∧ (after (.vmonWarn 8 false) noon).pwr.vmon = 256 := by decide +kernel

/-- A job of PWR and one of the firmware wait on TW0. -/
def tw0w : State := { noon with tw0 := { noon.tw0 with queue := [⟨0x50, false, [1]⟩, ⟨0x40, true, [2]⟩], busBusy := false } }
/-- The same after a try that was not acknowledged. -/
def tw0r : State := { noon with tw0 := { noon.tw0 with cur := some ⟨0x40, true, [2]⟩, queue := [⟨0x50, false, [1]⟩], busBusy := false } }

theorem test_tw0 : tw0w.tw0.cur = none ∧ tw0w.tw0.next = (⟨0x40, true, [2]⟩, [⟨0x50, false, [1]⟩]) ∧ tw0w.resetting 8 = false ∧
    (after (.tw0Transaction { res := .done }) tw0w).sent = [.bus [0x80, 2]] ∧ (after (.tw0Transaction { res := .nack }) tw0w).tw0 = tw0r.tw0 ∧
    ((after (.tw0Transaction { res := .nack }) tw0w).common blkTw0).intStat = 0x40000 ∧ (after (.tw0Retry { res := .done }) tw0r).sent = [.bus [0x80, 2]] ∧ tw0r.tw0.tries + 1 < tw0r.tw0.retry ∧
    (after (.tw0Retry { res := .nack }) tw0r).tw0.tries = 1 ∧ ((after .twTimeout tw0r).common blkTw0).intStat = 0x100000 ∧
    ((after (.twBusStuck false) noon).common blkTw0).intStat = 0x200000 ∧ (after (.twBusStuck true) noon).tw0.stuck = false := by decide +kernel

/-- TW1 with an answer of three bytes; 0x5A is its address. -/
def tw1s : State := { noon with tw1 := { noon.tw1 with resp := [1, 2, 3], attnHw := 1 } }

theorem test_tw1 : tw1s.resetting 9 = false ∧ tw1s.tw1Gate = 0 ∧ (after .stat tw1s).sent = [.bus [0, 0, 0, 3, crc8 [0xB4, 3, 0xB5, 0, 0, 0, 3]]] ∧
    (after (.tw1BufRd 1 2) tw1s).sent = [.bus [0, 2, 3, crc8 [0xB4, 0x12, 0, 1, 2, 0xB5, 0, 2, 3]]] ∧ tw1s.tw1.dstate ≠ 1 ∧
    Memory.wf tw1s.tw1.req = true ∧ (after (.tw1BufWr 511 [9] .pec) tw1s).tw1.req = [(511, 9)] ∧
    ((after (.tw1BufWr 0 [9] .badPec) tw1s).common blkTw1).intStat = 0x20000 ∧ ((after (.tw1BufWr 0 [9] .cut) tw1s).common blkTw1).intStat = 0x10000 ∧ night.resetting 9 = false ∧
    (after (.opWake .pec { a := some { gen := 2, secVer := 0 }, b := some { gen := 2, secVer := 0 } }) night).fab.runGen = 2 ∧
    (after (.opWake .pec { a := some { gen := 2, secVer := 0 }, b := some { gen := 2, secVer := 0 } }) night).top.state = .dawn ∧
    ((after .tw1Timeout tw1s).common blkTw1).intStat = 0x40000 ∧ tw1s.tw1.attnRep ≠ 0 ∧ (after .attn tw1s).sent = [.pin 1 true] ∧
    (after .tw1TimingSwitch tw1s).tw1.fast = true := by decide +kernel

/-- CRC-8 with polynomial 0x07 of the nine characters 1 to 9 is 0xF4, its published check value. -/
theorem test_crc8 : crc8 [0x31, 0x32, 0x33, 0x34, 0x35, 0x36, 0x37, 0x38, 0x39] = 0xF4 := by decide +kernel

/-- A READ of one element of the engine object, as the buffers of TW1 and HOSTP carry it. -/
def readBytes : List Byte := beBytes 1 1 ++ beBytes 1 1 ++ beBytes 2 0 ++ beBytes 4 0 ++ beBytes 4 77 ++ beBytes 2 1 ++ beBytes 1 0 ++ beBytes 1 0 ++
  beBytes 8 0 ++ beBytes 2 1 ++ beBytes 1 1 ++ beBytes 1 0 ++ beBytes 2 0 ++ beBytes 2 1 ++ beBytes 8 0

/-- The request lies in the buffers. -/
def buffers : State := { noon with
  tw1 := { noon.tw1 with req := memSetBytes [] 0 readBytes }
  fab := { noon.fab with ctrlSram := memSetBytes [] 0x1FC000 readBytes } }

theorem test_buffers : regAssigned blkTw1 0x100 = true ∧ (after (.tw1RegRd (regAddr blkTw1 0x100)) noon).sent.length = 1 ∧
    ((after (.tw1RegWr (regAddr blkPwr 0x10) 0xFFFFFFFF .pec) noon).common blkPwr).intEn = 0xFFFF001E ∧ buffers.tw1Gate = 0 ∧ buffers.tw1.dstate ≠ 1 ∧
    readBytes.length = 40 ∧ (parseReq .tw1 (memBytes buffers.tw1.req 0 40)).1 = 1 ∧ (parseReq .tw1 (memBytes buffers.tw1.req 0 40)).2.reqid = 77 ∧ (parseReq .tw1 (memBytes buffers.tw1.req 0 40)).2.items = [⟨1, 1, 0, 0, 1, []⟩] ∧
    (parseReq .hostp (memBytes buffers.fab.ctrlSram 0x1FC000 40)).1 = 1 ∧ buffers.hostp.dstate ≠ 1 ∧ buffers.resetting 10 = false := by decide +kernel

def hpOk : HpFrame := { complete := true, crcOk := true, answered := true }

theorem test_host_port : noon.closed 2 = false ∧ noon.closed 3 = false ∧ noon.targetOf (regAddr blkTop 0x40) = (2, regAddr blkTop 0x40 - 0x40000000) ∧
    noon.regCause .hostp (regAddr blkTop 0x40) 4 false = none ∧ noon.regCause .hostp (regAddr blkTop 0x40) 4 true = none ∧
    (after (.hostpRegRd (regAddr blkTop 0x40) 1 hpOk) noon).sent = [.bus (hpBytes 0 [0, 0, 0, 0])] ∧
    ((after (.hostpRegWr (regAddr blkTop 0x40) [5] hpOk) noon).common blkTop).cntC = 5 ∧ Memory.wf noon.fab.ctrlSram = true ∧
    (after (.hostpBufWr 8191 [7] hpOk) noon).fab.ctrlSram = [(0x1FDFFF, 7)] ∧ (after (.hostpBufRd 0 2 hpOk) noon).sent = [.bus (hpBytes 0 [0, 0])] ∧
    noon.hostp.frameErr < 0xFF ∧ (after (.status { hpOk with complete := false }) noon).hostp.frameErr = 1 ∧
    (after (.status { hpOk with crcOk := false }) noon).sent = [.bus (hpBytes 1 [])] ∧ (after (.status hpOk) noon).hostp = noon.hostp := by decide +kernel

/-- A SHADOW with TDM port 2 in lock, 3 about to lose it, 4 about to find it. -/
def tdms : State := { noon with
  pair := { noon.pair with role := 2 }
  tdm := { ports := [(2, { sync := true }), (3, { sync := true, bad := 2 }), (4, { lost := true, lostNow := true, good := 16 })] } }

theorem test_tdm : tdms.emitting = false ∧ tdms.resetting 0x72 = false ∧ (after (.tdmFrame 2 5 [] false) tdms).sent = [.tdm 2 (List.replicate tdms.tdmSlots 0)] ∧
    (tget ({} : TdmPort) (after (.tdmFrame 2 5 [] false) tdms).tdm.ports 2).slips = 1 ∧ ((after (.fsyncLoss 3) tdms).common blkTdm).intStat = 0x10000 ∧
    (tget ({} : TdmPort) (after (.fsyncOk 4) tdms).tdm.ports 4).sync = true := by decide +kernel

/-! ### Spare-ins, march tests and silence (chapters 04, 06) -/

/-- Cluster 8 is the spare; cluster 0 works, with one byte of STATE and of LMEM. -/
def spares : State := { noon with
  dict := { noon.dict with vals := [(dictKey 0xA000 1 0, .num 1)] }
  ws := [(0, {})]
  clusters := [(0, { role := 1, wsv := true, lanes := { lmem := [(4, 9)], noise := 5 } :: List.replicate 31 {} })] ++
    (List.range 7).map (fun n => (n + 1, ({ role := 3 } : Cluster))) ++ [(8, { img := { state := [(4, 1)] } })] }

theorem test_spin_start : spares.top.shadows = [] ∧ spares.MayWrite .ctl0 (blkCl 8) 0x120 ∧ (spares.cluster 8).role = 0 ∧ spares.spinRunning = false ∧
    ((after (.spinStart .ctl0 8 0 true) spares).cluster 8).spinStart = true ∧ (after (.spinStart .ctl0 8 0 true) spares).spinRunning = true ∧
    (after (.spinStart .ctl0 8 0 false) (after (.spinStart .ctl0 8 0 true) spares)).spinQ = some (0, false) ∧
    (spares.cluster 1).role ≠ 0 ∧ ((after (.spinStart .ctl0 1 0 true) spares).common (blkCl 1)).cfgRej = true ∧
    spares.findSpare = some 8 ∧ ((after (.spareIn 0 false) spares).cluster 8).spinStart = true ∧
    ({ spares with clusters := [(8, { role := 2 })] ++ (List.range 8).map fun n => (n, ({ role := 1 } : Cluster)) } : State).findSpare = none := by decide +kernel

/-- A spare-in under way on the spare, in a phase, with a count of matching ticks. -/
def spinIn (phase n : Nat) (forced : Bool) : State := { spares with
  clusters := spares.clusters.take 8 ++ [(8, { phase := phase, spinTick := if forced then 994 else 996, matchCnt := n, spinForced := forced, wsv := true, img := { state := [(4, 1)] } })] }

theorem test_spin_moves : ((spinIn 1 0 false).cluster 8).spinTick + 4 ≤ (spinIn 1 0 false).time.tick ∧ ((after (.spinAbandon .ctl0 8) (spinIn 1 0 false)).cluster 8).spinAbandon = true ∧
    (((after (.spareInSweep 8) (spinIn 1 0 false)).cluster 8).lanes.map fun l => (l.noise, memGet l.lmem 4)).head? = some (5, 9) ∧
    (((after (.spareInSweep 8) (spinIn 1 0 true)).cluster 8).lanes.map fun l => (l.noise, memGet l.lmem 4)).head? = some (0, 0) ∧
    ((after (.spareInSwitch 8) (spinIn 3 16 false)).cluster 8).role = 1 ∧ ((after (.spareInSwitch 8) (spinIn 3 16 false)).cluster 0).role = 0 ∧
    ((spinIn 2 0 true).cluster 8).forcedAt < 1000 ∧ ((after (.spareInSwitch 8) (spinIn 2 0 true)).cluster 8).role = 1 ∧
    ((after (.spareInSwitch 8) (spinIn 1 0 true)).cluster 8).phase = 1 ∧ (spinIn 3 16 false).spinQ = none ∧ ((after (.spareInSwitch 8) (spinIn 3 15 false)).cluster 8).phase = 3 := by decide +kernel

/-- A sealed commit of tick 998 gives work set 0 an image. -/
def newImage (phase : Nat) : State := { spinIn phase 9 false with dict := { spares.dict with
  sealed := [(998, [{ kind := .trans, images := [(0, { steps := [⟨50, 400, [], []⟩], cmem := [(0, 7)], init := [[(300, 5)]] })] }])] } }

theorem test_image_commit : ((after (.commitApply 998) (newImage 3)).cluster 0).cmem = [(0, 7)] ∧
    (((after (.commitApply 998) (newImage 3)).cluster 0).lanes.map fun l => (l.lmem, l.noise)).take 2 = [([(300, 5)], 1), ([], 2)] ∧
    ((after (.commitApply 998) (newImage 3)).cluster 8).phase = 1 ∧ ((after (.commitApply 998) (newImage 3)).cluster 8).matchCnt = 0 ∧
    ((after (.commitApply 998) (newImage 3)).workSet 0).img.steps.length = 1 ∧ (newImage 3).dict.actions = [] := by decide +kernel

/-- The owner is still at work on a late step: it is loaded when the step ends (R125). -/
def lateImage : State := { newImage 3 with clusters := (newImage 3).clusters.map fun e => (e.1, { e.2 with stepping := e.1 == 0, condemned := e.1 == 0 }) }

theorem test_late_image : ((after (.commitApply 998) lateImage).cluster 0).loadDue = true ∧ ((after (.commitApply 998) lateImage).cluster 0).cmem = [] ∧
    (lateImage.cluster 0).condemned = true ∧
    ((after (.spareInSwitch 8) { lateImage with clusters := lateImage.clusters.map fun e => (e.1, { e.2 with matchCnt := 16 }) }).cluster 0).role = 3 := by decide +kernel

theorem test_rotation_and_march : spares.cfg 0xA000 1 ≠ 0 ∧ spares.pwr.therm < 2 ∧ spares.rotationSource = some 0 ∧ spares.spinQ = none ∧
    ((after .rotation spares).cluster 8).spinRotation = true ∧ (spares.cluster 8).phase = 0 ∧ ((after (.marchPass 8 false) spares).cluster 8).role = 3 ∧
    (after (.marchPass 8 false) spares).pwr.on = 0xFFFF ∧ ((after (.marchPass 8 true) spares).cluster 8).role = 0 := by decide +kernel

/-- Lane 3 of cluster 0 has been repeated in four ticks of the last 64; the work set has been silent. -/
def tired : State := { spares with
  clusters := [(0, { role := 1, wsv := true, replayTicks := [(3, [1000, 999, 998, 997])] })] ++ spares.clusters.drop 1
  csw := { spares.csw with cutTick := some 999 }, sil := { spares.sil with mon := [(0, { ticks := 100000 })] } }

theorem test_degraded_and_zero : 4 ≤ tired.replayCount 0 3 ∧ ((after (.laneDegraded 0 3) tired).cluster 8).spinStart = true ∧ tired.owner 0 = some 0 ∧
    tired.inSpin 0 = false ∧ tired.msTicks (cfgN (tired.conf 999) 0xD108 1 0).toNat ≤ 100000 ∧ (after (.wsZero 0) tired).pwr.gated = 1 ∧
    (after (.clusterReady 0) { noon with pwr := { noon.pwr with gated := 3, waking := 1 } }).pwr.gated = 2 := by decide +kernel

/-! ### Ticks, banks and units (chapters 02, 03, 06, 07) -/

/-- Context 5 is a valid tick-stream ingress of 2 channels; its tick 999 is in force, one frame waits for tick 998. -/
def stream : State := { noon with
  dict := { noon.dict with vals := [(dictKey 0x2005 1 0, .num 1), (dictKey 0x2005 3 0, .num 2)] }
  csw := { noon.csw with
    cutTick := some 998
    ctx := [(5, { inForce := [⟨999, 0, 1, { nch := 2, samples := [] }, false⟩], early := [⟨998, 0, 1, { nch := 2, samples := [4, 5] }, false⟩]
                  missA := 8, missB := 8, both := 8, dropped := [998, 997, 996, 995, 994, 993, 992, 991] })] } }

/-- Both paths of context 5 are reported down. -/
def downs : State := { stream with csw := { stream.csw with ctx := [(5, { downA := true, downB := true, both := 8 })] } }

theorem test_streams : 999 + 1 = stream.time.tick ∧ stream.csw.cutTick ≠ some 999 ∧ stream.pair.role ≠ 2 ∧
    tget [] (after (.cutoff { tick := 999 }) stream).csw.present 999 = [5] ∧ ((stream.ctx 5).early.map fun f => f.tick) = [998] ∧
    tfind (after (.earlyRelease 5) stream).csw.gather (bankKey 998 5) = some { nch := 2, samples := [4, 5] } ∧ stream.newestCount 5 = some 998 ∧ stream.countRun 5 8 998 = 8 ∧
    (stream.ctx 5).runRaised = none ∧ ((after (.streamTime 5) stream).common blkCsw).intStat = 0x10000 ∧
    (stream.ctx 5).downA = false ∧ ((after (.pathADown 5 false) stream).common blkCsw).intStat = 0x40000 ∧ (stream.ctx 5).downB = false ∧
    ((after (.pathADown 5 true) stream).common blkCsw).intStat = 0x80000 ∧ ((after (.pathAUp 5 false) downs).common blkCsw).intStat = 0x100000 ∧
    ((after (.pathAUp 5 true) downs).common blkCsw).intStat = 0x200000 := by decide +kernel

/-- The bank of tick 999 fills: its tag is 7; that of tick 998 is 6 (R21, R22). -/
theorem test_handshake_words : bankOf 7 999 = .now 999 ∧ bankOf 6 999 = .past 998 ∧ bankOf 9 999 = .none ∧ bankOf 6 998 = .now 998 ∧ bankOf 5 998 = .past 997 ∧
    (tfind (after (.handshakeWord ⟨blkCsw, 7, .gather 5 1 0, 44⟩) stream).csw.gather (bankKey 999 5)).map (fun d => d.samples) = some [0, 44] ∧
    (stream.ctx 6).dropped = [] ∧ tget 0 ((after (.handshakeWord ⟨blkCsw, 6, .gather 6 1 0, 44⟩) stream).ctx 6).cnt 1 = 1 ∧
    tfind (after (.handshakeWord ⟨blkCsw, 6, .output blkMix 3 1, 44⟩) stream).csw.out (bankKey 998 3) = some [0, 44] ∧ blkMix ∉ stream.csw.lateNow ∧
    tfind (after (.handshakeWord ⟨blkCsw, 6, .output (blkCl 0) 3 1, 44⟩) { stream with clusters := [(0, { role := 1, wset := 2 })], ws := [(2, { zeroOut := true })] }).csw.out
      (bankKey 998 3) = some [0, 0] ∧
    ((after (.handshakeWord ⟨blkCsw, 5, .output blkMix 3 1, 44⟩) stream).common blkMix).intStat = 4 ∧ bankOf 0 998 = .none ∧
    ((after (.handshakeWord ⟨blkCl 0, 0, .stepIn 2 0 0 0 false, 44⟩) stream).common (blkCl 0)).intStat = 16 ∧
    ((after (.handshakeWord ⟨blkMix, 0, .output blkMix 3 1, 44⟩) stream).common blkMix).intStat = 16 ∧ stream.outsideSpin (blkCl 0) = true ∧ stream.outsideSpin blkMix = true := by decide +kernel

/-- The spare runs in MATCH: a word with a wrong tag ends the spare-in (R134). -/
def matching : State := { stream with clusters := [(8, { phase := 3, matchCnt := 9 })] }

theorem test_wrong_tag_of_a_spare : matching.outsideSpin (blkCl 8) = false ∧
    ((after (.handshakeWord ⟨blkCl 8, 0, .output (blkCl 8) 3 1, 44⟩) matching).cluster 8).role = 3 := by decide +kernel

/-- A sealed commit for tick 998 that writes a fade length. -/
def sealedUnit : CUnit := { kind := .trans, writes := [⟨0x2005, 3, 0, .num 4⟩] }
def sealedAt : State := { noon with dict := { noon.dict with sealed := [(998, [sealedUnit])] } }

theorem test_commits_and_faults : tfind sealedAt.dict.sealed 998 = some [sealedUnit] ∧ tfind (after (.commitApply 998) sealedAt).dict.vals (dictKey 0x2005 3 0) = some (.num 4) ∧
    (after (.commitApply 998) sealedAt).dict.sealed = [] ∧ tfind noon.dict.sealed 998 = none ∧
    (after (.tickEvent { tick := 1001 }) { morning with top := { morning.top with classF := true } }).top.cause = 5 := by decide +kernel

theorem test_tick : noon.time.running = true ∧ noon.top.classF = false ∧ noon.top.leaveAt = none ∧ (after (.tickEvent { tick := 1001 }) noon).time.tick = 1001 ∧ noon.time.counter ≤ noon.tickStart 1001 ∧
    noon.time.counter ≤ (after (.tickEvent { tick := 1001 }) noon).time.counter ∧ 0 < noon.time.incEff ∧ noon.tickStart 1001 + noon.time.incEff ≤ 2 ^ 96 ∧
    noon.tickStart 1001 + noon.time.incEff ≤ noon.tickStart 1002 ∧ noon.dict.actions = [] ∧
    (after (.tickEvent { tick := 1001 }) noon).time.counter < noon.tickStart 1001 + noon.time.incEff := by decide +kernel

/-- A finished fade on strip 1, a queued change on strip 2, a stopping bus, a quiet detector, a running direct channel at unity gain, and three outputs. -/
def units : State := { noon with
  dict := { noon.dict with vals := [(dictKey 0xD100 1 7, .num 9)] }
  csw := { noon.csw with
    proc := 998
    fades := [⟨.inStrip 1, ⟨none, none⟩, ⟨some 3, none⟩, 1, 16, 990, none⟩]
    fadeQ := [⟨.inStrip 2, ⟨some 4, none⟩, 1, 16⟩] }
  mix := { noon.mix with buses := [(1, { running := true, stopping := true, gb := { len := 0 }, entries := [{ pos := 0, sig := 1, inv := false, gain := {}, leaving := true }] })] }
  sil := { noon.sil with det := [(7, { quiet := 100000, sig := some 9 })], log := [(9, 998, false)] }
  dp := { noon.dp with ch := [(63, { running := true, gain := { v0 := 134217728, v1 := 134217728 } })] }
  aln := { noon.aln with outs := [(1, { region := some (0, 98304), waiting := true, horizon := 100 }), (2, { region := some (0, 98304), stopping := true }),
    (3, { region := some (0, 98304), xtap := some ⟨0, 16, 16, 1⟩, target := 65536, cur := 0 })] } }

theorem test_fades_and_buses : units.csw.fadeOf (.inStrip 1) = some ⟨.inStrip 1, ⟨none, none⟩, ⟨some 3, none⟩, 1, 16, 990, none⟩ ∧
    (⟨.inStrip 1, ⟨none, none⟩, ⟨some 3, none⟩, 1, 16, 990, none⟩ : Fade).lastTick units.spt ≤ units.foxTickNow ∧ units.csw.afterFade units.spt 1000 (.inStrip 2) ≤ 1000 ∧ units.foxTickNow = 1000 ∧ (after (.foxFadeEnd (.inStrip 1)) units).csw.fades = [] ∧
    ((after (.foxFadeEnd (.inStrip 1)) units).csw.foxPast.map fun f => f.cons) = [.inStrip 1] ∧ units.csw.routeAt (.inStrip 2) 1000 = none ∧ units.csw.fades.length < 8192 ∧
    units.csw.fadeOf (.inStrip 2) = none ∧ ((after (.foxQueuedStart (.inStrip 2)) units).csw.fades.map fun f => (f.cons, f.first)).contains (.inStrip 2, 1000) = true ∧
    (tget ({} : Bus) units.mix.buses 1).gb.done units.processSample = true ∧ tget ({} : Bus) (after (.busStop 1) units).mix.buses 1 = {} ∧
    (tget ({} : Bus) (after (.entryDrop 1 0) units).mix.buses 1).entries = [] ∧ detSig units.dict.vals 7 = some 9 ∧ units.detHold units.dict.vals 7 ≤ 100000 ∧
    (after (.silent 7) units).sil.log = [(9, 998, true)] ∧
    (tget ({} : Detector) (after (.silent 7) units).sil.det 7).silent = true := by decide +kernel

theorem test_direct_and_aligned : (tget ({} : DpCh) units.dp.ch 63).running = true ∧ units.resetting 3 = false ∧ units.dpDue 4000 = [4000] ∧ ((after (.dpSample 4000 []) units).dp.ch.map fun e => e.2.pipe) = [[(4003, 0)]] ∧
    (after (.dpSample 4000 [63]) units).dp.late = 1 ∧ (tget ({} : AlnOut) units.aln.outs 1).largest (alnN units.dict.vals 1 6).toNat units.spt / 65536 + 13 ≤ 100 ∧
    (tget ({} : AlnOut) (after (.alnGainRampStart 1) units).aln.outs 1).waiting = false ∧ (tget ({} : AlnOut) units.aln.outs 2).faded units.processSample = true ∧
    tfind (after (.alnRegionRelease 2) units).aln.outs 2 = none ∧ (tget ({} : AlnOut) units.aln.outs 3).fading = false ∧
    (tget ({} : AlnOut) (after (.alnXtapEnd 3) units).aln.outs 3).cur = 65536 := by decide +kernel

/-! ### Media ports (chapters 02, 12) -/

/-- A Kapo tick-stream frame of engine 7, stream 9, one channel of 32-bit samples, for a tick: sample k is k. -/
def kapoFrame (tick : Nat) : List Byte :=
  let h := beBytes 1 0x10 ++ beBytes 1 0 ++ beBytes 2 7 ++ beBytes 2 9 ++ beBytes 2 0 ++ beBytes 4 tick ++ beBytes 2 0 ++ beBytes 2 (1 + 1 * 4096) ++
    beBytes 2 0 ++ beBytes 2 0 ++ beBytes 8 0
  h ++ beBytes 4 (crc32c h).toNat ++ (List.range 8).flatMap (beBytes 4)

/-- An Ethernet header with the EtherType of Kapo. -/
def ether : List Byte := beBytes 12 0 ++ beBytes 2 (noon.cfg 0xC100 2)

def kapoRx (tick : Nat) : MediaFrame := { port := 0, arrival := 1, len := 110, body := .kapo ether (kapoFrame tick) true }

/-- Port 0 is up; context 5 takes stream 9 of engine 7 on it. -/
def rx : State := { noon with
  ports := [(0, { up := true })]
  dict := { noon.dict with vals := [(dictKey 0x2005 1 0, .num 1), (dictKey 0x2005 2 0, .num 9), (dictKey 0x2005 3 0, .num 1), (dictKey 0x2005 9 0, .num 7)] } }

/-- The frame of every tick meets what the statements ask of an accepted frame. -/
theorem test_takes_frame (n : Nat) (h : n = 998 ∨ n = 999 ∨ n = 1000) : rx.TakesFrame (kapoRx n) ether (kapoFrame n) true 5 n := by
  rcases h with rfl | rfl | rfl <;> constructor <;> decide +kernel

/-- Tick 999 is on time, 1000 early, 998 late; after its cutoff 999 is late too (R46). -/
theorem test_tick_window : 999 + 1 = rx.time.tick ∧ rx.pastCutoff 999 (rx.rxStamp 0 1).toNat = false ∧
    { rx with csw := { rx.csw with cutTick := some 999 } }.pastCutoff 999 (rx.rxStamp 0 1).toNat = true ∧
    (tfind (after (.mediaFrameRx (kapoRx 999)) rx).csw.gather (bankKey 999 5)).map (fun d => d.samples) = some [0, 1, 2, 3, 4, 5, 6, 7] ∧
    ((after (.mediaFrameRx (kapoRx 1000)) rx).ctx 5).early.length = 1 ∧ ((after (.mediaFrameRx (kapoRx 998)) rx).ctx 5).dropped = [998] ∧
    ((after (.mediaFrameRx (kapoRx 999)) { rx with csw := { rx.csw with cutTick := some 999 } }).ctx 5).dropped = [999] := by decide +kernel

/-- CRC-32C of the nine characters 1 to 9 is 0xE3069283, its published check value (R59). -/
theorem test_crc32c : crc32c [0x31, 0x32, 0x33, 0x34, 0x35, 0x36, 0x37, 0x38, 0x39] = 0xE3069283 := by decide +kernel

/-- Port 0 holds CONTROL off and is itself paused for BULK. -/
def flow : State := { rx with
  dict := { rx.dict with vals := [(dictKey 0xC000 21 0, .num 5)] }
  ports := [(0, { up := true, xoffCtl := true, occCtl := 20000, pausedBulk := true })] }

def frameOf (b : RxBody) : MediaFrame := { port := 0, arrival := 5, len := 64, body := b }

def control (b : RxBody) : MediaFrame := { frameOf b with cls := .control }

/-- Port 0 without PFC. -/
def freely : State := { rx with dict := { rx.dict with vals := (dictKey 0xC000 15 0, .num 0) :: rx.dict.vals } }

theorem test_ports : 64 ≤ rx.cfg 0xC000 9 ∧ tget 0 ((after (.mediaFrameRx { frameOf .other with fcs := .bad }) rx).port 0).cnt 8 = 1 ∧
    freely.rxFails (control (.query (rx.srcIp4 0))) = none ∧ (after (.mediaFrameRx (control (.query (rx.srcIp4 0)))) freely).sent = [.answer 0] ∧
    (after (.mediaFrameRx (control (.query []))) freely).sent = [] ∧ freely.cfgOn 0xC000 15 = false ∧ (freely.port 0).paused false = false ∧ rx.cfgOn 0xC300 1 = false ∧ 1000 * (rx.port 0).ignore true ≤ (rx.rxStamp 0 5).toNat ∧ rx.pcpOf 0 false ≠ rx.pcpOf 0 true ∧
    rx.rxFails (frameOf (.pfc [(rx.pcpOf 0 true, 9)])) = none ∧ ((after (.mediaFrameRx (frameOf (.pfc [(rx.pcpOf 0 true, 9)]))) rx).port 0).pausedBulk = true ∧
    ((after (.mediaFrameRx (frameOf (.pfc [(rx.pcpOf 0 true, 0)]))) flow).port 0).pausedBulk = false := by decide +kernel

theorem test_pfc : flow.loOf 0 false < 20000 ∧ (after (.pfcXon 0 false (flow.loOf 0 false)) flow).sent = [.pfc 0 (flow.pcpOf 0 false) 0] ∧
    (after (.pfcXon 0 false (flow.loOf 0 false + 1)) flow).sent = [] ∧
    (after (.pfcRefresh 0 false) flow).sent = [.pfc 0 (flow.pcpOf 0 false) (flow.cfg 0xC000 20)] ∧ (flow.port 0).paused true = true ∧ flow.cfgOn 0xC000 21 = true ∧
    ((after (.pfcStorm 0 true) flow).port 0).pausedBulk = false ∧ ((after (.pfcStorm 0 true) flow).common (blkPort 0)).intStat = 0x100000 ∧
    ((after (.pfcPauseExpiry 0 true) flow).port 0).pausedBulk = false ∧
    (after (.pfcPauseExpiry 0 true) { flow with ports := [(0, { up := true, pausedBulk := true, held := [(true, 64, .answer 0), (false, 64, .answer 1)] })] }).sent = [.answer 0] := by decide +kernel

/-! ### The object dictionary (chapter 08) -/

/-- Noon with a session 3 of a Custodian. -/
def dict : State := { noon with sec := { noon.sec with sessions := [{ id := 3, role := 3 }] } }

def ask (items : List Item) (reqid : Nat := 5) (cid : Nat := 0) : DictReq := { path := .session 3 9 true, reqid := reqid, cid := cid, items := items }

/-- READ, WRITE and an unknown object: GRACE of the direct path. -/
def grace : Item := ⟨0x3001, 1, 3, 0, 1, []⟩
def graceTo (n : Nat) : Item := ⟨0x3001, 1, 3, 0, 1, beBytes 2 n⟩
def unknown : Item := ⟨0x3FFF, 1, 3, 0, 1, []⟩

/-- The state that a request of session 3 finds. -/
def opened (s : State) : State := (s.quiet.fresh.takePath (.session 3 9 true)).elim s Prod.fst
def taken (s : State) : State := (opened s).notePort (ask [grace])

theorem test_request_reaches : dict.Reaches (taken dict) (ask [grace]) ⟨5, 3⟩ where
  runs := by decide +kernel
  path := ⟨opened dict, by decide +kernel, rfl⟩
  fresh := by decide +kernel
  idle := by decide +kernel
  ver := rfl
  len := by decide
  opened := by decide

theorem test_read : memberOf 0x3001 1 = some { ty := 3, kind := .dyn, acc := .e, dflt := 500, hi := 1000 } ∧ (taken dict).checkItem ⟨5, 3⟩ false true grace = 0 ∧
    (after (.read (ask [grace])) dict).sent.length = 1 ∧ (taken dict).readElem 0x3001 1 0 { ty := 3, kind := .dyn, acc := .e, dflt := 500, hi := 1000 } = [1, 0xF4] ∧
    (taken dict).checkItem ⟨5, 3⟩ false true unknown ≠ 0 ∧ (taken dict).checkItem ⟨5, 3⟩ false false grace = 0 ∧
    (after (.describe (ask [grace])) dict).sent.length = 1 := by decide +kernel

theorem test_write : (ask [graceTo 1000]).items.all framed = true ∧ (taken dict).writeCodes ⟨5, 3⟩ [graceTo 1000] = [0] ∧
    (goodWrites [graceTo 1000] [0]).any (taken dict).badState = false ∧ (taken dict).pendingUnits < 256 ∧
    ((after (.write (ask [graceTo 1000])) dict).dict.units.map fun u => (u.apply, u.writes)) = [(1002, [⟨0x3001, 1, 0, .num 1000⟩])] ∧
    (tget [] (after (.write (ask [graceTo 1000] 5 255)) dict).dict.staged 255) = [⟨0x3001, 1, 0, .num 1000⟩] ∧
    ((taken dict).writeCodes ⟨5, 3⟩ [graceTo 1001]).any (· != 0) = true ∧ (after (.write (ask [graceTo 1001])) dict).dict.units = [] := by decide +kernel

/-- An image with one step, a region of STATE and one coefficient, and one whose regions overlap; the upload of one. -/
def upImage : Image := { steps := [⟨50, 400, [], []⟩], state := [(256, 256)], scratch := [(0, 256)], cmem := [(0, 7)], init := [[(300, 5)]] }
def upload (img : Image) (signed : Bool) : DictReq := { ask [] with upload := some (.workSet 0 img signed) }

/-- A program of an instruction word that no instruction has. -/
def badCode : Image := { upImage with code := [BitVec.ofNat 64 (7 * 2 ^ 60)] }

theorem test_upload : codeOk upImage = true ∧ codeOk badCode = false ∧ (after (.write (upload badCode true)) dict).dict.units = [] ∧ layoutOk upImage = true ∧ layoutOk { upImage with param := [(256, 512)] } = false ∧
    ((after (.write (upload upImage true)) dict).dict.units.map fun u => (u.apply, u.images)) = [(1002, [(0, upImage)])] ∧
    (after (.write (upload { upImage with param := [(256, 512)] } true)) dict).dict.units = [] ∧
    (after (.write (upload upImage false)) dict).dict.units = [] ∧ ((after (.write (upload upImage false)) dict).common blkSec).intStat = 0x400000 ∧
    dict.top.shadows = [] ∧ (taken dict).time.ticked = true := by decide +kernel

/-- Two work sets, the second fed by the first: 0.92 N - 2,000 is 90,000 cycles at 96 kHz and SPT 8, and a chain may take 92,000 with 1,800 for a wake. -/
def chained (m n : Nat) : List (Nat × Image) := [(0, { steps := [⟨0, m, [], [⟨.slot 5, 0, 0⟩]⟩] }), (1, { steps := [⟨0, n, [⟨.signal 9, 0, 0⟩], [⟨.slot 6, 0, 0⟩]⟩] })]
def slot5 : Tab Val := [(dictKey 0x3002 1 5, .num 9)]

theorem test_images_fit : (dict.withImages (chained 90000 0)).fits [] 0 = true ∧ (dict.withImages (chained 90001 0)).fits [] 0 = false ∧
    (dict.withImages (chained 200 90000)).fits slot5 0 = true ∧ (dict.withImages (chained 201 90000)).fits slot5 0 = false ∧
    (dict.withImages (chained 201 90000)).fits [] 0 = true := by decide +kernel

/-- A staged set 255. -/
def staged : State := { dict with dict := { dict.dict with staged := [(255, [⟨0x3001, 1, 0, .num 1000⟩])] } }

/-- The same in Morning, before ticks run, with a value that no commit passes: a port whose two VLAN priorities are equal. -/
def early : State := { staged with
  time := { staged.time with ticked := false, running := false }
  dict := { staged.dict with staged := [(255, [⟨0xC000, 12, 0, .num (portN [] 0 13)⟩])] } }

theorem test_commit_and_abort : tget [] (taken staged).dict.staged 255 ≠ [] ∧ ((after (.commit (ask [] 5 255)) staged).dict.units.map fun u => u.cid) = [255] ∧
    (taken staged).mayAccess ⟨5, 3⟩ 0x3001 1 { ty := 3, kind := .dyn, acc := .e, dflt := 500, hi := 1000 } true = true ∧
    (taken staged).dict.stagedImages = [] ∧ (taken early).time.ticked = false ∧ (taken early).unitPasses (taken early).dict.vals (tget [] (taken early).dict.staged 255) 0 false = false ∧
    tget [] (after (.commit (ask [] 5 255)) early).dict.staged 255 = [] ∧ (after (.commit (ask [] 5 255)) early).dict.units = [] ∧ (after (.commit (ask [] 5 7)) staged).dict.units = [] ∧ tget [] (after (.abort (ask [] 5 255)) staged).dict.staged 255 = [] := by decide +kernel

def slot63 : Item := ⟨0xD001, 1, 0, 63, 1, []⟩
def span63 : Item := ⟨0x3001, 0, 0, 63, 1, []⟩

/-- A request of one item fits a datagram; the answers to READ and DESCRIBE fit theirs. -/
theorem test_request_fits : dict.Fits 1 (ask [grace]) ∧ dict.Fits 2 (ask [graceTo 1000]) ∧ dict.Fits 3 (ask [] 5 255) ∧ dict.Fits 8 (ask [slot63]) ∧
    dict.Fits 2 (upload upImage true) ∧ 40 + (pad8 ((taken dict).describe 0x3001 1 { ty := 3, kind := .dyn, acc := .e, dflt := 500, hi := 1000 })).length ≤ (taken dict).responseMax (ask [grace]) := by decide +kernel

/-- Scene slot 63 holds a scene; slot 1 is being stored, slot 2 checked. -/
def scenes : State := { dict with dict := { dict.dict with slots := [(63, { valid := true }), (1, { running := true, captured := some [⟨0x3001, 1, 0, .num 5⟩], capturedGen := 4 }), (4, { running := true, valid := true, stale := true }),
  (2, { running := true, valid := true })] } }

theorem test_scenes : storeCode [span63] = 0 ∧ slotCode [slot63] = 0 ∧ mayScene ⟨5, 3⟩ .e = true ∧ mayScene ⟨5, 3⟩ .o = true ∧
    ((after (.sceneStore (ask [span63])) scenes).dict.units.map fun u => u.slot) = [63] ∧ ((after (.sceneRecall (ask [slot63])) scenes).dict.units.map fun u => u.slot) = [63] ∧
    (tget ({} : SceneSlot) (taken scenes).dict.slots 63).running = false ∧ (tget ({} : SceneSlot) (after (.sceneCheck (ask [slot63])) scenes).dict.slots 63).running = true ∧
    (tget ({} : SceneSlot) (after (.sceneStoreDone 1) scenes).dict.slots 1).gen = 4 ∧
    (tget ({} : SceneSlot) (after (.sceneCheckDone 4) scenes).dict.slots 4).stale = true ∧ (tget ({} : SceneSlot) (after (.sceneCheckDone 2) scenes).dict.slots 2).stale = false ∧ (tget ({} : SceneSlot) (after (.sceneCheckDone 2) scenes).dict.slots 2).running = false := by decide +kernel

/-! ### Owners, sessions and keys (chapter 11) -/

/-- An owned engine with session 3 and its handshake 4 from address 7 under way, nonce and challenge 11, and media key 1023 to switch. -/
def owned : State := { noon with
  time := { noon.time with counter := 600 * 10 ^ 9 * 2 ^ 32 }
  sec := { noon.sec with
    sessions := [{ id := 3, role := 3, notAfter := 5 }], handshakes := [(4, 7, 2)], nonce := some 11, challenge := some 11, secMin := 2
    ownerHash := [(0, [1])], used := 1, grant := some ⟨3, 4, 60⟩
    keys := [(1023, { next := [6], switch := 998, units := 2 ^ 31 - 1 }), (1, { units := 1879048192 })]
    portKeys := [(3, { next := [6], switch := 998 })] }
  fab := { noon.fab with runSecVer := 3 } }

def hello7 : HelloMsg := { src := 7, role := 2 }
def prove4 : ProveMsg := { src := 7, session := 4, sigOk := true, role := 1, scope := List.replicate 16 0 }

theorem test_handshakes : owned.takesHandshake hello7.src hello7.ms = true ∧ (after (.handshakeHello hello7) owned).sec.handshakes.length = 2 ∧
    owned.sec.ignores 7 0 = false ∧ owned.sec.handshakes.find? (fun x => x.1 == 4 && x.2.1 == 7) = some (4, 7, 2) ∧ owned.proveOk prove4 = true ∧
    ((after (.handshakeProve prove4) owned).sec.sessions.map fun y => (y.id, y.role)) = [(4, 1), (3, 3)] ∧
    (after (.handshakeProve { prove4 with session := 9 }) owned).sec.hsFail = 1 ∧ owned.time.todSet = true ∧
    (after (.sessionIdle 3) owned).sec.sessions = [] := by decide +kernel

/-- The credential of session 3 ended at 5 ns. -/
theorem test_credential_has_expired : (still owned).sec.sessions.all (fun y => y.notAfter != 0 && decide (y.notAfter < (still owned).nowNs)) = true ∧
    (still owned).sec.sessions.length = 1 := by decide +kernel

/-- An ownership request; UNOWNED, slot 0 used before. -/
def ownerReq (op : Nat) (signer hash : List Byte) (via : OwnerVia) : OwnerReq :=
  { via := via, nonce := 11, age := 300, serial := List.replicate 16 0, op := op, newHash := hash, signer := signer, sigOk := true }
def unowned : State := { owned with sec := { owned.sec with life := 0, ownerHash := [] } }

theorem test_ownership : unowned.requestReaches .hostp = true ∧ unowned.sec.freeSlot = some 1 ∧ unowned.requestOk (ownerReq 1 [9] [9] .hostp) = true ∧
    (after (.enrol (ownerReq 1 [9] [9] .hostp)) unowned).sec.used = 3 ∧ tget [] (after (.enrol (ownerReq 1 [9] [9] .hostp)) unowned).sec.ownerHash 1 = [9] ∧
    owned.requestReaches .session = true ∧ owned.byOwner (ownerReq 2 [1] [8] .session) = true ∧
    (after (.rotate (ownerReq 2 [1] [8] .session)) owned).sec.ownerHash = [(1, [8])] ∧ owned.byOwner (ownerReq 3 [1] [] .session) = true ∧
    (after (.release (ownerReq 3 [1] [] .session)) owned).sec.life = 0 ∧ (after (.release (ownerReq 3 [1] [] .session)) owned).sec.keys = [] ∧
    owned.requestOk { ownerReq 3 [1] [] .session with age := 301 } = false ∧
    ((after (.release { ownerReq 3 [1] [] .session with age := 301 }) owned).common blkSec).intStat = 0x800000 := by decide +kernel

def opening : OpenResp := { nonce := 11, age := 299, serial := List.replicate 16 0, role := 4, access := 31, expiry := 604800, signer := .owner, sigOk := true }

theorem test_grants_and_fuses : (after (.close 0x7F true) owned).sec.fuses = 0x3F ∧ owned.sec.secMin < owned.fab.runSecVer ∧ (after (.commitFw true) owned).sec.secMin = 3 ∧
    (after .closeNow owned).sec.grant = none ∧ owned.jtag.ir ≠ .debug ∧
    (after .closeNow { owned with jtag := { owned.jtag with ir := .debug }, sec := { owned.sec with fuses := 1 } }).jtag.ir = .bypass ∧ (after .grantExpiry owned).sec.grant = none ∧ owned.sec.trngOk = true ∧ (after (.challenge 0) owned).sec.challenge.isSome = true ∧
    (after .nonce owned).sec.nonce.isSome = true ∧ owned.responseOk opening = true ∧ (after (.response opening) owned).sec.grant = some ⟨31, 4, 604800⟩ ∧
    owned.responseOk { opening with age := 300 } = false ∧ (after (.response { opening with age := 300 }) owned).sec.openFails = 1 := by decide +kernel

theorem test_keys : (owned.mediaKey 1023).next ≠ [] ∧ (owned.mediaKey 1023).switch + 2 ≤ owned.time.tick ∧
    ((after (.keySwitch (.media 1023)) owned).mediaKey 1023).cur = [6] ∧ (tget ({} : KeySlot) (after (.keySwitch (.port 3)) owned).sec.portKeys 3).an = 1 ∧
    (owned.mediaKey 1).aged = false ∧ ((after (.keyAge (.media 1)) owned).mediaKey 1).aged = true ∧
    (owned.mediaKey 1023).expired = false ∧ ((after (.keyExpired (.media 1023)) owned).common blkSec).intStat = 0x8000000 ∧
    (after .trngFail owned).sec.trngOk = false := by decide +kernel

/-- An engine of a pair that has agreed no mirror key yet. -/
def fresh : State := { noon with dict := { noon.dict with vals := [(dictKey 0xB000 1 0, .num 1)] } }

theorem test_mirror_rekey : fresh.paired = true ∧ fresh.sec.mirrorNext = none ∧ fresh.pair.rekey = none ∧ (after .mirrorRekey fresh).pair.rekey = some 1000 ∧
    (after .mirrorRekey fresh).sec.mirrorNext.isSome = true := by decide +kernel

/-! ### Registers, mailboxes and the bus (chapters 14, 20) -/

/-- Context 4095 has counted, port 47 too; a capture of TIME and one for the host are ready. -/
def regs : State := { noon with
  csw := { noon.csw with ctx := [(4095, { cnt := [(20, 7)] })], mail := { core := { valid := true, data := List.range 21 |>.map fun i => w32 i } } }
  ports := [(47, { cnt := [(24, 8)] })]
  refsel := { noon.refsel with entries := [(15, { f := -2 })], mail := { host := { capturing := some [1, 2, 3] } } } }

/-- Selecting commands latch the words of what they select into the writer's own instance (R470). -/
theorem test_mailboxes : regs.MayWrite .ctl0 blkCsw 0x100 ∧ regs.MayWrite .ctl0 blkSil 0x104 ∧ regs.MayWrite .ctl0 blkAln 0x114 ∧
    regs.MayWrite .ctl0 blkRefsel 0x10C ∧ regs.MayWrite .ctl0 blkMemc 0x120 ∧ regs.MayWrite .ctl0 blkTime 0x110 ∧ regs.MayWrite .ctl0 blkCsw 0x1C ∧
    regs.MayWrite .ctl0 (blkPort 47) 0x100 ∧ regs.csw.mail.core.capturing = none ∧
    ((after (.cntSelSnap .ctl0 4095) regs).csw.mail.core.capturing.map fun l => at? 0 l 20) = some 7 ∧
    (((after (.cntCtlSnap .ctl0 47) regs).port 47).mail.core.capturing.map fun l => at? 0 l 24) = some 8 ∧
    (after (.mselSnap .ctl0 15) regs).refsel.mail.core.capturing = some [0xFFFFFFFE, 0, 0] ∧
    (after (.mailboxCaptureDone .refMsel true) regs).refsel.mail.host.valid = true ∧ regs.MayRead .ctl0 blkCsw 0x160 ∧
    (after (.mailboxLastRead .ctl0 (regAddr blkCsw 0x160) 4) regs).sent = [.data [20]] ∧
    (after (.mailboxLastRead .ctl0 (regAddr blkCsw 0x160) 4) regs).csw.mail.core.valid = false := by decide +kernel

/-- Cluster 8 has a peak; the SLOW queue of TW1 holds one write. -/
def slow (n : Nat) : State := { noon with
  clusters := [(8, { peak := 9 })]
  commons := [(blkTw1, { slowQ := List.replicate n ⟨0x104, 0⟩ }), (blkCsw, { intStat := 0x30004 })] }

theorem test_registers : noon.MayRead .ctl0 (blkCl 8) 0x108 ∧ ((after (.rcRead .ctl0 (regAddr (blkCl 8) 0x108) 4) (slow 0)).cluster 8).peak = 0 ∧
    noon.MayWrite .ctl0 blkTime 0x100 ∧ (after (.registerWrite .ctl0 (regAddr blkTime 0x100) 4 5) noon).time.incFrac = 5 ∧ noon.MayWrite .ctl0 blkCsw 0xC ∧
    ((after (.registerWrite .ctl0 (regAddr blkCsw 0xC) 4 0x10000) (slow 0)).common blkCsw).intStat = 0x20004 ∧ noon.MayWrite .ctl0 blkTw1 0x100 ∧
    (slow 3).MayWrite .ctl0 blkTw1 0x100 ∧ (((after (.registerWrite .ctl0 (regAddr blkTw1 0x100) 4 5) (slow 3)).common blkTw1).slowQ.map fun w => w.off) = [0x104, 0x104, 0x104, 0x100] ∧
    (slow 4).MayWrite .ctl0 blkTw1 0x100 ∧ (after (.registerWrite .ctl0 (regAddr blkTw1 0x100) 4 5) (slow 4)).fab.berrCause = 7 ∧
    (after (.slowWriteEffect blkTw1) { noon with commons := [(blkTw1, { slowQ := [⟨0x100, 0x77⟩] })] }).tw1.addr = 0x77 := by decide +kernel

/-- A burst of 16 words to the bulk memory, one that no target takes. -/
def burst16 : BurstReq := { master := .ctl0, addr := 0x20000000, beats := 16, width := 4, write := true, data := List.range 16 }

theorem test_bursts : noon.burstCause burst16 = none ∧ (noon.targetOf burst16.addr).1 = 3 ∧ Memory.wf noon.fab.hall = true ∧
    memWord (after (.burst burst16) noon).fab.hall ((noon.targetOf burst16.addr).2 + 60) = 15 ∧
    noon.burstCause { burst16 with write := false } = none ∧ (after (.burst { burst16 with write := false }) noon).sent.length = 16 ∧
    (after (.burst { burst16 with addr := 0x70000000 }) noon).sent = List.replicate 16 .busError ∧
    (after (.burstTo { burst16 with write := false } 15 true) noon).fab.btoDone = 15 ∧
    ((after (.burstTo { burst16 with write := false } 15 true) noon).common blkFab).intStat = 0x10000 := by decide +kernel

/-! ### Memories and firmware (chapters 13, 14) -/

def single : SramErr := { region := 2, mac := 5, row := 9, word := 3, mem := .other, bits := [6] }
def double : SramErr := { single with mem := .output 6 998 1, bits := [3, 5] }
def doubleIn : SramErr := { double with mem := .gather 5 998 0 }

/-- The row of `single` waits for its write-back; channel 1 is the spare of the map. -/
def rows : State := { noon with
  sramc := { noon.sramc with pendingWB := [(macroKey 2 5, 9, 3)], spares := [(macroKey 2 5, 3)] }
  csw := { noon.csw with out := [(bankKey 998 6, [1, 2])], gather := [(bankKey 998 5, { nch := 1, samples := [7] })] }
  memc := { noon.memc with s1 := 2, spare := 1 } }

/-- One wrong bit is corrected, two are seen, and four whose positions cancel out are not (R425). -/
theorem test_secded : secded single.bits = .corrected ∧ secded double.bits = .uncorrectable ∧ secded [3, 5, 9, 15] = .clean ∧ secded [32, 16, 7] = .uncorrectable := by
  decide +kernel

theorem test_sram : noon.sramc.pendingWB.contains (macroKey 2 5, 9, 3) = false ∧ (after (.sramReadError single) rows).sramc.corr = 0 ∧ (after (.sramReadError single) noon).sramc.corr = 1 ∧
    tfind (after (.sramReadError double) rows).csw.out (bankKey 998 6) = some [1, 0] ∧
    (tfind (after (.sramReadError doubleIn) rows).csw.gather (bankKey 998 5)).map (fun b => b.samples) = some [0] ∧ secded doubleIn.bits = .uncorrectable ∧
    rows.sramc.pendingWB.contains (macroKey 2 5, 9, 3) = true ∧
    ((after (.sramWriteBack (macroKey 2 5) 9 ⟨3, false, true⟩) rows).common blkSramc).intStat = 0 ∧ ((after (.sramWriteBack (macroKey 2 5) 9 ⟨3, false, false⟩) rows).common blkSramc).intStat = 0x10000 ∧
    tget 0 rows.sramc.spares (macroKey 2 5) < 4 ∧ rows.sramc.repair = none ∧ (after (.sramWriteBack (macroKey 2 5) 9 ⟨3, true, false⟩) rows).sramc.repair = some (macroKey 2 5, 9) ∧
    rows.sramc.repairQ = none ∧ tget 0 (after (.rowRepaired (macroKey 2 5) 9) (after (.sramWriteBack (macroKey 2 5) 9 ⟨3, true, false⟩) rows)).sramc.spares (macroKey 2 5) = 4 ∧
    (after (.badgerPass []) rows).sramc.passes = 1 := by decide +kernel

/-- A line of zeros of which one codeword comes with two symbols wrong; with three, in one read or in both. -/
def corrected : DramErr := { chan := 2, line := 77, row := 4, errs := [⟨1, 5, 0x41⟩, ⟨1, 0, 7⟩] }
def retried : DramErr := { corrected with errs := [⟨0, 4, 1⟩, ⟨0, 9, 2⟩, ⟨0, 15, 7⟩] }
def lost : DramErr := { retried with retry := retried.errs }

/-- The roots of the generator are 1, 2, 4 and 8 (R434): codewords are 0 there, two wrong symbols are corrected, three are seen. -/
theorem test_outer_code : [0, 1, 2, 3].map (rsSyndrome (rsEncode (List.range 16))) = [0, 0, 0, 0] ∧ gfMul 2 0x80 = 0x1D ∧
    rsRead (List.range 16) [(4, 1), (9, 2), (15, 7)] = none := by decide +kernel

/-- The codeword of the bytes 0 to 15, and what it is found to be with symbols 0 and 5 wrong. -/
theorem test_outer_code_corrects : rsEncode (List.range 16) = [187, 56, 15, 140, 0, 1, 2, 3, 4, 5, 6, 7, 8, 9, 10, 11, 12, 13, 14, 15] ∧
    (rsPattern [188, 56, 15, 140, 0, 64, 2, 3, 4, 5, 6, 7, 8, 9, 10, 11, 12, 13, 14, 15]).map (fun l => l.map (·.1)) = some [0, 5] := by decide +kernel

/-- A channel is being migrated; one is under repair. -/
def migrating : State := after (.migrate 2) rows
def repairing : State := after (.repairAction 1) rows

theorem test_line_reads : rows.memc.holdsSlot 2 = true ∧ none ∉ readWords (rows.memc.line 77) corrected.errs ∧
    ((readWords (rows.memc.line 77) corrected.errs).any fun x => x.any fun y => !y.2.isEmpty) = true ∧ none ∈ readWords (rows.memc.line 77) lost.errs ∧
    none ∉ readWords (rows.memc.line 77) [] ∧ 77 ∉ rows.memc.poison := by decide +kernel

theorem test_dram : 4 ∉ (rows.chan 2).hits ∧
    (after (.dramReadError lost) rows).memc.poison = [77] ∧ (after (.dramReadError { corrected with errs := [] }) rows).memc.ce = 0 ∧ rows.chState 2 < 5 ∧
    ((after (.patrolScrub 2 []) rows).chan 2).hits = [] ∧ ((after (.ecsRead 2 [1, 2]) rows).chan 2).ecs = [1, 2] ∧ rows.cfg 0xD200 4 ≠ 0 ∧ rows.chState 2 ≤ 1 ∧
    rows.memc.phase ≠ 1 ∧ rows.chState rows.memc.spare = 2 ∧ migrating.memc.phase = 1 ∧ (after .migrated migrating).memc.s1 = 1 ∧
    (after .migrated migrating).memc.spare = 2 ∧ rows.chState 1 = 2 ∧ rows.domOn 6 = true ∧ rows.memc.ppr = none ∧ repairing.memc.ppr = some 1 ∧
    repairing.memc.pprQ = none ∧ (after (.repairAction 1) migrating).memc.pprQ = some 1 ∧ repairing.top.resumeWaits = none ∧ repairing.memc.migQ = none ∧ (after (.pprComplete true) repairing).memc.ppr = none ∧
    ((after (.pprComplete false) repairing).chan 1).state = 5 := by decide +kernel

/-- Noon with a standby in a state of R455, an old image and what the firmware watches. -/
def standby (n : Nat) : State := { noon with
  fab := { noon.fab with stby := n, runGen := 9, stagedGen := 10, oldGen := 8, handover := some 1000, watchEnd := some 1000, runFlash := 1 } }

theorem test_watch : noon.time.ticked = true ∧ (after .sealMiss (standby 1)).fab.primary = 1 ∧ (after .sealMiss (standby 2)).fab.runGen = 10 ∧
    (after .sealMiss (standby 2)).fab.watchEnd = some 2024 ∧ (after .sealMiss (standby 3)).fab.runGen = 8 ∧ (after .sealMiss (standby 0)).top.classF = true ∧
    (after .heartbeatMiss { standby 1 with time := { noon.time with ticked := false } }).fab.primary = 1 := by decide +kernel

def image : FwImage := { gen := 10, secVer := 0 }

theorem test_images : (standby 1).imageOk image = true ∧ (after (.stage 0 (some image)) (standby 1)).fab.stage = 1 ∧ (after (.stage 1 (some image)) (standby 1)).fab.stage = 4 ∧
    (after .stagedReady (after (.stage 0 (some image)) (standby 1))).fab.stby = 2 ∧ noon.fab.watchEnd = none ∧ (after (.arm 1016) noon).fab.handover = some 1016 ∧
    (after (.arm 1015) noon).fab.handover = none ∧ (after .fwHandover (standby 2)).fab.runGen = 10 ∧ (after .fwHandover (standby 1)).fab.fwHandover = 4 ∧
    (after .fwRelease (standby 3)).fab.stby = 1 ∧ (after (.erase 0) { standby 1 with fab := { (standby 1).fab with pagesA := [(0, [1])] } }).fab.pagesA = [] ∧
    (after (.erase 1) { standby 1 with fab := { (standby 1).fab with pagesB := [(0, [1])] } }).fab.pagesB = [(0, [1])] := by decide +kernel

/-! ### Owl and token (chapter 10) -/

/-- A SHADOW of a pair whose Owl is engine 9: in sync, with the STANDBY of this tick. -/
def shadow : State := { noon with
  dict := { noon.dict with vals := [(dictKey 0xB000 1 0, .num 1), (dictKey 0xB000 3 0, .num 9), (dictKey 0xB000 4 0, .num 2)] }
  pair := { noon.pair with role := 2, epoch := 65535, inSync := true, standbyRx := some (1000, 1), stbySent := some 999, heldAt := 1000, owlTick := 999, mirrorTick := 999 } }

/-- The ACTIVE of the pair, in its provisional time. -/
def active : State := { shadow with pair := { shadow.pair with role := 1, prov := true, standbyRx := none } }

theorem test_engine_messages : shadow.pairUp = true ∧ active.pair.lease = none ∧ active.holdsToken = false ∧ ((after .helloSend active).sent.map owlOf) = [[1, 9, 65535, 1000, 0, 4]] ∧
    ((after .beatSend active).sent.map owlOf).map (List.take 3) = [[2, 9, 65535]] ∧ (after .statusSend shadow).pair.stbySent = some 1000 ∧ epochFresh 1 65535 = true ∧ epochFresh 65534 65535 = false ∧
    (after (.lease 65535 1000 1004) active).pair.lease = some (1000, 1004) ∧ (after (.grant 1 0) active).pair.prov = false ∧ (after (.grant 1 0) shadow).pair.grant = some (1, 0) ∧
    (after (.demote 65535) active).pair.handoverAt = some 1001 ∧ (after (.standby 1 1000) { shadow with pair := { shadow.pair with standbyRx := none } }).pair.standbyRx = some (1000, 1) ∧
    ((after .noOwl { shadow with pair := { shadow.pair with owlTick := 992 } }).common blkPair).intStat = 0x1000000 ∧
    (after .noOwl { shadow with pair := { shadow.pair with owlTick := 993 } }).pair.noOwl = false ∧ (after (.pairHandover 1016) active).sent.map owlOf = [[7, 9, 65535, 1000, 1016, 0]] := by decide +kernel

/-- The same at a tick that 16 divides: HEALTH follows the BEAT of a SHADOW, in 32 more bytes. -/
def sixteenth : State := { shadow with time := { shadow.time with tick := 1008 } }

theorem test_health_leaves : 1008 % 16 = 0 ∧ ((after .beatSend sixteenth).sent.map owlOf).map (List.take 2) = [[2, 9], [9, 9]] ∧
    ((after .beatSend { sixteenth with pair := active.pair }).sent.map owlOf).map (List.take 2) = [[2, 9]] ∧ sixteenth.pair.role = 2 := by decide +kernel

/-- The boundary of tick 1000 brings no BEACON: the SHADOW takes over under EPOCH 1 (R327, R331). -/
theorem test_takeover : shadow.mayTake 1000 = true ∧ shadow.pair.held = [] ∧ (after (.takeover 1000) shadow).pair.epoch = 1 ∧ (after (.takeover 1000) shadow).pair.role = 1 ∧
    ({ shadow with pair := { shadow.pair with beacon := some 1000 } } : State).mayTake 1000 = false := by decide +kernel

/-- Owl service 7 of engines 3 and 4: 3 is ACTIVE at EPOCH 65535, 4 is eligible. -/
def owl : State := { noon with
  dict := { noon.dict with vals := [(dictKey 0xB107 1 0, .num 1), (dictKey 0xB107 2 0, .num 3), (dictKey 0xB107 3 0, .num 4)] }
  owl := [(7, { epoch := 65535, active := some 3, stbySent := true, lastE := 1000
                a := { beatTick := some 999 }, b := { inSync := true, beatTick := some 999, healthTick := some 990, lynxMatch := 16 } })] }

/-- No LEASE leaves, and nothing has come from engine 4: it is lost. -/
def owlSilent : State := { owl with owl := [(7, { epoch := 65535, active := some 3, stbySent := true, lastE := 900, noLease := true })] }

theorem test_lost_shadow : owlSilent.beatsMissing 7 4 = true ∧ (owlSilent.owlRec 7 4).lost = false ∧ (after (.owlTickSend 7) owlSilent).sent = [] ∧
    ((after (.owlTickSend 7) owlSilent).common blkPair).intStat = 0x40000 ∧ ((after (.owlTickSend 7) owlSilent).owlRec 7 4).lost = true := by decide +kernel

def owlIdle : State := { owl with owl := [(7, { epoch := 4, a := { code := 2, epoch := 9 } })] }

theorem test_owl : owl.owlOn 7 = true ∧ owl.beatsMissing 7 3 = false ∧ owl.owlOther 7 3 = 4 ∧ owl.eligible 7 4 false = true ∧ owl.beatsMissing 7 4 = false ∧
    ((after (.owlTickSend 7) owl).sent.map owlOf).map (List.take 5) = [[3, 3, 65535, 1000, 1004], [4, 4, 1, 1000, 1004]] ∧
    owl.owlKnows 7 4 = true ∧ ((after (.take 7 4 1 999) owl).owlSvc 7).taker = some 4 ∧ ((after (.owlTickSend 7) (after (.take 7 4 1 999) owl)).owlSvc 7).active = some 4 ∧
    ((after (.handover 7 1003) owl).owlSvc 7).handoverReq = some 1003 ∧ ((after (.handover 7 1002) owl).owlSvc 7).handoverReq = none ∧
    ((after (.hello 7 { engine := 3, epoch := 9, code := 2 }) owlIdle).owlSvc 7).waiting = true ∧
    ((after (.owlGrantWait 7) (after (.hello 7 { engine := 3, epoch := 9, code := 2 }) owlIdle)).owlSvc 7).epoch = 10 ∧
    ((after (.beat 7 { engine := 3, epoch := 65535, tick := 1000 }) owl).owlRec 7 3).beatTick = some 1000 ∧
    ((after (.health 7 { engine := 4, tick := 1000, lynxMatch := 16, impaired := 0, selfTest := 0 }) owl).owlRec 7 4).healthTick = some 1000 := by decide +kernel

/-! ### The mirror and the rejoin (chapter 10) -/

/-- The SHADOW with context 5 of two EPOCHs for tick 999, an own Lynx record of stage 998, and a silent mirror. -/
def mirror : State := { shadow with
  dict := { shadow.dict with vals := shadow.dict.vals ++ [(dictKey 0x2005 1 0, .num 1), (dictKey 0x2005 3 0, .num 1)] }
  csw := { shadow.csw with ctx := [(5, { epochCur := some 3, inForce := [⟨999, 3, 1, { nch := 1, samples := [7] }, false⟩] })] }
  pair := { shadow.pair with lynxOwn := [(998, [5]), (997, [5])], mirrorTick := 992, stbySent := none } }

/-- The ACTIVE has the data of context 5 for tick 999. -/
def source : State := { mirror with
  csw := { mirror.csw with gather := [(bankKey 999 5, { nch := 1, samples := [7] })], present := [(999, [5])] }
  pair := { mirror.pair with role := 1, mateSync := true, lynxHist := List.replicate 16 1, snap := some { tick := 1000 }, capturing := some 1000 } }

theorem test_verdicts : mirror.adopts = true ∧ mirror.beforeProcess 999 = true ∧ mirror.beforeProcess 998 = false ∧
    tget [] (after (.verdict ⟨999, [], [], []⟩) mirror).csw.present 999 = [] ∧ 5 ∈ gatherCtxs mirror.dict.vals ∧ ctxMode mirror.dict.vals 5 = 0 ∧
    (mirror.ctx 5).inForce = [⟨999, 3, 1, { nch := 1, samples := [7] }, false⟩] ∧ (mirror.ctx 5).epochCur = some 3 ∧
    (tfind (after (.verdict ⟨999, [5], [], []⟩) mirror).csw.gather (bankKey 999 5)).map (fun d => d.samples) = some [7] ∧
    tfind source.csw.gather (bankKey 999 5) = some { nch := 1, samples := [7] } ∧ source.isPresent 999 5 = true ∧
    (tfind (after (.repair ⟨999, 5, [8], []⟩) mirror).csw.gather (bankKey 999 5)).map (fun d => d.samples) = some [8] ∧ mirror.csw.cutTick = none ∧
    (after (.tdmRecord 999 []) mirror).pair.tdmRec = [999] ∧ 7 < mirror.spt ∧
    ((tfind (after (.tdmRecord 999 [(3 * mirror.spt + 7, 5)]) mirror).csw.gather (bankKey 999 (tdmIndex 3))).map fun d => d.samples[7]?) = some (some 5) ∧
    tfind (after (.commitRecord 999 [sealedUnit]) mirror).dict.sealed 999 = some [sealedUnit] := by decide +kernel

/-- An engine that rejoins, in a phase of R353. -/
def joining (n : Nat) : State := { morning with
  dict := shadow.dict
  pair := { morning.pair with rejoin := n, matchRun := 64, snap := some { tick := 998, digests := List.replicate 8 0 } } }

theorem test_mirror_signals : mirror.paired = true ∧ (after (.beacon 1001 3) mirror).pair.epoch = 3 ∧ source.paired = true ∧
    (after (.statusRecord ⟨999, true, true, false⟩) source).pair.status = some (999, true, false) ∧ (after (.fence 1002 3) source).pair.fenceB = some 1002 ∧
    (after (.fence 1002 3) { mirror with pair := { mirror.pair with noOwl := true } }).pair.grant = some (4, 1002) ∧
    (after (.fence 1000 3) { mirror with pair := { mirror.pair with noOwl := true } }).pair.grant = some (4, 1001) ∧ mirror.lynxCounts = true ∧
    ((after (.lynx ⟨998, [6]⟩) mirror).common blkPair).intStat = 0x200000 ∧ (joining 6).lynxCounts = false ∧ mirror.top.state = .noon ∧ mirror.time.tick < 1002 ∧
    tfind mirror.pair.lynxOwn 998 = some [5] ∧ (after (.lynx ⟨998, [5]⟩) mirror).pair.streak = 1 ∧ mirror.lynxOn = true ∧
    (after (.lynxAbsent 997) mirror).pair.lynxHist = [2] ∧ source.pair.lynxFails = true ∧ source.pair.lynxLostAt = none ∧ (after .lynxLost source).pair.lynxLostAt = some 1000 ∧
    mirror.pair.mirrorTick + 8 ≤ mirror.time.tick ∧ (after .mirrorSilence mirror).pair.inSync = false := by decide +kernel

/-- It has loaded the capture and computes tick 998. -/
def catching : State := { joining 4 with csw := { (joining 4).csw with proc := 998 }, pair := { (joining 4).pair with joinS := some 998 } }

def joinRec (p : Option Nat) : JoinRec := { s := p, engine := 0, partner := 0, owl := 9, fs := 96000, spt := 8, cutoff := 60, digests := List.replicate 8 0 }

theorem test_rejoin : source.joinAgrees (joinRec none) = true ∧ (after (.join (joinRec none)) source).pair.capturing = some 1016 ∧
    (joining 1).joinAgrees (joinRec (some 5)) = true ∧ (after (.join (joinRec (some 5))) (joining 1)).pair.rejoin = 2 ∧
    source.joinAgrees { joinRec none with spt := 16 } = false ∧ ((after (.join { joinRec none with spt := 16 }) source).common blkPair).intStat = 0x10000 ∧
    (after (.capture 1000) source).pair.capturing = none ∧ (after (.snapRecord { part := 0, whole := some { tick := 999 } }) (joining 2)).pair.rejoin = 3 ∧
    (joining 3).refusesSnap { tick := 998, digests := List.replicate 8 0 } 0 false = false ∧ (joining 3).refusesSnap { tick := 998, digests := [] } 0 false = true ∧ (joining 3).dict.sealed = [] ∧ (joining 3).dict.owed = [] ∧ catching.holdsCommits = true ∧
    (after (.catchUp 0 false) catching).pair.rejoin = 5 ∧ (after (.catchUp 0 false) { joining 3 with time := { noon.time with tick := 999 } }).pair.rejoin = 3 ∧ (after (.catchUp 0 false) (joining 3)).pair.rejoin = 5 ∧ (joining 3).pair.retries < 3 ∧
    ((after (.catchUp 0 true) (joining 3)).common blkPair).intStat = 0x800000 ∧ (after .refill (joining 5)).pair.rejoin = 6 ∧
    (joining 6).serviceReady = true ∧ (after .inSync (joining 6)).top.state = .noon ∧ (after .inSync (joining 6)).pair.role = 2 := by decide +kernel

/-! ### Links and groups (chapter 12) -/

/-- Media ports 4 and 31 and the lanes of group 15, PL 14 and 15, are enabled; port 31 runs at 25 Gb/s. -/
def links : State := { noon with
  dict := { noon.dict with vals := [(dictKey 0xC004 4 0, .num 1), (dictKey 0xC01F 4 0, .num 4), (dictKey 0xC01F 22 0, .num 1), (dictKey 0xC01F 23 0, .num 1), (dictKey 0xC02F 5 0, .num 1), (dictKey 0xC004 5 0, .num 1),
    (dictKey 0xC20F 1 0, .num 0xC000), (dictKey 0xC20F 2 0, .num 1), (dictKey 0xC02F 31 0, .num 100)] }
  ports := [(31, { up := true, preempt := true, measured := true, low := 9 }), (47, { up := true, measured := true, low := 120 })] }

/-- Group 15 runs on both lanes; one frame waits, none is unacknowledged. -/
def wait1 : PlFrame := { vc := 0, len := 640, out := some (.mirror [] (.wire [])) }
def sent1 (fseq : Nat) : Emission := .mirror [] (.wire (linkFrame 0 fseq []))
def running (w r : List PlFrame) : State := { links with
  groups := [(15, { active := [14, 15], state := 2, credit := [0, 0, 0], txSeq := 7, rxSeq := 9, waiting := w, replay := r, marks := [(14, 0), (15, 0)] })] }

theorem test_ports_links : links.portLive 4 = true ∧ (links.port 4).up = false ∧ ((after (.linkUp 4 false true) links).port 4).up = true ∧
    links.portLive 47 = true ∧ links.groupOfLane 15 = some 15 ∧ (links.group 15).state = 0 ∧ links.cfg 0xC20F 2 = 1 ∧
    ((after (.linkUp 47 false true) links).group 15).active = [15] ∧ ((after (.linkUp 47 false true) links).group 15).state = 1 ∧
    ((after (.linkUp 47 false true) links).common (blkPort 46)).intStat = 0x10000 ∧ ((after (.linkDown 31) links).common (blkPort 31)).intStat = 0x20000 ∧
    links.cfg 0xC01F 4 = 4 ∧ tget 0 ((after (.fecDegrade 31 6 2) links).port 31).cnt 32 = 2 ∧ links.cfgOn 0xC01F 22 = true ∧ links.cfgOn 0xC01F 23 = true ∧
    ((after (.preemptFail 31) links).port 31).preempt = false ∧ ((after (.eyeMeasure 31 5) links).port 31).low = 5 ∧ links.cfg 0xC02F 31 = 100 ∧
    ((after (.eyeMeasure 47 100) links).port 47).low = 100 ∧ ((after (.eyeMeasure 47 99) links).common (blkPort 47)).intStat = 0x400000 ∧
    ((after (.eyeMeasure 47 99) (running [] [])).group 15).active = [14] ∧ ((after (.eyeMeasure 47 99) (running [] [])).common (blkPort 47)).intStat = 0xC00000 ∧
    ((after (.eyeMeasure 47 99) (running [] [])).port 47).up = false := by decide +kernel

theorem test_groups : (after (.credit 15 0 5 9) (running [] [])).group 15 = { (running [] []).group 15 with credit := [5, 0, 0] } ∧ wait1.credits = 10 ∧
    (after (.credit 15 0 10 9) (running [wait1] [])).sent = [sent1 7] ∧ onLink 0 7 (.mirror [] (.wire [])) = sent1 7 ∧ (after (.credit 15 0 9 9) (running [wait1] [])).sent = [] ∧
    covers 6 6 = false ∧ (after (.nak 15 6) { running [] [{ wait1 with fseq := 6, len := 0 }] with groups := [(15, { state := 2, replay := [{ wait1 with fseq := 6, len := 0 }] })] }).sent = [sent1 6] ∧
    ((after (.align 15 14 1 true) (running [] [])).group 15).marker = 1 ∧
    ((after (.align 15 14 3 true) { links with groups := [(15, { adding := some (0x8000, 3) })] }).group 15).active = [15] ∧
    ((after (.lanectlRemove 15 0x8000) (running [] [])).group 15).active = [14] ∧ ((after (.lanectlAdd 15 0x8000 5) (running [] [])).group 15).adding = some (0x8000, 5) ∧
    ((after (.lanectlDrain 15) (running [wait1] [])).group 15).waiting = [] ∧ ((after (.groupDrain 15) (running [wait1] [])).common (blkPort 46)).intStat = 0x2000000 ∧
    ((after (.laneLost 15 15) (running [] [])).group 15).active = [14] ∧ ((after (.laneLost 15 15) (running [] [])).common (blkPort 47)).intStat = 0x800000 := by decide +kernel

/-- A peer-link frame of FSEQ 9: a frame of one channel for tick 1001 with flags, stream and key, whose payload is followed by `tag` bytes. -/
def peerBytes (flags stream key tag crc : Nat) : List Byte :=
  let h := beBytes 1 0x10 ++ beBytes 1 flags ++ beBytes 2 9 ++ beBytes 2 stream ++ beBytes 2 0 ++ beBytes 4 1001 ++ beBytes 2 0 ++ beBytes 2 (1 + 1 * 4096) ++
    beBytes 2 0 ++ beBytes 2 key ++ beBytes 8 0
  let b := beBytes 1 0x12 ++ beBytes 1 0 ++ beBytes 2 (76 + tag) ++ beBytes 2 9 ++ beBytes 2 0 ++ h ++ beBytes 4 (crc32c h).toNat ++ List.replicate (32 + tag) 0
  b ++ beBytes 4 ((crc32c b).toNat + crc)

def peer (crc : Nat) : PeerFrame := { group := 15, arrival := 0, bytes := peerBytes 8 9 0 0 crc, authOk := false }

/-- A BEACON under the mirror key. -/
def beaconPeer : PeerFrame := { peer 0 with bytes := peerBytes 0x88 0x500 0xFFFF 16 0, authOk := true }

/-- The engine of a pair whose mirror group is 15. -/
def onMirror : State := { running [] [] with
  dict := { links.dict with vals := links.dict.vals ++ [(dictKey 0xB000 1 0, .num 1), (dictKey 0xB000 4 0, .num 15)] } }

theorem test_peer_frames : pcrcOk (peer 0).bytes = true ∧ field (peer 0).bytes 4 2 = (onMirror.group 15).rxSeq ∧ plHeaderOk (peer 0).bytes = true ∧
    onMirror.headerFails (onMirror.plKapo (peer 0) none) (kapoHeader (((peer 0).bytes.take 72).drop 8)) = none ∧
    (kapoHeader (((peer 0).bytes.take 72).drop 8)).length onMirror.spt ≤ 64 ∧ (kapoHeader (((peer 0).bytes.take 72).drop 8)).mirror = true ∧
    ((after (.peerLinkFrameRx (peer 0)) onMirror).group 15).rxSeq = 10 ∧ (after (.peerLinkFrameRx (peer 0)) onMirror).sent = [.block 15 0x4B [2, 2, 10]] ∧
    pcrcOk (peer 1).bytes = false ∧ tget 0 ((after (.peerLinkFrameRx (peer 1)) { onMirror with groups := [(15, { state := 2, nakSent := true })] }).port 46).cnt 6 = 1 := by
  decide +kernel

set_option maxRecDepth 4000 in
theorem test_beacon_frame : let b := (beaconPeer.bytes.take 88).drop 8
    pcrcOk beaconPeer.bytes = true ∧ beaconPeer.bytes.length = 92 ∧ plHeaderOk beaconPeer.bytes = true ∧ onMirror.headerFails (onMirror.plKapo beaconPeer none) (kapoHeader b) = none ∧
    (kapoHeader b).length onMirror.spt = 80 ∧ (kapoHeader b).mirror = true ∧ (kapoHeader b).auth = true ∧ (kapoHeader b).keyid = 0xFFFF ∧ (kapoHeader b).stream = 0x500 ∧
    onMirror.paired = true ∧ onMirror.pair.parts = [] ∧ onMirror.pair.role ≠ 1 ∧ onMirror.resetting 6 = false ∧
    (after (.peerLinkFrameRx beaconPeer) onMirror).pair.beacon = some 1001 ∧ (after (.peerLinkFrameRx beaconPeer) onMirror).pair.mirrorTick = 1000 := by decide +kernel

/-- A record of type 4 for tick 1000 leaves on VC 1, with MIRROR and AUTH. -/
theorem test_mirror_leaves : 4 * onMirror.spt ≤ 9540 ∧ ceilDiv (60 + 4 * onMirror.spt) 64 ≤ 5 ∧
    (({ onMirror with groups := [(15, { state := 2, credit := [5, 5, 5] })] } : State).sendMirror 1 4 1000 [1, 2, 3]).sent.map
      (fun e => match e with | .mirror h (.wire w) => (field h 1 1, field h 4 2, field h 8 4, field w 0 1) | _ => (0, 0, 0, 0)) = [(0x88, 0x400, 1000, 0x11)] := by
  decide +kernel

end Sys2Proof.Tests
end

section
/-! PROOF. What every command respects, over exec's table; then O4, O5 and O7 (runs of commands, 95_what_each_step_holds). -/

namespace Sys2Proof.Machine

/-- The table of `exec`, arm by arm: what its meaning keeps is what the lemma of that meaning under Laws/ says. -/
theorem exec_keeps (c : Instr) (s : State) : KeepsO s (exec c s) :=
  match c with
  | .powerOnReset => .execPowerOnReset (.refl s)
  | .resetAssert => .execResetAssert (.refl s)
  | .resetRelease .. => .execResetRelease (.refl s) ..
  | .slowclkLoss => .execSlowclkLoss (.refl s)
  | .dawnComplete .. => .execDawnComplete (.refl s) ..
  | .timeLock => .execTimeLock (.refl s)
  | .morningToNoon => .execMorningToNoon (.refl s)
  | .tickEvent .. => .execTickEvent (.refl s) ..
  | .cutoff .. => .execCutoff (.refl s) ..
  | .streamTime .. => .execStreamTime (.refl s) ..
  | .pathADown .. => .execPathADown (.refl s) ..
  | .pathAUp .. => .execPathAUp (.refl s) ..
  | .handshakeWord .. => .execHandshakeWord (.refl s) ..
  | .mediaFrameRx .. => .execMediaFrameRx (.refl s) ..
  | .pfcXon .. => .execPfcXon (.refl s) ..
  | .pfcRefresh .. => .execPfcRefresh (.refl s) ..
  | .pfcStorm .. => .execPfcStorm (.refl s) ..
  | .ptpSend .. => .execPtpSend (.refl s) ..
  | .peerLinkFrameRx .. => .execPeerLinkFrameRx (.refl s) ..
  | .earlyRelease .. => .execEarlyRelease (.refl s) ..
  | .commitApply .. => .execCommitApply (.refl s) ..
  | .foxFadeEnd .. => .execFoxFadeEnd (.refl s) ..
  | .foxQueuedStart .. => .execFoxQueuedStart (.refl s) ..
  | .clusterStepStart .. => .execClusterStepStart (.refl s) ..
  | .interruptEntry .. => .execInterruptEntry (.refl s) ..
  | .nop .. => .execNop (.refl s) ..
  | .br .. => .execBr (.refl s) ..
  | .call .. => .execCall (.refl s) ..
  | .ret .. => .execRet (.refl s) ..
  | .reti .. => .execReti (.refl s) ..
  | .trap .. => .execTrap (.refl s) ..
  | .ends .. => .execEnds (.refl s) ..
  | .loop .. => .execLoop (.refl s) ..
  | .loopp .. => .execLoopp (.refl s) ..
  | .rpt .. => .execRpt (.refl s) ..
  | .leave .. => .execLeave (.refl s) ..
  | .di .. => .execDi (.refl s) ..
  | .ei .. => .execEi (.refl s) ..
  | .add .. => .execAdd (.refl s) ..
  | .sub .. => .execSub (.refl s) ..
  | .neg .. => .execNeg (.refl s) ..
  | .abs .. => .execAbs (.refl s) ..
  | .and .. => .execAnd (.refl s) ..
  | .or .. => .execOr (.refl s) ..
  | .xor .. => .execXor (.refl s) ..
  | .not .. => .execNot (.refl s) ..
  | .asl .. => .execAsl (.refl s) ..
  | .asr .. => .execAsr (.refl s) ..
  | .lsr .. => .execLsr (.refl s) ..
  | .cmp .. => .execCmp (.refl s) ..
  | .sel .. => .execSel (.refl s) ..
  | .min .. => .execMin (.refl s) ..
  | .max .. => .execMax (.refl s) ..
  | .mpyr .. => .execMpyr (.refl s) ..
  | .mov .. => .execMov (.refl s) ..
  | .aluiAdd .. => .execAluiAdd (.refl s) ..
  | .aluiSub .. => .execAluiSub (.refl s) ..
  | .aluiAnd .. => .execAluiAnd (.refl s) ..
  | .aluiOr .. => .execAluiOr (.refl s) ..
  | .aluiXor .. => .execAluiXor (.refl s) ..
  | .aluiAsl .. => .execAluiAsl (.refl s) ..
  | .aluiAsr .. => .execAluiAsr (.refl s) ..
  | .aluiLsr .. => .execAluiLsr (.refl s) ..
  | .aluiCmp .. => .execAluiCmp (.refl s) ..
  | .aluiMin .. => .execAluiMin (.refl s) ..
  | .aluiMax .. => .execAluiMax (.refl s) ..
  | .aluiMov .. => .execAluiMov (.refl s) ..
  | .maxi .. => .execMaxi (.refl s) ..
  | .mini .. => .execMini (.refl s) ..
  | .rmax .. => .execRmax (.refl s) ..
  | .rmin .. => .execRmin (.refl s) ..
  | .rnd .. => .execRnd (.refl s) ..
  | .lid .. => .execLid (.refl s) ..
  | .rdflg .. => .execRdflg (.refl s) ..
  | .clrflg .. => .execClrflg (.refl s) ..
  | .mpy .. => .execMpy (.refl s) ..
  | .mac .. => .execMac (.refl s) ..
  | .laneDegraded .. => .execLaneDegraded (.refl s) ..
  | .msu .. => .execMsu (.refl s) ..
  | .clra .. => .execClra (.refl s) ..
  | .mova .. => .execMova (.refl s) ..
  | .adda .. => .execAdda (.refl s) ..
  | .suba .. => .execSuba (.refl s) ..
  | .lda .. => .execLda (.refl s) ..
  | .asla .. => .execAsla (.refl s) ..
  | .asra .. => .execAsra (.refl s) ..
  | .sav .. => .execSav (.refl s) ..
  | .nega .. => .execNega (.refl s) ..
  | .ldd .. => .execLdd (.refl s) ..
  | .mpyl .. => .execMpyl (.refl s) ..
  | .macl .. => .execMacl (.refl s) ..
  | .msul .. => .execMsul (.refl s) ..
  | .ld .. => .execLd (.refl s) ..
  | .st .. => .execSt (.refl s) ..
  | .modp .. => .execModp (.refl s) ..
  | .mvr .. => .execMvr (.refl s) ..
  | .mvi .. => .execMvi (.refl s) ..
  | .spinStart .. => .execSpinStart (.refl s) ..
  | .spinAbandon .. => .execSpinAbandon (.refl s) ..
  | .spareIn .. => .execSpareIn (.refl s) ..
  | .spareInSweep .. => .execSpareInSweep (.refl s) ..
  | .spareInSwitch .. => .execSpareInSwitch (.refl s) ..
  | .rotation => .execRotation (.refl s)
  | .marchPass .. => .execMarchPass (.refl s) ..
  | .wsZero .. => .execWsZero (.refl s) ..
  | .clusterReady .. => .execClusterReady (.refl s) ..
  | .silent .. => .execSilent (.refl s) ..
  | .busStop .. => .execBusStop (.refl s) ..
  | .entryDrop .. => .execEntryDrop (.refl s) ..
  | .dpSample .. => .execDpSample (.refl s) ..
  | .alnGainRampStart .. => .execAlnGainRampStart (.refl s) ..
  | .alnRegionRelease .. => .execAlnRegionRelease (.refl s) ..
  | .alnXtapEnd .. => .execAlnXtapEnd (.refl s) ..
  | .read .. => .execRead (.refl s) ..
  | .write .. => .execWrite (.refl s) ..
  | .commit .. => .execCommit (.refl s) ..
  | .abort .. => .execAbort (.refl s) ..
  | .describe .. => .execDescribe (.refl s) ..
  | .sceneStore .. => .execSceneStore (.refl s) ..
  | .sceneStoreDone .. => .execSceneStoreDone (.refl s) ..
  | .sceneRecall .. => .execSceneRecall (.refl s) ..
  | .sceneCheck .. => .execSceneCheck (.refl s) ..
  | .sceneCheckDone .. => .execSceneCheckDone (.refl s) ..
  | .handshakeHello .. => .execHandshakeHello (.refl s) ..
  | .handshakeProve .. => .execHandshakeProve (.refl s) ..
  | .sessionIdle .. => .execSessionIdle (.refl s) ..
  | .set .. => .execSet (.refl s) ..
  | .incLoad .. => .execIncLoad (.refl s) ..
  | .cmpArm .. => .execCmpArm (.refl s) ..
  | .cmpFire .. => .execCmpFire (.refl s) ..
  | .timeSnap .. => .execTimeSnap (.refl s) ..
  | .refselEvaluation .. => .execRefselEvaluation (.refl s) ..
  | .qualExpiry .. => .execQualExpiry (.refl s) ..
  | .dwellExpiry => .execDwellExpiry (.refl s)
  | .wtrExpiry .. => .execWtrExpiry (.refl s) ..
  | .suspectRecovery .. => .execSuspectRecovery (.refl s) ..
  | .refSwitch .. => .execRefSwitch (.refl s) ..
  | .hoSpecLost => .execHoSpecLost (.refl s)
  | .xoFail => .execXoFail (.refl s)
  | .apllUnlock => .execApllUnlock (.refl s)
  | .owlTickSend .. => .execOwlTickSend (.refl s) ..
  | .beatSend => .execBeatSend (.refl s)
  | .statusSend => .execStatusSend (.refl s)
  | .hello .. => .execHello (.refl s) ..
  | .owlGrantWait .. => .execOwlGrantWait (.refl s) ..
  | .beat .. => .execBeat (.refl s) ..
  | .lease .. => .execLease (.refl s) ..
  | .standby .. => .execStandby (.refl s) ..
  | .take .. => .execTake (.refl s) ..
  | .grant .. => .execGrant (.refl s) ..
  | .handover .. => .execHandover (.refl s) ..
  | .demote .. => .execDemote (.refl s) ..
  | .health .. => .execHealth (.refl s) ..
  | .noOwl => .execNoOwl (.refl s)
  | .takeover .. => .execTakeover (.refl s) ..
  | .pairHandover .. => .execPairHandover (.refl s) ..
  | .verdict .. => .execVerdict (.refl s) ..
  | .miss .. => .execMiss (.refl s) ..
  | .repair .. => .execRepair (.refl s) ..
  | .tdmRecord .. => .execTdmRecord (.refl s) ..
  | .commitRecord .. => .execCommitRecord (.refl s) ..
  | .beacon .. => .execBeacon (.refl s) ..
  | .statusRecord .. => .execStatusRecord (.refl s) ..
  | .fence .. => .execFence (.refl s) ..
  | .lynx .. => .execLynx (.refl s) ..
  | .lynxAbsent .. => .execLynxAbsent (.refl s) ..
  | .lynxLost => .execLynxLost (.refl s)
  | .mirrorSilence => .execMirrorSilence (.refl s)
  | .join .. => .execJoin (.refl s) ..
  | .capture .. => .execCapture (.refl s) ..
  | .snapRecord .. => .execSnapRecord (.refl s) ..
  | .catchUp .. => .execCatchUp (.refl s) ..
  | .refill => .execRefill (.refl s)
  | .inSync => .execInSync (.refl s)
  | .mirrorRekey => .execMirrorRekey (.refl s)
  | .drainComplete => .execDrainComplete (.refl s)
  | .duskTimeout => .execDuskTimeout (.refl s)
  | .resume .. => .execResume (.refl s) ..
  | .save .. => .execSave (.refl s) ..
  | .saveDone .. => .execSaveDone (.refl s) ..
  | .ready => .execReady (.refl s)
  | .nonce => .execNonce (.refl s)
  | .enrol .. => .execEnrol (.refl s) ..
  | .rotate .. => .execRotate (.refl s) ..
  | .release .. => .execRelease (.refl s) ..
  | .close .. => .execClose (.refl s) ..
  | .commitFw .. => .execCommitFw (.refl s) ..
  | .closeNow => .execCloseNow (.refl s)
  | .challenge .. => .execChallenge (.refl s) ..
  | .response .. => .execResponse (.refl s) ..
  | .grantExpiry => .execGrantExpiry (.refl s)
  | .keySwitch .. => .execKeySwitch (.refl s) ..
  | .keyAge .. => .execKeyAge (.refl s) ..
  | .keyExpired .. => .execKeyExpired (.refl s) ..
  | .trngFail => .execTrngFail (.refl s)
  | .linkUp .. => .execLinkUp (.refl s) ..
  | .linkDown .. => .execLinkDown (.refl s) ..
  | .fecDegrade .. => .execFecDegrade (.refl s) ..
  | .preemptFail .. => .execPreemptFail (.refl s) ..
  | .eyeMeasure .. => .execEyeMeasure (.refl s) ..
  | .credit .. => .execCredit (.refl s) ..
  | .nak .. => .execNak (.refl s) ..
  | .align .. => .execAlign (.refl s) ..
  | .lanectlRemove .. => .execLanectlRemove (.refl s) ..
  | .lanectlAdd .. => .execLanectlAdd (.refl s) ..
  | .lanectlAck group mask => .execLanectlAck (.refl s) group mask
  | .lanectlDrain .. => .execLanectlDrain (.refl s) ..
  | .laneLost .. => .execLaneLost (.refl s) ..
  | .groupDrain .. => .execGroupDrain (.refl s) ..
  | .north .. => .execNorth (.refl s) ..
  | .south .. => .execSouth (.refl s) ..
  | .fsyncLoss .. => .execFsyncLoss (.refl s) ..
  | .fsyncOk .. => .execFsyncOk (.refl s) ..
  | .sramReadError .. => .execSramReadError (.refl s) ..
  | .sramWriteBack .. => .execSramWriteBack (.refl s) ..
  | .rowRepaired .. => .execRowRepaired (.refl s) ..
  | .badgerPass .. => .execBadgerPass (.refl s) ..
  | .dramReadError .. => .execDramReadError (.refl s) ..
  | .patrolScrub .. => .execPatrolScrub (.refl s) ..
  | .ecsRead .. => .execEcsRead (.refl s) ..
  | .migrate .. => .execMigrate (.refl s) ..
  | .migrated => .execMigrated (.refl s)
  | .repairAction .. => .execRepairAction (.refl s) ..
  | .pprComplete .. => .execPprComplete (.refl s) ..
  | .sealMiss => .execSealMiss (.refl s)
  | .heartbeatMiss => .execHeartbeatMiss (.refl s)
  | .stage .. => .execStage (.refl s) ..
  | .stagedReady => .execStagedReady (.refl s)
  | .arm .. => .execArm (.refl s) ..
  | .fwHandover => .execFwHandover (.refl s)
  | .fwRelease => .execFwRelease (.refl s)
  | .erase .. => .execErase (.refl s) ..
  | .burst .. => .execBurst (.refl s) ..
  | .burstTo .. => .execBurstTo (.refl s) ..
  | .registerWrite .. => .execRegisterWrite (.refl s) ..
  | .rcRead .. => .execRcRead (.refl s) ..
  | .mailboxLastRead .. => .execMailboxLastRead (.refl s) ..
  | .mailboxCaptureDone .. => .execMailboxCaptureDone (.refl s) ..
  | .slowWriteEffect .. => .execSlowWriteEffect (.refl s) ..
  | .cntSelSnap .. => .execCntSelSnap (.refl s) ..
  | .silSelSnap .. => .execSilSelSnap (.refl s) ..
  | .oselSnap .. => .execOselSnap (.refl s) ..
  | .mselSnap .. => .execMselSnap (.refl s) ..
  | .dselSnap .. => .execDselSnap (.refl s) ..
  | .cntCtlSnap .. => .execCntCtlSnap (.refl s) ..
  | .histSnap .. => .execHistSnap (.refl s) ..
  | .clear .. => .execClear (.refl s) ..
  | .force .. => .execForce (.refl s) ..
  | .intStatRead .. => .execIntStatRead (.refl s) ..
  | .faultPoll => .execFaultPoll (.refl s)
  | .errPulseEnd => .execErrPulseEnd (.refl s)
  | .holdRelease .. => .execHoldRelease (.refl s) ..
  | .holdSet .. => .execHoldSet (.refl s) ..
  | .frst0 .. => .execFrst0 (.refl s) ..
  | .frst1Go .. => .execFrst1Go (.refl s) ..
  | .frstDone .. => .execFrstDone (.refl s) ..
  | .frstFail .. => .execFrstFail (.refl s) ..
  | .shadowClose .. => .execShadowClose (.refl s) ..
  | .switch .. => .execSwitch (.refl s) ..
  | .domainOn .. => .execDomainOn (.refl s) ..
  | .avsEvaluation .. => .execAvsEvaluation (.refl s) ..
  | .regulatorPoll .. => .execRegulatorPoll (.refl s) ..
  | .thermalRead .. => .execThermalRead (.refl s) ..
  | .thermTrip => .execThermTrip (.refl s)
  | .vmonWarn .. => .execVmonWarn (.refl s) ..
  | .tw0Transaction .. => .execTw0Transaction (.refl s) ..
  | .tw0Retry .. => .execTw0Retry (.refl s) ..
  | .twTimeout => .execTwTimeout (.refl s)
  | .twBusStuck .. => .execTwBusStuck (.refl s) ..
  | .tw1RegRd .. => .execTw1RegRd (.refl s) ..
  | .tw1RegWr .. => .execTw1RegWr (.refl s) ..
  | .stat => .execStat (.refl s)
  | .opWake .. => .execOpWake (.refl s) ..
  | .opResume .. => .execOpResume (.refl s) ..
  | .tw1BufWr .. => .execTw1BufWr (.refl s) ..
  | .tw1DictGo .. => .execTw1DictGo (.refl s) ..
  | .tw1BufRd .. => .execTw1BufRd (.refl s) ..
  | .tw1Timeout => .execTw1Timeout (.refl s)
  | .attn => .execAttn (.refl s)
  | .tw1TimingSwitch => .execTw1TimingSwitch (.refl s)
  | .hostpRegRd .. => .execHostpRegRd (.refl s) ..
  | .hostpRegWr .. => .execHostpRegWr (.refl s) ..
  | .status .. => .execStatus (.refl s) ..
  | .hostpBufWr .. => .execHostpBufWr (.refl s) ..
  | .hostpBufRd .. => .execHostpBufRd (.refl s) ..
  | .hostpDictGo .. => .execHostpDictGo (.refl s) ..
  | .helloSend => .execHelloSend (.refl s)
  | .dpllUpdate .. => .execDpllUpdate (.refl s) ..
  | .tdmFrame .. => .execTdmFrame (.refl s) ..
  | .domainOff .. => .execDomainOff (.refl s) ..
  | .xoInValid => .execXoInValid (.refl s)
  | .pfcPauseExpiry .. => .execPfcPauseExpiry (.refl s) ..
  | .credentialExpiry .. => .execCredentialExpiry (.refl s) ..

/-- The next state of a command is the only one, so it keeps what every command respects. -/
theorem keeps_of_exec_eq_next {c : Instr} {s t : State} (h : exec c s = .next t) : Keeps s t := by
  obtain ⟨u, hu, k⟩ := exec_keeps c s
  obtain rfl : u = t := by simpa [hu] using h
  exact k

theorem step_of_pending_nil {s : State} (h : s.pending = []) : step s = .next s := by
  simp [step, h]

theorem step_of_pending_cons {s : State} {c : Instr} {rest : List Instr} (h : s.pending = c :: rest) :
    step s = exec c { s with pending := rest } := by
  simp [step, h]

/-- The invariant speaks of no waiting command. -/
theorem State.Inv.withPending {s : State} (h : s.Inv) (q : List Instr) : State.Inv { s with pending := q } := h

/-- A step of a state that meets the invariant leads to one that meets it. -/
theorem State.Inv.of_step {s t : State} (hs : s.Inv) (h : step s = .next t) : t.Inv := by
  cases hq : s.pending with
  | nil =>
    obtain rfl : s = t := by simpa [step_of_pending_nil hq] using h
    exact hs
  | cons c rest =>
    rw [step_of_pending_cons hq] at h
    exact (keeps_of_exec_eq_next h).inv (hs.withPending rest)

/-- Settles O4: an idle step changes nothing, and the command at the front keeps the invariant. -/
theorem everyStepKeepsTheInvariant : Obligations.EveryStepKeepsTheInvariant :=
  fun _ _ hs h => hs.of_step h

/-- Settles O5: every arm of `exec` answers a next state with the queue as it was. -/
theorem everyCommandRunsAndLeavesTheQueue : Obligations.EveryCommandRunsAndLeavesTheQueue := by
  intro c s
  obtain ⟨t, ht, k⟩ := exec_keeps c s
  exact ⟨t, ht, k.queue⟩

/-- Settles O7, by induction over the commands: each runs from the state that the one before it left. -/
theorem everyRunIsSafe : Obligations.EveryRunIsSafe := by
  intro cs
  induction cs with
  | nil => exact fun _ => trivial
  | cons c cs ih =>
    intro s
    obtain ⟨t, ht, k⟩ := exec_keeps c s
    exact ⟨t, ht, k, ih t⟩

end Sys2Proof.Machine
end

section
/-! PROOF. Rules that the statements on chapter 01 share: bits of a set of domains, folds over the state, and what the reporting of an event leaves. -/

namespace Sys2Proof.Machine

/-! ### Sets of domains and clusters as numbers -/

theorem bitAt_eq_testBit (x i : Nat) : bitAt x i = x.testBit i := by
  rw [bitAt, Nat.testBit_eq_decide_div_mod_eq]; rfl

/-- A number without one of its bits: a domain that goes off, a cluster whose gating ends. -/
theorem testBit_sub_land_two_pow (x d n : Nat) : (x - x.land (2 ^ d)).testBit n = (x.testBit n && n != d) := by
  show (x - (x &&& 2 ^ d)).testBit n = _
  induction d generalizing x n with
  | zero =>
    cases n with
    | zero => simp [Nat.testBit_zero]; omega
    | succ n =>
      have half : (x - x % 2) / 2 = x / 2 := by omega
      simp [Nat.testBit_succ, half]
  | succ d ih =>
    have bit : x &&& 2 ^ (d + 1) = 2 * (x / 2 &&& 2 ^ d) := by
      rw [Nat.and_two_pow, Nat.and_two_pow, Nat.testBit_succ, Nat.pow_succ]; ring
    have le : x / 2 &&& 2 ^ d ≤ x / 2 := Nat.and_le_left
    rw [bit]
    cases n with
    | zero =>
      have low : (x - 2 * (x / 2 &&& 2 ^ d)) % 2 = x % 2 := by omega
      simp [Nat.testBit_zero, low]
    | succ n =>
      have half : (x - 2 * (x / 2 &&& 2 ^ d)) / 2 = x / 2 - (x / 2 &&& 2 ^ d) := by omega
      rw [Nat.testBit_succ, half, ih, Nat.testBit_succ]
      simp

/-! ### Folds over the state -/

/-- What no round of a fold changes, the fold does not change. -/
theorem foldS_view {α β : Type} (view : State → β) (f : State → α → State) (h : ∀ s a, view (f s a) = view s) (s : State) (l : List α) :
    view (foldS f s l) = view s := by
  induction l generalizing s with
  | nil => rfl
  | cons a t ih => exact (ih _).trans (h s a)

/-- A fold whose rounds do nothing. -/
theorem foldS_idle {α : Type} (f : State → α → State) (s : State) (l : List α) (h : ∀ a ∈ l, f s a = s) : foldS f s l = s := by
  induction l with
  | nil => rfl
  | cons a t ih =>
    rw [foldS, h a (by simp)]
    exact ih fun b hb => h b (by simp [hb])

/-- What every round of a fold keeps, the fold keeps. -/
theorem foldS_keeps {α : Type} {P : State → Prop} (f : State → α → State) (h : ∀ s a, P s → P (f s a)) {s : State} (hs : P s) (l : List α) :
    P (foldS f s l) := by
  induction l generalizing s with
  | nil => exact hs
  | cons a t ih => exact ih (h s a hs)

/-- What one round of a fold brings about and every round keeps holds at its end. -/
theorem foldS_brings {α : Type} {P : State → Prop} (f : State → α → State) (h : ∀ s a, P s → P (f s a)) {b : α} (hb : ∀ s, P (f s b))
    (s : State) {l : List α} (hl : b ∈ l) : P (foldS f s l) := by
  induction l generalizing s with
  | nil => cases hl
  | cons a t ih =>
    rcases List.mem_cons.1 hl with rfl | ht
    · exact foldS_keeps f h (hb s) t
    · exact ih _ ht

/-! ### Events that do not move the engine state -/

/-- What the report of an event of class C or U may change: what is sent, the common registers, the ERR_N and fault records and ATTN_N. -/
def Reported (s t : State) : Prop :=
  ∃ sent commons top tw1, top.state = s.top.state ∧ t = { s with sent := sent, commons := commons, top := top, tw1 := tw1 }

theorem Reported.refl (s : State) : Reported s s := ⟨_, _, _, _, rfl, rfl⟩

theorem Reported.trans {s t u : State} (h : Reported s t) (k : Reported t u) : Reported s u := by
  obtain ⟨_, _, _, _, hs, rfl⟩ := h
  obtain ⟨_, _, _, _, ks, rfl⟩ := k
  exact ⟨_, _, _, _, ks.trans hs, rfl⟩

section
variable {s t : State} (h : Reported s t)
include h

theorem Reported.clusters : t.clusters = s.clusters := by obtain ⟨_, _, _, _, _, rfl⟩ := h; rfl
theorem Reported.cluster (n : Nat) : t.cluster n = s.cluster n := by obtain ⟨_, _, _, _, _, rfl⟩ := h; rfl
theorem Reported.ws : t.ws = s.ws := by obtain ⟨_, _, _, _, _, rfl⟩ := h; rfl
theorem Reported.workSet (n : Nat) : t.workSet n = s.workSet n := by obtain ⟨_, _, _, _, _, rfl⟩ := h; rfl
theorem Reported.pwr : t.pwr = s.pwr := by obtain ⟨_, _, _, _, _, rfl⟩ := h; rfl
theorem Reported.memc : t.memc = s.memc := by obtain ⟨_, _, _, _, _, rfl⟩ := h; rfl
theorem Reported.mix : t.mix = s.mix := by obtain ⟨_, _, _, _, _, rfl⟩ := h; rfl
theorem Reported.dyn : t.dyn = s.dyn := by obtain ⟨_, _, _, _, _, rfl⟩ := h; rfl
theorem Reported.dp : t.dp = s.dp := by obtain ⟨_, _, _, _, _, rfl⟩ := h; rfl
theorem Reported.aln : t.aln = s.aln := by obtain ⟨_, _, _, _, _, rfl⟩ := h; rfl
theorem Reported.sil : t.sil = s.sil := by obtain ⟨_, _, _, _, _, rfl⟩ := h; rfl
theorem Reported.csw : t.csw = s.csw := by obtain ⟨_, _, _, _, _, rfl⟩ := h; rfl
theorem Reported.dict : t.dict = s.dict := by obtain ⟨_, _, _, _, _, rfl⟩ := h; rfl
theorem Reported.time : t.time = s.time := by obtain ⟨_, _, _, _, _, rfl⟩ := h; rfl
theorem Reported.ports : t.ports = s.ports := by obtain ⟨_, _, _, _, _, rfl⟩ := h; rfl
theorem Reported.topState : t.top.state = s.top.state := by obtain ⟨_, _, _, _, e, rfl⟩ := h; exact e

end

/-- An event of class C or U is only reported, inside a shadow or outside. -/
theorem raiseAs_reported (s : State) (b ev who detail : Nat) (cls : EvClass) (p : Option Nat) (h : cls ≠ .f) :
    Reported s (s.raiseAs b ev cls who detail p) := by
  unfold State.raiseAs
  rw [if_neg h]
  dsimp only
  split
  · refine ⟨_, _, _, _, ?_, rfl⟩
    rfl
  · rw [if_neg h]
    split
    · exact ⟨_, _, _, _, mark_pulse_state _ _ _ _, rfl⟩
    · exact ⟨_, _, _, _, mark_pulse_state _ _ _ _, rfl⟩

theorem raise_reported (s : State) (b ev detail : Nat) (cls : EvClass) (h : cls ≠ .f) : Reported s (s.raise b ev cls detail) :=
  raiseAs_reported s b ev detail detail cls none h

theorem raiseT_reported (s : State) (b ev who : Nat) (cls : EvClass) (h : cls ≠ .f) : Reported s (s.raiseT b ev cls who) :=
  raiseAs_reported s b ev who s.tickDetail cls none h

theorem noteNoSpare_reported (s : State) (n : Nat) : Reported s (s.noteNoSpare n) := by
  unfold State.noteNoSpare
  split
  · exact .refl s
  · exact raiseT_reported s _ _ _ _ (by decide)

/-- With a SPARE there is no NO_SPARE. -/
theorem noteNoSpare_of_spare {s : State} {k : Nat} (hk : k < 9) (h : (s.cluster k).role = 0) (n : Nat) : s.noteNoSpare n = s := by
  unfold State.noteNoSpare
  rw [if_pos]
  exact List.any_eq_true.2 ⟨k, List.mem_range.2 hk, by simp [h]⟩

/-! ### What goes with a domain -/

@[simp] theorem domainLost_top (s : State) (d : Nat) : (s.domainLost d).top = s.top := by
  unfold State.domainLost; dsimp only; split_ifs <;> rfl

@[simp] theorem domainLost_pwr (s : State) (d : Nat) : (s.domainLost d).pwr = s.pwr := by
  unfold State.domainLost; dsimp only; split_ifs <;> rfl

@[simp] theorem domainLost_sec (s : State) (d : Nat) : (s.domainLost d).sec = s.sec := by
  unfold State.domainLost; dsimp only; split_ifs <;> rfl

@[simp] theorem domainLost_dict (s : State) (d : Nat) : (s.domainLost d).dict = s.dict := by
  unfold State.domainLost; dsimp only; split_ifs <;> rfl

/-- A domain that goes off starts no ticks. -/
theorem domainLost_stopped {s : State} (h : s.time.running = false) (d : Nat) : (s.domainLost d).time.running = false := by
  unfold State.domainLost; split_ifs <;> simp [h]

/-- A domain that goes off starts no fades. -/
theorem domainLost_unfaded {s : State} (h : s.csw.fades = []) (d : Nat) : (s.domainLost d).csw.fades = [] := by
  unfold State.domainLost; split_ifs <;> simp [h]

/-- A domain that goes off makes no engine ACTIVE. -/
theorem domainLost_unpaired {s : State} (h : s.pair.role = 0) (d : Nat) : (s.domainLost d).pair.role = 0 := by
  unfold State.domainLost; split_ifs <;> simp [h]

end Sys2Proof.Machine
end

section
/-! PROOF. The reset state and the ways into Night (R27, R28, R573, R574): O2 and O34. -/

namespace Sys2Proof.Machine

/-- Settles O2: each register of the reset state holds its value. -/
theorem resetLeavesTheStatedValues : Obligations.ResetLeavesTheStatedValues :=
  ⟨rfl, rfl, rfl, rfl, rfl, rfl, rfl, rfl, fun _ => ⟨rfl, rfl, rfl, rfl, rfl, rfl⟩, rfl, rfl, rfl, rfl, rfl, rfl, rfl, rfl⟩

/-! ### Entry to Night (R573, R574) -/

/-- A save that is cut off concerns the configuration copies alone. -/
theorem tearSave_transition (t : Top) : t.tearSave.state = t.state ∧ t.tearSave.prev = t.prev ∧ t.tearSave.cause = t.cause := by
  unfold Top.tearSave; split_ifs <;> exact ⟨rfl, rfl, rfl⟩

/-- The engine after its entry to Night with a cause. -/
structure Nightfall (s t : State) (cause : Nat) : Prop where
  state : t.top.state = .night
  prev : t.top.prev = s.top.state
  cause : t.top.cause = cause
  classF : t.top.classF = false
  leaveAt : t.top.leaveAt = none
  resets : t.top.resets = []
  timeLocked : t.top.timeLocked = false
  cfgReady : t.top.cfgReady = false
  running : t.time.running = false
  sessions : t.sec.sessions = []
  fades : t.csw.fades = []
  dict : t.dict = s.dict
  role : s.pair.role = 0 → t.pair.role = 0

theorem Nightfall.domainLost {s t : State} {cause : Nat} (h : Nightfall s t cause) (d : Nat) : Nightfall s (t.domainLost d) cause where
  state := by simp [h.state]
  prev := by simp [h.prev]
  cause := by simp [h.cause]
  classF := by simp [h.classF]
  leaveAt := by simp [h.leaveAt]
  resets := by simp [h.resets]
  timeLocked := by simp [h.timeLocked]
  cfgReady := by simp [h.cfgReady]
  running := domainLost_stopped h.running d
  sessions := by simp [h.sessions]
  fades := domainLost_unfaded h.fades d
  dict := by simp [h.dict]
  role := fun r => domainLost_unpaired (h.role r) d

theorem enterNight_nightfall (s : State) (cause : Nat) : Nightfall s (s.enterNight cause) cause := by
  unfold State.enterNight
  refine foldS_keeps (P := fun t => Nightfall s t cause) _ (fun _ d h => h.domainLost d) ?_ _
  constructor <;> simp [State.enter, tearSave_transition]

/-! ### Leaving service (R28, R336, R573) -/

/-- LEAVE in Noon without a partner: Dusk is due at the next tick. -/
theorem leave_unpaired {s : State} (h : s.top.state = .noon) (hr : s.pair.role ≠ 1) :
    s.leave = s.modTop fun t => { t with leaveAt := some (s.time.tick + 1) } := by
  unfold State.leave
  rw [if_pos h, if_neg hr]

/-- LEAVE of an ACTIVE in Noon: it also asks its Owl for a handover 16 ticks ahead. -/
theorem leave_active {s : State} (h : s.top.state = .noon) (hr : s.pair.role = 1) (ho : s.pair.noOwl = false) :
    s.leave = ((s.modTop fun t => { t with leaveAt := some (s.time.tick + 1) }).modPair fun p =>
      { p with handoverAt := some (s.time.tick + 16) }).toOwl 7 (s.time.tick + 16) 0 := by
  unfold State.leave
  rw [if_pos h, if_pos hr, if_neg (by simp [ho])]

theorem execDrainComplete_drained {s : State} (h : s.top.state = .dusk) (ho : s.pair.role ≠ 1 ∨ s.pair.fenced = true) (hi : s.drainIdle = true) :
    execDrainComplete s = .next (s.quiet.enterNight 7) := by
  have ended : s.quiet.egressOver = true := by simpa [State.egressOver, State.quiet] using ho
  unfold execDrainComplete
  dsimp only
  rw [if_pos ⟨h, ended, hi⟩]

theorem execDuskTimeout_over {s : State} (h : s.top.state = .dusk) (ht : 64 ≤ s.top.duskTicks) :
    execDuskTimeout s = .next (s.quiet.enterNight 8) := by
  unfold execDuskTimeout
  dsimp only
  rw [if_pos ⟨h, ht⟩]

/-- Settles O34: the three ways out of service end where `Nightfall` says, or wait for the next tick. -/
theorem leavingDrainsIntoNight : Obligations.LeavingDrainsIntoNight := by
  unfold Obligations.LeavingDrainsIntoNight
  intro s
  refine ⟨fun h hr => ?_, fun h hr ho => ?_, fun p hp h hc => ?_⟩
  · have solo : s.pair.role ≠ 1 := by simp [hr]
    exact congrArg Host.Outcome.next (leave_unpaired (s := s.quiet) h solo)
  · exact congrArg Host.Outcome.next (leave_active (s := s.quiet) h hr ho)
  · have night (cause : Nat) := enterNight_nightfall s.quiet cause
    simp only [List.mem_cons, List.not_mem_nil, or_false] at hp
    rcases hp with rfl | rfl
    · obtain ⟨ho, hi⟩ := hc
      have n := night 7
      exact ⟨_, execDrainComplete_drained h ho hi, n.state, n.prev.trans h, n.cause, n.running, n.sessions, n.fades, n.resets, n.timeLocked, n.cfgReady⟩
    · have n := night 8
      exact ⟨_, execDuskTimeout_over h hc, n.state, n.prev.trans h, n.cause, n.running, n.sessions, n.fades, n.resets, n.timeLocked, n.cfgReady⟩

end Sys2Proof.Machine
end

section
/-! PROOF. The power domains switch (R25, R26, R507-R509, R417): O41. -/

namespace Sys2Proof.Machine

/-! ### Requests (R26, R508) -/

/-- A request that R26 or a FAULTY cluster forbids. -/
theorem switchDomain_refused {s : State} {d : Nat} {on : Bool} (h : on = false ∧ s.mayGoOff d = false ∨ on = true ∧ s.heldDown d = true) :
    s.switchDomain d on = s.setCommon blkPwr fun c => { c with pwrRej := true } := by
  unfold State.switchDomain
  rw [if_pos]
  rcases h with ⟨rfl, h⟩ | ⟨rfl, h⟩ <;> simp [h]

/-- A request that nothing forbids, for a domain that stands otherwise, while no domain switches. -/
theorem switchDomain_begins {s : State} {d : Nat} {on : Bool} (hd : d < 17) (hb : s.pwr.busy = none) (ho : s.pwr.on.testBit d = !on)
    (hoff : on = false → s.mayGoOff d = true) (hon : on = true → s.heldDown d = false) : s.switchDomain d on = s.beginSwitch d on := by
  have allowed : ¬ (17 ≤ d ∨ (!on ∧ !(s.mayGoOff d)) ∨ (on ∧ s.heldDown d)) := by
    cases on
    · simp [hoff rfl, hd]
    · simp [hon rfl, hd]
  have changes : s.domOn d ≠ on := by
    unfold State.domOn
    rw [bitAt_eq_testBit, ho]
    cases on <;> decide
  unfold State.switchDomain
  rw [if_neg allowed, if_neg (by simp [hb]), if_neg changes]

/-- The first request of a queue starts if it changes something and nothing forbids it. -/
theorem nextSwitch_begins {s : State} {d : Nat} (l : List (Nat × Bool)) (ho : s.pwr.on.testBit d = false) (hf : s.heldDown d = false) :
    s.nextSwitch ((d, true) :: l) = (s.modPwr fun p => { p with queue := l }).beginSwitch d true := by
  have changes : s.domOn d ≠ true := by
    unfold State.domOn
    rw [bitAt_eq_testBit, ho]
    decide
  unfold State.nextSwitch
  rw [if_neg changes, if_neg (by simp [hf])]

/-! ### The end of a switch (R508, R111) -/

theorem execDomainOn_ended {s : State} {d : Nat} (hb : s.pwr.busy = some d) (hon : s.pwr.switchOn = true) (hq : s.pwr.queue = []) :
    execDomainOn d s = .next (((s.quiet.modPwr fun p => { p with on := p.on.lor (2 ^ d), busy := none }).poweredOn d).modPwr fun p =>
      { p with busy := none, queue := [] }) := by
  have queue : ((s.quiet.modPwr fun p => { p with on := p.on.lor (2 ^ d), busy := none }).poweredOn d).pwr.queue = [] := by
    unfold State.poweredOn; split <;> exact hq
  unfold execDomainOn
  dsimp only
  rw [if_pos ⟨hb, hon⟩, queue]
  rfl

/-- The state when a domain has gone off, before the next request. -/
def State.wentOff (s : State) (d : Nat) : State :=
  s.quiet.poweredOff ((s.quiet.modPwr fun p => { p with on := p.on - p.on.land (2 ^ d), busy := none }).domainLost d) d

/-- What a domain that has gone off leaves but for the report of NO_SPARE. -/
theorem wentOff_reported (s : State) (d : Nat) :
    Reported ((s.quiet.modPwr fun p => { p with on := p.on - p.on.land (2 ^ d), busy := none }).domainLost d) (s.wentOff d) := by
  unfold State.wentOff State.poweredOff
  split
  · exact noteNoSpare_reported _ _
  · exact .refl _

theorem wentOff_pwr (s : State) (d : Nat) : (s.wentOff d).pwr = { s.pwr with on := s.pwr.on - s.pwr.on.land (2 ^ d), busy := none } := by
  rw [(wentOff_reported s d).pwr, domainLost_pwr]; rfl

theorem execDomainOff_ended {s : State} {d : Nat} (hb : s.pwr.busy = some d) (hoff : s.pwr.switchOn = false) (hq : s.pwr.queue = []) :
    execDomainOff d s = .next ((s.wentOff d).modPwr fun p => { p with busy := none, queue := [] }) := by
  have queue : (s.wentOff d).pwr.queue = [] := by rw [wentOff_pwr]; exact hq
  have ends : s.quiet.pwr.busy = some d ∧ (!s.quiet.pwr.switchOn) = true := ⟨hb, by simp [State.quiet, hoff]⟩
  unfold execDomainOff
  dsimp only
  rw [if_pos ends]
  change Host.Outcome.next ((s.wentOff d).nextSwitch (s.wentOff d).pwr.queue) = _
  rw [queue]
  rfl

/-- A cluster whose domain goes off is OFF, or stays FAULTY. -/
theorem domainLost_role (s : State) (n : Nat) : ((s.domainLost (8 + n)).cluster n).role = if (s.cluster n).role = 3 then 3 else 2 := by
  have none : ∀ k, k < 8 → 8 + n ≠ k := fun k hk => by omega
  unfold State.domainLost
  dsimp only
  rw [if_neg (none 0 (by decide)), if_neg (none 1 (by decide)), if_neg (by simp [none]), if_neg (by simp [none]), if_neg (none 6 (by decide)),
    if_neg (none 7 (by decide)), Nat.add_sub_cancel_left, State.cluster_setCluster_same]
  rfl

/-! ### Port halves (R417) -/

theorem dropLink_pwr (s : State) (p : Nat) : (s.dropLink p).pwr = s.pwr := by
  unfold State.dropLink
  split
  · rfl
  · exact (raiseAs_reported _ _ _ _ _ _ _ (by decide)).pwr

/-- The ports after one of them has gone down. -/
theorem dropLink_up (s : State) (p n : Nat) : ((s.dropLink p).port n).up = if n = p then false else (s.port n).up := by
  unfold State.dropLink
  split
  · rename_i h
    split
    · subst_vars; simpa using h
    · rfl
  · have ports := (raiseAs_reported
      ((s.setPort p fun x => { x with up := false, preempt := false, pausedCtl := false, pausedBulk := false, held := [] }).countPort p 33)
      (blkPort p) 0x11 p s.tickDetail .c none (by decide)).ports
    unfold State.port at *
    rw [ports]
    split
    · subst_vars; simp [State.countPort, State.setPort, tget_tmod_same]
    · rename_i h
      simp [State.countPort, State.setPort, tget_tmod_other _ _ _ _ _ h]

/-- The half that goes down, where no group has lanes. -/
theorem switchHalf_begins {s : State} {d : Nat} (ha : s.mayGoOff d = true) (hg : s.groups = []) (hb : s.pwr.busy = none)
    (ho : s.pwr.on.testBit d = true) :
    s.switchHalf d true = (foldS (fun (s : State) p => s.dropLink p) s ((List.range 32).filter (portIn d))).beginSwitch d false := by
  have lanes : foldS (fun (s : State) g => s.removeLanes g ((s.group g).active.filter fun q => portIn d (32 + q))) s (List.range 16) = s :=
    foldS_idle _ _ _ fun g _ => by simp [State.group, hg, tget, State.removeLanes]
  have pwr : (foldS (fun (s : State) p => s.dropLink p) s ((List.range 32).filter (portIn d))).pwr = s.pwr :=
    foldS_view State.pwr _ dropLink_pwr _ _
  unfold State.switchHalf
  dsimp only
  rw [if_neg (by simp), if_neg (by simp [ha]), lanes, if_neg (by simp [pwr, hb]), if_pos]
  unfold State.domOn
  rw [pwr, bitAt_eq_testBit, ho]

/-- A request to take a half down that R26 allows. -/
theorem switchHalf_takes_down {s : State} {d : Nat} (ha : s.mayGoOff d = true) (hg : s.groups = []) (hb : s.pwr.busy = none)
    (ho : s.pwr.on.testBit d = true) : (s.switchHalf d true).pwr.busy = some d ∧ (s.switchHalf d true).pwr.switchOn = false ∧
      ∀ n, n < 32 → portIn d n = true → ((s.switchHalf d true).port n).up = false := by
  rw [switchHalf_begins ha hg hb ho]
  refine ⟨rfl, rfl, fun n hn hp => ?_⟩
  refine foldS_brings (P := fun s => (s.port n).up = false) (fun (s : State) p => s.dropLink p) (fun s p h => ?_) (b := n) (fun s => ?_) s
    (List.mem_filter.2 ⟨List.mem_range.2 hn, hp⟩)
  · rw [dropLink_up, h, ite_self]
  · rw [dropLink_up, if_pos rfl]

/-- Settles O41: requests, ends of switches, the order of Dawn and the port halves, one by one. -/
theorem domainsSwitchOneAtATime : Obligations.DomainsSwitchOneAtATime := by
  unfold Obligations.DomainsSwitchOneAtATime
  intro s d on
  refine ⟨fun hd hb ho hoff hon => ?_, fun h => ?_, fun hb hon hq => ?_, fun hb hoff hq => ?_, fun hdawn hreset hb ho => ?_, fun p hp ha hg hb ho => ?_⟩
  · exact congrArg Host.Outcome.next (switchDomain_begins (s := s.quiet) hd hb ho hoff hon)
  · refine ⟨_, congrArg Host.Outcome.next (switchDomain_refused (s := s.quiet) h), ?_, fun b hb => ?_, rfl⟩
    · rw [common_setCommon, if_pos rfl]
    · rw [common_setCommon, if_neg hb]; rfl
  · refine ⟨_, execDomainOn_ended hb hon hq, ?_, fun h => ?_, fun h8 h2 => ?_⟩
    · unfold State.poweredOn
      split <;> rw [← hq] <;> rfl
    · unfold State.poweredOn
      rw [if_neg]
      · rfl
      · rintro ⟨h8, h2⟩
        exact h.elim (fun h => absurd h8 (by omega)) fun h => h h2
    · unfold State.poweredOn
      rw [if_pos ⟨h8, h2⟩]
      exact tget_tmod_same _ s.clusters (d - 8) fun c => { c with role := 0 }
  · have r := wentOff_reported s d
    refine ⟨_, execDomainOff_ended hb hoff hq, rfl, fun n => ?_, fun h => ?_, fun h => ?_, fun h => ?_⟩
    · simp only [State.modPwr_pwr, wentOff_pwr, testBit_sub_land_two_pow]
    · subst h; exact congrArg Memc.dram r.memc
    · subst h; exact ⟨r.mix, r.dyn, r.dp, r.aln, r.sil⟩
    · obtain ⟨n, rfl⟩ := Nat.exists_eq_add_of_le h
      rw [Nat.add_sub_cancel_left]
      exact (congrArg Cluster.role (r.cluster n)).trans (domainLost_role _ n)
  · have dawn : execXoInValid s = .next ((s.quiet.modPwr fun p => { p with xoValid := true }).nextSwitch (dawnOrder.map fun d => (d, true))) := by
      unfold execXoInValid
      dsimp only
      rw [if_pos ⟨hdawn, by simp [State.quiet, State.modPwr, hreset], hb⟩]
    refine dawn.trans (congrArg Host.Outcome.next ?_)
    refine (nextSwitch_begins (s := s.quiet.modPwr fun p => { p with xoValid := true }) (dawnOrder.tail.map fun d => (d, true)) ho rfl).trans ?_
    simp [State.beginSwitch, State.modPwr, State.quiet, dawnOrder]
  · simp only [List.mem_cons, List.not_mem_nil, or_false] at hp
    rcases hp with rfl | rfl
    · exact ⟨_, rfl, switchHalf_takes_down (s := s.quiet) ha hg hb ho⟩
    · exact ⟨_, rfl, switchHalf_takes_down (s := s.quiet) ha hg hb ho⟩

end Sys2Proof.Machine
end

section
/-! PROOF. What a sealed commit changes and what it leaves (R18, R175, R270): the rules of its parts, for O48 and O49. -/

namespace Sys2Proof.Machine

/-! ### Tables as what they find -/

theorem tfind_tset_same {α : Type} (t : Tab α) (i : Nat) (x : α) : tfind (tset t i x) i = some x := by
  induction t with
  | nil => simp [tset, tfind]
  | cons e t ih => obtain ⟨k, v⟩ := e; by_cases h : k = i <;> simp [tset, tfind, h, ih]

theorem tfind_tdel_same {α : Type} (t : Tab α) (i : Nat) : tfind (tdel t i) i = none := by
  induction t with
  | nil => rfl
  | cons e t ih => obtain ⟨k, v⟩ := e; by_cases h : k = i <;> simp [tdel, tfind, h, ih]

/-! ### Wakes (R34, R207) -/

/-- Gated clusters may have begun to wake, and nothing else has changed. -/
def Woken (s t : State) : Prop := ∃ w, t = { s with pwr := { s.pwr with waking := w } }

theorem Woken.refl (s : State) : Woken s s := ⟨_, rfl⟩

theorem Woken.trans {s t u : State} (h : Woken s t) (k : Woken t u) : Woken s u := by
  obtain ⟨_, rfl⟩ := h
  obtain ⟨_, rfl⟩ := k
  exact ⟨_, rfl⟩

theorem wake_woken (s : State) (n : Nat) : Woken s (s.wake n) := by
  unfold State.wake
  split
  · exact ⟨_, rfl⟩
  · exact .refl s

/-- The owner of a work set wakes, if it has one. -/
theorem wakeOwner_woken (s : State) (o : Option Nat) : Woken s (match o with | some n => s.wake n | none => s) := by
  cases o with
  | none => exact .refl s
  | some n => exact wake_woken s n

theorem wakeReaders_woken (s : State) (n kind index : Nat) (xs : List Int) : Woken s (s.wakeReaders n kind index xs) := by
  unfold State.wakeReaders
  split
  · exact .refl s
  · exact foldS_keeps (P := Woken s) _ (fun t _ h => h.trans (wakeOwner_woken t _)) (.refl s) _

/-! ### What an island's part of a commit leaves (R175) -/

/-- The values, what is sealed, the actions that wait, the tick and the engine state. -/
def State.commitView (s : State) : Tab (List CUnit) × Tab Val × List EWrite × Nat × EState :=
  (s.dict.sealed, s.dict.vals, s.dict.actions, s.time.tick, s.top.state)

theorem Reported.commitView {s t : State} (h : Reported s t) : t.commitView = s.commitView := by
  unfold State.commitView
  rw [h.dict, h.time, h.topState]

theorem Woken.commitView {s t : State} (h : Woken s t) : t.commitView = s.commitView := by obtain ⟨_, rfl⟩ := h; rfl

theorem alnClamped_reported (s : State) (a : Aln) (o : Nat) (hit : Bool) :
    ∃ aln, Reported { s with aln := aln } (State.alnClamped { s with aln := a } o hit) := by
  unfold State.alnClamped
  split
  · exact ⟨_, raise_reported _ _ _ _ _ (by decide)⟩
  · exact ⟨a, .refl _⟩

/-- An output under a commit: ALN changes, and a clamp may be reported. -/
theorem alnCommit_reported (s : State) (o k : Nat) (wrote : Nat → Bool) : ∃ aln, Reported { s with aln := aln } (s.alnCommit o k wrote) := by
  unfold State.alnCommit
  dsimp only
  split
  · split
    · exact ⟨s.aln, .refl s⟩
    · split
      · exact ⟨s.aln, .refl s⟩
      · exact alnClamped_reported s _ _ _
  · exact alnClamped_reported s _ _ _

theorem commitCluster_commitView (s : State) (us : List CUnit) (n : Nat) : (s.commitCluster us n).commitView = s.commitView := by
  unfold State.commitCluster
  dsimp only
  split_ifs <;> rfl

/-- The work set images and the silence units stand, and so does every other cluster. -/
theorem commitCluster_others (s : State) (us : List CUnit) (m : Nat) : (s.commitCluster us m).ws = s.ws ∧ (s.commitCluster us m).sil = s.sil ∧
    ∀ n, n ≠ m → (s.commitCluster us m).cluster n = s.cluster n := by
  unfold State.commitCluster
  dsimp only
  split_ifs <;> refine ⟨rfl, rfl, fun n h => ?_⟩ <;> simp [State.cluster_setCluster_other _ _ _ _ h]

theorem commitIsland_commitView (k : Nat) (us : List CUnit) (s : State) (i : Nat) : (s.commitIsland k us i).commitView = s.commitView := by
  unfold State.commitIsland
  dsimp only
  split_ifs
  · rfl
  · rfl
  · refine foldS_view State.commitView _ (fun s o => ?_) s _
    obtain ⟨_, h⟩ := alnCommit_reported s (o - 0x7000) k fun m => (writesOf us).any fun w => w.obj == o && w.mem == m
    exact h.commitView
  · exact commitCluster_commitView s us _
  · rfl

theorem commitSets_commitView (s : State) (us : List CUnit) : (s.commitSets us).commitView = s.commitView := by
  unfold State.commitSets
  dsimp only
  refine (foldS_view State.commitView _ (fun s w => ?_) _ _).trans (foldS_view State.commitView _ (fun s e => ?_) _ _)
  · split <;> rfl
  · exact (wakeOwner_woken _ _).commitView

/-- Values, work sets and fixed units under a commit: the values become those it writes. -/
theorem commitFixed_commitView (s : State) (a : Nat) (us : List CUnit) (skip : List Nat) : (s.commitFixed a us skip).commitView =
    (s.dict.sealed, overlay s.dict.vals ((writesOf us).filter fun w => !(isAction w)), s.dict.actions, s.time.tick, s.top.state) := by
  unfold State.commitFixed
  dsimp only
  refine (foldS_view State.commitView _ (commitIsland_commitView _ us) _ _).trans ?_
  rw [commitSets_commitView]
  rfl

/-! ### What follows the fixed units (R58, R67, R277) -/

theorem ctxCommit_csw (s : State) (old : Tab Val) (a : Nat) (us : List CUnit) (skip : List Nat) :
    ∃ csw, s.ctxCommit old a us skip = { s with csw := csw } := by
  unfold State.ctxCommit
  dsimp only
  split
  · exact ⟨_, rfl⟩
  · refine foldS_keeps (P := fun t => ∃ csw, t = { s with csw := csw }) _ (fun t e h => ?_) ⟨s.csw, rfl⟩ _
    obtain ⟨_, rfl⟩ := h
    exact ⟨_, rfl⟩

/-- A write to XO loads the increment, or does nothing. -/
theorem loadXo_time (s : State) : ∃ i f n, s.loadXo = { s with time := { s.time with inc := i, incInt := f, incFrac := n } } := by
  unfold State.loadXo
  dsimp only
  split_ifs <;> exact ⟨_, _, _, rfl⟩

/-- A single write beside the value store leaves the dictionary, the tick, the engine state, the clusters and their work sets. -/
theorem writeEffect_leaves (s : State) (w : EWrite) : (s.writeEffect w).dict = s.dict ∧ (s.writeEffect w).time.tick = s.time.tick ∧
    (s.writeEffect w).top = s.top ∧ (s.writeEffect w).clusters = s.clusters ∧ (s.writeEffect w).ws = s.ws ∧ (s.writeEffect w).sil = s.sil := by
  obtain ⟨_, _, _, xo⟩ := loadXo_time s
  unfold State.writeEffect
  rw [xo]
  obtain ⟨obj, mem, elem, val⟩ := w
  cases val <;> dsimp only <;> split_ifs <;> exact ⟨rfl, rfl, rfl, rfl, rfl, rfl⟩

/-- The start of a store concerns the scene slots and the commit log alone. -/
theorem startStore_leaves (s : State) (a : Nat) (u : CUnit) : ∃ slots log n, s.startStore a u =
    { s with dict := { s.dict with slots := slots, log := log, logNext := n } } := by
  unfold State.startStore
  dsimp only
  split_ifs <;> exact ⟨_, _, _, rfl⟩

/-- The clusters, the work sets and the silence units. -/
def State.clusterView (s : State) : Tab Cluster × Tab WorkSet × Sil := (s.clusters, s.ws, s.sil)

/-- Beyond the fixed units and clusters a commit changes no cluster. -/
theorem commitUnits_clusterView (s : State) (us : List CUnit) (a : Nat) (skip : List Nat) :
    (s.commitUnits us a skip).clusterView = (s.commitFixed a us skip).clusterView := by
  unfold State.commitUnits
  dsimp only
  refine (foldS_view State.clusterView _ (fun s u => ?_) _ _).trans ((foldS_view State.clusterView _ (fun s u => ?_) _ _).trans
    ((foldS_view State.clusterView _ (fun s w => ?_) _ _).trans ?_))
  · obtain ⟨_, _, _, h⟩ := startStore_leaves s a u
    rw [h]; rfl
  · split <;> rfl
  · obtain ⟨_, _, _, hc, hw, hs⟩ := writeEffect_leaves s w
    unfold State.clusterView
    rw [hc, hw, hs]
  · obtain ⟨_, h⟩ := ctxCommit_csw (s.commitFixed a us skip) s.dict.vals a us skip
    rw [h]; rfl

/-- A commit brings its values into force and its actions into the queue; the other commits, the tick and the engine state stand. -/
theorem commitUnits_commitView (s : State) (us : List CUnit) (a : Nat) (skip : List Nat) : (s.commitUnits us a skip).commitView =
    (s.dict.sealed, overlay s.dict.vals ((writesOf us).filter fun w => !(isAction w)), s.dict.actions ++ (writesOf us).filter isAction,
      s.time.tick, s.top.state) := by
  unfold State.commitUnits
  dsimp only
  have effects (t : State) (ws : List EWrite) : (foldS State.writeEffect t ws).commitView = t.commitView := by
    refine foldS_view State.commitView _ (fun s w => ?_) _ _
    obtain ⟨hd, ht, hs, _⟩ := writeEffect_leaves s w
    unfold State.commitView
    rw [hd, ht, hs]
  refine (foldS_view State.commitView _ (fun s u => ?_) _ _).trans ((foldS_view State.commitView _ (fun s u => ?_) _ _).trans ?_)
  · obtain ⟨_, _, _, h⟩ := startStore_leaves s a u
    rw [h]; rfl
  · split <;> rfl
  · have fixed := commitFixed_commitView s a us skip
    obtain ⟨_, h⟩ := ctxCommit_csw (s.commitFixed a us skip) s.dict.vals a us skip
    have before := (effects ((s.commitFixed a us skip).ctxCommit s.dict.vals a us skip) ((writesOf us).filter fun w => !(isAction w))).trans
      ((congrArg State.commitView h).trans fixed)
    unfold State.commitView at before ⊢
    simp only [Prod.mk.injEq] at before
    obtain ⟨hs, hv, ha, ht, hst⟩ := before
    simp [hs, hv, ha, ht, hst]

/-- A sealed commit takes effect and is sealed no more. -/
theorem applySealed_some {s : State} {a : Nat} {us : List CUnit} (h : tfind s.dict.sealed a = some us) (skip : List Nat) :
    s.applySealed skip a = (s.modDict fun d => { d with sealed := tdel d.sealed a }).commitUnits us a skip := by
  unfold State.applySealed
  rw [h]

theorem applySealed_none {s : State} {a : Nat} (h : tfind s.dict.sealed a = none) (skip : List Nat) : s.applySealed skip a = s := by
  unfold State.applySealed
  rw [h]

/-- COMMIT_APPLY at or after the start of PROCESS of its tick. -/
theorem execCommitApply_due {s : State} {a : Nat} (h : a + 2 ≤ s.time.tick) :
    execCommitApply a s = .next (s.quiet.applySealed [] a).runActions := by
  unfold execCommitApply
  dsimp only
  rw [if_pos (by exact h)]

end Sys2Proof.Machine
end

section
/-! PROOF. Spare-ins (R128-R134, R140): requests, the sweep and the switch of ownership, for O48. -/

namespace Sys2Proof.Machine

/-! ### A memory with the regions of another (R133) -/

/-- A byte of the cells that a predicate on addresses picks. -/
theorem memGet_filter (p : Nat → Bool) (m : List Host.Cell) (i : Nat) : memGet (m.filter fun c => p c.1) i = if p i then memGet m i else 0 := by
  induction m with
  | nil => simp [memGet]
  | cons e t ih =>
    obtain ⟨a, b⟩ := e
    rw [List.filter_cons]
    by_cases ha : a = i
    · subst ha
      by_cases hp : p a = true
      · simp [hp, memGet]
      · rw [if_neg (by simpa using hp), ih, if_neg hp, if_neg hp]
    · by_cases hp : p a = true
      · rw [if_pos (by simpa using hp), memGet, if_neg ha, ih, memGet, if_neg ha]
      · rw [if_neg (by simpa using hp), ih, memGet, if_neg ha]

/-- A memory written over another: its own bytes where it lists them, those underneath elsewhere. -/
theorem memGet_foldl_memSet {src dst : List Host.Cell} (hs : Memory.wf src = true) (hd : Memory.wf dst = true) (i : Nat) :
    memGet (src.foldl (fun m c => memSet m c.1 c.2) dst) i = if memGet src i = 0 then memGet dst i else memGet src i := by
  induction src generalizing dst with
  | nil => simp [memGet]
  | cons e t ih =>
    obtain ⟨a, b⟩ := e
    obtain ⟨hb, above, ht⟩ := wf_cons.1 hs
    rw [List.foldl_cons, ih ht (wf_memSet hd a b)]
    by_cases ha : a = i
    · subst ha
      rw [memGet_above above, if_pos rfl, memGet_memSet_same hd, memGet, if_pos rfl, if_neg hb]
    · rw [memGet_memSet_other _ _ _ _ (Ne.symm ha), memGet, if_neg ha]

theorem memGet_clearRegions (rs : List (Nat × Nat)) (m : List Host.Cell) (i : Nat) :
    memGet (clearRegions rs m) i = if inRegions rs i then 0 else memGet m i := by
  unfold clearRegions
  rw [memGet_filter (fun a => !(inRegions rs a))]
  cases inRegions rs i <;> rfl

theorem memGet_copyRegions (rs : List (Nat × Nat)) {src dst : List Host.Cell} (hs : Memory.wf src = true) (hd : Memory.wf dst = true) (i : Nat) :
    memGet (copyRegions rs src dst) i = if inRegions rs i then memGet src i else memGet dst i := by
  have kept : memGet (keepRegions rs src) i = if inRegions rs i then memGet src i else 0 := memGet_filter (inRegions rs) src i
  have wk : Memory.wf (keepRegions rs src) = true := wf_filter hs _
  have wc : Memory.wf (clearRegions rs dst) = true := wf_filter hd _
  unfold copyRegions
  rw [memGet_foldl_memSet wk wc, kept, memGet_clearRegions]
  cases inRegions rs i
  · simp
  · simp only [if_true]
    split
    · symm; assumption
    · rfl

/-! ### The sweep (R129, R133) -/

/-- A lane of the spare after the sweep, where source and spare both have it. -/
theorem sweepLanes_get (img : Image) {as bs : List Lane} {k : Nat} {x y : Lane} (hx : as[k]? = some x) (hy : bs[k]? = some y) :
    (sweepLanes img as bs)[k]? = some { y with lmem := copyRegions img.state x.lmem y.lmem, noise := x.noise } := by
  induction as generalizing bs k with
  | nil => simp at hx
  | cons a as ih =>
    cases bs with
    | nil => simp at hy
    | cons b bs =>
      cases k with
      | zero =>
        simp only [List.getElem?_cons_zero, Option.some.injEq] at hx hy
        subst hx hy
        rfl
      | succ k => exact ih (by simpa using hx) (by simpa using hy)

/-- The cluster that a sweep goes to. -/
theorem sweep_cluster (s : State) (n : Nat) : (s.sweep n).cluster n = if (s.cluster n).spinForced then (s.cluster n).zeroState else
    { s.cluster n with lanes := sweepLanes (s.cluster n).img (s.cluster (s.cluster n).spinSrc).lanes (s.cluster n).lanes } := by
  unfold State.sweep
  dsimp only
  rw [State.cluster_setCluster_same]

/-- The sweep changes the lanes of the spare only. -/
theorem sweep_cluster_lanes (s : State) (n : Nat) : (s.sweep n).cluster n = { s.cluster n with lanes := ((s.sweep n).cluster n).lanes } := by
  rw [sweep_cluster]
  split <;> rfl

/-- A lane after the sweep: STATE as the source has it, or zeros where the spare-in is FORCED. -/
theorem sweep_lane {s : State} {n k : Nat} {x y : Lane} (hx : (s.cluster (s.cluster n).spinSrc).lanes[k]? = some x)
    (hy : (s.cluster n).lanes[k]? = some y) (wx : Memory.wf x.lmem = true) (wy : Memory.wf y.lmem = true) :
    ∃ z, ((s.sweep n).cluster n).lanes[k]? = some z ∧ z = { y with lmem := z.lmem, noise := if (s.cluster n).spinForced then y.noise else x.noise } ∧
      ∀ i, memGet z.lmem i = if inRegions (s.cluster n).img.state i then (if (s.cluster n).spinForced then 0 else memGet x.lmem i) else memGet y.lmem i := by
  rw [sweep_cluster]
  split
  · refine ⟨{ y with lmem := clearRegions (s.cluster n).img.state y.lmem }, ?_, rfl, memGet_clearRegions _ _⟩
    simp [Cluster.zeroState, hy]
  · exact ⟨_, sweepLanes_get _ hx hy, rfl, memGet_copyRegions _ wx wy⟩

/-- A change of one cluster that leaves its lanes leaves every cluster's lanes. -/
theorem setCluster_lanes (s : State) (n m : Nat) (f : Cluster → Cluster) (h : (f (s.cluster n)).lanes = (s.cluster n).lanes) :
    ((s.setCluster n f).cluster m).lanes = (s.cluster m).lanes := by
  by_cases hm : m = n
  · subst hm; rw [State.cluster_setCluster_same, h]
  · rw [State.cluster_setCluster_other _ _ _ _ hm]

theorem onlyCluster_setCluster (s : State) (n : Nat) (f : Cluster → Cluster) : OnlyCluster s (s.quiet.setCluster n f) n :=
  ⟨fun _ h => State.cluster_setCluster_other s.quiet n _ f h, rfl⟩

/-- The copy of tick s + 4: the spare's phase and its lanes. -/
theorem execSpareInSweep_due {s : State} {n : Nat} (hp : (s.cluster n).phase = 1) (ht : (s.cluster n).spinTick + 4 ≤ s.time.tick) :
    execSpareInSweep n s = .next ((s.quiet.setCluster n fun c => { c with phase := 2 }).sweep n) := by
  unfold execSpareInSweep
  dsimp only
  rw [if_pos ⟨.inl hp, ht⟩]

theorem sweep_onlyCluster (s : State) (n : Nat) : OnlyCluster s ((s.quiet.setCluster n fun c => { c with phase := 2 }).sweep n) n := by
  refine ⟨fun k hk => ?_, rfl⟩
  unfold State.sweep
  dsimp only
  rw [State.cluster_setCluster_other _ _ _ _ hk, State.cluster_setCluster_other _ _ _ _ hk]
  rfl

end Sys2Proof.Machine
end

section
/-! PROOF. The switch of ownership, faults of spares and the commit of a cluster's image (R110, R129-R133): for O48. -/

namespace Sys2Proof.Machine

/-! ### The switch of ownership (R133 step 4) -/

/-- A spare as it takes its work set over. -/
def Cluster.takenOver (c : Cluster) (tick : Nat) : Cluster :=
  { c with role := 1, phase := 0, matchCnt := 0, mismatches := 0, spinStart := false, spinAbandon := false, spinRotation := false, spareSince := tick }

/-- A source as it goes back to spare duty. -/
def Cluster.released (c : Cluster) : Cluster :=
  { c with role := 0, wset := 0, wsv := false, stepping := false, march := 0, golden := false }

/-- The spare has taken over, with STATE zeroed where the spare-in is FORCED. -/
def State.spareOwns (s : State) (n : Nat) : State :=
  (if (s.cluster n).spinForced then s.sweep n else s).setCluster n fun c => c.takenOver s.time.tick

/-- The source has stopped: it is a spare again, or FAULTY if it is to be taken out of use. -/
def State.sourceStops (s : State) (src : Nat) (condemned : Bool) : State :=
  if condemned then s.makeFaulty src else s.setCluster src Cluster.released

/-- Spare and source have changed places, and the work set's outputs are its own again. -/
def State.handedOver (s : State) (n : Nat) : State :=
  ((s.spareOwns n).sourceStops (s.cluster n).spinSrc (s.cluster (s.cluster n).spinSrc).condemned).setWorkSet (s.cluster n).wset fun w =>
    { w with zeroOut := false }

theorem switchOwner_eq (s : State) (n : Nat) : s.switchOwner n = (s.handedOver n).noteNoSpare n := rfl

/-- The new owner: nothing of it but its duty, and its lanes where they are zeroed, has changed. -/
theorem spareOwns_cluster_same (s : State) (n : Nat) : ∃ lanes, (s.spareOwns n).cluster n = { s.cluster n with lanes := lanes }.takenOver s.time.tick ∧
    ((s.cluster n).spinForced = false → lanes = (s.cluster n).lanes) := by
  unfold State.spareOwns
  rw [State.cluster_setCluster_same]
  split
  · rename_i forced
    refine ⟨((s.sweep n).cluster n).lanes, ?_, fun h => absurd forced (by simp [h])⟩
    rw [← sweep_cluster_lanes]
  · exact ⟨_, rfl, fun _ => rfl⟩

theorem sweep_others (s : State) {n k : Nat} (h : k ≠ n) : (s.sweep n).cluster k = s.cluster k := by
  unfold State.sweep
  dsimp only
  rw [State.cluster_setCluster_other _ _ _ _ h]

theorem spareOwns_others (s : State) {n k : Nat} (h : k ≠ n) : (s.spareOwns n).cluster k = s.cluster k := by
  unfold State.spareOwns
  rw [State.cluster_setCluster_other _ _ _ _ h]
  split
  · exact sweep_others s h
  · rfl

theorem spareOwns_eq (s : State) (n : Nat) : s.spareOwns n = { s with clusters := (s.spareOwns n).clusters } := by
  unfold State.spareOwns
  split <;> rfl

/-- What is left of a cluster that is FAULTY: its standing and its host copies. -/
def Cluster.faulty (c : Cluster) : Cluster :=
  { ({} : Cluster) with
    role := 3, stFail := c.stFail, spareSince := c.spareSince, peak := c.peak, hostOvg := c.hostOvg, hostSat := c.hostSat
    hostCirc := c.hostCirc, hostAddr := c.hostAddr, stPass := c.stPass, march := c.march, seen := c.seen }

theorem makeFaulty_same (s : State) (n : Nat) : (s.makeFaulty n).cluster n = (s.cluster n).faulty :=
  State.cluster_setCluster_same s n Cluster.faulty

theorem makeFaulty_others (s : State) {n k : Nat} (h : k ≠ n) : (s.makeFaulty n).cluster k = s.cluster k :=
  State.cluster_setCluster_other s n k Cluster.faulty h

theorem makeFaulty_role (s : State) (n : Nat) : ((s.makeFaulty n).cluster n).role = 3 := by rw [makeFaulty_same]; rfl

theorem makeFaulty_stFail (s : State) (n : Nat) : ((s.makeFaulty n).cluster n).stFail = (s.cluster n).stFail := by rw [makeFaulty_same]; rfl

theorem makeFaulty_off (s : State) (n : Nat) : (s.makeFaulty n).pwr.on.testBit (8 + n) = false := by
  change (s.pwr.on - s.pwr.on.land (2 ^ (8 + n))).testBit (8 + n) = false
  rw [testBit_sub_land_two_pow]
  simp

theorem sourceStops_others (s : State) (b : Bool) {src k : Nat} (h : k ≠ src) : (s.sourceStops src b).cluster k = s.cluster k := by
  unfold State.sourceStops
  split
  · exact makeFaulty_others s h
  · exact State.cluster_setCluster_other s src k _ h

/-- A switch of ownership but for the report of NO_SPARE. -/
theorem switchOwner_reported (s : State) (n : Nat) : Reported (s.handedOver n) (s.switchOwner n) := by
  rw [switchOwner_eq]
  exact noteNoSpare_reported _ _

/-- The new owner after the switch. -/
theorem switchOwner_owner {s : State} {n : Nat} (h : (s.cluster n).spinSrc ≠ n) : (s.switchOwner n).cluster n = (s.spareOwns n).cluster n := by
  rw [(switchOwner_reported s n).cluster]
  exact sourceStops_others _ _ (Ne.symm h)

/-- The switch concerns the spare and its source only. -/
theorem switchOwner_others {s : State} {n k : Nat} (h : k ≠ n) (hs : k ≠ (s.cluster n).spinSrc) : (s.switchOwner n).cluster k = s.cluster k := by
  rw [(switchOwner_reported s n).cluster]
  exact (sourceStops_others _ _ hs).trans (spareOwns_others s h)

theorem switchOwner_workSet (s : State) (n : Nat) : ((s.switchOwner n).workSet (s.cluster n).wset).zeroOut = false := by
  rw [(switchOwner_reported s n).workSet]
  unfold State.handedOver State.workSet State.setWorkSet
  dsimp only
  rw [tget_tmod_same]

/-- A source that stays in use is a spare. -/
theorem switchOwner_released {s : State} {n : Nat} (h : (s.cluster n).spinSrc ≠ n) (hc : (s.cluster (s.cluster n).spinSrc).condemned = false) :
    (s.switchOwner n).cluster (s.cluster n).spinSrc = (s.cluster (s.cluster n).spinSrc).released := by
  rw [(switchOwner_reported s n).cluster]
  unfold State.handedOver
  rw [hc]
  change ((s.spareOwns n).setCluster _ _).cluster _ = _
  rw [State.cluster_setCluster_same, spareOwns_others s h]

/-- With its source on spare duty a switch concerns clusters and work sets only: there is no NO_SPARE. -/
theorem switchOwner_frame {s : State} {n : Nat} (h9 : (s.cluster n).spinSrc < 9)
    (hc : (s.cluster (s.cluster n).spinSrc).condemned = false) :
    s.switchOwner n = { s with clusters := (s.switchOwner n).clusters, ws := (s.switchOwner n).ws } := by
  have spare : (((s.spareOwns n).setCluster (s.cluster n).spinSrc Cluster.released).cluster (s.cluster n).spinSrc).role = 0 := by
    rw [State.cluster_setCluster_same]; rfl
  have eq : s.switchOwner n = ((s.spareOwns n).setCluster (s.cluster n).spinSrc Cluster.released).setWorkSet (s.cluster n).wset fun w =>
      { w with zeroOut := false } := by
    rw [switchOwner_eq]
    unfold State.handedOver
    rw [hc]
    exact noteNoSpare_of_spare (s := ((s.spareOwns n).setCluster (s.cluster n).spinSrc Cluster.released).setWorkSet (s.cluster n).wset fun w =>
      { w with zeroOut := false }) h9 spare n
  rw [eq, spareOwns_eq]
  rfl

/-- A source that is to be taken out of use is FAULTY, its domain off. -/
theorem switchOwner_condemned {s : State} {n : Nat} (hc : (s.cluster (s.cluster n).spinSrc).condemned = true) :
    ((s.switchOwner n).cluster (s.cluster n).spinSrc).role = 3 ∧ (s.switchOwner n).pwr.on.testBit (8 + (s.cluster n).spinSrc) = false := by
  have r := switchOwner_reported s n
  unfold State.handedOver at r
  rw [hc] at r
  rw [r.cluster, r.pwr]
  exact ⟨makeFaulty_role (s.spareOwns n) _, makeFaulty_off (s.spareOwns n) _⟩

/-! ### Events of clusters (R130, R134) -/

/-- Bits of INT_STAT that are set stay set under an event. -/
theorem or_keeps_bits {x m : Word} (h : x &&& m = m) (y : Word) : (x ||| y) &&& m = m := by
  rw [BitVec.and_comm, BitVec.and_or_distrib_left, BitVec.and_comm m x, h]
  ext i
  simp
  tauto

theorem or_sets_bits (x m : Word) : (x ||| m) &&& m = m := by
  ext i
  simp
  tauto

theorem raise_intStat {s : State} (hsh : s.top.shadows = []) (b ev detail : Nat) (cls : EvClass) (h : cls ≠ .f) (a : Nat) {m : Word}
    (hm : (s.common a).intStat &&& m = m) : ((s.raiseAs b ev cls detail s.tickDetail none).common a).intStat &&& m = m := by
  obtain ⟨r, -⟩ := raise_eq s b ev detail s.tickDetail cls hsh fun hf => absurd hf h
  by_cases ha : a = b
  · subst ha
    rw [r.stat]
    exact or_keeps_bits hm _
  · rw [r.others a ha]
    exact hm

theorem mark_pulse_shadows (t : Top) (cls : EvClass) (b n : Nat) : ((t.pulse cls).mark b cls n).shadows = t.shadows := by
  unfold Top.mark Top.pulse Top.fault
  dsimp only
  split_ifs <;> rfl

/-- An event outside every shadow opens none. -/
theorem raiseT_shadows {s : State} (hsh : s.top.shadows = []) (b ev who : Nat) (cls : EvClass) (h : cls ≠ .f) :
    (s.raiseT b ev cls who).top.shadows = [] := by
  obtain ⟨-, e⟩ := raise_eq s b ev who s.tickDetail cls hsh fun hf => absurd hf h
  unfold State.raiseT
  rw [e, if_neg h]
  exact (mark_pulse_shadows _ _ _ _).trans hsh

/-- A spare that fails leaves the bits of INT_STAT that were set. -/
theorem spareFails_intStat {s : State} (hsh : s.top.shadows = []) (n a : Nat) {m : Word} (hm : (s.common a).intStat &&& m = m) :
    ((s.spareFails n).common a).intStat &&& m = m := by
  unfold State.spareFails State.noteNoSpare
  split
  · exact hm
  · exact raise_intStat (s := s.makeFaulty n) hsh _ _ _ _ (by decide) a hm

/-- A spare that fails is FAULTY, its domain off, and STFAIL stands. -/
theorem spareFails_faulty (s : State) (n : Nat) : ((s.spareFails n).cluster n).role = 3 ∧ (s.spareFails n).pwr.on.testBit (8 + n) = false ∧
    ((s.spareFails n).cluster n).stFail = (s.cluster n).stFail := by
  have r := noteNoSpare_reported (s.makeFaulty n) n
  unfold State.spareFails
  rw [r.cluster, r.pwr]
  exact ⟨makeFaulty_role s n, makeFaulty_off s n, makeFaulty_stFail s n⟩

/-- STFAIL and SELFTEST of a cluster that fails its self-test, before the event. -/
def State.stFailed (s : State) (n : Nat) : State :=
  (s.setCluster n fun c => { c with stFail := true }).modTop fun t => { t with selfFail := t.selfFail.lor 1 }

theorem stFailed_stFail (s : State) (n : Nat) : ((s.stFailed n).cluster n).stFail = true := by
  change ((s.setCluster n fun c => { c with stFail := true }).cluster n).stFail = true
  rw [State.cluster_setCluster_same]

/-- A failed self-test: the spare is FAULTY with STFAIL set, its domain off, and SELFTEST_FAIL stands in its INT_STAT. -/
theorem selfTestFails_faulty {s : State} (hsh : s.top.shadows = []) (n : Nat) : ((s.selfTestFails n).cluster n).role = 3 ∧
    ((s.selfTestFails n).cluster n).stFail = true ∧ (s.selfTestFails n).pwr.on.testBit (8 + n) = false ∧
    ((s.selfTestFails n).common (blkCl n)).intStat &&& 0x80000 = 0x80000 := by
  have shadows : (s.stFailed n).top.shadows = [] := hsh
  have reported := raiseT_reported (s.stFailed n) (blkCl n) 0x13 0 .u (by decide)
  obtain ⟨recorded, -⟩ := raise_eq (s.stFailed n) (blkCl n) 0x13 0 (s.stFailed n).tickDetail .u shadows (fun h => by cases h)
  obtain ⟨role, off, stFail⟩ := spareFails_faulty ((s.stFailed n).raiseT (blkCl n) 0x13 .u) n
  have set : (((s.stFailed n).raiseT (blkCl n) 0x13 .u).common (blkCl n)).intStat &&& 0x80000 = 0x80000 :=
    (congrArg (· &&& (0x80000 : Word)) recorded.stat).trans (or_sets_bits _ 0x80000)
  refine ⟨role, ?_, off, spareFails_intStat (raiseT_shadows shadows _ _ _ _ (by decide)) _ _ set⟩
  exact stFail.trans ((congrArg Cluster.stFail (reported.cluster n)).trans (stFailed_stFail s n))

/-- An event of a cluster that is no spare takes nothing out of use. -/
theorem spareEvent_of_working {s : State} {n : Nat} (h : (s.cluster n).role ≠ 0) : s.spareEvent n = s := by
  unfold State.spareEvent
  rw [if_neg fun k => h k.1]

end Sys2Proof.Machine
end

section
/-! PROOF. The commit of an image (R116, R133, R208): for O48. -/

namespace Sys2Proof.Machine

/-- A fold of which one round alone concerns a view: what that round does to it, done to a state that agrees with the first. -/
theorem foldS_at {α β : Type} (view : State → β) (f : State → α → State) {b : α} (h : ∀ s a, a ≠ b → view (f s a) = view s) (s : State) {l : List α}
    (hl : l.Nodup) (hb : b ∈ l) : ∃ s', view s' = view s ∧ view (foldS f s l) = view (f s' b) := by
  induction l generalizing s with
  | nil => cases hb
  | cons a t ih =>
    obtain ⟨ha, ht⟩ := List.nodup_cons.1 hl
    by_cases hab : a = b
    · subst hab
      refine ⟨s, rfl, ?_⟩
      have rest : ∀ (t : List α) (u : State), a ∉ t → view (foldS f u t) = view u := by
        intro t
        induction t with
        | nil => exact fun u _ => rfl
        | cons c t ih => exact fun u hc => (ih _ fun k => hc (by simp [k])).trans (h u c fun k => hc (by simp [k]))
      exact rest t _ ha
    · obtain ⟨s', e, k⟩ := ih (f s a) ht ((List.mem_cons.1 hb).resolve_left (Ne.symm hab))
      exact ⟨s', e.trans (h s a hab), k⟩

/-- A cluster in use whose work set has a new image: it loads it, unless a step still runs, and a spare-in starts again. -/
def Cluster.imaged (c : Cluster) (v : Tab Val) (x : WorkSet) (tick : Nat) : Cluster :=
  let c1 := if c.stepping then { c with loadDue := true } else c.loadFor v x.img x.seed
  if c.role = 1 then c1 else { c1 with phase := 1, spinTick := tick, matchCnt := 0, mismatches := 0 }

theorem commitCluster_imaged {s : State} {us : List CUnit} {n : Nat} (hu : (s.cluster n).role = 1 ∨ (s.cluster n).phase ≠ 0)
    (hi : ((imagesOf us).any fun e => e.1 == (s.cluster n).wset) = true) : (s.commitCluster us n).cluster n =
      (s.cluster n).imaged s.dict.vals (s.workSet (s.cluster n).wset) s.time.tick := by
  have used : ¬ (!((s.cluster n).role == 1 || (s.cluster n).phase != 0)) = true := by simpa using fun h => hu.resolve_left h
  unfold State.commitCluster
  dsimp only
  rw [if_neg used, if_pos hi, State.cluster_setCluster_same]
  rfl

/-- What decides how a commit leaves cluster `n`. -/
def State.imageView (n : Nat) (s : State) : Cluster × Tab WorkSet × Sil × Nat × Tab Val := (s.cluster n, s.ws, s.sil, s.time.tick, s.dict.vals)

theorem commitCluster_imageView (s : State) (us : List CUnit) {n m : Nat} (h : n ≠ m) : (s.commitCluster us m).imageView n = s.imageView n := by
  obtain ⟨hw, hs, hc⟩ := commitCluster_others s us m
  have kept := commitCluster_commitView s us m
  simp only [State.commitView, Prod.mk.injEq] at kept
  obtain ⟨-, hv, -, ht, -⟩ := kept
  unfold State.imageView
  rw [hw, hs, hc n h, hv, ht]

theorem alnCommit_imageView (s : State) (o k n : Nat) (wrote : Nat → Bool) : (s.alnCommit o k wrote).imageView n = s.imageView n := by
  obtain ⟨_, r⟩ := alnCommit_reported s o k wrote
  unfold State.imageView
  rw [r.cluster, r.ws, r.sil, r.time, r.dict]
  rfl

/-- An island's part of a commit concerns no cluster but its own. -/
theorem commitIsland_imageView (k : Nat) (us : List CUnit) (s : State) {n i : Nat} (h : i ≠ blkCl n) :
    (s.commitIsland k us i).imageView n = s.imageView n := by
  unfold State.commitIsland
  dsimp only
  split_ifs with _ _ _ hi
  · rfl
  · rfl
  · exact foldS_view (State.imageView n) _ (fun s o => alnCommit_imageView s _ _ n _) s _
  · refine commitCluster_imageView s us fun e => h ?_
    have low : 0x20 ≤ i := by simp only [isCluster, Bool.and_eq_true, decide_eq_true_eq] at hi; exact hi.1
    unfold blkCl at e ⊢
    omega
  · rfl

/-- The islands leave images and monitors of work sets. -/
theorem commitIsland_sets (k : Nat) (us : List CUnit) (s : State) (i : Nat) :
    ((s.commitIsland k us i).ws, (s.commitIsland k us i).sil) = (s.ws, s.sil) := by
  unfold State.commitIsland
  dsimp only
  split_ifs
  · rfl
  · rfl
  · refine foldS_view (fun s => (s.ws, s.sil)) _ (fun s o => ?_) s _
    obtain ⟨_, r⟩ := alnCommit_reported s (o - 0x7000) k fun m => (writesOf us).any fun w => w.obj == o && w.mem == m
    rw [r.ws, r.sil]
  · obtain ⟨hw, hs, -⟩ := commitCluster_others s us (i - blkCl 0)
    rw [hw, hs]
  · rfl

theorem commitIsland_cluster (k : Nat) (us : List CUnit) (s : State) {n : Nat} (h : n < 9) : s.commitIsland k us (blkCl n) = s.commitCluster us n := by
  have cluster : isCluster (blkCl n) = true := by unfold isCluster blkCl; simp; omega
  have ne (b : Nat) (hb : b < 0x20 ∨ 0x28 < b) : blkCl n ≠ b := by unfold blkCl; omega
  have index : blkCl n - blkCl 0 = n := by unfold blkCl; omega
  unfold State.commitIsland
  dsimp only
  rw [if_neg (ne blkMix (by decide)), if_neg (not_or.2 ⟨ne blkDyn (by decide), ne islDyn1 (by decide)⟩), if_neg (ne blkAln (by decide)),
    if_pos cluster, index]

/-- The work sets of a commit that brings one image and writes nothing. -/
theorem commitSets_one (s : State) {u : CUnit} {ws : Nat} {img : Image} (hw : u.writes = []) (hi : u.images = [(ws, img)]) :
    Woken ({ s with sil := { s.sil with mon := tset s.sil.mon ws {} } }.setWorkSet ws fun w => { w with img := img }) (s.commitSets [u]) := by
  unfold State.commitSets
  have images : imagesOf [u] = [(ws, img)] := by simp [imagesOf, hi]
  have writes : writesOf [u] = [] := by simp [writesOf, hw]
  rw [images, writes]
  exact wakeOwner_woken _ _

/-- A cluster in use under the commit of its work set's image, with all the islands that take part. -/
theorem islands_image (k : Nat) {us : List CUnit} (s : State) {n : Nat} (h : n < 9) (hu : (s.cluster n).role = 1 ∨ (s.cluster n).phase ≠ 0)
    (hi : ((imagesOf us).any fun e => e.1 == (s.cluster n).wset) = true) : (foldS (State.commitIsland k us) s commitIslands).cluster n =
      (s.cluster n).imaged s.dict.vals (s.workSet (s.cluster n).wset) s.time.tick := by
  have islands : commitIslands.Nodup ∧ ∀ m, m < 9 → blkCl m ∈ commitIslands := by decide
  obtain ⟨s', same, out⟩ := foldS_at (State.imageView n) (State.commitIsland k us) (fun s i hne => commitIsland_imageView k us s hne) s
    islands.1 (islands.2 n h)
  rw [commitIsland_cluster k us s' h] at out
  simp only [State.imageView, Prod.mk.injEq] at same out
  obtain ⟨hc, hw, -, ht, hv⟩ := same
  rw [out.1, commitCluster_imaged (by rwa [hc]) (by rwa [hc]), hc, ht, hv]
  unfold State.workSet
  rw [hw]

/-- The commit of one image: the work set has it, its zero monitor starts anew, and the cluster that is in use with the work set loads it. -/
theorem commitFixed_image (s : State) (a : Nat) {u : CUnit} {ws n : Nat} {img : Image} (hw : u.writes = []) (hi : u.images = [(ws, img)]) :
    ((s.commitFixed a [u] []).workSet ws).img = img ∧ tget {} (s.commitFixed a [u] []).sil.mon ws = {} ∧
    (n < 9 → (s.cluster n).wset = ws → (s.cluster n).role = 1 ∨ (s.cluster n).phase ≠ 0 →
      ∃ v x, x.img = img ∧ (s.commitFixed a [u] []).cluster n = (s.cluster n).imaged v x s.time.tick) := by
  have part : (commitIslands.filter fun i => !(([] : List Nat).contains i)) = commitIslands := by decide
  unfold State.commitFixed
  dsimp only
  rw [part]
  generalize hb : State.modDict (s.settle a) _ = b
  have before : b.cluster n = s.cluster n ∧ b.time.tick = s.time.tick := by rw [← hb]; exact ⟨rfl, rfl⟩
  obtain ⟨_, sets⟩ := commitSets_one b hw hi
  have img_of : ((b.commitSets [u]).workSet ws).img = img := by
    rw [sets]; exact congrArg WorkSet.img (tget_tmod_same ({} : WorkSet) b.ws ws fun w => { w with img := img })
  have mon_of : tget {} (b.commitSets [u]).sil.mon ws = {} := by rw [sets]; exact tget_tset_same _ _ _ _
  have cluster_of : (b.commitSets [u]).cluster n = s.cluster n ∧ (b.commitSets [u]).time.tick = s.time.tick := by rw [sets]; exact before
  have kept := foldS_view (fun s => (s.ws, s.sil)) _ (commitIsland_sets (s.firstSample a) [u]) (b.commitSets [u]) commitIslands
  obtain ⟨hws, hsil⟩ := Prod.mk.inj kept
  refine ⟨?_, ?_, fun h9 hset hu => ⟨(b.commitSets [u]).dict.vals, (b.commitSets [u]).workSet ws, img_of, ?_⟩⟩
  · unfold State.workSet at img_of ⊢
    rw [hws, img_of]
  · rw [hsil, mon_of]
  · rw [islands_image _ _ h9 (by rwa [cluster_of.1]) (by simp [cluster_of.1, imagesOf, hi, hset]), cluster_of.1, cluster_of.2, hset]

end Sys2Proof.Machine
end

section
/-! PROOF. Spare-ins move a work set: O48. -/

namespace Sys2Proof.Machine

/-! ### Requests (R130, R131, R140) -/

theorem spinCommand_starts {s : State} {n src : Nat} (hr : (s.cluster n).role = 0) (hs : src ≤ 8) (hne : src ≠ n) (hrun : s.spinRunning = false)
    (forced : Bool) : s.spinCommand n src forced = s.startSpin n src forced false := by
  unfold State.spinCommand
  rw [if_neg (by omega), if_neg (by simp [hrun])]

theorem spinCommand_waits {s : State} {n src : Nat} (hr : (s.cluster n).role = 0) (hs : src ≤ 8) (hne : src ≠ n) (hrun : s.spinRunning = true)
    (forced : Bool) : s.spinCommand n src forced = { s with spinQ := some (src, forced) } := by
  unfold State.spinCommand
  rw [if_neg (by omega), if_pos hrun]

theorem spinCommand_refused {s : State} {n src : Nat} (h : (s.cluster n).role ≠ 0 ∨ 8 < src ∨ src = n) (forced : Bool) :
    s.spinCommand n src forced = s.setCommon (blkCl n) fun c => { c with cfgRej := true } := by
  unfold State.spinCommand
  rw [if_pos h]

/-- A spare-in that starts concerns its spare only. -/
theorem startSpin_only (s : State) (n src : Nat) (forced rotation : Bool) : OnlyCluster s (s.quiet.startSpin n src forced rotation) n :=
  onlyCluster_setCluster s n fun c => c.startedFor src forced rotation

theorem startSpin_cluster (s : State) (n src : Nat) (forced rotation : Bool) :
    (s.startSpin n src forced rotation).cluster n = (s.cluster n).startedFor src forced rotation :=
  State.cluster_setCluster_same s n fun c => c.startedFor src forced rotation

theorem startSpin_others (s : State) {n k : Nat} (h : k ≠ n) (src : Nat) (forced rotation : Bool) :
    (s.startSpin n src forced rotation).cluster k = s.cluster k :=
  State.cluster_setCluster_other s n k (fun c => c.startedFor src forced rotation) h

theorem repairSpin_starts {s : State} {n : Nat} (hrun : s.spinRunning = false) (hf : s.findSpare = some n) (src : Nat) (forced : Bool) :
    s.repairSpin src forced = s.startSpin n src forced false := by
  unfold State.repairSpin
  rw [if_neg (by simp [hrun]), hf]

theorem repairSpin_without_spare {s : State} (hrun : s.spinRunning = false) (hf : s.findSpare = none) (src : Nat) : s.repairSpin src false = s := by
  unfold State.repairSpin
  rw [if_neg (by simp [hrun]), hf]
  rfl

theorem execSpareIn_working {s : State} {src : Nat} (hs : src ≤ 8) (hr : (s.cluster src).role = 1) (forced : Bool) :
    execSpareIn src forced s = .next (s.quiet.repairSpin src forced) := by
  unfold execSpareIn
  rw [if_pos ⟨hs, hr⟩]

theorem execRotation_starts {s : State} {n src : Nat} (hn : s.top.state = .noon) (ht : s.pwr.therm < 2) (hc : s.cfg 0xA000 1 ≠ 0)
    (hrun : s.spinRunning = false) (hq : s.spinQ = none) (hf : s.findSpare = some n) (hr : s.rotationSource = some src) :
    execRotation s = .next (s.quiet.startSpin n src false true) := by
  have due : s.quiet.top.state = .noon ∧ s.quiet.pwr.therm < 2 ∧ s.quiet.cfg 0xA000 1 ≠ 0 ∧ (!s.quiet.spinRunning) = true ∧ s.quiet.spinQ = none :=
    ⟨hn, ht, hc, by rw [show s.quiet.spinRunning = false from hrun]; rfl, hq⟩
  unfold execRotation
  dsimp only
  rw [if_pos due, show s.quiet.findSpare = some n from hf, show s.quiet.rotationSource = some src from hr]

/-! ### The switch (R129, R133, R110) -/

theorem execSpareInSwitch_due {s : State} {n : Nat} (h : (s.cluster n).phase = 3 ∧ (s.cluster n).matchCnt = 16 ∧ (s.cluster n).spinForced = false ∨
    2 ≤ (s.cluster n).phase ∧ (s.cluster n).spinForced = true ∧ (s.cluster n).forcedAt < s.time.tick ∧ (s.cluster n).spinTick + 6 ≤ s.time.tick) :
    execSpareInSwitch n s = .next (s.quiet.switchOwner n) := by
  have due : s.maySwitch n = true := by
    unfold State.maySwitch
    rcases h with ⟨hp, hm, -⟩ | ⟨hp, hf, ht, hc⟩
    · simp [hp, hm]
    · simp [hp, hf, ht, hc]
  unfold execSpareInSwitch
  rw [if_pos due]

theorem execSpareInSwitch_early {s : State} {n : Nat} (hm : (s.cluster n).matchCnt < 16)
    (h : (s.cluster n).spinForced = false ∨ s.time.tick ≤ (s.cluster n).forcedAt) : execSpareInSwitch n s = .next s.quiet := by
  have early : ¬ s.maySwitch n = true := by
    have count : (s.cluster n).matchCnt ≠ 16 := by omega
    unfold State.maySwitch
    rcases h with hf | ht
    · simp [count, hf]
    · simp [count, Nat.not_lt.2 ht]
  unfold execSpareInSwitch
  rw [if_neg early]

/-! ### Events of a cluster (R128, R130) -/

theorem execMarchPass_spare {s : State} {n : Nat} (hr : (s.cluster n).role = 0) (hp : (s.cluster n).phase = 0)
    (hon : s.pwr.on.testBit (8 + n) = true) (ht : s.pwr.therm < 2) (pass : Bool) : execMarchPass n pass s =
      .next (if pass then s.quiet.setCluster n fun c => { c with march := 0 } else s.quiet.selfTestFails n) := by
  unfold execMarchPass
  dsimp only
  rw [if_pos ⟨hr, hp, by rw [bitAt_eq_testBit, hon], ht⟩]

theorem Reported.spinRunning {s t : State} (h : Reported s t) : t.spinRunning = s.spinRunning := by
  unfold State.spinRunning State.cluster
  rw [h.clusters]

theorem Reported.findSpare {s t : State} (h : Reported s t) : t.findSpare = s.findSpare := by
  unfold State.findSpare State.cluster
  rw [h.clusters]

/-- A lane with 4 repeats starts a repair of its WORKING cluster on a free spare. -/
theorem execLaneDegraded_starts {s : State} {n src lane : Nat} (hc : 4 ≤ s.replayCount n lane) (hr : (s.cluster n).role = 1)
    (hrun : s.spinRunning = false) (hf : s.findSpare = some src) :
    execLaneDegraded n lane s = .next ((s.quiet.raise (blkCl n) 0x11 .u lane).startSpin src n false false) := by
  have reported := raise_reported s.quiet (blkCl n) 0x11 lane .u (by decide)
  have role : ((s.quiet.raise (blkCl n) 0x11 .u lane).cluster n).role = 1 := by rw [reported.cluster]; exact hr
  unfold execLaneDegraded
  dsimp only
  rw [if_pos (show 4 ≤ s.quiet.replayCount n lane from hc), spareEvent_of_working (by omega), if_pos role,
    repairSpin_starts (reported.spinRunning.trans hrun) (reported.findSpare.trans hf)]

/-! ### Commits and gating (R18, R116, R206, R518) -/

theorem runActions_idle {s : State} (h : s.dict.actions = []) : s.runActions = s.modDict fun d => { d with actions := [] } := by
  unfold State.runActions
  rw [h]
  rfl

/-- COMMIT_APPLY of a commit of one image, with no action waiting: the clusters and work sets are those of the fixed units' part. -/
theorem execCommitApply_image {s : State} {k : Nat} {u : CUnit} (hk : k + 2 ≤ s.time.tick) (hs : tfind s.dict.sealed k = some [u])
    (hw : u.writes = []) (ha : s.dict.actions = []) : ∃ t, execCommitApply k s = .next t ∧
      t.clusterView = ((s.quiet.modDict fun d => { d with sealed := tdel d.sealed k }).commitFixed k [u] []).clusterView := by
  have view := commitUnits_clusterView (s.quiet.modDict fun d => { d with sealed := tdel d.sealed k }) [u] k []
  have rest := commitUnits_commitView (s.quiet.modDict fun d => { d with sealed := tdel d.sealed k }) [u] k []
  simp only [State.commitView, Prod.mk.injEq] at rest
  obtain ⟨-, -, actions, -⟩ := rest
  have idle : ((s.quiet.modDict fun d => { d with sealed := tdel d.sealed k }).commitUnits [u] k []).dict.actions = [] := by
    rw [actions]
    simpa [writesOf, hw] using ha
  refine ⟨_, execCommitApply_due hk, ?_⟩
  rw [applySealed_some (s := s.quiet) hs, runActions_idle idle]
  exact view

/-- COMMIT_APPLY of one image: the work set has it, and the cluster that is in use with the work set loads it. -/
theorem execCommitApply_loads {s : State} {k ws n : Nat} {u : CUnit} {img : Image} (hk : k + 2 ≤ s.time.tick)
    (hs : tfind s.dict.sealed k = some [u]) (hw : u.writes = []) (hi : u.images = [(ws, img)]) (ha : s.dict.actions = []) (h9 : n < 9)
    (hset : (s.cluster n).wset = ws) : ∃ t, execCommitApply k s = .next t ∧ (t.workSet ws).img = img ∧ tget {} t.sil.mon ws = {} ∧
      ((s.cluster n).role = 1 ∨ (s.cluster n).phase ≠ 0 → ∃ v x, x.img = img ∧ t.cluster n = (s.cluster n).imaged v x s.time.tick) := by
  obtain ⟨t, ran, view⟩ := execCommitApply_image hk hs hw ha
  obtain ⟨himg, hmon, hcl⟩ := commitFixed_image (s.quiet.modDict fun d => { d with sealed := tdel d.sealed k }) k (n := n) hw hi
  simp only [State.clusterView, Prod.mk.injEq] at view
  obtain ⟨clusters, sets, sil⟩ := view
  unfold State.workSet at himg
  refine ⟨t, ran, ?_, ?_, fun hu => ?_⟩
  · unfold State.workSet
    rw [sets, himg]
  · rw [sil, hmon]
  · obtain ⟨v, x, hx, hc⟩ := hcl h9 hset hu
    refine ⟨v, x, hx, ?_⟩
    unfold State.cluster at hc ⊢
    rw [clusters, hc]
    rfl

/-- A cluster loads an image that carries no strips as it is. -/
theorem loadFor_plain (c : Cluster) (v : Tab Val) {img : Image} (h : imageStrips img = []) (seed : BitVec 64) : c.loadFor v img seed = c.load img seed := by
  unfold Cluster.loadFor
  rw [h]
  rfl

theorem imaged_working {c : Cluster} (hr : c.role = 1) (hs : c.stepping = false) (v : Tab Val) (x : WorkSet) (tick : Nat) :
    c.imaged v x tick = c.loadFor v x.img x.seed := by
  unfold Cluster.imaged
  rw [if_pos hr, hs]
  rfl

theorem imaged_stepping {c : Cluster} (hr : c.role = 1) (hs : c.stepping = true) (v : Tab Val) (x : WorkSet) (tick : Nat) :
    c.imaged v x tick = { c with loadDue := true } := by
  unfold Cluster.imaged
  rw [if_pos hr, hs]
  rfl

theorem imaged_spare {c : Cluster} (hr : c.role ≠ 1) (hs : c.stepping = false) (v : Tab Val) (x : WorkSet) (tick : Nat) :
    c.imaged v x tick = { c.loadFor v x.img x.seed with phase := 1, spinTick := tick, matchCnt := 0, mismatches := 0 } := by
  unfold Cluster.imaged
  rw [if_neg hr, hs]
  rfl

/-- A digitally silent work set whose owner takes no part in a spare-in gates it. -/
theorem wsZero_gates {s : State} {v : Tab Val} {ws n : Nat} (ht : s.msTicks (cfgN v 0xD108 1 ws).toNat ≤ (tget ({} : ZeroMon) s.sil.mon ws).ticks)
    (ho : s.owner ws = some n) (hi : s.inSpin n = false) : s.wsZero v ws =
      { s with sil := { s.sil with mon := tmod {} s.sil.mon ws fun m => { m with zero := true } }, pwr := { s.pwr with gated := s.pwr.gated.lor (2 ^ n) } } := by
  have owner : ({ s with sil := { s.sil with mon := tmod {} s.sil.mon ws fun (m : ZeroMon) => { m with zero := true } } } : State).owner ws = some n := ho
  have free : ({ s with sil := { s.sil with mon := tmod {} s.sil.mon ws fun (m : ZeroMon) => { m with zero := true } } } : State).inSpin n = false := hi
  unfold State.wsZero
  dsimp only
  rw [if_pos ht, owner]
  dsimp only
  rw [if_neg (by simp [free])]

theorem execWsZero_cut {s : State} {k ws : Nat} (hk : s.csw.cutTick = some k) (hw : ws < 8) : execWsZero ws s = .next (s.quiet.wsZero (s.conf k) ws) := by
  unfold execWsZero
  dsimp only
  rw [show s.quiet.csw.cutTick = some k from hk]
  dsimp only
  rw [if_pos hw]
  rfl

theorem execClusterReady_woken {s : State} {n : Nat} (h : s.pwr.waking.testBit n = true) : execClusterReady n s = .next { s.quiet with
    pwr := { s.pwr with gated := s.pwr.gated - s.pwr.gated.land (2 ^ n), waking := s.pwr.waking - s.pwr.waking.land (2 ^ n) } } := by
  unfold execClusterReady
  dsimp only
  rw [if_pos (by rw [bitAt_eq_testBit]; exact h)]
  rfl

/-- Settles O48: requests, sweep, switch, rotation, faults, commits and gating, one by one. -/
theorem spareInsMoveAWorkSet : Obligations.SpareInsMoveAWorkSet := by
  unfold Obligations.SpareInsMoveAWorkSet
  intro s m n src lane ws forced hsh
  refine ⟨fun hw hr hs hne hrun => ?_, fun hw hr hs hne hrun => ?_, fun hw h => ?_, fun hw hp => ?_, fun hs hr hrun hf => ?_,
    fun hs hr hrun hf => ?_, fun hp ht => ?_, fun h hne h9 => ?_, fun hp hm h => ?_, fun hn ht hc hrun hq hf hr => ?_, fun hr hp hon ht => ?_,
    fun hc hr hrun hf => ?_, fun k u img hk hs hkind hw hi hstrips h9 hset ha => ?_, fun k h8 hk hticks ho hspin => ?_, fun h => ?_⟩
  case refine_1 =>
    refine ⟨_, (congrArg Host.Outcome.next (viaWrite_ok s m _ _ _ hw)).trans (congrArg Host.Outcome.next (spinCommand_starts (s := s.quiet) hr hs hne hrun forced)),
      startSpin_only s n src forced false, startSpin_cluster _ _ _ _ _⟩
  case refine_2 =>
    exact (congrArg Host.Outcome.next (viaWrite_ok s m _ _ _ hw)).trans (congrArg Host.Outcome.next (spinCommand_waits (s := s.quiet) hr hs hne hrun forced))
  case refine_3 =>
    refine ⟨_, (congrArg Host.Outcome.next (viaWrite_ok s m _ _ _ hw)).trans (congrArg Host.Outcome.next (spinCommand_refused (s := s.quiet) h forced)), ?_, rfl⟩
    rw [State.common_setCommon_same]
  case refine_4 =>
    have spins : (s.cluster n).spinning = true := by simp [Cluster.spinning, hp]
    refine ⟨_, congrArg Host.Outcome.next (viaWrite_ok s m _ _ _ hw), onlyCluster_setCluster s n _, ?_⟩
    refine (State.cluster_setCluster_same s.quiet n _).trans ?_
    exact if_pos spins
  case refine_5 =>
    exact ⟨_, (execSpareIn_working hs hr forced).trans (congrArg Host.Outcome.next (repairSpin_starts (s := s.quiet) hrun hf src forced)),
      startSpin_only s n src forced false, startSpin_cluster _ _ _ _ _⟩
  case refine_6 =>
    exact (execSpareIn_working hs hr false).trans (congrArg Host.Outcome.next (repairSpin_without_spare (s := s.quiet) hrun hf src))
  case refine_7 =>
    have spare : (s.quiet.setCluster n fun c => { c with phase := 2 }).cluster n = { s.cluster n with phase := 2 } := State.cluster_setCluster_same s.quiet n _
    refine ⟨_, execSpareInSweep_due hp ht, sweep_onlyCluster s n, ?_, fun k x y hx hy wx wy => ?_⟩
    · rw [sweep_cluster_lanes, spare]
    · have hx' : ((s.quiet.setCluster n fun c => { c with phase := 2 }).cluster (s.cluster n).spinSrc).lanes[k]? = some x := by
        rw [setCluster_lanes _ _ _ _ rfl]; exact hx
      have lane := sweep_lane (s := s.quiet.setCluster n fun c => { c with phase := 2 }) (n := n) (k := k) (x := x) (y := y)
      rw [spare] at lane
      exact lane hx' hy wx wy
  case refine_8 =>
    obtain ⟨lanes, owner, kept⟩ := spareOwns_cluster_same s.quiet n
    have same := (switchOwner_owner (s := s.quiet) hne).trans owner
    refine ⟨_, execSpareInSwitch_due h, ?_, ?_, ?_, fun hf => ?_, switchOwner_workSet s.quiet n, fun k hk hk' => switchOwner_others (s := s.quiet) hk hk',
      fun hc => ⟨switchOwner_released (s := s.quiet) hne hc, switchOwner_frame (s := s.quiet) h9 hc⟩, fun hc => switchOwner_condemned (s := s.quiet) hc⟩
    · rw [same]; rfl
    · rw [same]; rfl
    · rw [same]; rfl
    · rw [same]; exact kept hf
  case refine_9 => exact execSpareInSwitch_early hm h
  case refine_10 =>
    exact ⟨_, execRotation_starts hn ht hc hrun hq hf hr, startSpin_only s n src false true, startSpin_cluster _ _ _ _ _⟩
  case refine_11 =>
    exact ⟨⟨_, execMarchPass_spare hr hp hon ht true, onlyCluster_setCluster s n _, State.cluster_setCluster_same s.quiet n _⟩,
      _, execMarchPass_spare hr hp hon ht false, selfTestFails_faulty (s := s.quiet) hsh n⟩
  case refine_12 =>
    obtain ⟨recorded, -⟩ := raise_eq s.quiet (blkCl n) 0x11 lane lane .u hsh fun h => by cases h
    have started := startSpin_cluster (s.quiet.raise (blkCl n) 0x11 .u lane) src n false false
    refine ⟨_, execLaneDegraded_starts hc hr hrun hf, ⟨recorded.stat, recorded.cntC, recorded.cntU, recorded.cntF, recorded.hist, recorded.others⟩,
      ?_, ?_, ?_, fun k hk => ?_⟩
    · rw [started]; rfl
    · rw [started]; rfl
    · rw [started]; rfl
    · exact (startSpin_others _ hk _ _ _).trans ((raise_reported s.quiet _ _ _ _ (by decide)).cluster k)
  case refine_13 =>
    obtain ⟨t, ran, himg, hmon, loaded⟩ := execCommitApply_loads (n := n) hk hs hw hi ha h9 hset
    refine ⟨t, ran, himg, fun hr hstep => ?_, fun hr hstep => ?_, fun hr hp hstep => ?_, hmon⟩
    · obtain ⟨v, x, rfl, hc⟩ := loaded (.inl hr)
      rw [hc, imaged_working hr hstep, loadFor_plain _ _ hstrips]
      exact ⟨rfl, rfl, hr, rfl⟩
    · obtain ⟨v, x, -, hc⟩ := loaded (.inl hr)
      rw [hc, imaged_stepping hr hstep]
    · obtain ⟨v, x, rfl, hc⟩ := loaded (.inr hp)
      rw [hc, imaged_spare hr hstep, loadFor_plain _ _ hstrips]
      exact ⟨rfl, rfl, rfl, rfl⟩
  case refine_14 =>
    refine ⟨_, (execWsZero_cut hk h8).trans (congrArg Host.Outcome.next (wsZero_gates (s := s.quiet) hticks ho hspin)), ?_, rfl, fun j hj => ?_, rfl⟩
    · dsimp only
      rw [tget_tmod_same]
    · dsimp only
      rw [tget_tmod_other _ _ _ _ _ hj]
      rfl
  case refine_15 =>
    refine ⟨_, execClusterReady_woken h, ?_, ?_, fun k hk => ⟨?_, ?_⟩, rfl⟩
    · exact (testBit_sub_land_two_pow _ _ _).trans (by simp)
    · exact (testBit_sub_land_two_pow _ _ _).trans (by simp)
    · exact (testBit_sub_land_two_pow _ _ _).trans (by simp [hk])
    · exact (testBit_sub_land_two_pow _ _ _).trans (by simp [hk])

end Sys2Proof.Machine
end

section
/-! PROOF. Early frames, stream and path reports, and the words of the handshake FIFOs (R22, R46, R47, R97): for O49. -/

namespace Sys2Proof.Machine

/-- An event of class C or U is recorded, whatever of the state other than the common registers has changed before. -/
theorem raiseAs_recorded {s u : State} (hc : u.commons = s.commons) (hsh : u.top.shadows = []) (b ev who detail : Nat) {cls : EvClass} (h : cls ≠ .f) :
    Recorded s (u.raiseAs b ev cls who detail none) b ev cls detail := by
  obtain ⟨r, -⟩ := raise_eq u b ev who detail cls hsh fun hf => absurd hf h
  have same : u.common = s.common := by funext n; unfold State.common; rw [hc]
  exact ⟨same ▸ r.stat, same ▸ r.cntC, same ▸ r.cntU, same ▸ r.cntF, same ▸ r.hist, same ▸ r.others⟩

/-! ### Reports of streams and paths (R47, R97) -/

/-- A report about a context, with what it leaves in the context. -/
theorem raise_of_ctx {s : State} (hsh : s.top.shadows = []) (x ev : Nat) (f : Ctx → Ctx) {cls : EvClass} (h : cls ≠ .f) :
    Recorded s ((s.quiet.setCtx x f).raise blkCsw ev cls x) blkCsw ev cls x ∧
      ((s.quiet.setCtx x f).raise blkCsw ev cls x).ctx x = f (s.ctx x) := by
  refine ⟨raiseAs_recorded (s := s) (u := s.quiet.setCtx x f) rfl hsh _ _ _ _ h, ?_⟩
  have r := raise_reported (s.quiet.setCtx x f) blkCsw ev x cls h
  unfold State.ctx
  rw [r.csw]
  exact State.ctx_setCtx_same s.quiet x f

theorem execStreamTime_eighth {s : State} {x n : Nat} (hn : s.newestCount x = some n) (hc : s.countRun x 8 n = 8) (hr : (s.ctx x).runRaised = none) :
    execStreamTime x s = .next ((s.quiet.setCtx x fun c => { c with runRaised := some n }).raise blkCsw 0x10 .u x) := by
  have new : ¬ (((s.quiet.ctx x).runRaised.any fun r => s.quiet.sameRun x r n) = true) := by
    rw [show (s.quiet.ctx x).runRaised = none from hr]; simp
  have run : s.quiet.countRun x 8 n = 8 := by
    have same (k m : Nat) : s.quiet.countRun x k m = s.countRun x k m := by
      induction k generalizing m with
      | zero => rfl
      | succ k ih => unfold State.countRun; rw [ih]; rfl
    rw [same, hc]
  unfold execStreamTime
  dsimp only
  rw [show s.quiet.newestCount x = some n from hn]
  dsimp only
  rw [if_neg (by rw [run]; decide), if_neg new]

theorem execPathADown_A {s : State} {x : Nat} (hm : 8 ≤ (s.ctx x).missA) (hd : (s.ctx x).downA = false) : execPathADown x false s =
    .next ((s.quiet.setCtx x fun c => { c with downA := true, both := 0 }).raise blkCsw 0x12 .c x) :=
  congrArg Host.Outcome.next (if_pos (show 8 ≤ (s.ctx x).missA ∧ (!(s.ctx x).downA) = true from ⟨hm, by simp [hd]⟩))

theorem execPathADown_B {s : State} {x : Nat} (hm : 8 ≤ (s.ctx x).missB) (hd : (s.ctx x).downB = false) : execPathADown x true s =
    .next ((s.quiet.setCtx x fun c => { c with downB := true, both := 0 }).raise blkCsw 0x13 .c x) :=
  congrArg Host.Outcome.next (if_pos (show 8 ≤ (s.ctx x).missB ∧ (!(s.ctx x).downB) = true from ⟨hm, by simp [hd]⟩))

theorem execPathAUp_A {s : State} {x : Nat} (hb : 8 ≤ (s.ctx x).both) (hd : (s.ctx x).downA = true) : execPathAUp x false s =
    .next ((s.quiet.setCtx x fun c => { c with downA := false }).raise blkCsw 0x14 .c x) :=
  congrArg Host.Outcome.next (if_pos (show 8 ≤ (s.ctx x).both ∧ (s.ctx x).downA = true from ⟨hb, hd⟩))

theorem execPathAUp_B {s : State} {x : Nat} (hb : 8 ≤ (s.ctx x).both) (hd : (s.ctx x).downB = true) : execPathAUp x true s =
    .next ((s.quiet.setCtx x fun c => { c with downB := false }).raise blkCsw 0x15 .c x) :=
  congrArg Host.Outcome.next (if_pos (show 8 ≤ (s.ctx x).both ∧ (s.ctx x).downB = true from ⟨hb, hd⟩))

/-! ### Words of the gather and output banks (R21, R22) -/

/-- A word or frame in the gather bank: the clusters that read it may begin to wake. -/
theorem gatherPut_woken (s : State) (x tick : Nat) (d : TickData) :
    Woken (s.modCsw fun c => { c with gather := tset c.gather (bankKey tick x) d }) (s.gatherPut x tick d) :=
  wakeReaders_woken _ _ _ _ _

theorem gatherPut_csw (s : State) (x tick : Nat) (d : TickData) :
    (s.gatherPut x tick d).csw = { s.csw with gather := tset s.csw.gather (bankKey tick x) d } := by
  obtain ⟨_, h⟩ := gatherPut_woken s x tick d
  rw [h]
  rfl

theorem putSlot_woken (s : State) (tick slot : Nat) (xs : List Int) :
    Woken (s.modCsw fun c => { c with out := tset c.out (bankKey tick slot) xs }) (s.putSlot tick slot xs) :=
  wakeReaders_woken _ _ _ _ _

/-- A frame that meets no other of its tick comes into force. -/
theorem acceptFrame_first {s : State} {x : Nat} {f : InForce} (h : ∀ g ∈ (s.ctx x).inForce, g.tick ≠ f.tick) :
    s.acceptFrame x f = ((s.setCtx x fun c => { c with inForce := f :: (s.ctx x).inForce }).gatherPut x f.tick f.data, true) := by
  have none : ((s.ctx x).inForce.filter fun g => g.tick == f.tick) = [] := List.filter_eq_nil_iff.2 fun g hg => by simpa using h g hg
  unfold State.acceptFrame
  dsimp only
  rw [none]

/-- A held frame whose tick has passed is released. -/
theorem execEarlyRelease_one {s : State} {x : Nat} {f : InForce} (he : (s.ctx x).early = [f]) (ht : f.tick < s.time.tick)
    (hf : ∀ g ∈ (s.ctx x).inForce, g.tick ≠ f.tick) : ∃ u : State, u.ctx x = { s.ctx x with early := [] } ∧
      execEarlyRelease x s = .next ((u.setCtx x fun c => { c with inForce := f :: (s.ctx x).inForce }).gatherPut x f.tick f.data) := by
  have due : ((s.quiet.ctx x).early.filter fun f => decide (f.tick < s.quiet.time.tick)) = [f] := by
    rw [show (s.quiet.ctx x).early = [f] from he]
    exact List.filter_cons_of_pos (decide_eq_true ht)
  have held : ((s.ctx x).early.filter fun f => decide (s.time.tick ≤ f.tick)) = [] := by rw [he]; simpa using ht
  have left : (s.quiet.setCtx x fun c => { c with early := c.early.filter fun f => decide (s.quiet.time.tick ≤ f.tick) }).ctx x =
      { s.ctx x with early := [] } := by
    rw [State.ctx_setCtx_same]
    exact congrArg (fun l => { s.ctx x with early := l }) held
  refine ⟨_, left, ?_⟩
  unfold execEarlyRelease
  dsimp only
  rw [due]
  change Host.Outcome.next (State.release x _ f) = _
  unfold State.release
  rw [acceptFrame_first (by rw [left]; exact hf), left]
  rfl

/-- The frame of an early buffer stands in its bank and in force. -/
theorem gatherPut_in_force (u : State) (x : Nat) (f : InForce) (l : List InForce) :
    ((u.setCtx x fun c => { c with inForce := l }).gatherPut x f.tick f.data).ctx x = { u.ctx x with inForce := l } ∧
      tfind ((u.setCtx x fun c => { c with inForce := l }).gatherPut x f.tick f.data).csw.gather (bankKey f.tick x) = some f.data := by
  unfold State.ctx
  rw [gatherPut_csw]
  exact ⟨State.ctx_setCtx_same u x fun c => { c with inForce := l }, tfind_tset_same _ _ _⟩

/-- A gather write at or after the cutoff, the first of its stream for the tick. -/
theorem lateGather_first {s : State} {n x : Nat} (h : n ∉ (s.ctx x).dropped) : s.lateGather n x =
    (((s.modCsw fun c => { c with present := tset c.present n ((tget [] c.present n).filter (· != x)) }).setCtx x fun c =>
      { c with dropped := n :: c.dropped, inForce := c.inForce.filter fun f => f.tick != n }).count x 1) := by
  unfold State.lateGather
  refine if_neg ?_
  change ¬ (s.ctx x).dropped.contains n = true
  simpa using h

/-- TAG_ERR at a block whose cluster, if it has one, takes no part in a spare-in. -/
theorem tagErr_outside {s : State} {b : Nat} (h : s.outsideSpin b = true) : s.tagErr b = s.raiseT b 4 .u := by
  unfold State.tagErr
  dsimp only
  split
  · rename_i hb
    have r := raiseT_reported s b 4 0 .u (by decide)
    unfold State.spareEvent
    rw [r.cluster, if_neg]
    intro k
    have index : b - blkCl 0 = b - 0x20 := rfl
    simp [State.outsideSpin, hb, ← index, k.1, k.2] at h
  · rfl

/-- TAG_ERR at a spare in a spare-in: the spare is FAULTY. -/
theorem tagErr_spare {s : State} {b : Nat} (h : s.outsideSpin b = false) : s.tagErr b = (s.raiseT b 4 .u).spareFails (b - 0x20) := by
  have r := raiseT_reported s b 4 0 .u (by decide)
  simp only [State.outsideSpin, Bool.or_eq_false_iff, Bool.not_eq_false', bne_eq_false_iff_eq, beq_eq_false_iff_ne] at h
  obtain ⟨⟨hb, hrole⟩, hphase⟩ := h
  unfold State.tagErr State.spareEvent
  dsimp only
  rw [if_pos hb, if_pos]
  · rfl
  · rw [r.cluster]
    exact ⟨hrole, hphase⟩

theorem lateOutput_first {s : State} {b : Nat} (h : b ∉ s.csw.lateNow) :
    s.lateOutput b = (s.modCsw fun c => { c with lateNow := b :: c.lateNow }).raiseT b 2 .u := by
  unfold State.lateOutput
  rw [if_neg (by simpa using h)]

end Sys2Proof.Machine
end

section
/-! PROOF. A class F event in Morning ends in Night at the next tick boundary (R28, R479): for O49. -/

namespace Sys2Proof.Machine

/-- The engine is in Night by a class F event, with ticks stopped and no action waiting. -/
structure Fallen (s : State) : Prop where
  state : s.top.state = .night
  cause : s.top.cause = 5
  classF : s.top.classF = false
  running : s.time.running = false
  sessions : s.sec.sessions = []
  actions : s.dict.actions = []

/-- The state, its cause and the class F event that waits. -/
def Top.standing (t : Top) : EState × Nat × Bool := (t.state, t.cause, t.classF)

theorem mark_pulse_standing (t : Top) (cls : EvClass) (b n : Nat) : ((t.pulse cls).mark b cls n).standing = t.standing := by
  unfold Top.mark Top.pulse Top.fault
  dsimp only
  split_ifs <;> rfl

theorem Fallen.modTop {s : State} (h : Fallen s) (f : Top → Top) (hf : (f s.top).standing = s.top.standing) : Fallen (s.modTop f) := by
  simp only [Top.standing, Prod.mk.injEq] at hf
  obtain ⟨hs, hc, hl⟩ := hf
  exact ⟨hs.trans h.state, hc.trans h.cause, hl.trans h.classF, h.running, h.sessions, h.actions⟩

/-- An event in Night, whatever its class, moves nothing. -/
theorem Fallen.raiseAs {s : State} (h : Fallen s) (b ev who detail : Nat) (cls : EvClass) (p : Option Nat) :
    Fallen (s.raiseAs b ev cls who detail p) := by
  unfold State.raiseAs
  dsimp only
  generalize (if cls = .f then none else s.shadowFor b ev who) = sh
  cases sh with
  | some x => exact ⟨h.state, h.cause, h.classF, h.running, h.sessions, h.actions⟩
  | none =>
    have marked (c : Common → Common) (d : Common → Common) : Fallen (((s.setCommon b c).setCommon b d).modTop fun t => (t.pulse cls).mark b cls s.time.tick) :=
      Fallen.modTop (s := (s.setCommon b c).setCommon b d) ⟨h.state, h.cause, h.classF, h.running, h.sessions, h.actions⟩ _
        (mark_pulse_standing _ _ _ _)
    have stays (u : State) (k : Fallen u) : Fallen (if cls = .f then u.classFNow b ev else u) := by
      split
      · unfold State.classFNow
        rw [k.state]
        exact k.modTop _ rfl
      · exact k
    refine stays _ ?_
    split
    · obtain ⟨a1, a2, a3, a4, a5, a6⟩ := marked _ _
      exact ⟨a1, a2, a3, a4, a5, a6⟩
    · exact marked _ _

theorem Fallen.spareEvent {s : State} (h : Fallen s) (n : Nat) : Fallen (s.spareEvent n) := by
  unfold State.spareEvent
  split
  · have faulty : Fallen (s.makeFaulty n) := ⟨h.state, h.cause, h.classF, h.running, h.sessions, h.actions⟩
    unfold State.spareFails State.noteNoSpare
    split
    · exact faulty
    · exact faulty.raiseAs _ _ _ _ _ _
  · exact h

theorem Fallen.tickSeq {s : State} (h : Fallen s) (i : Nat) : Fallen (s.tickSeq i) := by
  have raised : Fallen (s.raiseT (islandBlock i) 1 .f) := h.raiseAs _ _ _ _ _ _
  unfold State.tickSeq
  dsimp only
  split
  · exact raised.spareEvent _
  · exact raised

theorem Fallen.takeSave {s : State} (h : Fallen s) : Fallen s.takeSave := by
  unfold State.takeSave
  split
  · split
    · exact h.modTop _ rfl
    · exact h
  · exact h

theorem Fallen.runActions {s : State} (h : Fallen s) : Fallen s.runActions := by
  rw [runActions_idle h.actions]
  exact ⟨h.state, h.cause, h.classF, h.running, h.sessions, rfl⟩

/-! ### The boundary (R29, R479) -/

theorem classFBoundary_morning {s : State} (b : Nat) (hs : s.top.state = .morning) (hf : s.top.classF = true) :
    s.classFBoundary b = (s.modTop fun t => { t with classF := false, leaveAt := none }).enterNight 5 := by
  unfold State.classFBoundary
  rw [if_neg (by simp [hf]), hs]

theorem leaveBoundary_none {s : State} (b : Nat) (h : s.top.leaveAt = none) : s.leaveBoundary b = s := by
  unfold State.leaveBoundary
  rw [h]

/-- In Night no GRANT is taken. -/
theorem grantBoundary_night {s : State} (b : Nat) (h : s.top.state = .night) : s.grantBoundary b = s := by
  unfold State.grantBoundary
  split
  · rfl
  · simp [h]

theorem gateBoundary_idle {s : State} (b : Nat) (h : s.pair.role ≠ 1) : s.gateBoundary b = s := by
  unfold State.gateBoundary
  rw [if_pos (.inl h)]

/-- A class F event of an engine in Morning without a partner, at its boundary. -/
theorem boundary_morning {s : State} (t : Nat) (skip : List Nat) (hs : s.top.state = .morning) (hf : s.top.classF = true) (hr : s.pair.role = 0)
    (ha : s.dict.actions = []) : Fallen (s.boundary t skip) := by
  have n := enterNight_nightfall (s.modTop fun t => { t with classF := false, leaveAt := none }) 5
  have fallen : Fallen ((s.modTop fun t => { t with classF := false, leaveAt := none }).enterNight 5) :=
    ⟨n.state, n.cause, n.classF, n.running, n.sessions, n.dict ▸ ha⟩
  have role : ((s.modTop fun t => { t with classF := false, leaveAt := none }).enterNight 5).pair.role ≠ 1 := by rw [n.role hr]; decide
  unfold State.boundary
  dsimp only
  rw [classFBoundary_morning t hs hf, leaveBoundary_none _ n.leaveAt, grantBoundary_night _ n.state, gateBoundary_idle _ role, ite_self]
  exact fallen

/-- The tick event that finds a class F event in Morning: it enters Night and does no work. -/
theorem tickEvent_fallen {s : State} (e : TickOps) (hs : s.top.state = .morning) (hf : s.top.classF = true) (hr : s.pair.role = 0)
    (ha : s.dict.actions = []) : Fallen (s.tickEvent e) := by
  have fallen (skip : List Nat) : Fallen (((s.advance e.tick).noteNumbers e.seqErr).boundary (s.advance e.tick).time.tick skip) :=
    boundary_morning _ skip hs hf hr ha
  unfold State.tickEvent
  dsimp only
  rw [if_neg (by simp [(fallen _).running])]
  exact foldS_keeps _ (fun _ i h => h.tickSeq i) (fallen _) _

theorem execTickEvent_running {s : State} (e : TickOps) (h : s.time.running = true) :
    execTickEvent e s = .next (s.quiet.tickEvent e).takeSave.runActions := by
  unfold execTickEvent
  dsimp only
  rw [if_pos (by exact h)]

end Sys2Proof.Machine
end

section
/-! PROOF. The cutoff (R42, R45, R47): for O49. -/

namespace Sys2Proof.Machine

/-- What no round of a fold changes, the fold does not change. -/
theorem foldl_view {σ α β : Type} (view : σ → β) (f : σ → α → σ) (h : ∀ p a, view (f p a) = view p) (p : σ) (l : List α) :
    view (l.foldl f p) = view p := by
  induction l generalizing p with
  | nil => rfl
  | cons a t ih => exact (ih _).trans (h p a)

/-! ### What sends, decisions and the seal leave: CSW and the time -/

/-- CSW and the time. -/
def State.cutView (s : State) : Csw × Time := (s.csw, s.time)

theorem plStart_cutView (s : State) (g : Nat) (f : PlFrame) : (s.plStart g f).cutView = s.cutView := by
  unfold State.plStart
  dsimp only
  split <;> rfl

theorem plSend_cutView (s : State) (g : Nat) (f : PlFrame) : (s.plSend g f).cutView = s.cutView := by
  unfold State.plSend
  dsimp only
  split_ifs
  · rfl
  · exact plStart_cutView s g f
  · rfl

theorem sendPart_cutView (vc ty tick : Nat) (body : List Byte → Nat → Nat → MirrorBody) (s : State) (p : Nat × Nat) :
    (State.sendPart vc ty tick body s p).cutView = s.cutView := by
  unfold State.sendPart
  exact plSend_cutView _ _ _

theorem sendRecord_cutView (s : State) (vc ty tick n : Nat) (body : List Byte → Nat → Nat → MirrorBody) :
    (s.sendRecord vc ty tick n body).cutView = s.cutView := by
  unfold State.sendRecord
  split
  · rfl
  · exact foldS_view State.cutView _ (sendPart_cutView vc ty tick body) _ _

theorem wsZero_cutView (s : State) (v : Tab Val) (ws : Nat) : (s.wsZero v ws).cutView = s.cutView := by
  unfold State.wsZero
  dsimp only
  split
  · split
    · split <;> rfl
    · rfl
  · rfl

theorem silCutoff_cutView (s : State) (n : Nat) : (s.silCutoff n).cutView = s.cutView := by
  unfold State.silCutoff
  refine foldS_view State.cutView _ (fun s d => ?_) _ _
  split
  · rfl
  · split
    · split <;> rfl
    · rfl

theorem monCutoff_cutView (s : State) (n : Nat) : (s.monCutoff n).cutView = s.cutView := by
  unfold State.monCutoff
  refine foldS_view State.cutView _ (fun s w => ?_) _ _
  dsimp only
  split
  · exact wsZero_cutView _ _ _
  · rfl

theorem cutoffDecide_cutView (s : State) (n : Nat) : (s.cutoffDecide n).cutView = s.cutView := by
  have decided (u : State) (x : Sil) : ({ u with sil := x } : State).cutView = u.cutView := rfl
  unfold State.cutoffDecide
  exact (decided _ _).trans ((monCutoff_cutView _ n).trans (silCutoff_cutView s n))

theorem secure_cutView (s : State) (p : Nat) : (s.secure p).cutView = s.cutView := by
  unfold State.secure
  split <;> rfl

theorem sendMedia_cutView (s : State) (p len : Nat) (e : Emission) : (s.sendMedia p len e).cutView = s.cutView := by
  unfold State.sendMedia
  split
  · rfl
  · split
    · rfl
    · exact secure_cutView s p

theorem sendClass_cutView (s : State) (p : Nat) (bulk : Bool) (len : Nat) (e : Emission) : (s.sendClass p bulk len e).cutView = s.cutView := by
  unfold State.sendClass
  split
  · rfl
  · exact sendMedia_cutView s p len e

theorem respond_cutView (s : State) (pk reqid status : Nat) (b : List Byte) : (s.respond pk reqid status b).cutView = s.cutView := by
  unfold State.respond
  dsimp only
  split
  · split
    · exact sendClass_cutView _ _ _ _ _
    · rfl
  · rfl

theorem answer_cutView (s : State) (pk op reqid status nitem cid : Nat) (body : List Byte) :
    (s.answer pk op reqid status nitem cid body).cutView = s.cutView := by
  unfold State.answer
  dsimp only
  generalize hu : State.respond _ _ _ _ _ = u
  have view : u.cutView = s.cutView := by rw [← hu]; exact respond_cutView _ _ _ _ _
  split
  · exact view
  · split
    · exact view
    · exact view

theorem unitResult_cutView (s : State) (u : CUnit) (code : Nat) : (s.unitResult u code).cutView = s.cutView := by
  have logged (t : State) (h : t.cutView = s.cutView) (res : Nat) : (if 0x100 ≤ code ∨ ((u.late ∨ u.pendingAns) ∧ u.kind ≠ .store) then
      t.modDict fun d => d.logPut ⟨u.apply, u.kind, u.origin, sessionOf u.session, u.cid, res⟩ else t).cutView = s.cutView := by
    split
    · exact h
    · exact h
  unfold State.unitResult
  refine logged _ ?_ _
  have answered : ∀ t : State, t.cutView = s.cutView →
      (if 0x100 ≤ code then t.modDict fun d => d.countUp (if code = stNoCid then 6 else 7) else t).cutView = s.cutView := by
    intro t h
    split
    · exact h
    · exact h
  refine answered _ ?_
  split
  · rfl
  · exact answer_cutView _ _ _ _ _ _ _ _

/-- A unit at its seal, passed or refused. -/
theorem sealUnit_cutView (ah : State) (a : Nat) (p : State × Tab Val × List CUnit) (u : CUnit) :
    (State.sealUnit ah a p u).1.cutView = p.1.cutView := by
  unfold State.sealUnit
  dsimp only
  split
  · exact unitResult_cutView _ _ _
  · split
    · exact unitResult_cutView _ _ _
    · exact unitResult_cutView _ _ _

theorem putSealed_cutView (s : State) (a : Nat) (us : List CUnit) : (s.putSealed a us).cutView = s.cutView := by
  unfold State.putSealed
  split <;> rfl

theorem seal_cutView (s : State) (a : Nat) : (s.seal a).cutView = s.cutView := by
  unfold State.seal
  dsimp only
  split
  · refine (sendRecord_cutView _ _ _ _ _ _).trans ((putSealed_cutView _ _ _).trans ?_)
    exact foldl_view (fun p : State × Tab Val × List CUnit => p.1.cutView) _ (sealUnit_cutView _ a) _ _
  · refine (putSealed_cutView _ _ _).trans ?_
    exact foldl_view (fun p : State × Tab Val × List CUnit => p.1.cutView) _ (sealUnit_cutView _ a) _ _

/-! ### Verdicts (R47) -/

/-- What the verdicts go by: the values, the time, and the frames and samples of each context. -/
def State.heardView (s : State) : Tab Val × Time × (Nat → List RtpTick × List InForce) :=
  (s.dict.vals, s.time, fun x => ((s.ctx x).rtp, (s.ctx x).inForce))

theorem ownPresent_of_heard {s t : State} (h : t.heardView = s.heardView) (x n : Nat) : t.ownPresent x n = s.ownPresent x n := by
  simp only [State.heardView, Prod.mk.injEq] at h
  obtain ⟨hv, -, hx⟩ := h
  obtain ⟨hr, hf⟩ := Prod.mk.inj (congrFun hx x)
  have spt : t.spt = s.spt := by unfold State.spt; rw [hv]
  unfold State.ownPresent Ctx.inForceAt
  rw [hv, hr, hf, spt]

theorem setCtx_heard (s : State) (x : Nat) (f : Ctx → Ctx) (hr : (f (s.ctx x)).rtp = (s.ctx x).rtp) (hf : (f (s.ctx x)).inForce = (s.ctx x).inForce) :
    (s.setCtx x f).heardView = s.heardView := by
  unfold State.heardView
  refine Prod.ext rfl (Prod.ext rfl (funext fun y => ?_))
  dsimp only
  by_cases h : y = x
  · subst h
    rw [State.ctx_setCtx_same, hr, hf]
  · rw [State.ctx_setCtx_other _ _ _ _ h]

theorem count_heard (s : State) (x i k : Nat) : (s.count x i k).heardView = s.heardView := setCtx_heard s x _ rfl rfl

theorem pathStep_heard (s : State) (x n : Nat) : (s.pathStep x n).heardView = s.heardView := by
  unfold State.pathStep
  split
  · rfl
  · dsimp only
    split_ifs
    · exact setCtx_heard _ _ _ rfl rfl
    · exact (count_heard _ _ _ _).trans (setCtx_heard _ _ _ rfl rfl)
    · exact (count_heard _ _ _ _).trans (setCtx_heard _ _ _ rfl rfl)
    · rfl
    · exact setCtx_heard _ _ _ rfl rfl

/-- The verdict of one context. -/
theorem verdictCtx_present (n : Nat) (p : State × List Nat × List (Nat × Nat)) (x : Nat) :
    (State.verdictCtx n p x).1.heardView = p.1.heardView ∧
      (State.verdictCtx n p x).2.1 = p.2.1 ++ if p.1.ownPresent x n then [x] else [] := by
  obtain ⟨s, pres, eps⟩ := p
  have path := pathStep_heard s x n
  unfold State.verdictCtx
  dsimp only
  split
  · split
    · exact ⟨path, rfl⟩
    · refine ⟨?_, rfl⟩
      dsimp only
      split
      · exact (count_heard _ _ _ _).trans path
      · exact (setCtx_heard _ _ _ rfl rfl).trans ((count_heard _ _ _ _).trans path)
  · exact ⟨(count_heard _ _ _ _).trans path, (List.append_nil _).symm⟩

theorem verdicts_present (n : Nat) (l : List Nat) (p : State × List Nat × List (Nat × Nat)) :
    (l.foldl (State.verdictCtx n) p).1.heardView = p.1.heardView ∧
      (l.foldl (State.verdictCtx n) p).2.1 = p.2.1 ++ l.filter fun x => p.1.ownPresent x n := by
  induction l generalizing p with
  | nil => exact ⟨rfl, (List.append_nil _).symm⟩
  | cons x t ih =>
    obtain ⟨heard, pres⟩ := verdictCtx_present n p x
    obtain ⟨hs, hp⟩ := ih (State.verdictCtx n p x)
    refine ⟨hs.trans heard, ?_⟩
    rw [List.foldl_cons, hp, pres, List.append_assoc]
    simp only [ownPresent_of_heard heard]
    rw [List.filter_cons]
    split <;> rfl

/-- The cutoff of an engine that is no SHADOW: its instant, and the verdict of each context. -/
theorem cutoff_verdicts {s : State} (n : Nat) (h : s.pair.role ≠ 2) : (s.cutoff n).csw.cutTick = some n ∧
    tget [] (s.cutoff n).csw.present n = ((gatherCtxs s.dict.vals).filter fun x => s.ownPresent x n) ∧ (s.cutoff n).time = s.time := by
  have before : (foldS (fun (s : State) x => s.pathStep x n) (s.settleTags n) (directCtxs s.dict.vals)).heardView = s.heardView :=
    foldS_view State.heardView _ (fun s x => pathStep_heard s x n) _ _
  have verdicts := verdicts_present n (gatherCtxs s.dict.vals)
    (foldS (fun (s : State) x => s.pathStep x n) (s.settleTags n) (directCtxs s.dict.vals), [], [])
  have rest (u : State) : ((if u.holdsCommits || u.followsVerdicts then u else u.cutoffDecide n).seal (n + 2)).cutView = u.cutView := by
    refine (seal_cutView _ _).trans ?_
    split
    · rfl
    · exact cutoffDecide_cutView u n
  have mirrored (u : State) (b : List Byte) : (if s.pair.role = 1 then u.sendMirror 1 0 n b else u).cutView = u.cutView := by
    split
    · exact sendRecord_cutView _ _ _ _ _ _
    · rfl
  have result {t u : State} (view : t.cutView = u.cutView) (h : u.csw.cutTick = some n ∧
      tget [] u.csw.present n = ((gatherCtxs s.dict.vals).filter fun x => s.ownPresent x n) ∧ u.time = s.time) : t.csw.cutTick = some n ∧
      tget [] t.csw.present n = ((gatherCtxs s.dict.vals).filter fun x => s.ownPresent x n) ∧ t.time = s.time := by
    obtain ⟨hc, ht⟩ := Prod.mk.inj view
    rw [hc, ht]
    exact h
  unfold State.cutoff
  dsimp only
  generalize (gatherCtxs s.dict.vals).foldl (State.verdictCtx n) _ = p at verdicts ⊢
  obtain ⟨s1, pres, eps⟩ := p
  obtain ⟨heard, hp⟩ := verdicts
  have time : s1.time = s.time := (Prod.mk.inj (Prod.mk.inj (heard.trans before)).2).1
  dsimp only at hp ⊢
  rw [if_neg h]
  refine result ((rest _).trans (mirrored _ _)) ⟨rfl, (tget_tset_same _ _ _ _).trans ?_, time⟩
  rw [hp, List.nil_append]
  simp only [ownPresent_of_heard before]

theorem execCutoff_due {s : State} {n : Nat} (hr : s.time.running = true) (ht : n + 1 = s.time.tick) (hc : s.csw.cutTick ≠ some n) :
    execCutoff { tick := n } s = .next (s.quiet.cutoff n) := by
  unfold execCutoff
  dsimp only
  rw [if_pos (by exact ⟨hr, ht, hc⟩)]

end Sys2Proof.Machine
end

section
/-! PROOF. Stages take their ticks: O49. -/

namespace Sys2Proof.Machine

/-! ### Words of the handshake FIFOs, by their place and bank (R22) -/

theorem execHandshakeWord_gather_now {s : State} {b tag x ch k n : Nat} {y : Int} (hb : bankOf tag (s.time.tick - 1) = .now n)
    (hc : s.csw.cutTick ≠ some n) : execHandshakeWord ⟨b, tag, .gather x ch k, y⟩ s = .next (s.quiet.putGather n x ch k y) := by
  unfold execHandshakeWord
  dsimp only
  rw [show bankOf tag (s.quiet.time.tick - 1) = .now n from hb]
  dsimp only
  rw [if_neg (by exact hc)]

theorem execHandshakeWord_gather_past {s : State} {b tag x ch k n : Nat} {y : Int} (hb : bankOf tag (s.time.tick - 1) = .past n) :
    execHandshakeWord ⟨b, tag, .gather x ch k, y⟩ s = .next (s.quiet.lateGather n x) := by
  unfold execHandshakeWord
  dsimp only
  rw [show bankOf tag (s.quiet.time.tick - 1) = .past n from hb]

theorem execHandshakeWord_output_now {s : State} {b tag unit slot k n : Nat} {y : Int} (hb : bankOf tag (s.time.tick - 2) = .now n) :
    execHandshakeWord ⟨b, tag, .output unit slot k, y⟩ s =
      .next (s.quiet.putSlot n slot (putAt (tget [] s.csw.out (bankKey n slot)) k (s.quiet.drained unit y))) := by
  unfold execHandshakeWord
  dsimp only
  rw [show bankOf tag (s.quiet.time.tick - 2) = .now n from hb]
  rfl

theorem execHandshakeWord_output_past {s : State} {b tag unit slot k n : Nat} {y : Int} (hb : bankOf tag (s.time.tick - 2) = .past n) :
    execHandshakeWord ⟨b, tag, .output unit slot k, y⟩ s = .next (s.quiet.lateOutput unit) := by
  unfold execHandshakeWord
  dsimp only
  rw [show bankOf tag (s.quiet.time.tick - 2) = .past n from hb]

theorem execHandshakeWord_output_none {s : State} {b tag unit slot k : Nat} {y : Int} (hb : bankOf tag (s.time.tick - 2) = .none) :
    execHandshakeWord ⟨b, tag, .output unit slot k, y⟩ s = .next (s.quiet.tagErr b) := by
  unfold execHandshakeWord
  dsimp only
  rw [show bankOf tag (s.quiet.time.tick - 2) = .none from hb]

theorem execHandshakeWord_stepIn_outside {s : State} {b tag ws step lane addr : Nat} {done : Bool} {y : Int}
    (hb : ∀ m, bankOf tag (s.time.tick - 2) ≠ .now m) : execHandshakeWord ⟨b, tag, .stepIn ws step lane addr done, y⟩ s = .next (s.quiet.tagErr b) := by
  unfold execHandshakeWord
  dsimp only
  generalize hit : bankOf tag (s.quiet.time.tick - 2) = bank
  cases bank with
  | now m => exact absurd hit (hb m)
  | past m => rfl
  | none => rfl

/-- A word of an output slot, as zero where its work set is contained. -/
theorem drained_eq (s : State) (unit : Nat) (y : Int) : s.drained unit y =
    if isCluster unit = true ∧ (s.cluster (unit - 0x20)).role = 1 ∧ (s.workSet (s.cluster (unit - 0x20)).wset).zeroOut = true then 0 else y := by
  unfold State.drained
  dsimp only
  exact if_congr (by simp [and_assoc]) rfl rfl

/-- A word of the output bank: the slot holds it, and clusters that read it may begin to wake. -/
theorem putSlot_holds (s : State) (n slot : Nat) (xs : List Int) : tfind (s.putSlot n slot xs).csw.out (bankKey n slot) = some xs ∧
    s.putSlot n slot xs = { s with csw := { s.csw with out := (s.putSlot n slot xs).csw.out }, pwr := { s.pwr with waking := (s.putSlot n slot xs).pwr.waking } } := by
  obtain ⟨_, h⟩ := putSlot_woken s n slot xs
  rw [h]
  exact ⟨tfind_tset_same _ _ _, rfl⟩

theorem gatherPut_commons (s : State) (x tick : Nat) (d : TickData) : (s.gatherPut x tick d).commons = s.commons := by
  obtain ⟨_, h⟩ := gatherPut_woken s x tick d
  rw [h]
  rfl

/-- A counter that counts on. -/
theorem tget_bump_same (t : Tab Word) (i n : Nat) : tget 0 (bump t i n) i = tget 0 t i + w32 n := tget_tmod_same 0 t i fun v => v + w32 n

/-- A word after the cutoff: its stream is MISSING in that tick, and counts one late frame. -/
theorem lateGather_missing {s : State} {n x : Nat} (h : n ∉ (s.ctx x).dropped) : x ∉ tget [] (s.lateGather n x).csw.present n ∧
    n ∈ ((s.lateGather n x).ctx x).dropped ∧ tget 0 ((s.lateGather n x).ctx x).cnt 1 = tget 0 (s.ctx x).cnt 1 + 1 ∧
    (s.lateGather n x).csw.gather = s.csw.gather := by
  rw [lateGather_first h]
  unfold State.count
  rw [State.ctx_setCtx_same, State.ctx_setCtx_same]
  refine ⟨?_, List.mem_cons_self, tget_bump_same (s.ctx x).cnt 1 1, rfl⟩
  change x ∉ tget [] (tset s.csw.present n ((tget [] s.csw.present n).filter (· != x))) n
  rw [tget_tset_same]
  simp

/-- TAG_ERR is recorded by the block, and concerns no memory. -/
theorem tagErr_recorded {s : State} (hsh : s.top.shadows = []) {b : Nat} (h : s.outsideSpin b = true) :
    Recorded s (s.quiet.tagErr b) b 4 .u s.tickDetail ∧ (s.quiet.tagErr b).clusters = s.clusters ∧ (s.quiet.tagErr b).csw = s.csw := by
  have r := raiseT_reported s.quiet b 4 0 .u (by decide)
  rw [tagErr_outside (s := s.quiet) h]
  exact ⟨raiseAs_recorded (s := s) (u := s.quiet) rfl hsh _ _ _ _ (by decide), r.clusters, r.csw⟩

/-- TAG_ERR of a spare in a spare-in takes it out of use. -/
theorem tagErr_takes_spare {s : State} (hsh : s.top.shadows = []) {b : Nat} (h : s.outsideSpin b = false) :
    ((s.tagErr b).common b).intStat &&& 0x10 = 0x10 ∧ ((s.tagErr b).cluster (b - 0x20)).role = 3 ∧ (s.tagErr b).csw = s.csw := by
  obtain ⟨recorded, -⟩ := raise_eq s b 4 0 s.tickDetail .u hsh fun h => by cases h
  have set : ((s.raiseT b 4 .u).common b).intStat &&& 0x10 = 0x10 := (congrArg (· &&& (0x10 : Word)) recorded.stat).trans (or_sets_bits _ 0x10)
  obtain ⟨role, -, -⟩ := spareFails_faulty (s.raiseT b 4 .u) (b - 0x20)
  rw [tagErr_spare h]
  refine ⟨spareFails_intStat (raiseT_shadows hsh _ _ _ _ (by decide)) _ _ set, role, ?_⟩
  exact (noteNoSpare_reported ((s.raiseT b 4 .u).makeFaulty (b - 0x20)) (b - 0x20)).csw.trans (raiseT_reported s b 4 0 .u (by decide)).csw

/-- A word that comes after EMIT of its tick has begun: the unit's OVERRUN, once a tick. -/
theorem lateOutput_recorded {s : State} (hsh : s.top.shadows = []) {b : Nat} (h : b ∉ s.csw.lateNow) :
    Recorded s (s.quiet.lateOutput b) b 2 .u s.tickDetail ∧ (s.quiet.lateOutput b).csw = { s.csw with lateNow := b :: s.csw.lateNow } := by
  rw [lateOutput_first (s := s.quiet) h]
  refine ⟨raiseAs_recorded (s := s) (u := s.quiet.modCsw fun c => { c with lateNow := b :: c.lateNow }) rfl hsh _ _ _ _ (by decide), ?_⟩
  exact (raiseT_reported (s.quiet.modCsw fun c => { c with lateNow := b :: c.lateNow }) b 2 0 .u (by decide)).csw

/-! ### Commits (R18, R270) -/

/-- COMMIT_APPLY of a sealed commit, before its actions start. -/
theorem execCommitApply_takes {s : State} {n : Nat} {us : List CUnit} (hn : n + 2 ≤ s.time.tick) (hs : tfind s.dict.sealed n = some us) :
    ∃ t : State, execCommitApply n s = .next t.runActions ∧ t.commitView = (tdel s.dict.sealed n,
      overlay s.dict.vals ((writesOf us).filter fun w => !(isAction w)), s.dict.actions ++ (writesOf us).filter isAction, s.time.tick, s.top.state) := by
  refine ⟨_, execCommitApply_due hn, ?_⟩
  rw [applySealed_some (s := s.quiet) hs]
  exact commitUnits_commitView _ us n []

/-- Settles O49: the class F boundary, the cutoff, commits, early frames, reports and handshake words, one by one. -/
theorem stagesTakeTheirTicks : Obligations.StagesTakeTheirTicks := by
  unfold Obligations.StagesTakeTheirTicks
  intro s x n ch k tag unit slot y f us e hsh hrun
  refine ⟨fun hm hf hr ha => ?_, fun hn hc hr => ?_, fun hn hs => ?_, fun hn hs => ?_, fun he ht hf => ?_, fun hn hc hr => ?_,
    fun hm hd => ?_, fun hm hd => ?_, fun hb hd => ?_, fun hb hd => ?_, fun hb hc => ?_, fun hb hd => ?_, fun hb => ?_,
    fun ws step lane addr done ho hb => ?_, fun hb hl => ?_, fun ho hb => ?_, fun ho hb => ?_⟩
  case refine_1 =>
    have fallen := (tickEvent_fallen (s := s.quiet) e hm hf hr ha).takeSave.runActions
    exact ⟨_, execTickEvent_running e hrun, fallen.state, fallen.cause, fallen.classF, fallen.running, fallen.sessions⟩
  case refine_2 => exact ⟨_, execCutoff_due hrun hn hc, cutoff_verdicts (s := s.quiet) n hr⟩
  case refine_3 =>
    exact (execCommitApply_due hn).trans (congrArg (fun t => Host.Outcome.next (State.runActions t)) (applySealed_none (s := s.quiet) hs []))
  case refine_4 =>
    obtain ⟨t, ran, view⟩ := execCommitApply_takes hn hs
    simp only [State.commitView, Prod.mk.injEq] at view
    obtain ⟨others, vals, actions, tick, state⟩ := view
    exact ⟨t, ran, others ▸ tfind_tdel_same _ _, vals, actions, tick, state⟩
  case refine_5 =>
    obtain ⟨u, hu, ran⟩ := execEarlyRelease_one he ht hf
    obtain ⟨ctx, data⟩ := gatherPut_in_force u x f (f :: (s.ctx x).inForce)
    rw [hu] at ctx
    exact ⟨_, ran, congrArg Ctx.early ctx, congrArg Ctx.inForce ctx, data⟩
  case refine_6 => exact ⟨_, execStreamTime_eighth hn hc hr, raise_of_ctx hsh x 0x10 (fun c => { c with runRaised := some n }) (by decide)⟩
  case refine_7 => exact ⟨_, execPathADown_A hm hd, raise_of_ctx hsh x 0x12 (fun c => { c with downA := true, both := 0 }) (by decide)⟩
  case refine_8 => exact ⟨_, execPathADown_B hm hd, raise_of_ctx hsh x 0x13 (fun c => { c with downB := true, both := 0 }) (by decide)⟩
  case refine_9 => exact ⟨_, execPathAUp_A hb hd, raise_of_ctx hsh x 0x14 (fun c => { c with downA := false }) (by decide)⟩
  case refine_10 => exact ⟨_, execPathAUp_B hb hd, raise_of_ctx hsh x 0x15 (fun c => { c with downB := false }) (by decide)⟩
  case refine_11 =>
    refine ⟨_, execHandshakeWord_gather_now hb hc, ?_, ?_, gatherPut_commons _ _ _ _⟩
    · unfold State.putGather
      dsimp only
      rw [gatherPut_csw]
      exact tfind_tset_same _ _ _
    · unfold State.putGather
      dsimp only
      rw [gatherPut_csw]
      rfl
  case refine_12 => exact ⟨_, execHandshakeWord_gather_past hb, lateGather_missing (s := s.quiet) hd⟩
  case refine_13 =>
    obtain ⟨holds, frame⟩ := putSlot_holds s.quiet n slot (putAt (tget [] s.csw.out (bankKey n slot)) k (s.quiet.drained unit y))
    refine ⟨_, execHandshakeWord_output_now hb, ?_, frame⟩
    rw [holds, drained_eq]
    rfl
  case refine_14 =>
    obtain ⟨recorded, clusters, -⟩ := tagErr_recorded hsh ho
    exact ⟨_, execHandshakeWord_stepIn_outside hb, recorded, clusters⟩
  case refine_15 => exact ⟨_, execHandshakeWord_output_past hb, lateOutput_recorded hsh hl⟩
  case refine_16 =>
    obtain ⟨recorded, -, csw⟩ := tagErr_recorded hsh ho
    exact ⟨_, execHandshakeWord_output_none hb, recorded, csw⟩
  case refine_17 => exact ⟨_, execHandshakeWord_output_none hb, tagErr_takes_spare (s := s.quiet) hsh ho⟩

end Sys2Proof.Machine
end

section
/-! PROOF. TDM frames and their frame sync (R70, R484, R599, R600): O47. -/

namespace Sys2Proof.Machine

theorem Reported.tdm {s t : State} (h : Reported s t) : t.tdm = s.tdm := by obtain ⟨_, _, _, _, _, rfl⟩ := h; rfl

theorem State.tdmPort_setTdm_same (s : State) (p : Nat) (f : TdmPort → TdmPort) : (s.setTdm p f).tdmPort p = f (s.tdmPort p) :=
  tget_tmod_same _ _ _ _

theorem State.tdmPort_setTdm_other (s : State) {p n : Nat} (h : n ≠ p) (f : TdmPort → TdmPort) : (s.setTdm p f).tdmPort n = s.tdmPort n :=
  tget_tmod_other _ _ _ _ _ h

/-- A count that stops at its largest value. -/
theorem stopAt_eq_min (mx n k : Nat) : stopAt mx n k = min mx (n + k) := by
  unfold stopAt
  split <;> omega

/-- Where no audio leaves, a port drives a zero word in every slot. -/
theorem tdmDrive_silent {s : State} (h : s.emitting = false) (p k : Nat) : s.tdmDrive p k = List.replicate s.tdmSlots 0 := by
  unfold State.tdmDrive
  dsimp only
  rw [if_neg (by simp [h])]
  rfl

/-- A frame of a port that runs, in a SHADOW: it is checked and answered, and its input words are not taken (R345). -/
theorem execTdmFrame_shadow {s : State} {p : Nat} (hon : s.pwr.on.testBit 1 = true) (hreset : s.resetting (0x70 + p) = false)
    (hrun : s.time.running = true) (hrole : s.pair.role = 2) (hdars : s.tdmDars p = false) (k : Nat) (ws : List Int) (fsOk : Bool) :
    execTdmFrame p k ws fsOk s = .next ((s.quiet.setTdm p fun x => x.check k fsOk).emit (.tdm p (s.quiet.tdmDrive p k))) := by
  have runs : s.quiet.tdmRuns p = true := by
    unfold State.tdmRuns State.domOn
    rw [bitAt_eq_testBit, show s.quiet.resetting (0x70 + p) = false from hreset]
    simp [hon]
  have goes : ¬ ((!(s.quiet.tdmRuns p)) = true ∨ (!s.quiet.time.running) = true) := by simp [runs, hrun]
  unfold execTdmFrame
  dsimp only
  rw [if_neg goes, if_neg (show ¬ s.quiet.tdmDars p = true by rw [show s.quiet.tdmDars p = false from hdars]; decide)]
  exact congrArg Host.Outcome.next (if_pos (.inl hrole))

theorem execFsyncLoss_due {s : State} {p : Nat} (hb : 2 ≤ (s.tdmPort p).bad) (hl : (s.tdmPort p).lostNow = false) : execFsyncLoss p s =
    .next ((s.quiet.setTdm p fun x => { x with sync := false, lost := true, lostNow := true, good := 0 }).raise blkTdm 0x10 .u p) :=
  congrArg Host.Outcome.next (if_pos (show 2 ≤ (s.tdmPort p).bad ∧ (!(s.tdmPort p).lostNow) = true from ⟨hb, by simp [hl]⟩))

theorem execFsyncOk_due {s : State} {p : Nat} (hg : 16 ≤ (s.tdmPort p).good) (hl : (s.tdmPort p).lostNow = true) : execFsyncOk p s =
    .next ((s.quiet.setTdm p fun x => { x with sync := true, lostNow := false }).raise blkTdm 0x11 .c p) :=
  congrArg Host.Outcome.next (if_pos (show 16 ≤ (s.tdmPort p).good ∧ (s.tdmPort p).lostNow = true from ⟨hg, hl⟩))

/-- A report about a TDM port, with what it leaves in the ports. -/
theorem raise_of_tdm {s : State} (hsh : s.top.shadows = []) (p ev : Nat) (f : TdmPort → TdmPort) {cls : EvClass} (h : cls ≠ .f) :
    Recorded s ((s.quiet.setTdm p f).raise blkTdm ev cls p) blkTdm ev cls p ∧
      ((s.quiet.setTdm p f).raise blkTdm ev cls p).tdmPort p = f (s.tdmPort p) ∧
      ∀ n, n ≠ p → ((s.quiet.setTdm p f).raise blkTdm ev cls p).tdmPort n = s.tdmPort n := by
  have ports (n : Nat) : ((s.quiet.setTdm p f).raise blkTdm ev cls p).tdmPort n = (s.quiet.setTdm p f).tdmPort n := by
    unfold State.tdmPort
    rw [(raise_reported (s.quiet.setTdm p f) blkTdm ev p cls h).tdm]
  refine ⟨raiseAs_recorded (s := s) (u := s.quiet.setTdm p f) rfl hsh _ _ _ _ h, ?_, fun n hn => ?_⟩
  · rw [ports, State.tdmPort_setTdm_same]; rfl
  · rw [ports, State.tdmPort_setTdm_other _ hn]; rfl

/-- Settles O47: a frame of a port that sends no audio, and the two events of its frame sync. -/
theorem tdmPortsKeepFrameSync : Obligations.TdmPortsKeepFrameSync := by
  unfold Obligations.TdmPortsKeepFrameSync
  intro s p k ws fsOk hsh
  refine ⟨fun hon hreset hrun hrole hemit hdars => ?_, fun hb hl => ?_, fun hg hl => ?_⟩
  · refine ⟨_, execTdmFrame_shadow hon hreset hrun hrole hdars k ws fsOk, ?_, rfl, fun n hn => ?_, ?_⟩
    · rw [tdmDrive_silent (s := s.quiet) hemit]; rfl
    · exact State.tdmPort_setTdm_other s.quiet hn _
    · refine (State.tdmPort_setTdm_same s.quiet p _).trans ?_
      unfold TdmPort.check
      rw [stopAt_eq_min]
      rfl
  · exact ⟨_, execFsyncLoss_due hb hl, raise_of_tdm hsh p 0x10 (fun x => { x with sync := false, lost := true, lostNow := true, good := 0 }) (by decide)⟩
  · exact ⟨_, execFsyncOk_due hg hl, raise_of_tdm hsh p 0x11 (fun x => { x with sync := true, lostNow := false }) (by decide)⟩

end Sys2Proof.Machine
end

section
/-! PROOF. Frames that leave a media port, and what they change: its counters, the packet number of its key (R397, R398, R403, R406, R423): for O52. -/

namespace Sys2Proof.Machine

/-! ### Counters -/

theorem tget_bump_other (t : Tab Word) {i j : Nat} (h : j ≠ i) (n : Nat) : tget 0 (bump t i n) j = tget 0 t j :=
  tget_tmod_other 0 t i j _ h

theorem tget_bumpWide_other (t : Tab Word) {i j : Nat} (h : j ≠ i) (h' : j ≠ i + 1) (n : Nat) : tget 0 (bumpWide t i n) j = tget 0 t j := by
  unfold bumpWide
  dsimp only
  rw [tget_tset_other _ _ _ _ _ h', tget_tset_other _ _ _ _ _ h]

/-! ### Frames that leave -/

/-- What sending on a port changes: the counters of sent frames at the port, what is sent, and with port authentication the key. -/
structure SentOn (s t : State) (p : Nat) : Prop where
  port : t.port p = { s.port p with cnt := (t.port p).cnt }
  counters : ∀ i, i ≠ 3 → i ≠ 4 → i ≠ 5 → tget 0 (t.port p).cnt i = tget 0 (s.port p).cnt i
  others : ∀ q, q ≠ p → t.port q = s.port q
  rest : t = { s with sent := t.sent, sec := t.sec, ports := t.ports }
  plain : s.cfgOn (0xC300 + p) 1 = false → t.sec = s.sec

theorem SentOn.refl (s : State) (p : Nat) : SentOn s s p := ⟨rfl, fun _ _ _ _ => rfl, fun _ _ => rfl, rfl, fun _ => rfl⟩

/-- Sending leaves the configuration. -/
theorem SentOn.cfgOn {s t : State} {p : Nat} (h : SentOn s t p) (o m : Nat) : t.cfgOn o m = s.cfgOn o m := by rw [h.rest]; rfl

theorem SentOn.trans {s t u : State} {p : Nat} (h : SentOn s t p) (k : SentOn t u p) : SentOn s u p where
  port := by rw [k.port, h.port]
  counters i h3 h4 h5 := (k.counters i h3 h4 h5).trans (h.counters i h3 h4 h5)
  others q hq := (k.others q hq).trans (h.others q hq)
  rest := by rw [k.rest, h.rest]
  plain a := (k.plain ((h.cfgOn _ _).trans a)).trans (h.plain a)

theorem SentOn.up {s t : State} {p : Nat} (h : SentOn s t p) : (t.port p).up = (s.port p).up := by rw [h.port]

theorem countTx_sentOn (s : State) (p len : Nat) : SentOn s (s.countTx p len) p where
  port := by unfold State.countTx State.countPort; rw [State.port_setPort_same, State.port_setPort_same]
  counters i h3 h4 h5 := by
    unfold State.countTx State.countPort
    rw [State.port_setPort_same, State.port_setPort_same]
    exact (tget_bumpWide_other _ h4 h5 _).trans (tget_bump_other _ h3 _)
  others q hq := by unfold State.countTx State.countPort; rw [State.port_setPort_other _ _ _ _ hq, State.port_setPort_other _ _ _ _ hq]
  rest := rfl
  plain _ := rfl

theorem secure_plain {s : State} {p : Nat} (h : s.cfgOn (0xC300 + p) 1 = false) : s.secure p = s := by
  unfold State.secure
  rw [h]
  rfl

theorem secure_sentOn (s : State) (p : Nat) : SentOn s (s.secure p) p := by
  by_cases h : s.cfgOn (0xC300 + p) 1 = true
  · unfold State.secure
    rw [h]
    exact ⟨rfl, fun _ _ _ _ => rfl, fun _ _ => rfl, rfl, fun a => absurd (a.symm.trans h) (by decide)⟩
  · rw [secure_plain (by simpa using h)]
    exact .refl s p

theorem emit_sentOn (s : State) (p : Nat) (e : Emission) : SentOn s (s.emit e) p :=
  ⟨rfl, fun _ _ _ _ => rfl, fun _ _ => rfl, rfl, fun _ => rfl⟩

theorem sendMedia_sentOn (s : State) (p len : Nat) (e : Emission) : SentOn s (s.sendMedia p len e) p := by
  unfold State.sendMedia
  split
  · exact .refl s p
  · refine .trans (.trans ?_ (emit_sentOn _ p e)) (countTx_sentOn _ p _)
    split
    · exact .refl s p
    · exact secure_sentOn s p

/-- A frame on a link that is up, with no SecTAG before it: on a port without authentication, or a MAC control frame (R406). -/
theorem sendMedia_sent {s : State} {p : Nat} {e : Emission} (hup : (s.port p).up = true) (h : e.macControl = true ∨ s.cfgOn (0xC300 + p) 1 = false)
    (len : Nat) : (s.sendMedia p len e).sent = s.sent ++ [e] := by
  have clear : (if e.macControl then s else s.secure p) = s := by
    split
    · rfl
    · exact secure_plain (h.resolve_left (by assumption))
  unfold State.sendMedia
  rw [if_neg (by simp [hup]), clear]
  rfl

/-- Frames that leave one after another. -/
theorem sendAll_sentOn (p : Nat) (l : List (Bool × Nat × Emission)) (s : State) :
    SentOn s (foldS (fun (s : State) h => s.sendMedia p h.2.1 h.2.2) s l) p :=
  foldS_keeps (P := fun t => SentOn s t p) _ (fun t h k => k.trans (sendMedia_sentOn t p h.2.1 h.2.2)) (.refl s p) l

theorem sendAll_sent {s : State} {p : Nat} (hup : (s.port p).up = true) (h : s.cfgOn (0xC300 + p) 1 = false) (l : List (Bool × Nat × Emission)) :
    (foldS (fun (s : State) h => s.sendMedia p h.2.1 h.2.2) s l).sent = s.sent ++ l.map (·.2.2) := by
  induction l generalizing s with
  | nil => exact (List.append_nil _).symm
  | cons e l ih =>
    have first := sendMedia_sentOn s p e.2.1 e.2.2
    refine (ih (first.up.trans hup) ((first.cfgOn _ _).trans h)).trans ?_
    rw [sendMedia_sent hup (.inr h), List.append_assoc]
    rfl

/-! ### The fields of a class at a port (R401, R403) -/

@[simp] theorem Port.paused_setPaused (x : Port) (bulk b : Bool) : (x.setPaused bulk b).paused bulk = b := by cases bulk <;> rfl
@[simp] theorem Port.paused_setPaused_not (x : Port) (bulk b : Bool) : (x.setPaused bulk b).paused (!bulk) = x.paused (!bulk) := by cases bulk <;> rfl
@[simp] theorem Port.held_setPaused (x : Port) (bulk b : Bool) : (x.setPaused bulk b).held = x.held := by cases bulk <;> rfl
@[simp] theorem Port.up_setPaused (x : Port) (bulk b : Bool) : (x.setPaused bulk b).up = x.up := by cases bulk <;> rfl
@[simp] theorem Port.cnt_setPaused (x : Port) (bulk b : Bool) : (x.setPaused bulk b).cnt = x.cnt := by cases bulk <;> rfl
@[simp] theorem Port.occ_setOcc (x : Port) (bulk : Bool) (n : Nat) : (x.setOcc bulk n).occ bulk = n := by cases bulk <;> rfl
@[simp] theorem Port.up_setOcc (x : Port) (bulk : Bool) (n : Nat) : (x.setOcc bulk n).up = x.up := by cases bulk <;> rfl
@[simp] theorem Port.cnt_setOcc (x : Port) (bulk : Bool) (n : Nat) : (x.setOcc bulk n).cnt = x.cnt := by cases bulk <;> rfl
@[simp] theorem Port.paused_setOcc (x : Port) (bulk c : Bool) (n : Nat) : (x.setOcc bulk n).paused c = x.paused c := by cases bulk <;> rfl
@[simp] theorem Port.occ_setXoff (x : Port) (bulk c b : Bool) : (x.setXoff bulk b).occ c = x.occ c := by cases bulk <;> rfl
@[simp] theorem Port.xoff_setXoff (x : Port) (bulk b : Bool) : (x.setXoff bulk b).xoff bulk = b := by cases bulk <;> rfl
@[simp] theorem Port.up_setXoff (x : Port) (bulk b : Bool) : (x.setXoff bulk b).up = x.up := by cases bulk <;> rfl

theorem SentOn.paused {s t : State} {p : Nat} (h : SentOn s t p) (bulk : Bool) : (t.port p).paused bulk = (s.port p).paused bulk := by
  rw [h.port]; rfl

theorem SentOn.occ {s t : State} {p : Nat} (h : SentOn s t p) (bulk : Bool) : (t.port p).occ bulk = (s.port p).occ bulk := by
  rw [h.port]; rfl

theorem SentOn.xoff {s t : State} {p : Nat} (h : SentOn s t p) (bulk : Bool) : (t.port p).xoff bulk = (s.port p).xoff bulk := by
  rw [h.port]; rfl

/-! ### The end of a pause (R398, R403) -/

/-- A port whose class is no longer paused, without the frames that waited for that. -/
def Port.released (x : Port) (bulk : Bool) : Port := { x.setPaused bulk false with held := x.held.filter fun h => h.1 != bulk }

/-- The end of a pause: the class is free, its frames leave, and otherwise only sending has gone on. -/
theorem unpause_released (s : State) (p : Nat) (bulk : Bool) :
    SentOn (s.setPort p fun x => x.released bulk) (s.unpause p bulk) p := sendAll_sentOn p _ _

theorem unpause_sent {s : State} {p : Nat} (hup : (s.port p).up = true) (h : s.cfgOn (0xC300 + p) 1 = false) (bulk : Bool) :
    (s.unpause p bulk).sent = s.sent ++ ((s.port p).held.filter fun h => h.1 == bulk).map (·.2.2) := by
  have up : ((s.setPort p fun x => x.released bulk).port p).up = true := by
    rw [State.port_setPort_same]
    exact (Port.up_setPaused _ _ _).trans hup
  exact sendAll_sent up h _

theorem unpause_paused (s : State) (p : Nat) (bulk : Bool) : ((s.unpause p bulk).port p).paused bulk = false := by
  rw [(unpause_released s p bulk).paused, State.port_setPort_same]
  exact Port.paused_setPaused _ _ _

theorem unpause_others (s : State) {p q : Nat} (h : q ≠ p) (bulk : Bool) : (s.unpause p bulk).port q = s.port q :=
  ((unpause_released s p bulk).others q h).trans (State.port_setPort_other _ _ _ _ h)

theorem unpause_rest (s : State) (p : Nat) (bulk : Bool) :
    s.unpause p bulk = { s with sent := (s.unpause p bulk).sent, sec := (s.unpause p bulk).sec, ports := (s.unpause p bulk).ports } :=
  (unpause_released s p bulk).rest

/-- With no frame waiting, nothing else goes with the end of a pause. -/
theorem unpause_empty {s : State} {p : Nat} {bulk : Bool} (h : ((s.port p).held.filter fun h => h.1 == bulk) = []) :
    s.unpause p bulk = s.setPort p fun x => x.released bulk := by
  unfold State.unpause
  rw [h]
  rfl

/-- A port where no frame of the class waits. -/
theorem Port.released_empty {x : Port} {bulk : Bool} (h : (x.held.filter fun h => h.1 == bulk) = []) : x.released bulk = x.setPaused bulk false := by
  have all : (x.held.filter fun h => h.1 != bulk) = x.held :=
    List.filter_eq_self.2 fun e he => by simpa using List.filter_eq_nil_iff.1 h e he
  unfold Port.released
  rw [all]
  cases bulk <;> rfl

end Sys2Proof.Machine
end

section
/-! PROOF. Flow control of a media port (R401, R403): its own holds, and the pauses of its partner: for O52. -/

namespace Sys2Proof.Machine

/-! ### Holds of the port (R401) -/

/-- A PFC frame of a port that is up. -/
theorem sendPfc_sent {s : State} {p : Nat} (hup : (s.port p).up = true) (bulk : Bool) (quanta : Nat) :
    (s.sendPfc p bulk quanta).sent = s.sent ++ [.pfc p (s.pcpOf p bulk) quanta] := by
  unfold State.sendPfc
  rw [if_neg (by simp [hup])]
  exact sendMedia_sent hup (.inl rfl) 64

/-- A PFC frame changes no class field of its port, and no other port. -/
theorem sendPfc_leaves (s : State) (p : Nat) (bulk : Bool) (quanta : Nat) :
    (∀ c, ((s.sendPfc p bulk quanta).port p).xoff c = (s.port p).xoff c ∧ ((s.sendPfc p bulk quanta).port p).occ c = (s.port p).occ c) ∧
      ∀ q, q ≠ p → (s.sendPfc p bulk quanta).port q = s.port q := by
  unfold State.sendPfc
  split
  · exact ⟨fun c => ⟨rfl, rfl⟩, fun q _ => rfl⟩
  · have sent := sendMedia_sentOn s p 64 (.pfc p (s.pcpOf p bulk) quanta)
    unfold State.countPort
    refine ⟨fun c => ?_, fun q hq => ?_⟩
    · rw [State.port_setPort_same]
      exact ⟨sent.xoff c, sent.occ c⟩
    · rw [State.port_setPort_other _ _ _ _ hq]
      exact sent.others q hq

/-- A PFC frame where PFC is enabled. -/
theorem pfcOn_sendPfc {s : State} {p : Nat} (hup : (s.port p).up = true) (bulk : Bool) (quanta : Nat) :
    (s.pfcOn p fun s => s.sendPfc p bulk quanta).sent = s.sent ++ (if s.cfgOn (0xC000 + p) 15 then [.pfc p (s.pcpOf p bulk) quanta] else []) ∧
      (∀ c, ((s.pfcOn p fun s => s.sendPfc p bulk quanta).port p).xoff c = (s.port p).xoff c ∧
        ((s.pfcOn p fun s => s.sendPfc p bulk quanta).port p).occ c = (s.port p).occ c) ∧
      ∀ q, q ≠ p → (s.pfcOn p fun s => s.sendPfc p bulk quanta).port q = s.port q := by
  unfold State.pfcOn
  split
  · exact ⟨sendPfc_sent hup bulk quanta, sendPfc_leaves s p bulk quanta⟩
  · exact ⟨(List.append_nil _).symm, fun c => ⟨rfl, rfl⟩, fun q _ => rfl⟩

/-- A lower occupancy at which no hold ends. -/
theorem execPfcXon_stays {s : State} {p occ : Nat} {bulk : Bool} (ho : occ ≤ (s.port p).occ bulk)
    (h : (s.port p).xoff bulk = false ∨ s.loOf p bulk < occ) : execPfcXon p bulk occ s = .next (s.quiet.setPort p fun y => y.setOcc bulk occ) := by
  have stays : ¬ ((s.quiet.port p).xoff bulk && decide (occ ≤ s.quiet.loOf p bulk)) = true := by
    change ¬ ((s.port p).xoff bulk && decide (occ ≤ s.loOf p bulk)) = true
    rcases h with h | h
    · simp [h]
    · simp [Nat.not_le.2 h]
  unfold execPfcXon
  dsimp only
  rw [if_neg (show ¬ (s.quiet.port p).occ bulk < occ from Nat.not_lt.2 ho), if_neg stays]

/-- An occupancy at LO or below while the port holds its partner off. -/
theorem execPfcXon_ends {s : State} {p occ : Nat} {bulk : Bool} (ho : occ ≤ (s.port p).occ bulk) (hx : (s.port p).xoff bulk = true)
    (hl : occ ≤ s.loOf p bulk) : execPfcXon p bulk occ s =
      .next (((s.quiet.setPort p fun y => y.setOcc bulk occ).setPort p fun y => y.setXoff bulk false).pfcOn p fun s => s.sendPfc p bulk 0) := by
  have ends : ((s.quiet.port p).xoff bulk && decide (occ ≤ s.quiet.loOf p bulk)) = true := by
    change ((s.port p).xoff bulk && decide (occ ≤ s.loOf p bulk)) = true
    simp [hx, hl]
  unfold execPfcXon
  dsimp only
  rw [if_neg (show ¬ (s.quiet.port p).occ bulk < occ from Nat.not_lt.2 ho), if_pos ends]

theorem execPfcRefresh_holding {s : State} {p : Nat} {bulk : Bool} (hx : (s.port p).xoff bulk = true) (hl : s.loOf p bulk < (s.port p).occ bulk) :
    execPfcRefresh p bulk s = .next (s.quiet.pfcOn p fun s => s.sendPfc p bulk (s.cfg (0xC000 + p) 20)) := by
  have holds : ((s.quiet.port p).xoff bulk && decide (s.quiet.loOf p bulk < (s.quiet.port p).occ bulk)) = true := by
    change ((s.port p).xoff bulk && decide (s.loOf p bulk < (s.port p).occ bulk)) = true
    simp [hx, hl]
  unfold execPfcRefresh
  dsimp only
  rw [if_pos holds]

/-! ### Pauses by the partner (R403) -/

/-- The state of a class that ignores pauses until a time. -/
def Port.ignoring (x : Port) (bulk : Bool) (t : Nat) : Port := if bulk then { x with ignoreBulk := t } else { x with ignoreCtl := t }

theorem Port.ignore_ignoring (x : Port) (bulk : Bool) (t : Nat) : (x.ignoring bulk t).ignore bulk = t := by cases bulk <;> rfl

theorem Port.paused_ignoring (x : Port) (bulk c : Bool) (t : Nat) : (x.ignoring bulk t).paused c = x.paused c := by cases bulk <;> rfl

theorem execPfcStorm_paused {s : State} {p : Nat} {bulk : Bool} (hp : (s.port p).paused bulk = true) (hs : s.cfgOn (0xC000 + p) 21 = true) :
    ∃ u : State, u.commons = s.commons ∧ u.top = s.top ∧ u.tickDetail = s.tickDetail ∧ (u.port p).paused bulk = false ∧
      (u.port p).ignore bulk = s.counterNow.2 / 2 ^ 32 + 1000000000 ∧ (∀ q, q ≠ p → u.port q = s.port q) ∧
      execPfcStorm p bulk s = .next (u.raiseAs (blkPort p) 0x14 .c p s.tickDetail none) := by
  have goes : ¬ ((!((s.quiet.port p).paused bulk)) = true ∨ (!(s.quiet.cfgOn (0xC000 + p) 21)) = true) := by
    change ¬ ((!((s.port p).paused bulk)) = true ∨ (!(s.cfgOn (0xC000 + p) 21)) = true)
    simp [hp, hs]
  have rest := unpause_rest s.quiet.elapse p bulk
  have detail : (s.quiet.elapse.unpause p bulk).tickDetail = s.tickDetail := by rw [rest]; rfl
  refine ⟨(s.quiet.elapse.unpause p bulk).setPort p fun y => y.ignoring bulk (s.counterNow.2 / 2 ^ 32 + 1000000000), ?_, ?_, detail, ?_, ?_,
    fun q hq => ?_, ?_⟩
  · rw [State.setPort_commons, rest]; rfl
  · rw [State.setPort_top, rest]; rfl
  · rw [State.port_setPort_same, Port.paused_ignoring, unpause_paused]
  · rw [State.port_setPort_same, Port.ignore_ignoring]
  · rw [State.port_setPort_other _ _ _ _ hq, unpause_others _ hq]
    rfl
  · unfold execPfcStorm
    dsimp only
    rw [if_neg goes, ← detail]
    rfl

theorem unpause_pcpOf (s : State) (p : Nat) (bulk : Bool) (q : Nat) (c : Bool) : (s.unpause p bulk).pcpOf q c = s.pcpOf q c := by
  rw [unpause_rest]; rfl

/-- A received PFC frame that names one class of the port (R403). -/
theorem takePfc_names {s : State} {p arrival occ : Nat} {bulk : Bool} (hd : s.pcpOf p false ≠ s.pcpOf p true)
    (hi : 1000 * (s.port p).ignore bulk ≤ arrival) : s.takePfc p arrival [(s.pcpOf p bulk, occ)] =
      if occ = 0 then (s.countPort p 24).unpause p bulk else (s.countPort p 24).setPort p fun x => x.setPaused bulk true := by
  have known : ¬ (([(s.pcpOf p bulk, occ)].any fun e => e.2 != 0 && e.1 != s.pcpOf p false && e.1 != s.pcpOf p true) = true) := by
    cases bulk <;> simp
  have free : ¬ arrival < 1000 * ((s.countPort p 24).port p).ignore bulk := by
    unfold State.countPort
    rw [State.port_setPort_same]
    exact Nat.not_lt.2 hi
  have own : ([(s.pcpOf p bulk, occ)].find? fun e => e.1 == (s.countPort p 24).pcpOf p bulk) = some (s.pcpOf p bulk, occ) :=
    List.find?_cons_of_pos (beq_self_eq_true _)
  have other (u : State) (c : Bool) (hc : u.pcpOf p c = s.pcpOf p c) (h : s.pcpOf p bulk ≠ s.pcpOf p c) :
      ([(s.pcpOf p bulk, occ)].find? fun e => e.1 == u.pcpOf p c) = none := by
    rw [hc]
    exact List.find?_eq_none.2 (by simpa using h)
  have taken : (if occ = 0 then (s.countPort p 24).unpause p bulk else (s.countPort p 24).setPort p fun x => x.setPaused bulk true).pcpOf p true =
      s.pcpOf p true := by
    split
    · exact unpause_pcpOf _ p bulk p true
    · rfl
  unfold State.takePfc
  rw [if_neg known]
  cases bulk
  · simp only [foldS, own, if_neg free]
    rw [other _ true taken hd]
  · simp only [foldS]
    rw [other (s.countPort p 24) false rfl hd.symm]
    simp only [own, if_neg free]

end Sys2Proof.Machine
end

section
/-! PROOF. The checks of a media port (R400), and frames that are counted and handled by it (R397, R401, R423): for O52. -/

namespace Sys2Proof.Machine

/-- A frame with its receive time stamp and the class its body gives it. -/
def State.rxFrame (s : State) (g : MediaFrame) : MediaFrame :=
  { g with arrival := (s.rxStamp g.port g.arrival).toNat, cls := g.body.cls.getD g.cls }

/-- A frame that passed every check is counted at its port, and moves the replay window of its key. -/
def State.rxCounted (s : State) (f : MediaFrame) : State := ((s.noteSecTag f).countRx f.port f.len).countPort f.port 28 f.frags

/-- The checks do not go by the time stamp. -/
theorem rxFails_rxFrame {s : State} {g : MediaFrame} (h : g.body.cls.getD g.cls = g.cls) : s.rxFails (s.rxFrame g) = s.rxFails g := by
  unfold State.rxFails State.rxFrame
  dsimp only
  rw [h]

/-- A frame of a length that its port takes: steps 1 to 3 of R400. -/
structure State.TakesLength (s : State) (g : MediaFrame) : Prop where
  up : (s.port g.port).up = true
  smd : g.smdOk = true
  least : 64 ≤ g.len
  most : g.len ≤ s.cfg (0xC000 + g.port) 9

/-- A frame that fails its frame check sequence (R400 step 4), and is no Kapo frame. -/
theorem execMediaFrameRx_bad {s : State} {g : MediaFrame} (h : s.TakesLength g) (hf : g.fcs = .bad) (hb : g.body = .other) :
    execMediaFrameRx g s = .next (s.quiet.countPort g.port 8) := by
  have q : s.quiet.TakesLength g := ⟨h.up, h.smd, h.least, h.most⟩
  have fails : s.quiet.rxFails (s.quiet.rxFrame g) = some 8 := by
    unfold State.rxFails State.rxFrame
    simp [hf]
  unfold State.rxFrame at fails
  unfold execMediaFrameRx
  dsimp only
  rw [if_neg (by simp [q.up]), if_neg (by simp [q.smd]), if_neg (Nat.not_lt.2 q.least), if_neg (Nat.not_lt.2 q.most), fails]
  dsimp only
  unfold State.rxDrop
  dsimp only
  rw [hb]
  rfl

/-- A frame that passes every check is counted, enters the buffer of its class and is handled. -/
theorem execMediaFrameRx_passes {s : State} {g : MediaFrame} (h : s.TakesLength g) (hc : g.body.cls.getD g.cls = g.cls) (hf : s.rxFails g = none) :
    execMediaFrameRx g s = .next ((if macControl g.body then s.quiet.rxCounted (s.rxFrame g) else match g.cls with
      | .media => s.quiet.rxCounted (s.rxFrame g)
      | .control => (s.quiet.rxCounted (s.rxFrame g)).buffer g.port false g.len
      | .bulk => (s.quiet.rxCounted (s.rxFrame g)).buffer g.port true g.len).rxHandle (s.rxFrame g)) := by
  have q : s.quiet.TakesLength g := ⟨h.up, h.smd, h.least, h.most⟩
  have passes : s.quiet.rxFails (s.quiet.rxFrame g) = none := (rxFails_rxFrame (s := s.quiet) hc).trans hf
  unfold State.rxFrame at passes
  unfold execMediaFrameRx
  dsimp only
  rw [if_neg (by simp [q.up]), if_neg (by simp [q.smd]), if_neg (Nat.not_lt.2 q.least), if_neg (Nat.not_lt.2 q.most), passes]
  dsimp only
  rw [hc]
  rfl

/-! ### What counting a frame changes -/

/-- A frame has been counted at a port: RX_FRAMES by one, octets and fragments; with port authentication its key has moved. -/
structure RxCounted (s t : State) (p : Nat) : Prop where
  port : t.port p = { s.port p with cnt := (t.port p).cnt }
  frames : tget 0 (t.port p).cnt 0 = tget 0 (s.port p).cnt 0 + 1
  counters : ∀ i, i ≠ 0 → i ≠ 1 → i ≠ 2 → i ≠ 28 → tget 0 (t.port p).cnt i = tget 0 (s.port p).cnt i
  others : ∀ q, q ≠ p → t.port q = s.port q
  rest : ∃ keys, t = { s with sec := { s.sec with portKeys := keys }, ports := t.ports }
  plain : s.cfgOn (0xC300 + p) 1 = false → t.sec = s.sec

theorem RxCounted.plain_rest {s t : State} {p : Nat} (h : RxCounted s t p) (a : s.cfgOn (0xC300 + p) 1 = false) : t = { s with ports := t.ports } := by
  obtain ⟨keys, rest⟩ := h.rest
  have whole : t = { s with sec := t.sec, ports := t.ports } := by rw [rest]
  rwa [h.plain a] at whole

theorem noteSecTag_plain {s : State} {f : MediaFrame} (h : s.cfgOn (0xC300 + f.port) 1 = false) : s.noteSecTag f = s := by
  unfold State.noteSecTag
  split
  · rw [h]; rfl
  · rfl

theorem noteSecTag_rest (s : State) (f : MediaFrame) : ∃ keys, s.noteSecTag f = { s with sec := { s.sec with portKeys := keys } } := by
  unfold State.noteSecTag
  split
  · split
    · exact ⟨_, rfl⟩
    · exact ⟨s.sec.portKeys, rfl⟩
  · exact ⟨s.sec.portKeys, rfl⟩

theorem rxCounted_rxCounted (s : State) (f : MediaFrame) : RxCounted s (s.rxCounted f) f.port := by
  obtain ⟨keys, hk⟩ := noteSecTag_rest s f
  have port : (s.rxCounted f).port f.port =
      { s.port f.port with cnt := bump (bumpWide (bump (s.port f.port).cnt 0 1) 1 f.len) 28 f.frags } := by
    unfold State.rxCounted State.countRx State.countPort
    rw [State.port_setPort_same, State.port_setPort_same, State.port_setPort_same, hk]
    rfl
  refine ⟨?_, ?_, fun i h0 h1 h2 h28 => ?_, fun q hq => ?_, ⟨keys, ?_⟩, fun h => ?_⟩
  · rw [port]
  · rw [port]
    exact (tget_bump_other _ (by decide) _).trans ((tget_bumpWide_other _ (by decide) (by decide) _).trans (tget_bump_same (s.port f.port).cnt 0 1))
  · rw [port]
    exact (tget_bump_other _ h28 _).trans ((tget_bumpWide_other _ h1 h2 _).trans (tget_bump_other _ h0 _))
  · unfold State.rxCounted State.countRx State.countPort
    rw [State.port_setPort_other _ _ _ _ hq, State.port_setPort_other _ _ _ _ hq, State.port_setPort_other _ _ _ _ hq, hk]
    rfl
  · unfold State.rxCounted State.countRx State.countPort
    rw [hk]
    rfl
  · unfold State.rxCounted
    rw [noteSecTag_plain h]
    rfl

/-! ### An address query (R397) -/

/-- A frame enters its buffer where PFC is not enabled. -/
theorem buffer_without_pfc {s : State} {p : Nat} (h : s.cfgOn (0xC000 + p) 15 = false) (bulk : Bool) (n : Nat) :
    s.buffer p bulk n = s.setPort p fun x => x.setOcc bulk ((s.port p).occ bulk + n) := by
  unfold State.buffer
  dsimp only
  rw [if_neg (by simp [h])]

/-- The answer to a query, where CONTROL is not paused and the port has no authentication. -/
theorem rxHandle_query {s : State} {f : MediaFrame} {p : Nat} {dst : List Byte} (hport : f.port = p) (hb : f.body = .query dst)
    (hup : (s.port p).up = true) (ha : s.cfgOn (0xC300 + p) 1 = false) (hp : (s.port p).paused false = false) :
    SentOn s (s.rxHandle f) p ∧ (s.rxHandle f).sent = s.sent ++ if s.ownAddress p dst then [.answer p] else [] := by
  subst hport
  unfold State.rxHandle
  rw [hb]
  dsimp only
  split
  · unfold State.sendClass
    rw [if_neg (by simp [hp])]
    exact ⟨sendMedia_sentOn s _ _ _, sendMedia_sent hup (.inr ha) _⟩
  · exact ⟨.refl s _, (List.append_nil _).symm⟩

/-- A query that passes every check: it is counted and buffered as CONTROL, and answered if it names the port. -/
theorem execMediaFrameRx_query {s : State} {g : MediaFrame} {dst : List Byte} (h : s.TakesLength g) (hf : s.rxFails g = none) (hc : g.cls = .control)
    (ha : s.cfgOn (0xC300 + g.port) 1 = false) (hpfc : s.cfgOn (0xC000 + g.port) 15 = false) (hp : (s.port g.port).paused false = false)
    (hb : g.body = .query dst) : ∃ t, execMediaFrameRx g s = .next t ∧
      t = { s with sent := if s.ownAddress g.port dst then [.answer g.port] else [], ports := t.ports } ∧
      tget 0 (t.port g.port).cnt 0 = tget 0 (s.port g.port).cnt 0 + 1 ∧ (t.port g.port).occ false = (s.port g.port).occ false + g.len ∧
      ∀ q, q ≠ g.port → t.port q = s.port q := by
  have counted : RxCounted s.quiet (s.quiet.rxCounted (s.rxFrame g)) g.port := rxCounted_rxCounted s.quiet (s.rxFrame g)
  have ran := execMediaFrameRx_passes h (by rw [hb, hc]; rfl) hf
  simp only [hb, hc, macControl, if_neg Bool.false_ne_true] at ran
  generalize s.quiet.rxCounted (s.rxFrame g) = u at counted ran
  have state : u = { s.quiet with ports := u.ports } := counted.plain_rest ha
  have same (o m : Nat) : u.cfgOn o m = s.cfgOn o m := by rw [state]; rfl
  rw [buffer_without_pfc ((same _ _).trans hpfc)] at ran
  generalize hv : (u.setPort g.port fun x => x.setOcc false ((u.port g.port).occ false + g.len)) = v at ran
  have port : v.port g.port = (u.port g.port).setOcc false ((u.port g.port).occ false + g.len) := by rw [← hv, State.port_setPort_same]
  have buffered : v = { s.quiet with ports := v.ports } := by rw [← hv, state]; rfl
  have up : (v.port g.port).up = true := by rw [port, Port.up_setOcc, counted.port]; exact h.up
  have free : (v.port g.port).paused false = false := by rw [port, Port.paused_setOcc, counted.port]; exact hp
  obtain ⟨sent, answered⟩ := rxHandle_query (s := v) (f := s.rxFrame g) (p := g.port) rfl hb up (by rw [buffered]; exact ha) free
  refine ⟨_, ran, ?_, ?_, ?_, fun q hq => ?_⟩
  · have sec : (v.rxHandle (s.rxFrame g)).sec = s.sec := (sent.plain (by rw [buffered]; exact ha)).trans (by rw [buffered]; rfl)
    have own : v.ownAddress g.port dst = s.ownAddress g.port dst := by rw [buffered]; rfl
    simp only [own, show v.sent = [] by rw [buffered]; rfl, List.nil_append] at answered
    have whole : v.rxHandle (s.rxFrame g) = { s with
        sent := (v.rxHandle (s.rxFrame g)).sent, sec := (v.rxHandle (s.rxFrame g)).sec, ports := (v.rxHandle (s.rxFrame g)).ports } := by
      rw [sent.rest, buffered]; rfl
    rwa [answered, sec] at whole
  · rw [sent.counters 0 (by decide) (by decide) (by decide), port, Port.cnt_setOcc]
    exact counted.frames
  · rw [sent.occ, port, Port.occ_setOcc, counted.port]
    rfl
  · refine (sent.others q hq).trans ?_
    rw [← hv, State.port_setPort_other _ _ _ _ hq]
    exact counted.others q hq

/-! ### A PFC frame (R403) -/

/-- A PFC frame that passes every check and names one class of the port. -/
theorem execMediaFrameRx_pfc {s : State} {g : MediaFrame} {bulk : Bool} {occ : Nat} (h : s.TakesLength g) (hf : s.rxFails g = none)
    (hd : s.pcpOf g.port false ≠ s.pcpOf g.port true) (hb : g.body = .pfc [(s.pcpOf g.port bulk, occ)])
    (hi : 1000 * (s.port g.port).ignore bulk ≤ (s.rxStamp g.port g.arrival).toNat) : ∃ t, execMediaFrameRx g s = .next t ∧
      (t.port g.port).paused bulk = decide (occ ≠ 0) ∧ (t.port g.port).paused (!bulk) = (s.port g.port).paused (!bulk) ∧
      tget 0 (t.port g.port).cnt 24 = tget 0 (s.port g.port).cnt 24 + 1 := by
  have counted : RxCounted s.quiet (s.quiet.rxCounted (s.rxFrame g)) g.port := rxCounted_rxCounted s.quiet (s.rxFrame g)
  have ran := execMediaFrameRx_passes h (by rw [hb]; rfl) hf
  simp only [hb, macControl, if_true] at ran
  generalize s.quiet.rxCounted (s.rxFrame g) = u at counted ran
  obtain ⟨keys, rest⟩ := counted.rest
  have pcp (c : Bool) : u.pcpOf g.port c = s.pcpOf g.port c := by rw [rest]; rfl
  have handled : u.rxHandle (s.rxFrame g) = u.takePfc g.port (s.rxStamp g.port g.arrival).toNat [(u.pcpOf g.port bulk, occ)] := by
    unfold State.rxHandle
    rw [show (s.rxFrame g).body = _ from hb, pcp]
    rfl
  have named := takePfc_names (s := u) (p := g.port) (arrival := (s.rxStamp g.port g.arrival).toNat) (occ := occ) (bulk := bulk)
    (by rw [pcp, pcp]; exact hd) (by rw [counted.port]; exact hi)
  have port : (u.countPort g.port 24).port g.port = { u.port g.port with cnt := bump (u.port g.port).cnt 24 1 } := State.port_setPort_same _ _ _
  have count : tget 0 ((u.countPort g.port 24).port g.port).cnt 24 = tget 0 (s.port g.port).cnt 24 + 1 := by
    rw [port]
    refine (tget_bump_same (u.port g.port).cnt 24 1).trans ?_
    rw [counted.counters 24 (by decide) (by decide) (by decide) (by decide)]
    rfl
  have other : ((u.countPort g.port 24).port g.port).paused (!bulk) = (s.port g.port).paused (!bulk) := by
    rw [port, counted.port]; rfl
  refine ⟨_, ran, ?_⟩
  rw [handled, named]
  split
  · have after := unpause_released (u.countPort g.port 24) g.port bulk
    rename_i hz
    refine ⟨?_, ?_, ?_⟩
    · rw [unpause_paused, hz]; rfl
    · rw [after.paused, State.port_setPort_same]
      exact (Port.paused_setPaused_not _ _ _).trans other
    · rw [after.counters 24 (by decide) (by decide) (by decide), State.port_setPort_same]
      exact (congrArg (fun c => tget 0 c 24) (Port.cnt_setPaused _ _ _)).trans count
  · rename_i hz
    rw [State.port_setPort_same]
    exact ⟨by rw [Port.paused_setPaused]; simp [hz], (Port.paused_setPaused_not _ _ _).trans other,
      (congrArg (fun c => tget 0 c 24) (Port.cnt_setPaused _ _ _)).trans count⟩

end Sys2Proof.Machine
end

section
/-! PROOF. A tick-stream frame from its port to its tick window (R46, R47, R60): for O52. -/

namespace Sys2Proof.Machine

/-! ### The checks of Kapo (R60) -/

/-- What the checks of a frame that its context takes change: the counters of the port, the life of a key, and at the context SEQ with its
counters. -/
structure FrameNoted (s w : State) (p x : Nat) : Prop where
  dict : w.dict = s.dict
  time : w.time = s.time
  csw : w.csw = { s.csw with ctx := w.csw.ctx }
  ctx : w.ctx x = { s.ctx x with cnt := (w.ctx x).cnt, seq0 := (w.ctx x).seq0, seq1 := (w.ctx x).seq1 }
  counters : ∀ i, i ≠ 6 → i ≠ 7 → tget 0 (w.ctx x).cnt i = tget 0 (s.ctx x).cnt i
  frames : tget 0 (w.port p).cnt 0 = tget 0 (s.port p).cnt 0 + 1

theorem RxCounted.frameNoted {s t : State} {p : Nat} (h : RxCounted s.quiet t p) (x : Nat) : FrameNoted s t p x := by
  obtain ⟨keys, rest⟩ := h.rest
  have csw : t.csw = s.csw := by rw [rest]; rfl
  have ctx : t.ctx x = s.ctx x := by unfold State.ctx; rw [csw]
  exact ⟨by rw [rest]; rfl, by rw [rest]; rfl, by rw [csw], by rw [ctx], fun i _ _ => by rw [ctx], h.frames⟩

theorem authUse_noted {s w : State} {p x : Nat} (h : FrameNoted s w p x) (k : Kapo) (n : Nat) : FrameNoted s (w.authUse k n) p x := by
  unfold State.authUse
  split
  · exact ⟨h.dict, h.time, h.csw, h.ctx, h.counters, h.frames⟩
  · exact h

theorem setCtx_noted {s w : State} {p x : Nat} (h : FrameNoted s w p x) (f : Ctx → Ctx)
    (hf : f (w.ctx x) = { w.ctx x with cnt := (f (w.ctx x)).cnt, seq0 := (f (w.ctx x)).seq0, seq1 := (f (w.ctx x)).seq1 })
    (hc : ∀ i, i ≠ 6 → i ≠ 7 → tget 0 (f (w.ctx x)).cnt i = tget 0 (w.ctx x).cnt i) : FrameNoted s (w.setCtx x f) p x := by
  have ctx : (w.setCtx x f).ctx x = f (w.ctx x) := State.ctx_setCtx_same _ _ _
  refine ⟨h.dict, h.time, congrArg (fun c : Csw => { c with ctx := (w.setCtx x f).csw.ctx }) h.csw, ?_, fun i h6 h7 => ?_, h.frames⟩
  · rw [ctx, hf, h.ctx]
  · rw [ctx]
    exact (hc i h6 h7).trans (h.counters i h6 h7)

theorem count_noted {s w : State} {p x : Nat} (h : FrameNoted s w p x) {i : Nat} (hi : i = 6 ∨ i = 7) (n : Nat) :
    FrameNoted s (w.count x i n) p x :=
  setCtx_noted h _ rfl fun j h6 h7 => tget_bump_other _ (by rcases hi with rfl | rfl <;> assumption) _

theorem noteSeq_noted {s w : State} {p x : Nat} (h : FrameNoted s w p x) (k : Kapo) : FrameNoted s (w.noteSeq x k) p x := by
  unfold State.noteSeq
  dsimp only
  split
  · exact count_noted (setCtx_noted h _ rfl fun _ _ _ => rfl) (.inl rfl) _
  · exact count_noted (setCtx_noted h _ rfl fun _ _ _ => rfl) (.inl rfl) _

theorem noteTstart_noted {s w : State} {p x : Nat} (h : FrameNoted s w p x) (k : Kapo) (sample : Nat) :
    FrameNoted s (w.noteTstart x k sample) p x := by
  unfold State.noteTstart
  dsimp only
  split
  · exact h
  · exact count_noted h (.inr rfl) _

theorem cutCopies_none {s : State} {x n : Nat} (h : s.cutTargets x n = []) (r : KapoRx) (failed : Bool) : s.cutCopies x n r failed = s := by
  unfold State.cutCopies
  rw [h]
  exact ite_self _

/-- A tick-stream frame whose context takes it, behind authentication (R60 steps 11 to 13). -/
theorem ctxFrame_tickStream {s : State} {x n : Nat} {k : Kapo} {r : KapoRx} (hm : ctxMode s.dict.vals x = 0) (hd : k.direct = false)
    (ht : k.htype = 0) (hn : s.fullLabel k = n) (ha : s.authPasses r x k n = true) (hc : s.cutTargets x n = []) :
    s.ctxFrame x k r = (((s.authUse k n).noteSeq x k).noteTstart x k (n * s.spt)).mediaFrame x k r n := by
  unfold State.ctxFrame
  simp only [hn, hd, Int.toNat_natCast, if_neg Bool.false_ne_true, ha, hm, cutCopies_none hc, ht]
  simp

/-- A frame behind its port, up to its context (R60 steps 2 to 10). -/
theorem kapoFrame_ctx {s : State} {r : KapoRx} {x : Nat} (hf : s.headerFails r (kapoHeader r.bytes) = none) (hr : s.resetting 6 = false)
    (hdrop : r.drop = none) (hl : (kapoHeader r.bytes).length s.spt ≤ r.bytes.length) (hm : (kapoHeader r.bytes).mirror = false)
    (ht : s.time.ticked = true) (hx : s.kapoCtx r.port (kapoHeader r.bytes) = some x) : s.kapoFrame r = s.ctxFrame x (kapoHeader r.bytes) r := by
  unfold State.kapoFrame
  simp [hf, hr, hdrop, Nat.not_lt.2 hl, hm, ht, hx]

/-- What Kapo checking sees of a frame with its receive time stamp. -/
def State.kapoAt (s : State) (f : MediaFrame) (e b : List Byte) (a : Bool) : KapoRx := kapoOf (s.rxFrame f) e b a none

theorem State.kapoAt_arrival (s : State) (f : MediaFrame) (e b : List Byte) (a : Bool) :
    (s.kapoAt f e b a).arrival = (s.rxStamp f.port f.arrival).toNat := rfl

/-- A frame that a context takes reaches its tick window. -/
theorem State.TakesFrame.reaches {s : State} {f : MediaFrame} {e b : List Byte} {a : Bool} {x n : Nat} (h : s.TakesFrame f e b a x n) :
    ∃ w, FrameNoted s w f.port x ∧ execMediaFrameRx f s =
      .next (w.mediaFrame x (kapoHeader b) (s.kapoAt f e b a) n) := by
  obtain ⟨hsmd, hfails, hcls, hbody, hnames⟩ := h.whole
  obtain ⟨hreset, hticked⟩ := h.csw
  obtain ⟨hmirror, hhtype, hdirect, htags⟩ := h.stream
  obtain ⟨hctx, hmode, hmerge⟩ := h.ctx
  have ran := execMediaFrameRx_passes ⟨h.link, hsmd, h.size.1, h.size.2⟩ (by rw [hbody, hcls]; rfl) hfails
  have counted : RxCounted s.quiet (s.quiet.rxCounted (s.rxFrame f)) f.port := rxCounted_rxCounted s.quiet (s.rxFrame f)
  simp only [hbody, hcls, macControl, if_neg Bool.false_ne_true] at ran
  generalize s.quiet.rxCounted (s.rxFrame f) = u at counted ran
  obtain ⟨keys, rest⟩ := counted.rest
  have handled : u.rxHandle (s.rxFrame f) = u.kapoFrame (s.kapoAt f e b a) := by
    unfold State.rxHandle
    rw [show (s.rxFrame f).body = _ from hbody]
    dsimp only
    exact if_pos (by rw [rest]; exact hnames)
  have header : u.headerFails (s.kapoAt f e b a) (kapoHeader b) = none := by rw [rest]; exact h.header
  have reset : u.resetting 6 = false := by rw [rest]; exact hreset
  have toCtx : u.kapoFrame (s.kapoAt f e b a) = u.ctxFrame x (kapoHeader b) (s.kapoAt f e b a) :=
    kapoFrame_ctx header reset rfl (by rw [rest]; exact h.length) hmirror (by rw [rest]; exact hticked) (by rw [rest]; exact hctx)
  have stream : u.ctxFrame x (kapoHeader b) (s.kapoAt f e b a) = _ :=
    ctxFrame_tickStream (by rw [rest]; exact hmode) hdirect hhtype (by rw [rest]; exact h.tick) (by rw [rest]; exact h.auth) (by rw [rest]; exact h.copies)
  exact ⟨_, noteTstart_noted (noteSeq_noted (authUse_noted (counted.frameNoted x) _ _) _) _ _, ran.trans (congrArg _ (handled.trans (toCtx.trans stream)))⟩

/-! ### The tick window (R46, R47) -/

/-- A frame of a context that merges no networks meets its tick window. -/
theorem mediaFrame_unmerged {s : State} {x n : Nat} (h : ctxMerge s.dict.vals x = false) (k : Kapo) (r : KapoRx) : s.mediaFrame x k r n =
    if n < s.time.tick ∧ (n + 1 < s.time.tick ∨ s.pastCutoff n r.arrival = true) then s.missWindow x n 1
    else if s.time.tick < n then s.missWindow x n 2 else s.takeMedia x n k r (decide (n = s.time.tick)) := by
  have late : (decide ((n : Int) < s.time.tick) && (decide ((n : Int) + 1 < s.time.tick) || s.pastCutoff n r.arrival)) =
      decide (n < s.time.tick ∧ (n + 1 < s.time.tick ∨ s.pastCutoff n r.arrival = true)) := by
    rw [Bool.eq_iff_iff]
    simp only [Bool.and_eq_true, Bool.or_eq_true, decide_eq_true_eq]
    norm_cast
  unfold State.mediaFrame State.firstCopy State.noteCopy
  simp only [h, if_neg Bool.false_ne_true, Int.toNat_natCast, late]
  simp only [decide_eq_true_eq, Nat.cast_lt, Nat.cast_inj]

/-- A frame without tags, with the channels of its context. -/
theorem takeTags_none {k : Kapo} (h : k.tags = false) (w : TagSrc) (bytes : List Byte) (s : State) : s.takeTags w k bytes = s := by
  unfold State.takeTags
  rw [if_pos (.inr (by simp [h]))]

/-- What a frame brings to the tick `n` of its context. -/
def inForceOf (s : State) (n : Nat) (k : Kapo) (r : KapoRx) : InForce :=
  ⟨n, k.epoch, r.arrival, payloadData k.fmt k.nch s.spt (r.bytes.drop (32 + 8 * k.taglen)), k.silent⟩

/-- The first frame of its tick, on time: it comes into force and its samples enter the gather bank. -/
theorem takeMedia_onTime {s : State} {x n : Nat} {k : Kapo} (r : KapoRx) (ht : k.tags = false) (hn : k.nch = ctxNch s.dict.vals x)
    (hf : ∀ g ∈ (s.ctx x).inForce, g.tick ≠ n) (he : ∀ g ∈ (s.ctx x).early, g.tick ≠ n) : s.takeMedia x n k r false =
      (s.setCtx x fun c => { c with inForce := inForceOf s n k r :: (s.ctx x).inForce }).gatherPut x n (inForceOf s n k r).data := by
  have held : ((s.ctx x).early.filter fun g => g.tick == n) = [] := List.filter_eq_nil_iff.2 fun g hg => by simpa using he g hg
  have fits (d : TickData) (hd : d.nch = k.nch) (k0 count : Nat) : fitChannels x (ctxNch s.dict.vals x) k0 count d = d := if_pos (hd.trans hn)
  unfold State.takeMedia
  dsimp only
  rw [held, fits _ rfl]
  change (if (s.acceptFrame x (inForceOf s n k r)).2 = true then
    State.takeTags _ k r.bytes (s.acceptFrame x (inForceOf s n k r)).1 else (s.acceptFrame x (inForceOf s n k r)).1) = _
  rw [acceptFrame_first (f := inForceOf s n k r) hf, takeTags_none ht]
  rfl

/-- The first frame of its tick, one tick early: it waits (R46). -/
theorem takeMedia_early {s : State} {x n : Nat} {k : Kapo} (r : KapoRx) (ht : k.tags = false) (hn : k.nch = ctxNch s.dict.vals x)
    (he : ∀ g ∈ (s.ctx x).early, g.tick ≠ n) : s.takeMedia x n k r true =
      (s.setCtx x fun c => { c with early := inForceOf s n k r :: c.early }).count x 3 := by
  have held : ((s.ctx x).early.filter fun g => g.tick == n) = [] := List.filter_eq_nil_iff.2 fun g hg => by simpa using he g hg
  have fits (d : TickData) (hd : d.nch = k.nch) (k0 count : Nat) : fitChannels x (ctxNch s.dict.vals x) k0 count d = d := if_pos (hd.trans hn)
  unfold State.takeMedia
  dsimp only
  rw [held, fits _ rfl]
  exact takeTags_none ht _ _ _

/-- A state that a frame's checks leave has the samples per tick and the cutoff of before. -/
theorem FrameNoted.window {s w : State} {p x : Nat} (h : FrameNoted s w p x) (n arrival : Nat) :
    w.spt = s.spt ∧ w.pastCutoff n arrival = s.pastCutoff n arrival := by
  have spt : w.spt = s.spt := by unfold State.spt; rw [h.dict]
  refine ⟨spt, ?_⟩
  unfold State.pastCutoff State.cfg State.fs
  rw [h.dict, h.csw, spt]

theorem FrameNoted.inForce {s w : State} {p x : Nat} (h : FrameNoted s w p x) : (w.ctx x).inForce = (s.ctx x).inForce := by rw [h.ctx]
theorem FrameNoted.early {s w : State} {p x : Nat} (h : FrameNoted s w p x) : (w.ctx x).early = (s.ctx x).early := by rw [h.ctx]
theorem FrameNoted.gather {s w : State} {p x : Nat} (h : FrameNoted s w p x) : w.csw.gather = s.csw.gather := by rw [h.csw]

theorem gatherPut_ports (s : State) (x tick : Nat) (d : TickData) : (s.gatherPut x tick d).ports = s.ports := by
  obtain ⟨_, h⟩ := gatherPut_woken s x tick d
  rw [h]
  rfl

section
variable {s : State} {f : MediaFrame} {e b : List Byte} {a : Bool} {x n : Nat}

/-- What a frame of port media brings, for the state before it. -/
theorem FrameNoted.inForceOf {w : State} {p : Nat} (h : FrameNoted s w p x) (k : Kapo) (r : KapoRx) : inForceOf w n k r = inForceOf s n k r := by
  unfold Machine.inForceOf
  rw [(h.window n 0).1]

/-- A frame with tick c - 1 before the cutoff of its tick. -/
theorem State.TakesFrame.onTime (h : s.TakesFrame f e b a x n) (hn : n + 1 = s.time.tick)
    (hcut : s.pastCutoff n (s.rxStamp f.port f.arrival).toNat = false) : ∃ t, execMediaFrameRx f s = .next t ∧
      tfind t.csw.gather (bankKey n x) = some (inForceOf s n (kapoHeader b) (s.kapoAt f e b a)).data ∧
      (t.ctx x).inForceAt n = some (inForceOf s n (kapoHeader b) (s.kapoAt f e b a)) ∧
      tget 0 (t.port f.port).cnt 0 = tget 0 (s.port f.port).cnt 0 + 1 := by
  obtain ⟨w, noted, ran⟩ := h.reaches
  obtain ⟨-, -, -, htags⟩ := h.stream
  obtain ⟨-, -, hmerge⟩ := h.ctx
  have inTime : ¬ (n < w.time.tick ∧ (n + 1 < w.time.tick ∨ w.pastCutoff n (s.kapoAt f e b a).arrival = true)) := by
    rw [(noted.window n _).2, noted.time, State.kapoAt_arrival, hcut]
    simp [hn]
  have taken := takeMedia_onTime (s := w) (x := x) (n := n) (s.kapoAt f e b a) htags (by rw [noted.dict]; exact h.channels)
    (by rw [noted.inForce]; exact h.first.1) (by rw [noted.early]; exact h.first.2)
  rw [mediaFrame_unmerged (by rw [noted.dict]; exact hmerge), if_neg inTime, noted.time, if_neg (by omega), decide_eq_false (by omega), taken,
    noted.inForceOf] at ran
  obtain ⟨ctx, gather⟩ := gatherPut_in_force w x (inForceOf s n (kapoHeader b) (s.kapoAt f e b a))
    (inForceOf s n (kapoHeader b) (s.kapoAt f e b a) :: (w.ctx x).inForce)
  refine ⟨_, ran, gather, ?_, ?_⟩
  · refine (congrArg (fun c : Ctx => c.inForceAt n) ctx).trans ?_
    exact List.find?_cons_of_pos (beq_self_eq_true _)
  · unfold State.port
    rw [gatherPut_ports]
    exact noted.frames

/-- A frame one tick early. -/
theorem State.TakesFrame.waits (h : s.TakesFrame f e b a x n) (hn : n = s.time.tick) : ∃ t, execMediaFrameRx f s = .next t ∧
    t.csw.gather = s.csw.gather ∧ (t.ctx x).early.head? = some (inForceOf s n (kapoHeader b) (s.kapoAt f e b a)) ∧
    tget 0 (t.ctx x).cnt 3 = tget 0 (s.ctx x).cnt 3 + 1 := by
  obtain ⟨w, noted, ran⟩ := h.reaches
  obtain ⟨-, -, -, htags⟩ := h.stream
  obtain ⟨-, -, hmerge⟩ := h.ctx
  have taken := takeMedia_early (s := w) (x := x) (n := n) (s.kapoAt f e b a) htags (by rw [noted.dict]; exact h.channels)
    (by rw [noted.early]; exact h.first.2)
  rw [mediaFrame_unmerged (by rw [noted.dict]; exact hmerge), noted.time, if_neg (by omega), if_neg (by omega), decide_eq_true hn, taken,
    noted.inForceOf] at ran
  refine ⟨_, ran, noted.gather, ?_⟩
  unfold State.count
  rw [State.ctx_setCtx_same, State.ctx_setCtx_same]
  refine ⟨rfl, (tget_bump_same (w.ctx x).cnt 3 1).trans ?_⟩
  rw [noted.counters 3 (by decide) (by decide)]
  rfl

/-- A frame after the cutoff of its tick. -/
theorem State.TakesFrame.late (h : s.TakesFrame f e b a x n)
    (hn : n + 1 < s.time.tick ∨ n + 1 = s.time.tick ∧ s.pastCutoff n (s.rxStamp f.port f.arrival).toNat = true) :
    ∃ t, execMediaFrameRx f s = .next t ∧ t.csw.gather = s.csw.gather ∧ (t.ctx x).inForce = (s.ctx x).inForce ∧ n ∈ (t.ctx x).dropped ∧
      tget 0 (t.ctx x).cnt 1 = tget 0 (s.ctx x).cnt 1 + 1 := by
  obtain ⟨w, noted, ran⟩ := h.reaches
  obtain ⟨-, -, hmerge⟩ := h.ctx
  have missed : n < w.time.tick ∧ (n + 1 < w.time.tick ∨ w.pastCutoff n (s.kapoAt f e b a).arrival = true) := by
    rw [(noted.window n _).2, noted.time]
    exact ⟨by omega, hn.imp_right And.right⟩
  rw [mediaFrame_unmerged (by rw [noted.dict]; exact hmerge), if_pos missed] at ran
  refine ⟨_, ran, noted.gather, ?_⟩
  unfold State.missWindow State.count
  rw [State.ctx_setCtx_same, State.ctx_setCtx_same]
  refine ⟨noted.inForce, ?_, (tget_bump_same (w.ctx x).cnt 1 1).trans ?_⟩
  · dsimp only
    split
    · rename_i there
      simpa using there
    · exact List.mem_cons_self
  · rw [noted.counters 1 (by decide) (by decide)]
    rfl

end

/-- Settles O52: frames on time, early and late, frames that fail and that are handled, and flow control, one by one. -/
theorem mediaPortsCheckAndDeliver : Obligations.MediaPortsCheckAndDeliver := by
  unfold Obligations.MediaPortsCheckAndDeliver
  intro s f enc b a bulk x n p occ hsh
  refine ⟨fun h hn hcut => h.onTime hn hcut, fun h hn => h.waits hn, fun h hn => h.late hn, fun hup hsmd hmin hmax hfcs hbody => ?_,
    fun hup hsmd hmin hmax hf hc ha hpfc hp dst hbody => ?_, fun hup hsmd hmin hmax hf hd hbody hi => ?_, fun ho h => ?_, fun ho hx hl hup => ?_,
    fun hx hl hup => ?_, fun hp hs => ?_, fun hout => ?_, fun hup ha => ?_⟩
  case refine_1 =>
    exact ⟨_, execMediaFrameRx_bad ⟨hup, hsmd, hmin, hmax⟩ hfcs hbody, rfl, State.port_setPort_same s.quiet f.port _,
      fun q hq => State.port_setPort_other s.quiet f.port q _ hq⟩
  case refine_2 => exact execMediaFrameRx_query ⟨hup, hsmd, hmin, hmax⟩ hf hc ha hpfc hp hbody
  case refine_3 => exact execMediaFrameRx_pfc ⟨hup, hsmd, hmin, hmax⟩ hf hd hbody hi
  case refine_4 =>
    exact ⟨_, execPfcXon_stays ho h, State.port_setPort_same s.quiet p _, fun q hq => State.port_setPort_other s.quiet p q _ hq, rfl⟩
  case refine_5 =>
    have port : ((s.quiet.setPort p fun y => y.setOcc bulk occ).setPort p fun y => y.setXoff bulk false).port p =
        ((s.port p).setOcc bulk occ).setXoff bulk false := by rw [State.port_setPort_same, State.port_setPort_same]; rfl
    have up : (((s.quiet.setPort p fun y => y.setOcc bulk occ).setPort p fun y => y.setXoff bulk false).port p).up = true := by
      rw [port, Port.up_setXoff, Port.up_setOcc]; exact hup
    obtain ⟨sent, fields, others⟩ := pfcOn_sendPfc up bulk 0
    refine ⟨_, execPfcXon_ends ho hx hl, sent, ?_, ?_, fun q hq => ?_⟩
    · rw [(fields bulk).1, port, Port.xoff_setXoff]
    · rw [(fields bulk).2, port, Port.occ_setXoff, Port.occ_setOcc]
    · rw [others q hq, State.port_setPort_other _ _ _ _ hq, State.port_setPort_other _ _ _ _ hq]
      rfl
  case refine_6 =>
    obtain ⟨sent, fields, others⟩ := pfcOn_sendPfc (s := s.quiet) hup bulk (s.cfg (0xC000 + p) 20)
    exact ⟨_, execPfcRefresh_holding hx hl, sent, (fields bulk).1.trans hx, others⟩
  case refine_7 =>
    obtain ⟨u, hcommons, htop, -, paused, ignore, others, ran⟩ := execPfcStorm_paused hp hs
    have ports := (raiseAs_reported u (blkPort p) 0x14 p s.tickDetail .c none (by decide)).ports
    refine ⟨_, ran, raiseAs_recorded hcommons (by rw [htop]; exact hsh) _ _ _ _ (by decide), ?_⟩
    unfold State.port at *
    rw [ports]
    exact ⟨paused, ignore, others⟩
  case refine_8 =>
    refine ⟨_, congrArg Host.Outcome.next (unpause_empty (s := s.quiet) hout), ?_, fun q hq => State.port_setPort_other s.quiet p q _ hq, rfl⟩
    rw [State.port_setPort_same]
    exact Port.released_empty hout
  case refine_9 =>
    have after := unpause_released s.quiet p bulk
    have held : (((s.quiet.unpause p bulk).port p).held) = (s.port p).held.filter fun h => h.1 != bulk := by
      rw [after.port, State.port_setPort_same]; rfl
    have rest := unpause_rest s.quiet p bulk
    rw [after.plain ha] at rest
    exact ⟨_, rfl, unpause_sent (s := s.quiet) hup ha bulk, unpause_paused s.quiet p bulk, held, fun q hq => unpause_others s.quiet hq bulk, rest⟩

end Sys2Proof.Machine
end

section
/-! PROOF. What a tick boundary leaves of the time counter: reports, sends, the pair and EMIT (R43, R325-R331, R344-R350): for O50. -/

namespace Sys2Proof.Machine

/-- The operations of PROCESS and EMIT leave TIME as it is. -/
theorem Woken.time {s t : State} (h : Woken s t) : t.time = s.time := by obtain ⟨_, rfl⟩ := h; rfl

theorem time_of_cutView {s t : State} (h : t.cutView = s.cutView) : t.time = s.time := (Prod.mk.inj h).2

/-! ### Sends -/

theorem sendRecord_time (s : State) (vc ty tick n : Nat) (body : List Byte → Nat → Nat → MirrorBody) : (s.sendRecord vc ty tick n body).time = s.time :=
  time_of_cutView (sendRecord_cutView _ _ _ _ _ _)

theorem sendMirror_time (s : State) (vc ty tick : Nat) (b : List Byte) : (s.sendMirror vc ty tick b).time = s.time := sendRecord_time _ _ _ _ _ _

theorem sendOn_time (s : State) (x : Nat) (netB : Bool) (bytes : Nat) (e : Emission) : (s.sendOn x netB bytes e).time = s.time := by
  unfold State.sendOn
  dsimp only
  split
  · exact time_of_cutView (sendMedia_cutView _ _ _ _)
  · split
    · exact time_of_cutView (plSend_cutView _ _ _)
    · rfl

theorem sendFrame_time (s : State) (x bytes : Nat) (f : Nat → Bool → Emission) : (s.sendFrame x bytes f).time = s.time := by
  unfold State.sendFrame
  split
  · rfl
  · exact foldS_view State.time _ (fun s b => sendOn_time s x b bytes _) s _

theorem keyUse_time (s : State) (x tick field : Nat) : (s.keyUse x tick field).time = s.time := by
  unfold State.keyUse
  split <;> rfl

theorem sendOut_time (fence : Bool) (epoch : Nat) (s : State) (o : StageOut) : (State.sendOut fence epoch s o).time = s.time := by
  unfold State.sendOut
  dsimp only
  split
  · exact foldS_view State.time _ (fun s p => sendFrame_time s _ _ _) s _
  · split
    · rfl
    · exact (keyUse_time _ _ _ _).trans (sendFrame_time _ _ _ _)

/-! ### The pair at a boundary (R330, R331, R336, R344-R350) -/

theorem fence_time (s : State) (b : Nat) (note : Bool) : (s.fence b note).time = s.time := by
  have sent : (if s.pair.role = 0 then s.modPair fun p => { p with fenced := true, handoverAt := none, prov := false }
      else (s.modPair fun p => { p with fenced := true, handoverAt := none, prov := false }).sendMirror 1 7 b []).time = s.time := by
    split
    · rfl
    · exact sendMirror_time _ _ _ _ _
  unfold State.fence
  dsimp only
  split
  · exact (raiseT_reported _ _ _ _ _ (by decide)).time.trans sent
  · exact sent

theorem grantBoundary_time (s : State) (b : Nat) : (s.grantBoundary b).time = s.time := by
  unfold State.grantBoundary
  split
  · rfl
  · split_ifs <;> rfl

theorem gateBoundary_time (s : State) (b : Nat) : (s.gateBoundary b).time = s.time := by
  have fenced := fence_time s b true
  unfold State.gateBoundary
  dsimp only
  split_ifs
  · rfl
  · exact fenced
  · exact fenced
  · rfl
  · exact fenced
  · exact fenced

theorem impairCheck_time (s : State) (t n : Nat) : (s.impairCheck t n).time = s.time := by
  unfold State.impairCheck
  dsimp only
  split_ifs
  · rfl
  · rfl
  · exact (raiseT_reported _ _ _ _ _ (by decide)).time
  · rfl

theorem commitCheck_time (s : State) (n : Nat) : (s.commitCheck n).time = s.time := by
  unfold State.commitCheck
  split
  · rfl
  · exact (raiseT_reported s _ _ _ _ (by decide)).time

theorem pairBefore_time (s : State) (t n : Nat) (skip : List Nat) : (s.pairBefore t n skip).time = s.time := by
  have captured : (s.captureAt n).time = s.time := by
    unfold State.captureAt
    split <;> rfl
  unfold State.pairBefore
  split
  · rfl
  · exact (commitCheck_time _ _).trans ((impairCheck_time _ _ _).trans captured)

theorem lynxCompare_time (s : State) (label : Nat) : (s.lynxCompare label).time = s.time := by
  unfold State.lynxCompare
  split
  · dsimp only
    split
    · rfl
    · split
      · rfl
      · split
        · exact (raise_reported _ _ _ _ _ (by decide)).time
        · exact (raiseT_reported _ _ _ _ _ (by decide)).time
  · rfl

theorem lynxStage_time (s : State) (outs : List StageOut) (n label : Nat) : (s.lynxStage outs n label).time = s.time := by
  unfold State.lynxStage
  split
  · rfl
  · exact (lynxCompare_time _ _).trans (sendMirror_time _ _ _ _ _)

theorem pairAfter_time (s : State) (e : TickOps) (skip : List Nat) : (s.pairAfter e skip).time = s.time := by
  have joined (u : State) : u.tryJoin.time = u.time := by
    unfold State.tryJoin State.sendJoin
    split
    · exact sendRecord_time _ _ _ _ _ _
    · rfl
  have timed : (s.timingStep e).time = s.time := by
    unfold State.timingStep
    split
    · rfl
    · dsimp only
      generalize (if s.lmOk e.lm && s.loOk e.lo && skewOk e.skew then 0 else s.pair.timingRun + 1) = run
      split
      · exact (raiseT_reported _ _ _ _ _ (by decide)).time
      · rfl
  unfold State.pairAfter
  split
  · rfl
  · exact (joined _).trans timed

/-! ### EMIT (R43, R58, R84) -/

theorem skipSeq_time (s : State) (x n : Nat) : (s.skipSeq x n).time = s.time := by
  unfold State.skipSeq
  split <;> rfl

theorem formCtx_time (s : State) (x n label : Nat) : (s.formCtx x n label).1.time = s.time := by
  have counted : (if s.lacksSource x n then s.count x 17 else s).time = s.time := by split <;> rfl
  unfold State.formCtx
  dsimp only
  split
  · exact counted
  · exact counted

theorem formUnless_time (s : State) (skip : List Nat) (fwd n label : Nat) : (s.formUnless skip fwd n label).1.time = s.time := by
  unfold State.formUnless State.formAll
  split
  · rfl
  · exact foldl_view (fun p : State × List StageOut => p.1.time) _ (fun p x => formCtx_time p.1 x n label) _ _

theorem emitStage_time (s : State) (t : Nat) (outs : List StageOut) (skip : List Nat) : (s.emitStage t outs skip).time = s.time := by
  have sent : (foldS (State.sendOut (s.lastStage t) s.sendEpoch) s outs).time = s.time := foldS_view State.time _ (sendOut_time _ _) s outs
  have emitted : (if skip.contains blkCsw then s
      else if s.emitting then
        if s.pair.role = 1 ∧ !skip.contains blkPair then (foldS (State.sendOut (s.lastStage t) s.sendEpoch) s outs).sendMirror 1 5 t []
        else foldS (State.sendOut (s.lastStage t) s.sendEpoch) s outs
      else if s.pair.role = 2 then s.modPair fun p => { p with held := outs, heldAt := t }
      else if s.onAir then s.seqOnly outs
      else s).time = s.time := by
    split_ifs
    · rfl
    · exact (sendMirror_time _ _ _ _ _).trans sent
    · exact sent
    · rfl
    · exact foldS_view State.time _ (fun s o => skipSeq_time s _ _) s outs
    · rfl
  unfold State.emitStage
  dsimp only
  split
  · exact emitted
  · exact (lynxStage_time _ _ _ _).trans emitted

end Sys2Proof.Machine
end

section
/-! PROOF. What a tick boundary leaves of the time counter: PROCESS and the clusters (R22, R24, R125, R130, R133): for O50. -/

namespace Sys2Proof.Machine

/-! ### The units of PROCESS -/

theorem putSlot_time (s : State) (tick slot : Nat) (xs : List Int) : (s.putSlot tick slot xs).time = s.time := (putSlot_woken s tick slot xs).time

theorem runBus_time (s : State) (tick b : Nat) : (s.runBus tick b).time = s.time := by
  unfold State.runBus
  dsimp only
  split
  · rfl
  · exact putSlot_time _ _ _ _

theorem runDyn_time (s : State) (tick : Nat) (grp : List Nat) : (s.runDyn tick grp).time = s.time := by
  unfold State.runDyn
  refine foldS_view State.time _ (fun s p => ?_) _ _
  dsimp only
  split
  · rfl
  · exact putSlot_time _ _ _ _

theorem runUnit_time (n : Nat) (s : State) (u : ProcUnit) : (State.runUnit n s u).time = s.time := by
  unfold State.runUnit
  split
  · rfl
  · dsimp only
    split
    · rfl
    · split
      · exact runBus_time _ _ _
      · exact runDyn_time _ _ _

theorem restStep_time (n : Nat) (s : State) (w : Nat) : (State.restStep n s w).time = s.time := by
  unfold State.restStep
  split
  · rfl
  · split
    · rfl
    · split
      · rfl
      · split
        · rfl
        · split
          · exact foldS_view State.time _ (fun s k => putSlot_time s n k _) _ _
          · exact (wake_woken _ _).time

theorem round_time (n : Nat) (s : State) : (State.round n s).time = s.time :=
  (foldS_view State.time _ (restStep_time n) _ _).trans (foldS_view State.time _ (runUnit_time n) _ _)

theorem fillStep_time (n c : Nat) (s : State) (j : Nat) : (State.fillStep n c s j).time = s.time := by
  unfold State.fillStep
  dsimp only
  split
  · rfl
  · split <;> rfl

theorem fillCluster_time (n : Nat) (s : State) (c : Nat) : (State.fillCluster n s c).time = s.time := by
  unfold State.fillCluster
  dsimp only
  split
  · rfl
  · exact foldS_view State.time _ (fillStep_time n c) _ _

theorem advanceProcess_time (s : State) : s.advanceProcess.time = s.time := by
  have rounds (k : Nat) (u : State) : (iter (State.round s.processTick) k u).time = u.time := by
    induction k generalizing u with
    | zero => rfl
    | succ k ih => exact (ih _).trans (round_time _ _)
  exact (foldS_view State.time _ (fillCluster_time _) _ _).trans (rounds _ s)

theorem openProcess_time (s : State) (t : Nat) (skip : List Nat) : (s.openProcess t skip).time = s.time := by
  unfold State.openProcess State.startProcess
  split
  · rfl
  · exact advanceProcess_time _

/-! ### The end of PROCESS -/

theorem runAln_time (s : State) (tick : Nat) (mute : Bool) (o : Nat) : (s.runAln tick mute o).time = s.time := by
  have bad (u : State) (l : List Nat) : (foldS (fun s l => s.dramUE (64 * l)) u l).time = u.time :=
    foldS_view State.time _ (fun s l => (raise_reported { s with memc := { s.memc with ue := s.memc.ue + 1 } } blkMemc 0x11 (64 * l) .u (by decide)).time) u l
  unfold State.runAln
  dsimp only
  split
  · rfl
  · split
    · rfl
    · split
      · exact (raiseT_reported _ _ _ _ _ (by decide)).time.trans ((bad _ _).trans (putSlot_time _ _ _ _))
      · exact (bad _ _).trans (putSlot_time _ _ _ _)

theorem noteNoSpare_time (s : State) (n : Nat) : (s.noteNoSpare n).time = s.time := (noteNoSpare_reported s n).time

theorem spareEvent_time (s : State) (n : Nat) : (s.spareEvent n).time = s.time := by
  unfold State.spareEvent
  split
  · exact noteNoSpare_time (s.makeFaulty n) n
  · rfl

theorem overrun_time (s : State) (b : Nat) : (s.overrun b).time = s.time := by
  have raised := (raiseT_reported s b 2 0 .u (by decide)).time
  unfold State.overrun
  dsimp only
  split
  · exact (spareEvent_time _ _).trans raised
  · exact raised

theorem runLate_time (s : State) (n : Nat) (late : List LateUnit) : (s.runLate n late).time = s.time := by
  have dropped (us : List LateUnit) : (foldS (State.dropLate n) s us).time = s.time := foldS_view State.time (State.dropLate n) (fun s u => rfl) s us
  unfold State.runLate
  dsimp only
  rw [State.modCsw_time, foldS_view State.time _ overrun_time, dropped]

theorem measure_time (s : State) (n : Nat) : (s.measure n).time = s.time := rfl

theorem noteStates_time (s : State) : s.noteStates.time = s.time := rfl

theorem endProcess_time (s : State) (n : Nat) (late : List LateUnit) : (s.endProcess n late).time = s.time := by
  have alns : (s.runAlns n).time = s.time := foldS_view State.time _ (fun s o => runAln_time s n _ o) s _
  have ended : ((((s.runAlns n).runLate n late).measure n).noteStates).time = s.time := by
    rw [noteStates_time, measure_time, runLate_time, alns]
  unfold State.endProcess
  dsimp only
  split
  · exact ended
  · refine (foldS_view State.time _ (fun s d => ?_) _ _).trans ended
    split <;> rfl

theorem closeProcess_time (s : State) (e : TickOps) (t : Nat) : (s.closeProcess e t).time = s.time := by
  unfold State.closeProcess
  split
  · rfl
  · exact (foldS_view State.time _ (fun s i => (raiseT_reported s (islandBlock i) 3 0 .u (by decide)).time) _ _).trans (endProcess_time _ _ _)

theorem decideLate_time (s : State) : s.decideLate.time = s.time := by
  unfold State.decideLate
  split
  · split
    · rfl
    · exact time_of_cutView (cutoffDecide_cutView _ _)
  · rfl

/-! ### Clusters at a boundary (R130, R133, R134, R140) -/

theorem selfTest_time (e : TickOps) (s : State) (n : Nat) : (s.selfTest e n).time = s.time := by
  have fails : (s.selfTestFails n).time = s.time :=
    (noteNoSpare_time (((s.setCluster n fun c => { c with stFail := true }).modTop fun t =>
      { t with selfFail := t.selfFail.lor 1 }).raiseT (blkCl n) 0x13 .u |>.makeFaulty n) n).trans (raiseT_reported _ _ _ _ _ (by decide)).time
  unfold State.selfTest
  dsimp only
  split_ifs
  · rfl
  · exact fails
  · rfl

theorem verdict_time (s : State) (n : Nat) : (s.verdict n).time = s.time := by
  unfold State.verdict
  dsimp only
  split_ifs
  · rfl
  · exact (raiseT_reported _ _ _ _ _ (by decide)).time
  · rfl

theorem spinLoad_time (s : State) (n t : Nat) : (s.spinLoad n t).time = s.time := by
  unfold State.spinLoad
  dsimp only
  split
  · rfl
  · exact (wake_woken _ _).time

theorem dutyBoundary_time (e : TickOps) (s : State) (n : Nat) : (State.dutyBoundary e s n).time = s.time := by
  unfold State.dutyBoundary
  dsimp only
  split_ifs
  · rfl
  · exact spinLoad_time _ _ _
  · exact selfTest_time _ _ _
  · rfl
  · rfl
  · rfl
  · rfl
  · rfl
  · exact verdict_time _ _
  · rfl

theorem switchOwner_time (s : State) (n : Nat) : (s.switchOwner n).time = s.time := by
  unfold State.switchOwner
  dsimp only
  refine (noteNoSpare_time _ _).trans ?_
  split_ifs <;> rfl

theorem serveSpinQ_time (s : State) : s.serveSpinQ.time = s.time := by
  unfold State.serveSpinQ
  split
  · rfl
  · split
    · rfl
    · split
      · split <;> rfl
      · rfl

theorem clusterBoundary_time (s : State) (e : TickOps) (skip : List Nat) : (s.clusterBoundary e skip).time = s.time := by
  unfold State.clusterBoundary
  dsimp only
  refine (foldS_view State.time _ ?_ _ _).trans ((serveSpinQ_time _).trans ((foldS_view State.time _ switchOwner_time _ _).trans ?_))
  · exact fun s n => rfl
  · exact foldS_view State.time _ (dutyBoundary_time e) _ _

end Sys2Proof.Machine
end

section
/-! PROOF. What a commit leaves of the time counter (R270, R285, R312): for O50. -/

namespace Sys2Proof.Machine

/-- The counter, the tick number, and that ticks run and have come. -/
def State.clock (s : State) : Nat × Nat × Bool × Bool := (s.time.counter, s.time.tick, s.time.running, s.time.ticked)

theorem clock_of_time {s t : State} (h : t.time = s.time) : t.clock = s.clock := by
  unfold State.clock
  rw [h]

theorem Reported.clock {s t : State} (h : Reported s t) : t.clock = s.clock := clock_of_time h.time

/-! ### Islands and contexts (R126, R175) -/

theorem commitCluster_time (s : State) (us : List CUnit) (n : Nat) : (s.commitCluster us n).time = s.time := by
  unfold State.commitCluster
  dsimp only
  split_ifs <;> rfl

theorem alnCommit_time (s : State) (o k : Nat) (wrote : Nat → Bool) : (s.alnCommit o k wrote).time = s.time := by
  obtain ⟨_, h⟩ := alnCommit_reported s o k wrote
  exact h.time

theorem commitIsland_time (k : Nat) (us : List CUnit) (s : State) (i : Nat) : (s.commitIsland k us i).time = s.time := by
  unfold State.commitIsland
  dsimp only
  split_ifs
  · rfl
  · rfl
  · exact foldS_view State.time _ (fun s o => alnCommit_time s _ _ _) s _
  · exact commitCluster_time s us _
  · rfl

theorem commitSets_time (s : State) (us : List CUnit) : (s.commitSets us).time = s.time := by
  unfold State.commitSets
  dsimp only
  refine (foldS_view State.time _ (fun s w => ?_) _ _).trans (foldS_view State.time _ (fun s e => ?_) _ _)
  · split <;> rfl
  · exact (wakeOwner_woken _ _).time

theorem commitFixed_time (s : State) (a : Nat) (us : List CUnit) (skip : List Nat) : (s.commitFixed a us skip).time = s.time := by
  unfold State.commitFixed
  dsimp only
  refine (foldS_view State.time _ (commitIsland_time _ us) _ _).trans ?_
  rw [commitSets_time]
  rfl

theorem payOwed_time (s : State) (skip : List Nat) (k : Nat) : (s.payOwed skip k).time = s.time :=
  foldS_view State.time _ (fun s (e : Nat × List CUnit) => commitIsland_time k e.2 s e.1) _ _

theorem payCtx_time (s : State) (n : Nat) (skip : List Nat) : (s.payCtx n skip).time = s.time := by
  unfold State.payCtx
  split
  · rfl
  · exact foldS_view State.time (State.ctxTurn n) (fun s e => rfl) _ _

/-! ### A whole commit (R270) -/

/-- A write beside the value store loads an increment at most. -/
theorem writeEffect_clock (s : State) (w : EWrite) : (s.writeEffect w).clock = s.clock := by
  obtain ⟨_, _, _, xo⟩ := loadXo_time s
  unfold State.writeEffect
  rw [xo]
  obtain ⟨obj, mem, elem, val⟩ := w
  cases val <;> dsimp only <;> split_ifs <;> rfl

theorem startStore_clock (s : State) (a : Nat) (u : CUnit) : (s.startStore a u).clock = s.clock := by
  obtain ⟨_, _, _, h⟩ := startStore_leaves s a u
  rw [h]
  rfl

theorem commitUnits_clock (s : State) (us : List CUnit) (a : Nat) (skip : List Nat) : (s.commitUnits us a skip).clock = s.clock := by
  have contexts : ((s.commitFixed a us skip).ctxCommit s.dict.vals a us skip).clock = s.clock := by
    obtain ⟨_, h⟩ := ctxCommit_csw (s.commitFixed a us skip) s.dict.vals a us skip
    rw [h]
    exact clock_of_time (commitFixed_time s a us skip)
  have effects (l : List EWrite) : (foldS State.writeEffect ((s.commitFixed a us skip).ctxCommit s.dict.vals a us skip) l).clock = s.clock :=
    (foldS_view State.clock _ writeEffect_clock _ _).trans contexts
  unfold State.commitUnits
  dsimp only
  refine (foldS_view State.clock _ (fun s u => startStore_clock s a u) _ _).trans ((foldS_view State.clock _ (fun s u => ?_) _ _).trans (effects _))
  split <;> rfl

theorem applySealed_clock (skip : List Nat) (s : State) (a : Nat) : (State.applySealed skip s a).clock = s.clock := by
  unfold State.applySealed
  split
  · rfl
  · exact commitUnits_clock _ _ _ _

theorem foxRun_time (s : State) (n : Nat) : (s.foxRun n).time = s.time := by
  have ticked (u : State) (k : Nat) : (u.foxTick k).time = u.time := by
    unfold State.foxTick
    dsimp only
    split <;> rfl
  unfold State.foxRun
  split
  · exact ticked _ _
  · split
    · exact ticked _ _
    · exact foldS_view State.time _ ticked _ _

theorem takeCommits_clock (s : State) (t : Nat) (skip : List Nat) : (s.takeCommits t skip).clock = s.clock := by
  have routed (n : Nat) : (if skip.contains blkCsw ∨ s.resetting 6 then s else s.foxRun n).time = s.time := by
    split
    · rfl
    · exact foxRun_time _ _
  unfold State.takeCommits
  split
  · rfl
  · refine (foldS_view State.clock _ (applySealed_clock skip) _ _).trans (clock_of_time ?_)
    rw [payCtx_time, payOwed_time]
    exact routed _

end Sys2Proof.Machine
end

section
/-! PROOF. The tick event and the counter (R37-R39, R43, R285): O50. -/

namespace Sys2Proof.Machine

/-! ### The work of a boundary -/

theorem prune_time (s : State) (t : Nat) : (s.prune t).time = s.time := rfl
theorem unhide_time (s : State) : s.unhide.time = s.time := rfl
theorem look_time (s : State) : s.look.time = s.time := rfl

theorem tickWork_clock (e : TickOps) (skip : List Nat) (s : State) : (s.tickWork e skip).clock = s.clock := by
  unfold State.tickWork
  dsimp only
  rw [clock_of_time (prune_time _ _), clock_of_time (pairAfter_time _ _ _), clock_of_time (unhide_time _), clock_of_time (openProcess_time _ _ _),
    clock_of_time (look_time _), clock_of_time (clusterBoundary_time _ _ _), clock_of_time (emitStage_time _ _ _ _),
    clock_of_time (formUnless_time _ _ _ _ _), takeCommits_clock, clock_of_time (pairBefore_time _ _ _ _),
    clock_of_time (formUnless_time _ _ _ _ _), clock_of_time (closeProcess_time _ _ _), clock_of_time (decideLate_time _)]

/-- The boundary of an engine with no class F event and no leave command waiting. -/
theorem boundary_time {s : State} (hf : s.top.classF = false) (hl : s.top.leaveAt = none) (t : Nat) (skip : List Nat) :
    (s.boundary t skip).time = s.time := by
  have stays : s.classFBoundary t = s := by
    unfold State.classFBoundary
    rw [hf]
    rfl
  unfold State.boundary
  dsimp only
  rw [stays, leaveBoundary_none _ hl]
  split
  · rfl
  · exact (gateBoundary_time _ _).trans (grantBoundary_time _ _)

theorem spareBudget_time (e : TickOps) (s : State) : (s.spareBudget e).time = s.time :=
  foldS_view State.time _ (fun s _ => spareEvent_time s _) s _

/-- An event of class F while ticks run waits for the next boundary, or changes nothing of the counter. -/
theorem classFNow_time {s : State} (h : s.time.running = true) (b ev : Nat) : (s.classFNow b ev).time = s.time := by
  unfold State.classFNow
  split
  · rfl
  · rfl
  · rw [if_pos h]
    rfl

theorem raiseAs_time_F {s : State} (h : s.time.running = true) (b ev who detail : Nat) (p : Option Nat) :
    (s.raiseAs b ev .f who detail p).time = s.time := by
  unfold State.raiseAs
  simp only [if_true, true_or]
  refine (classFNow_time ?_ b ev).trans ?_
  · exact h
  · rfl

theorem tickSeq_time {s : State} (h : s.time.running = true) (i : Nat) : (s.tickSeq i).time = s.time := by
  have raised : (s.raiseT (islandBlock i) 1 .f).time = s.time := raiseAs_time_F h _ _ _ _ _
  unfold State.tickSeq
  dsimp only
  split
  · exact (spareEvent_time _ _).trans raised
  · exact raised

theorem takeSave_time (s : State) : s.takeSave.time = s.time := by
  unfold State.takeSave
  split
  · split <;> rfl
  · rfl

theorem noteNumbers_clock (s : State) (errs : List (Nat × Nat)) : (s.noteNumbers errs).clock = s.clock := rfl
theorem noteNumbers_top (s : State) (errs : List (Nat × Nat)) : (s.noteNumbers errs).top = s.top := rfl

theorem clock_literal (s : State) (c k : Nat) (d : Dp) (p : Top) :
    ({ s with time := { s.time with tick := k, ticked := true, counter := c }, dp := d, top := p } : State).clock = (c, k, s.time.running, true) := rfl

/-- What the first cycle of a tick event brings. -/
theorem advance_clock (s : State) (n : Nat) :
    (s.advance n).clock = (s.time.countTo (s.tickStart n), s.tickOf (s.time.countTo (s.tickStart n)), s.time.running, true) :=
  clock_literal s _ _ _ _

theorem running_of_clock {s t : State} (h : t.clock = s.clock) : t.time.running = s.time.running := by
  simp only [State.clock, Prod.mk.injEq] at h
  obtain ⟨-, -, running, -⟩ := h
  exact running

theorem advance_running (s : State) (n : Nat) : (s.advance n).time.running = s.time.running := by
  have clock := advance_clock s n
  simp only [State.clock, Prod.mk.injEq] at clock
  obtain ⟨-, -, running, -⟩ := clock
  exact running

/-- The reading of the counter that a tick event leaves is that of its first cycle. -/
theorem tickEvent_clock {s : State} (e : TickOps) (hr : s.time.running = true) (hf : s.top.classF = false) (hl : s.top.leaveAt = none) :
    (s.tickEvent e).clock = (s.advance e.tick).clock := by
  have running : (s.advance e.tick).time.running = true := (advance_running s e.tick).trans hr
  have sound : (s.advance e.tick).top.classF = false := hf
  have stays : (s.advance e.tick).top.leaveAt = none := hl
  unfold State.tickEvent
  dsimp only
  generalize s.advance e.tick = v at running sound stays ⊢
  generalize v.islands.filter _ = skip
  generalize hu : (v.noteNumbers e.seqErr).boundary v.time.tick skip = u
  have bounded : u.clock = v.clock := by
    rw [← hu, ← noteNumbers_clock v e.seqErr]
    rw [← noteNumbers_top v e.seqErr] at sound stays
    exact clock_of_time (boundary_time sound stays _ _)
  have runs : u.time.running = true := (running_of_clock bounded).trans running
  have worked : ((u.tickWork e skip).spareBudget e).clock = u.clock := (clock_of_time (spareBudget_time e _)).trans (tickWork_clock e skip u)
  rw [if_pos runs]
  refine (foldS_keeps (P := fun t => t.clock = u.clock) _ (fun _ i same => ?_) worked _).trans bounded
  exact (clock_of_time (tickSeq_time ((running_of_clock same).trans runs) i)).trans same

/-! ### The counter (R38, R285) -/

theorem at?_forall {α : Type} {P : α → Prop} {d : α} (hd : P d) : ∀ (l : List α), (∀ x ∈ l, P x) → ∀ n, P (at? d l n)
  | [], _, _ => hd
  | x :: _, h, 0 => h x List.mem_cons_self
  | x :: t, h, n + 1 => at?_forall hd t (fun y hy => h y (List.mem_cons_of_mem x hy)) n

theorem fs_pos (s : State) : 0 < s.fs :=
  at?_forall (P := fun n => 0 < n) (by decide) _ (by decide) _

theorem le_ceilDiv_mul {b : Nat} (hb : 0 < b) (a : Nat) : a ≤ ceilDiv a b * b := by
  unfold ceilDiv
  have := Nat.lt_div_mul_add hb (a := a + b - 1)
  omega

theorem ceilDiv_mul_lt {b : Nat} (hb : 0 < b) (a : Nat) : ceilDiv a b * b < a + b := by
  unfold ceilDiv
  have := Nat.div_mul_le_self (a + b - 1) b
  omega

theorem countTo_of_le {t : Time} {goal : Nat} (h : goal ≤ t.counter) : t.countTo goal = t.counter := if_neg (Nat.not_lt.mpr h)

/-- A goal that lies one step below the counter's end is reached with no wrap. -/
theorem countTo_of_lt {t : Time} {goal : Nat} (hinc : 0 < t.incEff) (h : t.counter < goal) (hmax : goal + t.incEff ≤ 2 ^ 96) :
    t.countTo goal = t.counter + ceilDiv (goal - t.counter) t.incEff * t.incEff := by
  have steps := ceilDiv_mul_lt hinc (goal - t.counter)
  unfold Time.countTo
  rw [if_pos h]
  exact Nat.mod_eq_of_lt (by omega)

theorem le_countTo {t : Time} {goal : Nat} (hinc : 0 < t.incEff) (hmax : goal + t.incEff ≤ 2 ^ 96) : goal ≤ t.countTo goal := by
  rcases Nat.lt_or_ge t.counter goal with h | h
  · have steps := le_ceilDiv_mul hinc (goal - t.counter)
    rw [countTo_of_lt hinc h hmax]
    omega
  · rwa [countTo_of_le h]

theorem countTo_lt {t : Time} {goal : Nat} (hinc : 0 < t.incEff) (h : t.counter < goal) (hmax : goal + t.incEff ≤ 2 ^ 96) : t.countTo goal < goal + t.incEff := by
  have steps := ceilDiv_mul_lt hinc (goal - t.counter)
  rw [countTo_of_lt hinc h hmax]
  omega

theorem countTo_steps {t : Time} {goal : Nat} (hinc : 0 < t.incEff) (hmax : goal + t.incEff ≤ 2 ^ 96) : ∃ k, t.countTo goal = t.counter + k * t.incEff := by
  rcases Nat.lt_or_ge t.counter goal with h | h
  · exact ⟨_, countTo_of_lt hinc h hmax⟩
  · exact ⟨0, by rw [countTo_of_le h, Nat.zero_mul, Nat.add_zero]⟩

/-- A counter between the start of a tick and that of the next gives the tick's number (R38, R39). -/
theorem tickOf_between {s : State} {n c : Nat} (start : s.tickStart n ≤ c) (next : c < s.tickStart (n + 1)) (hn : n < 2 ^ 48) : s.tickOf c = n := by
  have reached : n * (s.spt * 1000000000 * 2 ^ 32) ≤ c * s.fs := by
    have := (le_ceilDiv_mul (fs_pos s) (n * s.spt * 1000000000 * 2 ^ 32)).trans (Nat.mul_le_mul_right s.fs start)
    simpa only [Nat.mul_assoc] using this
  have short : c * s.fs < (n + 1) * (s.spt * 1000000000 * 2 ^ 32) := by
    have := ceilDiv_mul_lt (fs_pos s) ((n + 1) * s.spt * 1000000000 * 2 ^ 32)
    have := (Nat.mul_le_mul_right s.fs (Nat.succ_le_of_lt next)).trans_lt this
    rw [Nat.succ_mul] at this
    simpa only [Nat.mul_assoc] using Nat.lt_of_add_lt_add_right this
  unfold State.tickOf
  rw [Nat.div_eq_of_lt_le reached short, Nat.mod_eq_of_lt hn]

/-- Settles O50: of all a tick event does, only its first cycle moves the counter. -/
theorem ticksAdvanceTheCounter : Obligations.TicksAdvanceTheCounter := by
  unfold Obligations.TicksAdvanceTheCounter
  intro s e hr hf hl hinc hmax
  have clock : (s.quiet.tickEvent e).takeSave.clock = (s.quiet.advance e.tick).clock :=
    (clock_of_time (takeSave_time _)).trans (tickEvent_clock (s := s.quiet) e hr hf hl)
  rw [advance_clock] at clock
  simp only [State.clock, Prod.mk.injEq] at clock
  obtain ⟨counter, tick, running, ticked⟩ := clock
  refine ⟨_, execTickEvent_running e hr, ticked, running.trans hr, ?_, ?_, fun h => ?_, fun h => ?_, ?_, fun h next hn => ?_⟩
  case refine_1 => exact counter ▸ le_countTo hinc hmax
  case refine_2 => exact counter ▸ countTo_steps hinc hmax
  case refine_3 => exact counter ▸ countTo_lt hinc h hmax
  case refine_4 => exact counter.trans (countTo_of_le h)
  case refine_5 => rw [tick, counter]; rfl
  case refine_6 =>
    have before : s.time.countTo (s.tickStart e.tick) < s.tickStart (e.tick + 1) := by
      rcases Nat.lt_or_eq_of_le h with h | h
      · exact (countTo_lt hinc h hmax).trans_le next
      · rw [countTo_of_le h.ge]
        omega
    exact tick.trans (tickOf_between (le_countTo hinc hmax) before hn)

end Sys2Proof.Machine
end

section
/-! PROOF. Fox: the slot of a fade is freed, and a queued change starts (R98, R100, R101): for O51. -/

namespace Sys2Proof.Machine

/-! ### The end of a fade (R98, R100) -/

theorem endFade_fadeOf (cs : Csw) (c : Consumer) : (cs.endFade c).fadeOf c = none := by
  unfold Csw.fadeOf Csw.endFade
  exact List.find?_eq_none.2 fun g hg => by simpa using (List.mem_filter.1 hg).2

theorem endFade_others (cs : Csw) {c : Consumer} {g : Fade} (h : g.cons ≠ c) : g ∈ (cs.endFade c).fades ↔ g ∈ cs.fades := by
  simp [Csw.endFade, h]

theorem endFade_past {cs : Csw} {c : Consumer} {f : Fade} (h : cs.fadeOf c = some f) : f ∈ (cs.endFade c).foxPast :=
  List.mem_append_left _ (List.mem_filter.2 ⟨List.mem_of_find?_eq_some h, List.find?_some (p := fun f : Fade => f.cons == c) h⟩)

theorem execFoxFadeEnd_over {s : State} {c : Consumer} {f : Fade} (h : s.csw.fadeOf c = some f) (ended : f.lastTick s.spt ≤ s.foxTickNow) :
    exec (.foxFadeEnd c) s = .next (s.quiet.modCsw fun cs => cs.endFade c) := by
  have ended' : s.quiet.fadeOver f = true := decide_eq_true ended
  show execFoxFadeEnd c s = _
  unfold execFoxFadeEnd
  simp only [State.quiet_csw, h, ended', if_true]

/-! ### A queued change (R101) -/

theorem unqueue_fadeQ (cs : Csw) (c : Consumer) : ∀ r ∈ (cs.unqueue c).fadeQ, r.cons ≠ c := fun r hr => by
  simpa using (List.mem_filter.1 hr).2

/-- A route put down for a tick is the one of that tick. -/
theorem find_putRoute (c : Consumer) (a : Nat) (r : Option Route) (l : List (Consumer × Nat × Option Route)) :
    ((putRoute c a r l).find? fun e => e.1 == c && decide (e.2.1 ≤ a)) = some (c, a, r) := by
  induction l with
  | nil => simp [putRoute]
  | cons e l ih =>
    unfold putRoute
    split
    · simp
    · simp [*]

theorem setRoute_routeAt (cs : Csw) (c : Consumer) (r : Route) (a : Nat) : (cs.setRoute c r a).routeAt c a = some r := by
  unfold Csw.routeAt Csw.setRoute
  rw [find_putRoute]
  rfl

/-- A change with a length, a shape other than CUT and a free slot starts as a fade (R98, R100). -/
theorem startFade_slot {cs : Csw} {shape len : Nat} (hlen : len ≠ 0) (h0 : shape ≠ 0) (h3 : shape ≠ 3) (free : cs.fades.length < 8192)
    (c : Consumer) (new : Route) (a : Nat) : cs.startFade c new shape len a =
      { cs.setRoute c new a with fades := cs.fades ++ [⟨c, (cs.routeAt c a).getD ⟨none, none⟩, new, shape, len, a, none⟩] } := by
  unfold Csw.startFade
  dsimp only
  rw [if_neg (by simp [hlen, h0, h3]), if_neg (Nat.not_le.2 (show (cs.setRoute c new a).fades.length < 8192 from free))]
  rfl

theorem startFade_fadeOf {cs : Csw} {c : Consumer} (h : cs.fadeOf c = none) {f : Fade} (hf : f.cons = c) :
    ({ cs with fades := cs.fades ++ [f] } : Csw).fadeOf c = some f := by
  unfold Csw.fadeOf at h ⊢
  rw [List.find?_append, h]
  simp [hf]

theorem execFoxQueuedStart_due {s : State} {c : Consumer} {q : QueuedFade} (idle : s.csw.fadeOf c = none)
    (queued : s.csw.fadeQ.find? (fun r => r.cons == c) = some q) (reached : s.csw.afterFade s.spt s.foxTickNow c ≤ s.foxTickNow) :
    exec (.foxQueuedStart c) s = .next (s.quiet.modCsw fun cs => cs.startQueued q s.foxTickNow) := by
  have due : s.quiet.csw.due c = some q := by
    unfold Csw.due
    rw [State.quiet_csw, idle]
    exact queued
  show execFoxQueuedStart c s = _
  unfold execFoxQueuedStart
  dsimp only
  rw [due]
  exact congrArg Host.Outcome.next (if_pos reached)

/-- A queued change to a source that is not in force takes a free slot. -/
theorem startQueued_slot {cs : Csw} {q : QueuedFade} {a : Nat} (hlen : q.len ≠ 0) (h0 : q.shape ≠ 0) (h3 : q.shape ≠ 3) (free : cs.fades.length < 8192)
    (new : cs.routeAt q.cons a ≠ some q.new) : cs.startQueued q a = { (cs.unqueue q.cons).setRoute q.cons q.new a with
      fades := cs.fades ++ [⟨q.cons, (cs.routeAt q.cons a).getD ⟨none, none⟩, q.new, q.shape, q.len, a, none⟩] } := by
  unfold Csw.startQueued
  exact (if_neg new).trans (startFade_slot (cs := cs.unqueue q.cons) hlen h0 h3 free _ _ _)

end Sys2Proof.Machine
end

section
/-! PROOF. A direct sample: the channels of DP, and what the direct frames of the sample leave (R84, R197, R200): for O51. -/

namespace Sys2Proof.Machine

/-- What a block has recorded shows in the common registers alone. -/
theorem Recorded.of_commons {s t s' t' : State} {b ev detail : Nat} {cls : EvClass} (h : Recorded s t b ev cls detail) (before : s'.commons = s.commons)
    (after : t'.commons = t.commons) : Recorded s' t' b ev cls detail := by
  have same : s'.common = s.common := by funext n; unfold State.common; rw [before]
  have same' : t'.common = t.common := by funext n; unfold State.common; rw [after]
  exact ⟨same ▸ same' ▸ h.stat, same ▸ same' ▸ h.cntC, same ▸ same' ▸ h.cntU, same ▸ same' ▸ h.cntF, same ▸ same' ▸ h.hist, same ▸ same' ▸ h.others⟩

/-! ### Folds around one round -/

section
variable {R : State → State → Prop} (refl : ∀ s, R s s) (trans : ∀ {s t u}, R s t → R t u → R s u) (f : State → Nat → State) {x : Nat}
  (other : ∀ s a, a ≠ x → R s (f s a))
include refl trans other

/-- A fold without a round of one key. -/
theorem foldS_apart (s : State) {l : List Nat} (hx : x ∉ l) : R s (foldS f s l) := by
  induction l generalizing s with
  | nil => exact refl s
  | cons a t ih => exact trans (other s a fun e => hx (e ▸ List.mem_cons_self)) (ih _ fun h => hx (List.mem_cons_of_mem a h))

/-- A fold with one round of a key: the rounds of the others stand before and after it. -/
theorem foldS_around (s : State) {l : List Nat} (hl : l.Nodup) (hx : x ∈ l) : ∃ u, R s u ∧ R (f u x) (foldS f s l) := by
  induction l generalizing s with
  | nil => cases hx
  | cons a t ih =>
    obtain ⟨ha, ht⟩ := List.nodup_cons.1 hl
    by_cases hax : a = x
    · subst hax
      exact ⟨s, refl s, foldS_apart refl trans f other _ ha⟩
    · obtain ⟨u, before, rest⟩ := ih (f s a) ht ((List.mem_cons.1 hx).resolve_left (Ne.symm hax))
      exact ⟨u, trans (other s a hax) before, rest⟩

end

/-! ### The channels of a sample (R197, R200, R201) -/

/-- Channels of DP other than `x` may have computed their sample, and nothing else has changed. -/
def OtherDirect (x : Nat) (s t : State) : Prop :=
  ∃ ch act clip, tget ({} : DpCh) ch x = tget {} s.dp.ch x ∧ t = { s with dp := { s.dp with ch := ch, limNow := act, clip := clip } }

theorem OtherDirect.refl (x : Nat) (s : State) : OtherDirect x s s := ⟨_, _, _, rfl, rfl⟩

theorem OtherDirect.trans {x : Nat} {s t u : State} (h : OtherDirect x s t) (k : OtherDirect x t u) : OtherDirect x s u := by
  obtain ⟨_, _, _, hx, rfl⟩ := h
  obtain ⟨_, _, _, kx, rfl⟩ := k
  exact ⟨_, _, _, kx.trans hx, rfl⟩

section
variable {x : Nat} {s t : State} (h : OtherDirect x s t)
include h

theorem OtherDirect.channel : tget ({} : DpCh) t.dp.ch x = tget {} s.dp.ch x := by obtain ⟨_, _, _, e, rfl⟩ := h; exact e
theorem OtherDirect.late : t.dp.late = s.dp.late := by obtain ⟨_, _, _, _, rfl⟩ := h; rfl
theorem OtherDirect.commons : t.commons = s.commons := by obtain ⟨_, _, _, _, rfl⟩ := h; rfl
theorem OtherDirect.top : t.top = s.top := by obtain ⟨_, _, _, _, rfl⟩ := h; rfl
theorem OtherDirect.tickDetail : t.tickDetail = s.tickDetail := by obtain ⟨_, _, _, _, rfl⟩ := h; rfl
theorem OtherDirect.resetting (n : Nat) : t.resetting n = s.resetting n := by obtain ⟨_, _, _, _, rfl⟩ := h; rfl
theorem OtherDirect.step (k : Nat) (d : DpCh) : t.dpStep k (t.dpInput x k) d = s.dpStep k (s.dpInput x k) d := by
  obtain ⟨_, _, _, _, rfl⟩ := h; rfl

end

/-- A channel that is on time changes nothing of another. -/
theorem dpChannel_other {x c : Nat} (hc : c ≠ x) {late : List Nat} (h : c ∉ late) (k : Nat) (s : State) : OtherDirect x s (s.dpChannel k late c) := by
  have put (d : DpCh) (act clip : BitVec 64) : OtherDirect x s { s with dp := { s.dp with ch := tset s.dp.ch c d, limNow := act, clip := clip } } :=
    ⟨_, _, _, tget_tset_other _ _ _ _ _ hc.symm, rfl⟩
  unfold State.dpChannel
  dsimp only
  split
  · exact .refl x s
  · split
    · exact put _ _ _
    · split
      · exact put _ _ _
      · rw [if_neg (by simpa using h)]
        exact put _ _ _

/-- A channel with no bank that waits. -/
theorem upTo_settled {d : DpCh} (h : d.next = []) (k : Nat) : d.upTo k = d := by
  unfold DpCh.upTo
  rw [h]
  exact congrArg (fun n => ({ d with next := n } : DpCh)) h.symm

/-- Channel `x` gives zero for sample `k` and counts LATE. -/
def State.missDirect (s : State) (x k : Nat) : State :=
  { s with dp := { s.dp with late := s.dp.late + 1, ch := tset s.dp.ch x ((tget {} s.dp.ch x).zeroAt s.spt k) } }

section
variable {s : State} {x : Nat} (running : (tget ({} : DpCh) s.dp.ch x).running = true) (settled : (tget ({} : DpCh) s.dp.ch x).next = [])
  (free : s.resetting 3 = false)
include running settled free

/-- A running channel that is on time computes its sample (R197). -/
theorem dpChannel_sample {late : List Nat} (h : x ∉ late) (k : Nat) : ∃ act clip, s.dpChannel k late x = { s with dp := { s.dp with
    ch := tset s.dp.ch x (s.dpStep k (s.dpInput x k) (tget {} s.dp.ch x)).1, limNow := act, clip := clip } } := by
  unfold State.dpChannel
  simp only [upTo_settled settled, DpCh.inUse, running, free, Bool.true_or, Bool.not_true, Bool.false_eq_true, if_false]
  rw [if_neg (by simpa using h)]
  exact ⟨_, _, rfl⟩

/-- A running channel that DP cannot complete in time gives zero, counts LATE and raises DP_LATE (R200). -/
theorem dpChannel_late {late : List Nat} (h : x ∈ late) (k : Nat) : s.dpChannel k late x = (s.missDirect x k).raiseT blkDp 0x10 .u := by
  unfold State.dpChannel
  simp only [upTo_settled settled, DpCh.inUse, running, free, Bool.true_or, Bool.not_true, Bool.false_eq_true, if_false]
  rw [if_pos (by simpa using h)]
  rfl

end

/-- The newest sample of a channel without limiter, polarity and soft clip is its input at its gain, rounded and saturated (R197). -/
theorem dpStep_pipe {d : DpCh} (lim : d.lim = false) (inv : d.bank.inv = false) (clip : d.bank.clipEn = false) (s : State) (k : Nat) (y : Int) :
    (s.dpStep k y d).1.pipe.head? = some (k + 3, sat32 (satTo 39 (floorShift (y * d.gain.at k + 2 ^ 26) 27))) := by
  unfold State.dpStep
  simp [lim, inv, clip]

/-- DP computes a sample: the round of channel `x` stands between those of the others. -/
theorem dpRun_around {x : Nat} (hx : x < 64) {late : List Nat} (h : ∀ c ∈ late, c = x) (k : Nat) (s : State) :
    ∃ u v, OtherDirect x s u ∧ OtherDirect x (u.dpChannel k late x) v ∧ s.dpRun late k = { v with dp := { v.dp with done := some k } } := by
  obtain ⟨u, before, after⟩ := foldS_around (OtherDirect.refl x) OtherDirect.trans (State.dpChannel k late)
    (fun s c hc => dpChannel_other hc (fun hl => hc (h c hl)) k s) s List.nodup_range (List.mem_range.2 hx)
  exact ⟨u, _, before, after, rfl⟩

section
variable {s : State} {x : Nat} (hx : x < 64) (running : (tget ({} : DpCh) s.dp.ch x).running = true)
  (settled : (tget ({} : DpCh) s.dp.ch x).next = []) (free : s.resetting 3 = false)
include hx running settled free

theorem dpRun_sample (k : Nat) : tget ({} : DpCh) (s.dpRun [] k).dp.ch x = (s.dpStep k (s.dpInput x k) (tget {} s.dp.ch x)).1 ∧
    (s.dpRun [] k).dp.done = some k ∧ (s.dpRun [] k).dp.late = s.dp.late ∧ (s.dpRun [] k).commons = s.commons := by
  obtain ⟨u, v, before, after, ran⟩ := dpRun_around hx (late := []) (by simp) k s
  obtain ⟨act, clip, sample⟩ := dpChannel_sample (before.channel ▸ running) (before.channel ▸ settled) ((before.resetting 3).trans free) List.not_mem_nil k
  rw [sample] at after
  rw [ran]
  refine ⟨after.channel.trans ((tget_tset_same _ _ _ _).trans ?_), rfl, after.late.trans before.late, after.commons.trans before.commons⟩
  rw [before.channel, before.step]

theorem dpRun_late (shadows : s.top.shadows = []) (k : Nat) : (tget ({} : DpCh) (s.dpRun [x] k).dp.ch x).pipe.head? = some (k + 3, 0) ∧
    (s.dpRun [x] k).dp.late = s.dp.late + 1 ∧ Recorded s (s.dpRun [x] k) blkDp 0x10 .u s.tickDetail := by
  obtain ⟨u, v, before, after, ran⟩ := dpRun_around hx (late := [x]) (by simp) k s
  rw [dpChannel_late (before.channel ▸ running) (before.channel ▸ settled) ((before.resetting 3).trans free) List.mem_cons_self] at after
  have raised : Reported (u.missDirect x k) _ := raiseT_reported _ blkDp 0x10 0 .u (by decide)
  have recorded : Recorded s ((u.missDirect x k).raiseT blkDp 0x10 .u) blkDp 0x10 .u u.tickDetail :=
    raiseAs_recorded (u := u.missDirect x k) (cls := .u) before.commons (before.top ▸ shadows) blkDp 0x10 0 (u.missDirect x k).tickDetail (by decide)
  rw [ran]
  refine ⟨?_, ?_, (before.tickDetail ▸ recorded).of_commons rfl after.commons⟩
  · have zero : tget {} (u.missDirect x k).dp.ch x = (tget ({} : DpCh) u.dp.ch x).zeroAt u.spt k := tget_tset_same _ _ _ _
    rw [show (tget ({} : DpCh) v.dp.ch x) = _ from after.channel, raised.dp, zero]
    simp [DpCh.zeroAt]
  · exact after.late.trans ((congrArg Dp.late raised.dp).trans (congrArg (· + 1) before.late))

end

/-! ### The direct frames of a sample (R84) -/

/-- DP and the common registers: what sending audio leaves. -/
def State.directView (s : State) : Dp × Tab Common := (s.dp, s.commons)

theorem sendMedia_directView (s : State) (p len : Nat) (e : Emission) : (s.sendMedia p len e).directView = s.directView := by
  rw [(sendMedia_sentOn s p len e).rest]
  rfl

theorem plSend_directView (s : State) (g : Nat) (f : PlFrame) : (s.plSend g f).directView = s.directView := by
  unfold State.plSend State.plStart
  dsimp only
  split_ifs
  · rfl
  · split <;> rfl
  · rfl

theorem sendOn_directView (s : State) (x : Nat) (netB : Bool) (bytes : Nat) (e : Emission) : (s.sendOn x netB bytes e).directView = s.directView := by
  unfold State.sendOn
  dsimp only
  split
  · exact sendMedia_directView _ _ _ _
  · split
    · exact plSend_directView _ _ _
    · rfl

theorem sendFrame_directView (s : State) (x bytes : Nat) (f : Nat → Bool → Emission) : (s.sendFrame x bytes f).directView = s.directView := by
  unfold State.sendFrame
  split
  · rfl
  · exact foldS_view State.directView _ (fun s b => sendOn_directView s x b bytes _) s _

theorem keyUse_directView (s : State) (x tick field : Nat) : (s.keyUse x tick field).directView = s.directView := by
  unfold State.keyUse
  split <;> rfl

theorem skipSeq_directView (s : State) (x n : Nat) : (s.skipSeq x n).directView = s.directView := by
  unfold State.skipSeq
  split <;> rfl

theorem emitDirect1_directView (k : Nat) (now : Bool) (s : State) (x : Nat) : (State.emitDirect1 k now s x).directView = s.directView := by
  have noted (b : List Byte) : (State.modCsw (if k % s.spt = 0 ∧ s.directLacks x k then s.count x 17 else s)
      fun c => { c with dirTx := (x, k + 1, b) :: c.dirTx }).directView = s.directView := by split <;> rfl
  unfold State.emitDirect1
  dsimp only
  split
  · exact noted _
  · split
    · exact (skipSeq_directView _ _ _).trans (noted _)
    · split
      · exact noted _
      · exact (keyUse_directView _ _ _ _).trans ((sendFrame_directView _ _ _ _).trans (noted _))

theorem emitDirect_directView (s : State) (k : Nat) (now : Bool) : (s.emitDirect k now).directView = s.directView :=
  foldS_view State.directView _ (emitDirect1_directView k now) s _

/-- A sample that DP is to compute alone: what DP and the common registers hold after it. -/
theorem execDpSample_directView {s : State} {k : Nat} (due : s.dpDue k = [k]) (late : List Nat) :
    ∃ t, exec (.dpSample k late) s = .next t ∧ t.directView = (s.quiet.dpRun late k).directView := by
  have due' : s.quiet.dpDue k = [k] := due
  show ∃ t, execDpSample k late s = _ ∧ _
  unfold execDpSample
  simp only [due', foldS, if_true]
  exact ⟨_, rfl, emitDirect_directView _ _ _⟩

end Sys2Proof.Machine
end

section
/-! PROOF. Fades, buses, detectors, direct channels and aligned outputs end their movements: O51. -/

namespace Sys2Proof.Machine

/-! ### Tables with one entry changed -/

theorem tfind_tdel_other {α : Type} (t : Tab α) {i j : Nat} (h : j ≠ i) : tfind (tdel t i) j = tfind t j := by
  induction t with
  | nil => rfl
  | cons e t ih =>
    obtain ⟨k, v⟩ := e
    by_cases hk : k = i
    · subst hk; simp [tdel, tfind, h.symm, ih]
    · simp [tdel, tfind, hk, ih]

/-- A table lists an entry that differs from the default. -/
theorem tfind_of_tget_ne {α : Type} {d : α} {t : Tab α} {i : Nat} (h : tget d t i ≠ d) : tfind t i = some (tget d t i) := by
  induction t with
  | nil => exact absurd rfl h
  | cons e t ih =>
    obtain ⟨k, v⟩ := e
    by_cases hk : k = i
    · simp [tfind, tget, hk]
    · simp only [tfind, tget, hk, if_false] at h ⊢
      exact ih h

/-! ### Buses (R186) -/

theorem execBusStop_done {s : State} {x : Nat} (running : (tget ({} : Bus) s.mix.buses x).running = true)
    (stopping : (tget ({} : Bus) s.mix.buses x).stopping = true) (mute : (tget ({} : Bus) s.mix.buses x).gb.done s.processSample = true) :
    exec (.busStop x) s = .next { s with sent := [], mix := { s.mix with buses := tset s.mix.buses x {} } } :=
  congrArg Host.Outcome.next (if_pos ⟨running, stopping, mute⟩)

/-- A bus without a removed entry whose ramp to mute is over before sample `k`. -/
def Bus.dropped (b : Bus) (entry k : Nat) : Bus := { b with entries := b.entries.filter fun e => !(e.pos == entry && e.leaving && e.gain.done k) }

theorem execEntryDrop_eq (s : State) (x entry : Nat) : exec (.entryDrop x entry) s = .next { s with
    sent := [], mix := { s.mix with buses := tset s.mix.buses x ((tget {} s.mix.buses x).dropped entry s.processSample) } } := rfl

theorem mem_dropped (b : Bus) (entry k : Nat) (m : MixEntry) :
    m ∈ (b.dropped entry k).entries ↔ m ∈ b.entries ∧ (m.pos ≠ entry ∨ m.leaving = false ∨ m.gain.done k = false) := by
  simp [Bus.dropped, or_assoc]

/-! ### Detectors (R203) -/

theorem note_alone {y : Sil} {g m : Nat} {b : Bool} (h : y.log = [(g, m, b)]) : (y.note g m true).log = [(g, m, true)] := by
  simp [Sil.note, h]

/-- What SILENT leaves of SIL: the entry of the detector, and the decision of its signal that is recorded. -/
theorem execSilent_quiet {s : State} {x g : Nat} (assigned : detSig s.dict.vals x = some g) (own : (tget ({} : Detector) s.sil.det x).sig = some g)
    (quiet : s.detHold s.dict.vals x ≤ (tget ({} : Detector) s.sil.det x).quiet) : ∃ log, exec (.silent x) s = .next { s with
      sent := [], sil := { s.sil with det := tset s.sil.det x { tget ({} : Detector) s.sil.det x with silent := true }, log := log } } ∧
      ∀ m b, s.sil.log = [(g, m, b)] → log = [(g, m, true)] := by
  show ∃ log, execSilent x s = _ ∧ _
  unfold execSilent
  simp only [State.quiet_sil, State.quiet_dict, own]
  rw [if_pos ⟨assigned, quiet⟩]
  cases found : s.sil.log.find? fun e => e.1 == g with
  | none =>
    refine ⟨s.sil.log, rfl, fun m b hlog => ?_⟩
    simp [hlog] at found
  | some e =>
    refine ⟨_, rfl, fun m b hlog => ?_⟩
    obtain rfl : (g, m, b) = e := by simpa [hlog] using found
    exact note_alone hlog

/-! ### Aligned outputs (R230-R234) -/

/-- A table of outputs with one of them changed: what the commands of ALN leave. -/
def State.setAln (s : State) (x : Nat) (a : AlnOut) : State := { s with sent := [], aln := { s.aln with outs := tset s.aln.outs x a } }

theorem execAlnGainRampStart_listed {s : State} {x : Nat} {a : AlnOut} (h : tfind s.aln.outs x = some a) :
    exec (.alnGainRampStart x) s = .next (s.setAln x (a.rampStart s.dict.vals x s.spt s.processSample)) := by
  show execAlnGainRampStart x s = _
  unfold execAlnGainRampStart
  simp only [State.quiet_aln, h]
  rfl

theorem execAlnXtapEnd_listed {s : State} {x : Nat} {a : AlnOut} (h : tfind s.aln.outs x = some a) :
    exec (.alnXtapEnd x) s = .next (s.setAln x (a.tapsOver s.dict.vals x)) := by
  show execAlnXtapEnd x s = _
  unfold execAlnXtapEnd
  simp only [State.quiet_aln, h]
  rfl

theorem execAlnRegionRelease_faded {s : State} {x : Nat} (held : (tget ({} : AlnOut) s.aln.outs x).region.isSome = true)
    (faded : (tget ({} : AlnOut) s.aln.outs x).faded s.processSample = true) :
    exec (.alnRegionRelease x) s = .next { s with sent := [], aln := { s.aln with outs := tdel s.aln.outs x } } :=
  congrArg Host.Outcome.next (if_pos ⟨held, faded⟩)

theorem tapsOver_ended {a : AlnOut} {p : XTap} (tap : a.xtap = some p) (ended : a.fading = false) (queued : a.queued = none) (v : Tab Val) (x : Nat) :
    a.tapsOver v x = { a with xtap := none, cur := a.target } := by
  unfold AlnOut.tapsOver
  rw [if_pos (by simp [tap, ended])]
  simp only [queued]

/-- Settles O51: each command finds its movement at its end and does what its rule says; of a direct sample's many channels and frames none
touches channel `x`. -/
theorem unitsFinishTheirRamps : Obligations.UnitsFinishTheirRamps := by
  unfold Obligations.UnitsFinishTheirRamps
  intro s c f q x k p shadows
  dsimp only
  refine ⟨fun hf ended => ?fadeEnd, fun reached idle queued new hlen h0 h3 free => ?queuedStart, fun running stopping mute => ?busStop, ?entryDrop,
    fun g assigned own quiet => ?silent, fun hx running settled free due => ?sample, fun hx running settled free due => ?late,
    fun held waits filled => ?rampStart, fun held faded => ?release, fun tap ended queued => ?xtapEnd⟩
  case fadeEnd =>
    exact ⟨_, execFoxFadeEnd_over hf ended, endFade_fadeOf _ c, fun g hg => endFade_others _ hg, endFade_past hf, rfl⟩
  case queuedStart =>
    obtain rfl : q.cons = c := by simpa using List.find?_some queued
    refine ⟨_, execFoxQueuedStart_due idle queued reached, ?_⟩
    rw [State.modCsw, State.quiet_csw, startQueued_slot hlen h0 h3 free new]
    exact ⟨startFade_fadeOf (cs := (s.csw.unqueue q.cons).setRoute q.cons q.new s.foxTickNow) idle rfl,
      setRoute_routeAt (s.csw.unqueue q.cons) q.cons q.new s.foxTickNow, unqueue_fadeQ s.csw q.cons, rfl⟩
  case busStop =>
    exact ⟨_, execBusStop_done running stopping mute, tget_tset_same _ _ _ _, fun n hn => tget_tset_other _ _ _ _ _ hn, rfl⟩
  case entryDrop =>
    refine ⟨_, execEntryDrop_eq s x k, rfl, fun n hn => tget_tset_other _ _ _ _ _ hn, fun m => ?_⟩
    exact (tget_tset_same _ _ _ _).symm ▸ mem_dropped _ k _ m
  case silent =>
    obtain ⟨log, ran, hlog⟩ := execSilent_quiet assigned own quiet
    exact ⟨_, ran, tget_tset_same _ _ _ _, fun n hn => tget_tset_other _ _ _ _ _ hn, hlog, rfl⟩
  case sample =>
    obtain ⟨t, ran, left⟩ := execDpSample_directView due []
    obtain ⟨dp, commons⟩ := Prod.mk.inj left
    obtain ⟨sample, last, lates, quiet⟩ := dpRun_sample (s := s.quiet) hx running settled free k
    refine ⟨t, ran, ?_⟩
    rw [dp, commons]
    exact ⟨sample, last, fun lim inv clip => (congrArg (fun d => d.pipe.head?) sample).trans (dpStep_pipe lim inv clip s.quiet k _), lates, quiet⟩
  case late =>
    obtain ⟨t, ran, left⟩ := execDpSample_directView due [x]
    obtain ⟨dp, commons⟩ := Prod.mk.inj left
    obtain ⟨zero, lates, recorded⟩ := dpRun_late (s := s.quiet) hx running settled free shadows k
    refine ⟨t, ran, ?_⟩
    rw [dp]
    exact ⟨zero, lates, recorded.of_commons rfl commons⟩
  case rampStart =>
    refine ⟨_, execAlnGainRampStart_listed (tfind_of_tget_ne (d := {}) fun e => by simp [e] at held), ?_,
      fun n hn => tget_tset_other _ _ _ _ _ hn, rfl⟩
    exact (tget_tset_same _ _ _ _).trans (if_pos ⟨held, waits, filled⟩)
  case release =>
    exact ⟨_, execAlnRegionRelease_faded held faded, tfind_tdel_same _ _, fun n hn => tfind_tdel_other _ hn, rfl⟩
  case xtapEnd =>
    refine ⟨_, execAlnXtapEnd_listed (tfind_of_tget_ne (d := {}) fun e => by simp [e] at tap), ?_,
      fun n hn => tget_tset_other _ _ _ _ _ hn, rfl⟩
    exact (tget_tset_same _ _ _ _).trans (tapsOver_ended tap ended queued _ _)

end Sys2Proof.Machine
end

section
/-! PROOF. Mailboxes: what a capture takes and where it is kept (R106, R219, R243, R314, R321, R419, R452, R470, R491): for O55. -/

namespace Sys2Proof.Machine

/-! ### The two sides of a mailbox (R470) -/

@[simp] theorem Mailboxes.of_set (x : Mailboxes) (host : Bool) (f : Mailbox → Mailbox) : (x.set host f).of host = f (x.of host) := by cases host <;> rfl

@[simp] theorem Mailboxes.of_not_set (x : Mailboxes) (host : Bool) (f : Mailbox → Mailbox) : (x.set host f).of (!host) = x.of (!host) := by cases host <;> rfl

@[simp] theorem getMail_modMail (s : State) (k : MailKind) (f : Mailboxes → Mailboxes) : (s.modMail k f).getMail k = f (s.getMail k) := by
  cases k with
  | hist b => exact congrArg Common.histMail (State.common_setCommon_same s b _)
  | portCnt p => exact congrArg Port.mail (State.port_setPort_same s p _)
  | _ => rfl

theorem execMailboxCaptureDone_captured {s : State} {k : MailKind} {host : Bool} {ws : List Word} (h : ((s.getMail k).of host).capturing = some ws) :
    exec (.mailboxCaptureDone k host) s = .next (s.quiet.modMail k fun x => x.set host fun _ => { valid := true, capturing := none, data := ws }) := by
  have h' : ((s.quiet.getMail k).of host).capturing = some ws := by cases k <;> exact h
  show execMailboxCaptureDone k host s = _
  unfold execMailboxCaptureDone
  simp only [h']

/-! ### What a capture takes -/

/-- The words of a mailbox (R470). -/
def mailSize : MailKind → Nat
  | .hist _ | .silSel | .alnOsel => 4
  | .cswCnt => 21
  | .refMsel => 3
  | .memDsel => 10
  | .portCnt p => portWords p
  | .timeSnap => 5

theorem mailWords_length (s : State) (k : MailKind) : (s.mailWords k).2.length = mailSize k := by
  cases k with
  | hist b =>
    unfold State.mailWords
    dsimp only
    split <;> rfl
  | portCnt p => simp [State.mailWords, mailSize]
  | _ => rfl

/-- Taking the words leaves the mailbox. -/
theorem mailWords_getMail (s : State) (k : MailKind) : (s.mailWords k).1.getMail k = s.getMail k := by cases k <;> rfl

theorem mailWords_cswCnt (s : State) {i : Nat} (h : i < 21) :
    (s.mailWords .cswCnt).2[i]? = some (if counterApplies s.dict.vals s.csw.cntSel i then tget 0 (s.ctx s.csw.cntSel).cnt i else 0) := by
  simp [State.mailWords, h]

theorem mailWords_portCnt {s : State} {p : Nat} (alone : s.otherLane p = false) {i : Nat} (h : i < portWords p) :
    (s.mailWords (.portCnt p)).2[i]? = some (tget 0 (s.port p).cnt i) := by
  simp [State.mailWords, h, alone]

/-! ### SNAP (R470) -/

/-- A capture starts in one side of an idle mailbox, and the other side stands. -/
theorem snapMail_captures {s : State} {k : MailKind} {host : Bool} (idle : ((s.getMail k).of host).capturing = none) :
    ((s.snapMail host k).getMail k).of host = { (s.getMail k).of host with valid := false, capturing := some (s.mailWords k).2 } ∧
      ((s.snapMail host k).getMail k).of (!host) = (s.getMail k).of (!host) := by
  have snapped : s.snapMail host k = (s.mailWords k).1.modMail k fun x => x.set host fun y => { y with valid := false, capturing := some (s.mailWords k).2 } := by
    unfold State.snapMail
    exact if_neg (by simp [idle])
  rw [snapped, getMail_modMail, Mailboxes.of_set, Mailboxes.of_not_set, mailWords_getMail]
  exact ⟨rfl, rfl⟩

/-- A SNAP command that is performed sets its selector with `f` and captures; `P` is what the words are. -/
theorem snap_starts {c : Instr} {s : State} {m : Master} {b off : Nat} {k : MailKind} {f : State → State} {P : List Word → Prop}
    (may : s.MayWrite m b off) (ran : exec c s = .next (s.quiet.viaWrite m b off fun s => (f s).snapMail (isHost m) k))
    (same : (f s.quiet).getMail k = s.getMail k) (idle : ((s.getMail k).of (isHost m)).capturing = none) (words : P ((f s.quiet).mailWords k).2) :
    ∃ t l, exec c s = .next t ∧ l.length = mailSize k ∧
      (t.getMail k).of (isHost m) = { (s.getMail k).of (isHost m) with valid := false, capturing := some l } ∧
      (t.getMail k).of (!isHost m) = (s.getMail k).of (!isHost m) ∧ P l := by
  have captured := snapMail_captures (s := f s.quiet) (k := k) (host := isHost m) (by rwa [same])
  rw [same] at captured
  refine ⟨_, _, ran, mailWords_length (f s.quiet) k, ?_⟩
  rw [viaWrite_ok s m b off _ may]
  exact ⟨captured.1, captured.2, words⟩

end Sys2Proof.Machine
end

section
/-! PROOF. Accesses of 32 bits to registers, as their rows see them (R467-R471): for O55. -/

namespace Sys2Proof.Machine

theorem regCause_quiet (s : State) (m : Master) (a n : Nat) (write : Bool) : s.quiet.regCause m a n write = s.regCause m a n write := rfl

theorem targetOf_reg (s : State) {b off : Nat} (hb : b < 0x70) (hoff : off < 65536) : s.targetOf (regAddr b off) = (2, b * 65536 + off) := by
  unfold State.targetOf regAddr
  rw [if_neg (by omega), if_neg (by omega), if_neg (by omega), if_neg (by omega), if_neg (by omega), if_neg (by omega), if_pos (by omega)]
  exact congrArg (Prod.mk 2) (by omega)

section
variable {s : State} {m : Master} {a b off : Nat} (target : s.targetOf a = (2, b * 65536 + off)) (hoff : off < 65536)
include target hoff

theorem writeOne_plain (performed : s.regCause m a 4 true = none) (plain : slowReg b off = false) (v : Word) : s.writeOne m a 4 v = s.writeVal m b off v := by
  have block : (b * 65536 + off) / 65536 = b := by omega
  have reg : (b * 65536 + off) % 65536 = off := by omega
  unfold State.writeOne
  rw [performed, target]
  simp [block, reg, plain]

theorem writeOne_slow (performed : s.regCause m a 4 true = none) (slow : slowReg b off = true) (v : Word) :
    s.writeOne m a 4 v = (s.postSlow b off v).getD (s.berr m a true 7) := by
  have block : (b * 65536 + off) / 65536 = b := by omega
  have reg : (b * 65536 + off) % 65536 = off := by omega
  unfold State.writeOne
  rw [performed, target]
  simp only [block, reg, slow, if_true]
  cases s.postSlow b off v <;> rfl

theorem readReg_word (performed : s.regCause m a 4 false = none) (aligned : off % 4 = 0) :
    s.readReg m a 4 = (s.readEffect m b off 0 4).fresh.emit (.data [s.regVal m b off % 2 ^ 32]) := by
  have block : (b * 65536 + off) / 65536 = b := by omega
  have reg : (b * 65536 + off) % 65536 / 4 * 4 = off := by omega
  have lane : (b * 65536 + off) % 4 = 0 := by omega
  unfold State.readReg State.readOne
  rw [performed, target]
  simp only [block, reg, lane, if_neg (show ¬ (4 = 8 ∧ a % 8 = 0) by omega)]
  simp

end

section
variable {s : State} {m : Master} {b off : Nat} (hb : b < 0x70) (hoff : off < 65536)
include hb hoff

/-- A write that is performed reaches its register (R467). -/
theorem execRegisterWrite_plain (may : s.MayWrite m b off) (plain : slowReg b off = false) (v : Word) :
    exec (.registerWrite m (regAddr b off) 4 v) s = .next (s.quiet.writeVal m b off v) :=
  congrArg Host.Outcome.next (writeOne_plain (targetOf_reg s.quiet hb hoff) hoff ((regCause_quiet s m _ 4 true).trans may) plain v)

/-- A write to a SLOW register is posted, or answered with an error response (R471). -/
theorem execRegisterWrite_slow (may : s.MayWrite m b off) (slow : slowReg b off = true) (v : Word) :
    exec (.registerWrite m (regAddr b off) 4 v) s = .next ((s.quiet.postSlow b off v).getD (s.quiet.berr m (regAddr b off) true 7)) :=
  congrArg Host.Outcome.next (writeOne_slow (targetOf_reg s.quiet hb hoff) hoff ((regCause_quiet s m _ 4 true).trans may) slow v)

/-- A read that is performed answers the register's value; its effects follow. -/
theorem readReg_performed (aligned : off % 4 = 0) (may : s.MayRead m b off) :
    s.quiet.readReg m (regAddr b off) 4 = (s.quiet.readEffect m b off 0 4).fresh.emit (.data [s.quiet.regVal m b off % 2 ^ 32]) :=
  readReg_word (targetOf_reg s.quiet hb hoff) hoff ((regCause_quiet s m _ 4 false).trans may) aligned

end

/-! ### Posted writes (R471) -/

theorem postSlow_new {s : State} {b off : Nat} (room : (s.common b).slowQ.length < 4) (new : ∀ x ∈ (s.common b).slowQ, x.off ≠ off) (v : Word) :
    s.postSlow b off v = some (s.setCommon b fun c => { c with slowQ := c.slowQ ++ [⟨off, v⟩] }) := by
  unfold State.postSlow
  exact (if_neg (by simpa using new)).trans (if_neg (Nat.not_le.2 room))

theorem postSlow_full {s : State} {b off : Nat} (full : 4 ≤ (s.common b).slowQ.length) (new : ∀ x ∈ (s.common b).slowQ, x.off ≠ off) (v : Word) :
    s.postSlow b off v = none := by
  unfold State.postSlow
  exact (if_neg (by simpa using new)).trans (if_pos full)

theorem execSlowWriteEffect_oldest {s : State} {b : Nat} {w : SlowWrite} {q : List SlowWrite} (h : (s.common b).slowQ = w :: q) :
    exec (.slowWriteEffect b) s = .next ((s.quiet.setCommon b fun c => { c with slowQ := q }).slowEffect b w.off w.val) := by
  have h' : (s.quiet.common b).slowQ = w :: q := h
  show execSlowWriteEffect b s = _
  unfold execSlowWriteEffect
  simp only [h']

/-- TW1.CFG with an address that I2C does not reserve (R554). -/
theorem slowEffect_tw1Cfg {v : Word} (low : 8 ≤ v.toNat % 128) (high : v.toNat % 128 < 0x78) (s : State) : s.slowEffect blkTw1 0x100 v =
    { s with tw1 := { s.tw1 with addr := v.toNat % 128, filt := bitsOf v.toNat 8 5, attnRep := bitsOf v.toNat 16 8 } } := by
  unfold State.slowEffect
  dsimp only
  rw [if_neg (by decide), if_pos rfl, if_neg (by omega)]

end Sys2Proof.Machine
end

section
/-! PROOF. Bursts: beats of hall memory, and beats answered with error responses (R462-R465, R475, R476): for O55. -/

namespace Sys2Proof.Machine

/-! ### Bytes in memory -/

theorem beBytes_length (n x : Nat) : (beBytes n x).length = n := by
  induction n generalizing x with
  | zero => rfl
  | succ n ih => simp [beBytes, ih]

theorem leBytes_length (n x : Nat) : (leBytes n x).length = n := by simp [leBytes, beBytes_length]

theorem memGet_memSetBytes {m : List Host.Cell} (hm : Memory.wf m = true) (a : Nat) (l : List Byte) (j : Nat) :
    memGet (memSetBytes m a l) j = if a ≤ j ∧ j < a + l.length then l[j - a]?.getD 0 else memGet m j := by
  split
  next h =>
    obtain ⟨k, rfl⟩ := Nat.exists_eq_add_of_le h.1
    have hk : k < l.length := by omega
    rw [memGet_memSetBytes_at l hm a k hk]
    simp [hk]
  next h => exact memGet_memSetBytes_other l m a j (by omega)

/-- Bytes written in steps of `w`, one after another. -/
def writeBeats (w off : Nat) (data : List Nat) (m : List Host.Cell) (l : List Nat) : List Host.Cell :=
  l.foldl (fun m i => memSetBytes m (off + i * w) (leBytes w (at? 0 data i))) m

theorem memGet_writeBeats {m : List Host.Cell} (hm : Memory.wf m = true) {w : Nat} (hw : 0 < w) (off : Nat) (data : List Nat) (n a : Nat) :
    memGet (writeBeats w off data m (List.range n)) a = if off ≤ a ∧ a < off + n * w then
      ((leBytes w (at? 0 data ((a - off) / w)))[(a - off) % w]?).getD 0 else memGet m a := by
  induction n with
  | zero => exact (if_neg (by omega)).symm
  | succ n ih =>
    have wf : Memory.wf (writeBeats w off data m (List.range n)) = true := wf_foldl _ (fun _ _ h => wf_memSetBytes _ h _) _ hm
    have next : writeBeats w off data m (List.range (n + 1)) =
        memSetBytes (writeBeats w off data m (List.range n)) (off + n * w) (leBytes w (at? 0 data n)) := by
      simp [writeBeats, List.range_succ]
    rw [next, memGet_memSetBytes wf, leBytes_length, ih, Nat.succ_mul]
    split
    next h =>
      have place : a - off = w * n + (a - (off + n * w)) := by rw [Nat.mul_comm]; omega
      have quot : (a - off) / w = n := by
        rw [place, Nat.mul_add_div hw, Nat.div_eq_of_lt (by omega), Nat.add_zero]
      have rest : (a - off) % w = a - (off + n * w) := by
        rw [place, Nat.mul_add_mod, Nat.mod_eq_of_lt (by omega)]
      rw [if_pos (by omega), quot, rest]
    next h =>
      by_cases before : off ≤ a ∧ a < off + n * w
      · rw [if_pos before, if_pos (by omega)]
      · rw [if_neg before, if_neg (by omega)]

/-! ### Beats of hall memory (R460-R464) -/

theorem targetOf_hall (s : State) {a : Nat} (low : 0x20000000 ≤ a) (high : a < 0x23000000) : s.targetOf a = (3, a - 0x20000000) := by
  unfold State.targetOf
  rw [if_neg (by omega), if_neg (by omega), if_neg (by omega), if_neg (by omega), if_pos ⟨low, high⟩]

theorem hall_of_targetOf {s : State} {a off : Nat} (h : s.targetOf a = (3, off)) : 0x20000000 ≤ a ∧ a < 0x23000000 ∧ off = a - 0x20000000 := by
  by_cases inHall : 0x20000000 ≤ a ∧ a < 0x23000000
  · rw [targetOf_hall s inHall.1 inHall.2] at h
    exact ⟨inHall.1, inHall.2, (congrArg Prod.snd h).symm⟩
  · unfold State.targetOf at h
    simp only [if_neg inHall] at h
    split_ifs at h <;> simp at h

/-- A burst to hall memory that no check of R475 stops has a width, and lies in one page of 4 KiB. -/
theorem burst_inPage {s : State} {u : BurstReq} {off : Nat} (h : s.burstCause u = none) (hall : s.targetOf u.addr = (3, off)) :
    0 < u.width ∧ u.addr % 4096 + u.beats * u.width ≤ 4096 := by
  unfold State.burstCause at h
  rw [hall] at h
  simp only [Nat.reduceEqDiff, if_false, false_and] at h
  split_ifs at h with _ page width
  obtain ⟨width, -⟩ := not_or.1 width
  simp only [Bool.not_eq_true', decide_eq_false_iff_not, not_not] at width
  omega

/-- Every beat of such a burst lies in hall memory. -/
theorem burst_beat {s : State} {u : BurstReq} {off : Nat} (h : s.burstCause u = none) (hall : s.targetOf u.addr = (3, off)) {i : Nat} (hi : i < u.beats) :
    s.targetOf (u.addr + i * u.width) = (3, off + i * u.width) := by
  obtain ⟨low, high, place⟩ := hall_of_targetOf hall
  obtain ⟨width, page⟩ := burst_inPage h hall
  have inside : i * u.width + u.width ≤ u.beats * u.width := by
    rw [← Nat.succ_mul]
    exact Nat.mul_le_mul_right _ hi
  rw [targetOf_hall s (by omega) (by omega)]
  exact congrArg (Prod.mk 3) (by omega)

section
variable {u : BurstReq} {off : Nat}

/-- The values that beats of hall memory read. -/
def hallBeats (m : List Host.Cell) (off width : Nat) (l : List Nat) : List Emission := l.map fun i => .data [leNat (memBytes m (off + i * width) width)]

theorem foldS_beat_read (read : u.write = false) {s : State} (hall : s.targetOf u.addr = (3, off)) {l : List Nat}
    (inside : ∀ i ∈ l, s.targetOf (u.addr + i * u.width) = (3, off + i * u.width)) :
    foldS (State.beat u) s l = { s with sent := s.sent ++ hallBeats s.fab.hall off u.width l } := by
  induction l generalizing s with
  | nil => simp [foldS, hallBeats]
  | cons i l ih =>
    have beat : State.beat u s i = s.emit (.data [leNat (memBytes s.fab.hall (off + i * u.width) u.width)]) := by
      simp [State.beat, State.readBeat, hall, inside i List.mem_cons_self, read]
    rw [foldS, beat, ih (s := s.emit _) hall fun j hj => inside j (List.mem_cons_of_mem i hj)]
    simp [State.emit, hallBeats]

theorem foldS_beat_write (write : u.write = true) {s : State} (hall : s.targetOf u.addr = (3, off)) {l : List Nat}
    (inside : ∀ i ∈ l, s.targetOf (u.addr + i * u.width) = (3, off + i * u.width)) :
    foldS (State.beat u) s l = s.modFab fun f => { f with hall := writeBeats u.width off u.data f.hall l } := by
  induction l generalizing s with
  | nil => rfl
  | cons i l ih =>
    have beat : State.beat u s i = s.modFab fun f => { f with hall := memSetBytes f.hall (off + i * u.width) (leBytes u.width (at? 0 u.data i)) } := by
      simp [State.beat, State.writeBeat, hall, inside i List.mem_cons_self, write]
    rw [foldS, beat, ih (s := s.modFab _) hall fun j hj => inside j (List.mem_cons_of_mem i hj)]
    rfl

end

/-! ### Error responses (R462, R475) -/

theorem errBeats_sent (s : State) (u : BurstReq) (c : Nat) (l : List Nat) :
    (s.errBeats u c l).sent = s.sent ++ List.replicate l.length .busError := by
  unfold State.errBeats
  induction l generalizing s with
  | nil => exact (List.append_nil _).symm
  | cons i l ih =>
    rw [foldS, ih]
    simp [State.berr, List.replicate_succ]

theorem errBeats_cause (s : State) (u : BurstReq) (c : Nat) {l : List Nat} {i : Nat} (h : i ∈ l) : (s.errBeats u c l).fab.berrCause = c :=
  foldS_brings (P := fun t => t.fab.berrCause = c) _ (fun _ _ _ => rfl) (fun _ => rfl) s h

/-- The state without what error responses put out and load: the list of what is sent and the BERR registers. -/
def State.berrView (s : State) : State := { s with
  sent := [], fab := { s.fab with berrAddr := 0, berrMaster := 0, berrTarget := 0, berrWrite := false, berrCause := 0, berrCount := 0 } }

theorem errBeats_view (s : State) (u : BurstReq) (c : Nat) (l : List Nat) : (s.errBeats u c l).berrView = s.berrView :=
  foldS_view State.berrView (fun (s : State) i => s.berr u.master (u.addr + i * u.width) u.write c) (fun _ _ => rfl) s l

end Sys2Proof.Machine
end

section
/-! PROOF. Mailboxes, registers, SLOW writes and bursts: O55. -/

namespace Sys2Proof.Machine

theorem Reported.fab {s t : State} (h : Reported s t) : t.fab = s.fab := by obtain ⟨_, _, _, _, _, rfl⟩ := h; rfl

/-- What an event of class U outside every shadow puts out comes after what was put out before. -/
theorem raiseT_sent_u {s : State} (h : s.top.shadows = []) (b ev : Nat) : ∃ l, (s.raiseT b ev .u).sent = s.sent ++ l := by
  obtain ⟨-, e⟩ := raise_eq s b ev 0 s.tickDetail .u h fun hf => by cases hf
  unfold State.raiseT
  rw [e]
  dsimp only
  split
  · exact ⟨_, rfl⟩
  · exact ⟨[], (List.append_nil _).symm⟩

theorem execBurst_runs {s : State} {u : BurstReq} (h : s.burstCause u = none) :
    exec (.burst u) s = .next (foldS (State.beat u) s.quiet (List.range u.beats)) := by
  have h' : s.quiet.burstCause u = none := h
  show execBurst u s = _
  unfold execBurst
  simp only [h']

theorem execBurst_fails {s : State} {u : BurstReq} {c : Nat} (h : s.burstCause u = some c) :
    exec (.burst u) s = .next (s.quiet.errBeats u c (List.range u.beats)) := by
  have h' : s.quiet.burstCause u = some c := h
  show execBurst u s = _
  unfold execBurst
  simp only [h']

/-- A burst of hall memory that ends after `n` beats, as FAB keeps it (R465, R476). -/
def State.burstCut (s : State) (u : BurstReq) (n : Nat) (stalled : Bool) : State :=
  ((foldS (State.beat u) s.quiet (List.range n)).errBeats u 6 (span n u.beats)).modFab fun f => { f with
    btoMaster := masterCode u.master, btoTarget := (s.targetOf u.addr).1, btoStall := stalled, btoDone := n % 32, btoCount := stopAt 0xFFFF f.btoCount 1 }

theorem execBurstTo_cut {s : State} {u : BurstReq} (h : s.burstCause u = none) (n : Nat) (stalled : Bool) :
    exec (.burstTo u n stalled) s = .next ((s.burstCut u n stalled).raiseT blkFab 0x10 .u) := by
  have h' : s.quiet.burstCause u = none := h
  show execBurstTo u n stalled s = _
  unfold execBurstTo
  simp only [h']
  rfl

/-- What a burst that is cut off leaves of the rest of the state. -/
def State.cutOffView (s : State) : Tab Common × Top × Time × List Host.Cell := (s.commons, s.top, s.time, s.fab.hall)

section
variable {s : State} {u : BurstReq} {off n : Nat} (free : s.burstCause u = none) (hall : s.targetOf u.addr = (3, off)) (read : u.write = false)
  (cut : n < u.beats)
include free hall read cut

theorem burst_beats_before : foldS (State.beat u) s.quiet (List.range n) = { s with sent := hallBeats s.fab.hall off u.width (List.range n) } :=
  foldS_beat_read read (s := s.quiet) hall fun _ hi => burst_beat free hall ((List.mem_range.1 hi).trans cut)

theorem burstCut_sent (stalled : Bool) : (s.burstCut u n stalled).sent =
    hallBeats s.fab.hall off u.width (List.range n) ++ List.replicate (u.beats - n) .busError := by
  unfold State.burstCut
  rw [State.modFab_sent, errBeats_sent, burst_beats_before free hall read cut]
  simp [span]

theorem burstCut_view (stalled : Bool) : (s.burstCut u n stalled).cutOffView = s.cutOffView := by
  have answered := congrArg State.cutOffView (errBeats_view (foldS (State.beat u) s.quiet (List.range n)) u 6 (span n u.beats))
  rw [burst_beats_before free hall read cut] at answered
  unfold State.burstCut
  rw [burst_beats_before free hall read cut]
  exact answered

end

theorem burstCut_cause (s : State) {u : BurstReq} {n : Nat} (cut : n < u.beats) (stalled : Bool) : (s.burstCut u n stalled).fab.berrCause = 6 :=
  errBeats_cause _ u 6 (i := n) (List.mem_map.2 ⟨0, List.mem_range.2 (Nat.sub_pos_of_lt cut), rfl⟩)

/-! ### Reads with effects (R468, R470) -/

theorem readEffect_cswLast (s : State) (m : Master) : s.readEffect m blkCsw 0x160 0 4 =
    s.modMail .cswCnt fun x => x.set (isHost m) fun y => { y with valid := false } := rfl

theorem readEffect_clPeak (s : State) (m : Master) {n : Nat} (hn : n < 9) : s.readEffect m (blkCl n) 0x108 0 4 = s.setCluster n fun c => { c with peak := 0 } := by
  have cluster : isCluster (0x20 + n) = true := by
    unfold isCluster
    rw [decide_eq_true (by omega), decide_eq_true (by omega)]
    rfl
  have plain : mailData (0x20 + n) 0x108 = none := by
    unfold mailData blkCsw blkSil blkAln blkRefsel blkMemc blkTime
    rw [if_neg (by omega), if_neg (by omega), if_neg (by omega), if_neg (by omega), if_neg (by omega), if_neg (by omega), if_neg (by omega),
      if_neg (by omega), if_neg (by omega)]
  unfold State.readEffect blkCl
  simp [plain, cluster]

theorem regVal_quiet (s : State) (m : Master) (b off : Nat) : s.quiet.regVal m b off = s.regVal m b off := rfl

/-- Settles O55: each clause is what the one command does once its access is known to be performed. -/
theorem registersMailboxesAndBursts : Obligations.RegistersMailboxesAndBursts := by
  unfold Obligations.RegistersMailboxesAndBursts
  intro s m k host n p b off v ws w q u shadows
  refine ⟨fun x hx may idle => ?snap, fun captured => ?captureDone, fun may => ?lastRead, fun hn may => ?peak, fun may => ?incFrac,
    fun hb may => ?intStat, fun may room new => ?posted, fun may full new => ?queueFull, fun queued cfg low high => ?slowEffect,
    fun free hall read => ?reads, fun free hall write wf => ?writes, fun fails some => ?fails, fun free hall read cut => ?timeout⟩
  case snap =>
    simp only [List.mem_cons, List.not_mem_nil, or_false] at hx
    rcases hx with rfl | rfl | rfl | rfl | rfl | rfl | rfl | rfl
    · exact snap_starts (c := .cntSelSnap m n) (k := .cswCnt) (f := fun s => s.setCntSel n) may rfl rfl idle ⟨fun _ i hi => mailWords_cswCnt _ hi, nofun, nofun⟩
    · exact snap_starts (c := .silSelSnap m n) (k := .silSel) (f := fun s => s.setSilSel n) may rfl rfl idle ⟨nofun, nofun, nofun⟩
    · exact snap_starts (c := .oselSnap m n) (k := .alnOsel) (f := fun s => s.setOsel n) may rfl rfl idle ⟨nofun, nofun, nofun⟩
    · exact snap_starts (c := .mselSnap m n) (k := .refMsel) (f := fun s => s.setMsel n) may rfl rfl idle ⟨nofun, nofun, fun _ => rfl⟩
    · exact snap_starts (c := .dselSnap m n) (k := .memDsel) (f := fun s => s.setDsel n) may rfl rfl idle ⟨nofun, nofun, nofun⟩
    · exact snap_starts (c := .timeSnap m) (k := .timeSnap) (f := id) may rfl rfl idle ⟨nofun, nofun, nofun⟩
    · exact snap_starts (c := .histSnap m b) (k := .hist b) (f := id) may rfl rfl idle ⟨nofun, nofun, nofun⟩
    · exact snap_starts (c := .cntCtlSnap m p) (k := .portCnt p) (f := id) may rfl rfl idle ⟨nofun, fun _ alone i hi => mailWords_portCnt alone hi, nofun⟩
  case captureDone =>
    refine ⟨_, execMailboxCaptureDone_captured captured, ?_, ?_⟩
    · rw [getMail_modMail, Mailboxes.of_set]
    · rw [getMail_modMail, Mailboxes.of_not_set]
      cases k <;> rfl
  case lastRead =>
    refine ⟨_, congrArg Host.Outcome.next (readReg_performed (by decide) (by decide) (by decide) may), ?_⟩
    rw [readEffect_cswLast]
    have mine := Mailboxes.of_set s.csw.mail (isHost m) fun y => { y with valid := false }
    refine ⟨?_, congrArg Mailbox.valid mine, (congrArg Mailbox.data mine :), Mailboxes.of_not_set _ _ _⟩
    exact congrArg (fun y => [Emission.data [y]]) (Nat.mod_eq_of_lt (BitVec.isLt _))
  case peak =>
    refine ⟨_, congrArg Host.Outcome.next (readReg_performed (by unfold blkCl; omega) (by decide) (by decide) may), ?_⟩
    rw [readEffect_clPeak _ _ hn, regVal_quiet]
    exact ⟨rfl, State.cluster_setCluster_same s.quiet n fun c => { c with peak := 0 },
      fun j hj => State.cluster_setCluster_other s.quiet n j (fun c => { c with peak := 0 }) hj⟩
  case incFrac =>
    exact execRegisterWrite_plain (by decide) (by decide) may rfl v
  case intStat =>
    refine ⟨_, execRegisterWrite_plain hb (by decide) may (by simp [slowReg]) v, ?_, fun j hj => ?_, rfl⟩
    · exact congrArg Common.intStat (State.common_setCommon_same s.quiet b fun c => { c with intStat := w1c c.intStat v })
    · exact State.common_setCommon_other s.quiet b j (fun c => { c with intStat := w1c c.intStat v }) hj
  case posted =>
    refine ⟨_, execRegisterWrite_slow (by decide) (by decide) may rfl v, ?_⟩
    rw [postSlow_new (s := s.quiet) room new]
    exact ⟨congrArg Common.slowQ (State.common_setCommon_same s.quiet blkTw1 fun c => { c with slowQ := c.slowQ ++ [⟨0x100, v⟩] }), rfl⟩
  case queueFull =>
    refine ⟨_, execRegisterWrite_slow (by decide) (by decide) may rfl v, ?_⟩
    rw [postSlow_full (s := s.quiet) full new]
    exact ⟨rfl, rfl, rfl, rfl⟩
  case slowEffect =>
    refine ⟨_, execSlowWriteEffect_oldest queued, ?_⟩
    rw [cfg, slowEffect_tw1Cfg low high]
    exact ⟨congrArg Common.slowQ (State.common_setCommon_same s.quiet blkTw1 fun c => { c with slowQ := q }), rfl⟩
  case reads =>
    refine ⟨_, execBurst_runs free, ?_⟩
    rw [foldS_beat_read read (s := s.quiet) hall fun i hi => burst_beat free hall (List.mem_range.1 hi)]
    exact ⟨rfl, rfl⟩
  case writes =>
    refine ⟨_, execBurst_runs free, ?_⟩
    rw [foldS_beat_write write (s := s.quiet) hall fun i hi => burst_beat free hall (List.mem_range.1 hi)]
    exact ⟨fun a => memGet_writeBeats wf (burst_inPage free hall).1 off u.data u.beats a, rfl⟩
  case fails =>
    have view := errBeats_view s.quiet u n (List.range u.beats)
    refine ⟨_, execBurst_fails fails, ?_, errBeats_cause _ u n (List.mem_range.2 some), ?_⟩
    · rw [errBeats_sent, List.length_range]
      rfl
    · exact ⟨(congrArg (fun t : State => t.fab.hall) view :), (congrArg (fun t : State => t.fab.ctrlSram) view :),
        (congrArg State.memc view :), (congrArg State.commons view :)⟩
  case timeout =>
    have view := burstCut_view free hall read cut host
    simp only [State.cutOffView, Prod.mk.injEq] at view
    obtain ⟨commons, top, time, memory⟩ := view
    have raised : Reported (s.burstCut u n host) _ := raiseT_reported _ blkFab 0x10 0 .u (by decide)
    obtain ⟨pin, sent⟩ := raiseT_sent_u (s := s.burstCut u n host) (top ▸ shadows) blkFab 0x10
    have recorded : Recorded s ((s.burstCut u n host).raiseT blkFab 0x10 .u) blkFab 0x10 .u (s.burstCut u n host).tickDetail :=
      raiseAs_recorded (u := s.burstCut u n host) (cls := .u) commons (top ▸ shadows) blkFab 0x10 0 (s.burstCut u n host).tickDetail (by decide)
    have detail : (s.burstCut u n host).tickDetail = s.tickDetail := by unfold State.tickDetail; rw [time]
    refine ⟨_, execBurstTo_cut free n host, ?_, ?_⟩
    · rw [sent, burstCut_sent free hall read cut]
      exact List.take_left' (by simp [hallBeats]; omega)
    · rw [raised.fab]
      exact ⟨rfl, congrArg Prod.fst hall, rfl, rfl, burstCut_cause s cut host, memory, detail ▸ recorded⟩

end Sys2Proof.Machine
end

section
/-! PROOF. The accumulators (R120-R122, R154): their instructions and the conversion of an accumulator into D: O14 and O15. -/

namespace Sys2Proof.Machine

/-! ### Accumulator instructions (R121, R154) -/

/-- An LDA that R171 admits, with a shift of at most 48, issues. -/
theorem execLda_issues {sh : Nat} (admitted : sh ≤ 48) (i : CI) (an dx : Nat) (s : State) :
    execLda i an dx sh s = issueCI i (accOp an fun l => l.int dx * 2 ^ sh) s :=
  if_neg (Nat.not_lt.2 admitted)

/-- Settles O14: each instruction issues one accumulator operation, and on the lane as the instruction finds it the value that operation
computes is the one of R154; clamp, OVG and frame are those of any accumulator operation. -/
theorem accumulatorResults : Obligations.AccumulatorResults := by
  unfold Obligations.AccumulatorResults
  intro s i an am dx dy sh k l atInstr residueOk lane a m x y p listed admitted
  have ⟨f, issues, value⟩ : ∃ f : Lane → Int, exec p.1 s = issueCI i (accOp an f) s ∧ f l.tick = p.2 := by
    simp only [List.mem_cons, List.not_mem_nil, or_false] at listed
    rcases listed with rfl | rfl | rfl | rfl | rfl | rfl | rfl | rfl | rfl | rfl | rfl
    · exact ⟨fun l => l.product dx dy, rfl, rfl⟩
    · exact ⟨fun l => (l.acc an).toInt + l.product dx dy, rfl, rfl⟩
    · exact ⟨fun l => (l.acc an).toInt - l.product dx dy, rfl, rfl⟩
    · exact ⟨fun _ => 0, rfl, rfl⟩
    · exact ⟨fun l => (l.acc am).toInt, rfl, rfl⟩
    · exact ⟨fun l => (l.acc an).toInt + (l.acc am).toInt, rfl, rfl⟩
    · exact ⟨fun l => (l.acc an).toInt - (l.acc am).toInt, rfl, rfl⟩
    · exact ⟨fun l => l.int dx * 2 ^ sh, execLda_issues (admitted rfl) i an dx s, rfl⟩
    · exact ⟨fun l => (l.acc an).toInt * 2 ^ sh, rfl, rfl⟩
    · exact ⟨fun l => floorShift (l.acc an).toInt sh, rfl, rfl⟩
    · exact ⟨fun l => -(l.acc an).toInt, rfl, rfl⟩
  rw [issues, ← value]
  exact accOp_after s i an k f l atInstr residueOk lane

/-! ### Conversion into D (R122, R154) -/

/-- A conversion: the lane it leaves; SAT sets on saturation, though a handler's write be suppressed (R166, log 197). -/
theorem savOp_after (s : State) (i : CI) (dx an sh k : Nat) (trunc : Bool) (l : Lane) (h : s.AtInstr i.cl) (hr : i.residue = .ok)
    (hl : s.LaneIs i.cl k l) :
    ∃ t l', issueCI i (savOp dx an sh trunc) s = .next t ∧ IssuedIn s t i.cl ∧ t.LaneIs i.cl k l' ∧
      l'.Took (s.cluster i.cl) l dx true (BitVec.ofInt 32 (convert80 (l.acc an).toInt sh trunc).1) ∧
      l'.st = { l.st with sat := l.st.sat || (convert80 (l.acc an).toInt sh trunc).2 } ∧ l'.noise = l.noise := by
  obtain ⟨t, issues, issued, left⟩ := lanes_after s i
    (fun c _ l => (if c.mayD dx then l.put dx (BitVec.ofInt 32 (convert80 (l.acc an).toInt sh trunc).1) true else l,
      { sat := (convert80 (l.acc an).toInt sh trunc).2 })) k l h hr hl
  refine ⟨t, _, issues, issued, left, ?_, ?_, ?_⟩
  · rw [mayD_age]
    exact took_put _ _ _ _ _ _ _ rfl
  · dsimp only
    split <;> simp [Sticky.or, Lane.put, Lane.tick, Lane.acc]
  · dsimp only
    split <;> rfl

/-- Settles O15: the value and SAT of R122 are those of `convert80`, by its definition. -/
theorem savConvertsTheAccumulator : Obligations.SavConvertsTheAccumulator := by
  unfold Obligations.SavConvertsTheAccumulator
  intro s i dx an sh k trunc l atInstr residueOk lane
  exact savOp_after s i dx an sh k trunc l atInstr residueOk lane

end Sys2Proof.Machine
end

section
/-! PROOF. Lane arithmetic (R147, R152, R156): the ALU instructions with two operands, with one, with an immediate, SEL and the compares: O8 to O11. -/

namespace Sys2Proof.Machine

/-! ### The lane functions of R156 -/

theorem aluMin_eq_min (a b : Word) : aluMin a b = min a.toInt b.toInt := (min_def _ _).symm

theorem aluMax_eq_max (a b : Word) : aluMax a b = max a.toInt b.toInt := (max_def _ _).symm

theorem abs_eq_max (a : Int) : (if a < 0 then -a else a) = max a (-a) := by
  split <;> omega

/-- In native mode the instructions that IK mode lacks issue (R172). -/
theorem nativeCI_native {i : CI} {s : State} (native : (s.cluster i.cl).ik = false) (f : Cluster → Cluster) : nativeCI i f s = issueCI i f s :=
  if_neg (by simp [native])

/-! ### Results, flags and frame (R156) -/

/-- Settles O8: each instruction issues one ALU operation, whose exact result on the lane as the instruction finds it is the one of R156. -/
theorem aluResultsOfTwoOperands : Obligations.AluResultsOfTwoOperands := by
  unfold Obligations.AluResultsOfTwoOperands
  intro s i dd da db k l atInstr residueOk lane a b n p listed native
  have ⟨f, issues, value⟩ : ∃ f : Nat → Lane → Int, exec p.1 s = issueCI i (aluOp dd f) s ∧ f k l.tick = p.2 := by
    have two (f : Word → Word → Int) : ∃ g : Nat → Lane → Int, issueCI i (alu2 dd da db f) s = issueCI i (aluOp dd g) s ∧
        g k l.tick = f (l.sees da) (l.sees db) := ⟨_, rfl, rfl⟩
    simp only [List.mem_cons, List.not_mem_nil, or_false] at listed
    rcases listed with rfl | rfl | rfl | rfl | rfl | rfl | rfl | rfl | rfl | rfl | rfl
    · exact two aluAdd
    · exact two aluSub
    · exact two aluAnd
    · exact two aluOr
    · exact two aluXor
    · exact two aluAsl
    · exact two aluAsr
    · exact two aluLsr
    · exact aluMin_eq_min (l.sees da) (l.sees db) ▸ two aluMin
    · exact aluMax_eq_max (l.sees da) (l.sees db) ▸ two aluMax
    · exact ⟨_, nativeCI_native (native rfl) _, rfl⟩
  rw [issues, ← value]
  exact aluOp_after s i dd k l f atInstr residueOk lane

/-- Settles O9: the one-operand instructions and SEL issue one ALU operation each; SEL takes the operand that its condition names. -/
theorem aluResultsOfOneOperandAndSel : Obligations.AluResultsOfOneOperandAndSel := by
  unfold Obligations.AluResultsOfOneOperandAndSel
  intro s i dd da db k l atInstr residueOk lane
  refine ⟨fun p listed => ?_, fun q listed => ?_⟩
  · have ⟨f, issues, value⟩ : ∃ f : Nat → Lane → Int, exec p.1 s = issueCI i (aluOp dd f) s ∧ f k l.tick = p.2 := by
      simp only [List.mem_cons, List.not_mem_nil, or_false] at listed
      rcases listed with rfl | rfl | rfl | rfl
      · exact ⟨_, rfl, rfl⟩
      · exact ⟨_, rfl, abs_eq_max _⟩
      · exact ⟨_, rfl, rfl⟩
      · exact ⟨_, rfl, rfl⟩
    rw [issues, ← value]
    exact aluOp_after s i dd k l f atInstr residueOk lane
  · have tested : condHolds q.1 l.fl = q.2 := by
      simp only [List.mem_cons, List.not_mem_nil, or_false] at listed
      rcases listed with rfl | rfl | rfl | rfl | rfl | rfl | rfl | rfl | rfl <;> rfl
    rw [← tested]
    exact aluOp_after s i dd k l (fun _ l => if condHolds q.1 l.fl then l.int da else l.int db) atInstr residueOk lane

/-- Settles O10: as for two operands, with the immediate as the second. -/
theorem aluResultsWithImmediates : Obligations.AluResultsWithImmediates := by
  unfold Obligations.AluResultsWithImmediates
  intro s i dd da k imm l atInstr residueOk lane a n p listed
  have ⟨f, issues, value⟩ : ∃ f : Nat → Lane → Int, exec p.1 s = issueCI i (aluOp dd f) s ∧ f k l.tick = p.2 := by
    have immediate (f : Word → Word → Int) : ∃ g : Nat → Lane → Int, issueCI i (aluI dd da imm f) s = issueCI i (aluOp dd g) s ∧
        g k l.tick = f (l.sees da) imm := ⟨_, rfl, rfl⟩
    simp only [List.mem_cons, List.not_mem_nil, or_false] at listed
    rcases listed with rfl | rfl | rfl | rfl | rfl | rfl | rfl | rfl | rfl | rfl | rfl
    · exact immediate aluAdd
    · exact immediate aluSub
    · exact immediate aluAnd
    · exact immediate aluOr
    · exact immediate aluXor
    · exact immediate aluAsl
    · exact immediate aluAsr
    · exact immediate aluLsr
    · exact aluMin_eq_min (l.sees da) imm ▸ immediate aluMin
    · exact aluMax_eq_max (l.sees da) imm ▸ immediate aluMax
    · exact ⟨_, rfl, rfl⟩
  rw [issues, ← value]
  exact aluOp_after s i dd k l f atInstr residueOk lane

/-! ### Compares (R156) -/

/-- A compare leaves a lane as it was but for the flags of the comparison. -/
theorem cmpOp_after (s : State) (i : CI) (k : Nat) (l : Lane) (f : Lane → Int × Int) (atInstr : s.AtInstr i.cl) (residueOk : i.residue = .ok)
    (lane : s.LaneIs i.cl k l) :
    ∃ t, issueCI i (cmpOp f) s = .next t ∧ IssuedIn s t i.cl ∧
      t.LaneIs i.cl k { l.tick with fl := ⟨decide ((f l.tick).1 = (f l.tick).2), decide ((f l.tick).1 < (f l.tick).2), false⟩ } := by
  obtain ⟨t, issues, issued, left⟩ := lanes_after s i
    (fun _ _ l => ({ l with fl := ⟨decide ((f l).1 = (f l).2), decide ((f l).1 < (f l).2), false⟩ }, {})) k l atInstr residueOk lane
  rw [Sticky.or_none] at left
  exact ⟨t, issues, issued, left⟩

/-- Settles O11: words are equal where they are as numbers. -/
theorem comparesSetFlagsOnly : Obligations.ComparesSetFlagsOnly := by
  unfold Obligations.ComparesSetFlagsOnly
  intro s i da db k imm l atInstr residueOk lane p listed
  have ⟨f, issues, value⟩ : ∃ f : Lane → Int × Int, exec p.1 s = issueCI i (cmpOp f) s ∧ f l.tick = ((l.sees da).toInt, p.2.toInt) := by
    simp only [List.mem_cons, List.not_mem_nil, or_false] at listed
    rcases listed with rfl | rfl
    · exact ⟨_, rfl, rfl⟩
    · exact ⟨_, rfl, rfl⟩
  obtain ⟨t, runs, issued, left⟩ := cmpOp_after s i k l f atInstr residueOk lane
  rw [value] at left
  exact ⟨t, _, issues.trans runs, issued, left, by simp only [BitVec.toInt_inj], fun r => sees_congr rfl rfl r, rfl, rfl, rfl, rfl⟩

end Sys2Proof.Machine
end

section
/-! PROOF. Rules of the clusters that the statements on chapter 05 share: shared registers, what ageing and the loop control leave, and the state
after an instruction that issues once. -/

namespace Sys2Proof.Machine

/-! ### Shared registers (R144, R148) -/

theorem shared_setShared_same (c : Cluster) (code v : Nat) : (c.setShared code v).shared code = v % 2 ^ shWidth code := tget_tset_same _ _ _ _

theorem shared_setShared_other (c : Cluster) {code n : Nat} (v : Nat) (h : n ≠ code) : (c.setShared code v).shared n = c.shared n :=
  tget_tset_other _ _ _ _ _ h

/-- A value that a shared register can hold is held as it is. -/
theorem shared_setShared_fits (c : Cluster) {code v : Nat} (h : v < 2 ^ shWidth code) : (c.setShared code v).shared code = v :=
  (shared_setShared_same c code v).trans (Nat.mod_eq_of_lt h)

/-! ### Outside a handler (R166) -/

/-- Outside a handler every D register may be written. -/
theorem mayD_main {c : Cluster} (main : c.handler = false) (r : Nat) : c.mayD r = true := by
  simp [Cluster.mayD, main]

/-- Outside a handler every pointer may be written. -/
theorem mayP_main {c : Cluster} (main : c.handler = false) (n : Nat) : c.mayP n = true := by
  simp [Cluster.mayP, main]

/-! ### What ageing and the loop control leave (R118, R162) -/

/-- The second cluster differs from the first in its shared registers and loops at most. -/
def Cluster.LoopsOnly (a b : Cluster) : Prop := ∃ sh act stack outer written flight,
  b = { a with sh := sh, loopActive := act, loopStack := stack, ikOuter := outer, ikWritten := written, sharedFlight := flight }

theorem Cluster.LoopsOnly.refl (a : Cluster) : a.LoopsOnly a := ⟨_, _, _, _, _, _, rfl⟩

theorem Cluster.LoopsOnly.trans {a b c : Cluster} (h : a.LoopsOnly b) (k : b.LoopsOnly c) : a.LoopsOnly c := by
  obtain ⟨_, _, _, _, _, _, rfl⟩ := h
  obtain ⟨_, _, _, _, _, _, rfl⟩ := k
  exact ⟨_, _, _, _, _, _, rfl⟩

/-- What a change of shared registers and loops does not touch stays. -/
theorem Cluster.LoopsOnly.field {a b : Cluster} (h : a.LoopsOnly b) {α : Type} (f : Cluster → α)
    (apart : ∀ sh act stack outer written flight, f { a with
      sh := sh, loopActive := act, loopStack := stack, ikOuter := outer, ikWritten := written, sharedFlight := flight } = f a) : f b = f a := by
  obtain ⟨_, _, _, _, _, _, rfl⟩ := h
  exact apart ..

theorem setShared_loops (c : Cluster) (code v : Nat) : c.LoopsOnly (c.setShared code v) := ⟨_, _, _, _, _, _, rfl⟩

theorem loopWritten_loops (c : Cluster) (code : Nat) : c.LoopsOnly (c.loopWritten code) := by
  unfold Cluster.loopWritten
  split
  · exact .refl c
  · dsimp only
    split <;> exact ⟨_, _, _, _, _, _, rfl⟩

theorem landShared_loops (l : List SharedFlight) (c : Cluster) : c.LoopsOnly (landShared l c) := by
  induction l generalizing c with
  | nil => exact ⟨_, _, _, _, _, _, rfl⟩
  | cons e t ih =>
    unfold landShared
    split
    · exact ((setShared_loops c _ _).trans (loopWritten_loops _ _)).trans (ih _)
    · exact (ih c).trans ⟨_, _, _, _, _, _, rfl⟩

theorem landAll_loops (l : List SharedFlight) (c : Cluster) : c.LoopsOnly (landAll l c) := by
  induction l generalizing c with
  | nil => exact .refl c
  | cons e t ih => exact ((setShared_loops c _ _).trans (loopWritten_loops _ _)).trans (ih _)

theorem loopState_loops (c : Cluster) (act : Bool) (stack : List LoopFrame) : c.LoopsOnly { c with loopActive := act, loopStack := stack } :=
  ⟨_, _, _, _, _, _, rfl⟩

theorem popLoop_loops (c : Cluster) : c.LoopsOnly c.popLoop := by
  unfold Cluster.popLoop
  split
  · exact ⟨_, _, _, _, _, _, rfl⟩
  · split
    · exact loopState_loops c _ _
    · split
      · exact loopState_loops c _ _
      · exact (((setShared_loops c _ _).trans (setShared_loops _ _ _)).trans (setShared_loops _ _ _)).trans (loopState_loops _ _ _)

/-- One instruction later the lanes are older, and shared registers in flight may have landed. -/
theorem ageAll_loops (c : Cluster) :
    Cluster.LoopsOnly { c with lanes := mapBelow (fun _ l => l.tick) c.laneCount 0 c.lanes } c.ageAll := landShared_loops _ _

section
variable (c : Cluster)

@[simp] theorem ageAll_ik : c.ageAll.ik = c.ik := (ageAll_loops c).field (·.ik) fun _ _ _ _ _ _ => rfl
@[simp] theorem ageAll_img : c.ageAll.img = c.img := (ageAll_loops c).field (·.img) fun _ _ _ _ _ _ => rfl
@[simp] theorem ageAll_cmem : c.ageAll.cmem = c.cmem := (ageAll_loops c).field (·.cmem) fun _ _ _ _ _ _ => rfl
@[simp] theorem ageAll_imem : c.ageAll.imem = c.imem := (ageAll_loops c).field (·.imem) fun _ _ _ _ _ _ => rfl
@[simp] theorem ageAll_pc : c.ageAll.pc = c.pc := (ageAll_loops c).field (·.pc) fun _ _ _ _ _ _ => rfl
@[simp] theorem ageAll_issued : c.ageAll.issued = c.issued := (ageAll_loops c).field (·.issued) fun _ _ _ _ _ _ => rfl
@[simp] theorem ageAll_after : c.ageAll.after = c.after := (ageAll_loops c).field (·.after) fun _ _ _ _ _ _ => rfl
@[simp] theorem ageAll_slots : c.ageAll.slots = c.slots := (ageAll_loops c).field (·.slots) fun _ _ _ _ _ _ => rfl
@[simp] theorem ageAll_ended : c.ageAll.ended = c.ended := (ageAll_loops c).field (·.ended) fun _ _ _ _ _ _ => rfl
@[simp] theorem ageAll_mask : c.ageAll.mask = c.mask := (ageAll_loops c).field (·.mask) fun _ _ _ _ _ _ => rfl
@[simp] theorem ageAll_pend : c.ageAll.pend = c.pend := (ageAll_loops c).field (·.pend) fun _ _ _ _ _ _ => rfl
@[simp] theorem ageAll_handler : c.ageAll.handler = c.handler := (ageAll_loops c).field (·.handler) fun _ _ _ _ _ _ => rfl
@[simp] theorem ageAll_saved : c.ageAll.saved = c.saved := (ageAll_loops c).field (·.saved) fun _ _ _ _ _ _ => rfl
@[simp] theorem ageAll_peak : c.ageAll.peak = c.peak := (ageAll_loops c).field (·.peak) fun _ _ _ _ _ _ => rfl
@[simp] theorem ageAll_hostOvg : c.ageAll.hostOvg = c.hostOvg := (ageAll_loops c).field (·.hostOvg) fun _ _ _ _ _ _ => rfl
@[simp] theorem ageAll_resD : c.ageAll.resD = c.resD := (ageAll_loops c).field (·.resD) fun _ _ _ _ _ _ => rfl
@[simp] theorem ageAll_laneCount : c.ageAll.laneCount = c.laneCount := (ageAll_loops c).field (·.laneCount) fun _ _ _ _ _ _ => rfl

end

/-- A cluster past an instruction (R162), before what may follow its delay slots. -/
def Cluster.past (c : Cluster) : Cluster := { c.seqNext with issued := c.issued + 1, afterReti := c.afterReti && c.handler }

theorem seqNext_loops (c : Cluster) : Cluster.LoopsOnly { c with pc := c.seqNext.pc } c.seqNext := by
  unfold Cluster.seqNext
  split
  · split
    · exact ⟨_, _, _, _, _, _, rfl⟩
    · obtain ⟨_, _, _, _, _, _, e⟩ := popLoop_loops c
      rw [e]
      exact ⟨_, _, _, _, _, _, rfl⟩
  · exact .refl _

theorem past_loops (c : Cluster) :
    Cluster.LoopsOnly { c with pc := c.seqNext.pc, issued := c.issued + 1, afterReti := c.afterReti && c.handler } c.past := by
  obtain ⟨_, _, _, _, _, _, e⟩ := seqNext_loops c
  unfold Cluster.past
  rw [e]
  exact ⟨_, _, _, _, _, _, rfl⟩

section
variable (c : Cluster)

@[simp] theorem past_lanes : c.past.lanes = c.lanes := (past_loops c).field (·.lanes) fun _ _ _ _ _ _ => rfl
@[simp] theorem past_cmem : c.past.cmem = c.cmem := (past_loops c).field (·.cmem) fun _ _ _ _ _ _ => rfl
@[simp] theorem past_imem : c.past.imem = c.imem := (past_loops c).field (·.imem) fun _ _ _ _ _ _ => rfl
@[simp] theorem past_after : c.past.after = c.after := (past_loops c).field (·.after) fun _ _ _ _ _ _ => rfl
@[simp] theorem past_slots : c.past.slots = c.slots := (past_loops c).field (·.slots) fun _ _ _ _ _ _ => rfl
@[simp] theorem past_rpt : c.past.rpt = c.rpt := (past_loops c).field (·.rpt) fun _ _ _ _ _ _ => rfl
@[simp] theorem past_ended : c.past.ended = c.ended := (past_loops c).field (·.ended) fun _ _ _ _ _ _ => rfl
@[simp] theorem past_mask : c.past.mask = c.mask := (past_loops c).field (·.mask) fun _ _ _ _ _ _ => rfl
@[simp] theorem past_pend : c.past.pend = c.pend := (past_loops c).field (·.pend) fun _ _ _ _ _ _ => rfl
@[simp] theorem past_handler : c.past.handler = c.handler := (past_loops c).field (·.handler) fun _ _ _ _ _ _ => rfl
@[simp] theorem past_saved : c.past.saved = c.saved := (past_loops c).field (·.saved) fun _ _ _ _ _ _ => rfl
@[simp] theorem past_cycles : c.past.cycles = c.cycles := (past_loops c).field (·.cycles) fun _ _ _ _ _ _ => rfl
@[simp] theorem past_peak : c.past.peak = c.peak := (past_loops c).field (·.peak) fun _ _ _ _ _ _ => rfl
@[simp] theorem past_hostOvg : c.past.hostOvg = c.hostOvg := (past_loops c).field (·.hostOvg) fun _ _ _ _ _ _ => rfl
@[simp] theorem past_resD : c.past.resD = c.resD := (past_loops c).field (·.resD) fun _ _ _ _ _ _ => rfl
@[simp] theorem past_laneCount : c.past.laneCount = c.laneCount := (past_loops c).field (·.laneCount) fun _ _ _ _ _ _ => rfl

end

/-- Without an active loop the next instruction follows. -/
theorem past_of_no_loop {c : Cluster} (h : c.loopActive = false) :
    c.past = { c with pc := c.pc + 1, issued := c.issued + 1, afterReti := c.afterReti && c.handler } := by
  unfold Cluster.past Cluster.seqNext
  rw [if_neg (by simp [h])]

theorem popLoop_shared (c : Cluster) {code : Nat} (h : code < 0x48 ∨ 0x4A < code) : c.popLoop.shared code = c.shared code := by
  unfold Cluster.popLoop
  split
  · rfl
  · split
    · rfl
    · split
      · rfl
      · rename_i f _ _
        show (((c.setShared 0x48 f.lc).setShared 0x49 f.ls).setShared 0x4A f.le).shared code = _
        rw [shared_setShared_other _ _ (by omega), shared_setShared_other _ _ (by omega), shared_setShared_other _ _ (by omega)]

/-- The loop control writes no shared register but LC, LS and LE. -/
theorem past_shared (c : Cluster) {code : Nat} (h : code < 0x48 ∨ 0x4A < code) : c.past.shared code = c.shared code := by
  show c.seqNext.shared code = _
  unfold Cluster.seqNext
  split
  · split
    · exact shared_setShared_other c _ (by omega)
    · exact popLoop_shared c h
  · rfl

/-! ### Delay slots (R151) -/

/-- What follows the last delay slot. -/
def Cluster.slotsOver (c : Cluster) : AfterSlots → Cluster
  | .target t => { c with after := none, slots := 0, pc := t }
  | .fall => { c with after := none, slots := 0 }
  | .ends => { c with after := none, slots := 0, ended := true, stepping := false }
  | .reti => Cluster.restore { c with after := none, slots := 0 }

/-- A cluster whose instruction has issued: what follows it waits for the delay slots to come. -/
def Cluster.overSlots (c : Cluster) : Cluster :=
  match c.after with
  | none => c
  | some a => if 1 < c.slots then { c with slots := c.slots - 1 } else c.slotsOver a

theorem advance_eq (c : Cluster) : c.advance = c.past.overSlots := rfl

theorem overSlots_of_none {c : Cluster} (h : c.after = none) : c.overSlots = c := by
  unfold Cluster.overSlots
  split
  · rfl
  · rename_i e
    cases h.symm.trans e

theorem overSlots_of_some {c : Cluster} {a : AfterSlots} (h : c.after = some a) :
    c.overSlots = if 1 < c.slots then { c with slots := c.slots - 1 } else c.slotsOver a := by
  unfold Cluster.overSlots
  split
  · rename_i e
    cases h.symm.trans e
  · rename_i b e
    cases h.symm.trans e
    rfl

theorem advance_of_no_slots {c : Cluster} (h : c.after = none) : c.advance = c.past :=
  overSlots_of_none ((past_after c).trans h)

theorem advance_of_slots {c : Cluster} {a : AfterSlots} (h : c.after = some a) (more : 1 < c.slots) :
    c.advance = { c.past with slots := c.slots - 1 } := by
  rw [advance_eq, overSlots_of_some ((past_after c).trans h), past_slots]
  exact if_pos more

theorem advance_of_last_slot {c : Cluster} {a : AfterSlots} (h : c.after = some a) (last : c.slots ≤ 1) : c.advance = c.past.slotsOver a := by
  rw [advance_eq, overSlots_of_some ((past_after c).trans h), past_slots]
  exact if_neg (Nat.not_lt.2 last)

/-! ### The state after an instruction that issues once -/

/-- The cluster as the effect of an instruction that issues once finds it: nothing repeats it any more. -/
def State.issuing (s : State) (cl : Nat) : Cluster := { s.aged cl with rpt := 0 }

theorem issueOnce_issuing (s : State) (cl : Nat) (f : Cluster → Cluster) : Cluster.issueOnce f (s.cluster cl) = (f (s.issuing cl)).advance := by
  unfold Cluster.issueOnce Cluster.issue1 State.issuing State.aged
  rw [ageAll_rpt]

theorem issue_issuing {s : State} {cl : Nat} (once : (s.cluster cl).rpt ≤ 1) (f : Cluster → Cluster) :
    Cluster.issue f (s.cluster cl) = (f (s.issuing cl)).advance := by
  rw [issue_once f _ once]
  exact issueOnce_issuing s cl f

@[simp] theorem issuing_laneCount (s : State) (cl : Nat) : (s.issuing cl).laneCount = (s.cluster cl).laneCount := ageAll_laneCount _

@[simp] theorem issuing_handler (s : State) (cl : Nat) : (s.issuing cl).handler = (s.cluster cl).handler := ageAll_handler _

@[simp] theorem issuing_img (s : State) (cl : Nat) : (s.issuing cl).img = (s.cluster cl).img := ageAll_img _

@[simp] theorem issuing_after (s : State) (cl : Nat) : (s.issuing cl).after = (s.cluster cl).after := ageAll_after _

@[simp] theorem issuing_slots (s : State) (cl : Nat) : (s.issuing cl).slots = (s.cluster cl).slots := ageAll_slots _

@[simp] theorem issuing_ended (s : State) (cl : Nat) : (s.issuing cl).ended = (s.cluster cl).ended := ageAll_ended _

theorem issuing_lane {s : State} {cl k : Nat} {l : Lane} (lane : s.LaneIs cl k l) : (s.issuing cl).lanes[k]? = some l.tick :=
  ageAll_get _ k l lane.1 lane.2

/-- An issue that ends no step changes its cluster and nothing else. -/
theorem issueIn_next {s : State} {cl : Nat} {f : Cluster → Cluster} {c : Cluster} (left : f (s.cluster cl) = c)
    (noEnd : c.ended = true → (s.cluster cl).ended = true) :
    OnlyCluster s (s.quiet.issueIn cl f) cl ∧ (s.quiet.issueIn cl f).cluster cl = c := by
  have e : (s.quiet.setCluster cl f).cluster cl = c := (State.cluster_setCluster_same _ _ _).trans left
  have stays : s.quiet.issueIn cl f = s.quiet.setCluster cl f := by
    unfold State.issueIn
    refine if_neg ?_
    rw [e]
    show ¬(c.ended && !(s.cluster cl).ended) = true
    simpa using noEnd
  rw [stays]
  exact ⟨onlyCluster_setCluster s cl f, e⟩

/-- A control or move instruction that ends no step. -/
theorem issueCtl_next {s : State} {cl : Nat} {f : Cluster → Cluster} {c : Cluster} (left : (f (s.issuing cl)).advance = c)
    (noEnd : c.ended = true → (s.cluster cl).ended = true) : ∃ t, issueCtl cl f s = .next t ∧ OnlyCluster s t cl ∧ t.cluster cl = c :=
  ⟨_, rfl, issueIn_next ((issueOnce_issuing s cl f).trans left) noEnd⟩

/-- What an effect that transfers no control leaves of its cluster. -/
structure Cluster.StaysIn (a b : Cluster) : Prop where
  cmem : b.cmem = a.cmem
  imem : b.imem = a.imem
  handler : b.handler = a.handler
  pc : b.pc = a.pc
  loopActive : b.loopActive = a.loopActive

/-- A cluster whose instruction has issued, and no more than the count of its delay slots changed besides. -/
theorem OnlyCluster.issuedIn {s t : State} {cl n : Nat} {b : Cluster} (only : OnlyCluster s t cl) (stays : (s.issuing cl).StaysIn b)
    (left : t.cluster cl = { b.past with slots := n }) : IssuedIn s t cl := by
  refine ⟨only.1, only.2, ?_, ?_, ?_, fun idle => ?_⟩
  · rw [left]
    exact (past_cmem b).trans (stays.cmem.trans (ageAll_cmem _))
  · rw [left]
    exact (past_imem b).trans (stays.imem.trans (ageAll_imem _))
  · rw [left]
    exact (past_handler b).trans (stays.handler.trans (ageAll_handler _))
  · rw [left, past_of_no_loop (stays.loopActive.trans idle)]
    exact congrArg (· + 1) (stays.pc.trans (ageAll_pc _))

theorem Cluster.Straight.staysIn {f : Cluster → Cluster} (hf : Cluster.Straight f) (c : Cluster) : c.StaysIn (f c) :=
  ⟨hf.cmem c, hf.imem c, hf.handler c, hf.pc c, hf.loopActive c⟩

/-- An effect that is no control transfer, in a cluster that runs no delay slots. -/
theorem issueIn_straight {s : State} {cl : Nat} {f F : Cluster → Cluster} (hf : Cluster.Straight f) (noSlots : (s.cluster cl).after = none)
    (issued : F (s.cluster cl) = (f (s.issuing cl)).advance) :
    IssuedIn s (s.quiet.issueIn cl F) cl ∧ (s.quiet.issueIn cl F).cluster cl = (f (s.issuing cl)).past := by
  have past := advance_of_no_slots ((hf.after (s.issuing cl)).trans ((issuing_after s cl).trans noSlots))
  obtain ⟨only, left⟩ := issueIn_next (issued.trans past) (by rw [past_ended, hf.ended, issuing_ended]; exact fun h => h)
  exact ⟨only.issuedIn (n := (f (s.issuing cl)).past.slots) (hf.staysIn _) left, left⟩

theorem issueCI_straight {s : State} {i : CI} {f : Cluster → Cluster} (hf : Cluster.Straight f) (atInstr : s.AtInstr i.cl) (residueOk : i.residue = .ok) :
    ∃ t, issueCI i f s = .next t ∧ IssuedIn s t i.cl ∧ t.cluster i.cl = (f (s.issuing i.cl)).past := by
  have checked : (s.quiet.issueIn i.cl (Cluster.issue f)).residue i = s.quiet.issueIn i.cl (Cluster.issue f) := by
    unfold State.residue
    rw [residueOk]
  exact ⟨_, congrArg Host.Outcome.next checked, issueIn_straight hf atInstr.2 (issue_issuing atInstr.1 f)⟩

theorem issueRep_straight {s : State} {cl : Nat} {f : Cluster → Cluster} (hf : Cluster.Straight f) (atInstr : s.AtInstr cl) :
    ∃ t, issueRep cl f s = .next t ∧ IssuedIn s t cl ∧ t.cluster cl = (f (s.issuing cl)).past :=
  ⟨_, rfl, issueIn_straight hf atInstr.2 (issue_issuing atInstr.1 f)⟩

theorem issueCtl_straight {s : State} {cl : Nat} {f : Cluster → Cluster} (hf : Cluster.Straight f) (noSlots : (s.cluster cl).after = none) :
    ∃ t, issueCtl cl f s = .next t ∧ IssuedIn s t cl ∧ t.cluster cl = (f (s.issuing cl)).past :=
  ⟨_, rfl, issueIn_straight hf noSlots (issueOnce_issuing s cl f)⟩

/-- The lane that a straight effect leaves is the lane after the instruction. -/
theorem laneIs_past {s t : State} {cl k : Nat} {l l' : Lane} {f : Cluster → Cluster} (lane : s.LaneIs cl k l) (hf : Cluster.Straight f)
    (left : t.cluster cl = (f (s.issuing cl)).past) (get : (f (s.issuing cl)).lanes[k]? = some l') : t.LaneIs cl k l' := by
  have count : (f (s.issuing cl)).laneCount = (s.cluster cl).laneCount := by
    unfold Cluster.laneCount
    rw [hf.ik]
    exact issuing_laneCount s cl
  unfold State.LaneIs
  rw [left, past_laneCount, count, past_lanes]
  exact ⟨lane.1, get⟩

end Sys2Proof.Machine
end

section
/-! PROOF. Lane services and searches (R157, R159): LID, RDFLG, CLRFLG, RND, MAXI, MINI, RMAX and RMIN: O12 and O13. -/

namespace Sys2Proof.Machine

/-! ### Lane services (R159) -/

theorem word_of_flags (f : Sticky) :
    f.word = (if f.ovg then 1 else 0) + (if f.sat then 2 else 0) + (if f.circ then 4 else 0) + if f.addr then 8 else 0 := by
  obtain ⟨ovg, sat, circ, addr⟩ := f
  cases ovg <;> cases sat <;> cases circ <;> cases addr <;> rfl

theorem clear_eq (f : Sticky) (m : Nat) :
    f.clear m = ⟨f.ovg && !m.testBit 0, f.sat && !m.testBit 1, f.circ && !m.testBit 2, f.addr && !m.testBit 3⟩ := by
  simp only [Sticky.clear, bitAt_eq_testBit]

theorem laneMask_none (p : Sticky → Bool) (none : p {} = false) {l : List Sticky} (i : Nat) (h : ∀ f ∈ l, f = {}) : laneMask p i l = 0 := by
  induction l generalizing i with
  | nil => rfl
  | cons f t ih =>
    obtain ⟨rfl, rest⟩ := List.forall_mem_cons.1 h
    simp [laneMask, none, ih (i + 1) rest]

/-- An operation that raises no flag in any lane leaves the host copies (R119). -/
theorem onLanes_hostOvg {f : Nat → Lane → Lane × Sticky} (quiet : ∀ n l, (f n l).2 = {}) (c : Cluster) : (c.onLanes f).hostOvg = c.hostOvg := by
  show c.hostOvg ||| w32 (laneMask (·.ovg) 0 _) = c.hostOvg
  rw [laneMask_none _ rfl]
  · exact BitVec.or_zero
  · have raised := mapBelow_all (fun p : Lane × Sticky => p.2 = {}) (fun i p => f i p.1) c.laneCount 0
      (l := c.lanes.map fun l => (l, ({} : Sticky))) (List.forall_mem_map.2 fun _ _ => rfl) fun n p _ => quiet n p.1
    exact List.forall_mem_map.2 raised

/-- The noise state is no part of what a move into D changes. -/
theorem Lane.Took.withNoise {l' l : Lane} {c : Cluster} {dd : Nat} {late : Bool} {v : Word} (h : l'.Took c l dd late v) (x : BitVec 64) :
    Lane.Took { l' with noise := x } c l dd late v :=
  ⟨h.value, h.flags, h.others, h.acc, h.lmem⟩

/-- RND of a lane (R159): in a handler it reads 0 and the generator stays (R166). -/
theorem rndOp_after (s : State) (i : CI) (dd k : Nat) (l : Lane) (atInstr : s.AtInstr i.cl) (residueOk : i.residue = .ok) (lane : s.LaneIs i.cl k l) :
    ∃ t l', issueCI i (rndOp dd) s = .next t ∧ IssuedIn s t i.cl ∧ t.LaneIs i.cl k l' ∧
      l'.Took (s.cluster i.cl) l dd true (if (s.cluster i.cl).handler then 0 else (noiseNext l.noise).extractLsb' 32 32) ∧
      l'.noise = if (s.cluster i.cl).handler then l.noise else noiseNext l.noise := by
  obtain ⟨t, issues, issued, left⟩ := lanes_after s i
    (fun c _ l => if c.handler then (if c.mayD dd then l.put dd 0 true else l, {})
      else ({ l with noise := noiseNext l.noise }.put dd ((noiseNext l.noise).extractLsb' 32 32) true, {})) k l atInstr residueOk lane
  refine ⟨t, _, issues, issued, left, ?_⟩
  rw [ageAll_handler, mayD_age]
  by_cases inHandler : (s.cluster i.cl).handler = true
  · simp only [if_pos inHandler]
    refine ⟨took_put _ _ _ _ _ _ _ rfl, ?_⟩
    split <;> rfl
  · simp only [if_neg inHandler]
    have put := took_put (s.cluster i.cl) l _ dd true ((noiseNext l.noise).extractLsb' 32 32) (l.tick.st.or {}) rfl
    rw [if_pos (by simp [inHandler])] at put
    exact ⟨put.withNoise (noiseNext l.noise), rfl⟩

/-- Settles O12: LID and RDFLG move a value into D, CLRFLG changes sticky flags only, RND draws unless a handler runs. -/
theorem laneServicesDeliver : Obligations.LaneServicesDeliver := by
  unfold Obligations.LaneServicesDeliver
  intro s i dd k m l atInstr residueOk lane
  refine ⟨putOp_after s i dd k false (fun n _ => w32 n) l atInstr residueOk lane, ?_, ?_, fun native => ?_⟩
  · rw [← word_of_flags]
    exact putOp_after s i dd k true (fun _ l => w32 l.st.word) l atInstr residueOk lane
  · have straight := Cluster.Straight.onLanes fun _ _ l => ({ l with st := l.st.clear m }, {})
    obtain ⟨t, issues, issued, left⟩ := issueCI_straight straight atInstr residueOk
    have get := onLanes_get (fun _ l => ({ l with st := l.st.clear m }, {})) _ k _
      (by rw [issuing_laneCount]; exact lane.1) (issuing_lane lane)
    rw [Sticky.or_none] at get
    refine ⟨t, _, issues, issued, laneIs_past lane straight left get, clear_eq l.st m, fun r => sees_congr rfl rfl r, rfl, ⟨rfl, rfl, rfl⟩, ?_⟩
    rw [left, past_hostOvg, onLanes_hostOvg fun _ _ => rfl]
    exact ageAll_hostOvg _
  · obtain ⟨t, l', issues, delivered⟩ := rndOp_after s i dd k l atInstr residueOk lane
    exact ⟨t, l', (nativeCI_native native _).trans issues, delivered⟩

/-! ### Searches over pairs (R157) -/

/-- A lane with a pair written into Dd and Dd + 1. -/
theorem sees_pair (l : Lane) (dd r : Nat) (v i : Word) :
    ((l.put dd v false).put (dd + 1) i false).sees r = if r = dd + 1 then i else if r = dd then v else l.sees r := by
  simp only [sees_put, and_true]

theorem Cluster.Straight.searchOp (dd da db : Nat) (better : Int → Int → Bool) : Cluster.Straight (searchOp dd da db better) :=
  ⟨fun _ => rfl, fun _ => rfl, fun _ => rfl, fun _ => rfl, fun _ => rfl, fun _ => rfl, fun _ => rfl, fun _ => rfl⟩

theorem searchOp_get {c : Cluster} {k dd da db : Nat} {better : Int → Int → Bool} {l : Lane} {p : Word × Word} (main : c.handler = false)
    (below : k < c.laneCount) (get : c.lanes[k]? = some l)
    (step : searchStep better (l.operand dd) (l.operand (dd + 1)) (l.operand da) (l.operand db) = p) :
    (searchOp dd da db better c).lanes[k]? = some ((l.put dd p.1 false).put (dd + 1) p.2 false) := by
  refine (onLanes_get _ c k l below get).trans ?_
  rw [mayD_main main, mayD_main main, step]
  simp [Sticky.or_none]

/-- MAXI and MINI: the pair of the better value, by a test of what is better. -/
theorem searchOp_after (s : State) (i : CI) (dd da db k : Nat) (better : Int → Int → Bool) (l : Lane) (atInstr : s.AtInstr i.cl)
    (residueOk : i.residue = .ok) (lane : s.LaneIs i.cl k l) (main : (s.cluster i.cl).handler = false) :
    let takes := better (l.sees da).toInt (l.sees dd).toInt || (decide (l.sees da = l.sees dd) && decide ((l.sees db).toInt < (l.sees (dd + 1)).toInt))
    ∃ t l', issueCI i (searchOp dd da db better) s = .next t ∧ IssuedIn s t i.cl ∧ t.LaneIs i.cl k l' ∧
      l'.sees dd = (if takes then l.sees da else l.sees dd) ∧ l'.sees (dd + 1) = (if takes then l.sees db else l.sees (dd + 1)) ∧
      (∀ r, r ≠ dd → r ≠ dd + 1 → l'.sees r = l.tick.sees r) ∧ l'.fl = l.fl ∧ l'.st = l.st ∧ l.KeepsRest l' := by
  intro takes
  have step : searchStep better (l.sees dd) (l.sees (dd + 1)) (l.sees da) (l.sees db) =
      if takes then (l.sees da, l.sees db) else (l.sees dd, l.sees (dd + 1)) := by
    unfold searchStep
    exact if_congr (by simp [takes]) rfl rfl
  obtain ⟨t, issues, issued, left⟩ := issueCI_straight (Cluster.Straight.searchOp dd da db better) atInstr residueOk
  have get := searchOp_get ((issuing_handler s i.cl).trans main) (by rw [issuing_laneCount]; exact lane.1) (issuing_lane lane) step
  refine ⟨t, _, issues, issued, laneIs_past lane (Cluster.Straight.searchOp dd da db better) left get, ?_, ?_, fun r one two => ?_,
    rfl, rfl, rfl, rfl, rfl⟩
  · rw [sees_pair, if_neg (by omega), if_pos rfl]
    split <;> rfl
  · rw [sees_pair, if_pos rfl]
    split <;> rfl
  · rw [sees_pair, if_neg two, if_neg one]

/-! ### Searches over the lanes (R157) -/

/-- A word and its position are the best of a list: no key is greater, and every earlier one is less. -/
def BestOf (key : Int → Int) (ws : List Word) (b : Word × Nat) : Prop :=
  ws[b.2]? = some b.1 ∧ ∀ n x, ws[n]? = some x → key x.toInt ≤ key b.1.toInt ∧ (n < b.2 → key x.toInt < key b.1.toInt)

/-- One more word: it is the best where its key is greater. -/
theorem BestOf.snoc {key : Int → Int} {ws : List Word} {b : Word × Nat} (h : BestOf key ws b) (x : Word) :
    BestOf key (ws ++ [x]) (if key b.1.toInt < key x.toInt then (x, ws.length) else b) := by
  obtain ⟨held, best⟩ := h
  have inside := (List.getElem?_eq_some_iff.1 held).1
  have parts (n : Nat) (y : Word) (e : (ws ++ [x])[n]? = some y) : ws[n]? = some y ∧ n < ws.length ∨ n = ws.length ∧ y = x := by
    rcases Nat.lt_trichotomy n ws.length with lt | rfl | gt
    · exact .inl ⟨(List.getElem?_append_left lt).symm.trans e, lt⟩
    · rw [List.getElem?_concat_length] at e
      exact .inr ⟨rfl, (Option.some.inj e).symm⟩
    · rw [List.getElem?_eq_none (by simp; omega)] at e
      cases e
  split
  · refine ⟨List.getElem?_concat_length .., fun n y e => ?_⟩
    rcases parts n y e with ⟨e, lt⟩ | ⟨rfl, rfl⟩
    · have := (best n y e).1
      exact ⟨by dsimp only; omega, fun _ => by dsimp only; omega⟩
    · exact ⟨le_refl _, fun lt => absurd lt (lt_irrefl _)⟩
  · refine ⟨(List.getElem?_append_left inside).trans held, fun n y e => ?_⟩
    rcases parts n y e with ⟨e, -⟩ | ⟨rfl, rfl⟩
    · exact best n y e
    · exact ⟨by omega, fun lt => by omega⟩

/-- A reduction over the lanes finds the best word and the lowest lane that holds it. -/
theorem bestLane_best {key : Int → Int} {better : Int → Int → Bool} (test : ∀ x y, better x y = decide (key y < key x)) {pre : List Word}
    {b : Word × Nat} (h : BestOf key pre b) (rest : List Word) : BestOf key (pre ++ rest) (bestLane better pre.length b rest) := by
  induction rest generalizing pre b with
  | nil => rwa [List.append_nil]
  | cons x t ih =>
    have next := ih (h.snoc x)
    rw [List.append_assoc, List.length_append] at next
    rw [bestLane, test]
    simpa using next

/-- What the executing lanes hold as an operand of the instruction. -/
def Cluster.operands (c : Cluster) (da : Nat) : List Word := (c.lanes.take c.laneCount).map fun l => l.operand da

/-- What RMAX and RMIN find: the best operand and its lane. -/
def Cluster.bestOperand (c : Cluster) (better : Int → Int → Bool) (da : Nat) : Word × Nat :=
  bestLane better 1 (at? 0 (c.operands da) 0, 0) ((c.operands da).drop 1)

theorem reduceOp_eq (dd da : Nat) (better : Int → Int → Bool) (c : Cluster) : reduceOp dd da better c =
    putOp (dd + 1) false (fun _ _ => w32 (c.bestOperand better da).2) (putOp dd false (fun _ _ => (c.bestOperand better da).1) c) := rfl

theorem issuing_operands_get {s : State} {cl n da : Nat} {x : Word} :
    ((s.issuing cl).operands da)[n]? = some x ↔ ∃ l, s.LaneIs cl n l ∧ l.sees da = x := by
  have lanes : (s.issuing cl).lanes = mapBelow (fun _ l => l.tick) (s.cluster cl).laneCount 0 (s.cluster cl).lanes := (ageAll_same _).lanes
  unfold Cluster.operands
  rw [List.getElem?_map, List.getElem?_take, issuing_laneCount, lanes, mapBelow_get]
  by_cases below : n < (s.cluster cl).laneCount
  · simp [State.LaneIs, below, Lane.sees]
  · simp [State.LaneIs, below]

/-- The operand found is the best over the executing lanes, of which there is one. -/
theorem bestOperand_best {s : State} {cl k : Nat} {l : Lane} (lane : s.LaneIs cl k l) {key : Int → Int} {better : Int → Int → Bool}
    (test : ∀ x y, better x y = decide (key y < key x)) (da : Nat) :
    BestOf key ((s.issuing cl).operands da) ((s.issuing cl).bestOperand better da) := by
  have held : ((s.issuing cl).operands da)[k]? = some (l.sees da) := issuing_operands_get.2 ⟨l, lane, rfl⟩
  unfold Cluster.bestOperand
  generalize (s.issuing cl).operands da = ws at held
  cases ws with
  | nil => simp at held
  | cons w t =>
    refine bestLane_best (pre := [w]) test ⟨rfl, fun n x e => ?_⟩ t
    obtain ⟨rfl, rfl⟩ : n = 0 ∧ w = x := by
      cases n with
      | zero => exact ⟨rfl, Option.some.inj e⟩
      | succ n => simp at e
    exact ⟨le_refl _, fun lt => absurd lt (lt_irrefl _)⟩

theorem Cluster.Straight.reduceOp (dd da : Nat) (better : Int → Int → Bool) : Cluster.Straight (reduceOp dd da better) :=
  ⟨fun _ => rfl, fun _ => rfl, fun _ => rfl, fun _ => rfl, fun _ => rfl, fun _ => rfl, fun _ => rfl, fun _ => rfl⟩

theorem putOp_get {c : Cluster} {k dd : Nat} {l : Lane} (main : c.handler = false) (below : k < c.laneCount) (get : c.lanes[k]? = some l) (late : Bool)
    (f : Nat → Lane → Word) : (putOp dd late f c).lanes[k]? = some (l.put dd (f k l) late) := by
  refine (onLanes_get _ c k l below get).trans ?_
  rw [mayD_main main]
  simp [Sticky.or_none]

theorem reduceOp_get {c : Cluster} {k : Nat} {l : Lane} (main : c.handler = false) (below : k < c.laneCount) (get : c.lanes[k]? = some l)
    (dd da : Nat) (better : Int → Int → Bool) : (reduceOp dd da better c).lanes[k]? =
      some ((l.put dd (c.bestOperand better da).1 false).put (dd + 1) (w32 (c.bestOperand better da).2) false) := by
  have first := putOp_get main below get (dd := dd) false fun _ _ => (c.bestOperand better da).1
  rw [reduceOp_eq]
  exact putOp_get (c := putOp dd false _ c) main below first false fun _ _ => w32 (c.bestOperand better da).2

/-- RMAX and RMIN: the best operand in Dd and its lane in Dd + 1, in every executing lane. -/
theorem reduceOp_after (s : State) (i : CI) (dd da k : Nat) {key : Int → Int} {better : Int → Int → Bool}
    (test : ∀ x y, better x y = decide (key y < key x)) (l : Lane) (atInstr : s.AtInstr i.cl) (residueOk : i.residue = .ok)
    (lane : s.LaneIs i.cl k l) (main : (s.cluster i.cl).handler = false) :
    ∃ t l' j lj, issueCI i (reduceOp dd da better) s = .next t ∧ IssuedIn s t i.cl ∧ t.LaneIs i.cl k l' ∧ s.LaneIs i.cl j lj ∧
      (∀ n ln, s.LaneIs i.cl n ln → key (ln.sees da).toInt ≤ key (lj.sees da).toInt ∧ (n < j → ln.sees da ≠ lj.sees da)) ∧
      l'.sees dd = lj.sees da ∧ l'.sees (dd + 1) = BitVec.ofNat 32 j ∧
      (∀ r, r ≠ dd → r ≠ dd + 1 → l'.sees r = l.tick.sees r) ∧ l'.fl = l.fl ∧ l'.st = l.st ∧ l.KeepsRest l' := by
  have straight := Cluster.Straight.reduceOp dd da better
  obtain ⟨t, issues, issued, left⟩ := issueCI_straight straight atInstr residueOk
  have get := reduceOp_get ((issuing_handler s i.cl).trans main) (by rw [issuing_laneCount]; exact lane.1) (issuing_lane lane) dd da better
  have best := bestOperand_best lane test da
  generalize (s.issuing i.cl).bestOperand better da = b at best get
  obtain ⟨held, greatest⟩ := best
  obtain ⟨lj, holds, value⟩ := issuing_operands_get.1 held
  refine ⟨t, _, b.2, lj, issues, issued, laneIs_past lane straight left get, holds, fun n ln other => ?_, ?_, ?_, fun r one two => ?_,
    rfl, rfl, rfl, rfl, rfl⟩
  · obtain ⟨most, less⟩ := greatest n _ (issuing_operands_get.2 ⟨ln, other, rfl⟩)
    rw [value]
    exact ⟨most, fun before same => absurd (same ▸ less before) (lt_irrefl _)⟩
  · rw [sees_pair, if_neg (by omega), if_pos rfl, value]
  · exact (sees_pair _ _ _ _ _).trans (if_pos rfl)
  · rw [sees_pair, if_neg two, if_neg one]

theorem evenCI_even {dd : Nat} (even : dd % 2 = 0) (i : CI) (f : Cluster → Cluster) (s : State) : evenCI dd i f s = issueCI i f s := if_pos even

/-- Settles O13: a search over pairs takes the better one; one over the lanes finds the greatest key, the value or its negation. -/
theorem searchesFindTheExtreme : Obligations.SearchesFindTheExtreme := by
  unfold Obligations.SearchesFindTheExtreme
  intro s i dd da db k l atInstr residueOk lane even main
  refine ⟨fun p listed => ?_, fun native p listed => ?_⟩
  · simp only [List.mem_cons, List.not_mem_nil, or_false] at listed
    have pairs (better : Int → Int → Bool) := searchOp_after s i dd da db k better l atInstr residueOk lane main
    simp only [← evenCI_even even] at pairs
    rcases listed with rfl | rfl
    · exact pairs fun x y => decide (y < x)
    · exact pairs fun x y => decide (x < y)
  · simp only [List.mem_cons, List.not_mem_nil, or_false] at listed
    have lanes {key : Int → Int} {better : Int → Int → Bool} (test : ∀ x y, better x y = decide (key y < key x)) :=
      reduceOp_after s i dd da k test l atInstr residueOk lane main
    have issues (f : Cluster → Cluster) : issueCI i f s = nativeEvenCI dd i f s := (nativeCI_native native f).symm.trans (if_pos even).symm
    simp only [issues] at lanes
    rcases listed with rfl | rfl
    · exact lanes (key := id) (better := fun x y => decide (y < x)) fun _ _ => rfl
    · have least := lanes (key := Neg.neg) (better := fun x y => decide (x < y)) fun x y => by simp only [neg_lt_neg_iff]
      simp only [neg_le_neg_iff] at least
      exact least

end Sys2Proof.Machine
end

section
/-! PROOF. Effects on data, pointers, loads and stores (R114, R118, R149, R150, R153): O17 and O18. -/

namespace Sys2Proof.Machine

/-! ### Effects on data (R118) -/

/-- The second cluster differs from the first in lanes, shared registers and host copies of sticky flags at most. -/
def Cluster.DataOnly (a b : Cluster) : Prop := ∃ sh lanes ovg sat circ addr,
  b = { a with sh := sh, lanes := lanes, hostOvg := ovg, hostSat := sat, hostCirc := circ, hostAddr := addr }

theorem Cluster.DataOnly.refl (a : Cluster) : a.DataOnly a := ⟨_, _, _, _, _, _, rfl⟩

theorem Cluster.DataOnly.trans {a b c : Cluster} (h : a.DataOnly b) (k : b.DataOnly c) : a.DataOnly c := by
  obtain ⟨_, _, _, _, _, _, rfl⟩ := h
  obtain ⟨_, _, _, _, _, _, rfl⟩ := k
  exact ⟨_, _, _, _, _, _, rfl⟩

/-- What an effect on data does not touch stays. -/
theorem Cluster.DataOnly.field {a b : Cluster} (h : a.DataOnly b) {α : Type} (f : Cluster → α)
    (apart : ∀ sh lanes ovg sat circ addr, f { a with
      sh := sh, lanes := lanes, hostOvg := ovg, hostSat := sat, hostCirc := circ, hostAddr := addr } = f a) : f b = f a := by
  obtain ⟨_, _, _, _, _, _, rfl⟩ := h
  exact apart ..

theorem Cluster.DataOnly.laneCount {a b : Cluster} (h : a.DataOnly b) : b.laneCount = a.laneCount := h.field (·.laneCount) fun _ _ _ _ _ _ => rfl
theorem Cluster.DataOnly.handler {a b : Cluster} (h : a.DataOnly b) : b.handler = a.handler := h.field (·.handler) fun _ _ _ _ _ _ => rfl

/-- An effect on data is no control transfer. -/
theorem Cluster.Straight.of_dataOnly {f : Cluster → Cluster} (h : ∀ c : Cluster, c.DataOnly (f c)) : Cluster.Straight f :=
  ⟨fun c => (h c).field (·.ik) fun _ _ _ _ _ _ => rfl, fun c => (h c).field (·.cmem) fun _ _ _ _ _ _ => rfl,
    fun c => (h c).field (·.imem) fun _ _ _ _ _ _ => rfl, fun c => (h c).handler, fun c => (h c).field (·.after) fun _ _ _ _ _ _ => rfl,
    fun c => (h c).field (·.pc) fun _ _ _ _ _ _ => rfl, fun c => (h c).field (·.loopActive) fun _ _ _ _ _ _ => rfl,
    fun c => (h c).field (·.ended) fun _ _ _ _ _ _ => rfl⟩

theorem onLanes_data (f : Nat → Lane → Lane × Sticky) (c : Cluster) : c.DataOnly (c.onLanes f) := ⟨_, _, _, _, _, _, rfl⟩

theorem setShared_data (c : Cluster) (code v : Nat) : c.DataOnly (c.setShared code v) := ⟨_, _, _, _, _, _, rfl⟩

/-! ### Pointers (R149, R150) -/

theorem shWidth_pointer {n : Nat} (h : n < 16) : shWidth (0x20 + n) = 24 := if_pos (by omega)

theorem postMod_fits (n p b l : Nat) (m : Int) : (postMod n p b l m).1 < 2 ^ 24 := by
  unfold postMod
  dsimp only
  split
  · exact Nat.mod_lt _ (by decide)
  · have below : ((p : Int) + m) % 2 ^ 24 < 2 ^ 24 := Int.emod_lt_of_pos _ (by decide)
    show (((p : Int) + m) % 2 ^ 24).toNat < 2 ^ 24
    omega

theorem postModify_data (c : Cluster) (n : Nat) (m : Int) : c.DataOnly (c.postModify n m) := by
  unfold Cluster.postModify
  dsimp only
  have moved (q : Nat) : c.DataOnly (if c.mayP n then c.setShared (0x20 + n) q else c) := by
    split
    · exact setShared_data c _ _
    · exact .refl c
  split
  · exact (moved _).trans (onLanes_data _ _)
  · exact moved _

/-- A post-modify raises CIRC_RANGE at most in a lane. -/
theorem postModify_get {c : Cluster} {k : Nat} {l : Lane} (below : k < c.laneCount) (get : c.lanes[k]? = some l) (n : Nat) (m : Int) :
    ∃ circ, (c.postModify n m).lanes[k]? = some { l with st := l.st.or { circ := circ } } := by
  unfold Cluster.postModify
  dsimp only
  have lanes (q : Nat) : (if c.mayP n then c.setShared (0x20 + n) q else c).lanes = c.lanes := by split <;> rfl
  have count (q : Nat) : (if c.mayP n then c.setShared (0x20 + n) q else c).laneCount = c.laneCount := by split <;> rfl
  split
  · exact ⟨true, onLanes_get _ _ k l (by rwa [count]) (by rwa [lanes])⟩
  · exact ⟨false, by rw [lanes, Sticky.or_none]; exact get⟩

theorem postModify_shared (c : Cluster) (n : Nat) (m : Int) (code : Nat) :
    (c.postModify n m).shared code = (if c.mayP n then c.setShared (0x20 + n) (c.pointerAfter n m) else c).shared code := by
  unfold Cluster.postModify
  dsimp only
  split <;> rfl

theorem postModify_pointer {c : Cluster} (main : c.handler = false) {n : Nat} (h : n < 16) (m : Int) :
    (c.postModify n m).shared (0x20 + n) = c.pointerAfter n m := by
  rw [postModify_shared, if_pos (mayP_main main n)]
  exact shared_setShared_fits c (by rw [shWidth_pointer h]; exact postMod_fits ..)

theorem postModify_other (c : Cluster) {n code : Nat} (h : code ≠ 0x20 + n) (m : Int) : (c.postModify n m).shared code = c.shared code := by
  rw [postModify_shared]
  split
  · exact shared_setShared_other c _ h
  · rfl

theorem afterEA_data (c : Cluster) (e : EA) : c.DataOnly (c.afterEA e) := by
  unfold Cluster.afterEA
  split
  · exact postModify_data c _ _
  · exact postModify_data c _ _
  · exact .refl c
  · exact postModify_data c _ _

theorem afterEA_get {c : Cluster} {k : Nat} {l : Lane} (below : k < c.laneCount) (get : c.lanes[k]? = some l) (e : EA) :
    ∃ circ, (c.afterEA e).lanes[k]? = some { l with st := l.st.or { circ := circ } } := by
  unfold Cluster.afterEA
  split
  · exact postModify_get below get _ _
  · exact postModify_get below get _ _
  · exact ⟨false, by rw [Sticky.or_none]; exact get⟩
  · exact postModify_get below get _ _

/-! ### Results that are late (R118) -/

/-- A result just put in flight, as the second instruction sees it. -/
theorem tick_sees_put_other (l : Lane) {r q : Nat} (h : q ≠ r) (v : Word) (late : Bool) : (l.put r v late).tick.sees q = l.tick.sees q := by
  unfold Lane.sees Lane.operand
  rw [tick_put]
  simp only [Lane.tick, List.map_append, List.map_cons, List.map_nil]
  rw [retire_append _ _ _ (by simp)]
  simp [newest_append, Ne.symm h]

/-- A late result is no operand of the next instruction. -/
theorem sees_put_late (l : Lane) (r q : Nat) (v : Word) : (l.put r v true).sees q = l.sees q := by
  rw [sees_put]
  simp

/-! ### Loads and stores (R114, R153) -/

theorem loadInto_data (c : Cluster) (dd a : Nat) : c.DataOnly (c.loadInto dd a) := by
  unfold Cluster.loadInto
  exact onLanes_data _ c

theorem storeFrom_data (c : Cluster) (dd a : Nat) : c.DataOnly (c.storeFrom dd a) := by
  unfold Cluster.storeFrom
  exact onLanes_data _ c

theorem loadInto_get {c : Cluster} {k : Nat} {l : Lane} (main : c.handler = false) (below : k < c.laneCount) (get : c.lanes[k]? = some l) (dd a : Nat) :
    (c.loadInto dd a).lanes[k]? = some { l.put dd (c.loadWord l a).1 true with st := l.st.or { addr := (c.loadWord l a).2 } } := by
  unfold Cluster.loadInto
  rw [onLanes_get _ c k l below get, mayD_main main]
  rfl

/-- A store in a lane, or none with ADDR_RANGE. -/
theorem storeFrom_get {c : Cluster} {k : Nat} {l : Lane} (below : k < c.laneCount) (get : c.lanes[k]? = some l) (dd a : Nat) :
    (c.storeFrom dd a).lanes[k]? = some
      (if c.inLmem a = true ∧ (c.handler = false ∨ c.img.handlerLo ≤ a ∧ a + 4 ≤ c.img.handlerHi) then
        { l with lmem := memSetWord l.lmem a (l.storeData dd) } else { l with st := l.st.or { addr := true } }) := by
  unfold Cluster.storeFrom
  rw [onLanes_get _ c k l below get]
  have range : (c.inLmem a && (!c.handler || (decide (c.img.handlerLo ≤ a) && decide (a + 4 ≤ c.img.handlerHi)))) = true ↔
      c.inLmem a = true ∧ (c.handler = false ∨ c.img.handlerLo ≤ a ∧ a + 4 ≤ c.img.handlerHi) := by simp
  simp only [range]
  split
  · rw [Sticky.or_none]
  · rfl

theorem Sticky.or_addr (st : Sticky) (addr circ : Bool) : ((st.or { addr := addr }).or { circ := circ }).addr = (st.addr || addr) :=
  Bool.or_false _

theorem afterEA_pointer {s : State} {cl : Nat} {f : Cluster → Cluster} (data : (s.issuing cl).DataOnly (f (s.issuing cl)))
    (sameSh : (f (s.issuing cl)).sh = (s.aged cl).sh) (main : (s.cluster cl).handler = false) {e : EA} (pointer : e.pn < 16) :
    ((f (s.issuing cl)).afterEA e).past.shared (0x20 + e.pn) = (match e.mode with
      | .postM m => (s.aged cl).pointerAfter e.pn (signed24 ((s.aged cl).shared (0x30 + m)))
      | .postImm w => (s.aged cl).pointerAfter e.pn (4 * w)
      | .offset _ => (s.aged cl).shared (0x20 + e.pn)
      | .postInc => (s.aged cl).pointerAfter e.pn 4) := by
  have same (code : Nat) : (f (s.issuing cl)).shared code = (s.aged cl).shared code := by unfold Cluster.shared; rw [sameSh]
  have after (m : Int) : (f (s.issuing cl)).pointerAfter e.pn m = (s.aged cl).pointerAfter e.pn m := by simp only [Cluster.pointerAfter, same]
  have main := data.handler.trans ((issuing_handler s cl).trans main)
  rw [past_shared _ (by omega)]
  unfold Cluster.afterEA
  cases e.mode with
  | postM m => exact (postModify_pointer main pointer _).trans (by rw [after, same])
  | postImm w => exact (postModify_pointer main pointer _).trans (after _)
  | offset w => exact same _
  | postInc => exact (postModify_pointer main pointer _).trans (after _)

/-- Settles O17: LD puts a word in flight and moves its pointer, MODP moves the pointer. -/
theorem loadsDeliverAndPointersMove : Obligations.LoadsDeliverAndPointersMove := by
  unfold Obligations.LoadsDeliverAndPointersMove
  intro s cl dd k ea l atInstr lane main pointer c v p listed
  have below : k < (s.issuing cl).laneCount := (issuing_laneCount s cl).symm ▸ lane.1
  simp only [List.mem_cons, List.not_mem_nil, or_false] at listed
  rcases listed with rfl | rfl
  · have straight : Cluster.Straight fun c => (c.loadInto dd (c.address ea)).afterEA ea :=
      .of_dataOnly fun c => (loadInto_data c _ _).trans (afterEA_data _ _)
    have data := loadInto_data (s.issuing cl) dd ((s.issuing cl).address ea)
    obtain ⟨t, issues, issued, left⟩ := issueRep_straight straight atInstr
    have loaded := loadInto_get ((issuing_handler s cl).trans main) below (issuing_lane lane) dd ((s.issuing cl).address ea)
    obtain ⟨circ, get⟩ := afterEA_get (data.laneCount.symm ▸ below) loaded ea
    refine ⟨t, _, issues, issued, laneIs_past lane straight left get, fun _ => ⟨?_, Sticky.or_addr _ _ _⟩, nofun, fun r => ?_, fun r other => ?_,
      rfl, ⟨rfl, rfl, rfl⟩, left ▸ afterEA_pointer (f := fun c => c.loadInto dd (c.address ea)) data rfl main pointer⟩
    · exact (sees_congr rfl rfl dd).trans (tick_sees_put l.tick dd v.1 true)
    · exact (sees_congr rfl rfl r).trans (sees_put_late l.tick dd r v.1)
    · exact (sees_congr rfl rfl r).trans (tick_sees_put_other l.tick (other.resolve_left nofun) v.1 true)
  · have straight : Cluster.Straight fun c => c.afterEA ea := .of_dataOnly fun c => afterEA_data _ _
    obtain ⟨t, issues, issued, left⟩ := issueRep_straight straight atInstr
    obtain ⟨circ, get⟩ := afterEA_get below (issuing_lane lane) ea
    exact ⟨t, _, issues, issued, laneIs_past lane straight left get, nofun, fun _ => Bool.or_false _, fun r => sees_congr rfl rfl r,
      fun r _ => sees_congr rfl rfl r, rfl, ⟨rfl, rfl, rfl⟩, left ▸ afterEA_pointer (f := id) (.refl _) rfl main pointer⟩

/-- Settles O18: the store of a lane, then the post-modify. -/
theorem storesWriteOneWordOfLmem : Obligations.StoresWriteOneWordOfLmem := by
  unfold Obligations.StoresWriteOneWordOfLmem
  intro s cl dd k ea l atInstr lane c a ok wf
  have below : k < (s.issuing cl).laneCount := (issuing_laneCount s cl).symm ▸ lane.1
  have straight : Cluster.Straight fun c => (c.storeFrom dd (c.address ea)).afterEA ea :=
    .of_dataOnly fun c => (storeFrom_data c _ _).trans (afterEA_data _ _)
  obtain ⟨t, issues, issued, left⟩ := issueRep_straight straight atInstr
  have stored := storeFrom_get below (issuing_lane lane) dd a
  have asStated : ((s.issuing cl).inLmem a = true ∧ ((s.issuing cl).handler = false ∨
      (s.issuing cl).img.handlerLo ≤ a ∧ a + 4 ≤ (s.issuing cl).img.handlerHi)) = ok := by
    rw [issuing_handler, issuing_img]
    rfl
  simp only [asStated] at stored
  have count := (storeFrom_data (s.issuing cl) dd a).laneCount
  by_cases inside : ok
  · rw [if_pos inside] at stored
    obtain ⟨circ, get⟩ := afterEA_get (count.symm ▸ below) stored ea
    exact ⟨t, _, issues, issued, laneIs_past lane straight left get,
      fun _ => ⟨memWord_memSetWord wf a _, Bool.or_false _, memGet_memSetWord_other _ a _⟩, fun outside => absurd inside outside,
      fun r => sees_congr rfl rfl r, rfl, rfl, rfl⟩
  · rw [if_neg inside] at stored
    obtain ⟨circ, get⟩ := afterEA_get (count.symm ▸ below) stored ea
    exact ⟨t, _, issues, issued, laneIs_past lane straight left get, fun within => absurd within inside,
      fun _ => ⟨rfl, (Sticky.or_addr _ _ _).trans (Bool.or_true _)⟩, fun r => sees_congr rfl rfl r, rfl, rfl, rfl⟩

end Sys2Proof.Machine
end

section
/-! PROOF. The DUAL format (R121, R155): O16. -/

namespace Sys2Proof.Machine

/-! ### Two loads and two pointers (R155) -/

/-- The address of a load of the DUAL format. -/
def Cluster.dualAddr (c : Cluster) (d : DualLoad) : Nat := c.shared (0x20 + d.p) / 4 * 4

/-- Both loads name words of CMEM. -/
def Cluster.dualClash (c : Cluster) (dl : DualLoads) : Bool :=
  match dl.l1, dl.l2 with
  | some d, some e => c.inCmem (c.dualAddr d) && c.inCmem (c.dualAddr e)
  | _, _ => false

/-- The first load. -/
def Cluster.dualFirst (c : Cluster) (dl : DualLoads) : Cluster :=
  match dl.l1 with
  | some d => c.loadInto d.d (c.dualAddr d)
  | none => c

/-- A load that delivers 0 and sets ADDR_RANGE. -/
def Cluster.loadNothing (c : Cluster) (dd : Nat) : Cluster :=
  c.onLanes fun _ l => (if c.mayD dd then l.put dd 0 true else l, { addr := true })

/-- The second load, from the addresses of the cluster before the first. -/
def Cluster.dualSecond (c : Cluster) (dl : DualLoads) : Cluster :=
  match dl.l2 with
  | some e => if c.dualClash dl then (c.dualFirst dl).loadNothing e.d else (c.dualFirst dl).loadInto e.d (c.dualAddr e)
  | none => c.dualFirst dl

/-- The pointer of a load moves by its M. -/
def Cluster.dualMove (c : Cluster) (o : Option DualLoad) : Cluster :=
  match o with
  | some d => c.postModify d.p (signed24 (c.shared (0x30 + d.m)))
  | none => c

theorem dualLoads_eq (dl : DualLoads) (c : Cluster) : dualLoads dl c = ((c.dualSecond dl).dualMove dl.l1).dualMove dl.l2 := by
  obtain ⟨l1, l2⟩ := dl
  cases l1 <;> cases l2 <;> rfl

theorem dualFirst_data (c : Cluster) (dl : DualLoads) : c.DataOnly (c.dualFirst dl) := by
  unfold Cluster.dualFirst
  split
  · exact loadInto_data c _ _
  · exact .refl c

theorem dualSecond_data (c : Cluster) (dl : DualLoads) : c.DataOnly (c.dualSecond dl) := by
  unfold Cluster.dualSecond
  split
  · split
    · exact (dualFirst_data c dl).trans (onLanes_data _ _)
    · exact (dualFirst_data c dl).trans (loadInto_data _ _ _)
  · exact dualFirst_data c dl

theorem dualMove_data (c : Cluster) (o : Option DualLoad) : c.DataOnly (c.dualMove o) := by
  unfold Cluster.dualMove
  split
  · exact postModify_data c _ _
  · exact .refl c

theorem dualLoads_data (c : Cluster) (dl : DualLoads) : c.DataOnly (dualLoads dl c) := by
  rw [dualLoads_eq]
  exact ((dualSecond_data c dl).trans (dualMove_data _ _)).trans (dualMove_data _ _)

theorem dualFirst_sh (c : Cluster) (dl : DualLoads) : (c.dualFirst dl).sh = c.sh := by
  unfold Cluster.dualFirst
  split <;> rfl

/-- The loads write no shared register. -/
theorem dualSecond_sh (c : Cluster) (dl : DualLoads) : (c.dualSecond dl).sh = c.sh := by
  unfold Cluster.dualSecond
  split
  · split <;> exact dualFirst_sh c dl
  · exact dualFirst_sh c dl

theorem dualMove_other (c : Cluster) {o : Option DualLoad} {code : Nat} (apart : ∀ d, o = some d → code ≠ 0x20 + d.p) :
    (c.dualMove o).shared code = c.shared code := by
  unfold Cluster.dualMove
  split
  · exact postModify_other c (apart _ rfl) _
  · rfl

theorem dualMove_own {c : Cluster} (main : c.handler = false) {d : DualLoad} (pointer : d.p < 16) :
    (c.dualMove (some d)).shared (0x20 + d.p) = c.pointerAfter d.p (signed24 (c.shared (0x30 + d.m))) :=
  postModify_pointer main pointer _

/-- A pointer moves alike in clusters that agree on it, on its M and on its circular range. -/
theorem pointerAfter_congr {a b : Cluster} {d : DualLoad} (pointer : b.shared (0x20 + d.p) = a.shared (0x20 + d.p))
    (others : ∀ code, 0x30 ≤ code → b.shared code = a.shared code) :
    b.pointerAfter d.p (signed24 (b.shared (0x30 + d.m))) = a.pointerAfter d.p (signed24 (a.shared (0x30 + d.m))) := by
  unfold Cluster.pointerAfter
  rw [pointer, others _ (by omega), others _ (by omega), others _ (by omega)]

/-- Each pointer moves by its own M (R155): the pointers of the two loads differ (R171). -/
theorem dualLoads_pointer {c : Cluster} (main : c.handler = false) {dl : DualLoads} (pointers : ∀ d, dl.l1 = some d ∨ dl.l2 = some d → d.p < 16)
    (apart : ∀ d e, dl.l1 = some d → dl.l2 = some e → d.p ≠ e.p) {d : DualLoad} (h : dl.l1 = some d ∨ dl.l2 = some d) :
    (dualLoads dl c).shared (0x20 + d.p) = c.pointerAfter d.p (signed24 (c.shared (0x30 + d.m))) := by
  have main := (dualSecond_data c dl).handler.trans main
  have loads (code : Nat) : (c.dualSecond dl).shared code = c.shared code := by
    unfold Cluster.shared
    rw [dualSecond_sh]
  rw [dualLoads_eq]
  rcases h with h | h
  · rw [dualMove_other _ fun e he => by have := apart d e h he; omega, h, dualMove_own main (pointers d (.inl h))]
    exact pointerAfter_congr (loads _) fun _ _ => loads _
  · have first (code : Nat) (other : ∀ f, dl.l1 = some f → code ≠ 0x20 + f.p) :
        ((c.dualSecond dl).dualMove dl.l1).shared code = c.shared code := (dualMove_other _ other).trans (loads code)
    rw [h, dualMove_own ((dualMove_data _ _).handler.trans main) (pointers d (.inr h))]
    exact pointerAfter_congr (first _ fun f hf => by have := apart f d hf h; omega) fun code high =>
      first code fun f hf => by have := pointers f (.inl hf); omega

/-! ### The lanes (R118, R155) -/

/-- Lane `k` of a cluster is `l` but for its sticky flags; ADDR_RANGE is set where a test says so. -/
def Cluster.HasLane (c : Cluster) (k : Nat) (l : Lane) (addr : Bool) : Prop :=
  k < c.laneCount ∧ ∃ st, c.lanes[k]? = some { l with st := st } ∧ (addr = true → st.addr = true)

/-- A lane with a late result, if any. -/
def Lane.late (l : Lane) : Option (Nat × Word) → Lane
  | some p => l.put p.1 p.2 true
  | none => l

theorem HasLane.loadInto {c : Cluster} {k : Nat} {l : Lane} {addr : Bool} (h : c.HasLane k l addr) (main : c.handler = false) (dd a : Nat) :
    (c.loadInto dd a).HasLane k (l.put dd (c.loadWord l a).1 true) false := by
  obtain ⟨below, st, get, -⟩ := h
  exact ⟨(loadInto_data c dd a).laneCount.symm ▸ below, _, loadInto_get main below get dd a, nofun⟩

theorem HasLane.loadNothing {c : Cluster} {k : Nat} {l : Lane} {addr : Bool} (h : c.HasLane k l addr) (main : c.handler = false) (dd : Nat) :
    (c.loadNothing dd).HasLane k (l.put dd 0 true) true := by
  obtain ⟨below, st, get, -⟩ := h
  refine ⟨below, st.or { addr := true }, ?_, fun _ => Bool.or_true _⟩
  unfold Cluster.loadNothing
  rw [onLanes_get _ c k _ below get, mayD_main main]
  rfl

theorem HasLane.postModify {c : Cluster} {k : Nat} {l : Lane} {addr : Bool} (h : c.HasLane k l addr) (n : Nat) (m : Int) :
    (c.postModify n m).HasLane k l addr := by
  obtain ⟨below, st, get, set⟩ := h
  obtain ⟨circ, moved⟩ := postModify_get below get n m
  exact ⟨(postModify_data c n m).laneCount.symm ▸ below, _, moved, fun h => by simp [Sticky.or, set h]⟩

theorem HasLane.dualMove {c : Cluster} {k : Nat} {l : Lane} {addr : Bool} (h : c.HasLane k l addr) (o : Option DualLoad) :
    (c.dualMove o).HasLane k l addr := by
  unfold Cluster.dualMove
  split
  · exact HasLane.postModify h _ _
  · exact h

/-- What the two loads deliver to a lane. -/
def Cluster.dualWord1 (c : Cluster) (dl : DualLoads) (l : Lane) : Option (Nat × Word) :=
  dl.l1.map fun d => (d.d, (c.loadWord l (c.dualAddr d)).1)

def Cluster.dualWord2 (c : Cluster) (dl : DualLoads) (l : Lane) : Option (Nat × Word) :=
  dl.l2.map fun e => (e.d, if c.dualClash dl then 0 else (c.loadWord l (c.dualAddr e)).1)

theorem HasLane.dualFirst {c : Cluster} {k : Nat} {l : Lane} (h : c.HasLane k l false) (main : c.handler = false) (dl : DualLoads) :
    (c.dualFirst dl).HasLane k (l.late (c.dualWord1 dl l)) false := by
  unfold Cluster.dualFirst Cluster.dualWord1
  cases dl.l1 with
  | none => exact h
  | some d => exact HasLane.loadInto h main _ _

/-- An effect on data leaves what a load reads but for the lane's own memory. -/
theorem Cluster.DataOnly.loadWord {a b : Cluster} (h : a.DataOnly b) {l m : Lane} (lmem : m.lmem = l.lmem) (addr : Nat) :
    b.loadWord m addr = a.loadWord l addr := by
  obtain ⟨_, _, _, _, _, _, rfl⟩ := h
  unfold Cluster.loadWord
  rw [lmem]
  rfl

theorem late_lmem (l : Lane) (o : Option (Nat × Word)) : (l.late o).lmem = l.lmem := by cases o <;> rfl

theorem HasLane.dualSecond {c : Cluster} {k : Nat} {l : Lane} (h : c.HasLane k l false) (main : c.handler = false) (dl : DualLoads) :
    (c.dualSecond dl).HasLane k ((l.late (c.dualWord1 dl l)).late (c.dualWord2 dl l)) (c.dualClash dl) := by
  have first := HasLane.dualFirst h main dl
  have main := (dualFirst_data c dl).handler.trans main
  unfold Cluster.dualSecond Cluster.dualWord2
  cases second : dl.l2 with
  | none =>
    have apart : c.dualClash dl = false := by
      unfold Cluster.dualClash
      rw [second]
      cases dl.l1 <;> rfl
    rw [apart]
    exact first
  | some e =>
    dsimp only
    cases clash : c.dualClash dl
    · have loaded := HasLane.loadInto first main e.d (c.dualAddr e)
      rwa [(dualFirst_data c dl).loadWord (late_lmem l _)] at loaded
    · exact HasLane.loadNothing first main e.d

theorem HasLane.dualLoads {c : Cluster} {k : Nat} {l : Lane} (h : c.HasLane k l false) (main : c.handler = false) (dl : DualLoads) :
    (dualLoads dl c).HasLane k ((l.late (c.dualWord1 dl l)).late (c.dualWord2 dl l)) (c.dualClash dl) := by
  rw [dualLoads_eq]
  exact HasLane.dualMove (HasLane.dualMove (HasLane.dualSecond h main dl) _) _

theorem late_frame (l : Lane) (o : Option (Nat × Word)) :
    (l.late o).a = l.a ∧ (l.late o).fl = l.fl ∧ (l.late o).lmem = l.lmem ∧ (l.late o).noise = l.noise := by
  cases o <;> exact ⟨rfl, rfl, rfl, rfl⟩

theorem late_sees (l : Lane) (o : Option (Nat × Word)) (r : Nat) : (l.late o).sees r = l.sees r := by
  cases o with
  | none => rfl
  | some p => exact sees_put_late l _ _ _

theorem late_tick_sees_other (l : Lane) {o : Option (Nat × Word)} {r : Nat} (other : ∀ p, o = some p → r ≠ p.1) :
    (l.late o).tick.sees r = l.tick.sees r := by
  cases o with
  | none => rfl
  | some p => exact tick_sees_put_other l (other p rfl) _ _

/-- Both words arrive at distance 2, in the two registers, which differ (R171). -/
theorem dualWords_arrive {c : Cluster} {dl : DualLoads} (apart : ∀ d e, dl.l1 = some d → dl.l2 = some e → d.d ≠ e.d) (l : Lane) :
    (∀ d, dl.l1 = some d → ((l.late (c.dualWord1 dl l)).late (c.dualWord2 dl l)).tick.sees d.d = (c.loadWord l (c.dualAddr d)).1) ∧
    ∀ e, dl.l2 = some e → ((l.late (c.dualWord1 dl l)).late (c.dualWord2 dl l)).tick.sees e.d =
      if c.dualClash dl then 0 else (c.loadWord l (c.dualAddr e)).1 := by
  unfold Cluster.dualWord1 Cluster.dualWord2
  refine ⟨fun d first => ?_, fun e second => ?_⟩
  · rw [late_tick_sees_other, first]
    · exact tick_sees_put l _ _ _
    · intro p h
      obtain ⟨e, second, rfl⟩ := Option.map_eq_some_iff.1 h
      exact apart d e first second
  · rw [second]
    exact tick_sees_put _ _ _ _

/-- A lane after the loads of a DUAL instruction: the words arrive at distance 2, all else but sticky flags stands. -/
structure Lane.TookLoads (l' l : Lane) (c : Cluster) (dl : DualLoads) : Prop where
  first : ∀ d, dl.l1 = some d → l'.tick.sees d.d = (c.loadWord l (c.dualAddr d)).1
  second : ∀ e, dl.l2 = some e → l'.tick.sees e.d = if c.dualClash dl then 0 else (c.loadWord l (c.dualAddr e)).1
  clash : c.dualClash dl = true → l'.st.addr = true
  now : ∀ r, l'.sees r = l.sees r
  frame : l'.a = l.a ∧ l'.fl = l.fl ∧ l'.lmem = l.lmem ∧ l'.noise = l.noise

theorem dualLoads_get {c : Cluster} {k : Nat} {l : Lane} (h : c.HasLane k l false) (main : c.handler = false) {dl : DualLoads}
    (apart : ∀ d e, dl.l1 = some d → dl.l2 = some e → d.d ≠ e.d) : ∃ l', (dualLoads dl c).lanes[k]? = some l' ∧ l'.TookLoads l c dl := by
  obtain ⟨-, st, get, clash⟩ := HasLane.dualLoads h main dl
  obtain ⟨first, second⟩ := dualWords_arrive (c := c) apart l
  obtain ⟨a1, fl1, lmem1, noise1⟩ := late_frame l (c.dualWord1 dl l)
  obtain ⟨a2, fl2, lmem2, noise2⟩ := late_frame (l.late (c.dualWord1 dl l)) (c.dualWord2 dl l)
  exact ⟨_, get, fun d h => (sees_congr rfl rfl _).trans (first d h), fun e h => (sees_congr rfl rfl _).trans (second e h), clash,
    fun r => (sees_congr rfl rfl r).trans ((late_sees _ _ r).trans (late_sees _ _ r)), a2.trans a1, fl2.trans fl1, lmem2.trans lmem1, noise2.trans noise1⟩

theorem dualClash_some {c : Cluster} {dl : DualLoads} {d e : DualLoad} (first : dl.l1 = some d) (second : dl.l2 = some e) :
    c.dualClash dl = (c.inCmem (c.dualAddr d) && c.inCmem (c.dualAddr e)) := by
  unfold Cluster.dualClash
  rw [first, second]

/-- The loads clash only where both are there and both name CMEM. -/
theorem dualClash_of_apart {c : Cluster} {dl : DualLoads} {e : DualLoad} (second : dl.l2 = some e)
    (apart : ∀ d, dl.l1 = some d → ¬(c.inCmem (c.dualAddr d) = true ∧ c.inCmem (c.dualAddr e) = true)) : c.dualClash dl = false := by
  cases first : dl.l1 with
  | none =>
    unfold Cluster.dualClash
    rw [first]
  | some d =>
    rw [dualClash_some first second, Bool.eq_false_iff, ne_eq, Bool.and_eq_true]
    exact apart d first

theorem dualCI_apart {dl : DualLoads} (apart : ∀ d e, dl.l1 = some d → dl.l2 = some e → d.p ≠ e.p ∧ d.d ≠ e.d) (i : CI) (f : Cluster → Cluster)
    (s : State) : dualCI dl i f s = issueCI i f s := by
  refine if_pos ?_
  unfold loadsApart
  split
  · rename_i d e first second
    simpa using apart d e first second
  · rfl

/-! ### The accumulation (R121) -/

theorem mayA_main {c : Cluster} (main : c.handler = false) (n : Nat) : c.mayA n = true := by
  simp [Cluster.mayA, main]

theorem accOp_data (an : Nat) (f : Lane → Int) (c : Cluster) : c.DataOnly (accOp an f c) := by
  unfold accOp
  exact onLanes_data _ c

theorem accOp_hasLane {c : Cluster} {k : Nat} {l : Lane} (main : c.handler = false) (below : k < c.laneCount) (get : c.lanes[k]? = some l) (an : Nat)
    (f : Lane → Int) : (accOp an f c).HasLane k { l with a := tset l.a an (BitVec.ofInt 80 (clamp80 (f l)).1) } false := by
  refine ⟨below, l.st.or { ovg := (clamp80 (f l)).2 }, ?_, nofun⟩
  unfold accOp
  rw [onLanes_get _ c k l below get, mayA_main main]
  rfl

/-- What goes with the loads of a DUAL instruction: `v`, if any, is the exact value that its accumulation leaves in An of lane `k`. -/
structure Accumulates (s : State) (cl k an : Nat) (l : Lane) (v : Option Int) (g : Cluster → Cluster) (a : Tab (BitVec 80)) : Prop where
  data : ∀ c : Cluster, c.DataOnly (g c)
  sh : (g (s.issuing cl)).sh = (s.aged cl).sh
  lane : (g (s.issuing cl)).HasLane k { l.tick with a := a } false
  value : ∀ x, v = some x → tget 0 a an = BitVec.ofInt 80 (clamp80 x).1
  others : ∀ m, v = none ∨ m ≠ an → tget 0 a m = l.acc m

theorem accumulates_none {s : State} {cl k : Nat} {l : Lane} (lane : s.LaneIs cl k l) (an : Nat) : Accumulates s cl k an l none id l.a where
  data := .refl
  sh := rfl
  lane := ⟨(issuing_laneCount s cl).symm ▸ lane.1, l.tick.st, issuing_lane lane, nofun⟩
  value := nofun
  others _ _ := rfl

theorem accumulates_accOp {s : State} {cl k : Nat} {l : Lane} (lane : s.LaneIs cl k l) (main : (s.cluster cl).handler = false) (an : Nat)
    (f : Lane → Int) : Accumulates s cl k an l (some (f l.tick)) (accOp an f) (tset l.a an (BitVec.ofInt 80 (clamp80 (f l.tick)).1)) where
  data := accOp_data an f
  sh := rfl
  lane := accOp_hasLane ((issuing_handler s cl).trans main) ((issuing_laneCount s cl).symm ▸ lane.1) (issuing_lane lane) an f
  value x e := by
    cases e
    exact tget_tset_same _ _ _ _
  others m h := tget_tset_other _ _ _ _ _ (h.resolve_left nofun)

/-- Settles O16: the accumulation, then the two loads, then the two pointers. -/
theorem dualFormatLoadsAndAccumulates : Obligations.DualFormatLoadsAndAccumulates := by
  unfold Obligations.DualFormatLoadsAndAccumulates
  intro s i an dx dy k dl l atInstr residueOk lane main pointers apart c a x at' cmem p listed
  have ⟨g, acc, issues, accumulates⟩ : ∃ g acc, exec p.1 s = dualCI dl i (fun c => dualLoads dl (g c)) s ∧
      Accumulates s i.cl k an l p.2 g acc := by
    simp only [List.mem_cons, List.not_mem_nil, or_false] at listed
    rcases listed with rfl | rfl | rfl | rfl
    · exact ⟨_, _, rfl, accumulates_none lane an⟩
    · exact ⟨_, _, rfl, accumulates_accOp lane main an fun l => l.product dx dy⟩
    · exact ⟨_, _, rfl, accumulates_accOp lane main an fun l => (l.acc an).toInt + l.product dx dy⟩
    · exact ⟨_, _, rfl, accumulates_accOp lane main an fun l => (l.acc an).toInt - l.product dx dy⟩
  have straight : Cluster.Straight fun c => dualLoads dl (g c) := .of_dataOnly fun c => (accumulates.data c).trans (dualLoads_data _ dl)
  obtain ⟨t, runs, issued, left⟩ := issueCI_straight straight atInstr residueOk
  have data := accumulates.data (s.issuing i.cl)
  have main := data.handler.trans ((issuing_handler s i.cl).trans main)
  have regs (code : Nat) : (g (s.issuing i.cl)).shared code = c.shared code := by
    unfold Cluster.shared
    rw [accumulates.sh]
  have addrs (d : DualLoad) : (g (s.issuing i.cl)).dualAddr d = at' d := by
    unfold Cluster.dualAddr
    rw [regs]
  have words (d : DualLoad) : (g (s.issuing i.cl)).loadWord { l.tick with a := acc } ((g (s.issuing i.cl)).dualAddr d) = c.loadWord l (at' d) := by
    rw [addrs]
    exact data.loadWord (l := l.tick) rfl _
  have inCmem (d : DualLoad) : (g (s.issuing i.cl)).inCmem ((g (s.issuing i.cl)).dualAddr d) = c.inCmem (at' d) := by
    rw [addrs]
    exact data.field (·.inCmem (at' d)) fun _ _ _ _ _ _ => rfl
  obtain ⟨l', get, took⟩ := dualLoads_get accumulates.lane main fun d e h k => (apart d e h k).2
  obtain ⟨accs, flags, lmem, noise⟩ := took.frame
  refine ⟨t, l', issues.trans ((dualCI_apart apart i _ s).trans runs), issued, laneIs_past lane straight left get,
    fun v h => (congrArg (tget 0 · an) accs).trans (accumulates.value v h), fun m h => (congrArg (tget 0 · m) accs).trans (accumulates.others m h),
    fun d h => (took.first d h).trans (by rw [words]), fun e h apart => (took.second e h).trans ?_, fun d e h k cd ce => ?_,
    fun r => (took.now r).trans (sees_congr rfl rfl r), flags, lmem, noise, fun d h => ?_⟩
  · rw [dualClash_of_apart h fun d k => by rw [inCmem, inCmem]; exact apart d k, words]
    rfl
  · have both : (g (s.issuing i.cl)).dualClash dl = true := by
      rw [dualClash_some h k, inCmem, inCmem]
      exact Bool.and_eq_true_iff.2 ⟨cd, ce⟩
    exact ⟨(took.second e k).trans (if_pos both), took.clash both⟩
  · rw [left, past_shared _ (by have := pointers d h; omega)]
    exact (dualLoads_pointer main pointers (fun d e h k => (apart d e h k).1) h).trans (pointerAfter_congr (regs _) fun code _ => regs code)

end Sys2Proof.Machine
end

section
/-! PROOF. Control instructions and moves (R118, R151, R152, R158): O19 and O20. -/

namespace Sys2Proof.Machine

/-! ### Control instructions (R151) -/

/-- The element of a list at a position, as the library writes it. -/
theorem at?_eq_getD {α : Type} (d : α) (l : List α) (n : Nat) : at? d l n = (l[n]?).getD d := by
  induction l generalizing n with
  | nil => rfl
  | cons x t ih =>
    cases n with
    | zero => rfl
    | succ n => exact ih n

/-- What a control effect leaves of its cluster: the lanes too, and the count of instructions. -/
structure Cluster.Controls (a b : Cluster) : Prop extends a.StaysIn b where
  lanes : b.lanes = a.lanes
  issued : b.issued = a.issued
  ended : b.ended = a.ended

theorem OnlyCluster.controlIn {s t : State} {cl n : Nat} {b : Cluster} (only : OnlyCluster s t cl) (controls : (s.issuing cl).Controls b)
    (left : t.cluster cl = { b.past with slots := n }) : ControlIn s t cl := by
  refine ⟨only.issuedIn controls.toStaysIn left, ?_, ?_⟩
  · rw [left]
    exact (past_lanes b).trans controls.lanes
  · rw [left]
    exact congrArg (· + 1) (controls.issued.trans (ageAll_issued _))

/-- A control instruction that starts no delay slots, where none are under way. -/
theorem issueCtl_plain {s : State} {cl : Nat} {f : Cluster → Cluster} {b : Cluster} (effect : f (s.issuing cl) = b) (controls : (s.issuing cl).Controls b)
    (noSlots : b.after = none) : ∃ t, issueCtl cl f s = .next t ∧ ControlIn s t cl ∧ t.cluster cl = b.past := by
  obtain ⟨t, issues, only, left⟩ := issueCtl_next ((congrArg Cluster.advance effect).trans (advance_of_no_slots noSlots))
    (by rw [past_ended, controls.ended, issuing_ended]; exact fun h => h)
  exact ⟨t, issues, only.controlIn (n := b.past.slots) controls left, left⟩

/-- A control instruction that starts its two delay slots. -/
theorem issueCtl_branch {s : State} {cl : Nat} {f : Cluster → Cluster} {b : Cluster} {a : AfterSlots} (effect : f (s.issuing cl) = b.branchTo a)
    (controls : (s.issuing cl).Controls (b.branchTo a)) : ∃ t, issueCtl cl f s = .next t ∧ ControlIn s t cl ∧ (t.cluster cl).after = some a ∧
      (t.cluster cl).slots = 2 ∧ t.cluster cl = { (b.branchTo a).past with slots := 2 } := by
  have ended : (b.branchTo a).past.ended = (s.cluster cl).ended := by rw [past_ended, controls.ended, issuing_ended]
  have slots : (b.branchTo a).advance = { (b.branchTo a).past with slots := 2 } := advance_of_slots (a := a) rfl (by show 1 < 3; omega)
  obtain ⟨t, issues, only, left⟩ := issueCtl_next ((congrArg Cluster.advance effect).trans slots) fun h => ended.symm.trans h
  refine ⟨t, issues, only.controlIn (n := 2) controls left, ?_, ?_, left⟩
  · rw [left]
    exact past_after _
  · rw [left]

theorem controls_refl (c : Cluster) : c.Controls c := ⟨⟨rfl, rfl, rfl, rfl, rfl⟩, rfl, rfl, rfl⟩

theorem controls_branchTo (c : Cluster) (a : AfterSlots) : c.Controls (c.branchTo a) := ⟨⟨rfl, rfl, rfl, rfl, rfl⟩, rfl, rfl, rfl⟩

theorem controls_linkTo (c : Cluster) (link : Nat) (a : AfterSlots) : c.Controls ((c.setShared 0x4B link).branchTo a) :=
  ⟨⟨rfl, rfl, rfl, rfl, rfl⟩, rfl, rfl, rfl⟩

/-- NOP in a delay slot that is not the last. -/
theorem nop_in_slot {s : State} {cl : Nat} {a : AfterSlots} (slots : (s.cluster cl).after = some a) (more : 1 < (s.cluster cl).slots) :
    ∃ t, exec (.nop cl) s = .next t ∧ OnlyCluster s t cl ∧ t.cluster cl = { (s.issuing cl).past with slots := (s.cluster cl).slots - 1 } := by
  have left := advance_of_slots ((issuing_after s cl).trans slots) ((issuing_slots s cl).symm ▸ more)
  rw [issuing_slots] at left
  exact issueCtl_next (f := id) left fun h => (issuing_ended s cl).symm.trans ((past_ended _).symm.trans h)

/-- NOP in the last delay slot of an instruction that ends no step. -/
theorem nop_in_last_slot {s : State} {cl : Nat} {a : AfterSlots} (slots : (s.cluster cl).after = some a) (last : (s.cluster cl).slots ≤ 1)
    (noEnd : ((s.issuing cl).past.slotsOver a).ended = true → (s.cluster cl).ended = true) :
    ∃ t, exec (.nop cl) s = .next t ∧ OnlyCluster s t cl ∧ t.cluster cl = (s.issuing cl).past.slotsOver a :=
  issueCtl_next (f := id) (advance_of_last_slot ((issuing_after s cl).trans slots) ((issuing_slots s cl).symm ▸ last)) noEnd

/-! ### The return from a handler (R165-R167) -/

theorem tget_withKeys_other {α : Type} (d : α) {ks : List Nat} {i : Nat} (h : i ∉ ks) (t u : Tab α) : tget d (withKeys d ks t u) i = tget d t i := by
  unfold withKeys
  induction ks generalizing t with
  | nil => rfl
  | cons k ks ih =>
    rw [List.mem_cons, not_or] at h
    obtain ⟨other, rest⟩ := h
    exact (ih rest _).trans (tget_tset_other _ _ _ _ _ other)

/-- A cluster that has returned from its handler runs the main program again, at the instruction where the interrupt came. -/
structure Cluster.Returned (c : Cluster) (v : SavedCtx) (d : Cluster) : Prop where
  handler : d.handler = false
  pc : d.pc = v.idx
  saved : d.saved = none
  after : d.after = c.after
  ended : d.ended = c.ended
  laneCount : d.laneCount = c.laneCount
  lanes : d.lanes = mapBelow (fun i (l : Lane) => l.giveBack v ((List.range c.resD).map (31 - ·)) i) c.laneCount 0 c.lanes
  link : d.shared 0x4B = tget 0 v.sh 0x4B

theorem keptShared_not_link (c : Cluster) (v : SavedCtx) : 0x4B ∉ c.keptShared v := by
  unfold Cluster.keptShared
  simp only [List.mem_append, List.mem_cons, List.mem_map, List.mem_range, not_or, not_exists, not_and]
  refine ⟨⟨by decide, fun n _ => by omega⟩, ?_⟩
  split
  · intro h
    simpa using (List.mem_filter.1 h).1
  · exact List.not_mem_nil

theorem restore_returned {c : Cluster} {v : SavedCtx} (saved : c.saved = some v) : c.Returned v c.restore := by
  have landed := landAll_loops c.sharedFlight c
  have ik := landed.field (·.ik) fun _ _ _ _ _ _ => rfl
  have after := landed.field (·.after) fun _ _ _ _ _ _ => rfl
  have ended := landed.field (·.ended) fun _ _ _ _ _ _ => rfl
  have count := landed.field (·.laneCount) fun _ _ _ _ _ _ => rfl
  have link := tget_withKeys_other 0 (keptShared_not_link (landAll c.sharedFlight c) v) v.sh (landAll c.sharedFlight c).sh
  unfold Cluster.restore
  split
  · rename_i none
    cases none.symm.trans saved
  · rename_i w some
    cases some.symm.trans saved
    dsimp only
    split <;> exact ⟨rfl, rfl, rfl, after, ended, count, rfl, link⟩

/-- With or without a saved context, the return leaves no delay slots and ends no step. -/
theorem restore_after (c : Cluster) : c.restore.after = c.after ∧ c.restore.ended = c.ended := by
  cases saved : c.saved with
  | none =>
    unfold Cluster.restore
    rw [saved]
    exact ⟨rfl, rfl⟩
  | some v => exact ⟨(restore_returned saved).after, (restore_returned saved).ended⟩

/-! ### Branches (R151, R152) -/

theorem reduce_iff (red : Nat) (bs : List Bool) :
    reduce red bs = true ↔ if red = 0 then bs.head? = some true else if red = 1 then true ∈ bs else false ∉ bs := by
  match red with
  | 0 => cases bs <;> simp [reduce, at?]
  | 1 => simp [reduce]
  | n + 2 => simp [reduce]

/-- A branch is taken where its condition, reduced over the lanes, holds on the flags of three instructions ago. -/
theorem branchTaken_iff {s : State} {cl cond red : Nat} {fl : List Bool}
    (flags : fl = ((s.aged cl).lanes.take (s.cluster cl).laneCount).map fun l => condHolds cond ((l.fhist[2]?).getD {})) :
    (s.issuing cl).branchTaken cond red = true ↔ if red = 0 then fl.head? = some true else if red = 1 then true ∈ fl else false ∉ fl := by
  rw [← reduce_iff, flags]
  unfold Cluster.branchTaken
  rw [issuing_laneCount]
  simp only [Lane.branchFlags, at?_eq_getD]
  rfl

/-- Settles O20: three instructions start delay slots, NOP does nothing, and a delay slot counts down or is the last. -/
theorem branchesHaveTwoDelaySlots : Obligations.BranchesHaveTwoDelaySlots := by
  unfold Obligations.BranchesHaveTwoDelaySlots
  intro s cl cond red target idle
  refine ⟨fun noSlots => ?_, fun a slots more => ?_, fun a slots goesOn last => ?_⟩
  · intro fl taken
    refine ⟨?_, ?_, ?_, ?_⟩
    · have test : (s.issuing cl).branchTaken cond red = true ↔ taken := branchTaken_iff rfl
      obtain ⟨t, issues, control, after, two, -⟩ := issueCtl_branch
        (f := fun c => c.branchTo (if c.branchTaken cond red then .target target else .fall)) rfl (controls_branchTo _ _)
      refine ⟨t, issues, control, two, fun h => ?_, fun h => ?_⟩
      · rw [after, if_pos (test.2 h)]
      · rw [after, if_neg (mt test.1 h)]
    · obtain ⟨t, issues, control, after, two, left⟩ := issueCtl_branch
        (f := fun c => (c.setShared 0x4B (c.pc + 3)).branchTo (.target target)) (s := s) (cl := cl)
        rfl (controls_linkTo _ _ _)
      refine ⟨t, issues, control, after, two, ?_⟩
      rw [left]
      refine (past_shared _ (by omega)).trans ((shared_setShared_same _ _ _).trans ?_)
      exact congrArg (fun pc => (pc + 3) % 2 ^ 15) (ageAll_pc _)
    · obtain ⟨t, issues, control, after, two, -⟩ := issueCtl_branch
        (f := fun c => c.branchTo (.target (c.shared 0x4B))) (s := s) (cl := cl) rfl (controls_branchTo _ _)
      exact ⟨t, issues, control, after, two⟩
    · have noSlots := (issuing_after s cl).trans noSlots
      obtain ⟨t, issues, control, left⟩ := issueCtl_plain (f := id) (b := s.issuing cl) rfl (controls_refl _) noSlots
      refine ⟨t, issues, control, ?_, ?_⟩
      · rw [left]
        exact (past_after _).trans noSlots
      · rw [left, past_of_no_loop (c := s.issuing cl) idle]
        rfl
  · obtain ⟨t, issues, only, left⟩ := nop_in_slot slots more
    refine ⟨t, issues, only, ?_, ?_, ?_⟩
    · rw [left]
      exact (past_after _).trans ((issuing_after s cl).trans slots)
    · rw [left]
    · rw [left, past_of_no_loop (c := s.issuing cl) idle]
      exact congrArg (· + 1) (ageAll_pc _)
  · have past := past_of_no_loop (c := s.issuing cl) idle
    have pc : (s.issuing cl).pc = (s.cluster cl).pc := ageAll_pc _
    have ended : (s.issuing cl).past.ended = (s.cluster cl).ended := (past_ended _).trans (issuing_ended s cl)
    cases a with
    | target x =>
      obtain ⟨t, issues, only, left⟩ := nop_in_last_slot slots last (ended ▸ fun h => h)
      exact ⟨t, issues, only, left ▸ rfl, fun y h => by cases h; rw [left]; rfl, nofun⟩
    | fall =>
      obtain ⟨t, issues, only, left⟩ := nop_in_last_slot slots last (ended ▸ fun h => h)
      exact ⟨t, issues, only, left ▸ rfl, nofun, fun _ => by rw [left, past, ← pc]; rfl⟩
    | ends => exact absurd rfl goesOn
    | reti =>
      obtain ⟨after, end_⟩ := restore_after { (s.issuing cl).past with after := none, slots := 0 }
      obtain ⟨t, issues, only, left⟩ := nop_in_last_slot slots last fun h => ended ▸ end_.symm.trans h
      exact ⟨t, issues, only, left ▸ after, nofun, nofun⟩

/-! ### Moves (R158) -/

/-- A move into a D register of every executing lane, at once (R118). -/
theorem moveToD_next {s : State} {cl k : Nat} {l : Lane} (noSlots : (s.cluster cl).after = none) (lane : s.LaneIs cl k l)
    (main : (s.cluster cl).handler = false) (dst : Nat) (f : Cluster → Nat → Lane → Word) :
    ∃ t l', issueCtl cl (fun c => putOp dst false (f c) c) s = .next t ∧ IssuedIn s t cl ∧ t.LaneIs cl k l' ∧
      l'.sees dst = f (s.issuing cl) k l.tick ∧ (∀ r, r ≠ dst → l'.sees r = l.tick.sees r) ∧ l'.fl = l.fl ∧ l'.st = l.st ∧ l.KeepsRest l' := by
  have straight : Cluster.Straight fun c => putOp dst false (f c) c := .of_dataOnly fun c => by
    unfold putOp
    exact onLanes_data _ c
  obtain ⟨t, issues, issued, left⟩ := issueCtl_straight straight noSlots
  have get := putOp_get (dd := dst) ((issuing_handler s cl).trans main) ((issuing_laneCount s cl).symm ▸ lane.1) (issuing_lane lane) false (f (s.issuing cl))
  refine ⟨t, _, issues, issued, laneIs_past lane straight left get, ?_, fun r other => ?_, rfl, rfl, rfl, rfl, rfl⟩
  · rw [sees_put, if_pos ⟨rfl, rfl⟩]
  · rw [sees_put, if_neg fun h => other h.1]

theorem mayShared_main {c : Cluster} (main : c.handler = false) (code : Nat) : c.mayShared code = true := by
  unfold Cluster.mayShared
  split
  · exact mayP_main main _
  · split
    · rw [main]
      rfl
    · rfl

/-- A move into a shared register is on its way at most. -/
theorem sendShared_controls (c : Cluster) (code v : Nat) :
    c.Controls (c.sendShared code v) ∧ (c.sendShared code v).after = c.after ∧ (c.sendShared code v).sh = c.sh := by
  unfold Cluster.sendShared
  split <;> exact ⟨⟨⟨rfl, rfl, rfl, rfl, rfl⟩, rfl, rfl, rfl⟩, rfl, rfl⟩

/-- Outside a handler it is on its way but for ISRC and codes that name no register. -/
theorem sendShared_flight {c : Cluster} (main : c.handler = false) (code v : Nat) : (c.sendShared code v).sharedFlight =
    c.sharedFlight ++ (if shWidth code = 0 ∨ code = 0x4C then [] else [⟨code, v % 2 ^ shWidth code, 0⟩]) := by
  unfold Cluster.sendShared
  rw [mayShared_main main]
  by_cases none : shWidth code = 0 ∨ code = 0x4C
  · rw [if_pos none, if_neg (by simp; omega), List.append_nil]
  · rw [if_neg none, if_pos (by simp; omega)]

theorem moveToShared_next {s : State} {cl dst v : Nat} {f : Cluster → Cluster} (noSlots : (s.cluster cl).after = none)
    (main : (s.cluster cl).handler = false) (idle : (s.aged cl).loopActive = false) (sends : f (s.issuing cl) = (s.issuing cl).sendShared dst v) :
    ∃ t, issueCtl cl f s = .next t ∧ ControlIn s t cl ∧ (t.cluster cl).sh = (s.aged cl).sh ∧ (t.cluster cl).sharedFlight =
      (s.aged cl).sharedFlight ++ (if shWidth dst = 0 ∨ dst = 0x4C then [] else [⟨dst, v % 2 ^ shWidth dst, 0⟩]) := by
  obtain ⟨controls, after, sh⟩ := sendShared_controls (s.issuing cl) dst v
  obtain ⟨t, issues, control, left⟩ := issueCtl_plain sends controls (after.trans ((issuing_after s cl).trans noSlots))
  rw [past_of_no_loop (controls.loopActive.trans idle)] at left
  refine ⟨t, issues, control, ?_, ?_⟩
  · rw [left]
    exact sh
  · rw [left]
    exact sendShared_flight ((issuing_handler s cl).trans main) dst v

/-- Settles O19: each move goes into D registers, or into a shared register. -/
theorem movesCopyRegisters : Obligations.MovesCopyRegisters := by
  unfold Obligations.MovesCopyRegisters
  intro s cl dst src k imm l l0 noSlots lane lane0 main idle c
  refine ⟨fun p listed toD => ?_, fun p listed toShared => ?_⟩
  · have ⟨f, issues, value⟩ : ∃ f : Cluster → Nat → Lane → Word, exec p.1 s = issueCtl cl (fun c => putOp dst false (f c) c) s ∧
        f (s.issuing cl) k l.tick = p.2 := by
      simp only [List.mem_cons, List.not_mem_nil, or_false] at listed
      rcases listed with rfl | rfl
      · have op : mvrOp dst src = fun c => putOp dst false (fun _ l => if src < 0x20 then l.operand src else c.sharedToD src) c := by
          funext c
          unfold mvrOp
          rw [if_pos toD]
          split <;> rfl
        exact ⟨_, congrArg (issueCtl cl · s) op, rfl⟩
      · have op : mviOp dst imm = fun c => putOp dst false (fun _ _ => w32 (imm % 2 ^ 24)) c := funext fun c => if_pos toD
        exact ⟨_, congrArg (issueCtl cl · s) op, rfl⟩
    rw [issues, ← value]
    exact moveToD_next noSlots lane main dst f
  · have ⟨f, issues, sends⟩ : ∃ f : Cluster → Cluster, exec p.1 s = issueCtl cl f s ∧ f (s.issuing cl) = (s.issuing cl).sendShared dst p.2 := by
      simp only [List.mem_cons, List.not_mem_nil, or_false] at listed
      rcases listed with rfl | rfl
      · refine ⟨_, rfl, ?_⟩
        unfold mvrOp
        rw [if_neg (Nat.not_lt.2 toShared), at?_eq_getD, issuing_lane lane0]
        rfl
      · exact ⟨_, rfl, if_neg (Nat.not_lt.2 toShared)⟩
    rw [issues]
    exact moveToShared_next noSlots main idle sends

end Sys2Proof.Machine
end

section
/-! PROOF. Interrupts (R164-R168): DI, EI, TRAP, the entry of the handler and RETI: O21. -/

namespace Sys2Proof.Machine

/-! ### The mask and the requests (R151, R164) -/

theorem controls_requests (c : Cluster) (mask : Bool) (pend : Nat) : c.Controls { c with mask := mask, pend := pend } :=
  ⟨⟨rfl, rfl, rfl, rfl, rfl⟩, rfl, rfl, rfl⟩

/-- An instruction that sets the mask, the pending sources or neither. -/
theorem issueCtl_requests {s : State} {cl : Nat} {f : Cluster → Cluster} (noSlots : (s.cluster cl).after = none) (mask : Bool) (pend : Nat)
    (effect : f (s.issuing cl) = { s.issuing cl with mask := mask, pend := pend }) :
    ∃ t, issueCtl cl f s = .next t ∧ ControlIn s t cl ∧ (t.cluster cl).after = none ∧ (t.cluster cl).mask = mask ∧ (t.cluster cl).pend = pend := by
  obtain ⟨t, issues, control, left⟩ := issueCtl_plain effect (controls_requests _ mask pend) ((issuing_after s cl).trans noSlots)
  refine ⟨t, issues, control, ?_, ?_, ?_⟩
  · rw [left]
    exact (past_after _).trans ((issuing_after s cl).trans noSlots)
  · rw [left, past_mask]
  · rw [left, past_pend]

theorem issuing_mask (s : State) (cl : Nat) : (s.issuing cl).mask = (s.cluster cl).mask := ageAll_mask _

theorem issuing_pend (s : State) (cl : Nat) : (s.issuing cl).pend = (s.cluster cl).pend := ageAll_pend _

/-! ### The entry of the handler (R164, R165, R167, R168) -/

/-- The lowest pending source is the one that the handler serves. -/
theorem lowestSource_eq {m src : Nat} (known : src ≤ 2) (pending : m.testBit src = true) (lowest : ∀ j, j < src → m.testBit j = false) :
    lowestSource m = src := by
  unfold lowestSource
  rw [bitAt_eq_testBit, bitAt_eq_testBit]
  match src with
  | 0 => rw [if_pos pending]
  | 1 => rw [if_neg (by simp [lowest 0]), if_pos pending]
  | 2 => rw [if_neg (by simp [lowest 0]), if_neg (by simp [lowest 1])]
  | n + 3 => omega

/-- A pending source enters at an interruptible boundary. -/
theorem execInterruptEntry_enters {s : State} {cl src : Nat} (boundary : (s.cluster cl).interruptible = true)
    (pending : (s.cluster cl).ready.testBit src = true) : ∃ t, exec (.interruptEntry cl) s = .next t ∧ OnlyCluster s t cl ∧
      t.cluster cl = (s.cluster cl).enterHandler := by
  have some : (s.cluster cl).ready ≠ 0 := by
    intro none
    simp [none] at pending
  refine ⟨_, rfl, onlyCluster_setCluster s cl _, (State.cluster_setCluster_same _ _ _).trans (if_pos ?_)⟩
  rw [Bool.and_eq_true, decide_eq_true_eq]
  exact ⟨boundary, some⟩

/-- What a cluster is in its handler. -/
structure Cluster.Entered (c : Cluster) (src : Nat) (d : Cluster) : Prop where
  handler : d.handler = true
  pc : d.pc = c.img.handlerEntry
  source : d.shared 0x4C = src
  pend : d.pend = c.pend - 2 ^ src
  issued : d.issued = c.issued + 3
  loop : c.ik = false → d.loopActive = false
  lanes : d.lanes = c.lanes.map fun l => { l with d := landD l.d l.flight, flight := [] }
  saved : d.saved = some {
    idx := c.pc, flags := c.lanes.map (·.fl), sticky := c.lanes.map (·.st), fhist := c.lanes.map (·.fhist), flight := c.lanes.map (·.flight)
    shared := c.sharedFlight, d := c.lanes.map (·.d), sh := c.sh, loop := c.frame, loops := c.loopStack }

theorem enterHandler_entered {c : Cluster} {src : Nat} (known : src ≤ 2) (lowest : lowestSource c.ready = src) : c.Entered src c.enterHandler := by
  unfold Cluster.enterHandler
  rw [lowest]
  refine ⟨rfl, rfl, ?_, rfl, rfl, fun native => ?_, rfl, rfl⟩
  · exact shared_setShared_fits _ (code := 0x4C) (by show src < 2 ^ 2; omega)
  · show (if c.ik = true then c else _ : Cluster).loopActive = false
    rw [if_neg (by simp [native])]

/-! ### The return (R165-R167) -/

/-- A register outside the reserved set is the main program's again. -/
theorem giveBack_register (l : Lane) (v : SavedCtx) (i : Nat) {n r : Nat} (outside : r < 32 - n) :
    tget 0 (l.giveBack v ((List.range n).map (31 - ·)) i).d r = tget 0 ((v.d[i]?).getD []) r := by
  refine (tget_withKeys_other 0 ?_ _ _).trans (by rw [at?_eq_getD])
  simp only [List.mem_map, List.mem_range, not_exists, not_and]
  intro k hk
  omega

/-- Settles O21: three masks and requests, the entry, and the return to what the entry saved. -/
theorem interruptsEnterAndReturn : Obligations.InterruptsEnterAndReturn := by
  unfold Obligations.InterruptsEnterAndReturn
  intro s cl src c
  refine ⟨fun noSlots => ?_, fun stepping notEnded main unmasked noSlots noRpt notAfter known pending lowest => ?_, fun v slots last saved => ?_⟩
  · refine ⟨?_, ?_, ?_, ?_⟩
    · obtain ⟨t, issues, control, -, mask, pend⟩ := issueCtl_requests (f := fun c => { c with mask := true }) noSlots true (s.issuing cl).pend rfl
      exact ⟨t, issues, control, mask, pend.trans (issuing_pend s cl)⟩
    · obtain ⟨t, issues, control, -, mask, pend⟩ := issueCtl_requests (f := fun c => { c with mask := false }) noSlots false (s.issuing cl).pend rfl
      exact ⟨t, issues, control, mask, pend.trans (issuing_pend s cl)⟩
    · obtain ⟨t, issues, control, -, mask, pend⟩ := issueCtl_requests (f := fun c => if c.handler then c else c.pendSource 0) noSlots
        (s.issuing cl).mask (if c.handler then (s.issuing cl).pend else (s.issuing cl).pend ||| 1)
        (by rw [issuing_handler]; cases (s.cluster cl).handler <;> rfl)
      exact ⟨t, issues, control, mask.trans (issuing_mask s cl), by rw [pend, issuing_pend]⟩
    · cases main : c.handler with
      | true =>
        obtain ⟨t, issues, control, after, -⟩ := issueCtl_branch (f := fun c => if c.handler then c.branchTo .reti else c)
          (if_pos ((issuing_handler s cl).trans main)) (controls_branchTo _ _)
        exact ⟨t, issues, control, after⟩
      | false =>
        obtain ⟨t, issues, control, after, -⟩ := issueCtl_requests (f := fun c => if c.handler then c.branchTo .reti else c) noSlots
          (s.issuing cl).mask (s.issuing cl).pend (if_neg (by rw [issuing_handler]; exact ne_true_of_eq_false main))
        exact ⟨t, issues, control, after⟩
  · have boundary : c.interruptible = true := by
      simp [Cluster.interruptible, stepping, notEnded, main, unmasked, noSlots, noRpt, notAfter]
    obtain ⟨t, enters, only, left⟩ := execInterruptEntry_enters boundary pending
    have entered := enterHandler_entered known (lowestSource_eq known pending lowest)
    rw [← left] at entered
    refine ⟨t, enters, only, entered.handler, entered.pc, entered.source, entered.pend, entered.issued, entered.loop, fun k l get => ?_,
      _, entered.saved, rfl, rfl, rfl, rfl, rfl, rfl, rfl⟩
    exact ⟨_, by rw [entered.lanes, List.getElem?_map, get]; rfl, rfl, rfl⟩
  · have returned : Cluster.Returned { (s.issuing cl).past with after := none, slots := 0 } v _ :=
      restore_returned ((past_saved _).trans ((ageAll_saved _).trans saved))
    obtain ⟨t, issues, only, left⟩ := nop_in_last_slot slots last fun h =>
      (issuing_ended s cl).symm.trans ((past_ended _).symm.trans (returned.ended.symm.trans h))
    rw [← show t.cluster cl = Cluster.restore { (s.issuing cl).past with after := none, slots := 0 } from left] at returned
    refine ⟨t, issues, only, returned.handler, returned.pc, returned.link, returned.saved, returned.after, fun k l' lane => ?_⟩
    obtain ⟨below, get⟩ := lane
    rw [returned.lanes, mapBelow_get] at get
    rw [returned.laneCount] at below
    obtain ⟨l, -, rfl⟩ := Option.map_eq_some_iff.1 get
    rw [if_pos (by rwa [Nat.zero_add]), Nat.zero_add]
    refine ⟨at?_eq_getD _ _ _, at?_eq_getD _ _ _, fun r outside => giveBack_register l v k ?_⟩
    have reserved : (s.issuing cl).past.resD = (s.cluster cl).resD := (past_resD _).trans (ageAll_resD _)
    exact reserved.symm ▸ outside

end Sys2Proof.Machine
end

section
/-! PROOF. Loops (R160-R163, R172): RPT, LOOP, LOOPP, LEAVE and the end of a loop: O22. -/

namespace Sys2Proof.Machine

/-! ### Repeats (R160) -/

/-- Outside IK mode moves that land leave the loop-active bit (R158, R172). -/
theorem landShared_native {c : Cluster} (native : c.ik = false) (l : List SharedFlight) : (landShared l c).loopActive = c.loopActive := by
  induction l generalizing c with
  | nil => rfl
  | cons e t ih =>
    unfold landShared
    split
    · have written : (c.setShared e.code e.val).loopWritten e.code = c.setShared e.code e.val := if_pos (by simp [Cluster.setShared, native])
      rw [written]
      exact ih (c := c.setShared e.code e.val) native
    · exact ih native

/-- No loop runs, and none starts by moves that land. -/
structure Cluster.NoLoop (c : Cluster) : Prop where
  loop : c.loopActive = false
  lands : c.ik = false ∨ c.sharedFlight = []

theorem Cluster.NoLoop.ageAll {c : Cluster} (h : c.NoLoop) : c.ageAll.NoLoop := by
  rcases h.lands with native | nothing
  · exact ⟨(landShared_native (c := { c with lanes := mapBelow (fun _ l => l.tick) c.laneCount 0 c.lanes }) native _).trans h.loop,
      .inl ((ageAll_ik c).trans native)⟩
  · have aged : c.ageAll = { c with lanes := mapBelow (fun _ l => l.tick) c.laneCount 0 c.lanes, sharedFlight := [] } := by
      unfold Cluster.ageAll
      rw [show ({ c with lanes := mapBelow (fun _ l => l.tick) c.laneCount 0 c.lanes } : Cluster).sharedFlight = [] from nothing]
      rfl
    rw [aged]
    exact ⟨h.loop, .inr rfl⟩

theorem Cluster.NoLoop.data {a b : Cluster} (h : a.NoLoop) (data : a.DataOnly b) : b.NoLoop := by
  obtain ⟨_, _, _, _, _, _, rfl⟩ := data
  exact ⟨h.loop, h.lands⟩

/-- A cluster in which an instruction without a control transfer has issued `n` times so far. -/
structure Cluster.Repeated (f : Cluster) (n : Nat) (c : Cluster) : Prop where
  noLoop : c.NoLoop
  after : c.after = none
  rpt : c.rpt = 0
  pc : c.pc = f.pc
  issued : c.issued = f.issued + n
  ended : c.ended = f.ended

/-- The effect of an instruction on data keeps what a repeat keeps. -/
theorem Cluster.Repeated.effect {f c : Cluster} {n : Nat} (h : Cluster.Repeated f n c) {g : Cluster → Cluster} (data : ∀ c : Cluster, c.DataOnly (g c)) :
    Cluster.Repeated f n (g c.ageAll) := by
  have noLoop := h.noLoop.ageAll.data (data c.ageAll)
  have d := data c.ageAll
  have rpt : c.ageAll.rpt = c.rpt := (ageAll_loops c).field (·.rpt) fun _ _ _ _ _ _ => rfl
  exact ⟨noLoop, (d.field (·.after) fun _ _ _ _ _ _ => rfl).trans ((ageAll_after c).trans h.after),
    (d.field (·.rpt) fun _ _ _ _ _ _ => rfl).trans (rpt.trans h.rpt), (d.field (·.pc) fun _ _ _ _ _ _ => rfl).trans ((ageAll_pc c).trans h.pc),
    (d.field (·.issued) fun _ _ _ _ _ _ => rfl).trans ((ageAll_issued c).trans h.issued),
    (d.field (·.ended) fun _ _ _ _ _ _ => rfl).trans ((ageAll_ended c).trans h.ended)⟩

theorem Cluster.Repeated.iter {f c : Cluster} {n : Nat} (h : Cluster.Repeated f n c) {g : Cluster → Cluster} (data : ∀ c : Cluster, c.DataOnly (g c))
    (k : Nat) : Cluster.Repeated f (n + k) (iter (Cluster.repeat1 g) k c) := by
  induction k generalizing n c with
  | zero => exact h
  | succ k ih =>
    have e := h.effect data
    have next : Cluster.Repeated f (n + 1) (Cluster.repeat1 g c) := ⟨⟨e.noLoop.loop, e.noLoop.lands⟩, e.after, e.rpt, e.pc, congrArg (· + 1) e.issued, e.ended⟩
    rw [show n + (k + 1) = n + 1 + k by omega]
    exact ih next

/-- RPT: the instruction after it issues as often as it says, and the program counter moves once. -/
theorem issueRep_repeats {s : State} {cl : Nat} {g : Cluster → Cluster} (data : ∀ c : Cluster, c.DataOnly (g c)) (noSlots : (s.cluster cl).after = none)
    (noLoop : (s.cluster cl).NoLoop) : ∃ t, issueRep cl g s = .next t ∧ (t.cluster cl).issued = (s.cluster cl).issued + max 1 (s.cluster cl).rpt ∧
      (t.cluster cl).pc = (s.cluster cl).pc + 1 ∧ (t.cluster cl).rpt = 0 := by
  have start : Cluster.Repeated (s.cluster cl) 0 { s.cluster cl with rpt := 0 } := ⟨⟨noLoop.loop, noLoop.lands⟩, noSlots, rfl, rfl, rfl, rfl⟩
  have last := (start.iter data ((s.cluster cl).rpt - 1)).effect data
  obtain ⟨-, left⟩ := issueIn_next (s := s) (cl := cl) (f := Cluster.issue g) (advance_of_no_slots last.after) fun h => last.ended.symm.trans ((past_ended _).symm.trans h)
  refine ⟨_, rfl, ?_, ?_, ?_⟩
  · rw [left]
    refine (congrArg (· + 1) last.issued).trans ?_
    omega
  · rw [left, past_of_no_loop last.noLoop.loop]
    exact congrArg (· + 1) last.pc
  · rw [left]
    exact (past_rpt _).trans last.rpt

/-! ### The start of a loop (R161, R163) -/

/-- An outer loop of native mode is on the stack; that of IK mode is overwritten (R172). -/
theorem nestLoop_frame (c : Cluster) : c.nestLoop.loopActive = c.loopActive ∧ c.nestLoop.issued = c.issued ∧ c.nestLoop.loopStack =
    if !c.ik && c.loopActive then (⟨c.shared 0x48, c.shared 0x49, c.shared 0x4A, true⟩ :: c.loopStack).take 4 else c.loopStack := by
  unfold Cluster.nestLoop Cluster.pushLoop Cluster.frame
  cases active : c.loopActive
  · simp [active]
  · cases c.ik <;> simp

/-- LC, LS and LE of a loop. -/
def Cluster.setLoop (c : Cluster) (lc ls le : Nat) : Cluster := ((c.setShared 0x48 lc).setShared 0x49 ls).setShared 0x4A le

theorem setLoop_shared (c : Cluster) (lc ls le : Nat) : (c.setLoop lc ls le).shared 0x48 = lc % 2 ^ 17 ∧
    (c.setLoop lc ls le).shared 0x49 = ls % 2 ^ 15 ∧ (c.setLoop lc ls le).shared 0x4A = le % 2 ^ 15 := by
  unfold Cluster.setLoop
  refine ⟨?_, ?_, shared_setShared_same _ _ _⟩
  · rw [shared_setShared_other _ _ (by decide), shared_setShared_other _ _ (by decide)]
    exact shared_setShared_same _ _ _
  · rw [shared_setShared_other _ _ (by decide)]
    exact shared_setShared_same _ _ _

theorem setShared_loopStack (c : Cluster) (code v : Nat) : (c.setShared code v).loopStack = c.loopStack := rfl

theorem setLoop_frame (c : Cluster) (lc ls le : Nat) : (c.setLoop lc ls le).loopStack = c.loopStack ∧ (c.setLoop lc ls le).issued = c.issued := by
  unfold Cluster.setLoop
  refine ⟨by simp only [setShared_loopStack], ?_⟩
  exact (((setShared_loops c _ _).trans (setShared_loops _ _ _)).trans (setShared_loops _ _ _)).field (·.issued) fun _ _ _ _ _ _ => rfl

theorem startLoop_eq (c : Cluster) (n first last : Nat) :
    c.startLoop n first last = { c.nestLoop.setLoop n first last with loopActive := true, ikWritten := 0 } := rfl

theorem loopActive_over (c : Cluster) (pc cycles : Nat) : ∃ d : Cluster, d = ({ c with loopActive := true, ikWritten := 0 } : Cluster).stepOver pc cycles ∧
    (∀ code, d.shared code = c.shared code) ∧ d.loopActive = true ∧ d.pc = pc ∧ d.loopStack = c.loopStack ∧ d.issued = c.issued + cycles :=
  ⟨_, rfl, fun _ => rfl, rfl, rfl, rfl, rfl⟩

/-- A loop that has started, past the instruction that started it. -/
theorem startLoop_over (c : Cluster) (n first last pc cycles : Nat) : ((c.startLoop n first last).stepOver pc cycles).shared 0x48 = n % 2 ^ 17 ∧
    ((c.startLoop n first last).stepOver pc cycles).shared 0x49 = first % 2 ^ 15 ∧
    ((c.startLoop n first last).stepOver pc cycles).shared 0x4A = last % 2 ^ 15 ∧
    ((c.startLoop n first last).stepOver pc cycles).loopActive = true ∧ ((c.startLoop n first last).stepOver pc cycles).pc = pc ∧
    ((c.startLoop n first last).stepOver pc cycles).loopStack = c.nestLoop.loopStack ∧
    ((c.startLoop n first last).stepOver pc cycles).issued = c.issued + cycles := by
  obtain ⟨-, nestIssued, -⟩ := nestLoop_frame c
  obtain ⟨setStack, setIssued⟩ := setLoop_frame c.nestLoop n first last
  obtain ⟨lc, ls, le⟩ := setLoop_shared c.nestLoop n first last
  obtain ⟨d, started, shared, active, next, stack, issued⟩ := loopActive_over (c.nestLoop.setLoop n first last) pc cycles
  rw [startLoop_eq, ← started, shared, shared, shared]
  exact ⟨lc, ls, le, active, next, stack.trans setStack, by rw [issued, setIssued, nestIssued]⟩

/-! ### The end of a loop (R162) -/

theorem popLoop_frame {c : Cluster} {f : LoopFrame} {rest : List LoopFrame} (native : c.ik = false) (main : c.saved = none)
    (stack : c.loopStack = f :: rest) : c.popLoop = { c.setLoop f.lc f.ls f.le with loopActive := f.active, loopStack := rest } := by
  have own : c.ownFrames ≠ 0 := by simp [Cluster.ownFrames, main, stack]
  unfold Cluster.popLoop
  rw [if_neg (by simp [native]), if_neg own]
  split
  · rename_i empty
    cases empty.symm.trans stack
  · rename_i other
    cases other.symm.trans stack
    rfl

/-- The last loop, or any of IK mode, leaves none active, and the stack stands. -/
theorem popLoop_last {c : Cluster} (last : c.ik = true ∨ c.loopStack = []) : c.popLoop.loopActive = false ∧ c.popLoop.loopStack = c.loopStack := by
  unfold Cluster.popLoop
  split
  · exact ⟨rfl, rfl⟩
  · rename_i native
    split
    · exact ⟨rfl, rfl⟩
    · split
      · exact ⟨rfl, rfl⟩
      · rename_i stack
        cases (last.resolve_left native).symm.trans stack

/-- In native mode the main program's innermost loop gives way to the one on the stack. -/
theorem popLoop_native {c : Cluster} (native : c.ik = false) (main : c.saved = none) : c.popLoop.loopStack = c.loopStack.tail ∧
    (c.loopStack = [] → c.popLoop.loopActive = false) ∧ ∀ f, c.loopStack.head? = some f → c.popLoop.loopActive = f.active ∧
      c.popLoop.shared 0x48 = f.lc % 2 ^ 17 ∧ c.popLoop.shared 0x49 = f.ls % 2 ^ 15 ∧ c.popLoop.shared 0x4A = f.le % 2 ^ 15 := by
  cases stack : c.loopStack with
  | nil =>
    obtain ⟨idle, stands⟩ := popLoop_last (.inr stack)
    exact ⟨stands.trans stack, fun _ => idle, nofun⟩
  | cons f rest =>
    rw [popLoop_frame native main stack]
    refine ⟨rfl, nofun, fun g head => ?_⟩
    cases head
    exact ⟨rfl, setLoop_shared c _ _ _⟩

/-- Past the last instruction of a loop that runs again. -/
theorem past_again {c : Cluster} (active : c.loopActive = true) (atEnd : c.pc = c.shared 0x4A) (more : 1 < c.shared 0x48) : c.past =
    { c.setShared 0x48 (c.shared 0x48 - 1) with pc := c.shared 0x49, issued := c.issued + 1, afterReti := c.afterReti && c.handler } := by
  unfold Cluster.past Cluster.seqNext
  rw [if_pos ⟨active, atEnd⟩, if_pos more]

/-- Past the last instruction of a loop that is over. -/
theorem past_over {c : Cluster} (active : c.loopActive = true) (atEnd : c.pc = c.shared 0x4A) (done : c.shared 0x48 ≤ 1) : c.past =
    { c.popLoop with pc := c.shared 0x4A + 1, issued := c.issued + 1, afterReti := c.afterReti && c.handler } := by
  unfold Cluster.past Cluster.seqNext
  rw [if_pos ⟨active, atEnd⟩, if_neg (Nat.not_lt.2 done)]

/-- Past the last instruction of a loop (R162). -/
theorem past_atEnd {c : Cluster} (active : c.loopActive = true) (atEnd : c.pc = c.shared 0x4A) :
    (1 < c.shared 0x48 → c.shared 0x48 < 2 ^ 17 → c.past.pc = c.shared 0x49 ∧ c.past.shared 0x48 = c.shared 0x48 - 1) ∧
    (c.shared 0x48 ≤ 1 → c.past.pc = c.shared 0x4A + 1 ∧ (c.ik = true ∨ c.loopStack = [] → c.past.loopActive = false)) := by
  refine ⟨fun more fits => ?_, fun done => ?_⟩
  · rw [past_again active atEnd more]
    exact ⟨rfl, shared_setShared_fits c (Nat.lt_of_le_of_lt (Nat.sub_le _ 1) fits)⟩
  · rw [past_over active atEnd done]
    exact ⟨rfl, fun last => (popLoop_last last).1⟩

/-! ### The instructions -/

/-- An instruction whose whole outcome is a change of its cluster. -/
theorem next_setCluster {i : Instr} {s : State} {cl : Nat} {f : Cluster → Cluster} (run : exec i s = .next (s.quiet.setCluster cl f)) :
    ∃ t, exec i s = .next t ∧ OnlyCluster s t cl ∧ t.cluster cl = f (s.cluster cl) :=
  ⟨_, run, onlyCluster_setCluster s cl f, State.cluster_setCluster_same _ _ _⟩

theorem loop_starts (s : State) (cl count last : Nat) : ∃ t, exec (.loop cl count last) s = .next t ∧ OnlyCluster s t cl ∧
    t.cluster cl = ((s.aged cl).startLoop count ((s.cluster cl).pc + 1) last).stepOver ((s.cluster cl).pc + 1) 1 := by
  obtain ⟨t, run, only, left⟩ := next_setCluster (s := s) (i := .loop cl count last) rfl
  exact ⟨t, run, only, by rw [← ageAll_pc (s.cluster cl)]; exact left⟩

theorem loopp_starts {s : State} {cl : Nat} (native : (s.cluster cl).ik = false) (pn last : Nat) :
    ∃ t, exec (.loopp cl pn last) s = .next t ∧ OnlyCluster s t cl ∧ t.cluster cl =
      if (s.aged cl).shared (0x20 + pn) % 2 ^ 17 = 0 then (s.aged cl).nestLoop.stepOver (last + 1) 3
      else ((s.aged cl).startLoop ((s.aged cl).shared (0x20 + pn) % 2 ^ 17) ((s.cluster cl).pc + 1) last).stepOver ((s.cluster cl).pc + 1) 1 := by
  obtain ⟨t, run, only, left⟩ := next_setCluster (s := s) (i := .loopp cl pn last) (if_neg (by simp [native]))
  exact ⟨t, run, only, by rw [← ageAll_pc (s.cluster cl)]; exact left⟩

theorem leave_pops {s : State} {cl : Nat} (native : (s.cluster cl).ik = false) : ∃ t, exec (.leave (.loop cl)) s = .next t ∧ OnlyCluster s t cl ∧
    t.cluster cl = (s.aged cl).popLoop.stepOver ((s.cluster cl).pc + 1) 1 := by
  obtain ⟨t, run, only, left⟩ := next_setCluster (s := s) (i := .leave (.loop cl)) (if_neg (by simp [native]))
  exact ⟨t, run, only, by rw [← ageAll_pc (s.cluster cl)]; exact left⟩

theorem nop_passes {s : State} {cl : Nat} (noSlots : (s.cluster cl).after = none) :
    ∃ t, exec (.nop cl) s = .next t ∧ OnlyCluster s t cl ∧ t.cluster cl = (s.issuing cl).past :=
  issueCtl_next (f := id) (advance_of_no_slots ((issuing_after s cl).trans noSlots)) fun h => (issuing_ended s cl).symm.trans ((past_ended _).symm.trans h)

theorem stepOver_frame (c : Cluster) (pc cycles : Nat) : (c.stepOver pc cycles).pc = pc ∧ (c.stepOver pc cycles).loopActive = c.loopActive ∧
    (c.stepOver pc cycles).loopStack = c.loopStack ∧ (c.stepOver pc cycles).issued = c.issued + cycles ∧
    ∀ code, (c.stepOver pc cycles).shared code = c.shared code := ⟨rfl, rfl, rfl, rfl, fun _ => rfl⟩

/-- Settles O22: repeats, the three ways to start a loop, LEAVE, and the two ways past the last instruction of a loop. -/
theorem loopsRunWithoutOverhead : Obligations.LoopsRunWithoutOverhead := by
  unfold Obligations.LoopsRunWithoutOverhead
  intro s cl count last pn c pushed
  refine ⟨⟨_, rfl, onlyCluster_setCluster s cl _, State.cluster_setCluster_same _ _ _⟩, ?rpt, fun countFits lastFits pcFits => ?loop, fun native => ?native,
    fun noSlots active atEnd => ?loopEnd⟩
  case rpt =>
    rintro f rfl noSlots noLoop lands ea
    exact issueRep_repeats (fun c => afterEA_data c ea) noSlots ⟨noLoop, lands⟩
  case loop =>
    obtain ⟨t, run, only, left⟩ := loop_starts s cl count last
    obtain ⟨lc, ls, le, runs, next, stack, -⟩ := startLoop_over c count ((s.cluster cl).pc + 1) last ((s.cluster cl).pc + 1) 1
    rw [Nat.mod_eq_of_lt countFits] at lc
    rw [Nat.mod_eq_of_lt pcFits] at ls
    rw [Nat.mod_eq_of_lt lastFits] at le
    refine ⟨t, run, only, ?_⟩
    rw [left]
    exact ⟨lc, ls, le, runs, next, stack.trans (nestLoop_frame c).2.2⟩
  case native =>
    intro n
    have agedNative : c.ik = false := (ageAll_ik _).trans native
    obtain ⟨nestActive, nestIssued, nestStack⟩ := nestLoop_frame c
    rw [agedNative] at nestStack
    refine ⟨?loopp, fun main => ?leave⟩
    case loopp =>
      obtain ⟨t, run, only, left⟩ := loopp_starts native pn last
      obtain ⟨lc, -, -, runs, next, stack, issued⟩ := startLoop_over c n ((s.cluster cl).pc + 1) last ((s.cluster cl).pc + 1) 1
      obtain ⟨overPc, overActive, overStack, overIssued, -⟩ := stepOver_frame c.nestLoop (last + 1) 3
      refine ⟨t, run, only, ?_⟩
      by_cases skip : n = 0
      · rw [left.trans (if_pos skip)]
        exact ⟨overStack.trans nestStack, fun _ => ⟨overPc, overActive.trans nestActive, overIssued.trans (congrArg (· + 3) nestIssued)⟩, fun h => absurd skip h⟩
      · rw [left.trans (if_neg skip)]
        exact ⟨stack.trans nestStack, fun h => absurd h skip, fun _ => ⟨next, runs, lc.trans (Nat.mod_mod _ _), issued⟩⟩
    case leave =>
      obtain ⟨t, run, only, left⟩ := leave_pops native
      obtain ⟨overPc, overActive, overStack, -, overShared⟩ := stepOver_frame c.popLoop ((s.cluster cl).pc + 1) 1
      refine ⟨t, run, only, ?_⟩
      rw [left, overPc, overActive, overStack, overShared, overShared, overShared]
      exact ⟨rfl, popLoop_native agedNative ((ageAll_saved _).trans main)⟩
  case loopEnd =>
    obtain ⟨t, run, only, left⟩ := nop_passes noSlots
    refine ⟨t, run, only, ?_⟩
    rw [left]
    exact past_atEnd (c := s.issuing cl) active atEnd

end Sys2Proof.Machine
end

section
/-! PROOF. The steps of a work set (R115, R116, R129, R145, R151, R170): start, ENDS, the last delay slot and the drain of OUT: O23. -/

namespace Sys2Proof.Machine

/-! ### The registers at the start of a step (R145, R115) -/

/-- A lane that executes the step that starts. -/
def Lane.wiped (l : Lane) : Lane := { l with d := [], a := [], fl := {}, flight := [], fhist := [] }

theorem wiped_sees (l : Lane) (r : Nat) : l.wiped.sees r = 0 := rfl

theorem wiped_acc (l : Lane) (r : Nat) : l.wiped.acc r = 0 := rfl

/-- A lane of its cluster once a step has started. -/
def Cluster.startedLane (c : Cluster) (step k : Nat) (l : Lane) : Lane :=
  let x := if k < c.laneCount then l.wiped else l
  { x with lmem := if step = 0 then clearRegions c.img.scratch l.lmem else l.lmem }

theorem startedLane_executing {c : Cluster} {k : Nat} (below : k < c.laneCount) (step : Nat) (l : Lane) :
    c.startedLane step k l = { l.wiped with lmem := if step = 0 then clearRegions c.img.scratch l.lmem else l.lmem } := by
  unfold Cluster.startedLane
  rw [if_pos below]

theorem startedLane_resting {c : Cluster} {k : Nat} (above : c.laneCount ≤ k) (step : Nat) (l : Lane) :
    c.startedLane step k l = { l with lmem := if step = 0 then clearRegions c.img.scratch l.lmem else l.lmem } := by
  unfold Cluster.startedLane
  rw [if_neg (Nat.not_lt.2 above)]

theorem startedLane_keeps (c : Cluster) (step k : Nat) (l : Lane) :
    (c.startedLane step k l).st = l.st ∧ (c.startedLane step k l).noise = l.noise ∧
    (c.startedLane step k l).lmem = if step = 0 then clearRegions c.img.scratch l.lmem else l.lmem := by
  by_cases below : k < c.laneCount
  · rw [startedLane_executing below]
    exact ⟨rfl, rfl, rfl⟩
  · rw [startedLane_resting (Nat.not_lt.1 below)]
    exact ⟨rfl, rfl, rfl⟩

theorem startStep_get {c : Cluster} {k : Nat} {l : Lane} (lane : c.lanes[k]? = some l) (step tick : Nat) :
    (c.startStep step tick).lanes[k]? = some (c.startedLane step k l) := by
  unfold Cluster.startStep Cluster.startedLane
  by_cases first : step = 0
  · simp only [first, if_true, List.getElem?_map, mapBelow_get, lane, Option.map_some, Nat.zero_add, Option.some.injEq]
    split <;> rfl
  · simp only [first, if_false, mapBelow_get, lane, Option.map_some, Nat.zero_add, Option.some.injEq]
    split <;> rfl

theorem inRegions_of_none {rs : List (Nat × Nat)} {a : Nat} (outside : ∀ r ∈ rs, ¬(r.1 ≤ a ∧ a < r.1 + r.2)) : inRegions rs a = false := by
  unfold inRegions
  rw [List.any_eq_false]
  intro r mem both
  exact outside r mem (by simpa using both)

/-- SCRATCH is cleared before the first step of a tick; all other memory stands. -/
theorem startedLane_memGet {c : Cluster} {step a : Nat} (stands : step ≠ 0 ∨ ∀ r ∈ c.img.scratch, ¬(r.1 ≤ a ∧ a < r.1 + r.2)) (k : Nat) (l : Lane) :
    memGet (c.startedLane step k l).lmem a = memGet l.lmem a := by
  obtain ⟨-, -, mem⟩ := startedLane_keeps c step k l
  rw [mem]
  split
  · rename_i first
    rw [memGet_clearRegions, inRegions_of_none (stands.resolve_left (not_not_intro first))]
    rfl
  · rfl

theorem startStep_lanes_length (c : Cluster) (step tick : Nat) : (c.startStep step tick).lanes.length = c.lanes.length := by
  unfold Cluster.startStep
  by_cases first : step = 0
  · simp only [first, if_true, List.length_map, mapBelow_length]
  · simp only [first, if_false, mapBelow_length]

/-- The shared registers at the start of a step: ISRC stands, and the others are zero. -/
theorem startStep_shared (c : Cluster) (step tick : Nat) :
    (∀ code, code ≠ 0x4C → (c.startStep step tick).shared code = 0) ∧ (c.startStep step tick).shared 0x4C = c.shared 0x4C := by
  have held (code : Nat) : (c.startStep step tick).shared code = tget 0 [(0x4C, c.shared 0x4C)] code := rfl
  refine ⟨fun code other => ?_, ?_⟩
  · rw [held]
    simp [tget, Ne.symm other]
  · rw [held]
    simp [tget]

theorem startStep_entry {c : Cluster} {step : Nat} {p : StepDecl} (entry : c.img.steps[step]? = some p) (tick : Nat) : (c.startStep step tick).pc = p.entry := by
  have pc : (c.startStep step tick).pc = (at? ⟨0, 0, [], []⟩ c.img.steps step).entry := rfl
  rw [pc, at?_eq_getD, entry]
  rfl

/-- What R145 and R115 say of a lane between two clusters: the one before a step starts and the one after. -/
theorem startStep_lane {c : Cluster} {k : Nat} {l l' : Lane} {step tick : Nat} (before : c.lanes[k]? = some l)
    (later : (c.startStep step tick).lanes[k]? = some l') :
    (k < c.laneCount → (∀ r, l'.sees r = 0 ∧ l'.acc r = 0) ∧ l'.fl = {}) ∧ (c.laneCount ≤ k → l'.d = l.d ∧ l'.a = l.a ∧ l'.fl = l.fl) ∧
    l'.st = l.st ∧ l'.noise = l.noise ∧
    ∀ a, step ≠ 0 ∨ (∀ r ∈ c.img.scratch, ¬(r.1 ≤ a ∧ a < r.1 + r.2)) → memGet l'.lmem a = memGet l.lmem a := by
  cases Option.some.inj (later.symm.trans (startStep_get before step tick))
  obtain ⟨sticky, noise, -⟩ := startedLane_keeps c step k l
  refine ⟨fun below => ?_, fun above => ?_, sticky, noise, fun a stands => startedLane_memGet stands k l⟩
  · rw [startedLane_executing below]
    exact ⟨fun r => ⟨wiped_sees l r, wiped_acc l r⟩, rfl⟩
  · rw [startedLane_resting above]
    exact ⟨rfl, rfl, rfl⟩

/-! ### CLUSTER_STEP_START (R116, R207, R517) -/

/-- The next step of the tick, in order and with its IN region complete. -/
structure Cluster.NextStep (c : Cluster) (step : Nat) : Prop where
  runs : c.runsSteps = true
  isStep : step < c.img.steps.length
  inOrder : c.stepsRun = step
  free : c.stepping = false
  busy : c.idle = false
  full : step ∈ c.inFull

theorem runsSteps_of {c : Cluster} (h : c.role = 1 ∨ c.role = 0 ∧ c.phase = 3) : c.runsSteps = true := by
  unfold Cluster.runsSteps
  rcases h with working | ⟨spare, matching⟩
  · simp [working]
  · simp [spare, matching]

/-- An IN region that is complete is not filled again. -/
theorem fillStep_full {s : State} {cl step : Nat} (full : step ∈ (s.cluster cl).inFull) (n : Nat) : s.fillStep n cl step = s := by
  unfold State.fillStep
  dsimp only
  split
  · rfl
  · exact if_pos (.inr (.inl (List.contains_iff_mem.2 full)))

theorem stepStart_runs {s : State} {cl step : Nat} (next : (s.cluster cl).NextStep step) : exec (.clusterStepStart cl step) s =
    if s.quiet.asleep cl then .next ({ s.quiet with pwr := { s.pwr with gateLate := stopAt 0xFFFF s.pwr.gateLate 1 } }.raise blkPwr 0x12 .u cl)
    else .next (s.quiet.setCluster cl fun c => c.startStep step s.csw.proc) := by
  have complete : s.quiet.stepComplete cl step = true := by
    unfold State.stepComplete
    rw [show (s.quiet.cluster cl).inFull.contains step = true from List.contains_iff_mem.2 next.full]
    rfl
  have filled : s.quiet.fillStep s.quiet.processTick cl step = s.quiet := fillStep_full (s := s.quiet) next.full _
  have started : ¬((!(s.cluster cl).runsSteps) = true ∨ (s.cluster cl).img.steps.length ≤ step ∨ (s.cluster cl).stepsRun ≠ step ∨
      (s.cluster cl).stepping = true ∨ (s.cluster cl).idle = true ∨ (!s.quiet.stepComplete cl step) = true) := by
    rw [next.runs, next.free, next.busy, complete]
    have below := next.isStep
    have order := next.inOrder
    simp
    omega
  refine (if_neg started).trans ?_
  rw [filled]
  rfl

theorem stepStart_awake {s : State} {cl step : Nat} (next : (s.cluster cl).NextStep step) (powered : s.pwr.gated.testBit cl = false)
    (awake : s.pwr.waking.testBit cl = false) :
    ∃ t, exec (.clusterStepStart cl step) s = .next t ∧ OnlyCluster s t cl ∧ t.cluster cl = (s.cluster cl).startStep step s.csw.proc := by
  have up : s.quiet.asleep cl = false := by
    show (bitAt s.pwr.gated cl || bitAt s.pwr.waking cl) = false
    rw [bitAt_eq_testBit, bitAt_eq_testBit, powered, awake]
    rfl
  refine ⟨_, (stepStart_runs next).trans (if_neg (ne_true_of_eq_false up)), onlyCluster_setCluster s cl _, State.cluster_setCluster_same _ _ _⟩

theorem stepStart_gated {s : State} {cl step : Nat} (next : (s.cluster cl).NextStep step) (gated : s.pwr.gated.testBit cl = true)
    (fits : s.pwr.gateLate < 0xFFFF) : exec (.clusterStepStart cl step) s =
      .next (({ s.quiet with pwr := { s.pwr with gateLate := s.pwr.gateLate + 1 } }).raise blkPwr 0x12 .u cl) := by
  have down : s.quiet.asleep cl = true := by
    show (bitAt s.pwr.gated cl || bitAt s.pwr.waking cl) = true
    rw [bitAt_eq_testBit, gated]
    rfl
  have counted : stopAt 0xFFFF s.pwr.gateLate 1 = s.pwr.gateLate + 1 := if_neg (by omega)
  rw [stepStart_runs next, if_pos down, counted]

/-! ### ENDS and its last delay slot (R151, R170) -/

/-- The effect of ENDS in the main program. -/
def Cluster.ending (n : Nat) (c : Cluster) : Cluster := { c.branchTo .ends with cycles := n, peak := max c.peak n }

theorem ending_advance (n : Nat) (c : Cluster) : (c.ending n).advance.after = some .ends ∧ (c.ending n).advance.slots = 2 ∧
    (c.ending n).advance.cycles = n ∧ (c.ending n).advance.peak = max c.peak n ∧ (c.ending n).advance.pend = c.pend := by
  have slots : (c.ending n).advance = { (c.ending n).past with slots := 2 } := advance_of_slots (a := .ends) rfl (by show 1 < 3; omega)
  rw [slots]
  exact ⟨past_after _, rfl, past_cycles _, past_peak _, past_pend _⟩

theorem worst_of_steps {steps : List StepDecl} {k n : Nat} (fits : ∀ p, steps[k]? = some p → n ≤ p.worst) : n ≤ (at? ⟨0, n, [], []⟩ steps k).worst := by
  rw [at?_eq_getD]
  cases step : steps[k]? with
  | none => exact Nat.le_refl n
  | some p => exact fits p step

/-- ENDS of a step within its declared worst case. -/
theorem ends_starts {s : State} {cl : Nat} (main : (s.cluster cl).handler = false)
    (fits : ∀ p, (s.cluster cl).img.steps[(s.cluster cl).stepNo]? = some p → (s.cluster cl).stepCycles ≤ p.worst) :
    ∃ t, exec (.ends cl) s = .next t ∧ OnlyCluster s t cl ∧ t.cluster cl = ((s.issuing cl).ending ((s.cluster cl).tickCycles cl)).advance := by
  refine ⟨_, (if_neg (ne_true_of_eq_false main)).trans (congrArg Host.Outcome.next (if_neg (Nat.not_lt.2 (worst_of_steps fits)))),
    onlyCluster_setCluster s cl _, ?_⟩
  exact (State.cluster_setCluster_same _ _ _).trans (issueOnce_issuing s cl (Cluster.ending _))

/-- In a handler ENDS acts as NOP. -/
theorem ends_in_handler {s : State} {cl : Nat} (noSlots : (s.cluster cl).after = none) (main : (s.cluster cl).handler = true) :
    ∃ t, exec (.ends cl) s = .next t ∧ ControlIn s t cl ∧ (t.cluster cl).after = none ∧ (t.cluster cl).pend = (s.cluster cl).pend := by
  have none : (s.issuing cl).after = none := (issuing_after s cl).trans noSlots
  obtain ⟨t, issues, control, left⟩ := issueCtl_plain (f := id) (b := s.issuing cl) rfl (controls_refl _) none
  refine ⟨t, (if_pos main).trans issues, control, ?_, ?_⟩
  · rw [left, past_after, none]
  · rw [left, past_pend, issuing_pend]

theorem slotsOver_ends (c : Cluster) : (c.slotsOver .ends).after = none ∧ (c.slotsOver .ends).ended = true ∧ (c.slotsOver .ends).stepping = false :=
  ⟨rfl, rfl, rfl⟩

/-- With its last delay slot the step ends. -/
theorem nop_ends_step {s : State} {cl : Nat} (slots : (s.cluster cl).after = some .ends) (last : (s.cluster cl).slots ≤ 1)
    (runs : (s.cluster cl).ended = false) :
    ∃ u, exec (.nop cl) s = .next (u.stepEnds cl) ∧ OnlyCluster s u cl ∧ u.cluster cl = (s.issuing cl).past.slotsOver .ends := by
  have left : (s.quiet.setCluster cl (Cluster.issueOnce id)).cluster cl = (s.issuing cl).past.slotsOver .ends :=
    (State.cluster_setCluster_same _ _ _).trans ((issueOnce_issuing s cl id).trans
      (advance_of_last_slot ((issuing_after s cl).trans slots) ((issuing_slots s cl).symm ▸ last)))
  refine ⟨_, congrArg Host.Outcome.next (if_pos ?_), onlyCluster_setCluster s cl _, left⟩
  rw [left]
  show (true && !(s.cluster cl).ended) = true
  rw [runs]
  rfl

/-! ### The drain of OUT (R115, R129) -/

theorem drain_slot {s : State} {cl k : Nat} {xs : List Int} (working : (s.cluster cl).role = 1) (inTick : (s.cluster cl).stepTick = s.csw.proc)
    (outs : (s.cluster cl).stepOuts s.dict.vals s.spt = [(k, xs)]) : tfind (s.drain cl).csw.out (bankKey s.csw.proc k) =
      some (if (s.workSet (s.cluster cl).wset).zeroOut then List.replicate s.spt 0 else xs) := by
  have drained : s.drain cl = s.putSlot s.csw.proc k (if (s.workSet (s.cluster cl).wset).zeroOut then zeros s.spt else xs) := by
    unfold State.drain
    dsimp only
    rw [if_neg (not_not_intro working), if_neg (not_not_intro (show _ = s.processTick from inTick)), outs, inTick]
    rfl
  rw [drained]
  exact (putSlot_holds s _ k _).1

/-- Settles O23: the start of a step, ENDS in and out of a handler, its last delay slot, and the drain of OUT. -/
theorem stepsStartClearedAndEnd : Obligations.StepsStartClearedAndEnd := by
  unfold Obligations.StepsStartClearedAndEnd
  intro s cl step c n total
  refine ⟨fun role isStep inOrder free busy full => ?start, fun noSlots main fits => ?ends, ends_in_handler, fun slots last runs => ?lastSlot,
    fun k xs => drain_slot⟩
  case start =>
    have next : c.NextStep step := ⟨runsSteps_of role, isStep, inOrder, free, busy, full⟩
    refine ⟨fun powered awake => ?_, stepStart_gated next⟩
    obtain ⟨t, run, only, left⟩ := stepStart_awake next powered awake
    obtain ⟨zero, isrc⟩ := startStep_shared c step s.csw.proc
    refine ⟨t, run, only, ?_⟩
    rw [left]
    exact ⟨rfl, rfl, rfl, fun p entry => startStep_entry entry _, rfl, zero, isrc, startStep_lanes_length _ _ _, rfl, rfl,
      fun k l l' before later => startStep_lane before later⟩
  case ends =>
    obtain ⟨t, run, only, left⟩ := ends_starts main fits
    obtain ⟨after, slots, cycles, peak, pend⟩ := ending_advance (c.tickCycles cl) (s.issuing cl)
    have peakStands : (s.issuing cl).peak = c.peak := ageAll_peak _
    refine ⟨t, run, only, ?_⟩
    rw [left]
    exact ⟨after, slots, cycles, peak.trans (congrArg (max · _) peakStands), pend.trans (issuing_pend s cl)⟩
  case lastSlot =>
    obtain ⟨u, run, only, left⟩ := nop_ends_step slots last runs
    refine ⟨u, run, only, ?_⟩
    rw [left]
    exact slotsOver_ends _

end Sys2Proof.Machine
end

section
/-! PROOF. Requests of the object dictionary in a session whose port is paused (R258-R264, R374, R398, R403): O53 is refuted, as their responses wait. -/

namespace Sys2Proof.Machine

/-! ### A request that reaches its operation -/

theorem quiet_takePath_sent {s s0 : State} {p : Path} {w : Asker} (taken : s.quiet.fresh.takePath p = some (s0, w)) : s0.sent = [] := by
  cases p with
  | hostp | tw1 => cases taken; rfl
  | session id q ok =>
    simp only [State.takePath] at taken
    split at taken
    · cases taken
    · split at taken
      · cases taken
      · cases taken; rfl

theorem notePort_sent (s : State) (r : DictReq) : (s.notePort r).sent = s.sent := by
  unfold State.notePort
  split <;> rfl

/-- A request that reaches its operation finds nothing put out yet. -/
theorem State.Reaches.sent {s s1 : State} {r : DictReq} {w : Asker} (reaches : s.Reaches s1 r w) : s1.sent = [] := by
  obtain ⟨s0, taken, rfl⟩ := reaches.path
  exact (notePort_sent s0 r).trans (quiet_takePath_sent taken)

/-- A request that reaches its operation is served by it. -/
theorem State.Reaches.request {s s1 : State} {r : DictReq} {w : Asker} (reaches : s.Reaches s1 r w) {op : Nat} (fits : s.Fits op r)
    (known : op ≠ 0 ∧ op ≤ 8) (f : State → Asker → State) : s.request op r f = f s1 w := by
  obtain ⟨runs, ⟨s0, taken, rfl⟩, fresh, idle, ver, ⟨lenOk, few⟩, opened⟩ := reaches
  have enters : (!s.quiet.fresh.firmwareRuns || s.quiet.fresh.notDict op r) = false := by
    rw [fits, show s.quiet.fresh.firmwareRuns = true from runs]
    rfl
  have codeKnown : ¬(r.ver != 1 ∨ op = 0 ∨ 8 < op) := by simp [ver, known.1, known.2]
  have lenFits : ¬(!r.lenOk ∨ 255 < r.items.length) := by simp [lenOk, few]
  have pathOpen : ¬(w.pk = 0 ∧ (s0.notePort r).closed 3 ∧ !(closedItems op r)) := by
    rintro ⟨overHostp, shut, -⟩
    rcases opened with other | lifted
    · exact other overHostp
    · exact absurd shut (by simp [lifted])
  unfold State.request
  simp only [enters, taken, fresh, idle, if_neg codeKnown, if_neg lenFits, if_neg pathOpen, Bool.false_eq_true, if_false]

/-! ### How a response leaves (R264, R398, R403) -/

@[simp] theorem responseBytes_length (pk op reqid status nitem cid : Nat) (body : List Byte) :
    (responseBytes pk op reqid status nitem cid body).length = 24 + body.length := by
  simp [responseBytes, beBytes_length]
  omega

/-- A response as it waits in a port: its class, the length of its datagram, and what leaves. -/
def heldResponse (y : Session) (pk reqid status : Nat) (b : List Byte) : Bool × Nat × Emission :=
  (decide (1024 < b.length), 18 + (if y.v6 then 48 else 28) + 28 + b.length, .response pk reqid status b)

/-- A response waits: its session `y` has its last datagram's port up, with the response's class paused. -/
structure State.Waits (s : State) (y : Session) (pk : Nat) (b : List Byte) : Prop where
  session : s.sec.sessions.find? (fun y => y.id + 2 == pk) = some y
  up : (s.port y.port).up = true
  paused : (s.port y.port).paused (decide (1024 < b.length)) = true

theorem State.Waits.respond {s : State} {y : Session} {pk : Nat} {b : List Byte} (waits : s.Waits y pk b) (reqid status : Nat) :
    s.respond pk reqid status b = s.setPort y.port fun x => { x with held := x.held ++ [heldResponse y pk reqid status b] } := by
  unfold State.respond
  simp only [waits.session, waits.up, if_true]
  exact if_pos waits.paused

/-- An answer that waits puts nothing out: the port holds it behind the frames that wait already. -/
theorem State.Waits.answer {s : State} {y : Session} {pk op reqid status nitem cid : Nat} {body : List Byte}
    (waits : s.Waits y pk (responseBytes pk op reqid status nitem cid body)) :
    (s.answer pk op reqid status nitem cid body).sent = s.sent ∧
      ((s.answer pk op reqid status nitem cid body).port y.port).held =
        (s.port y.port).held ++ [heldResponse y pk reqid status (responseBytes pk op reqid status nitem cid body)] := by
  have response (f : Dict → Dict) := State.Waits.respond (s := s.modDict f) ⟨waits.session, waits.up, waits.paused⟩ reqid status
  have held := congrArg Port.held (State.port_setPort_same s y.port fun x =>
    { x with held := x.held ++ [heldResponse y pk reqid status (responseBytes pk op reqid status nitem cid body)] })
  unfold State.answer
  simp only [response]
  split_ifs <;> exact ⟨rfl, held⟩

/-- COMMIT of no set is answered NO_CID at once, without items (R267). -/
theorem doCommit_noCid {r : DictReq} (noSet : r.cid = 0) (s : State) (w : Asker) : s.doCommit r w = s.answerBare w 3 r stNoCid :=
  if_pos (Or.inl noSet)

/-- COMMIT of no set in a session whose port pauses CONTROL: NO_CID waits in the port, and nothing leaves. -/
theorem commit_noCid_waits {s s1 : State} {r : DictReq} {w : Asker} {y : Session} (reaches : s.Reaches s1 r w) (fits : s.Fits 3 r)
    (noSet : r.cid = 0) (session : s1.sec.sessions.find? (fun y => y.id + 2 == w.pk) = some y) (up : (s1.port y.port).up = true)
    (paused : (s1.port y.port).pausedCtl = true) :
    ∃ t, exec (.commit r) s = .next t ∧ t.sent = [] ∧ (t.port y.port).held =
      (s1.port y.port).held ++ [heldResponse y w.pk r.reqid stNoCid (responseBytes w.pk 3 r.reqid stNoCid 0 r.cid [])] := by
  have short : decide (1024 < (responseBytes w.pk 3 r.reqid stNoCid 0 r.cid []).length) = false := by simp
  have waits : s1.Waits y w.pk (responseBytes w.pk 3 r.reqid stNoCid 0 r.cid []) := ⟨session, up, short ▸ paused⟩
  obtain ⟨sent, held⟩ := waits.answer
  refine ⟨s1.answerBare w 3 r stNoCid, ?_, sent.trans reaches.sent, held⟩
  exact congrArg Host.Outcome.next ((reaches.request fits (by decide) _).trans (doCommit_noCid noSet s1 w))

/-! ### The counterexample -/

/-- An engine whose firmware runs, with session 1 of a Custodian on media port 0, whose peer has paused CONTROL. -/
def pausedEngine : State := { State.reset with
  top := { booted := true }
  pwr := { on := 2 }
  sec := { sessions := [{ id := 1, role := 3 }] }
  ports := [(0, { up := true, pausedCtl := true })] }

/-- COMMIT of no set in session 1. -/
def commitOfNoSet : DictReq := { path := .session 1 0 true, reqid := 5 }

/-- The session as the request leaves it: SEQ 0 seen. -/
def pausedSession : Session := { id := 1, role := 3, rxSeen := [0], used := 1 }

/-- The engine once the session has taken the request. -/
def pausedEngineTaken : State := { pausedEngine with freeCtr := 1, sec := { pausedEngine.sec with useCtr := 1, sessions := [pausedSession] } }

theorem commitOfNoSet_reaches : pausedEngine.Reaches pausedEngineTaken commitOfNoSet ⟨3, 3⟩ where
  runs := by decide
  path := ⟨pausedEngineTaken, rfl, rfl⟩
  fresh := rfl
  idle := rfl
  ver := rfl
  len := by decide
  opened := by decide

theorem commitOfNoSet_fits : pausedEngine.Fits 3 commitOfNoSet := by decide

/-- Refutes O53: COMMIT of no set in a session whose port's CONTROL class is paused.  The statement has its NO_CID leave in the command, but the
frames of a paused class wait in the port (R403, log 212). -/
theorem not_dictionaryRequestsAreServed : ¬ Obligations.DictionaryRequestsAreServed := by
  unfold Obligations.DictionaryRequestsAreServed
  intro served
  obtain ⟨-, -, -, -, -, -, -, -, -, -, noSet, -⟩ := served pausedEngine pausedEngineTaken commitOfNoSet ⟨3, 3⟩ ⟨0, 0, 0, 0, 0, []⟩
    { ty := 0, kind := .status, acc := .s } {} [] 0 {} commitOfNoSet_reaches
  obtain ⟨t, ran, answered, -⟩ := noSet (.inl rfl) commitOfNoSet_fits
  obtain ⟨t', ran', silent, -⟩ := commit_noCid_waits commitOfNoSet_reaches commitOfNoSet_fits rfl (y := pausedSession) rfl rfl rfl
  cases ran.symm.trans ran'
  exact absurd (answered.symm.trans silent) (List.cons_ne_nil _ _)

end Sys2Proof.Machine
end

section
/-! PROOF. From Morning to Noon (R308, R568, R28): O33. -/

namespace Sys2Proof.Machine

/-- The loop is locked once the entry in use is SELECTED and steady, with no switch under way and nothing left to realign (R308). -/
theorem execTimeLock_locks {s : State} {e : Nat} (inUse : s.refsel.inUse = some e) (selected : (s.refsel.entry e).st = 4)
    (steady : s.refsel.switchTo = none) (aligned : s.aligned = true) :
    execTimeLock s = .next ((s.quiet.modRef fun r => { r with mode := 2 }).modTop fun t => { t with timeLocked := true }) := by
  have sel : s.refsel.selectedInUse = true := by
    unfold Refsel.selectedInUse
    rw [inUse]
    exact beq_iff_eq.2 selected
  have locks : (s.quiet.refsel.selectedInUse && s.quiet.refsel.switchTo.isNone && s.quiet.aligned) = true := by
    change (s.refsel.selectedInUse && s.refsel.switchTo.isNone && s.aligned) = true
    rw [sel, steady, aligned]
    rfl
  exact if_pos locks

theorem execReady_morning {s : State} (morning : s.top.state = .morning) :
    execReady s = .next (s.quiet.modTop fun t => { t with cfgReady := true }) :=
  congrArg Host.Outcome.next (if_pos morning)

/-- An unpaired engine that is OWNED, time-locked and configured passes to Noon at a tick event (R568). -/
theorem execMorningToNoon_passes {s : State} (morning : s.top.state = .morning) (ticked : s.time.ticked = true) (ready : s.serviceReady = true)
    (solo : s.paired = false) (sound : s.top.classF = false) (stays : s.top.leaveAt = none) :
    execMorningToNoon s = .next (s.quiet.enterNoon 0) := by
  refine congrArg Host.Outcome.next (if_pos ⟨morning, ticked, ready, ?_, ?_, stays⟩)
  · exact congrArg (!·) solo
  · exact congrArg (!·) sound

/-- Settles O33: each of the three commands finds its condition met. -/
theorem noonNeedsLockAndConfiguration : Obligations.NoonNeedsLockAndConfiguration := by
  unfold Obligations.NoonNeedsLockAndConfiguration
  intro s e
  refine ⟨execTimeLock_locks, execReady_morning, fun morning ticked owned locked configured solo sound stays => ?_⟩
  have ready : s.serviceReady = true := by
    unfold State.serviceReady
    rw [owned, locked, configured]
    rfl
  exact ⟨_, execMorningToNoon_passes morning ticked ready solo sound stays, rfl, morning, rfl, rfl, rfl, rfl⟩

end Sys2Proof.Machine
end

section
/-! PROOF. The time counter, its increment and the closed loop (R285-R287, R295, R300, R312): O36. -/

namespace Sys2Proof.Machine

/-! ### SET and INC_LOAD (R287, R312) -/

theorem execSet_dawn {s : State} (dawn : s.top.state = .dawn) (host : s.cfg 0x1001 1 = 1) (ns : Nat) :
    execSet ns s = .next (s.quiet.stepTime ns) := by
  have may : (s.quiet.mayStep && s.quiet.cfg 0x1001 1 == 1) = true := by
    change ((s.top.state == .dawn || s.top.state == .morning && !s.time.ticked) && s.cfg 0x1001 1 == 1) = true
    rw [dawn, host]
    rfl
  exact congrArg Host.Outcome.next (if_pos may)

/-- The counter holds 64 bits of ns and 32 bits of their fraction. -/
theorem stepTime_counter (s : State) (ns : Nat) : (s.stepTime ns).time.counter = ns % 2 ^ 64 * 2 ^ 32 := by
  unfold State.stepTime State.stepCounter
  rw [State.modTime_time]
  dsimp only
  rw [show (2 : Nat) ^ 96 = 2 ^ 64 * 2 ^ 32 from (pow_add 2 64 32), Nat.mul_mod_mul_right]

theorem stepTime_inc (s : State) (ns : Nat) : (s.stepTime ns).time.inc = s.time.inc := by
  unfold State.stepTime State.stepCounter
  rw [State.modTime_time]

/-- Where INC_LOAD is allowed (R312). -/
theorem loadInc_loads {s : State}
    (free : s.top.state = .dawn ∨ s.top.state = .night ∨ s.top.state = .morning ∧ s.refsel.inUse = none) :
    s.loadInc = s.elapse.modTime fun t => { t with inc := t.incInt * 2 ^ 32 + t.incFrac.toNat } := by
  unfold State.loadInc
  rcases free with dawn | night | ⟨morning, unused⟩
  · rw [dawn]
    rfl
  · rw [night]
    rfl
  · rw [morning, unused]
    rfl

theorem loadInc_refused {s : State}
    (busy : s.top.state = .noon ∨ s.top.state = .dusk ∨ s.top.state = .morning ∧ s.refsel.inUse ≠ none) :
    s.loadInc = s.setCommon blkTime fun c => { c with cfgRej := true } := by
  unfold State.loadInc
  rcases busy with noon | dusk | ⟨morning, used⟩
  · rw [noon]
    rfl
  · rw [dusk]
    rfl
  · rw [morning]
    exact if_neg (by simpa using used)

/-! ### The closed loop (R285, R286, R300) -/

theorem clampTo_le {lim : Int} (h : 0 ≤ lim) (x : Int) : clampTo lim x ≤ lim := by
  unfold clampTo
  split_ifs <;> omega

theorem neg_le_clampTo {lim : Int} (h : 0 ≤ lim) (x : Int) : -lim ≤ clampTo lim x := by
  unfold clampTo
  split_ifs <;> omega

theorem clampTo_of_within {lim x : Int} (low : -lim ≤ x) (high : x ≤ lim) : clampTo lim x = x := by
  unfold clampTo
  rw [if_neg (by omega), if_neg (by omega)]

theorem pullLimit_nonneg (t : Time) : 0 ≤ t.pullLimit := by
  unfold Time.pullLimit
  omega

/-- The loop moves no further than FSLEW has let it since its last correction (R300). -/
theorem slewTo_near (r : Refsel) (corr : Int) : (r.slewTo corr).loopCorr ≤ r.loopCorr + (r.slewLeft : Int) / 1000000000000 ∧
    r.loopCorr - (r.slewLeft : Int) / 1000000000000 ≤ (r.slewTo corr).loopCorr := by
  have slack : (0 : Int) ≤ (r.slewLeft : Int) / 1000000000000 := by omega
  have high := clampTo_le slack (corr - r.loopCorr)
  have low := neg_le_clampTo slack (corr - r.loopCorr)
  unfold Refsel.slewTo
  dsimp only
  omega

theorem execDpllUpdate_locking {s : State} (locking : s.refsel.mode = 1) (corr : Int) :
    execDpllUpdate corr s = .next (s.quiet.elapse.modRef fun r => r.slewTo (clampTo s.time.pullLimit corr)).writeCorr :=
  if_pos locking

theorem execDpllUpdate_locked {s : State} (locked : s.refsel.mode = 2) (corr : Int) :
    execDpllUpdate corr s =
      .next (s.quiet.elapse.modRef fun r => { r with loopCorr := clampTo s.time.pullLimit corr, slewLeft := 0 }).writeCorr := by
  have other : ¬ s.quiet.refsel.mode = 1 := by
    change ¬ s.refsel.mode = 1
    omega
  exact (if_neg other).trans (if_pos locked)

/-- What the loop writes is within 50 ppm of the increment (R286). -/
theorem writeCorr_within (s : State) : s.writeCorr.time.corr ≤ s.time.pullLimit ∧ -s.time.pullLimit ≤ s.writeCorr.time.corr :=
  ⟨clampTo_le (pullLimit_nonneg _) _, neg_le_clampTo (pullLimit_nonneg _) _⟩

/-- Without realignment what the loop writes is its own correction, where that is within 50 ppm. -/
theorem writeCorr_plain {s : State} (still : s.refsel.realign = 0) (low : -s.time.pullLimit ≤ s.refsel.loopCorr)
    (high : s.refsel.loopCorr ≤ s.time.pullLimit) : s.writeCorr.time.corr = s.refsel.loopCorr := by
  have own : s.refsel.loopCorr + s.refsel.realign * s.time.inc / 1000000000000 = s.refsel.loopCorr := by simp [still]
  change clampTo s.time.pullLimit (s.refsel.loopCorr + s.refsel.realign * s.time.inc / 1000000000000) = _
  rw [own]
  exact clampTo_of_within low high

/-- Settles O36: SET, the two answers to INC_LOAD, and the loop while it locks and once it is locked. -/
theorem timeIsSetLoadedAndPulled : Obligations.TimeIsSetLoadedAndPulled := by
  unfold Obligations.TimeIsSetLoadedAndPulled
  intro s ns m corr
  refine ⟨fun dawn host => ?_, fun may free => ?_, fun may busy => ?_, fun closed => ?_⟩
  · refine ⟨_, execSet_dawn dawn host ns, rfl, stepTime_counter _ ns, rfl, ?_, stepTime_inc s.quiet ns⟩
    change (s.top.state == .morning) = false
    rw [dawn]
    rfl
  · refine ⟨_, congrArg Host.Outcome.next ((viaWrite_ok s m _ _ _ may).trans (loadInc_loads (s := s.quiet) free)), rfl, rfl⟩
  · refine ⟨_, congrArg Host.Outcome.next ((viaWrite_ok s m _ _ _ may).trans (loadInc_refused (s := s.quiet) busy)), ?_, fun b other => ?_, rfl⟩
    · rw [common_setCommon, if_pos rfl]
    · rw [common_setCommon, if_neg other]
      rfl
  · rcases closed with locking | locked
    · obtain ⟨high, low⟩ := writeCorr_within (s.quiet.elapse.modRef fun r => r.slewTo (clampTo s.time.pullLimit corr))
      refine ⟨_, execDpllUpdate_locking locking corr, rfl, high, low, fun _ => slewTo_near s.refsel _, fun locked => ?_⟩
      exact absurd (locking.symm.trans locked) (by decide)
    · obtain ⟨high, low⟩ := writeCorr_within (s.quiet.elapse.modRef fun r => { r with loopCorr := clampTo s.time.pullLimit corr, slewLeft := 0 })
      refine ⟨_, execDpllUpdate_locked locked corr, rfl, high, low, fun locking => ?_, fun _ still floor ceiling => ?_⟩
      · exact absurd (locking.symm.trans locked) (by decide)
      · have own := clampTo_of_within (lim := s.time.pullLimit) floor ceiling
        rw [own]
        exact writeCorr_plain still floor ceiling

end Sys2Proof.Machine
end

section
/-! PROOF. Compare units (R288, R289): O37. -/

namespace Sys2Proof.Machine

/-! ### The units -/

theorem setCmp_cmp_same (s : State) (u : Nat) (f : Cmp → Cmp) : (s.setCmp u f).time.cmp u = f (s.time.cmp u) := tget_tmod_same _ _ _ _

theorem setCmp_cmp_other (s : State) {u v : Nat} (f : Cmp → Cmp) (h : v ≠ u) : (s.setCmp u f).time.cmp v = s.time.cmp v :=
  tget_tmod_other _ _ _ _ _ h

/-- A unit that has fired: a periodic one waits for its next target, another is disarmed (R288). -/
def Cmp.fire (c : Cmp) : Cmp :=
  if c.periodic then { c with fired := true, target := (c.target + c.period) % 2 ^ 48, period := c.per.toNat } else { c with fired := true, arm := false }

/-- A firing changes its unit, and may put out a pulse (R288, R306). -/
theorem fireCmp_eq (s : State) (u : Nat) : ∃ sent, s.fireCmp u = { s.setCmp u Cmp.fire with sent := sent } := by
  unfold State.fireCmp
  dsimp only
  split
  · exact ⟨_, rfl⟩
  · exact ⟨_, rfl⟩

/-- What a firing leaves. -/
structure Fired (s t : State) (u : Nat) : Prop where
  rest : t = { s with sent := t.sent, time := t.time }
  unit : t.time.cmp u = (s.time.cmp u).fire
  others : ∀ v, v ≠ u → t.time.cmp v = s.time.cmp v
  counter : t.time.counter = s.time.counter

theorem fireCmp_fired (s : State) (u : Nat) : Fired s (s.fireCmp u) u := by
  obtain ⟨_, fires⟩ := fireCmp_eq s u
  rw [fires]
  exact ⟨rfl, setCmp_cmp_same s u _, fun _ other => setCmp_cmp_other s _ other, rfl⟩

theorem Cmp.fire_periodic {c : Cmp} (h : c.periodic = true) :
    c.fire = { c with fired := true, target := (c.target + c.period) % 2 ^ 48, period := c.per.toNat } := if_pos h

theorem Cmp.fire_once {c : Cmp} (h : c.periodic = false) : c.fire = { c with fired := true, arm := false } := if_neg (by simp [h])

theorem Cmp.fire_marks (c : Cmp) : c.fire.fired = true ∧ c.fire.lateArm = c.lateArm := by
  unfold Cmp.fire
  split <;> exact ⟨rfl, rfl⟩

/-! ### Arming (R289) -/

/-- The target that a unit's staging registers hold. -/
def Cmp.staged (c : Cmp) : Nat := c.hi % 2 ^ 16 * 2 ^ 32 + c.lo.toNat

/-- A unit that takes over its staging registers. -/
def Cmp.armed (c : Cmp) : Cmp := { c with target := c.staged, period := c.per.toNat, arm := true }

/-- A unit whose target lies ahead waits for it. -/
theorem armCmp_ahead {s : State} {u : Nat} (ahead : reached (s.elapse.time.counter / 2 ^ 32) (s.time.cmp u).staged = false) :
    s.armCmp u = s.elapse.setCmp u Cmp.armed := by
  unfold State.armCmp
  refine if_neg (ne_true_of_eq_false ?_)
  rw [setCmp_cmp_same]
  exact ahead

/-- A unit whose target has passed fires at once, with LATE_ARM. -/
theorem armCmp_late {s : State} {u : Nat} (late : reached (s.elapse.time.counter / 2 ^ 32) (s.time.cmp u).staged = true) :
    s.armCmp u = ((s.elapse.setCmp u Cmp.armed).setCmp u fun c => { c with lateArm := true }).fireCmp u := by
  unfold State.armCmp
  refine if_pos ?_
  rw [setCmp_cmp_same]
  exact late

theorem execCmpArm_arms {s : State} {m : Master} {u : Nat} (may : s.MayWrite m blkTime (0x20C + 16 * u)) :
    execCmpArm m u s = .next (s.quiet.armCmp u) :=
  congrArg Host.Outcome.next (viaWrite_ok s m _ _ _ may)

/-! ### Firing (R288, log 186) -/

theorem execCmpFire_here {s : State} {u : Nat} (arm : (s.time.cmp u).arm = true)
    (here : reached (s.time.counter / 2 ^ 32) (s.time.cmp u).target = true) : execCmpFire u s = .next (s.quiet.fireCmp u) := by
  have armed : ¬ (!(s.quiet.time.cmp u).arm) = true := by
    change ¬ (!(s.time.cmp u).arm) = true
    rw [arm]
    decide
  exact congrArg Host.Outcome.next ((if_neg armed).trans (if_pos here))

/-- A target that lies ahead and that no tick event comes before is awaited. -/
theorem execCmpFire_ahead {s : State} {u : Nat} (arm : (s.time.cmp u).arm = true)
    (ahead : reached (s.time.counter / 2 ^ 32) (s.time.cmp u).target = false)
    (first : s.time.running = false ∨ s.cmpGoal u ≤ s.tickStart (s.time.tick + 1)) :
    execCmpFire u s = .next ((s.quiet.modTime fun t => { t with counter := t.countTo (s.cmpGoal u) }).fireCmp u) := by
  have armed : ¬ (!(s.quiet.time.cmp u).arm) = true := by
    change ¬ (!(s.time.cmp u).arm) = true
    rw [arm]
    decide
  have free : ¬ (s.time.running = true ∧ s.tickStart (s.time.tick + 1) < s.cmpGoal u) := by
    rintro ⟨runs, behind⟩
    rcases first with stopped | near
    · exact absurd (runs.symm.trans stopped) (by decide)
    · omega
  exact congrArg Host.Outcome.next ((if_neg armed).trans ((if_neg (ne_true_of_eq_false ahead)).trans (if_neg free)))

theorem modTime_congr {s : State} {f g : Time → Time} (h : f s.time = g s.time) : s.modTime f = s.modTime g :=
  congrArg (fun t => { s with time := t }) h

/-- The counter as an armed unit fires: as it stands where the target has come, else brought to it. -/
def State.fireAt (s : State) (u : Nat) : Nat :=
  if reached (s.time.counter / 2 ^ 32) (s.time.cmp u).target then s.time.counter else s.time.countTo (s.cmpGoal u)

theorem execCmpFire_fires {s : State} {u : Nat} (arm : (s.time.cmp u).arm = true)
    (due : reached (s.time.counter / 2 ^ 32) (s.time.cmp u).target = true ∨ s.time.running = false ∨ s.cmpGoal u ≤ s.tickStart (s.time.tick + 1)) :
    execCmpFire u s = .next ((s.quiet.modTime fun t => { t with counter := s.fireAt u }).fireCmp u) := by
  have stays : (s.quiet.modTime fun t => { t with counter := s.time.counter }) = s.quiet := rfl
  have moves : (s.quiet.modTime fun t => { t with counter := s.time.countTo (s.cmpGoal u) }) =
    s.quiet.modTime fun t => { t with counter := t.countTo (s.cmpGoal u) } := modTime_congr rfl
  unfold State.fireAt
  by_cases here : reached (s.time.counter / 2 ^ 32) (s.time.cmp u).target = true
  · rw [if_pos here, stays]
    exact execCmpFire_here arm here
  · rw [if_neg here, moves]
    exact execCmpFire_ahead arm (Bool.eq_false_of_not_eq_true here) (due.resolve_left here)

/-- Settles O37: a unit armed ahead of its target, one armed late, and the firing of an armed one. -/
theorem compareUnitsArmAndFire : Obligations.CompareUnitsArmAndFire := by
  unfold Obligations.CompareUnitsArmAndFire
  intro s m u c now target here
  refine ⟨fun may ahead => ?_, fun may late => ?_, fun arm due => ?_⟩
  · refine ⟨_, (execCmpArm_arms may).trans (congrArg Host.Outcome.next (armCmp_ahead (s := s.quiet) ahead)), ?_, fun v other => ?_, rfl, rfl⟩
    · exact setCmp_cmp_same _ _ _
    · exact setCmp_cmp_other _ _ other
  · refine ⟨_, (execCmpArm_arms may).trans (congrArg Host.Outcome.next (armCmp_late (s := s.quiet) late)), ?_⟩
    rw [(fireCmp_fired _ u).unit, setCmp_cmp_same]
    obtain ⟨fired, kept⟩ := Cmp.fire_marks { (s.quiet.elapse.setCmp u Cmp.armed).time.cmp u with lateArm := true }
    exact ⟨kept, fired⟩
  · have fires := fireCmp_fired (s.quiet.modTime fun t => { t with counter := s.fireAt u }) u
    refine ⟨_, execCmpFire_fires arm due, fires.rest, fires.others, fires.counter, fun periodic => ?_, fun once => ?_⟩
    · exact fires.unit.trans (Cmp.fire_periodic periodic)
    · exact fires.unit.trans (Cmp.fire_once once)

end Sys2Proof.Machine
end

section
/-! PROOF. The reference table: what the operations of REFSEL do to an entry and what they leave (R296-R302), for O38 and O39. -/

namespace Sys2Proof.Machine

theorem Reported.refsel {s t : State} (h : Reported s t) : t.refsel = s.refsel := by obtain ⟨_, _, _, _, _, rfl⟩ := h; rfl

theorem entry_of_entries {r q : Refsel} (h : r.entries = q.entries) (n : Nat) : r.entry n = q.entry n := congrArg (tget ({} : RefEntry) · n) h

theorem setEntry_entry_same (s : State) (e : Nat) (f : RefEntry → RefEntry) : (s.setEntry e f).refsel.entry e = f (s.refsel.entry e) :=
  tget_tmod_same _ _ _ _

theorem setEntry_entry_other (s : State) {e n : Nat} (f : RefEntry → RefEntry) (h : n ≠ e) : (s.setEntry e f).refsel.entry n = s.refsel.entry n :=
  tget_tmod_other _ _ _ _ _ h

/-! ### Giving way (R297) -/

/-- What decisions leave of an entry: from SELECTED it may fall back to QUALIFIED, and nothing else changes. -/
structure RefEntry.Left (a b : RefEntry) : Prop where
  rest : b = { a with st := b.st }
  st : a.st ≠ 4 → b.st = a.st

theorem RefEntry.Left.refl (a : RefEntry) : a.Left a := ⟨rfl, fun _ => rfl⟩

theorem RefEntry.Left.of_eq {a b : RefEntry} (h : b = a) : a.Left b := h ▸ .refl a

/-- SELECTED becomes QUALIFIED. -/
def RefEntry.yield (x : RefEntry) : RefEntry := { x with st := if x.st = 4 then 2 else x.st }

theorem RefEntry.left_yield (x : RefEntry) : x.Left x.yield := ⟨rfl, fun h => if_neg h⟩

theorem unselect_of_inUse {s : State} {u : Nat} (h : s.refsel.inUse = some u) : s.unselect = s.setEntry u RefEntry.yield := by
  unfold State.unselect
  rw [h]
  rfl

theorem unselect_of_none {s : State} (h : s.refsel.inUse = none) : s.unselect = s := by
  unfold State.unselect
  rw [h]

theorem unselect_entry_inUse {s : State} {u : Nat} (h : s.refsel.inUse = some u) : s.unselect.refsel.entry u = (s.refsel.entry u).yield := by
  rw [unselect_of_inUse h, setEntry_entry_same]

theorem unselect_entry_other {s : State} {n : Nat} (h : s.refsel.inUse ≠ some n) : s.unselect.refsel.entry n = s.refsel.entry n := by
  cases used : s.refsel.inUse with
  | none => rw [unselect_of_none used]
  | some u =>
    rw [unselect_of_inUse used]
    exact setEntry_entry_other s _ fun same => h (same ▸ used)

theorem unselect_left (s : State) (n : Nat) : (s.refsel.entry n).Left (s.unselect.refsel.entry n) := by
  by_cases h : s.refsel.inUse = some n
  · rw [unselect_entry_inUse h]
    exact RefEntry.left_yield _
  · exact .of_eq (unselect_entry_other h)

/-! ### Decisions (R298-R302) -/

theorem switchTo_entries (s : State) (q : Nat) : (s.switchTo q).refsel.entries = s.refsel.entries := by
  unfold State.switchTo
  split <;> rfl

theorem holdCorr_entries (s : State) (c : Int) : (s.holdCorr c).refsel.entries = s.refsel.entries := rfl

/-- A decision by which the entry in use gives way. -/
theorem left_of_unselect {s t : State} (h : t.refsel.entries = s.unselect.refsel.entries) (n : Nat) : (s.refsel.entry n).Left (t.refsel.entry n) := by
  rw [entry_of_entries h]
  exact unselect_left s n

theorem nightwatch_left (s : State) (n : Nat) : (s.refsel.entry n).Left (s.nightwatch.refsel.entry n) := by
  unfold State.nightwatch
  dsimp only
  split
  · exact .refl _
  · split
    · refine left_of_unselect ?_ n
      rw [holdCorr_entries, State.modRef_refsel]
    · refine left_of_unselect ?_ n
      rw [(raiseT_reported _ _ _ _ _ (by decide)).refsel, holdCorr_entries, State.modRef_refsel]

theorem freeRun_left (s : State) (n : Nat) : (s.refsel.entry n).Left (s.freeRun.refsel.entry n) := by
  refine left_of_unselect ?_ n
  unfold State.freeRun
  rw [State.modTop_refsel, holdCorr_entries, State.modRef_refsel]

theorem refDecide_left (s : State) (timers : Bool) (n : Nat) : (s.refsel.entry n).Left ((s.refDecide timers).refsel.entry n) := by
  have switches (q : Nat) : (s.refsel.entry n).Left ((s.switchTo q).refsel.entry n) := .of_eq (entry_of_entries (switchTo_entries s q) n)
  have holds : (s.refsel.entry n).Left (s.refsel.entry n) := .refl _
  have best : (s.refsel.entry n).Left ((match s.refsel.best with | some q => s.switchTo q | none => s.nightwatch).refsel.entry n) := by
    split
    · exact switches _
    · exact nightwatch_left s n
  unfold State.refDecide
  dsimp only
  split
  · split
    · exact best
    · split
      · exact best
      · split
        · exact holds
        · split
          · split
            · exact switches _
            · exact holds
          · exact holds
  · split
    · split
      · exact holds
      · exact switches _
    · exact nightwatch_left s n
  · exact nightwatch_left s n
  · exact freeRun_left s n

theorem realignStep_entries (s : State) : s.realignStep.refsel.entries = s.refsel.entries := by
  unfold State.realignStep
  dsimp only
  split
  · rfl
  · split <;> rfl

theorem lockHolds_refsel (s : State) : s.lockHolds.refsel = s.refsel := by
  unfold State.lockHolds
  dsimp only
  split_ifs <;> rfl

end Sys2Proof.Machine
end

section
/-! PROOF. An evaluation of the reference table (R296, R297): O38. -/

namespace Sys2Proof.Machine

/-! ### The measures (R294, R322) -/

/-- An entry as an evaluation measures it. -/
def RefEntry.measure (x : RefEntry) (m : RefMeas) (bears : Bool) : RefEntry :=
  { x with los := m.los, f := m.f, drift := m.drift, tofs := m.tofs, atFs := m.atFs, phase := if bears then m.phase else 0 }

/-- Entry `m.entry` with the rate that `m` finds. -/
def State.rated (s : State) (m : RefMeas) : State := s.setEntry m.entry fun x => { x with atFs := m.atFs }

theorem measureRefs_one {s : State} {m : RefMeas} (h : m.entry < 16) :
    s.measureRefs [m] = s.setEntry m.entry fun x => x.measure m ((s.rated m).phaseBearing m.entry) := by
  have listed : [m].filter (fun m => decide (m.entry < 16)) = [m] := List.filter_eq_self.2 fun y hy => by
    rw [List.mem_singleton.1 hy]
    exact decide_eq_true h
  unfold State.measureRefs
  rw [listed]
  rfl

theorem phaseBearing_rated (s : State) (m : RefMeas) : (s.rated m).phaseBearing m.entry = true ↔
    s.timeBearing m.entry = true ∨ 16 ≤ s.cfg (0x1100 + m.entry) 2 ∧ s.cfg (0x1100 + m.entry) 2 ≤ 31 ∨
      s.cfg (0x1100 + m.entry) 2 ≤ 3 ∧ s.cfg (0x1100 + m.entry) 3 = 0 ∧ m.atFs = true := by
  have rate : ((s.rated m).refsel.entry m.entry).atFs = m.atFs := congrArg RefEntry.atFs (setEntry_entry_same s m.entry _)
  change (s.timeBearing m.entry || (decide (16 ≤ s.cfg (0x1100 + m.entry) 2) && decide (s.cfg (0x1100 + m.entry) 2 ≤ 31)) ||
    (decide (s.cfg (0x1100 + m.entry) 2 ≤ 3) && s.cfg (0x1100 + m.entry) 3 == 0 && ((s.rated m).refsel.entry m.entry).atFs)) = true ↔ _
  rw [rate]
  simp only [Bool.or_eq_true, Bool.and_eq_true, decide_eq_true_eq, beq_iff_eq, or_assoc, and_assoc]

/-! ### Judging one entry (R296, R297) -/

/-- The measures of an entry stand. -/
def RefEntry.SameMeasures (a b : RefEntry) : Prop := b.los = a.los ∧ b.f = a.f ∧ b.drift = a.drift ∧ b.phase = a.phase

/-- What an evaluation does to an entry that is on and measured: LOS and HARD disqualify it, and a disqualified one that passes both starts QUALIFYING. -/
structure RefEntry.Judged (a b : RefEntry) (hard : Prop) : Prop where
  measures : a.SameMeasures b
  lost : a.los = true → b.st = 0 ∧ b.cause = 1
  far : a.los = false → hard → b.st = 0 ∧ b.cause = 2
  starts : a.los = false → ¬hard → a.st = 0 → b.st = 1 ∧ b.qualMs = 0

/-- A judgement outlasts the decisions after it, for no judged entry is SELECTED. -/
theorem RefEntry.Judged.left {a b c : RefEntry} {hard : Prop} (h : a.Judged b hard) (k : b.Left c) : a.Judged c hard := by
  obtain ⟨rest, st⟩ := k
  have stays {n : Nat} (hn : n ≠ 4) (is : b.st = n) : c.st = n := (st (is ▸ hn)).trans is
  have cause : c.cause = b.cause := by rw [rest]
  have qualMs : c.qualMs = b.qualMs := by rw [rest]
  refine ⟨?_, fun lost => ?_, fun here far => ?_, fun here near off => ?_⟩
  · rw [rest]
    exact h.measures
  · obtain ⟨is, why⟩ := h.lost lost
    exact ⟨stays (by decide) is, cause.trans why⟩
  · obtain ⟨is, why⟩ := h.far here far
    exact ⟨stays (by decide) is, cause.trans why⟩
  · obtain ⟨is, ms⟩ := h.starts here near off
    exact ⟨stays (by decide) is, qualMs.trans ms⟩

/-- A turn of entry `e`: that entry alone changes, and not its measures; an event of class C may report it. -/
def Turn (s : State) (e : Nat) (t : State) : Prop := ∃ f : RefEntry → RefEntry, (∀ x : RefEntry, x.SameMeasures (f x)) ∧ Reported (s.setEntry e f) t

theorem Turn.set {s : State} {e : Nat} {f : RefEntry → RefEntry} (keeps : ∀ x : RefEntry, x.SameMeasures (f x)) : Turn s e (s.setEntry e f) :=
  ⟨f, keeps, .refl _⟩

theorem Turn.raise {s : State} {e ev detail : Nat} {f : RefEntry → RefEntry} (keeps : ∀ x : RefEntry, x.SameMeasures (f x)) :
    Turn s e ((s.setEntry e f).raiseAs blkRefsel ev .c e detail none) :=
  ⟨f, keeps, raiseAs_reported _ _ _ _ _ _ _ (by decide)⟩

section
variable (r : Refsel) (found near : List (Bool × Option (Nat × Bool))) (s : State) (e : Nat)

theorem moveEntry_turn : Turn s e (State.moveEntry r found near s e) := by
  unfold State.moveEntry
  dsimp only
  split
  · exact .set fun _ => ⟨rfl, rfl, rfl, rfl⟩
  · split
    · split
      · exact .set fun _ => ⟨rfl, rfl, rfl, rfl⟩
      · exact .raise fun _ => ⟨rfl, rfl, rfl, rfl⟩
    · split
      · split
        · exact .set fun _ => ⟨rfl, rfl, rfl, rfl⟩
        · exact .raise fun _ => ⟨rfl, rfl, rfl, rfl⟩
      · split
        · exact .set fun _ => ⟨rfl, rfl, rfl, rfl⟩
        · exact .set fun _ => ⟨rfl, rfl, rfl, rfl⟩
        · split
          · exact .raise fun _ => ⟨rfl, rfl, rfl, rfl⟩
          · exact .set fun _ => ⟨rfl, rfl, rfl, rfl⟩
        · split
          · exact .raise fun _ => ⟨rfl, rfl, rfl, rfl⟩
          · split
            · split
              · exact .raise fun _ => ⟨rfl, rfl, rfl, rfl⟩
              · exact .set fun _ => ⟨rfl, rfl, rfl, rfl⟩
            · exact .set fun _ => ⟨rfl, rfl, rfl, rfl⟩

/-- An entry that is disqualified already takes the cause alone, another one is disqualified with it. -/
theorem disqualified_entry (cause ev detail : Nat) : ∀ t : State,
    t = (if (s.refsel.entry e).st = 0 then s.setEntry e fun x => { x with cause := cause }
      else (s.setEntry e fun x => { x with st := 0, cause := cause, wtr := none }).raiseAs blkRefsel ev .c e detail none) →
    (t.refsel.entry e).st = 0 ∧ (t.refsel.entry e).cause = cause := by
  rintro _ rfl
  split
  case isTrue off =>
    rw [setEntry_entry_same]
    exact ⟨off, rfl⟩
  case isFalse =>
    rw [(raiseAs_reported _ _ _ _ _ _ _ (by decide)).refsel, setEntry_entry_same]
    exact ⟨rfl, rfl⟩

variable {s e} (on : s.entryOn e = true)
include on

/-- The turn of an entry that is on (R296, R297). -/
theorem moveEntry_judged :
    (s.refsel.entry e).Judged ((State.moveEntry r found near s e).refsel.entry e) (s.hardFails 1 1 e = true) := by
  have measures : (s.refsel.entry e).SameMeasures ((State.moveEntry r found near s e).refsel.entry e) := by
    obtain ⟨f, keeps, turn⟩ := moveEntry_turn r found near s e
    rw [turn.refsel, setEntry_entry_same]
    exact keeps _
  have enabled : ¬ (!(s.entryOn e)) = true := by simp [on]
  refine ⟨measures, fun lost => ?_, fun here far => ?_, fun here close off => ?_⟩
  · refine disqualified_entry s e 1 0x10 s.tickDetail _ ?_
    unfold State.moveEntry
    dsimp only
    rw [if_neg enabled, if_pos lost]
  · refine disqualified_entry s e 2 0x11 s.tickDetail _ ?_
    unfold State.moveEntry
    dsimp only
    rw [if_neg enabled, if_neg (ne_true_of_eq_false here), if_pos far]
  · have starts : State.moveEntry r found near s e = s.setEntry e fun x => { x with st := 1, qualMs := 0 } := by
      unfold State.moveEntry
      dsimp only
      rw [if_neg enabled, if_neg (ne_true_of_eq_false here), if_neg close, off]
      rfl
    rw [starts, setEntry_entry_same]
    exact ⟨rfl, rfl⟩

end

/-- What the judgement of an entry rests on: the entry itself and the configuration. -/
def State.entryView (s : State) (e : Nat) : RefEntry × Dict := (s.refsel.entry e, s.dict)

theorem moveEntry_other (r : Refsel) (found near : List (Bool × Option (Nat × Bool))) (s : State) {a e : Nat} (h : a ≠ e) :
    (State.moveEntry r found near s a).entryView e = s.entryView e := by
  obtain ⟨f, -, turn⟩ := moveEntry_turn r found near s a
  have entry : (State.moveEntry r found near s a).refsel.entry e = s.refsel.entry e := by rw [turn.refsel, setEntry_entry_other s f h.symm]
  exact congrArg₂ Prod.mk entry turn.dict

/-- In the turns of all entries only its own concerns an entry. -/
theorem moveEntries_judged (r : Refsel) (found near : List (Bool × Option (Nat × Bool))) {s : State} {e : Nat} (he : e < 16) (on : s.entryOn e = true) :
    (s.refsel.entry e).Judged ((foldS (State.moveEntry r found near) s (List.range 16)).refsel.entry e) (s.hardFails 1 1 e = true) := by
  obtain ⟨u, before, after⟩ := foldS_around (R := fun s t => t.entryView e = s.entryView e) (fun _ => rfl) (fun h k => k.trans h)
    (State.moveEntry r found near) (fun s a h => moveEntry_other r found near s h) s List.nodup_range (List.mem_range.2 he)
  obtain ⟨entry, dict⟩ := Prod.mk.inj before
  obtain ⟨last, -⟩ := Prod.mk.inj after
  have sameOn : u.entryOn e = s.entryOn e := by
    unfold State.entryOn State.cfgOn
    rw [dict]
  have sameHard : u.hardFails 1 1 e = s.hardFails 1 1 e := by
    unfold State.hardFails State.cfg
    rw [dict, entry]
  rw [last, ← entry, ← sameHard]
  exact moveEntry_judged r found near (sameOn.trans on)

/-! ### The evaluation -/

/-- XO_DISAGREE found is reported where the last evaluation did not find it (R296). -/
def State.reportXo (s : State) (x was : Bool) : State := if x && !was then s.raiseT blkRefsel 0x14 .c else s

/-- The record of an evaluation, and 1 ms of realignment (R300, R301). -/
def State.noteEvaluation (s : State) (x : Bool) : State :=
  (s.modRef fun r => { r with xoDis := x, held := if r.switchTo.isSome then r.held else none }).refHistory.realignStep

/-- The decision of an evaluation: while a switch runs, only the failure of the entry in use counts (R298, R299). -/
def State.decideReference (s : State) (timers : Bool) : State :=
  if s.refsel.switchTo.isSome then
    (match s.cfg 0x1010 1, s.refsel.inUse with
      | 0, some e => if (s.refsel.entry e).st < 2 then (match s.refsel.best with | some q => s.switchTo q | none => s) else s
      | _, _ => s)
  else s.refDecide timers

/-- What follows the turns of the entries: report, record, decision, and what the registers show. -/
def State.concludeEvaluation (s : State) (x was : Bool) : State :=
  (((s.reportXo x was).noteEvaluation x).decideReference (s.reportXo x was).refsel.held.isSome).lockHolds.modRef Refsel.look

theorem execRefselEvaluation_awake {s : State} (awake : s.top.state ≠ .night) (ms : List RefMeas) : ∃ found near x,
    let measured := s.quiet.elapse.measureRefs ms
    execRefselEvaluation ms s =
      .next ((foldS (State.moveEntry measured.refsel found near) measured (List.range 16)).concludeEvaluation x measured.refsel.xoDis) :=
  ⟨_, _, _, if_neg awake⟩

theorem reportXo_refsel (s : State) (x was : Bool) : (s.reportXo x was).refsel = s.refsel := by
  unfold State.reportXo
  split
  · exact (raiseT_reported _ _ _ _ _ (by decide)).refsel
  · rfl

theorem noteEvaluation_entries (s : State) (x : Bool) : (s.noteEvaluation x).refsel.entries = s.refsel.entries := realignStep_entries _

theorem decideReference_left (s : State) (timers : Bool) (n : Nat) : (s.refsel.entry n).Left ((s.decideReference timers).refsel.entry n) := by
  unfold State.decideReference
  split
  · split
    · split
      · split
        · exact .of_eq (entry_of_entries (switchTo_entries s _) n)
        · exact .refl _
      · exact .refl _
    · exact .refl _
  · exact refDecide_left s timers n

theorem concludeEvaluation_left (s : State) (x was : Bool) (n : Nat) : (s.refsel.entry n).Left ((s.concludeEvaluation x was).refsel.entry n) := by
  have noted : ((s.reportXo x was).noteEvaluation x).refsel.entry n = s.refsel.entry n := by
    rw [entry_of_entries (noteEvaluation_entries _ x) n, reportXo_refsel]
  have decides := decideReference_left ((s.reportXo x was).noteEvaluation x) (s.reportXo x was).refsel.held.isSome n
  rw [noted] at decides
  unfold State.concludeEvaluation
  rw [State.modRef_refsel, lockHolds_refsel]
  exact decides

theorem hardFails_iff (s : State) (e : Nat) : s.hardFails 1 1 e = true ↔ (1000 * s.cfg (0x1100 + e) 6 : Int) < |(s.refsel.entry e).f| := by
  have abs (x : Int) : (if x < 0 then -x else x) = |x| := by
    split
    · exact (abs_of_neg (by assumption)).symm
    · exact (abs_of_nonneg (by omega)).symm
  unfold State.hardFails
  dsimp only
  rw [abs, decide_eq_true_eq, Int.one_mul, Int.one_mul]

/-- An evaluation with the measures of one entry that is on judges that entry by them. -/
theorem execRefselEvaluation_judges {s : State} {m : RefMeas} (awake : s.top.state ≠ .night) (he : m.entry < 16) (on : s.entryOn m.entry = true) :
    ∃ t, execRefselEvaluation [m] s = .next t ∧
      ((s.refsel.entry m.entry).measure m ((s.rated m).phaseBearing m.entry)).Judged (t.refsel.entry m.entry)
        ((1000 * s.cfg (0x1100 + m.entry) 6 : Int) < |m.f|) := by
  obtain ⟨found, near, x, evaluates⟩ := execRefselEvaluation_awake awake [m]
  refine ⟨_, evaluates, ?_⟩
  generalize hu : s.quiet.elapse.measureRefs [m] = u
  rw [measureRefs_one he] at hu
  have entry : u.refsel.entry m.entry = (s.refsel.entry m.entry).measure m ((s.rated m).phaseBearing m.entry) :=
    hu ▸ setEntry_entry_same s.quiet.elapse m.entry _
  have cfg : u.cfg (0x1100 + m.entry) 6 = s.cfg (0x1100 + m.entry) 6 := hu ▸ rfl
  have judged := (moveEntries_judged u.refsel found near he (s := u) (hu ▸ on)).left (concludeEvaluation_left _ x u.refsel.xoDis m.entry)
  rw [hardFails_iff, entry, cfg] at judged
  exact judged

/-- Settles O38: the entry is measured, then judged by LOS, HARD and its state. -/
theorem evaluationsDisqualifyEntries : Obligations.EvaluationsDisqualifyEntries := by
  unfold Obligations.EvaluationsDisqualifyEntries
  intro s x awake he on e hard src bears
  obtain ⟨t, evaluates, judged⟩ := execRefselEvaluation_judges awake he on
  obtain ⟨los, f, drift, phase⟩ := judged.measures
  have bearing : (s.rated x).phaseBearing x.entry = true ↔ bears := phaseBearing_rated s x
  refine ⟨t, evaluates, los, f, drift, fun yes => ?_, fun no => ?_, judged.lost, judged.far, judged.starts⟩
  · exact phase.trans (if_pos (bearing.2 yes))
  · exact phase.trans (if_neg fun h => no (bearing.1 h))

end Sys2Proof.Machine
end

section
/-! PROOF. Entries qualify, recover, wait and become the one in use (R297, R298, R300, R301): O39. -/

namespace Sys2Proof.Machine

/-! ### Qualification and recovery (R297) -/

theorem ranksAbove_of_selected {r : Refsel} {u : Nat} (h : r.switchTo = some u ∨ r.switchTo = none ∧ r.inUse = some u) (e : Nat) :
    r.ranksAbove e = decide (e < u) := by
  unfold Refsel.ranksAbove
  rcases h with switching | ⟨idle, used⟩
  · rw [switching]
  · rw [idle, used]

theorem ranksAbove_of_none {r : Refsel} (idle : r.switchTo = none) (unused : r.inUse = none) (e : Nat) : r.ranksAbove e = false := by
  unfold Refsel.ranksAbove
  rw [idle, unused]

/-- An entry that has passed its tests for QUAL (R297); one that ranks above the one in use waits to restore in revertive mode. -/
theorem execQualExpiry_qualifies {s : State} {e : Nat} (qualifying : (s.refsel.entry e).st = 1)
    (passed : 1000 * s.cfg (0x1100 + e) 9 ≤ (s.refsel.entry e).qualMs) : execQualExpiry e s = .next (s.quiet.setEntry e fun x =>
      { x with st := 2, wtr := if s.refsel.ranksAbove e && s.cfgOn 0x1010 3 then some 0 else none }) :=
  if_pos ⟨qualifying, passed⟩

/-- A SUSPECT entry that has kept within 90 % of its limits for 5 s, not one suspected for its time offset (R297). -/
theorem execSuspectRecovery_recovers {s : State} {e : Nat} (suspect : (s.refsel.entry e).st = 3) (cause : (s.refsel.entry e).cause ≠ 5)
    (kept : 5000 ≤ (s.refsel.entry e).recMs) : execSuspectRecovery e s = .next (s.quiet.setEntry e fun x =>
      if s.refsel.inUse = some e then { x with st := 4 } else { x with st := 1, qualMs := 0 }) :=
  if_pos ⟨suspect, cause, kept⟩

/-! ### Decisions to switch (R298-R300) -/

/-- A switch decided while none runs holds corr at its mean and starts the build-out. -/
theorem switchTo_begins {s : State} (idle : s.refsel.switchTo = none) (q : Nat) :
    s.switchTo q = (s.modRef fun r => { r with switchTo := some q, mode := 4 }).holdCorr s.frozenCorr := by
  unfold State.switchTo
  rw [idle]
  rfl

theorem dwellOver_of_suspect {s : State} {u : Nat} (used : s.refsel.inUse = some u) (suspect : (s.refsel.entry u).st = 3)
    (ended : 1000 * s.cfg (0x1100 + u) 8 ≤ (s.refsel.entry u).suspMs) : s.dwellOver = true := by
  unfold State.dwellOver
  rw [used]
  dsimp only
  rw [suspect, decide_eq_true ended]
  rfl

theorem wtrOver_of_waited {s : State} {e n : Nat} (waits : (s.refsel.entry e).wtr = some n) (ended : 1000 * s.cfg (0x1100 + e) 10 ≤ n) :
    s.wtrOver e = true := by
  unfold State.wtrOver
  rw [waits]
  exact decide_eq_true ended

/-- The end of DWELL leads to the highest-priority QUALIFIED entry. -/
theorem execDwellExpiry_switches {s : State} {q : Nat} (auto : s.cfg 0x1010 1 = 0) (ended : s.dwellOver = true) (best : s.refsel.best = some q) :
    execDwellExpiry s = .next (s.quiet.elapse.switchTo q) := by
  have there : s.quiet.elapse.refsel.best = some q := best
  unfold execDwellExpiry
  dsimp only
  rw [there]
  exact if_pos ⟨auto, ended⟩

/-- The end of WTR leads to the entry that has waited. -/
theorem execWtrExpiry_switches {s : State} {e : Nat} (auto : s.cfg 0x1010 1 = 0) (revertive : s.cfgOn 0x1010 3 = true)
    (best : s.refsel.best = some e) (above : s.refsel.ranksAbove e = true) (ended : s.wtrOver e = true) :
    execWtrExpiry e s = .next (s.quiet.elapse.switchTo e) :=
  if_pos ⟨auto, revertive, best, above, ended⟩

/-! ### REF_SWITCH (R300, R301) -/

/-- Starting a wait to restore leaves the state of every entry. -/
theorem startWtr_st (r : Refsel) (q n : Nat) : ((r.startWtr q).entry n).st = (r.entry n).st := by
  unfold Refsel.startWtr Refsel.entry
  dsimp only
  induction r.entries with
  | nil => rfl
  | cons p l ih =>
    obtain ⟨k, x⟩ := p
    rw [List.map_cons]
    split_ifs <;> unfold tget <;> split_ifs
    · rfl
    · exact ih
    · rfl
    · exact ih

/-- The new entry: SELECTED where it is QUALIFIED still, and no longer waiting. -/
def RefEntry.select (x : RefEntry) : RefEntry := { x with st := if x.st = 2 then 4 else x.st, wtr := none }

/-- The switch as REF_SWITCH completes it: the entry in use gives way, and the loop closes on the new one. -/
def State.switched (s : State) (q : Nat) (offset : Int) : State :=
  (s.unselect.setEntry q RefEntry.select).modRef fun r =>
    { r with inUse := some q, switchTo := none, mode := 1, hoSpec := false, buildOut := s.absorbed q offset }

theorem switched_entries (s : State) (q : Nat) (offset : Int) :
    (s.switched q offset).refsel.entries = (s.unselect.setEntry q RefEntry.select).refsel.entries := rfl

/-- The switch with the waits to restore that it starts. -/
def State.switchedOver (s : State) (q : Nat) (offset : Int) : State :=
  (s.switched q offset).modRef fun r => if s.cfgOn 0x1010 3 then r.startWtr q else r

theorem unselect_eq (s : State) : s.unselect = { s with refsel := { s.refsel with entries := s.unselect.refsel.entries } } := by
  cases used : s.refsel.inUse with
  | none => rw [unselect_of_none used]
  | some u => rw [unselect_of_inUse used]; rfl

/-- A switch concerns REFSEL alone. -/
theorem switchedOver_eq (s : State) (q : Nat) (offset : Int) : s.switchedOver q offset = { s with refsel := { s.refsel with
    entries := (s.switchedOver q offset).refsel.entries, inUse := some q, switchTo := none, mode := 1, hoSpec := false, buildOut := s.absorbed q offset } } := by
  unfold State.switchedOver State.switched
  rw [unselect_eq s]
  split <;> rfl

/-- REF_SWITCH completes the switch and reports it (R300). -/
theorem execRefSwitch_switches {s : State} {q : Nat} (switching : s.refsel.switchTo = some q) (noShadow : s.top.shadows = []) (offset : Int) :
    ∃ t, execRefSwitch offset s = .next t ∧ Reported (s.quiet.switchedOver q offset) t ∧ Recorded s t blkRefsel 0x13 .c s.tickDetail := by
  have there : s.quiet.refsel.switchTo = some q := switching
  have switches : execRefSwitch offset s =
      .next ((s.quiet.switchedOver q offset).raiseAs blkRefsel 0x13 .c q (s.quiet.switchedOver q offset).tickDetail none) := by
    unfold execRefSwitch
    dsimp only
    rw [there]
    rfl
  have detail : (s.quiet.switchedOver q offset).tickDetail = s.tickDetail := by rw [switchedOver_eq]; rfl
  refine ⟨_, switches, raiseAs_reported _ _ _ _ _ _ _ (by decide), ?_⟩
  rw [detail]
  refine raiseAs_recorded ?_ ?_ _ _ _ _ (by decide)
  · rw [switchedOver_eq]
    rfl
  · rw [switchedOver_eq]
    exact noShadow

theorem switchedOver_st (s : State) (q n : Nat) (offset : Int) :
    ((s.switchedOver q offset).refsel.entry n).st = ((s.switched q offset).refsel.entry n).st := by
  unfold State.switchedOver
  rw [State.modRef_refsel]
  split
  · exact startWtr_st _ q n
  · rfl

/-- The new entry is SELECTED if it was QUALIFIED. -/
theorem switched_new {s : State} {q : Nat} (qualified : (s.refsel.entry q).st = 2) (offset : Int) :
    ((s.switchedOver q offset).refsel.entry q).st = 4 := by
  have still : (s.unselect.refsel.entry q).st = 2 := ((unselect_left s q).st (by omega)).trans qualified
  rw [switchedOver_st, entry_of_entries (switched_entries s q offset), setEntry_entry_same]
  exact if_pos still

theorem switched_other {s : State} {q n : Nat} (h : n ≠ q) (offset : Int) :
    ((s.switchedOver q offset).refsel.entry n).st = (s.unselect.refsel.entry n).st := by
  rw [switchedOver_st, entry_of_entries (switched_entries s q offset), setEntry_entry_other _ _ h]

theorem absorbed_of_timeBearing {s : State} {q : Nat} (h : s.timeBearing q = true) (ps : Int) : s.absorbed q ps = 1000 * ps := if_pos h

theorem absorbed_of_not_phaseBearing {s : State} {q : Nat} (h : s.phaseBearing q = false) (ps : Int) : s.absorbed q ps = 0 := by
  have noTime : s.timeBearing q = false := by
    unfold State.phaseBearing at h
    simp only [Bool.or_eq_false_iff] at h
    obtain ⟨⟨time, -⟩, -⟩ := h
    exact time
  unfold State.absorbed
  rw [noTime, h]
  rfl

/-- Settles O39: the four timers, then the completed switch with its event. -/
theorem entriesQualifyRecoverAndSwitch : Obligations.EntriesQualifyRecoverAndSwitch := by
  unfold Obligations.EntriesQualifyRecoverAndSwitch
  intro s e q u off x others frozen switching
  refine ⟨fun qualifying passed => ?_, fun suspect cause kept => ?_, fun auto used idle best suspect ended => ?_,
    fun auto revertive used idle best above waited => ?_, fun running noShadow => ?_⟩
  · refine ⟨_, execQualExpiry_qualifies qualifying passed, rfl, fun selected => ?_, fun idle unused => ?_, fun n other => ?_⟩
    · refine (setEntry_entry_same s.quiet e _).trans ?_
      rw [ranksAbove_of_selected selected]
      simp only [Bool.and_eq_true, decide_eq_true_eq]
      rfl
    · refine (setEntry_entry_same s.quiet e _).trans ?_
      rw [ranksAbove_of_none idle unused]
      rfl
    · exact setEntry_entry_other s.quiet _ other
  · refine ⟨_, execSuspectRecovery_recovers suspect cause kept, rfl, fun used => ?_, fun unused => ?_, fun n other => ?_⟩
    · exact (setEntry_entry_same s.quiet e _).trans (if_pos used)
    · exact (setEntry_entry_same s.quiet e _).trans (if_neg unused)
    · exact setEntry_entry_other s.quiet _ other
  · refine ⟨_, (execDwellExpiry_switches auto (dwellOver_of_suspect used suspect ended) best).trans
      (congrArg Host.Outcome.next (switchTo_begins (s := s.quiet.elapse) idle q)), ?_⟩
    rfl
  · obtain ⟨n, waits, ended⟩ := waited
    have ranks : s.refsel.ranksAbove e = true := (ranksAbove_of_selected (.inr ⟨idle, used⟩) e).trans (decide_eq_true above)
    refine ⟨_, (execWtrExpiry_switches auto revertive best ranks (wtrOver_of_waited waits ended)).trans
      (congrArg Host.Outcome.next (switchTo_begins (s := s.quiet.elapse) idle e)), ?_⟩
    rfl
  · obtain ⟨t, switches, told, record⟩ := execRefSwitch_switches running noShadow off
    have shape := switchedOver_eq s.quiet q off
    refine ⟨t, switches, record, ?_, ?_, fun time => ?_, fun frequency => ?_, fun qualified => ?_, fun used other selected => ?_, fun n other unused => ?_⟩ <;>
      simp only [told.time, told.refsel]
    · rw [shape]
      rfl
    · rw [shape]
      rfl
    · rw [shape]
      exact absorbed_of_timeBearing (s := s.quiet) time off
    · rw [shape]
      exact absorbed_of_not_phaseBearing (s := s.quiet) frequency off
    · exact switched_new (s := s.quiet) qualified off
    · refine (switched_other (s := s.quiet) other off).trans ?_
      rw [unselect_entry_inUse (s := s.quiet) used]
      exact if_pos selected
    · refine (switched_other (s := s.quiet) other off).trans ?_
      rw [unselect_entry_other (s := s.quiet) unused]
      rfl

end Sys2Proof.Machine
end

section
/-! PROOF. Failures of the clocks, and the PTP messages of a port (R290-R293, R303, R304, R306, R309): O40. -/

namespace Sys2Proof.Machine

/-! ### Events of class F while ticks run (R479) -/

theorem mark_pulse_classF (t : Top) (cls : EvClass) (b n : Nat) : ((t.pulse cls).mark b cls n).classF = t.classF := by
  unfold Top.mark Top.pulse Top.fault
  dsimp only
  split_ifs <;> rfl

/-- An event of class F takes an engine out of service at the next boundary, unless it is in Dusk or in Night already. -/
theorem classFNow_eq {s : State} (runs : s.time.running = true) (b ev : Nat) : ∃ top, s.classFNow b ev = { s with top := top } ∧
    top.classF = (s.top.classF || decide ¬(s.top.state = .dusk ∨ s.top.state = .night)) := by
  cases is : s.top.state with
  | night => exact ⟨{ s.top with nightF := (b, ev) :: s.top.nightF }, by unfold State.classFNow; rw [is]; rfl, by simp⟩
  | dusk => exact ⟨s.top, by unfold State.classFNow; rw [is], by simp⟩
  | dawn => exact ⟨_, classFNow_running s b ev runs (by simp [is]) (by simp [is]), by simp⟩
  | morning => exact ⟨_, classFNow_running s b ev runs (by simp [is]) (by simp [is]), by simp⟩
  | noon => exact ⟨_, classFNow_running s b ev runs (by simp [is]) (by simp [is]), by simp⟩

/-- An event of class F before what it does to the engine state (R485). -/
def State.recordF (s : State) (b ev detail : Nat) : State :=
  let e : HistEntry :=
    { code := b * 256 + ev, cls := .f, conseq := false, forced := false, polled := false, persist := false, func := 0
      stamped := false, stamp := 0, detail := detail % 2 ^ 32 }
  let s1 := ((s.setCommon b fun c => (c.log e).noteOverrun ev).setCommon b fun c => c.flag ev .f).modTop fun t => (t.pulse .f).mark b .f s.time.tick
  { s1 with tw1 := { s1.tw1 with attnHw := s1.tw1.attnHw.lor 1 } }.emit (.pin 0 true)

theorem raiseAs_f (s : State) (b ev who detail : Nat) : s.raiseAs b ev .f who detail none = (s.recordF b ev detail).classFNow b ev := rfl

/-- The same engine in Noon, without shadows. -/
def State.inService (s : State) : State := { s with top := { s.top with state := .noon, shadows := [] } }

/-- What an event of class F records does not depend on the engine state. -/
theorem raiseAs_f_recorded {s u : State} (same : u.commons = s.commons) (runs : u.time.running = true) (b ev who detail : Nat) :
    Recorded s (u.raiseAs b ev .f who detail none) b ev .f detail := by
  obtain ⟨record, -⟩ := raise_eq u.inService b ev who detail .f rfl fun _ => ⟨runs, EState.noConfusion, EState.noConfusion⟩
  obtain ⟨_, now, -⟩ := classFNow_eq (s := u.recordF b ev detail) runs b ev
  obtain ⟨_, now', -⟩ := classFNow_eq (s := u.inService.recordF b ev detail) runs b ev
  refine record.of_commons same.symm ?_
  rw [raiseAs_f, raiseAs_f, now, now']
  rfl

/-- What an event of class F may change: what is sent, the common registers, the records of TOP with the class F flag, and ATTN_N. -/
theorem raiseAs_f_leaves {s : State} (runs : s.time.running = true) (b ev who detail : Nat) : ∃ sent commons top tw1,
    s.raiseAs b ev .f who detail none = { s with sent := sent, commons := commons, top := top, tw1 := tw1 } ∧
      top.classF = (s.top.classF || decide ¬(s.top.state = .dusk ∨ s.top.state = .night)) := by
  obtain ⟨top, now, classF⟩ := classFNow_eq (s := s.recordF b ev detail) runs b ev
  refine ⟨_, _, top, _, (raiseAs_f s b ev who detail).trans now, classF.trans ?_⟩
  have flag : (s.recordF b ev detail).top.classF = s.top.classF := mark_pulse_classF _ _ _ _
  have state : (s.recordF b ev detail).top.state = s.top.state := mark_pulse_state _ _ _ _
  rw [flag, state]

theorem tickDetail_running {s : State} (runs : s.time.running = true) : s.tickDetail = s.time.tick % 2 ^ 32 := if_pos runs

/-- An event of class F whose detail is the tick, from a state `u` that a failure has left of `s` (R479, R493). -/
theorem raiseT_f {s u : State} (runs : s.time.running = true) (commons : u.commons = s.commons) (top : u.top = s.top) (time : u.time = s.time)
    (b ev : Nat) : Recorded s (u.raiseT b ev .f) b ev .f (s.time.tick % 2 ^ 32) ∧ (u.raiseT b ev .f).pwr = u.pwr ∧
      (u.raiseT b ev .f).refsel = u.refsel ∧
      (u.raiseT b ev .f).top.classF = (s.top.classF || decide ¬(s.top.state = .dusk ∨ s.top.state = .night)) := by
  have runs' : u.time.running = true := time ▸ runs
  have detail : u.tickDetail = s.time.tick % 2 ^ 32 := time ▸ tickDetail_running runs'
  obtain ⟨_, _, _, _, leaves, classF⟩ := raiseAs_f_leaves runs' b ev 0 (s.time.tick % 2 ^ 32)
  unfold State.raiseT
  rw [detail]
  refine ⟨raiseAs_f_recorded commons runs' b ev 0 _, ?_, ?_, ?_⟩
  · rw [leaves]
  · rw [leaves]
  · rw [leaves, ← top]
    exact classF

theorem execHoSpecLost_raises {s : State} (holdover : s.refsel.mode = 3) (within : s.refsel.hoSpec = true) (exceeds : s.hoExceeds = true) :
    execHoSpecLost s = .next ((s.quiet.modRef fun r => { r with hoSpec := false }).raiseT blkRefsel 0x16 .u) :=
  if_pos ⟨holdover, within, exceeds⟩

/-! ### Messages that leave a port (R292, R406) -/

/-- Messages have left port `p`, after what was put out before: SecTAGs take packet numbers, and nothing else changes. -/
structure Sends (p : Nat) (s t : State) : Prop where
  sent : ∃ l, t.sent = s.sent ++ l
  rest : t = { s with sent := t.sent, sec := t.sec }
  plain : s.cfgOn (0xC300 + p) 1 = false → t.sec = s.sec

theorem Sends.refl (p : Nat) (s : State) : Sends p s s := ⟨⟨[], (List.append_nil _).symm⟩, rfl, fun _ => rfl⟩

theorem Sends.trans {p : Nat} {s t u : State} (h : Sends p s t) (k : Sends p t u) : Sends p s u where
  sent := by
    obtain ⟨l, first⟩ := h.sent
    obtain ⟨m, second⟩ := k.sent
    exact ⟨l ++ m, by rw [second, first, List.append_assoc]⟩
  rest := by rw [k.rest, h.rest]
  plain unsecured := by
    have still : t.cfgOn (0xC300 + p) 1 = s.cfgOn (0xC300 + p) 1 := by rw [h.rest]; rfl
    exact (k.plain (still.trans unsecured)).trans (h.plain unsecured)

theorem Sends.mem {p : Nat} {s t : State} (h : Sends p s t) {e : Emission} (he : e ∈ s.sent) : e ∈ t.sent := by
  obtain ⟨l, after⟩ := h.sent
  exact after ▸ List.mem_append_left l he

theorem emit_sends (p : Nat) (s : State) (e : Emission) : Sends p s (s.emit e) := ⟨⟨[e], rfl⟩, rfl, fun _ => rfl⟩

theorem secure_sends (s : State) (p : Nat) : Sends p s (s.secure p) := by
  by_cases h : s.cfgOn (0xC300 + p) 1 = true
  · unfold State.secure
    rw [h]
    exact ⟨⟨_, rfl⟩, rfl, fun none => absurd (none.symm.trans h) (by decide)⟩
  · rw [secure_plain (Bool.eq_false_of_not_eq_true h)]
    exact .refl p s

section
variable (s : State) (p kind cls tsrc : Nat) (stamp : Int) (tlv : List Byte)

theorem sendPtp_sends : Sends p s (s.sendPtp p kind cls tsrc stamp tlv) := (secure_sends s p).trans (emit_sends p _ _)

theorem mem_sendPtp : .ptp p kind cls tsrc stamp tlv ∈ (s.sendPtp p kind cls tsrc stamp tlv).sent := List.mem_append_right _ (List.mem_singleton_self _)

end

theorem delayRequest_sends (s : State) (p : Nat) : Sends p s (s.delayRequest p) := by
  unfold State.delayRequest
  split
  · exact sendPtp_sends _ _ _ _ _ _ _
  · split
    · exact sendPtp_sends _ _ _ _ _ _ _
    · exact .refl p s

theorem sendStamped_sends (s : State) (p kind after : Nat) : Sends p s.elapse (s.sendStamped p kind after) := by
  unfold State.sendStamped
  dsimp only
  split
  · exact sendPtp_sends _ _ _ _ _ _ _
  · exact (sendPtp_sends _ _ _ _ _ _ _).trans (sendPtp_sends _ _ _ _ _ _ _)

/-- One-step sending puts the transmit timestamp into the message. -/
theorem mem_sendStamped_oneStep {s : State} {p : Nat} (one : s.cfgOn 0x1200 9 p = true) (kind after : Nat) :
    .ptp p kind 0 0 (s.txStamp p) [] ∈ (s.sendStamped p kind after).sent := by
  unfold State.sendStamped
  dsimp only
  rw [if_pos one]
  exact mem_sendPtp _ _ _ _ _ _ _

/-- Two-step sending puts it into the follow-up. -/
theorem mem_sendStamped_twoStep {s : State} {p : Nat} (two : s.cfgOn 0x1200 9 p = false) (kind after : Nat) :
    .ptp p kind 0 0 0 [] ∈ (s.sendStamped p kind after).sent ∧ .ptp p after 0 0 (s.txStamp p) [] ∈ (s.sendStamped p kind after).sent := by
  unfold State.sendStamped
  dsimp only
  rw [if_neg (ne_true_of_eq_false two)]
  exact ⟨(sendPtp_sends _ _ _ _ _ _ _).mem (mem_sendPtp _ _ _ _ _ _ _), mem_sendPtp _ _ _ _ _ _ _⟩

/-! ### PTP_SEND (R292, R293) -/

/-- The clockClass of Announce; where the table states none, the model leaves it free. -/
def State.announcedClass (s : State) : Nat := s.clockClass.getD (s.freeBits .measured 8).2

/-- The timeSource of Announce: that of the entry in use. -/
def State.announcedSource (s : State) : Nat :=
  match s.refsel.inUse with
  | some e => s.cfg (0x1100 + e) 13
  | none => (s.fresh.freeBits .measured 8).2

theorem announcedClass_of_stated {s : State} {c : Nat} (h : s.clockClass = some c) : s.announcedClass = c := by
  unfold State.announcedClass
  rw [h]
  rfl

/-- A master port after its Sync and Announce. -/
def State.announce (s : State) (p : Nat) : State :=
  (s.fresh.fresh.sendStamped p 0 8).sendPtp p 11 s.announcedClass s.announcedSource 0 []

/-- A master port sends Sync and Announce, and then what else is due. -/
theorem execPtpSend_master {s : State} {p : Nat} (master : s.ptpMasterPort p = true) :
    ∃ t, execPtpSend p s = .next t ∧ Sends p (s.quiet.announce p) t := by
  have isMaster : ¬ (!(s.quiet.ptpMasterPort p)) = true := by
    change ¬ (!(s.ptpMasterPort p)) = true
    rw [master]
    decide
  have sends : execPtpSend p s = .next (if s.quiet.grandmaster && s.quiet.cfg 0x1200 1 == 1
      then ((s.quiet.announce p).sendPtp p 13 0 0 0 (cfgB s.quiet.dict.vals 0x1200 10 0)).delayRequest p
      else (s.quiet.announce p).delayRequest p) := if_neg isMaster
  refine ⟨_, sends, ?_⟩
  split
  · exact (sendPtp_sends _ _ _ _ _ _ _).trans (delayRequest_sends _ _)
  · exact delayRequest_sends _ _

/-- Another port sends the delay request of its mechanism only. -/
theorem execPtpSend_other {s : State} {p : Nat} (enabled : s.cfgOn 0x1200 5 p = true) (up : (s.port p).up = true)
    (slave : s.ptpMasterPort p = false) : execPtpSend p s = .next (s.quiet.delayRequest p) := by
  have notMaster : (!(s.quiet.ptpMasterPort p)) = true := by
    change (!(s.ptpMasterPort p)) = true
    rw [slave]
    rfl
  have runs : (s.cfgOn 0x1200 5 p && (s.port p).up) = true := by
    rw [enabled, up]
    rfl
  exact (if_pos notMaster).trans (congrArg Host.Outcome.next (if_pos runs))

theorem delayRequest_slave {s : State} {p : Nat} (slave : s.refsel.ptpMaster = some p) (endToEnd : s.cfg 0x1200 8 ≠ 1) :
    s.delayRequest p = s.sendPtp p 1 0 0 0 [] := by
  unfold State.delayRequest
  rw [if_neg endToEnd, if_pos slave]

/-- Settles O40: the three failures are events of their classes, then a master port and the slave port send. -/
theorem clockFailuresAreEvents : Obligations.ClockFailuresAreEvents := by
  unfold Obligations.ClockFailuresAreEvents
  intro s p noShadow runs stays
  refine ⟨fun holdover within exceeds => ?_, ?_, ?_, fun enabled up notSlave => ?_, fun enabled up slave endToEnd => ?_⟩
  · have told := raiseT_reported (s.quiet.modRef fun r => { r with hoSpec := false }) blkRefsel 0x16 0 .u (by decide)
    refine ⟨_, execHoSpecLost_raises holdover within exceeds, ?_, told.refsel, told.topState⟩
    rw [← tickDetail_running runs]
    exact raiseAs_recorded (s := s) (u := s.quiet.modRef fun r => { r with hoSpec := false }) rfl noShadow blkRefsel 0x16 0 s.tickDetail
      (cls := .u) (by decide)
  · obtain ⟨record, pwr, -, classF⟩ := raiseT_f (u := { s.quiet with pwr := { s.pwr with xoValid := false } }) runs rfl rfl rfl blkTime 0x10
    exact ⟨_, rfl, record, pwr, classF⟩
  · obtain ⟨record, -, refsel, classF⟩ := raiseT_f (u := s.quiet.modRef fun r => { r with apllLocked := false }) runs rfl rfl rfl blkRefsel 0x17
    exact ⟨_, rfl, record, refsel, classF⟩
  · have master : s.ptpMasterPort p = true := by
      unfold State.ptpMasterPort
      rw [enabled, up]
      simpa using notSlave
    obtain ⟨t, sends, after⟩ := execPtpSend_master master
    have announced := (sendPtp_sends (s.quiet.fresh.fresh.sendStamped p 0 8) p 11 s.quiet.announcedClass s.quiet.announcedSource 0 []).trans after
    have all := (sendStamped_sends s.quiet.fresh.fresh p 0 8).trans announced
    have counter : t.time.counter = s.quiet.fresh.fresh.elapse.time.counter := by rw [all.rest]
    refine ⟨t, s.quiet.announcedClass, s.quiet.announcedSource, sends, ⟨fun one => ?_, fun two => ?_⟩, after.mem (mem_sendPtp _ _ _ _ _ _ _),
      fun c stated => announcedClass_of_stated (s := s.quiet) stated, fun unsecured => ?_⟩
    · rw [counter]
      exact announced.mem (mem_sendStamped_oneStep (s := s.quiet.fresh.fresh) one 0 8)
    · rw [counter]
      obtain ⟨sync, followUp⟩ := mem_sendStamped_twoStep (s := s.quiet.fresh.fresh) two 0 8
      exact ⟨announced.mem sync, announced.mem followUp⟩
    · rw [all.rest, all.plain unsecured]
      rfl
  · have notMaster : s.ptpMasterPort p = false := by
      unfold State.ptpMasterPort
      rw [slave]
      simp
    refine ⟨_, execPtpSend_other enabled up notMaster, ?_⟩
    rw [delayRequest_slave (s := s.quiet) slave endToEnd]
    exact mem_sendPtp _ _ _ _ _ _ _

end Sys2Proof.Machine
end

section
/-! PROOF. What leaves over the mirror, and the engine's own records of its pair: O58 and O59. -/

namespace Sys2Proof.Machine

/-! ### Records that leave over the mirror (R340, R341, R409) -/

/-- What a frame of a group changes: what is sent, the ports' counters, the groups. -/
def OnLink (s t : State) : Prop := ∃ sent ports groups, t = { s with sent := sent, ports := ports, groups := groups }

theorem OnLink.refl (s : State) : OnLink s s := ⟨_, _, _, rfl⟩

theorem OnLink.trans {s t u : State} (h : OnLink s t) (k : OnLink t u) : OnLink s u := by
  obtain ⟨_, _, _, rfl⟩ := h
  obtain ⟨_, _, _, rfl⟩ := k
  exact ⟨_, _, _, rfl⟩

section
variable {s t : State} (h : OnLink s t)
include h

theorem OnLink.pair : t.pair = s.pair := by obtain ⟨_, _, _, rfl⟩ := h; rfl
theorem OnLink.commons : t.commons = s.commons := by obtain ⟨_, _, _, rfl⟩ := h; rfl
theorem OnLink.top : t.top = s.top := by obtain ⟨_, _, _, rfl⟩ := h; rfl
theorem OnLink.tickDetail : t.tickDetail = s.tickDetail := by obtain ⟨_, _, _, rfl⟩ := h; rfl

end

theorem plStart_onLink (s : State) (g : Nat) (f : PlFrame) : OnLink s (s.plStart g f) := by
  unfold State.plStart
  dsimp only
  split
  · exact ⟨_, _, _, rfl⟩
  · exact ⟨_, _, _, rfl⟩

theorem plSend_onLink (s : State) (g : Nat) (f : PlFrame) : OnLink s (s.plSend g f) := by
  unfold State.plSend
  dsimp only
  split_ifs
  · exact .refl s
  · exact plStart_onLink s g f
  · exact ⟨_, _, _, rfl⟩

theorem sendRecord_onLink (s : State) (vc ty tick n : Nat) (body : List Byte → Nat → Nat → MirrorBody) : OnLink s (s.sendRecord vc ty tick n body) := by
  unfold State.sendRecord
  split
  · exact .refl s
  · refine foldS_keeps (P := OnLink s) _ (fun u p h => h.trans ?_) (.refl s) _
    exact .trans ⟨_, _, _, rfl⟩ (plSend_onLink _ _ _)

theorem sendMirror_onLink (s : State) (vc ty tick : Nat) (b : List Byte) : OnLink s (s.sendMirror vc ty tick b) := sendRecord_onLink _ _ _ _ _ _

/-! ### Events of the pair -/

theorem Reported.pair {s t : State} (h : Reported s t) : t.pair = s.pair := by obtain ⟨_, _, _, _, _, rfl⟩ := h; rfl

/-- An event of class C or U that PAIR reports after changes that leave the common registers, the engine's top state and the tick. -/
theorem raiseT_pair {s u : State} (noShadow : s.top.shadows = []) (commons : u.commons = s.commons) (top : u.top = s.top) (detail : u.tickDetail = s.tickDetail)
    (ev : Nat) {cls : EvClass} (notF : cls ≠ .f) :
    Recorded s (u.raiseT blkPair ev cls) blkPair ev cls s.tickDetail ∧ (u.raiseT blkPair ev cls).pair = u.pair := by
  refine ⟨?_, (raiseT_reported u blkPair ev 0 cls notF).pair⟩
  rw [← detail]
  exact raiseAs_recorded commons (by rw [top, noShadow]) blkPair ev 0 u.tickDetail notF

end Sys2Proof.Machine
end

section
/-! PROOF. The engine's side of the Owl's messages (R328-R331, R336, R339, R355, R569): for O58. -/

namespace Sys2Proof.Machine

variable {s : State}

/-! ### What it sends -/

theorem execHelloSend_sends (up : s.pairUp = true) (bare : s.holdsToken = false) : execHelloSend s = .next { s with
    sent := s.owlMail Config.pairNumber 1 (s.cfg 0xB000 3) (maxEpoch s.pair.epoch s.pair.epochSeen) 0 (s.helloCode + 4 * b2n s.pair.inSync) [] } := by
  have sends : (s.quiet.pairUp && !s.quiet.holdsToken) = true := by
    change (s.pairUp && !s.holdsToken) = true
    rw [up, bare]
    rfl
  unfold execHelloSend
  dsimp only
  rw [if_pos sends]
  rfl

/-- ARG of a BEAT (R339). -/
def State.beatArg (s : State) : Nat :=
  b2n s.mirrorUp + 2 * b2n s.pair.inSync + 4 * b2n s.pair.prov + 8 * b2n s.faultFlag + 16 * b2n s.lynxLostNow + 2 ^ 32 * (at? 0 s.pair.lm 0 % 65536)

theorem execBeatSend_sends (up : s.pairUp = true) (runs : s.time.running = true) :
    execBeatSend s = .next (s.quiet.toOwl 2 0 s.beatArg).sendHealth := by
  have sends : (s.quiet.pairUp && s.quiet.time.running) = true := by
    change (s.pairUp && s.time.running) = true
    rw [up, runs]
    rfl
  unfold execBeatSend
  dsimp only
  rw [if_pos sends]
  rfl

/-- Only a SHADOW reports its health, in every 16th tick. -/
theorem sendHealth_none (h : s.pair.role ≠ 2 ∨ s.time.tick % 16 ≠ 0) : s.sendHealth = s := by
  unfold State.sendHealth
  exact if_neg fun ⟨shadow, due⟩ => h.elim (absurd shadow) (absurd due)

theorem sendHealth_due (shadow : s.pair.role = 2) (due : s.time.tick % 16 = 0) : s.sendHealth = { s with
    sent := s.sent ++ s.owlMail Config.pairNumber 9 (s.cfg 0xB000 3) s.pair.epoch 0 0 (healthBytes s.health)
    top := { s.top with uev := 0, selfFail := 0 }, sramc := { s.sramc with unreported := 0 }, memc := { s.memc with unreported := 0 } } := by
  unfold State.sendHealth
  rw [if_pos ⟨shadow, due⟩]
  rfl

/-- The flags of ARG stand below its latency, one a bit. -/
theorem bitAt_flags (a b c d e : Bool) (n : Nat) :
    let arg := b2n a + 2 * b2n b + 4 * b2n c + 8 * b2n d + 16 * b2n e + 2 ^ 32 * n
    bitAt arg 0 = a ∧ bitAt arg 1 = b ∧ bitAt arg 2 = c ∧ bitAt arg 3 = d ∧ bitAt arg 4 = e ∧ arg / 2 ^ 32 = n := by
  have bit (x : Bool) : ∃ k, b2n x = k ∧ k < 2 ∧ (k == 1) = x := by cases x <;> exact ⟨_, rfl, by decide, rfl⟩
  obtain ⟨a', ha, la, ea⟩ := bit a
  obtain ⟨b', hb, lb, eb⟩ := bit b
  obtain ⟨c', hc, lc, ec⟩ := bit c
  obtain ⟨d', hd, ld, ed⟩ := bit d
  obtain ⟨e', he, le, ee⟩ := bit e
  unfold bitAt
  rw [ha, hb, hc, hd, he]
  refine ⟨?_, ?_, ?_, ?_, ?_, by omega⟩
  · exact (congrArg (· == 1) (by omega)).trans ea
  · exact (congrArg (· == 1) (by omega)).trans eb
  · exact (congrArg (· == 1) (by omega)).trans ec
  · exact (congrArg (· == 1) (by omega)).trans ed
  · exact (congrArg (· == 1) (by omega)).trans ee

theorem execStatusSend_standby {ep : Nat} (runs : s.time.running = true) (shadow : s.pair.role = 2) (sync : s.pair.inSync = true) (owl : s.pair.noOwl = false)
    (noon : s.top.state = .noon) (stays : s.top.leaveAt = none) (standby : s.pair.standbyRx = some (s.time.tick, ep)) :
    ∃ t, execStatusSend s = .next t ∧ t.pair = { s.pair with standby := true, stbySent := some s.time.tick } := by
  have works : ¬(!s.quiet.time.running ∨ !(decide (s.quiet.pair.role = 2 ∨ s.quiet.pair.prov))) := by simp [runs, shadow]
  unfold execStatusSend
  dsimp only
  rw [if_neg works]
  refine ⟨_, rfl, (sendMirror_onLink _ _ _ _ _).pair.trans ?_⟩
  simp [State.modPair, shadow, sync, owl, noon, stays, standby]

theorem execPairHandover_asks {h : Nat} (up : s.pairUp = true) (active : s.pair.role = 1) (ahead : s.time.tick + 16 ≤ h) :
    execPairHandover h s = .next { s with sent := s.owlMail Config.pairNumber 7 (s.cfg 0xB000 3) s.pair.epoch h 0 [] } := by
  unfold execPairHandover
  dsimp only
  rw [if_pos ⟨up, active, ahead⟩]
  rfl

/-! ### What it receives -/

/-- A message of the Owl under an EPOCH that is not older is heard. -/
theorem owl_heard {ep : Nat} (up : s.pairUp = true) (fresh : epochFresh ep s.pair.epoch = true) : ¬(!s.quiet.pairUp ∨ !(epochFresh ep s.quiet.pair.epoch)) := by
  change ¬(!s.pairUp ∨ !(epochFresh ep s.pair.epoch))
  simp [up, fresh]

theorem execLease_first {ep tick : Nat} (up : s.pairUp = true) (fresh : epochFresh ep s.pair.epoch = true) (first : s.pair.lease = none) :
    execLease ep tick (tick + 4) s = .next { s with
      sent := [], pair := { s.pair with owlTick := s.time.tick, noOwl := false, lease := some (tick, tick + 4), epochSeen := maxEpoch ep s.pair.epochSeen } } := by
  unfold execLease State.onLease
  rw [if_neg (owl_heard up fresh)]
  simp [first, State.modPair, State.heardOwl, Pair.saw, State.quiet]

theorem execStandby_first {ep tick : Nat} (up : s.pairUp = true) (shadow : s.pair.role = 2) (first : s.pair.standbyRx = none) :
    execStandby ep tick s = .next { s with
      sent := [], pair := { s.pair with owlTick := s.time.tick, noOwl := false, standbyRx := some (tick, ep) } } := by
  have heard : ¬(!s.quiet.pairUp ∨ !(decide (s.quiet.pair.role = 2 ∨ s.quiet.pair.prov))) := by
    change ¬(!s.pairUp ∨ !(decide (s.pair.role = 2 ∨ s.pair.prov)))
    simp [up, shadow]
  unfold execStandby State.onStandby
  rw [if_neg heard]
  simp [first, State.modPair, State.heardOwl, State.quiet]

theorem execGrant_taker {ep tick : Nat} (up : s.pairUp = true) (fresh : epochFresh ep s.pair.epoch = true) (active : s.pair.role = 1) (prov : s.pair.prov = true) :
    execGrant ep tick s = .next { s with sent := [], pair := { s.pair with
      owlTick := s.time.tick, noOwl := false, prov := false, epoch := ep, grant := none, lease := some (s.time.tick, s.time.tick + 4)
      epochSeen := maxEpoch ep s.pair.epochSeen } } := by
  unfold execGrant State.onGrant
  rw [if_neg (owl_heard up fresh)]
  simp [active, prov, State.modPair, State.heardOwl, Pair.saw, State.quiet]

theorem execGrant_other {ep tick : Nat} (up : s.pairUp = true) (fresh : epochFresh ep s.pair.epoch = true) (other : s.pair.role ≠ 1) :
    execGrant ep tick s = .next { s with sent := [], pair := { s.pair with
      owlTick := s.time.tick, noOwl := false, grant := some (ep, tick), epochSeen := maxEpoch ep s.pair.epochSeen } } := by
  unfold execGrant State.onGrant
  rw [if_neg (owl_heard up fresh)]
  simp [other, State.modPair, State.heardOwl, Pair.saw, State.quiet]

theorem execDemote_active {ep : Nat} (up : s.pairUp = true) (fresh : epochFresh ep s.pair.epoch = true) (active : s.pair.role = 1) :
    execDemote ep s = .next { s with sent := [], pair := { s.pair with handoverAt := some (s.time.tick + 1) } } := by
  unfold execDemote State.onDemote
  rw [if_neg (owl_heard up fresh), State.quiet_pair, if_pos active]
  rfl

theorem execNoOwl_silent (up : s.pairUp = true) (runs : s.time.running = true) (configured : s.cfg 0xB000 3 ≠ 0) (had : s.pair.noOwl = false)
    (silent : s.pair.owlTick + 8 ≤ s.time.tick) : execNoOwl s = .next ((s.quiet.modPair fun p => { p with noOwl := true }).raiseT blkPair 0x18 .u) := by
  have lost : (s.quiet.pairUp && s.quiet.time.running && s.quiet.cfg 0xB000 3 != 0 && !s.quiet.pair.noOwl &&
      decide (s.quiet.pair.owlTick + 8 ≤ s.quiet.time.tick)) = true := by
    change (s.pairUp && s.time.running && s.cfg 0xB000 3 != 0 && !s.pair.noOwl && decide (s.pair.owlTick + 8 ≤ s.time.tick)) = true
    simp [up, runs, configured, had, silent]
  unfold execNoOwl
  dsimp only
  rw [if_pos lost]

/-! ### Take-over (R331) -/

/-- A SHADOW that takes over at boundary `b` under an EPOCH: the frames it held leave, with the BEACON of an ACTIVE. -/
theorem emitHeld_nothing {b ep : Nat} (held : s.pair.held = []) : OnLink (s.dropStaged.modPair fun p => { p.saw ep with role := 1, epoch := ep, held := [] })
    (s.emitHeld b ep) := by
  unfold State.emitHeld
  rw [held]
  exact sendMirror_onLink _ _ _ _ _

theorem take_standby {b k ep : Nat} (may : s.mayTake b = true) (standby : s.pair.standbyRx = some (k, ep)) :
    ∃ arg, s.take b = (((s.emitHeld b ep).modPair fun p => { p with prov := true }).toOwl 5 0 arg).raiseT blkPair 0x19 .c := by
  unfold State.take
  rw [if_pos may, standby]
  exact ⟨_, rfl⟩

theorem mayTake_tick {b : Nat} (may : s.mayTake b = true) : s.time.tick = b := by
  unfold State.mayTake at may
  simp only [Bool.and_eq_true, beq_iff_eq] at may
  exact may.1.1.1.1.2

theorem execTakeover_takes {b k ep : Nat} (noShadow : s.top.shadows = []) (may : s.mayTake b = true) (first : s.pair.waitOver ≠ some b)
    (standby : s.pair.standbyRx = some (k, ep)) (held : s.pair.held = []) : ∃ t, execTakeover b s = .next t ∧
      t.pair.role = 1 ∧ t.pair.prov = true ∧ t.pair.epoch = ep ∧ t.pair.waitOver = some b ∧ Recorded s t blkPair 0x19 .c s.tickDetail := by
  obtain ⟨arg, taken⟩ := take_standby (s := s.quiet) (b := b) may standby
  have left := emitHeld_nothing (s := s.quiet) (b := b) (ep := ep) held
  obtain ⟨recorded, pair⟩ := raiseT_pair (u := ((s.quiet.emitHeld b ep).modPair fun p => { p with prov := true }).toOwl 5 0 arg)
    noShadow left.commons left.top left.tickDetail 0x19 (cls := .c) (by decide)
  have due : execTakeover b s = .next ((s.quiet.take b).modPair fun p => { p with waitOver := some b }) :=
    congrArg Host.Outcome.next (if_pos ⟨mayTake_tick may, first⟩)
  have role : (s.quiet.emitHeld b ep).pair.role = 1 := by rw [left.pair]; rfl
  have epoch : (s.quiet.emitHeld b ep).pair.epoch = ep := by rw [left.pair]; rfl
  refine ⟨_, due, ?_⟩
  rw [taken]
  exact ⟨(congrArg Pair.role pair).trans role, congrArg Pair.prov pair, (congrArg Pair.epoch pair).trans epoch, rfl, recorded.of_commons rfl rfl⟩

end Sys2Proof.Machine
end

section
/-! PROOF. The services of an Owl: their records, and what a tick of the Owl does (R326-R328, R332, R336, R352): for O58. -/

namespace Sys2Proof.Machine

variable {s : State} {q e : Nat}

/-! ### Services and their records of the two engines -/

theorem owlSvc_setOwl_same (s : State) (q : Nat) (f : OwlSvc → OwlSvc) : (s.setOwl q f).owlSvc q = f (s.owlSvc q) := tget_tmod_same _ _ _ _

theorem owlSvc_setOwl_other (s : State) {q k : Nat} (h : k ≠ q) (f : OwlSvc → OwlSvc) : (s.setOwl q f).owlSvc k = s.owlSvc k := tget_tmod_other _ _ _ _ _ h

/-- A change of an engine's record leaves the service but for its two records. -/
theorem owlSvc_setRec_same (s : State) (q e : Nat) (f : OwlEngine → OwlEngine) : ∃ a b, (s.setRec q e f).owlSvc q = { s.owlSvc q with a := a, b := b } := by
  unfold State.setRec
  rw [owlSvc_setOwl_same]
  split
  · exact ⟨_, _, rfl⟩
  · exact ⟨_, _, rfl⟩

theorem owlSvc_setRec_other (s : State) {q k : Nat} (h : k ≠ q) (e : Nat) (f : OwlEngine → OwlEngine) : (s.setRec q e f).owlSvc k = s.owlSvc k :=
  owlSvc_setOwl_other s h _

theorem owlRec_setRec_same (s : State) (q e : Nat) (f : OwlEngine → OwlEngine) : (s.setRec q e f).owlRec q e = f (s.owlRec q e) := by
  unfold State.owlRec
  change (if s.owlIsB q e then ((s.setRec q e f).owlSvc q).b else ((s.setRec q e f).owlSvc q).a) = _
  unfold State.setRec
  rw [owlSvc_setOwl_same]
  split <;> rfl

/-- A change of a service that keeps both records. -/
theorem owlRec_setOwl (s : State) (q e : Nat) {f : OwlSvc → OwlSvc} (a : (f (s.owlSvc q)).a = (s.owlSvc q).a) (b : (f (s.owlSvc q)).b = (s.owlSvc q).b) :
    (s.setOwl q f).owlRec q e = s.owlRec q e := by
  unfold State.owlRec
  rw [owlSvc_setOwl_same, a, b]
  rfl

theorem eligible_congr {u : State} (same : u.owlRec q e = s.owlRec q e) (time : u.time = s.time) (w : Bool) : u.eligible q e w = s.eligible q e w := by
  unfold State.eligible
  rw [same, time]

theorem beatsMissing_congr {u : State} (same : u.owlRec q e = s.owlRec q e) (time : u.time = s.time) : u.beatsMissing q e = s.beatsMissing q e := by
  unfold State.beatsMissing
  rw [same, time]

/-! ### LEASE and STANDBY of a tick (R328, R332) -/

/-- The Owl's LEASE to an engine, and that it is the last one sent. -/
def State.leased (s : State) (q e exp : Nat) : State :=
  (s.fromOwl q 3 e (s.owlSvc q).epoch exp (((s.owlRec q e).beatTick).getD 0)).setOwl q fun v => { v with lastE := exp }

/-- The Owl's STANDBY to an engine, which is not lost then. -/
def State.standing (s : State) (q e exp : Nat) : State :=
  ((s.fromOwl q 4 e (nextEpoch (s.owlSvc q).epoch) exp (((s.owlRec q e).beatTick).getD 0)).setOwl q fun v => { v with stbySent := true }).setRec q e fun r =>
    { r with lost := false }

/-- No STANDBY to an engine, which is lost. -/
def State.unstanding (s : State) (q e : Nat) : State := (s.setOwl q fun v => { v with stbySent := false }).setRec q e fun r => { r with lost := true }

theorem owlLease_heard (renewed : (s.owlSvc q).noLease = false) (beats : s.beatsMissing q e = false) (exp : Nat) : s.owlLease q e exp = s.leased q e exp := by
  unfold State.owlLease
  rw [if_neg (by simp [renewed]), if_neg (by simp [beats])]
  rfl

theorem owlLease_ended (ended : (s.owlSvc q).noLease = true) (exp : Nat) : s.owlLease q e exp = s := if_pos ended

theorem owlStandby_eligible (fit : s.eligible q e (s.owlSvc q).waiver = true) (beats : s.beatsMissing q e = false) (exp : Nat) :
    s.owlStandby q e exp = s.standing q e exp := by
  unfold State.owlStandby
  dsimp only
  rw [if_pos (by simp [fit, beats])]
  rfl

theorem owlStandby_lost (missing : s.beatsMissing q e = true) (first : (s.owlRec q e).lost = false) (exp : Nat) :
    s.owlStandby q e exp = (s.unstanding q e).raiseAs blkPair 0x12 .c e (s.unstanding q e).tickDetail none := by
  unfold State.owlStandby
  dsimp only
  rw [if_neg (by simp [missing]), if_neg (by simp [first])]
  rfl

theorem owlHandedOver_none (h : (s.owlSvc q).handover = none) (a : Nat) : s.owlHandedOver q a = s := by
  unfold State.owlHandedOver
  rw [h]

theorem owlGrantHandover_none (h : (s.owlSvc q).handoverReq = none) (a : Nat) : s.owlGrantHandover q a = s := by
  unfold State.owlGrantHandover
  simp only [h]

/-! ### A tick of the Owl (R328) -/

/-- The service is on, in a tick. -/
theorem owl_works (on : s.owlOn q = true) (runs : s.time.running = true) : ¬(!(s.quiet.owlOn q) ∨ !s.quiet.time.running) := by
  change ¬(!(s.owlOn q) ∨ !s.time.running)
  simp [on, runs]

theorem execOwlTickSend_active {a : Nat} (on : s.owlOn q = true) (runs : s.time.running = true) (taker : (s.owlSvc q).taker = none)
    (active : (s.owlSvc q).active = some a) (handover : (s.owlSvc q).handover = none) (asked : (s.owlSvc q).handoverReq = none) :
    execOwlTickSend q s = .next (((s.quiet.owlLease q a (s.time.tick + 4)).owlStandby q (s.owlOther q a) (s.time.tick + 4)).owlGrantHandover q a) := by
  unfold execOwlTickSend
  dsimp only
  rw [if_neg (owl_works on runs)]
  have t' : (s.quiet.owlSvc q).taker = none := taker
  have a' : (s.quiet.owlSvc q).active = some a := active
  have r' : (s.quiet.owlSvc q).handoverReq = none := asked
  simp only [t', a']
  rw [owlHandedOver_none (s := s.quiet) handover, a', r']
  rfl

theorem execOwlTickSend_taking {e : Nat} (on : s.owlOn q = true) (runs : s.time.running = true) (taker : (s.owlSvc q).taker = some e) :
    execOwlTickSend q s = .next (s.quiet.owlTaking q e) := by
  unfold execOwlTickSend
  dsimp only
  rw [if_neg (owl_works on runs)]
  have t' : (s.quiet.owlSvc q).taker = some e := taker
  simp only [t']

/-- A service whose taker has its GRANT: the taker is ACTIVE under the next EPOCH (R332). -/
def OwlSvc.granted (v : OwlSvc) (e : Nat) : OwlSvc :=
  { v with epoch := nextEpoch v.epoch, active := some e, taker := none, handover := none, handoverReq := none, waiver := false, stbySent := false
           noLease := false }

theorem owlTaking_over (expired : (s.owlSvc q).lastE ≤ s.time.tick) :
    s.owlTaking q e = (s.fromOwl q 6 e (nextEpoch (s.owlSvc q).epoch) 0 0).setOwl q fun v => v.granted e := by
  unfold State.owlTaking
  dsimp only
  rw [if_pos expired]
  rfl

end Sys2Proof.Machine
end

section
/-! PROOF. Messages as they reach an Owl (R327, R332, R333, R336, R350-R352, R570): for O58. -/

namespace Sys2Proof.Machine

variable {s : State} {q : Nat}

/-- A message from one of the two engines to a service that is on. -/
theorem owl_takes {e : Nat} (on : s.owlOn q = true) (known : s.owlKnows q e = true) : ¬(!(s.quiet.owlOn q) ∨ !(s.quiet.owlKnows q e)) := by
  change ¬(!(s.owlOn q) ∨ !(s.owlKnows q e))
  simp [on, known]

/-- The record of an engine after its HELLO. -/
def OwlEngine.greeted (r : OwlEngine) (h : OwlHello) : OwlEngine := { r with epoch := h.epoch, code := h.code, inSync := h.inSync }

/-- The record of an engine after its BEAT, with whether it keeps the limits of R333. -/
def OwlEngine.beaten (r : OwlEngine) (b : OwlBeat) (ok : Bool) : OwlEngine :=
  { r with epoch := b.epoch, beatTick := some b.tick, inSync := b.inSync, prov := b.prov, fault := b.fault, lynxLost := b.lynxLost, limitsOk := ok }

/-- The record of an engine after its TAKE. -/
def OwlEngine.took (r : OwlEngine) (tick : Nat) : OwlEngine := { r with beatTick := some (Nat.max tick ((r.beatTick).getD 0)) }

/-- The record of an engine after its HEALTH, with whether it keeps the limits of R333. -/
def OwlEngine.reported (r : OwlEngine) (h : OwlHealth) (ok : Bool) : OwlEngine :=
  { r with healthTick := some h.tick, lynxMatch := h.lynxMatch, impaired := h.impaired, selfTest := h.selfTest, healthOk := ok }

/-- The service with a HELLO noted (R327). -/
def State.helloNoted (s : State) (q : Nat) (h : OwlHello) : State :=
  (s.setRec q h.engine fun r => r.greeted h).setOwl q fun v => { v with epoch := maxEpoch h.epoch v.epoch }

theorem execHello_ready {h : OwlHello} (on : s.owlOn q = true) (known : s.owlKnows q h.engine = true) (ready : h.code = 2)
    (idle : (s.owlSvc q).active = none) : execHello q h s = .next ((s.quiet.helloNoted q h).setOwl q fun v => { v with waiting := true }) := by
  obtain ⟨a, b, noted⟩ := owlSvc_setRec_same s.quiet q h.engine fun r => r.greeted h
  have still : ((s.quiet.helloNoted q h).owlSvc q).active = none := by
    unfold State.helloNoted
    rw [owlSvc_setOwl_same, noted]
    exact idle
  unfold execHello State.onHello
  rw [if_neg (owl_takes on known)]
  dsimp only
  rw [if_neg (by simp [ready])]
  exact congrArg Host.Outcome.next (if_pos ⟨ready, still⟩)

theorem execOwlGrantWait_A (on : s.owlOn q = true) (waits : (s.owlSvc q).waiting = true) (idle : (s.owlSvc q).active = none) (ready : (s.owlSvc q).a.code = 2)
    (unready : (s.owlSvc q).b.code ≠ 2) : execOwlGrantWait q s =
      let n := nextEpoch (maxEpoch (maxEpoch (s.owlSvc q).a.epoch (s.owlSvc q).b.epoch) (s.owlSvc q).epoch)
      .next ((s.quiet.fromOwl q 6 (s.owlAddr q).1 n 0 0).setOwl q fun v =>
        { v with active := some (s.owlAddr q).1, epoch := n, waiting := false, lastE := s.time.tick, noLease := false }) := by
  have svc : s.quiet.owlSvc q = s.owlSvc q := rfl
  unfold execOwlGrantWait
  dsimp only
  rw [if_neg (by simp [svc, show s.quiet.owlOn q = true from on, waits, idle]), svc, if_neg (by simp [unready]), if_pos ready]
  rfl

theorem execBeat_active {b : OwlBeat} (on : s.owlOn q = true) (known : s.owlKnows q b.engine = true) (active : (s.owlSvc q).active = some b.engine)
    (matching : b.lynxLost = false) : execBeat q b s = .next (s.quiet.setRec q b.engine fun r => r.beaten b (s.lmOk b.lm && s.loOk b.lo)) := by
  obtain ⟨x, y, noted⟩ := owlSvc_setRec_same s.quiet q b.engine fun r => r.beaten b (s.lmOk b.lm && s.loOk b.lo)
  have still : ((s.quiet.setRec q b.engine fun r => r.beaten b (s.lmOk b.lm && s.loOk b.lo)).owlSvc q).active = some b.engine := by
    rw [noted]
    exact active
  unfold OwlEngine.beaten at still ⊢
  unfold execBeat State.onBeat
  rw [if_neg (owl_takes on known)]
  dsimp only
  split
  next h => exact absurd (h.symm.trans still) (by simp)
  next a h =>
    obtain rfl : a = b.engine := Option.some.inj (h.symm.trans still)
    simp only [matching, Bool.false_and, if_true]
    rfl

theorem execTake_standby {e a tick : Nat} (on : s.owlOn q = true) (known : s.owlKnows q e = true) (active : (s.owlSvc q).active = some a) (other : e ≠ a)
    (stby : (s.owlSvc q).stbySent = true) (first : (s.owlSvc q).taker = none) : execTake q e (nextEpoch (s.owlSvc q).epoch) tick s =
      .next (((s.quiet.setRec q e fun r => r.took tick).setOwl q fun v =>
        { v with taker := some e, handoverReq := none, handover := none }).fromOwl q 8 a (s.owlSvc q).epoch 0 0) := by
  have active' : (s.quiet.owlSvc q).active = some a := active
  unfold execTake State.onTake
  rw [if_neg (owl_takes on known)]
  simp only [active']
  exact congrArg Host.Outcome.next (if_pos ⟨other, stby, rfl, first⟩)

theorem execHandover_asks {h : Nat} (on : s.owlOn q = true) (active : (s.owlSvc q).active.isSome = true) (taker : (s.owlSvc q).taker = none)
    (new : (s.owlSvc q).handoverReq ≠ some h) (ahead : s.time.tick + 2 < h) :
    execHandover q h s = .next (s.quiet.setOwl q fun v => { v with handoverReq := some h, handover := none }) :=
  congrArg Host.Outcome.next (if_pos ⟨on, active, taker, new, ahead⟩)

theorem execHealth_noted {h : OwlHealth} (on : s.owlOn q = true) (known : s.owlKnows q h.engine = true) : execHealth q h s =
    .next (s.quiet.setRec q h.engine fun r => r.reported h (s.lmOk h.lm && skewOk h.skew)) :=
  congrArg Host.Outcome.next (if_neg (owl_takes on known))

end Sys2Proof.Machine
end

section
/-! PROOF. Engines and their Owl: O58. -/

namespace Sys2Proof.Machine

variable {s : State} {q : Nat}

/-! ### A service after LEASE and STANDBY of a tick (R328, R332) -/

theorem leased_svc (s : State) (q e exp : Nat) : (s.leased q e exp).owlSvc q = { s.owlSvc q with lastE := exp } := owlSvc_setOwl_same _ _ _

theorem leased_rec (s : State) (q e exp k : Nat) : (s.leased q e exp).owlRec q k = s.owlRec q k := owlRec_setOwl _ _ _ rfl rfl

theorem standing_svc (s : State) (q e exp : Nat) : ∃ a b, (s.standing q e exp).owlSvc q = { s.owlSvc q with stbySent := true, a := a, b := b } := by
  obtain ⟨a, b, h⟩ := owlSvc_setRec_same ((s.fromOwl q 4 e (nextEpoch (s.owlSvc q).epoch) exp (((s.owlRec q e).beatTick).getD 0)).setOwl q fun v =>
    { v with stbySent := true }) q e fun r => { r with lost := false }
  exact ⟨a, b, h.trans (by rw [owlSvc_setOwl_same]; rfl)⟩

theorem leased_standing_sent (s : State) (q a e exp : Nat) : ((s.leased q a exp).standing q e exp).sent =
    s.sent ++ s.owlMail q 3 a (s.owlSvc q).epoch exp (((s.owlRec q a).beatTick).getD 0) [] ++
      s.owlMail q 4 e (nextEpoch (s.owlSvc q).epoch) exp (((s.owlRec q e).beatTick).getD 0) [] := by
  have epoch : ((s.leased q a exp).owlSvc q).epoch = (s.owlSvc q).epoch := by rw [leased_svc]
  have record := leased_rec s q a exp e
  unfold State.standing
  rw [epoch, record]
  rfl

theorem unstanding_svc (s : State) (q e : Nat) : ∃ a b, (s.unstanding q e).owlSvc q = { s.owlSvc q with stbySent := false, a := a, b := b } := by
  obtain ⟨a, b, h⟩ := owlSvc_setRec_same (s.setOwl q fun v => { v with stbySent := false }) q e fun r => { r with lost := true }
  exact ⟨a, b, h.trans (by rw [owlSvc_setOwl_same])⟩

/-- LEASE and STANDBY of a tick in which both engines are heard and the SHADOW is eligible. -/
theorem execOwlTickSend_serves {a : Nat} (on : s.owlOn q = true) (runs : s.time.running = true) (taker : (s.owlSvc q).taker = none)
    (active : (s.owlSvc q).active = some a) (handover : (s.owlSvc q).handover = none) (asked : (s.owlSvc q).handoverReq = none)
    (heard : s.beatsMissing q a = false) (fit : s.eligible q (s.owlOther q a) (s.owlSvc q).waiver = true) (beats : s.beatsMissing q (s.owlOther q a) = false)
    (renewed : (s.owlSvc q).noLease = false) : execOwlTickSend q s =
      .next ((s.quiet.leased q a (s.time.tick + 4)).standing q (s.owlOther q a) (s.time.tick + 4)) := by
  have same := leased_rec s.quiet q a (s.time.tick + 4) (s.owlOther q a)
  have svc := leased_svc s.quiet q a (s.time.tick + 4)
  have standby : (s.quiet.leased q a (s.time.tick + 4)).owlStandby q (s.owlOther q a) (s.time.tick + 4) = _ :=
    owlStandby_eligible (by rw [svc, eligible_congr (s := s) same rfl]; exact fit) (by rw [beatsMissing_congr (s := s) same rfl]; exact beats) _
  obtain ⟨_, _, after⟩ := standing_svc (s.quiet.leased q a (s.time.tick + 4)) q (s.owlOther q a) (s.time.tick + 4)
  rw [execOwlTickSend_active on runs taker active handover asked, owlLease_heard (s := s.quiet) renewed heard, standby, owlGrantHandover_none]
  rw [after, svc]
  exact asked

/-- No LEASE any more, and the other engine falls silent. -/
theorem execOwlTickSend_loses {a : Nat} (on : s.owlOn q = true) (runs : s.time.running = true) (taker : (s.owlSvc q).taker = none)
    (active : (s.owlSvc q).active = some a) (handover : (s.owlSvc q).handover = none) (asked : (s.owlSvc q).handoverReq = none)
    (ended : (s.owlSvc q).noLease = true) (missing : s.beatsMissing q (s.owlOther q a) = true) (first : (s.owlRec q (s.owlOther q a)).lost = false) :
    execOwlTickSend q s = .next ((s.quiet.unstanding q (s.owlOther q a)).raiseAs blkPair 0x12 .c (s.owlOther q a) s.tickDetail none) := by
  obtain ⟨_, _, after⟩ := unstanding_svc s.quiet q (s.owlOther q a)
  have lost := owlStandby_lost (s := s.quiet) missing first (s.time.tick + 4)
  rw [execOwlTickSend_active on runs taker active handover asked, owlLease_ended (s := s.quiet) ended]
  refine congrArg Host.Outcome.next ((congrArg (State.owlGrantHandover · q a) lost).trans (owlGrantHandover_none ?_ a))
  · have told := raiseAs_reported (s.quiet.unstanding q (s.owlOther q a)) blkPair 0x12 (s.owlOther q a) (s.quiet.unstanding q (s.owlOther q a)).tickDetail .c none (by decide)
    obtain ⟨_, _, _, _, _, told⟩ := told
    rw [told]
    change ((s.quiet.unstanding q (s.owlOther q a)).owlSvc q).handoverReq = none
    rw [after]
    exact asked

/-- An event of class C puts out nothing. -/
theorem raiseAs_sent_c (s : State) (noShadow : s.top.shadows = []) (b ev who detail : Nat) : (s.raiseAs b ev .c who detail none).sent = s.sent := by
  rw [(raise_eq s b ev who detail .c noShadow nofun).2]
  rfl

theorem Reported.owl {s t : State} (h : Reported s t) : t.owl = s.owl := by obtain ⟨_, _, _, _, _, rfl⟩ := h; rfl

theorem owlSvc_of_owl {s t : State} (h : t.owl = s.owl) (q : Nat) : t.owlSvc q = s.owlSvc q := congrArg (tget ({} : OwlSvc) · q) h

theorem Reported.owlRec {s t : State} (h : Reported s t) (q e : Nat) : t.owlRec q e = s.owlRec q e := by
  obtain ⟨_, _, _, _, _, rfl⟩ := h
  rfl

/-- Settles O58: what the engine sends and takes, the take-over, then what its Owl does in a tick and with each message. -/
theorem theOwlKeepsOneTokenPerPair : Obligations.TheOwlKeepsOneTokenPerPair := by
  unfold Obligations.TheOwlKeepsOneTokenPerPair
  intro s q a e ep tick x h b g noShadow
  refine ⟨execHelloSend_sends, fun up runs => ?_, execStatusSend_standby, execLease_first, execStandby_first, execGrant_taker, execGrant_other,
    execDemote_active, fun up runs configured had silent => ?_, execTakeover_takes noShadow, execPairHandover_asks,
    fun on runs taker active handover asked heard fit beats renewed => ?_, fun on runs taker active handover asked ended missing first => ?_,
    fun on runs taker expired => ?_, fun on known ready idle => ?_, fun on waits idle ready unready => ?_, fun on known active matching => ?_,
    fun on known active other stby first => ?_, fun on active taker new ahead => ?_, fun on known => ?_⟩
  · have sends := execBeatSend_sends up runs
    refine ⟨s.beatArg, fun other => ?_, fun shadow due => ?_, bitAt_flags _ _ _ _ _ _⟩
    · exact sends.trans (congrArg Host.Outcome.next (sendHealth_none (s := s.quiet.toOwl 2 0 s.beatArg) other))
    · exact sends.trans (congrArg Host.Outcome.next (sendHealth_due (s := s.quiet.toOwl 2 0 s.beatArg) shadow due))
  · obtain ⟨recorded, pair⟩ := raiseT_pair (s := s) (u := s.quiet.modPair fun p => { p with noOwl := true }) noShadow rfl rfl rfl 0x18 (cls := .u) (by decide)
    exact ⟨_, execNoOwl_silent up runs configured had silent, recorded, pair⟩
  · obtain ⟨_, _, svc⟩ := standing_svc (s.quiet.leased q a (s.time.tick + 4)) q (s.owlOther q a) (s.time.tick + 4)
    rw [leased_svc] at svc
    refine ⟨_, execOwlTickSend_serves on runs taker active handover asked heard fit beats renewed, ?_, ?_, ?_, ?_, ?_, ?_, fun k other => ?_, rfl⟩
    · exact leased_standing_sent s.quiet q a (s.owlOther q a) (s.time.tick + 4)
    · rw [svc]
    · rw [svc]
    · rw [svc]
      exact active
    · rw [svc]
      rfl
    · exact congrArg OwlEngine.lost (owlRec_setRec_same _ _ _ _)
    · have leased : (s.quiet.leased q a (s.time.tick + 4)).owlSvc k = s.owlSvc k := owlSvc_setOwl_other _ other _
      exact (owlSvc_setRec_other _ other _ _).trans ((owlSvc_setOwl_other _ other _).trans leased)
  · have told := raiseAs_reported (s.quiet.unstanding q (s.owlOther q a)) blkPair 0x12 (s.owlOther q a) s.tickDetail .c none (by decide)
    obtain ⟨_, _, svc⟩ := unstanding_svc s.quiet q (s.owlOther q a)
    refine ⟨_, execOwlTickSend_loses on runs taker active handover asked ended missing first,
      raiseAs_sent_c (s.quiet.unstanding q (s.owlOther q a)) noShadow _ _ _ _, ?_, ?_, ?_,
      raiseAs_recorded (s := s) (u := s.quiet.unstanding q (s.owlOther q a)) (cls := .c) rfl noShadow _ _ _ _ (by decide)⟩
    · rw [owlSvc_of_owl told.owl, svc]
    · rw [owlSvc_of_owl told.owl, svc]
      exact ended
    · rw [told.owlRec]
      exact congrArg OwlEngine.lost (owlRec_setRec_same _ _ _ _)
  · have given := (execOwlTickSend_taking on runs taker).trans (congrArg Host.Outcome.next (owlTaking_over (s := s.quiet) expired))
    have svc := owlSvc_setOwl_same (s.quiet.fromOwl q 6 e (nextEpoch (s.owlSvc q).epoch) 0 0) q fun v => v.granted e
    exact ⟨_, given, rfl, congrArg OwlSvc.active svc, congrArg OwlSvc.epoch svc, congrArg OwlSvc.taker svc⟩
  · obtain ⟨_, _, noted⟩ := owlSvc_setRec_same s.quiet q h.engine fun r => r.greeted h
    have record := owlRec_setRec_same s.quiet q h.engine fun r => r.greeted h
    have kept : ((s.quiet.helloNoted q h).setOwl q fun v => { v with waiting := true }).owlRec q h.engine = _ :=
      (owlRec_setOwl _ _ _ rfl rfl).trans ((owlRec_setOwl _ _ _ rfl rfl).trans record)
    refine ⟨_, execHello_ready on known ready idle, ?_, (congrArg OwlEngine.code kept).trans ready, congrArg OwlEngine.epoch kept, ?_⟩
    · rw [owlSvc_setOwl_same]
    · unfold State.helloNoted
      rw [owlSvc_setOwl_same, owlSvc_setOwl_same, noted]
      rfl
  · exact ⟨_, _, execOwlGrantWait_A on waits idle ready unready, rfl, rfl, owlSvc_setOwl_same _ _ _⟩
  · obtain ⟨_, _, noted⟩ := owlSvc_setRec_same s.quiet q b.engine fun r => r.beaten b (s.lmOk b.lm && s.loOk b.lo)
    have record := owlRec_setRec_same s.quiet q b.engine fun r => r.beaten b (s.lmOk b.lm && s.loOk b.lo)
    exact ⟨_, execBeat_active on known active matching, rfl, congrArg OwlEngine.beatTick record, congrArg OwlEngine.epoch record,
      congrArg OwlEngine.inSync record, congrArg OwlEngine.limitsOk record, (congrArg OwlSvc.active noted).trans rfl⟩
  · obtain ⟨_, _, noted⟩ := owlSvc_setRec_same s.quiet q e fun r => r.took tick
    have svc := owlSvc_setOwl_same (s.quiet.setRec q e fun r => r.took tick) q fun v => { v with taker := some e, handoverReq := none, handover := none }
    rw [noted] at svc
    exact ⟨_, execTake_standby on known active other stby first, congrArg OwlSvc.taker svc, (congrArg OwlSvc.active svc).trans active, rfl⟩
  · exact ⟨_, execHandover_asks on active taker new ahead, owlSvc_setOwl_same _ _ _, rfl⟩
  · have record := owlRec_setRec_same s.quiet q g.engine fun r => r.reported g (s.lmOk g.lm && skewOk g.skew)
    exact ⟨_, execHealth_noted on known, congrArg OwlEngine.healthTick record, congrArg OwlEngine.lynxMatch record, congrArg OwlEngine.impaired record,
      congrArg OwlEngine.selfTest record, congrArg OwlEngine.healthOk record, rfl⟩

end Sys2Proof.Machine
end

section
/-! PROOF. What PROCESS and the decisions of a cutoff leave to an engine that catches up: the pair, the dictionary, DP, the tick of PROCESS
(R204-R207, R353): for O59. -/

namespace Sys2Proof.Machine

/-- What the catch-up is told by (R353): the pair, the dictionary, DP, the tick of PROCESS and the tick. -/
def State.catchView (s : State) : Pair × Dict × Dp × Nat × Nat := (s.pair, s.dict, s.dp, s.csw.proc, s.time.tick)

theorem pair_of_catchView {s t : State} (h : t.catchView = s.catchView) : t.pair = s.pair := (Prod.mk.inj h).1

theorem Reported.catchView {s t : State} (h : Reported s t) : t.catchView = s.catchView := by obtain ⟨_, _, _, _, _, rfl⟩ := h; rfl

theorem Woken.pair {s t : State} (h : Woken s t) : t.pair = s.pair := by obtain ⟨_, rfl⟩ := h; rfl

theorem Woken.catchView {s t : State} (h : Woken s t) : t.catchView = s.catchView := by obtain ⟨_, rfl⟩ := h; rfl

/-- What no round changes, no number of rounds changes. -/
theorem iter_view {σ β : Type} (view : σ → β) (f : σ → σ) (h : ∀ s, view (f s) = view s) (k : Nat) (s : σ) : view (iter f k s) = view s := by
  induction k generalizing s with
  | zero => rfl
  | succ k ih => exact (ih _).trans (h s)

/-! ### The start of PROCESS (R22, R41, R207) -/

theorem putSlot_catchView (s : State) (tick slot : Nat) (xs : List Int) : (s.putSlot tick slot xs).catchView = s.catchView :=
  (putSlot_woken s tick slot xs).catchView

theorem runUnit_catchView (n : Nat) (s : State) (u : ProcUnit) : (State.runUnit n s u).catchView = s.catchView := by
  have bus (b : Nat) : (s.runBus n b).catchView = s.catchView := by
    unfold State.runBus
    dsimp only
    split
    · rfl
    · exact putSlot_catchView _ _ _ _
  have dyn (grp : List Nat) : (s.runDyn n grp).catchView = s.catchView := by
    unfold State.runDyn
    refine foldS_view State.catchView _ (fun s p => ?_) _ _
    dsimp only
    split
    · rfl
    · exact putSlot_catchView _ _ _ _
  have ran (t : State) : (t.modCsw fun c => { c with ran := u.key :: c.ran }).catchView = t.catchView := rfl
  unfold State.runUnit
  split
  · rfl
  · refine (ran _).trans ?_
    split
    · rfl
    · split
      · exact bus _
      · exact dyn _

theorem restStep_catchView (n : Nat) (s : State) (w : Nat) : (State.restStep n s w).catchView = s.catchView := by
  unfold State.restStep
  split
  · rfl
  · split
    · rfl
    · split
      · rfl
      · split
        · rfl
        · split
          · exact foldS_view State.catchView _ (fun s k => putSlot_catchView s n k _) _ _
          · exact (wake_woken _ _).catchView

theorem fillCluster_catchView (n : Nat) (s : State) (c : Nat) : (State.fillCluster n s c).catchView = s.catchView := by
  have step (s : State) (j : Nat) : (State.fillStep n c s j).catchView = s.catchView := by
    unfold State.fillStep
    dsimp only
    split
    · rfl
    · split <;> rfl
  unfold State.fillCluster
  dsimp only
  split
  · rfl
  · exact foldS_view State.catchView _ step _ _

theorem round_catchView (n : Nat) (s : State) : (State.round n s).catchView = s.catchView :=
  (foldS_view State.catchView _ (restStep_catchView n) _ _).trans (foldS_view State.catchView _ (runUnit_catchView n) _ _)

theorem advanceProcess_catchView (s : State) : s.advanceProcess.catchView = s.catchView :=
  (foldS_view State.catchView _ (fillCluster_catchView _) _ _).trans (iter_view State.catchView _ (round_catchView _) _ s)

theorem startProcess_catchView (s : State) (n : Nat) (skip : List Nat) : (s.startProcess n skip).catchView = (s.pair, s.dict, s.dp, n, s.time.tick) := by
  unfold State.startProcess
  exact advanceProcess_catchView _

theorem startProcess_pair (s : State) (n : Nat) (skip : List Nat) : (s.startProcess n skip).pair = s.pair :=
  (Prod.mk.inj (startProcess_catchView s n skip)).1

/-! ### The end of PROCESS (R24, R204) -/

theorem runAln_catchView (s : State) (tick : Nat) (mute : Bool) (o : Nat) : (s.runAln tick mute o).catchView = s.catchView := by
  have bad (u : State) (l : List Nat) : (foldS (fun s l => s.dramUE (64 * l)) u l).catchView = u.catchView :=
    foldS_view State.catchView _ (fun s l =>
      (raise_reported { s with memc := { s.memc with ue := s.memc.ue + 1 } } blkMemc 0x11 (64 * l) .u (by decide)).catchView) u l
  unfold State.runAln
  dsimp only
  split
  · rfl
  · split
    · rfl
    · split
      · exact (raiseT_reported _ _ _ _ _ (by decide)).catchView.trans ((bad _ _).trans (putSlot_catchView _ _ _ _))
      · exact (bad _ _).trans (putSlot_catchView _ _ _ _)

theorem overrun_catchView (s : State) (b : Nat) : (s.overrun b).catchView = s.catchView := by
  have raised := (raiseT_reported s b 2 0 .u (by decide)).catchView
  have spare (t : State) (n : Nat) : (t.spareEvent n).catchView = t.catchView := by
    unfold State.spareEvent
    split
    · exact (noteNoSpare_reported (t.makeFaulty n) n).catchView
    · rfl
  unfold State.overrun
  dsimp only
  split
  · exact (spare _ _).trans raised
  · exact raised

theorem measure_catchView (s : State) (n : Nat) : (s.measure n).catchView = s.catchView := rfl

theorem noteStates_catchView (s : State) : s.noteStates.catchView = s.catchView := rfl

theorem endProcess_catchView (s : State) (n : Nat) (late : List LateUnit) : (s.endProcess n late).catchView = s.catchView := by
  have alns : (s.runAlns n).catchView = s.catchView := foldS_view State.catchView _ (fun s o => runAln_catchView s n _ o) s _
  have noted (t : State) (l : List Nat) : (t.modCsw fun c => { c with lateNow := l }).catchView = t.catchView := rfl
  have dropped (t : State) (us : List LateUnit) : (foldS (State.dropLate n) t us).catchView = t.catchView :=
    foldS_view State.catchView (State.dropLate n) (fun s u => rfl) t us
  have lates : ((s.runAlns n).runLate n late).catchView = s.catchView := by
    unfold State.runLate
    dsimp only
    rw [noted, foldS_view State.catchView _ overrun_catchView, dropped, alns]
  have ended : ((((s.runAlns n).runLate n late).measure n).noteStates).catchView = s.catchView := by
    rw [noteStates_catchView, measure_catchView, lates]
  unfold State.endProcess
  dsimp only
  split
  · exact ended
  · refine (foldS_view State.catchView _ (fun s d => ?_) _ _).trans ended
    split <;> rfl

/-! ### The decisions of a cutoff (R204, R206) -/

theorem cutoffDecide_catchView (s : State) (n : Nat) : (s.cutoffDecide n).catchView = s.catchView := by
  have sil : (s.silCutoff n).catchView = s.catchView := by
    unfold State.silCutoff
    refine foldS_view State.catchView _ (fun s d => ?_) _ _
    split
    · rfl
    · split
      · split <;> rfl
      · rfl
  have zero (t : State) (v : Tab Val) (ws : Nat) : (t.wsZero v ws).catchView = t.catchView := by
    unfold State.wsZero
    dsimp only
    split
    · split
      · split <;> rfl
      · rfl
    · rfl
  have mon (t : State) : (t.monCutoff n).catchView = t.catchView := by
    unfold State.monCutoff
    refine foldS_view State.catchView _ (fun s w => ?_) _ _
    dsimp only
    split
    · exact zero _ _ _
    · rfl
  have decided (u : State) (x : Sil) : ({ u with sil := x } : State).catchView = u.catchView := rfl
  exact (decided _ _).trans ((mon _).trans sil)

end Sys2Proof.Machine
end

section
/-! PROOF. The catch-up of an engine that joins (R353, log 168): for O59. -/

namespace Sys2Proof.Machine

/-! ### Route changes and commits leave the pair (R98, R270) -/

theorem foxRun_csw (s : State) (n : Nat) : ∃ csw, s.foxRun n = { s with csw := csw } := by
  have ticked (u : State) (k : Nat) : ∃ csw, u.foxTick k = { u with csw := csw } := by
    unfold State.foxTick
    dsimp only
    split <;> exact ⟨_, rfl⟩
  unfold State.foxRun
  split
  · exact ticked _ _
  · split
    · exact ticked _ _
    · refine foldS_keeps (P := fun t => ∃ csw, t = { s with csw := csw }) _ (fun t k h => ?_) ⟨s.csw, rfl⟩ _
      obtain ⟨_, rfl⟩ := h
      exact ticked _ _

theorem payCtx_csw (s : State) (n : Nat) (skip : List Nat) : ∃ csw, s.payCtx n skip = { s with csw := csw } := by
  unfold State.payCtx
  split
  · exact ⟨_, rfl⟩
  · refine foldS_keeps (P := fun t => ∃ csw, t = { s with csw := csw }) _ (fun t k h => ?_) ⟨_, rfl⟩ _
    obtain ⟨_, rfl⟩ := h
    exact ⟨_, rfl⟩

theorem commitIsland_pair (k : Nat) (us : List CUnit) (s : State) (i : Nat) : (s.commitIsland k us i).pair = s.pair := by
  have cluster (n : Nat) : (s.commitCluster us n).pair = s.pair := by
    unfold State.commitCluster
    dsimp only
    split_ifs <;> rfl
  unfold State.commitIsland
  dsimp only
  split_ifs
  · rfl
  · rfl
  · refine foldS_view State.pair _ (fun s o => ?_) s _
    obtain ⟨_, h⟩ := alnCommit_reported s (o - 0x7000) k fun m => (writesOf us).any fun w => w.obj == o && w.mem == m
    exact h.pair
  · exact cluster _
  · rfl

theorem commitFixed_pair (s : State) (a : Nat) (us : List CUnit) (skip : List Nat) : (s.commitFixed a us skip).pair = s.pair := by
  have sets (t : State) : (t.commitSets us).pair = t.pair := by
    unfold State.commitSets
    dsimp only
    refine (foldS_view State.pair _ (fun s w => ?_) _ _).trans (foldS_view State.pair _ (fun s e => ?_) _ _)
    · split <;> rfl
    · exact (wakeOwner_woken _ _).pair
  unfold State.commitFixed
  dsimp only
  exact (foldS_view State.pair _ (commitIsland_pair _ us) _ _).trans (sets _)

theorem commitUnits_pair (s : State) (us : List CUnit) (a : Nat) (skip : List Nat) : (s.commitUnits us a skip).pair = s.pair := by
  have effect (t : State) (w : EWrite) : (t.writeEffect w).pair = t.pair := by
    obtain ⟨_, _, _, xo⟩ := loadXo_time t
    unfold State.writeEffect
    rw [xo]
    obtain ⟨obj, mem, elem, val⟩ := w
    cases val <;> dsimp only <;> split_ifs <;> rfl
  have contexts : ((s.commitFixed a us skip).ctxCommit s.dict.vals a us skip).pair = s.pair := by
    obtain ⟨_, h⟩ := ctxCommit_csw (s.commitFixed a us skip) s.dict.vals a us skip
    rw [h]
    exact commitFixed_pair s a us skip
  unfold State.commitUnits
  dsimp only
  refine (foldS_view State.pair _ (fun s u => ?_) _ _).trans ((foldS_view State.pair _ (fun s u => ?_) _ _).trans
    ((foldS_view State.pair _ effect _ _).trans contexts))
  · obtain ⟨_, _, _, h⟩ := startStore_leaves s a u
    rw [h]
  · split <;> rfl

theorem applyDue_pair (s : State) (n : Nat) (skip : List Nat) : (s.applyDue n skip).pair = s.pair := by
  have applied (t : State) (a : Nat) : (State.applySealed skip t a).pair = t.pair := by
    unfold State.applySealed
    split
    · rfl
    · exact commitUnits_pair _ _ _ _
  have paid : ((s.settle n).payOwed skip (s.firstSample n)).pair = s.pair :=
    foldS_view State.pair _ (fun s (e : Nat × List CUnit) => commitIsland_pair (s := s) _ e.2 e.1) _ _
  obtain ⟨_, turned⟩ := payCtx_csw ((s.settle n).payOwed skip (s.firstSample n)) n skip
  unfold State.applyDue
  exact (foldS_view State.pair _ applied _ _).trans ((congrArg State.pair turned).trans paid)

theorem payOwed_nothing {s : State} (unowed : s.dict.owed = []) (skip : List Nat) (k : Nat) : s.payOwed skip k = s := by
  have same : ({ s.dict with owed := s.dict.owed.filter fun e => skip.contains e.1 } : Dict) = s.dict := by rw [unowed, List.filter_nil, ← unowed]
  unfold State.payOwed
  rw [unowed]
  exact congrArg (fun d => { s with dict := d }) same

/-- With nothing sealed and nothing owed no commit is due. -/
theorem applyDue_nothing {s : State} (unsealed : s.dict.sealed = []) (unowed : s.dict.owed = []) (n : Nat) (skip : List Nat) :
    (s.applyDue n skip).pair = s.pair ∧ (s.applyDue n skip).dict = s.dict ∧ (s.applyDue n skip).dp = s.dp ∧ (s.applyDue n skip).time = s.time := by
  have paid : (s.settle n).payOwed skip (s.firstSample n) = s.settle n := payOwed_nothing (s := s.settle n) unowed _ _
  obtain ⟨_, turned⟩ := payCtx_csw (s.settle n) n skip
  have done : s.applyDue n skip = (s.settle n).payCtx n skip := by
    unfold State.applyDue
    rw [unsealed, paid]
    rfl
  rw [done, turned]
  exact ⟨rfl, rfl, rfl, rfl⟩

/-! ### Ticks of the catch-up -/

theorem catchStart_pair (s : State) (n : Nat) : (s.catchStart n).pair = s.pair := by
  obtain ⟨_, routed⟩ := foxRun_csw s n
  unfold State.catchStart
  rw [startProcess_pair, applyDue_pair, routed]

/-- PROCESS of a tick without a commit. -/
theorem catchStart_nothing {s : State} (unsealed : s.dict.sealed = []) (unowed : s.dict.owed = []) (n : Nat) :
    (s.catchStart n).catchView = (s.pair, s.dict, s.dp, n, s.time.tick) := by
  obtain ⟨_, routed⟩ := foxRun_csw s n
  obtain ⟨pair, dict, dp, time⟩ := applyDue_nothing (s := s.foxRun n) (by rw [routed]; exact unsealed) (by rw [routed]; exact unowed) n []
  unfold State.catchStart
  rw [startProcess_catchView, pair, dict, dp, time, routed]

theorem catchNext_pair (s : State) : s.catchNext.pair = s.pair := by
  unfold State.catchNext
  dsimp only
  split
  · rw [catchStart_pair, pair_of_catchView (endProcess_catchView _ _ _), pair_of_catchView (cutoffDecide_catchView _ _)]
  · rfl

/-- The pair once the engine has caught up: it refills (R353). -/
def Pair.refilling (p : Pair) : Pair := { p with caught := true, rejoin := 5 }

/-- The catch-up ends in the tick of the present PROCESS, and the decisions of the cutoffs since follow. -/
theorem catchOn_cases (s : State) : s.catchOn.pair = s.pair ∨ s.catchOn.pair = s.pair.refilling := by
  have ran : (iter State.catchNext (s.time.tick - 2 - s.csw.proc) s).pair = s.pair := iter_view State.pair _ catchNext_pair _ s
  unfold State.catchOn
  dsimp only
  split
  · exact .inl ran
  · rw [pair_of_catchView (foldS_view State.catchView _ cutoffDecide_catchView _ _)]
    exact .inr (congrArg Pair.refilling ran)

theorem catchOn_reached {s : State} (reached : s.csw.proc + 2 = s.time.tick) :
    s.catchOn.pair = s.pair.refilling ∧ s.catchOn.dict = s.dict ∧ s.catchOn.dp = s.dp := by
  have rounds : s.time.tick - 2 - s.csw.proc = 0 := by omega
  have ended : s.catchOn.catchView = (s.pair.refilling, s.dict, s.dp, s.csw.proc, s.time.tick) := by
    unfold State.catchOn
    rw [rounds]
    dsimp only [iter]
    rw [if_neg (by omega)]
    exact foldS_view State.catchView _ cutoffDecide_catchView _ _
  exact ⟨congrArg Prod.fst ended, congrArg (fun v => v.2.1) ended, congrArg (fun v => v.2.2.1) ended⟩

/-! ### The capture loaded (R32, R353) -/

/-- The values of a capture in force: those of the pair-wide members, beside the engine's own of the others. -/
def loadedVals (c : Snap) (v : Tab Val) : Tab Val := c.vals ++ v.filter fun e => !(pairWide (e.1 / 16777216) (e.1 / 65536 % 256))

theorem loadWs_clusters (s : State) (e : Nat × WsSnap) : ∃ cl, s.loadWs e = { s with clusters := cl } := by
  unfold State.loadWs
  split <;> exact ⟨_, rfl⟩

theorem sameParams_clusters (s : State) (n : Nat) : ∃ cl, s.sameParams n = { s with clusters := cl } := by
  unfold State.sameParams
  split <;> exact ⟨_, rfl⟩

theorem foldS_clusters {α : Type} (f : State → α → State) (h : ∀ s a, ∃ cl, f s a = { s with clusters := cl }) (s : State) (l : List α) :
    ∃ cl, foldS f s l = { s with clusters := cl } := by
  refine foldS_keeps (P := fun t => ∃ cl, t = { s with clusters := cl }) f (fun t a k => ?_) ⟨_, rfl⟩ l
  obtain ⟨_, rfl⟩ := k
  obtain ⟨_, k⟩ := h { s with clusters := _ } a
  exact ⟨_, k⟩

theorem loadSnap_leaves (s : State) (c : Snap) : (s.loadSnap c).pair = s.pair ∧ (s.loadSnap c).time = s.time ∧
    (s.loadSnap c).dict = { s.dict with vals := loadedVals c s.dict.vals } ∧ (s.loadSnap c).dp = { s.dp with ch := c.dp, done := c.dpDone } := by
  unfold State.loadSnap
  dsimp only
  obtain ⟨_, params⟩ := foldS_clusters State.sameParams sameParams_clusters (_ : State) (List.range 9)
  obtain ⟨_, loaded⟩ := foldS_clusters State.loadWs loadWs_clusters (_ : State) c.ws
  rw [params, loaded]
  exact ⟨rfl, rfl, rfl, rfl⟩

end Sys2Proof.Machine
end

section
/-! PROOF. The mirror records a SHADOW takes: verdicts, repairs, TDM words, commits (R342-R346): for O59. -/

namespace Sys2Proof.Machine

variable {s : State}

/-- The pair once it has heard the mirror in the present tick (R352). -/
def State.heardPair (s : State) : Pair := { s.pair with mirrorTick := s.time.tick }

/-! ### VERDICT (R343) -/

/-- A VERDICT noted before its contexts are taken. -/
def State.noted (s : State) (v : VerdictRec) : State :=
  (s.heardMirror.modPair fun p => { p with verdicts := ⟨v.tick, v.present, v.epochs, v.directs⟩ :: p.verdicts }).modCsw fun c =>
    ({ c with present := tset c.present v.tick v.present }).adoptDirect v.tick v.directs

/-- A VERDICT of which no context is missed. -/
theorem onVerdict_whole {t : State} {v : VerdictRec} (adopts : s.adopts = true) (before : s.beforeProcess v.tick = true)
    (whole : ((gatherCtxs s.dict.vals).filter v.present.contains).foldl (State.adoptCtx v.tick v.epochs) (s.noted v, []) = (t, [])) : s.onVerdict v = t := by
  unfold State.onVerdict
  rw [if_neg (by simp [adopts, before])]
  change (match ((gatherCtxs s.dict.vals).filter v.present.contains).foldl (State.adoptCtx v.tick v.epochs) (s.noted v, []) with
    | (s2, miss) => if miss.isEmpty then s2 else _) = t
  rw [whole]
  rfl

theorem noted_present (s : State) (v : VerdictRec) : tget [] (s.noted v).csw.present v.tick = v.present := tget_tset_same _ _ _ _

theorem execVerdict_nothing {v : VerdictRec} (adopts : s.adopts = true) (before : s.beforeProcess v.tick = true) (nothing : v.present = []) :
    execVerdict v s = .next (s.quiet.noted v) := by
  refine congrArg Host.Outcome.next (onVerdict_whole (s := s.quiet) adopts before ?_)
  rw [nothing, List.filter_eq_nil_iff.2 fun x _ => by simp]
  rfl

/-- A context whose frame of a tick has the current EPOCH, in a state that a verdict leads to. -/
def InForceAt (s : State) (x n ep k : Nat) (d : TickData) (t : State) : Prop :=
  t.dict = s.dict ∧ t.pair = s.pair ∧ t.csw.present = s.csw.present ∧ (t.ctx x).inForce = [⟨n, ep, k, d, false⟩] ∧ (t.ctx x).epochCur = some ep

/-- The frame of such a context is taken. -/
theorem adoptCtx_takes {t : State} {x n ep k : Nat} {d : TickData} (audio : ctxMode s.dict.vals x = 0) (h : InForceAt s x n ep k d t) :
    ∃ u, State.adoptCtx n [] (t, []) x = (u, []) ∧ InForceAt s x n ep k d u ∧ tfind u.csw.gather (bankKey n x) = some d := by
  obtain ⟨dict, pair, present, frame, epoch⟩ := h
  have taken : State.adoptCtx n [] (t, []) x = ((t.setCtx x fun c => { c with epochCur := some ep }).gatherPut x n d, []) := by
    simp [State.adoptCtx, dict, audio, frame, epoch]
  obtain ⟨_, woken⟩ := gatherPut_woken (t.setCtx x fun c => { c with epochCur := some ep }) x n d
  have same := tget_tmod_same ({} : Ctx) t.csw.ctx x fun c => { c with epochCur := some ep }
  refine ⟨_, taken, ?_, ?_⟩
  · rw [woken]
    exact ⟨dict, pair, present, (congrArg Ctx.inForce same).trans frame, congrArg Ctx.epochCur same⟩
  · rw [woken]
    exact tfind_tset_same _ _ _

/-- A list that names only such a context. -/
theorem adoptCtxs_take {x n ep k : Nat} {d : TickData} (audio : ctxMode s.dict.vals x = 0) {l : List Nat} (only : ∀ y ∈ l, y = x) (filled : l ≠ []) {t : State}
    (h : InForceAt s x n ep k d t) :
    ∃ u, l.foldl (State.adoptCtx n []) (t, []) = (u, []) ∧ InForceAt s x n ep k d u ∧ tfind u.csw.gather (bankKey n x) = some d := by
  induction l generalizing t with
  | nil => exact absurd rfl filled
  | cons y l ih =>
    obtain rfl := only y (List.mem_cons_self ..)
    obtain ⟨u, step, kept, put⟩ := adoptCtx_takes audio h
    rw [List.foldl_cons, step]
    by_cases last : l = []
    · subst last
      exact ⟨u, rfl, kept, put⟩
    · exact ih (fun z hz => only z (List.mem_cons_of_mem _ hz)) last kept

theorem execVerdict_one {v : VerdictRec} {x ep k : Nat} {d : TickData} (adopts : s.adopts = true) (before : s.beforeProcess v.tick = true) (one : v.present = [x])
    (gathered : x ∈ gatherCtxs s.dict.vals) (audio : ctxMode s.dict.vals x = 0) (known : v.epochs = []) (frame : (s.ctx x).inForce = [⟨v.tick, ep, k, d, false⟩])
    (epoch : (s.ctx x).epochCur = some ep) :
    ∃ t, execVerdict v s = .next t ∧ tget [] t.csw.present v.tick = [x] ∧ tfind t.csw.gather (bankKey v.tick x) = some d ∧ t.pair.asked = s.pair.asked := by
  have only : ∀ y ∈ (gatherCtxs s.dict.vals).filter v.present.contains, y = x := fun y hy => by
    rw [one] at hy
    simpa using (List.mem_filter.1 hy).2
  have filled : (gatherCtxs s.dict.vals).filter v.present.contains ≠ [] := List.ne_nil_of_mem (List.mem_filter.2 ⟨gathered, by rw [one]; simp⟩)
  obtain ⟨t, whole, ⟨_, pair, present, _, _⟩, put⟩ := adoptCtxs_take (s := s.quiet.noted v) (t := s.quiet.noted v) audio only filled ⟨rfl, rfl, rfl, frame, epoch⟩
  rw [← known] at whole
  refine ⟨t, congrArg Host.Outcome.next (onVerdict_whole (s := s.quiet) adopts before whole), ?_, put, (congrArg Pair.asked pair).trans rfl⟩
  rw [present, noted_present, one]

/-! ### MISS and REPAIR (R342-R344) -/

theorem execMiss_one {n x : Nat} {d : TickData} (active : s.pair.role = 1) (before : s.beforeProcess n = true)
    (held : tfind s.csw.gather (bankKey n x) = some d) (present : s.isPresent n x = true) :
    execMiss n [x] s = .next ({ s with sent := [], pair := s.heardPair }.sendMirror 2 2 n (repairBytes x d)) := by
  have told : s.quiet.onMiss n [x] = (match tfind s.csw.gather (bankKey n x) with
      | some d => if s.isPresent n x then s.quiet.heardMirror.sendMirror 2 2 n (repairBytes x d) else s.quiet.heardMirror
      | none => s.quiet.heardMirror) := by
    unfold State.onMiss
    refine (if_neg ?_).trans rfl
    rintro (other | late)
    · exact other active
    · rw [show s.quiet.beforeProcess n = true from before] at late
      cases late
  unfold execMiss
  rw [told, held, present]
  rfl

/-- The data of a REPAIR. -/
def State.repairData (s : State) (r : RepairRec) : TickData := { nch := ctxNch s.dict.vals r.ctx, samples := r.samples, side := r.side }

theorem execRepair_puts {r : RepairRec} (adopts : s.adopts = true) (before : s.beforeProcess r.tick = true) :
    execRepair r s = .next ((s.quiet.heardMirror.gatherPut r.ctx r.tick (s.repairData r)).modPair fun p => { p with repaired := (r.tick, r.ctx) :: p.repaired }) := by
  refine congrArg Host.Outcome.next ?_
  unfold State.onRepair
  rw [if_neg (by rw [show s.quiet.adopts = true from adopts, show s.quiet.beforeProcess r.tick = true from before]; decide)]
  rfl

/-! ### TDM words (R345) -/

/-- The words of a local TDM channel in a record, zeros where it names none. -/
def mirrorWords (spt : Nat) (words : List (Nat × Int)) (ch : Nat) : List Int :=
  (List.range spt).map fun k => match words.find? fun w => w.1 == ch * spt + k with | some w => w.2 | none => 0

/-- One channel of a record taken. -/
def State.tdmPut (n spt : Nat) (words : List (Nat × Int)) (s : State) (ch : Nat) : State :=
  (s.modCsw fun c => { c with gather := tset c.gather (bankKey n (tdmIndex ch)) { nch := 1, samples := mirrorWords spt words ch } }).wakeReaders n 1 ch
    (mirrorWords spt words ch)

theorem execTdmRecord_takes {n : Nat} (adopts : s.adopts = true) (uncut : s.csw.cutTick = none) (ws : List (Nat × Int)) :
    execTdmRecord n ws s = .next ((foldS (State.tdmPut n s.spt ws) s.quiet.heardMirror (sortN (ws.map fun w => w.1 / s.spt))).modPair fun p =>
      { p with tdmRec := n :: p.tdmRec }) := by
  refine congrArg Host.Outcome.next ?_
  unfold State.onTdm
  dsimp only
  rw [if_neg (by simp [uncut, show s.quiet.adopts = true from adopts])]
  rfl

theorem tdmPut_dict (n spt : Nat) (ws : List (Nat × Int)) (s : State) (ch : Nat) : (State.tdmPut n spt ws s ch).dict = s.dict := by
  obtain ⟨_, woken⟩ := wakeReaders_woken (s.modCsw fun c => { c with gather := tset c.gather (bankKey n (tdmIndex ch)) { nch := 1, samples := mirrorWords spt ws ch } }) n 1 ch
    (mirrorWords spt ws ch)
  unfold State.tdmPut
  rw [woken]
  rfl

theorem tdmPut_gather (n spt : Nat) (ws : List (Nat × Int)) (s : State) (ch : Nat) :
    tfind (State.tdmPut n spt ws s ch).csw.gather (bankKey n (tdmIndex ch)) = some { nch := 1, samples := mirrorWords spt ws ch } := by
  obtain ⟨_, woken⟩ := wakeReaders_woken (s.modCsw fun c => { c with gather := tset c.gather (bankKey n (tdmIndex ch)) { nch := 1, samples := mirrorWords spt ws ch } }) n 1 ch
    (mirrorWords spt ws ch)
  unfold State.tdmPut
  rw [woken]
  exact tfind_tset_same _ _ _

theorem mirrorWords_one {spt x : Nat} (h : x < spt) (ch : Nat) (w : Int) : (mirrorWords spt [(ch * spt + x, w)] ch)[x]? = some w := by
  simp [mirrorWords, h]

theorem tdmChannel {spt x : Nat} (h : x < spt) (ch : Nat) : (ch * spt + x) / spt = ch := by
  rw [Nat.add_comm, Nat.add_mul_div_right _ _ (by omega), Nat.div_eq_of_lt h, Nat.zero_add]

theorem execTdmRecord_word {n x ch : Nat} (adopts : s.adopts = true) (uncut : s.csw.cutTick = none) (h : x < s.spt) (w : Int) :
    execTdmRecord n [(ch * s.spt + x, w)] s = .next ((State.tdmPut n s.spt [(ch * s.spt + x, w)] s.quiet.heardMirror ch).modPair fun p =>
      { p with tdmRec := n :: p.tdmRec }) := by
  rw [execTdmRecord_takes adopts uncut, List.map_cons, tdmChannel h]
  rfl

/-! ### COMMIT (R346) -/

theorem putSealed_some (s : State) (a : Nat) {us : List CUnit} (filled : us ≠ []) :
    tfind (s.putSealed a us).dict.sealed a = some (tget [] s.dict.sealed a ++ us) ∧ (s.putSealed a us).dict.vals = s.dict.vals ∧
      (s.putSealed a us).pair = s.pair := by
  unfold State.putSealed
  rw [if_neg (by simpa using filled)]
  exact ⟨tfind_tset_same _ _ _, rfl, rfl⟩

/-- A commit record that recalls no scene is sealed as it came. -/
theorem execCommitRecord_seals {n : Nat} {us : List CUnit} (adopts : s.adopts = true) (before : s.beforeProcess n = true) (plain : ∀ u ∈ us, u.kind ≠ .recall) :
    execCommitRecord n us s = .next ((s.quiet.heardMirror.modPair fun p => { p with commitRec := n :: p.commitRec }).putSealed n us) := by
  have kept : us.map s.quiet.mirrored = us :=
    (List.map_congr_left fun u hu => if_neg fun without => plain u hu without.1).trans (List.map_id us)
  have clean : (us.any fun u => u.kind == .recall && u.writes.isEmpty && s.quiet.scenePoisoned u.slot) = false :=
    List.any_eq_false.2 fun u hu => by simp [plain u hu]
  unfold execCommitRecord
  dsimp only
  rw [if_neg (by simp [show s.quiet.adopts = true from adopts, show s.quiet.beforeProcess n = true from before]), clean, kept]
  rfl

end Sys2Proof.Machine
end

section
/-! PROOF. Beacons, status, fences and Lynx outcomes at an engine of a pair (R330, R331, R349, R350, R352, R356): for O59. -/

namespace Sys2Proof.Machine

variable {s : State}

/-! ### BEACON, STATUS, FENCE -/

theorem execBeacon_shadow (paired : s.paired = true) (shadow : s.pair.role = 2) (b e : Nat) : execBeacon b e s = .next { s with
    sent := [], pair := { s.heardPair with
      beacon := some b, epoch := if epochAbove e s.pair.epoch then e else s.pair.epoch, epochSeen := maxEpoch e s.pair.epochSeen } } := by
  have rises : (if s.pair.role = 2 ∧ epochAbove e s.pair.epoch then e else s.pair.epoch) = if epochAbove e s.pair.epoch then e else s.pair.epoch := by
    simp [shadow]
  unfold execBeacon State.onBeacon
  rw [if_neg (by simp [show s.quiet.paired = true from paired, shadow]), ← rises]
  rfl

theorem execStatusRecord_active (paired : s.paired = true) (active : s.pair.role = 1) (r : StatusRec) : execStatusRecord r s = .next { s with
    sent := [], pair := { s.heardPair with
      status := some (r.tick, r.standby, r.take), standby := r.standby, mateSync := r.inSync, lastSync := if r.inSync then some r.tick else s.pair.lastSync } } := by
  unfold execStatusRecord State.onStatus
  rw [if_neg (by simp [show s.quiet.paired = true from paired, active])]
  rfl

/-- A FENCE noted by an engine that does not take over. -/
theorem execFence_noted (paired : s.paired = true) (other : s.pair.role ≠ 2) (b e : Nat) :
    execFence b e s = .next { s with sent := [], pair := { s.heardPair with fenceB := some b } } := by
  unfold execFence State.onFence
  rw [if_neg (by simp [show s.quiet.paired = true from paired])]
  exact congrArg Host.Outcome.next (if_pos (.inl other))

/-- Without an Owl an in-sync SHADOW takes the boundary of a FENCE. -/
theorem execFence_takes (paired : s.paired = true) (shadow : s.pair.role = 2) (alone : s.pair.noOwl = true) (inSync : s.pair.inSync = true)
    (noon : s.top.state = .noon) (b e : Nat) : execFence b e s = .next { s with sent := [], pair := { s.heardPair with
      fenceB := some b, grant := some (nextEpoch (maxEpoch e s.pair.epoch), if b ≤ s.time.tick then s.time.tick + 1 else b) } } := by
  unfold execFence State.onFence
  rw [if_neg (by simp [show s.quiet.paired = true from paired])]
  refine congrArg Host.Outcome.next ((if_neg ?_).trans rfl)
  change ¬(s.pair.role ≠ 2 ∨ (!s.pair.noOwl) = true ∨ (!s.pair.inSync) = true ∨ s.top.state ≠ .noon)
  simp [shadow, alone, inSync, noon]

/-! ### Lynx -/

/-- The pair after the comparison of a label: its records are gone and the outcome is noted. -/
def Pair.compared (p : Pair) (label o : Nat) : Pair := ({ p with lynxOwn := tdel p.lynxOwn label, lynxGot := tdel p.lynxGot label }).outcome label o

theorem compared_streak_match (p : Pair) (label : Nat) : (p.compared label 0).streak = min 0xFFFF (p.streak + 1) := stopAt_eq_min _ _ _

theorem compared_mism_diverge (p : Pair) (label : Nat) : (p.compared label 1).mism = min 0xFFFF (p.mism + 1) := stopAt_eq_min _ _ _

theorem lynxCompare_match {label : Nat} {a : List Word} (own : tfind s.pair.lynxOwn label = some a) (got : tfind s.pair.lynxGot label = some a) :
    s.lynxCompare label = s.modPair (·.compared label 0) := by
  unfold State.lynxCompare
  rw [own, got]
  exact if_pos rfl

section
variable {label : Nat} {a b : List Word} (own : tfind s.pair.lynxOwn label = some a) (got : tfind s.pair.lynxGot label = some b) (differ : a ≠ b)
include own got differ

theorem lynxCompare_uncounted (quiet : s.lynxCounts = false) : s.lynxCompare label = s.modPair (·.compared label 1) := by
  unfold State.lynxCompare
  rw [own, got]
  refine (if_neg differ).trans (if_pos ?_)
  rw [quiet]
  rfl

/-- A mismatch that counts raises LYNX_DIVERGE. -/
theorem lynxCompare_diverges (counts : s.lynxCounts = true) :
    ∃ who detail, s.lynxCompare label = (s.modPair (·.compared label 1)).raiseAs blkPair 0x15 .c who detail none := by
  unfold State.lynxCompare
  rw [own, got]
  dsimp only
  rw [if_neg differ, counts]
  cases (egressCtxs s.dict.vals)[firstDiff a b 0]? with
  | none => exact ⟨_, _, rfl⟩
  | some x => exact ⟨_, _, rfl⟩

end

/-- A LYNX record kept beside the engine's own. -/
def State.lynxKept (s : State) (r : LynxRec) : State := s.heardMirror.modPair fun p => { p with lynxGot := tset p.lynxGot r.stage r.crcs }

theorem lynxKept_got (s : State) (r : LynxRec) : tfind (s.lynxKept r).pair.lynxGot r.stage = some r.crcs := tfind_tset_same _ _ _

theorem execLynx_compares {r : LynxRec} (paired : s.paired = true) (inTime : s.time.tick ≤ r.stage + 3) :
    execLynx r s = .next ((s.quiet.lynxKept r).lynxCompare r.stage) := by
  unfold execLynx State.onLynx
  rw [if_neg (by simp [show s.quiet.paired = true from paired, inTime])]
  rfl

theorem execLynx_match {r : LynxRec} (paired : s.paired = true) (inTime : s.time.tick ≤ r.stage + 3) (own : tfind s.pair.lynxOwn r.stage = some r.crcs) :
    execLynx r s = .next ((s.quiet.lynxKept r).modPair (·.compared r.stage 0)) := by
  rw [execLynx_compares paired inTime, lynxCompare_match (s := s.quiet.lynxKept r) own (lynxKept_got _ r)]

/-- A mismatch: the outcome is noted in any case, and its event where it counts. -/
theorem execLynx_diverges {r : LynxRec} {cs : List Word} (noShadow : s.top.shadows = []) (paired : s.paired = true) (inTime : s.time.tick ≤ r.stage + 3)
    (own : tfind s.pair.lynxOwn r.stage = some cs) (differ : cs ≠ r.crcs) : ∃ t, execLynx r s = .next t ∧
      t.pair = (s.quiet.lynxKept r).pair.compared r.stage 1 ∧ (s.lynxCounts = true → (t.common blkPair).intStat &&& 0x200000 = 0x200000) ∧
      (s.lynxCounts = false → t.commons = s.commons) := by
  have compared := execLynx_compares paired inTime
  cases counts : s.lynxCounts with
  | false =>
    rw [lynxCompare_uncounted (s := s.quiet.lynxKept r) own (lynxKept_got _ r) differ counts] at compared
    exact ⟨_, compared, rfl, nofun, fun _ => rfl⟩
  | true =>
    obtain ⟨who, detail, diverges⟩ := lynxCompare_diverges (s := s.quiet.lynxKept r) own (lynxKept_got _ r) differ counts
    have recorded := raiseAs_recorded (s := s) (u := (s.quiet.lynxKept r).modPair (·.compared r.stage 1)) rfl noShadow blkPair 0x15 who detail (cls := .c) nofun
    have told := raiseAs_reported ((s.quiet.lynxKept r).modPair (·.compared r.stage 1)) blkPair 0x15 who detail .c none nofun
    rw [diverges] at compared
    refine ⟨_, compared, told.pair, fun _ => ?_, nofun⟩
    rw [recorded.stat]
    exact or_sets_bits _ _

theorem execLynxAbsent_notes {n : Nat} (on : s.lynxOn = true) (waits : (tfind s.pair.lynxOwn n).isSome = true) (past : n + 3 ≤ s.time.tick) :
    execLynxAbsent n s = .next (s.quiet.modPair (·.compared n 2)) := by
  have either : ((tfind s.pair.lynxOwn n).isSome || (tfind s.pair.lynxGot n).isSome) = true := by rw [waits, Bool.true_or]
  unfold execLynxAbsent
  dsimp only
  exact congrArg Host.Outcome.next (if_pos ⟨on, either, past⟩)

/-- LYNX_LOST at an ACTIVE whose partner is in sync. -/
theorem execLynxLost_active (active : s.pair.role = 1) (noon : s.top.state = .noon) (mate : s.pair.mateSync = true) (fails : s.pair.lynxFails = true)
    (first : s.pair.lynxLostAt = none) : execLynxLost s = .next ((s.quiet.modPair fun p => { p with lynxLostAt := some s.time.tick }).raiseT blkPair 0x16 .u) := by
  have counts : s.quiet.lynxCounts = true := by simp [State.lynxCounts, noon, mate]
  have told := raiseT_reported (s.quiet.modPair fun p => { p with lynxLostAt := some s.time.tick }) blkPair 0x16 0 .u nofun
  unfold execLynxLost
  dsimp only
  rw [if_neg (by simp [active, noon, counts, fails, first])]
  refine congrArg Host.Outcome.next (if_neg fun ⟨shadow, _⟩ => ?_)
  have same : s.pair.role = 2 := (congrArg Pair.role told.pair).symm.trans shadow
  omega

theorem execMirrorSilence_shadow (shadow : s.pair.role = 2) (silent : s.pair.mirrorTick + 8 ≤ s.time.tick) :
    execMirrorSilence s = .next { s with sent := [], pair := { s.pair with inSync := false } } :=
  congrArg Host.Outcome.next (if_pos ⟨shadow, silent⟩)

end Sys2Proof.Machine
end

section
/-! PROOF. The rejoin: JOIN, the capture, the catch-up and the return to service (R32, R324, R353, R354): for O59. -/

namespace Sys2Proof.Machine

variable {s : State}

/-! ### JOIN -/

theorem sendJoin_onLink (s : State) (p : Option Nat) : OnLink s (s.sendJoin p) := sendRecord_onLink _ _ _ _ _ _

/-- The ACTIVE names the snapshot point. -/
theorem execJoin_asked {j : JoinRec} (paired : s.paired = true) (agrees : s.joinAgrees j = true) (asks : j.s = none) (active : s.pair.role = 1)
    (noon : s.top.state = .noon) : execJoin j s = .next ((s.quiet.heardMirror.modPair fun x =>
      { x with capturing := some (s.time.tick + 16), snap := none, mateSync := false, refused := false }).sendJoin (some (s.time.tick + 16))) := by
  refine congrArg Host.Outcome.next ?_
  unfold State.onJoin
  rw [if_neg (by simp [show s.quiet.paired = true from paired]), if_neg (by simp [show s.quiet.joinAgrees j = true from agrees]), asks]
  exact if_pos ⟨active, noon⟩

/-- The joining engine takes the snapshot point. -/
theorem execJoin_answered {j : JoinRec} {n : Nat} (paired : s.paired = true) (agrees : s.joinAgrees j = true) (names : j.s = some n)
    (waits : s.pair.rejoin = 1) : execJoin j s = .next (s.quiet.heardMirror.modPair fun x =>
      { x with joinS := some n, rejoin := 2, snap := none, caught := false, snapEnd := 0 }) := by
  refine congrArg Host.Outcome.next ?_
  unfold State.onJoin
  rw [if_neg (by simp [show s.quiet.paired = true from paired]), if_neg (by simp [show s.quiet.joinAgrees j = true from agrees]), names]
  exact if_pos waits

/-- Engines that do not agree are no pair. -/
theorem execJoin_refused {j : JoinRec} (noShadow : s.top.shadows = []) (paired : s.paired = true) (differs : s.joinAgrees j = false) :
    ∃ t, execJoin j s = .next t ∧ Recorded s t blkPair 0x10 .u s.tickDetail ∧ t.pair = { s.heardPair with rejoin := 0, refused := true } := by
  have refused : execJoin j s = .next ((if s.pair.role = 1 ∧ j.s = none
      then (s.quiet.heardMirror.modPair fun p => { p with rejoin := 0, refused := true }).sendJoin none
      else s.quiet.heardMirror.modPair fun p => { p with rejoin := 0, refused := true }).raiseT blkPair 0x10 .u) := by
    refine congrArg Host.Outcome.next ?_
    unfold State.onJoin
    rw [if_neg (by simp [show s.quiet.paired = true from paired]), if_pos (by simp [show s.quiet.joinAgrees j = false from differs])]
    rfl
  have link : OnLink (s.quiet.heardMirror.modPair fun p => { p with rejoin := 0, refused := true }) (if s.pair.role = 1 ∧ j.s = none
      then (s.quiet.heardMirror.modPair fun p => { p with rejoin := 0, refused := true }).sendJoin none
      else s.quiet.heardMirror.modPair fun p => { p with rejoin := 0, refused := true }) := by
    split
    · exact sendJoin_onLink _ _
    · exact .refl _
  obtain ⟨recorded, pair⟩ := raiseT_pair noShadow (link.commons.trans rfl) (link.top.trans rfl) (link.tickDetail.trans rfl) 0x10 (cls := .u) nofun
  exact ⟨_, refused, recorded, pair.trans link.pair⟩

/-! ### The capture -/

theorem execCapture_sends {c : Snap} (active : s.pair.role = 1) (taken : s.pair.snap = some c) (named : s.pair.capturing = some c.tick) :
    execCapture c.tick s = .next ((s.quiet.modPair fun p => { p with capturing := none, snap := none }).sendRecord 2 10 c.tick 4 fun _ _ _ => .snap c) := by
  unfold execCapture
  dsimp only
  rw [show s.quiet.pair.snap = some c from taken]
  exact if_pos ⟨active, named, rfl⟩

theorem execSnapRecord_whole {r : SnapRec} {c : Snap} (waits : s.pair.rejoin = 2) (whole : r.whole = some c) : execSnapRecord r s = .next { s with
    sent := [], pair := { s.heardPair with rejoin := 3, snap := some c, snapEnd := s.time.tick } } := by
  unfold execSnapRecord
  dsimp only
  rw [if_pos (.inl waits), whole]
  rfl

/-! ### The catch-up -/

/-- CATCH_UP before the capture is loaded. -/
theorem execCatchUp_snap {c : Snap} (arrived : s.pair.rejoin = 3) (whole : s.pair.snap = some c) (bytes : Nat) (poison : Bool) :
    execCatchUp bytes poison s = if s.time.tick < c.tick + 2 then .next s.quiet
      else if s.quiet.refusesSnap c bytes poison then .next s.quiet.rejoinFails
      else .next (((s.quiet.loadSnap c).modPair fun p => { p with snap := none, rejoin := 4 }).catchStart c.tick).catchOn := by
  unfold execCatchUp
  dsimp only
  rw [if_neg (by simp [arrived]), show s.quiet.pair.snap = some c from whole]
  simp [arrived]

/-- The engine as the catch-up starts: the capture loaded. -/
def State.joined (s : State) (c : Snap) : State := (s.loadSnap c).modPair fun p => { p with snap := none, rejoin := 4 }

theorem joined_pair (s : State) (c : Snap) : (s.joined c).pair = { s.pair with snap := none, rejoin := 4 } := by
  obtain ⟨pair, -⟩ := loadSnap_leaves s c
  exact congrArg (fun p : Pair => { p with snap := none, rejoin := 4 }) pair

theorem joined_dict (s : State) (c : Snap) : (s.joined c).dict = { s.dict with vals := loadedVals c s.dict.vals } := (loadSnap_leaves s c).2.2.1

theorem joined_dp (s : State) (c : Snap) : (s.joined c).dp = { s.dp with ch := c.dp, done := c.dpDone } := (loadSnap_leaves s c).2.2.2

theorem joined_time (s : State) (c : Snap) : (s.joined c).time = s.time := (loadSnap_leaves s c).2.1

theorem execCatchUp_loads {c : Snap} {bytes : Nat} {poison : Bool} (arrived : s.pair.rejoin = 3) (whole : s.pair.snap = some c)
    (accepted : s.refusesSnap c bytes poison = false) (due : c.tick + 2 ≤ s.time.tick) :
    execCatchUp bytes poison s = .next ((s.quiet.joined c).catchStart c.tick).catchOn := by
  rw [execCatchUp_snap arrived whole, if_neg (by omega), if_neg (by rw [show s.quiet.refusesSnap c bytes poison = false from accepted]; decide)]
  rfl

/-- The capture has left the pair, and the engine catches up or refills. -/
theorem caughtUp_pair (s : State) (c : Snap) : let t := ((s.joined c).catchStart c.tick).catchOn
    t.pair.snap = none ∧ (t.pair.rejoin = 4 ∨ t.pair.rejoin = 5 ∧ t.pair.caught = true) := by
  have started := (catchStart_pair (s.joined c) c.tick).trans (joined_pair s c)
  rcases catchOn_cases ((s.joined c).catchStart c.tick) with h | h <;> dsimp only <;> rw [h, started]
  · exact ⟨rfl, .inl rfl⟩
  · exact ⟨rfl, .inr ⟨rfl, rfl⟩⟩

/-- A capture of the tick that PROCESS is at, with no commit sealed: nothing is to be caught up. -/
theorem caughtUp_reached {c : Snap} (reached : c.tick + 2 = s.time.tick) (unsealed : s.dict.sealed = []) (unowed : s.dict.owed = []) :
    let t := ((s.joined c).catchStart c.tick).catchOn
    t.pair = ({ s.pair with snap := none, rejoin := 4 } : Pair).refilling ∧ t.dict = { s.dict with vals := loadedVals c s.dict.vals } ∧
      t.dp = { s.dp with ch := c.dp, done := c.dpDone } := by
  have started := catchStart_nothing (s := s.joined c) (by rw [joined_dict]; exact unsealed) (by rw [joined_dict]; exact unowed) c.tick
  rw [joined_pair, joined_dict, joined_dp, joined_time] at started
  obtain ⟨pair, started⟩ := Prod.mk.inj started
  obtain ⟨dict, started⟩ := Prod.mk.inj started
  obtain ⟨dp, started⟩ := Prod.mk.inj started
  obtain ⟨proc, tick⟩ := Prod.mk.inj started
  obtain ⟨refills, values, channels⟩ := catchOn_reached (s := (s.joined c).catchStart c.tick) (by rw [proc, tick, reached])
  exact ⟨refills.trans (congrArg Pair.refilling pair), values.trans dict, channels.trans dp⟩

theorem execCatchUp_goesOn (computing : s.pair.rejoin = 4) (holds : s.holdsCommits = true) (bytes : Nat) :
    execCatchUp bytes false s = .next s.quiet.catchOn := by
  unfold execCatchUp
  dsimp only
  exact if_pos ⟨computing, holds⟩

/-- The pair after a refused capture: the next retry. -/
def Pair.retrying (p : Pair) : Pair := { p with retries := p.retries + 1, rejoin := 0, joinS := none, snap := none }

/-- A capture refused before the last retry. -/
theorem rejoinFails_retries (more : s.pair.retries < 3) : s.rejoinFails = (s.modPair Pair.retrying).raiseT blkPair 0x17 .u := by
  have told := raiseT_reported (s.modPair Pair.retrying) blkPair 0x17 0 .u nofun
  refine if_neg fun last => ?_
  have same : 3 < s.pair.retries + 1 := last.trans_eq (congrArg Pair.retries told.pair)
  omega

theorem execCatchUp_fails {c : Snap} {bytes : Nat} {poison : Bool} (arrived : s.pair.rejoin = 3) (whole : s.pair.snap = some c)
    (due : c.tick + 2 ≤ s.time.tick) (refused : s.refusesSnap c bytes poison = true) (more : s.pair.retries < 3) :
    execCatchUp bytes poison s = .next ((s.quiet.modPair Pair.retrying).raiseT blkPair 0x17 .u) := by
  rw [execCatchUp_snap arrived whole, if_neg (by omega), if_pos (show s.quiet.refusesSnap c bytes poison = true from refused),
    rejoinFails_retries (s := s.quiet) more]

/-! ### Refill and return to service -/

theorem execRefill_covered (refills : s.pair.rejoin = 5) (covered : ∀ e ∈ s.aln.outs, e.2.covered = true) :
    execRefill s = .next { s with sent := [], pair := { s.pair with rejoin := 6, matchRun := 0 } } :=
  congrArg Host.Outcome.next (if_pos ⟨refills, List.all_eq_true.2 covered⟩)

theorem execInSync_enters (matching : s.pair.rejoin = 6) (run : 64 ≤ s.pair.matchRun) (morning : s.top.state = .morning) (ready : s.serviceReady = true)
    (stays : s.top.leaveAt = none) (sound : s.top.classF = false) : execInSync s = .next ((s.quiet.enterNoon 2).modPair fun p =>
      { p with inSync := true, rejoin := 0, joinS := none, caught := false, retries := 0, fenced := false }) :=
  congrArg Host.Outcome.next (if_pos ⟨matching, run, morning, ready, stays, by rw [show s.quiet.top.classF = false from sound]; rfl⟩)

end Sys2Proof.Machine
end

section
/-! PROOF. The mirror at a SHADOW and the rejoin: O59. -/

namespace Sys2Proof.Machine

/-- Settles O59: each record of the mirror and each command of the rejoin, in the order of the statement. -/
theorem theMirrorKeepsTheShadowEqual : Obligations.TheMirrorKeepsTheShadowEqual := by
  unfold Obligations.TheMirrorKeepsTheShadowEqual
  intro s v r st l j sr c d us ws cs n x ep poison noShadow
  refine ⟨fun adopts before nothing => ?_, execVerdict_one, execMiss_one, fun adopts before => ?_, fun adopts uncut => ?_, fun adopts uncut inside => ?_,
    fun adopts before filled plain => ?_, fun paired shadow => ⟨_, execBeacon_shadow paired shadow n ep, rfl⟩,
    fun paired active => execStatusRecord_active paired active st, fun paired other => execFence_noted paired other n ep,
    fun paired shadow alone inSync noon => execFence_takes paired shadow alone inSync noon n ep, fun paired inTime own => ?_,
    fun paired inTime own differ => ?_, fun on waits past => ?_, fun active noon mate fails first => ?_, execMirrorSilence_shadow,
    fun paired agrees asks active noon => ?_, fun paired agrees names waits => ⟨_, execJoin_answered paired agrees names waits, rfl, rfl⟩,
    execJoin_refused noShadow, fun active taken named => ?_, execSnapRecord_whole, fun arrived whole early => ?_,
    fun arrived whole accepted due => ?_, fun computing holds reached => ?_, fun arrived whole due refused more => ?_, execRefill_covered,
    fun matching run morning ready stays sound => ⟨_, execInSync_enters matching run morning ready stays sound, rfl, rfl, rfl, rfl, rfl⟩⟩
  · refine ⟨_, execVerdict_nothing adopts before nothing, (noted_present _ v).trans nothing, ?_⟩
    rw [← nothing]
    rfl
  · obtain ⟨_, woken⟩ := gatherPut_woken s.quiet.heardMirror r.ctx r.tick (s.repairData r)
    refine ⟨_, execRepair_puts adopts before, ?_, List.mem_cons_self .., ?_⟩ <;> rw [woken]
    · exact tfind_tset_same _ _ _
    · rfl
  · exact ⟨_, execTdmRecord_takes adopts uncut ws, List.mem_cons_self .., foldS_view State.dict _ (tdmPut_dict n s.spt ws) s.quiet.heardMirror _⟩
  · refine ⟨_, execTdmRecord_word adopts uncut inside 5, ?_⟩
    have put := tdmPut_gather n s.spt [(ep * s.spt + x, 5)] s.quiet.heardMirror ep
    refine (congrArg (Option.map fun d : TickData => d.samples[x]?) put).trans ?_
    exact congrArg some (mirrorWords_one inside ep 5)
  · obtain ⟨sealed, vals, pair⟩ := putSealed_some (s.quiet.heardMirror.modPair fun p => { p with commitRec := n :: p.commitRec }) n filled
    refine ⟨_, execCommitRecord_seals adopts before plain, sealed, ?_, vals⟩
    rw [pair]
    exact List.mem_cons_self ..
  · exact ⟨_, execLynx_match paired inTime own, rfl, compared_streak_match _ _, rfl, rfl, tfind_tdel_same _ _⟩
  · obtain ⟨t, done, pair, counted, uncounted⟩ := execLynx_diverges noShadow paired inTime own differ
    refine ⟨t, done, ?_, ?_, ?_, counted, uncounted⟩ <;> rw [pair]
    · rfl
    · rfl
    · exact compared_mism_diverge _ _
  · exact ⟨_, execLynxAbsent_notes on waits past, rfl, rfl, rfl, tfind_tdel_same _ _⟩
  · obtain ⟨recorded, pair⟩ := raiseT_pair (u := s.quiet.modPair fun p => { p with lynxLostAt := some s.time.tick }) noShadow rfl rfl rfl 0x16 (cls := .u) nofun
    exact ⟨_, execLynxLost_active active noon mate fails first, recorded, pair⟩
  · exact ⟨_, execJoin_asked paired agrees asks active noon, (sendJoin_onLink _ _).pair⟩
  · exact ⟨_, execCapture_sends active taken named, (sendRecord_onLink _ _ _ _ _ _).pair⟩
  · exact (execCatchUp_snap arrived whole x poison).trans (if_pos early)
  · obtain ⟨gone, stage⟩ := caughtUp_pair s.quiet c
    refine ⟨_, execCatchUp_loads arrived whole accepted due, gone, stage, fun reached unsealed unowed => ?_⟩
    obtain ⟨pair, dict, dp⟩ := caughtUp_reached (s := s.quiet) reached unsealed unowed
    rw [pair, dict, dp]
    exact ⟨rfl, rfl, rfl, rfl, rfl⟩
  · obtain ⟨pair, dict, dp⟩ := catchOn_reached (s := s.quiet) reached
    refine ⟨_, execCatchUp_goesOn computing holds x, ?_, ?_, dict, dp⟩ <;> rw [pair] <;> rfl
  · obtain ⟨recorded, pair⟩ := raiseT_pair (u := s.quiet.modPair Pair.retrying) noShadow rfl rfl rfl 0x17 (cls := .u) nofun
    exact ⟨_, execCatchUp_fails arrived whole due refused more, recorded, pair⟩

end Sys2Proof.Machine
end

section
/-! PROOF. One-time-programmable storage (R363, R369, R385): O6. -/

namespace Sys2Proof.Machine

/-- Settles O6: it is part of what every command respects. -/
theorem oneTimeStorageOnlyBurns : Obligations.OneTimeStorageOnlyBurns :=
  fun _ _ _ next => (keeps_of_exec_eq_next next).otp

end Sys2Proof.Machine
end

section
/-! PROOF. Events of SEC, and sessions: handshakes, idleness, credentials that expire (R370, R372, R373, R375, R389): for O54. -/

namespace Sys2Proof.Machine

/-! ### Events of SEC (R389, R394) -/

theorem Reported.sec {s t : State} (h : Reported s t) : t.sec = s.sec := by obtain ⟨_, _, _, _, _, rfl⟩ := h; rfl

/-- An event of class C or U that SEC reports leaves the rest of SEC. -/
theorem secEvent_sec (s : State) (ev who : Nat) {cls : EvClass} (notF : cls ≠ .f) : (s.secEvent ev cls who).sec = s.sec :=
  (raiseAs_reported s blkSec ev who s.tickDetail cls none notF).sec

/-- An event of class C or U that SEC reports after a change within it. -/
theorem secEvent_recorded {s : State} (noShadow : s.top.shadows = []) (f : Sec → Sec) (ev who : Nat) {cls : EvClass} (notF : cls ≠ .f) :
    Recorded s ((s.quiet.modSec f).secEvent ev cls who) blkSec ev cls s.tickDetail :=
  raiseAs_recorded (s := s) (u := s.quiet.modSec f) rfl noShadow blkSec ev who s.tickDetail notF

theorem secEvent_sent_c {s : State} (noShadow : s.top.shadows = []) (ev who : Nat) : (s.secEvent ev .c who).sent = s.sent :=
  raiseAs_sent_c s noShadow blkSec ev who s.tickDetail

/-! ### Free bytes -/

@[simp] theorem freeBytes_length (u : Config.Use) (ctr n : Nat) : (freeBytes u ctr n).length = n := by simp [freeBytes]

@[simp] theorem keyBytes_length (ctr k : Nat) : (keyBytes ctr k).length = 32 := by simp [keyBytes]

/-! ### Handshakes (R372, R373, R389) -/

variable {s : State}

/-- The SESSION identifier that a HELLO gets (R372). -/
def State.helloId (s : State) : Nat :=
  unusedId (s.sec.sessions.map (·.id) ++ s.sec.handshakes.map (·.1)) (Config.free64 .trng s.freeCtr 200).toNat

theorem execHandshakeHello_replies {h : HelloMsg} (takes : s.takesHandshake h.src h.ms = true) (room : s.sec.sessions.length < 32) :
    execHandshakeHello h s = .next { s with
      freeCtr := s.freeCtr + 1
      sent := [.response (s.helloId + 2) 0 stOk
        (freeBytes .trng s.freeCtr 80 ++ beBytes 4 s.helloId ++ s.sec.devCert ++ s.sec.idkPub ++ freeBytes .sealed s.freeCtr 64)]
      sec := { s.sec with handshakes := (s.helloId, h.src, h.role) :: s.sec.handshakes } } := by
  have taken : (!s.quiet.takesHandshake h.src h.ms) = false := congrArg (!·) takes
  have stays : ¬ 32 ≤ s.quiet.sec.sessions.length := Nat.not_le.2 room
  have allKept : (s.sec.sessions.filter fun y => some y.id != none) = s.sec.sessions := List.filter_eq_self.2 fun _ _ => rfl
  unfold execHandshakeHello
  dsimp only
  rw [taken, if_neg Bool.false_ne_true, if_neg stays]
  refine congrArg Host.Outcome.next ?_
  simp only [State.modSec, State.emit, State.fresh, State.quiet, List.nil_append, allKept]
  rfl

/-- The session that an accepted credential opens for a handshake that asked for a role (R372). -/
def State.openedSession (s : State) (p : ProveMsg) (asked : Nat) : Session :=
  { id := p.session, role := sessionRole p.role asked, kind := 0, src := p.src, txSeq := 1, used := s.sec.useCtr + 1, slot := s.sec.slot
    certId := p.certId, notAfter := p.notAfter, keyIn := keyBytes s.freeCtr 0, keyOut := keyBytes s.freeCtr 1 }

theorem execHandshakeProve_opens {p : ProveMsg} {hs : Nat × Nat × Nat} (owned : s.sec.life = 1) (heard : s.sec.ignores p.src p.ms = false)
    (begun : s.sec.handshakes.find? (fun x => x.1 == p.session && x.2.1 == p.src) = some hs) (noPeer : p.peer = none) (ok : s.proveOk p = true) :
    execHandshakeProve p s = .next { s with
      freeCtr := s.freeCtr + 1
      sent := [.response (p.session + 2) 0 stOk []]
      sec := { s.sec with
        handshakes := s.sec.handshakes.filter fun y => y.1 != p.session
        sessions := s.openedSession p hs.2.2 :: s.sec.sessions
        useCtr := s.sec.useCtr + 1 } } := by
  have ok' : s.quiet.proveOk p = true := ok
  unfold execHandshakeProve
  dsimp only
  rw [if_neg (by simp [owned, heard])]
  simp only [State.quiet] at ok' ⊢
  rw [begun]
  simp only [ok', noPeer]
  simp [State.modSec, State.emit, State.fresh, State.openedSession, b2n]

theorem handshakeFails_counts (noShadow : s.top.shadows = []) (src ms : Nat) : (s.handshakeFails src ms).sent = s.sent ∧
    (s.handshakeFails src ms).sec.sessions = s.sec.sessions ∧ (s.handshakeFails src ms).sec.hsFail = (s.sec.hsFail + 1) % 2 ^ 32 := by
  unfold State.handshakeFails
  dsimp only
  split
  · rw [secEvent_sec _ _ _ EvClass.noConfusion, secEvent_sent_c]
    · exact ⟨rfl, rfl, rfl⟩
    · exact noShadow
  · exact ⟨rfl, rfl, rfl⟩

theorem execHandshakeProve_unknown {p : ProveMsg} (owned : s.sec.life = 1) (heard : s.sec.ignores p.src p.ms = false)
    (unknown : ∀ x ∈ s.sec.handshakes, x.1 ≠ p.session) : execHandshakeProve p s = .next (s.quiet.handshakeFails p.src p.ms) := by
  have absent : s.sec.handshakes.find? (fun x => x.1 == p.session && x.2.1 == p.src) = none :=
    List.find?_eq_none.2 fun x hx => by simp [unknown x hx]
  unfold execHandshakeProve
  dsimp only
  rw [if_neg (by simp [owned, heard])]
  simp only [State.quiet]
  rw [absent]

theorem sessionRole_of_ranked {cred asked : Nat} (credRanks : cred ≠ 4) (askedRanks : asked ≠ 4) : sessionRole cred asked = min cred asked := by
  unfold sessionRole
  split
  · subst_vars; exact (Nat.min_self _).symm
  · rw [if_neg (by simp [credRanks, askedRanks])]

/-- Where the credential of each session of an identifier has expired, those sessions end and no other (R375). -/
theorem execCredentialExpiry_ends {n : Nat} (todSet : s.time.todSet = true)
    (expired : ∀ y ∈ s.sec.sessions, y.id = n → y.notAfter ≠ 0 ∧ y.notAfter < s.nowNs) :
    ∃ t, execCredentialExpiry n s = .next t ∧ t.sec.sessions = s.sec.sessions.filter fun y => y.id != n := by
  refine ⟨_, rfl, List.filter_congr fun y hy => ?_⟩
  change (!(y.id == n && y.notAfter != 0 && s.time.todSet && decide (y.notAfter < s.nowNs))) = (y.id != n)
  by_cases same : y.id = n
  · obtain ⟨bounded, past⟩ := expired y hy same
    simp [same, bounded, past, todSet]
  · simp [bne, beq_false_of_ne same]

end Sys2Proof.Machine
end

section
/-! PROOF. Grants and the ownership of the engine (R370, R371, R375, R385-R389): for O54. -/

namespace Sys2Proof.Machine

variable {s : State}

/-! ### Grants (R386-R388) -/

theorem stopDebug_eq (s : State) : s.stopDebug = { s with jtag := s.stopDebug.jtag } := by
  unfold State.stopDebug
  split <;> rfl

/-- SEC when a grant ends: the Service sessions end with it. -/
def Sec.ungranted (c : Sec) : Sec := { c with grant := none, sessions := c.sessions.filter fun y => y.role != 4 }

theorem endGrant_of_grant (granted : s.sec.grant.isSome = true) : s.endGrant = (s.modSec Sec.ungranted).stopDebug := by
  obtain ⟨g, running⟩ := Option.isSome_iff_exists.1 granted
  unfold State.endGrant
  rw [running]
  rfl

theorem stopDebug_jtag_running (other : s.jtag.ir ≠ .debug) : s.stopDebug.jtag = s.jtag := by
  unfold State.stopDebug
  rw [if_neg fun both => other both.1]

/-- Without a grant, the fuse of JTAG_DEBUG alone stops JTAG debug (R387). -/
theorem ungranted_stopDebug_jtag (debug : s.jtag.ir = .debug) (burnt : s.sec.fuses.testBit 0 = true) :
    (s.modSec Sec.ungranted).stopDebug.jtag = { s.jtag with ir := .bypass } := by
  have closed : (s.modSec Sec.ungranted).closed 0 = true := by
    unfold State.closed
    rw [bitAt_eq_testBit]
    exact congrArg (· && true) burnt
  unfold State.stopDebug
  rw [if_pos ⟨debug, closed⟩]
  rfl

/-- Whether a grant runs or not, its end leaves the rest of SEC but the sessions. -/
theorem endGrant_sec (s : State) : ∃ l, s.endGrant.sec = { s.sec with grant := none, sessions := l } := by
  cases running : s.sec.grant with
  | none =>
    refine ⟨s.sec.sessions, ?_⟩
    unfold State.endGrant
    simp only [running]
    rw [← running]
  | some g =>
    refine ⟨s.sec.ungranted.sessions, ?_⟩
    rw [endGrant_of_grant (by rw [running]; rfl), stopDebug_eq]
    rfl

/-- The two commands that end a grant. -/
theorem grant_ends (granted : s.sec.grant.isSome = true) {c : Instr} (ends : c ∈ [Instr.closeNow, Instr.grantExpiry]) :
    exec c s = .next (s.quiet.modSec Sec.ungranted).stopDebug := by
  have ended : exec c s = .next s.quiet.endGrant := by
    obtain rfl | rfl : c = .closeNow ∨ c = .grantExpiry := by simpa using ends
    · rfl
    · rfl
  rw [ended, endGrant_of_grant (s := s.quiet) granted]

theorem execChallenge_starts (healthy : s.sec.trngOk = true) (few : s.sec.openFails < 4) (n : Nat) : execChallenge n s = .next { s with
    sent := [], freeCtr := s.freeCtr + 1, sec := { s.sec with challenge := some (beNat (freeBytes .trng s.freeCtr 16)) } } := by
  have tries : ¬ 4 ≤ s.sec.openFails := Nat.not_le.2 few
  unfold execChallenge
  dsimp only
  rw [if_neg (by simp [healthy, tries])]
  simp [State.freshNonce, State.modSec, State.fresh, State.quiet, tries]

theorem execResponse_accepted {o : OpenResp} (ok : s.responseOk o = true) : execResponse o s = .next ((s.quiet.modSec fun x => { x with
    challenge := none, grant := some ⟨o.access, o.role, o.expiry⟩
    sessions := if bitAt o.access 1 then x.sessions else x.sessions.filter fun y => y.role != 4 }).secEvent 0x1C .c o.access) :=
  if_pos ok

theorem execResponse_refused {o : OpenResp} (bad : s.responseOk o = false) : execResponse o s =
    .next ((s.quiet.modSec fun x => { x with challenge := none, openFails := x.openFails + 1 }).secEvent 0x18 .c 0) :=
  if_neg (ne_true_of_eq_false bad)

/-! ### Ownership (R370, R371) -/

theorem tget_eq_tfind_getD {α : Type} (d : α) (t : Tab α) (i : Nat) : tget d t i = (tfind t i).getD d := by
  induction t with
  | nil => rfl
  | cons e t ih => obtain ⟨k, v⟩ := e; by_cases h : k = i <;> simp [tget, tfind, h, ih]

theorem tget_tdel_other {α : Type} (d : α) (t : Tab α) {i j : Nat} (h : j ≠ i) : tget d (tdel t i) j = tget d t j := by
  rw [tget_eq_tfind_getD, tfind_tdel_other t h, tget_eq_tfind_getD]

theorem execNonce_draws (healthy : s.sec.trngOk = true) : execNonce s = .next { s with
    sent := [], freeCtr := s.freeCtr + 1, sec := { s.sec with nonce := some (beNat (freeBytes .trng s.freeCtr 16)) } } :=
  if_neg (by simp [healthy])

@[simp] theorem State.quiet_requestReaches (s : State) (via : OwnerVia) : s.quiet.requestReaches via = s.requestReaches via := rfl
@[simp] theorem State.quiet_requestOk (s : State) (r : OwnerReq) : s.quiet.requestOk r = s.requestOk r := rfl
@[simp] theorem State.quiet_byOwner (s : State) (r : OwnerReq) : s.quiet.byOwner r = s.byOwner r := rfl

theorem execEnrol_enrols {r : OwnerReq} {k : Nat} (reaches : s.requestReaches r.via = true) (free : s.sec.freeSlot = some k) (ok : s.requestOk r = true)
    (op : r.op = 1) (unowned : s.sec.life = 0) (outside : r.via ≠ .session) (own : r.signer = r.newHash) (burnt : r.burnOk = true) :
    execEnrol r s = .next (s.quiet.fresh.modSec fun x => { x.takeSlot k r.newHash with
      receipt := s.dict.serial ++ [b8 k, 0, 0, 0] ++ r.newHash ++ freeBytes .sealed s.freeCtr 64 }) := by
  unfold execEnrol
  simp [reaches, free, ok, op, unowned, outside, own, burnt]

theorem execRotate_rotates {r : OwnerReq} {k : Nat} (reaches : s.requestReaches r.via = true) (free : s.sec.freeSlot = some k) (ok : s.requestOk r = true)
    (op : r.op = 2) (owner : s.byOwner r = true) (burnt : r.burnOk = true) :
    execRotate r s = .next (s.quiet.endGrant.modSec fun x => { x.takeSlot k r.newHash with
      ownerHash := tdel (x.takeSlot k r.newHash).ownerHash x.slot, sessions := [], handshakes := [] }) := by
  unfold execRotate
  simp [reaches, free, ok, op, owner, burnt]

/-- SEC after a rotation (R370, R375, R387). -/
theorem execRotate_sec {r : OwnerReq} {k : Nat} (reaches : s.requestReaches r.via = true) (free : s.sec.freeSlot = some k) (ok : s.requestOk r = true)
    (op : r.op = 2) (owner : s.byOwner r = true) (burnt : r.burnOk = true) : ∃ t, execRotate r s = .next t ∧ t.sec = { s.sec.takeSlot k r.newHash with
      grant := none, ownerHash := tdel (tset s.sec.ownerHash k r.newHash) s.sec.slot, sessions := [], handshakes := [] } := by
  obtain ⟨l, sec⟩ := endGrant_sec s.quiet
  refine ⟨_, execRotate_rotates reaches free ok op owner burnt, ?_⟩
  rw [State.modSec_sec, sec]
  rfl

theorem execRelease_releases {r : OwnerReq} (reaches : s.requestReaches r.via = true) (ok : s.requestOk r = true) (op : r.op = 3)
    (owner : s.byOwner r = true) (burnt : r.burnOk = true) :
    execRelease r s = .next (s.quiet.endGrant.eraseKeys.modSec fun x => { x with
      life := if x.freeSlot.isSome then 0 else 2, ownerHash := tdel x.ownerHash x.slot, nonce := none, sessions := [], handshakes := [] }) := by
  unfold execRelease
  simp [reaches, ok, op, owner, burnt]

/-- SEC and the configuration store after a release (R370, R375, R387). -/
theorem execRelease_sec {r : OwnerReq} (reaches : s.requestReaches r.via = true) (ok : s.requestOk r = true) (op : r.op = 3)
    (owner : s.byOwner r = true) (burnt : r.burnOk = true) : ∃ t, execRelease r s = .next t ∧ t.sec = { s.sec with
      life := if s.sec.freeSlot.isSome then 0 else 2, keys := [], grant := none
      ownerHash := tdel s.sec.ownerHash s.sec.slot, nonce := none, sessions := [], handshakes := [] } ∧ t.top.cfgA = none ∧ t.top.cfgB = none := by
  obtain ⟨l, sec⟩ := endGrant_sec s.quiet
  refine ⟨_, execRelease_releases reaches ok op owner burnt, ?_, rfl, rfl⟩
  rw [State.modSec_sec, State.eraseKeys, sec]
  rfl

theorem execRelease_refused {r : OwnerReq} (reaches : s.requestReaches r.via = true) (bad : s.requestOk r = false) :
    execRelease r s = .next (s.quiet.requestFails 0x17 .c) := by
  unfold execRelease
  simp [reaches, bad]

theorem execCommitFw_raises (newer : s.sec.secMin < s.fab.runSecVer) :
    execCommitFw true s = .next (s.quiet.modSec fun x => { x with secMin := s.fab.runSecVer }) :=
  if_neg (Nat.not_le.2 newer)

end Sys2Proof.Machine
end

section
/-! PROOF. Media keys, port keys and the mirror key (R377, R378, R380, R406): for O54. -/

namespace Sys2Proof.Machine

variable {s : State}

@[simp] theorem State.quiet_mediaKey (s : State) (n : Nat) : s.quiet.mediaKey n = s.mediaKey n := rfl

theorem setKey_mediaKey_same (s : State) (n : Nat) (f : KeySlot → KeySlot) : (s.setKey n f).mediaKey n = f (s.mediaKey n) :=
  tget_tmod_same _ _ _ _

theorem setKey_mediaKey_other (s : State) {n m : Nat} (other : m ≠ n) (f : KeySlot → KeySlot) : (s.setKey n f).mediaKey m = s.mediaKey m :=
  tget_tmod_other _ _ _ _ _ other

theorem mediaKey_of_sec {s t : State} (same : t.sec = s.sec) (n : Nat) : t.mediaKey n = s.mediaKey n :=
  congrArg (fun c : Sec => tget ({} : KeySlot) c.keys n) same

theorem switchDue_of_past {x : KeySlot} {tick : Nat} (staged : x.next ≠ []) (past : x.switch + 2 ≤ tick) : x.switchDue tick = true := by
  simp [KeySlot.switchDue, staged, past]

/-! ### The key members of the store after a switch (R378) -/

theorem movedKey_cur (v : Tab Val) (obj m : Nat) (k : List Byte) : tfind (movedKey v obj m k) (dictKey obj m 0) = some (.bytes k) := by
  have apart : dictKey obj m 0 ≠ dictKey obj (m + 1) 0 := by unfold dictKey; omega
  exact (tfind_tdel_other _ apart).trans (tfind_tset_same _ _ _)

theorem movedKey_next (v : Tab Val) (obj m : Nat) (k : List Byte) : tfind (movedKey v obj m k) (dictKey obj (m + 1) 0) = none :=
  tfind_tdel_same _ _

theorem execKeySwitch_media {n : Nat} (runs : s.time.running = true) (due : (s.mediaKey n).switchDue s.time.tick = true) :
    execKeySwitch (.media n) s = .next ((s.quiet.setKey n KeySlot.switched).modDict fun d =>
      { d with vals := movedKey d.vals (0xE400 + n) 1 (s.mediaKey n).next }) :=
  if_neg (by simp [runs, due])

theorem execKeySwitch_port {n : Nat} (runs : s.time.running = true) (due : (tget ({} : KeySlot) s.sec.portKeys n).switchDue s.time.tick = true) :
    execKeySwitch (.port n) s = .next ((s.quiet.modSec fun c =>
      { c with portKeys := tset c.portKeys n (tget ({} : KeySlot) s.sec.portKeys n).switched }).modDict fun d =>
        { d with vals := movedKey d.vals (0xC300 + n) 2 (tget ({} : KeySlot) s.sec.portKeys n).next }) :=
  if_neg (by simp [runs, due])

/-- An event about a media key leaves the key as it has just been changed. -/
theorem setKey_secEvent (noShadow : s.top.shadows = []) (n : Nat) (f : KeySlot → KeySlot) (ev : Nat) {cls : EvClass} (notF : cls ≠ .f) :
    ((s.quiet.setKey n f).secEvent ev cls n).mediaKey n = f (s.mediaKey n) ∧
      Recorded s ((s.quiet.setKey n f).secEvent ev cls n) blkSec ev cls s.tickDetail :=
  ⟨(mediaKey_of_sec (secEvent_sec _ ev n notF) n).trans (setKey_mediaKey_same s.quiet n f),
    raiseAs_recorded (s := s) (u := s.quiet.setKey n f) rfl noShadow blkSec ev n s.tickDetail notF⟩

theorem execKeyAge_ages {n : Nat} (old : 1879048192 ≤ (s.mediaKey n).units) (first : (s.mediaKey n).aged = false) :
    execKeyAge (.media n) s = .next ((s.quiet.setKey n fun x => { x with aged := true }).secEvent 0x1A .c n) :=
  if_pos ⟨old, congrArg (!·) first⟩

theorem execKeyExpired_expires {n : Nat} (last : 2 ^ 31 ≤ (s.mediaKey n).units + 1) (first : (s.mediaKey n).expired = false) :
    execKeyExpired (.media n) s = .next ((s.quiet.setKey n fun x => { x with expired := true }).secEvent 0x1B .u n) :=
  if_pos ⟨last, congrArg (!·) first⟩

/-! ### The mirror key (R377) -/

/-- A new mirror key is agreed for a free tick at least 64 ahead. -/
theorem execMirrorRekey_agrees (paired : s.paired = true) (runs : s.time.running = true) (unagreed : s.sec.mirrorNext = none) (first : s.pair.rekey = none) :
    ∃ a, s.time.tick + 64 ≤ a ∧ execMirrorRekey s = .next { s with
      sent := [], freeCtr := s.freeCtr + 1
      sec := { s.sec with mirrorNext := some a, mirrorAgreed := keyBytes s.freeCtr 0 }
      pair := { s.pair with rekey := some s.time.tick } } := by
  have paired' : s.quiet.paired = true := paired
  refine ⟨s.time.tick + 64 + (s.quiet.freeBits .measured 16).2, Nat.le_add_right _ _, ?_⟩
  unfold execMirrorRekey
  simp only [State.quiet] at paired' ⊢
  simp [unagreed, first, paired', runs]
  rfl

/-- A key agreed before applies once its tick has come, and no other is due yet. -/
theorem execMirrorRekey_applies {a b : Nat} (agreed : s.sec.mirrorNext = some a) (reached : a ≤ s.time.tick) (last : s.pair.rekey = some b)
    (early : s.time.tick < b + 2 ^ 24) : execMirrorRekey s = .next { s with
      sent := [], sec := { s.sec with mirrorGen := s.sec.mirrorGen + 1, mirrorNext := none, mirrorKey := s.sec.mirrorAgreed } } := by
  have notDue : ¬ b + 16777216 ≤ s.time.tick := Nat.not_le.2 early
  unfold execMirrorRekey
  simp [State.quiet, State.modSec, agreed, reached, last, notDue]

end Sys2Proof.Machine
end

section
/-! PROOF. Sessions, owners, grants and keys: O54. -/

namespace Sys2Proof.Machine

/-- Settles O54: sessions, then ownership, closures, grants and keys, one by one. -/
theorem ownersSessionsAndKeysAreManaged : Obligations.OwnersSessionsAndKeysAreManaged := by
  unfold Obligations.OwnersSessionsAndKeysAreManaged
  intro s h p r o hs n k noShadow
  refine ⟨fun takes room => ?_, fun owned heard begun noPeer ok => ?_, fun owned heard unknown => ?_, rfl, fun todSet expired => ?_, fun healthy => ?_,
    fun reaches free ok op unowned outside own burnt => ?_, fun reaches free ok op owner burnt => ?_, fun reaches ok op owner burnt => ?_,
    fun reaches bad => ?_, rfl, execCommitFw_raises, fun granted c ends => ?_, fun healthy few => ?_, fun ok => ?_, fun bad => ?_,
    fun runs staged past => ?_, fun runs staged past => ?_, fun old first => ?_, fun last first => ?_, ?_, fun paired runs unagreed first => ?_,
    fun a b => execMirrorRekey_applies⟩
  · exact ⟨_, s.helloId, freeBytes .trng s.freeCtr 80, freeBytes .sealed s.freeCtr 64, execHandshakeHello_replies takes room, rfl,
      freeBytes_length .., freeBytes_length .., rfl⟩
  · exact ⟨_, _, execHandshakeProve_opens owned heard begun noPeer ok, rfl, rfl, rfl, rfl, sessionRole_of_ranked, rfl, rfl, keyBytes_length ..,
      keyBytes_length .., fun x hx => by simpa using (List.mem_filter.1 hx).2⟩
  · exact ⟨_, execHandshakeProve_unknown owned heard unknown, handshakeFails_counts (s := s.quiet) noShadow p.src p.ms⟩
  · obtain ⟨t, done, sessions⟩ := execCredentialExpiry_ends todSet expired
    refine ⟨t, done, fun y hy => ?_, fun y hy other => ?_⟩
    · rw [sessions] at hy
      simpa using (List.mem_filter.1 hy).2
    · rw [sessions]
      exact List.mem_filter.2 ⟨hy, by simpa using other⟩
  · exact ⟨_, execNonce_draws healthy, rfl, rfl⟩
  · refine ⟨_, execEnrol_enrols reaches free ok op unowned outside own burnt, rfl, rfl, rfl, rfl, tget_tset_same _ _ _ _, List.take_left' ?_⟩
    simp only [List.length_append, List.length_cons, List.length_nil]
  · obtain ⟨t, done, sec⟩ := execRotate_sec reaches free ok op owner burnt
    refine ⟨t, done, congrArg Sec.life sec, congrArg Sec.slot sec, congrArg Sec.used sec, congrArg Sec.nonce sec, fun moved => ?_,
      congrArg Sec.sessions sec, congrArg Sec.grant sec⟩
    rw [sec]
    exact ⟨(tget_tdel_other _ _ moved).trans (tget_tset_same _ _ _ _), tfind_tdel_same _ _⟩
  · obtain ⟨t, done, sec, cfgA, cfgB⟩ := execRelease_sec reaches ok op owner burnt
    exact ⟨t, done, congrArg Sec.life sec, congrArg Sec.keys sec, congrArg Sec.sessions sec, congrArg Sec.grant sec, cfgA, cfgB⟩
  · exact ⟨_, execRelease_refused reaches bad, secEvent_recorded noShadow _ 0x17 0 EvClass.noConfusion, secEvent_sec _ _ _ EvClass.noConfusion⟩
  · exact ⟨_, grant_ends granted ends, stopDebug_eq _, fun other => stopDebug_jtag_running other, ungranted_stopDebug_jtag (s := s.quiet)⟩
  · exact ⟨_, execChallenge_starts healthy few n, rfl, rfl⟩
  · refine ⟨_, execResponse_accepted ok, ?_, ?_, secEvent_recorded noShadow _ 0x1C o.access EvClass.noConfusion⟩ <;>
      rw [secEvent_sec _ _ _ EvClass.noConfusion] <;> rfl
  · exact ⟨_, execResponse_refused bad, secEvent_sec _ _ _ EvClass.noConfusion, secEvent_recorded noShadow _ 0x18 0 EvClass.noConfusion⟩
  · have switched := setKey_mediaKey_same s.quiet n KeySlot.switched
    refine ⟨_, execKeySwitch_media runs (switchDue_of_past staged past), ?_, ?_, ?_, fun m other => setKey_mediaKey_other s.quiet other _,
      movedKey_cur _ _ _ _, movedKey_next _ _ _ _⟩
    · exact congrArg KeySlot.cur switched
    · exact congrArg KeySlot.next switched
    · exact congrArg KeySlot.units switched
  · have switched := tget_tset_same ({} : KeySlot) s.sec.portKeys n (tget ({} : KeySlot) s.sec.portKeys n).switched
    refine ⟨_, execKeySwitch_port runs (switchDue_of_past staged past), ?_, ?_, ?_⟩
    · exact congrArg KeySlot.cur switched
    · exact congrArg KeySlot.next switched
    · exact congrArg KeySlot.an switched
  · exact ⟨_, execKeyAge_ages old first, setKey_secEvent noShadow n _ 0x1A EvClass.noConfusion⟩
  · exact ⟨_, execKeyExpired_expires last first, setKey_secEvent noShadow n _ 0x1B EvClass.noConfusion⟩
  · exact ⟨_, rfl, secEvent_sec _ _ _ EvClass.noConfusion, secEvent_recorded noShadow _ 0x14 0 EvClass.noConfusion⟩
  · obtain ⟨a, ahead, agrees⟩ := execMirrorRekey_agrees paired runs unagreed first
    exact ⟨_, a, agrees, rfl, ahead, rfl, rfl, keyBytes_length .., rfl⟩

end Sys2Proof.Machine
end

section
/-! PROOF. Links of ports go up and down, and their events (R395, R396, R404, R421): for O60. -/

namespace Sys2Proof.Machine

variable {s t : State}

theorem Reported.groups (h : Reported s t) : t.groups = s.groups := by obtain ⟨_, _, _, _, _, rfl⟩ := h; rfl
theorem Reported.group (h : Reported s t) (g : Nat) : t.group g = s.group g := congrArg (tget ({} : Group) · g) h.groups
theorem Reported.port (h : Reported s t) (p : Nat) : t.port p = s.port p := congrArg (tget ({} : Port) · p) h.ports

/-! ### Groups and ports, and what an update leaves of them -/

@[simp] theorem State.setPort_group (s : State) (p : Nat) (f : Port → Port) (g : Nat) : (s.setPort p f).group g = s.group g := rfl
@[simp] theorem State.countPort_group (s : State) (p i n g : Nat) : (s.countPort p i n).group g = s.group g := rfl
@[simp] theorem State.countTx_group (s : State) (p n g : Nat) : (s.countTx p n).group g = s.group g := rfl
@[simp] theorem State.emit_group (s : State) (e : Emission) (g : Nat) : (s.emit e).group g = s.group g := rfl
@[simp] theorem State.giveCredit_group (s : State) (g vc n k : Nat) : (s.giveCredit g vc n).group k = s.group k := rfl
@[simp] theorem State.ackLanes_group (s : State) (g mask marker k : Nat) : (s.ackLanes g mask marker).group k = s.group k := rfl
@[simp] theorem State.quiet_group (s : State) (g : Nat) : s.quiet.group g = s.group g := rfl
@[simp] theorem State.setGroup_port (s : State) (g : Nat) (f : Group → Group) (p : Nat) : (s.setGroup g f).port p = s.port p := rfl
@[simp] theorem State.emit_port (s : State) (e : Emission) (p : Nat) : (s.emit e).port p = s.port p := rfl
@[simp] theorem State.giveCredit_port (s : State) (g vc n p : Nat) : (s.giveCredit g vc n).port p = s.port p := rfl
@[simp] theorem State.quiet_port (s : State) (p : Nat) : s.quiet.port p = s.port p := rfl

/-- Two changes of a group that agree on the group as it is. -/
theorem State.setGroup_congr {s : State} {g : Nat} {f h : Group → Group} (same : f (s.group g) = h (s.group g)) : s.setGroup g f = s.setGroup g h :=
  congrArg (fun x => { s with groups := tset s.groups g x }) same

/-! ### Changes of a port -/

theorem tset_tset_same {α : Type} (t : Tab α) (i : Nat) (x y : α) : tset (tset t i x) i y = tset t i y := by
  induction t with
  | nil => simp [tset]
  | cons e t ih => by_cases h : e.1 = i <;> simp [tset, h, ih]

theorem State.setPort_setPort (s : State) (p : Nat) (f h : Port → Port) : (s.setPort p f).setPort p h = s.setPort p fun x => h (f x) := by
  unfold State.setPort tmod
  dsimp only
  rw [tget_tset_same, tset_tset_same]

/-- A counter moves, and nothing else of any port. -/
theorem countPort_port (s : State) (p i n k : Nat) : ∃ c, (s.countPort p i n).port k = { s.port k with cnt := c } := by
  by_cases h : k = p
  · subst h
    exact ⟨_, State.port_setPort_same ..⟩
  · exact ⟨_, State.port_setPort_other _ _ _ _ h⟩

/-- A port changes, and an event of class C or U is reported: outside every shadow it is recorded, and the port has changed. -/
theorem setPort_event (noShadow : s.top.shadows = []) (p : Nat) (f : Port → Port) (b ev who detail : Nat) {cls : EvClass} (notF : cls ≠ .f) :
    Recorded s ((s.quiet.setPort p f).raiseAs b ev cls who detail none) b ev cls detail ∧
      ((s.quiet.setPort p f).raiseAs b ev cls who detail none).port p = f (s.port p) ∧
      ∀ k, k ≠ p → ((s.quiet.setPort p f).raiseAs b ev cls who detail none).port k = s.port k := by
  have reported := raiseAs_reported (s.quiet.setPort p f) b ev who detail cls none notF
  refine ⟨raiseAs_recorded (s := s) (u := s.quiet.setPort p f) rfl noShadow b ev who detail notF, ?_, fun k other => ?_⟩
  · exact (reported.port p).trans (State.port_setPort_same ..)
  · exact (reported.port k).trans (State.port_setPort_other _ _ _ _ other)

/-! ### The commands of a media port -/

theorem execLinkUp_media {p : Nat} {verified : Bool} (media : p < 32) (live : s.portLive p = true) (down : (s.port p).up = false) :
    execLinkUp p verified true s = .next ((s.quiet.setPort p fun x => { x with
      up := true, preempt := s.cfgOn (0xC000 + p) 22 && (!(s.cfgOn (0xC000 + p) 23) || verified) }).raiseAs (blkPort p) 0x10 .c p s.tickDetail none) := by
  have live' : s.quiet.portLive p = true := live
  unfold execLinkUp
  dsimp only
  rw [if_neg (by simp [live']), if_neg (Nat.not_le.2 media), if_neg (by simp), if_neg (by simp [down])]
  rfl

theorem execLinkDown_media {p : Nat} (media : p < 32) (up : (s.port p).up = true) :
    execLinkDown p s = .next ((s.quiet.setPort p fun x => { x with
      up := false, preempt := false, pausedCtl := false, pausedBulk := false, held := [], cnt := bump x.cnt 33 1 }).raiseAs
        (blkPort p) 0x11 .c p s.tickDetail none) := by
  unfold execLinkDown State.dropLink State.countPort
  dsimp only
  rw [if_neg (Nat.not_le.2 media), if_neg (by simp [up]), State.setPort_setPort]
  rfl

theorem execFecDegrade_counts {p corr uncorr : Nat} (fec : s.cfg (0xC000 + p) 4 = 4) :
    execFecDegrade p corr uncorr s = .next ((s.quiet.setPort p fun x => { x with cnt := bump (bump x.cnt 31 corr) 32 uncorr }).raiseAs
      (blkPort p) 0x12 .c p s.tickDetail none) := by
  have fec' : s.quiet.cfg (0xC000 + p) 4 = 4 := fec
  unfold execFecDegrade State.countPort
  dsimp only
  rw [if_pos fec', State.setPort_setPort]
  rfl

theorem execPreemptFail_stops {p : Nat} (up : (s.port p).up = true) (asked : s.cfgOn (0xC000 + p) 22 = true) (verifies : s.cfgOn (0xC000 + p) 23 = true) :
    execPreemptFail p s = .next ((s.quiet.setPort p fun x => { x with preempt := false }).raiseAs (blkPort p) 0x15 .c p s.tickDetail none) :=
  congrArg Host.Outcome.next (if_pos ⟨up, asked, verifies⟩)

/-! ### Eyes (R421) -/

/-- An eye wide enough, or of a media port, is noted with its least value. -/
theorem execEyeMeasure_notes {p eye : Nat} (small : eye < 65536)
    (wide : p < 32 ∨ s.cfg (0xC000 + p) 31 ≤ eye) :
    execEyeMeasure p eye s = .next (s.quiet.setPort p fun x => { x with
      eye := eye, low := if x.measured then Nat.min x.low eye else eye, measured := true }) := by
  have whole : eye % 2 ^ 16 = eye := Nat.mod_eq_of_lt small
  have notNarrow : ¬ (32 ≤ p ∧ eye < s.quiet.cfg (0xC000 + p) 31) := by
    change ¬ (32 ≤ p ∧ eye < s.cfg (0xC000 + p) 31)
    omega
  unfold execEyeMeasure
  dsimp only
  rw [whole, if_neg notNarrow]

/-- An eye that was measured before keeps its least value in LOW. -/
theorem eyeMeasured_port {p eye : Nat} (measured : (s.port p).measured = true) : (s.quiet.setPort p fun x => { x with
    eye := eye, low := if x.measured then Nat.min x.low eye else eye, measured := true }).port p =
      { s.port p with eye := eye, low := min (s.port p).low eye } := by
  rw [State.port_setPort_same, State.quiet_port, if_pos measured, ← measured]

/-- The state in which a peer link has reported an eye below MARGIN_MIN. -/
def State.eyeNarrow (s : State) (p eye : Nat) : State :=
  (s.quiet.setPort p fun x => { x with eye := eye, low := if x.measured then Nat.min x.low eye else eye, measured := true }).raiseAs
    (blkPort p) 0x16 .c p s.tickDetail none

theorem eyeNarrow_reported (s : State) (p eye : Nat) : Reported (s.quiet.setPort p fun x => { x with
    eye := eye, low := if x.measured then Nat.min x.low eye else eye, measured := true }) (s.eyeNarrow p eye) :=
  raiseAs_reported _ _ _ _ _ _ _ nofun

theorem eyeNarrow_eye (s : State) (p eye : Nat) : ((s.eyeNarrow p eye).port p).eye = eye := by
  rw [(eyeNarrow_reported s p eye).port, State.port_setPort_same]

theorem eyeNarrow_group (s : State) (p eye g : Nat) : (s.eyeNarrow p eye).group g = s.group g := (eyeNarrow_reported s p eye).group g

theorem eyeNarrow_groupOfLane (s : State) (p eye q : Nat) : (s.eyeNarrow p eye).groupOfLane q = s.groupOfLane q := by
  unfold State.groupOfLane State.cfg
  rw [(eyeNarrow_reported s p eye).dict]
  rfl

theorem execEyeMeasure_narrow {p eye : Nat} (link : 32 ≤ p) (narrow : eye < s.cfg (0xC000 + p) 31) (small : eye < 65536) :
    execEyeMeasure p eye s = .next (match s.groupOfLane (p - 32) with
      | some g => (s.eyeNarrow p eye).loseLane g (p - 32)
      | none => s.eyeNarrow p eye) := by
  have whole : eye % 2 ^ 16 = eye := Nat.mod_eq_of_lt small
  have narrow' : eye < s.quiet.cfg (0xC000 + p) 31 := narrow
  unfold execEyeMeasure
  dsimp only
  rw [whole, if_pos ⟨link, narrow'⟩, ← eyeNarrow_groupOfLane s p eye]
  rfl

end Sys2Proof.Machine
end

section
/-! PROOF. Groups start, take credits, send again and drain (R407, R410, R411, R415): for O60. -/

namespace Sys2Proof.Machine

variable {s : State} {g : Nat}

/-! ### A lane that comes up starts its group (R410, R413) -/

theorem lane_of_groupOfLane {q : Nat} (lane : s.groupOfLane q = some g) : bitAt (s.cfg (0xC200 + g) 1) q = true :=
  List.find?_some (p := fun k => bitAt (s.cfg (0xC200 + k) 1) q) lane

/-- The lanes of a group that a mask of one lane names. -/
theorem groupLanes_one {q : Nat} (small : q < 16) (lane : s.groupOfLane q = some g) : (s.groupLanes g).filter (fun k => bitAt (2 ^ q) k) = [q] := by
  have named : (s.groupLanes g).filter (fun k => bitAt (2 ^ q) k) = (List.range 16).filter (· == q) := by
    unfold State.groupLanes
    rw [List.filter_filter]
    refine List.filter_congr fun k _ => ?_
    rw [bitAt_eq_testBit, Nat.testBit_two_pow]
    by_cases h : q = k
    · subst h
      simp [lane_of_groupOfLane lane]
    · simp [h, Ne.symm h]
  rw [named, List.filter_beq, List.count_eq_one_of_mem List.nodup_range (List.mem_range.2 small)]
  rfl

theorem settleGroup_down (down : (s.group g).state = 0) : s.settleGroup g = s := if_pos down

/-- A lane joins an empty group that is down: it alone is active, and up. -/
theorem joinLanes_down {q : Nat} (small : q < 16) (lane : s.groupOfLane q = some g) (down : (s.group g).state = 0) (empty : (s.group g).active = []) :
    s.joinLanes g (2 ^ q) = (s.setGroup g fun x => { x with active := [q], adding := none }).setPort (32 + q) fun x => { x with up := true } := by
  have joined : s.setGroup g (fun x => { x with active := sortN ([q] ++ x.active), adding := none }) =
      s.setGroup g fun x => { x with active := [q], adding := none } := State.setGroup_congr (by rw [empty]; rfl)
  unfold State.joinLanes
  dsimp only
  rw [groupLanes_one small lane, joined]
  exact settleGroup_down (by simp [foldS, down])

/-- The credit that a group announces for a VC as it starts or drains. -/
def fullCredit (g vc : Nat) : Emission := .block g 0x4B [vc, 4096, 0]

/-- A group that starts is as after a drain, and announces its full credit on each VC. -/
theorem startGroup_group (s : State) (g : Nat) : (s.startGroup g).group g = { (s.group g).drained with state := 1 } := by
  simp [State.startGroup, foldS]

theorem startGroup_sent (s : State) (g : Nat) : (s.startGroup g).sent = s.sent ++ [fullCredit g 0, fullCredit g 1, fullCredit g 2] := by
  simp [State.startGroup, foldS, State.giveCredit, Group.drained, fullCredit]

/-- The group of a lane that has come up as its only one, as it starts. -/
def State.groupStarts (s : State) (g q : Nat) : State :=
  ((s.quiet.setGroup g fun x => { x with active := [q], adding := none }).setPort (32 + q) fun x => { x with up := true }).startGroup g

theorem groupStarts_group (s : State) (g q : Nat) : (s.groupStarts g q).group g = { (s.group g).drained with active := [q], state := 1 } := by
  unfold State.groupStarts
  rw [startGroup_group]
  simp [Group.drained]

theorem groupStarts_sent (s : State) (g q : Nat) : (s.groupStarts g q).sent = [fullCredit g 0, fullCredit g 1, fullCredit g 2] := startGroup_sent ..

theorem groupStarts_up (s : State) (g q : Nat) : ((s.groupStarts g q).port (32 + q)).up = true := by
  simp [State.groupStarts, State.startGroup, foldS]

/-- The group of a lane that has come up as its only one, started and reported from its head lane. -/
def State.groupStarted (s : State) (g q : Nat) : State := (s.groupStarts g q).raiseAs (blkPort (32 + s.groupHead g)) 0x10 .c g g none

theorem groupStarted_reported (s : State) (g q : Nat) : Reported (s.groupStarts g q) (s.groupStarted g q) :=
  raiseAs_reported _ _ _ _ _ _ _ EvClass.noConfusion

theorem groupStarted_group (s : State) (g q : Nat) : (s.groupStarted g q).group g = { (s.group g).drained with active := [q], state := 1 } :=
  ((groupStarted_reported s g q).group g).trans (groupStarts_group s g q)

theorem groupStarted_up (s : State) (g q : Nat) : ((s.groupStarted g q).port (32 + q)).up = true :=
  (congrArg Port.up ((groupStarted_reported s g q).port _)).trans (groupStarts_up s g q)

theorem groupStarted_recorded (noShadow : s.top.shadows = []) (g q : Nat) :
    Recorded s (s.groupStarted g q) (blkPort (32 + s.groupHead g)) 0x10 .c g :=
  raiseAs_recorded (s := s) (u := s.groupStarts g q) (cls := .c) rfl noShadow _ _ _ _ nofun

theorem groupStarted_sent (noShadow : s.top.shadows = []) (g q : Nat) :
    (s.groupStarted g q).sent = [fullCredit g 0, fullCredit g 1, fullCredit g 2] :=
  (raiseAs_sent_c (s.groupStarts g q) noShadow _ _ _ _).trans (groupStarts_sent s g q)

theorem execLinkUp_lane {q : Nat} {verified speedOk : Bool} (small : q < 16) (live : s.portLive (32 + q) = true) (lane : s.groupOfLane q = some g)
    (down : (s.group g).state = 0) (empty : (s.group g).active = []) (least : s.cfg (0xC200 + g) 2 = 1) :
    execLinkUp (32 + q) verified speedOk s = .next (s.groupStarted g q) := by
  have live' : s.quiet.portLive (32 + q) = true := live
  have lane' : s.quiet.groupOfLane q = some g := lane
  have least' : s.quiet.cfg (0xC200 + g) 2 = 1 := least
  unfold execLinkUp
  dsimp only
  rw [if_neg (by simp [live']), if_pos (Nat.le_add_right ..), Nat.add_sub_cancel_left, lane']
  dsimp only
  unfold State.laneUsable
  dsimp only
  rw [State.quiet_group, if_neg (by simp [empty]), if_pos down, joinLanes_down small lane' down empty, if_neg (by simp [least'])]
  rfl

/-! ### Frames that start, and those that wait (R409-R411) -/

theorem plStart_group (s : State) (g : Nat) (f : PlFrame) : (s.plStart g f).group g = { s.group g with
    credit := listSet (s.group g).credit f.vc (at? 0 (s.group g).credit f.vc - f.credits), txSeq := ((s.group g).txSeq + 1) % 2 ^ 16
    replay := (s.group g).replay ++ [{ f with fseq := (s.group g).txSeq }] } := by
  unfold State.plStart
  dsimp only
  split <;> simp

theorem plStart_sent {f : PlFrame} {e : Emission} (out : f.out = some e) (s : State) (g : Nat) :
    (s.plStart g f).sent = s.sent ++ [onLink f.vc (s.group g).txSeq e] := by
  unfold State.plStart
  dsimp only
  rw [out]
  rfl

/-- Waiting frames of a VC start as far as the credits reach: one round of those that serve a group. -/
def State.plRound (g : Nat) (s : State) (vc : Nat) : State := iter (fun s => s.plNext g vc) (s.group g).waiting.length s

theorem plRound_idle (idle : (s.group g).waiting = []) (vc : Nat) : s.plRound g vc = s := by
  unfold State.plRound
  rw [idle]
  rfl

theorem replaying_idle {x : Group} (idle : x.waiting = []) : x.replaying = false := by
  unfold Group.replaying
  rw [idle]

/-- With no frame to send again, the VCs are served in rounds. -/
theorem plServe_rounds {u : State} (again : iter (fun s => s.plAgain g) (s.group g).waiting.length s = u) (first : (u.group g).replaying = false) :
    s.plServe g = foldS (State.plRound g) u [1, 0, 2] := by
  unfold State.plServe
  rw [again]
  dsimp only
  rw [first]
  rfl

/-- With no frame that waits, none starts. -/
theorem plServe_idle (idle : (s.group g).waiting = []) : s.plServe g = s := by
  rw [plServe_rounds (u := s) (by rw [idle]; rfl) (replaying_idle idle)]
  exact foldS_idle _ _ _ fun vc _ => plRound_idle idle vc

/-- The state in which the one frame that waited has started. -/
def State.plStarted (s : State) (g : Nat) (f : PlFrame) : State := (s.setGroup g fun x => { x with waiting := [] }).plStart g f

theorem plStarted_waiting (s : State) (g : Nat) (f : PlFrame) : ((s.plStarted g f).group g).waiting = [] := by
  simp [State.plStarted, plStart_group]

theorem plStarted_txSeq (s : State) (g : Nat) (f : PlFrame) : ((s.plStarted g f).group g).txSeq = ((s.group g).txSeq + 1) % 2 ^ 16 := by
  simp [State.plStarted, plStart_group]

theorem plStarted_replay (s : State) (g : Nat) (f : PlFrame) :
    ((s.plStarted g f).group g).replay = (s.group g).replay ++ [{ f with fseq := (s.group g).txSeq }] := by
  simp [State.plStarted, plStart_group]

theorem plStarted_sent {f : PlFrame} {e : Emission} (out : f.out = some e) (s : State) (g : Nat) :
    (s.plStarted g f).sent = s.sent ++ [onLink f.vc (s.group g).txSeq e] := by
  simp [State.plStarted, plStart_sent out]

/-- The one frame that waits starts in the round of its VC, with credits for it. -/
theorem plRound_one {f : PlFrame} (waits : (s.group g).waiting = [f]) (may : (s.group g).canStart f = true) (vc : Nat) :
    s.plRound g vc = if f.vc = vc then s.plStarted g f else s := by
  unfold State.plRound State.plNext
  rw [waits]
  by_cases h : f.vc = vc
  · have left : s.setGroup g (fun x => { x with waiting := x.waiting.erase f }) = s.setGroup g fun x => { x with waiting := [] } :=
      State.setGroup_congr (by simp [waits])
    simp [iter, waits, h, may, left, State.plStarted]
  · simp [iter, waits, h]

theorem plRounds_one {f : PlFrame} (waits : (s.group g).waiting = [f]) (may : (s.group g).canStart f = true) (l : List Nat) :
    foldS (State.plRound g) s l = if f.vc ∈ l then s.plStarted g f else s := by
  induction l with
  | nil => rfl
  | cons vc l ih =>
    rw [foldS, plRound_one waits may]
    by_cases h : f.vc = vc
    · rw [if_pos h, if_pos (h ▸ List.mem_cons_self)]
      exact foldS_idle _ _ _ fun k _ => plRound_idle (plStarted_waiting s g f) k
    · rw [if_neg h, ih]
      simp [h]

/-- The one frame that waits, and is not to be sent again, starts with credits for it. -/
theorem plServe_new {f : PlFrame} (waits : (s.group g).waiting = [f]) (new : f.replays = 0) (small : f.vc < 3)
    (may : (s.group g).canStart f = true) : s.plServe g = s.plStarted g f := by
  have none : s.plAgain g = s := by
    unfold State.plAgain
    rw [waits]
    simp [new]
  have first : (s.group g).replaying = false := by
    unfold Group.replaying
    rw [waits]
    simp [new]
  rw [plServe_rounds (u := s) (by rw [waits]; exact none) first, plRounds_one waits may, if_pos]
  simp only [List.mem_cons, List.not_mem_nil]
  omega

/-- The one frame that waits to be sent again starts with credits for it, and counts REPLAYED. -/
theorem plServe_again {f : PlFrame} (waits : (s.group g).waiting = [f]) (again : f.replays ≠ 0) (may : (s.group g).canStart f = true) :
    s.plServe g = (s.plStarted g f).countPort (32 + s.groupHead g) 19 := by
  have goes : s.plAgain g = (s.plStarted g f).countPort (32 + s.groupHead g) 19 := by
    unfold State.plAgain
    rw [waits]
    exact if_pos ⟨again, may⟩
  have idle : (((s.plStarted g f).countPort (32 + s.groupHead g) 19).group g).waiting = [] := plStarted_waiting s g f
  rw [plServe_rounds (by rw [waits]; exact goes) (replaying_idle idle)]
  exact foldS_idle _ _ _ fun vc _ => plRound_idle idle vc

/-! ### CREDIT and NAK (R410, R411) -/

/-- The state in which a running group has taken credits and an ACK. -/
def State.credited (s : State) (g vc n ack : Nat) : State := s.quiet.setGroup g fun x => { x with
  credit := listSet x.credit vc (min 4096 (at? 0 x.credit vc + n)), replay := x.replay.filter fun h => !(covers ack h.fseq) }

theorem execCredit_running (running : (s.group g).state = 2) (vc n ack : Nat) : execCredit g vc n ack s = .next ((s.credited g vc n ack).plServe g) := by
  have stays : s.quiet.setGroup g (fun x => { x with
      credit := listSet x.credit vc (stopAt 4096 (at? 0 x.credit vc) n), replay := x.replay.filter fun f => !(covers ack f.fseq)
      state := if x.state = 1 then (if x.active.length = (s.quiet.groupLanes g).length then 2 else 3) else x.state }) = s.credited g vc n ack :=
    State.setGroup_congr (by simp [running, stopAt_eq_min])
  unfold execCredit
  dsimp only
  rw [if_neg (by simp [running]), stays]

theorem credited_group (s : State) (g vc n ack : Nat) : (s.credited g vc n ack).group g = { s.group g with
    credit := listSet (s.group g).credit vc (min 4096 (at? 0 (s.group g).credit vc + n))
    replay := (s.group g).replay.filter fun h => !(covers ack h.fseq) } := State.group_setGroup_same s.quiet g _

theorem execCredit_idle (running : (s.group g).state = 2) (idle : (s.group g).waiting = []) (vc n ack : Nat) :
    execCredit g vc n ack s = .next (s.credited g vc n ack) := by
  rw [execCredit_running running, plServe_idle (by rw [credited_group, idle])]

/-- A group takes credits from empty, as many as it can hold. -/
theorem credited_fresh {vc n : Nat} (small : vc < 3) (empty : (s.group g).credit = [0, 0, 0]) (most : n ≤ 4096) (ack : Nat) :
    at? 0 ((s.credited g vc n ack).group g).credit vc = n := by
  have zero : at? 0 [0, 0, 0] vc = 0 := by interval_cases vc <;> rfl
  have set (x : Nat) : at? 0 (listSet [0, 0, 0] vc x) vc = x := by interval_cases vc <;> rfl
  simp [credited_group, empty, zero, set, most]

/-- The one frame that waits starts once its credits have come. -/
theorem execCredit_starts {f : PlFrame} {n : Nat} (running : (s.group g).state = 2) (waits : (s.group g).waiting = [f]) (new : f.replays = 0)
    (small : f.vc < 3) (empty : (s.group g).credit = [0, 0, 0]) (enough : f.credits ≤ n) (most : n ≤ 4096) (ack : Nat) :
    execCredit g f.vc n ack s = .next ((s.credited g f.vc n ack).plStarted g f) := by
  have may : ((s.credited g f.vc n ack).group g).canStart f = true := decide_eq_true (by rw [credited_fresh small empty most]; exact enough)
  rw [execCredit_running running, plServe_new (by rw [credited_group, waits]) new small may]

/-- The state in which a group has taken a NAK for its one unacknowledged frame. -/
def State.asksAgain (s : State) (g fseq : Nat) (f : PlFrame) : State :=
  (s.quiet.countPort (32 + s.groupHead g) 18).setGroup g fun x => { x with
    replay := [], txSeq := fseq, waiting := [{ f with replays := f.replays + 1 }] }

theorem execNak_one {f : PlFrame} {fseq : Nat} (running : (s.group g).state = 2) (idle : (s.group g).waiting = []) (one : (s.group g).replay = [f])
    (unseen : covers fseq f.fseq = false) (few : f.replays < 4) : execNak g fseq s = .next ((s.asksAgain g fseq f).plServe g) := by
  have again : (s.group g).replay.filter (fun h => !(covers fseq h.fseq)) = [f] := by simp [one, unseen]
  unfold execNak
  dsimp only
  rw [State.quiet_group, if_neg (by simp [running]), again, if_neg (by simpa using few)]
  have asked : (s.quiet.countPort (32 + s.quiet.groupHead g) 18).setGroup g (fun y => { y with
      replay := [], txSeq := if [f].isEmpty then y.txSeq else fseq
      waiting := [f].map (fun h => { h with replays := h.replays + 1 }) ++ y.waiting }) = s.asksAgain g fseq f :=
    State.setGroup_congr (by simp [idle])
  rw [asked]

theorem asksAgain_group (s : State) (g fseq : Nat) (f : PlFrame) : (s.asksAgain g fseq f).group g =
    { s.group g with replay := [], txSeq := fseq, waiting := [{ f with replays := f.replays + 1 }] } :=
  State.group_setGroup_same (s.quiet.countPort (32 + s.groupHead g) 18) g _

/-- A frame that is sent once more. -/
def PlFrame.again (f : PlFrame) : PlFrame := { f with replays := f.replays + 1 }

/-- The one unacknowledged frame goes out again under the FSEQ that a NAK names. -/
theorem execNak_again {f : PlFrame} {fseq : Nat} (running : (s.group g).state = 2) (idle : (s.group g).waiting = []) (one : (s.group g).replay = [f])
    (unseen : covers fseq f.fseq = false) (few : f.replays < 4) (enough : f.credits ≤ at? 0 (s.group g).credit f.vc) :
    execNak g fseq s = .next (((s.asksAgain g fseq f).plStarted g f.again).countPort (32 + s.groupHead g) 19) := by
  have may : ((s.asksAgain g fseq f).group g).canStart f.again = true := decide_eq_true (by rw [asksAgain_group]; exact enough)
  rw [execNak_one running idle one unseen few, plServe_again (f := f.again) (by rw [asksAgain_group]; rfl) (Nat.succ_ne_zero _) may]
  rfl

theorem asksAgain_sent {f : PlFrame} {e : Emission} (out : f.out = some e) (g fseq : Nat) :
    ((s.asksAgain g fseq f).plStarted g f.again).sent = [onLink f.vc fseq e] := by
  rw [plStarted_sent (f := f.again) out, asksAgain_group]
  rfl

/-! ### Drains (R415) -/

/-- What an event of class C or U outside every shadow puts out comes after what was put out before. -/
theorem raiseAs_sent_extends (noShadow : s.top.shadows = []) (b ev who detail : Nat) {cls : EvClass} (notF : cls ≠ .f) :
    s.sent <+: (s.raiseAs b ev cls who detail none).sent := by
  rw [(raise_eq s b ev who detail cls noShadow fun f => absurd f notF).2]
  dsimp only
  split
  · exact List.prefix_append ..
  · exact List.prefix_rfl

/-- A group drains: DRAIN and the full credit of each VC go out, GROUP_DRAIN comes from the head lane, other groups stand. -/
theorem drainGroup_drains (noShadow : s.top.shadows = []) (g : Nat) :
    Recorded s (s.quiet.drainGroup g) (blkPort (32 + s.groupHead g)) 0x19 .u g ∧ (s.quiet.drainGroup g).group g = (s.group g).drained ∧
      (s.quiet.drainGroup g).sent.take 4 = [.block g 0x66 [4, 0, 0], fullCredit g 0, fullCredit g 1, fullCredit g 2] ∧
      ∀ k, k ≠ g → (s.quiet.drainGroup g).group k = s.group k := by
  obtain ⟨u, drains, commons, top, groups, sent⟩ : ∃ u : State,
      s.quiet.drainGroup g = u.raise (blkPort (32 + s.groupHead g)) 0x19 .u g ∧ u.commons = s.commons ∧ u.top = s.top ∧
        u.groups = (s.setGroup g Group.drained).groups ∧ u.sent = [.block g 0x66 [4, 0, 0], fullCredit g 0, fullCredit g 1, fullCredit g 2] :=
    ⟨_, rfl, rfl, rfl, rfl, rfl⟩
  have noShadow' : u.top.shadows = [] := top ▸ noShadow
  have group (k : Nat) : (s.quiet.drainGroup g).group k = (s.setGroup g Group.drained).group k := by
    rw [drains, (raise_reported u _ _ _ .u nofun).group]
    exact congrArg (tget ({} : Group) · k) groups
  refine ⟨?_, (group g).trans (State.group_setGroup_same ..), ?_, fun k other => (group k).trans (State.group_setGroup_other _ _ _ _ other)⟩
  · rw [drains]
    exact raiseAs_recorded commons noShadow' _ _ _ _ nofun
  · obtain ⟨l, more⟩ := raiseAs_sent_extends noShadow' (blkPort (32 + s.groupHead g)) 0x19 g g (cls := .u) nofun
    rw [drains, State.raise, ← more, sent]
    rfl

theorem execLanectlDrain_drains (live : (s.group g).state ≠ 0) : execLanectlDrain g s = .next (s.quiet.drainGroup g) :=
  congrArg Host.Outcome.next (if_neg live)

theorem execGroupDrain_drains (live : (s.group g).state ≠ 0) (waits : (s.group g).waiting ≠ []) : execGroupDrain g s = .next (s.quiet.drainGroup g) :=
  congrArg Host.Outcome.next (if_pos ⟨live, .inl (by simpa using waits)⟩)

end Sys2Proof.Machine
end

section
/-! PROOF. Lanes of a group come, go and are lost (R408, R413, R421): for O60. -/

namespace Sys2Proof.Machine

variable {s t u : State} {g : Nat}

/-! ### Changes that leave the lanes of a group -/

/-- Bits of INT_STAT that are set stay set as another event is recorded. -/
theorem Recorded.keeps_bits {b ev detail : Nat} {cls : EvClass} (h : Recorded s t b ev cls detail) (n : Nat) {m : Word}
    (set : (s.common n).intStat &&& m = m) : (t.common n).intStat &&& m = m := by
  by_cases here : n = b
  · subst here
    rw [h.stat]
    exact or_keeps_bits set _
  · rw [h.others n here]
    exact set

/-- What happens in group `g`, and to the counters of ports, while its lanes stand: other groups, links, eyes and shadows stand too, and what has
been sent and recorded remains. -/
structure LanesStand (g : Nat) (s t : State) : Prop where
  active : (t.group g).active = (s.group g).active
  adding : (s.group g).adding = none → (t.group g).adding = none
  others : ∀ k, k ≠ g → t.group k = s.group k
  up : ∀ p, (t.port p).up = (s.port p).up
  eye : ∀ p, (t.port p).eye = (s.port p).eye
  sent : s.sent <+: t.sent
  stat : ∀ b {m : Word}, (s.common b).intStat &&& m = m → (t.common b).intStat &&& m = m
  shadows : t.top.shadows = s.top.shadows

theorem LanesStand.refl (g : Nat) (s : State) : LanesStand g s s :=
  ⟨rfl, id, fun _ _ => rfl, fun _ => rfl, fun _ => rfl, List.prefix_rfl, fun _ _ => id, rfl⟩

theorem LanesStand.trans (h : LanesStand g s t) (k : LanesStand g t u) : LanesStand g s u where
  active := k.active.trans h.active
  adding a := k.adding (h.adding a)
  others n other := (k.others n other).trans (h.others n other)
  up p := (k.up p).trans (h.up p)
  eye p := (k.eye p).trans (h.eye p)
  sent := h.sent.trans k.sent
  stat b _ set := k.stat b (h.stat b set)
  shadows := k.shadows.trans h.shadows

theorem setGroup_stands {f : Group → Group} (active : (f (s.group g)).active = (s.group g).active)
    (adding : (s.group g).adding = none → (f (s.group g)).adding = none) : LanesStand g s (s.setGroup g f) where
  active := by rw [State.group_setGroup_same, active]
  adding a := by rw [State.group_setGroup_same, adding a]
  others k other := State.group_setGroup_other _ _ _ _ other
  up _ := rfl
  eye _ := rfl
  sent := List.prefix_rfl
  stat _ _ := id
  shadows := rfl

theorem countPort_stands (s : State) (g p i n : Nat) : LanesStand g s (s.countPort p i n) where
  active := rfl
  adding := id
  others _ _ := rfl
  up k := by obtain ⟨_, h⟩ := countPort_port s p i n k; rw [h]
  eye k := by obtain ⟨_, h⟩ := countPort_port s p i n k; rw [h]
  sent := List.prefix_rfl
  stat _ _ := id
  shadows := rfl

theorem emit_stands (s : State) (g : Nat) (e : Emission) : LanesStand g s (s.emit e) :=
  { LanesStand.refl g s with sent := List.prefix_append .. }

theorem raiseAs_stands (noShadow : s.top.shadows = []) (g b ev who detail : Nat) {cls : EvClass} (notF : cls ≠ .f) :
    LanesStand g s (s.raiseAs b ev cls who detail none) := by
  have reported := raiseAs_reported s b ev who detail cls none notF
  obtain ⟨recorded, eq⟩ := raise_eq s b ev who detail cls noShadow fun f => absurd f notF
  refine ⟨congrArg Group.active (reported.group g), fun a => (congrArg Group.adding (reported.group g)).trans a, fun k _ => reported.group k,
    fun p => congrArg Port.up (reported.port p), fun p => congrArg Port.eye (reported.port p), raiseAs_sent_extends noShadow b ev who detail notF,
    fun n _ set => recorded.keeps_bits n set, ?_⟩
  rw [eq, if_neg notF]
  exact mark_pulse_shadows ..

theorem sendNak_stands (s : State) (g : Nat) : LanesStand g s (s.sendNak g) :=
  ((setGroup_stands rfl id).trans (emit_stands _ g _)).trans (countPort_stands ..)

/-- A group settles without a change of its lanes. -/
theorem settleGroup_stands (noShadow : s.top.shadows = []) (g : Nat) : LanesStand g s (s.settleGroup g) := by
  unfold State.settleGroup
  dsimp only
  split_ifs
  · exact .refl g s
  · have gone : LanesStand g s (s.setGroup g fun y => { y.drained with state := 0 }) := setGroup_stands rfl fun _ => rfl
    have low := gone.trans (raiseAs_stands (gone.shadows.trans noShadow) g (blkPort (32 + s.groupHead g)) 0x18 g g (cls := .u) nofun)
    exact low.trans (raiseAs_stands (low.shadows.trans noShadow) g (blkPort (32 + s.groupHead g)) 0x11 g g (cls := .c) nofun)
  · exact .refl g s
  · exact setGroup_stands rfl id

/-- A running group with lanes enough runs on. -/
theorem settleGroup_runs (running : (s.group g).state = 2) (enough : s.cfg (0xC200 + g) 2 ≤ (s.group g).active.length) :
    s.settleGroup g = s.setGroup g fun y => { y with state := if y.active.length = (s.groupLanes g).length then 2 else 3 } := by
  unfold State.settleGroup
  dsimp only
  rw [if_neg (by simp [running]), if_neg (Nat.not_lt.2 enough), if_neg (by simp [running])]

/-! ### Lanes join (R408, R413) -/

theorem mem_insertN {x y : Nat} {l : List Nat} : y ∈ insertN x l ↔ y = x ∨ y ∈ l := by
  induction l with
  | nil => simp [insertN]
  | cons a l ih =>
    unfold insertN
    split_ifs with below same
    · simp
    · simp [same]
    · simp [ih, or_left_comm]

theorem mem_sortN {y : Nat} {l : List Nat} : y ∈ sortN l ↔ y ∈ l := by
  induction l with
  | nil => rfl
  | cons x l ih => rw [sortN, mem_insertN, ih, List.mem_cons]

/-- A lane that joins its group comes up. -/
def State.laneUp (s : State) (q : Nat) : State := s.setPort (32 + q) fun x => { x with up := true }

/-- A group with further lanes. -/
def Group.joined (l : List Nat) (x : Group) : Group := { x with active := sortN (l ++ x.active), adding := none }

/-- The lanes of a group that a mask names have joined it, and it has not settled yet. -/
def State.lanesJoined (s : State) (g mask : Nat) : State :=
  foldS State.laneUp (s.setGroup g (Group.joined ((s.groupLanes g).filter (bitAt mask)))) ((s.groupLanes g).filter (bitAt mask))

theorem lanesJoined_group (s : State) (g mask : Nat) :
    (s.lanesJoined g mask).group g = (s.group g).joined ((s.groupLanes g).filter (bitAt mask)) :=
  (congrArg (tget ({} : Group) · g) (foldS_view State.groups State.laneUp (fun _ _ => rfl) _ _)).trans (State.group_setGroup_same s g (Group.joined _))

theorem lanesJoined_top (s : State) (g mask : Nat) : (s.lanesJoined g mask).top = s.top := foldS_view State.top State.laneUp (fun _ _ => rfl) _ _

theorem joinLanes_joins (noShadow : s.top.shadows = []) (g mask : Nat) : ((s.joinLanes g mask).group g).adding = none ∧
    ∀ q ∈ s.groupLanes g, bitAt mask q = true → q ∈ ((s.joinLanes g mask).group g).active := by
  have stands : LanesStand g (s.lanesJoined g mask) (s.joinLanes g mask) :=
    settleGroup_stands ((congrArg Top.shadows (lanesJoined_top s g mask)).trans noShadow) g
  refine ⟨stands.adding (congrArg Group.adding (lanesJoined_group s g mask)), fun q lane named => ?_⟩
  rw [stands.active, lanesJoined_group]
  exact mem_sortN.2 (List.mem_append_left _ (List.mem_filter.2 ⟨lane, named⟩))

/-- A new marker count that every active lane of the group has followed so far. -/
theorem execAlign_follows {lane marker : Nat} (new : (s.group g).marker ≠ marker)
    (current : ∀ q ∈ (s.group g).active, tget (s.group g).marker (s.group g).marks q = (s.group g).marker) (none : (s.group g).adding = Option.none) :
    execAlign g lane marker true s =
      .next ((s.quiet.setGroup g fun x => { x with marker := marker }).setGroup g fun x => { x with marks := tset x.marks lane marker }) := by
  have missed : (s.group g).active.filter (fun q => tget (s.group g).marker (s.group g).marks q != (s.group g).marker) = [] := by
    simpa using current
  unfold execAlign
  dsimp only
  rw [State.quiet_group, if_neg new, missed, none]
  rfl

/-- The lanes that an ADD names join at its marker. -/
theorem execAlign_joins {lane marker mask : Nat} (new : (s.group g).marker ≠ marker) (adding : (s.group g).adding = some (mask, marker)) :
    ∃ u : State, execAlign g lane marker true s = .next (u.joinLanes g mask) ∧ u.top = s.top ∧ u.dict = s.dict := by
  unfold execAlign
  dsimp only
  rw [State.quiet_group, if_neg new, adding]
  dsimp only
  rw [if_pos rfl, if_pos rfl]
  refine ⟨_, rfl, ?_, ?_⟩
  · exact foldS_view State.top (fun (s : State) q => s.countPort (32 + q) 23) (fun _ _ => rfl) _ _
  · exact foldS_view State.dict (fun (s : State) q => s.countPort (32 + q) 23) (fun _ _ => rfl) _ _

theorem groupLanes_of_dict (same : t.dict = s.dict) (g : Nat) : t.groupLanes g = s.groupLanes g := by
  unfold State.groupLanes State.cfg
  rw [same]

/-! ### Lanes go (R413) -/

/-- A lane that a REMOVE takes goes down, and is counted. -/
def State.laneTaken (s : State) (q : Nat) : State := (s.setPort (32 + q) fun x => { x with up := false }).countPort (32 + q) 24

theorem laneTaken_up (s : State) (q : Nat) : ((s.laneTaken q).port (32 + q)).up = false := by
  simp [State.laneTaken, State.countPort]

theorem laneTaken_keeps_down {p q : Nat} (down : (s.port p).up = false) : ((s.laneTaken q).port p).up = false := by
  by_cases same : p = 32 + q
  · rw [same]
    exact laneTaken_up s q
  · simpa [State.laneTaken, State.countPort, State.port_setPort_other, same] using down

/-- The lanes that a REMOVE names are gone and an ACK is out, and the group has not settled yet. -/
def State.lanesTaken (s : State) (g mask : Nat) : State :=
  (foldS State.laneTaken (s.quiet.setGroup g fun x => { x with active := x.active.filter fun q => !(bitAt mask q) })
    ((s.group g).active.filter fun q => bitAt mask q)).ackLanes g mask 0

theorem lanesTaken_group (s : State) (g mask k : Nat) : (s.lanesTaken g mask).group k =
    (s.quiet.setGroup g fun x => { x with active := x.active.filter fun q => !(bitAt mask q) }).group k :=
  congrArg (tget ({} : Group) · k) (foldS_view State.groups State.laneTaken (fun _ _ => rfl) _ _)

theorem lanesTaken_top (s : State) (g mask : Nat) : (s.lanesTaken g mask).top = s.top := foldS_view State.top State.laneTaken (fun _ _ => rfl) _ _

theorem lanesTaken_down {q mask : Nat} (active : q ∈ (s.group g).active) (named : bitAt mask q = true) :
    ((s.lanesTaken g mask).port (32 + q)).up = false :=
  foldS_brings (P := fun s => (s.port (32 + q)).up = false) State.laneTaken (fun _ _ => laneTaken_keeps_down) (fun s => laneTaken_up s q) _
    (List.mem_filter.2 ⟨active, named⟩)

theorem execLanectlRemove_eq (s : State) (g mask : Nat) : execLanectlRemove g mask s = .next ((s.lanesTaken g mask).settleGroup g) := rfl

theorem lanesTaken_settles (noShadow : s.top.shadows = []) (g mask : Nat) :
    LanesStand g (s.lanesTaken g mask) ((s.lanesTaken g mask).settleGroup g) :=
  settleGroup_stands ((congrArg Top.shadows (lanesTaken_top s g mask)).trans noShadow) g

/-! ### A lane is lost (R413) -/

/-- A lane is gone from its group and down; other groups, the eyes and what has been recorded stand. -/
structure LaneGone (g q : Nat) (s t : State) : Prop where
  active : (t.group g).active = (s.group g).active.filter fun k => k != q
  others : ∀ k, k ≠ g → t.group k = s.group k
  down : (t.port (32 + q)).up = false
  eye : ∀ p, (t.port p).eye = (s.port p).eye
  stat : ∀ b {m : Word}, (s.common b).intStat &&& m = m → (t.common b).intStat &&& m = m

theorem LanesStand.gone {q : Nat} (h : LanesStand g s t) (k : LaneGone g q t u) : LaneGone g q s u where
  active := by rw [k.active, h.active]
  others n other := (k.others n other).trans (h.others n other)
  down := k.down
  eye p := (k.eye p).trans (h.eye p)
  stat b _ set := k.stat b (h.stat b set)

theorem LaneGone.settled {q : Nat} (h : LaneGone g q s t) (k : LanesStand g t u) : LaneGone g q s u where
  active := k.active.trans h.active
  others n other := (k.others n other).trans (h.others n other)
  down := (k.up _).trans h.down
  eye p := (k.eye p).trans (h.eye p)
  stat b _ set := k.stat b (h.stat b set)

/-- A group without one of its lanes. -/
def Group.without (q : Nat) (x : Group) : Group := { x with active := x.active.filter fun k => k != q }

/-- One lane has been taken out of its group, and `l` has gone out; the group has not settled yet. -/
def State.laneOut (s : State) (g q : Nat) (l : List Emission) : State :=
  { (s.setGroup g (Group.without q)).setPort (32 + q) (fun x => { x with up := false }) with sent := l }

theorem laneOut_group (s : State) (g q : Nat) (l : List Emission) : (s.laneOut g q l).group g = (s.group g).without q :=
  State.group_setGroup_same s g (Group.without q)

theorem laneOut_commons (s : State) (g q : Nat) (l : List Emission) : (s.laneOut g q l).commons = s.commons := rfl

theorem laneOut_cfg (s : State) (g q : Nat) (l : List Emission) (o m : Nat) : (s.laneOut g q l).cfg o m = s.cfg o m := rfl

theorem laneOut_gone (s : State) (g q : Nat) (l : List Emission) : LaneGone g q s (s.laneOut g q l) where
  active := congrArg Group.active (laneOut_group s g q l)
  others k other := State.group_setGroup_other s g k (Group.without q) other
  down := congrArg Port.up (State.port_setPort_same s (32 + q) fun x => { x with up := false })
  eye p := by
    change ((s.setPort (32 + q) fun x => { x with up := false }).port p).eye = _
    by_cases here : p = 32 + q
    · rw [here, State.port_setPort_same]
    · rw [State.port_setPort_other _ _ _ _ here]
  stat _ _ := id

theorem removeLanes_one (s : State) (g q : Nat) : ∃ l, s.removeLanes g [q] = (s.laneOut g q l).settleGroup g := by
  have out : s.setGroup g (fun x => { x with active := x.active.filter fun k => !([q].contains k) }) =
      s.setGroup g (Group.without q) := State.setGroup_congr (by simp [Group.without, bne, beq_eq_decide])
  unfold State.removeLanes
  dsimp only
  rw [if_neg (by simp), out]
  split
  · exact ⟨_, rfl⟩
  · exact ⟨_, rfl⟩

/-- A lane that is lost has been reported and, in a group that is not down, asked for with a NAK; it has not left its group yet. -/
def State.laneReported (s : State) (g q : Nat) : State :=
  ((if (s.group g).state = 0 then s else s.sendNak g).countPort (32 + q) 24).raiseAs (blkPort (32 + q)) 0x17 .c q q none

theorem loseLane_active {q : Nat} (active : q ∈ (s.group g).active) : s.loseLane g q = (s.laneReported g q).removeLanes g [q] := by
  unfold State.loseLane
  rw [if_neg (by simp [active])]
  rfl

theorem loseLane_other {q : Nat} (other : q ∉ (s.group g).active) : s.loseLane g q = s := by
  unfold State.loseLane
  rw [if_pos (by simp [other])]

theorem counted_stands (s : State) (g q : Nat) : LanesStand g s ((if (s.group g).state = 0 then s else s.sendNak g).countPort (32 + q) 24) := by
  split
  · exact countPort_stands ..
  · exact (sendNak_stands s g).trans (countPort_stands ..)

theorem laneReported_stands (noShadow : s.top.shadows = []) (g q : Nat) : LanesStand g s (s.laneReported g q) :=
  (counted_stands s g q).trans (raiseAs_stands ((counted_stands s g q).shadows.trans noShadow) _ _ _ _ _ nofun)

theorem laneReported_recorded (noShadow : s.top.shadows = []) (g q : Nat) : Recorded s (s.laneReported g q) (blkPort (32 + q)) 0x17 .c q := by
  have commons : ((if (s.group g).state = 0 then s else s.sendNak g).countPort (32 + q) 24).commons = s.commons := by split <;> rfl
  exact raiseAs_recorded commons ((counted_stands s g q).shadows.trans noShadow) _ _ _ _ nofun

/-- An active lane is lost: it is gone, and LANE_LOST stands in INT_STAT. -/
theorem loseLane_gone {q : Nat} (noShadow : s.top.shadows = []) (active : q ∈ (s.group g).active) :
    LaneGone g q s (s.loseLane g q) ∧ ((s.loseLane g q).common (blkPort (32 + q))).intStat &&& 0x800000 = 0x800000 := by
  obtain ⟨l, removed⟩ := removeLanes_one (s.laneReported g q) g q
  have reported := laneReported_stands noShadow g q
  have gone := laneOut_gone (s.laneReported g q) g q l
  have settled := settleGroup_stands (s := (s.laneReported g q).laneOut g q l) (reported.shadows.trans noShadow) g
  rw [loseLane_active active, removed]
  refine ⟨(reported.gone gone).settled settled, (gone.settled settled).stat _ ?_⟩
  rw [(laneReported_recorded noShadow g q).stat]
  exact or_sets_bits _ _

/-- A running group loses a lane and keeps lanes enough: it runs on and has sent a NAK. -/
theorem loseLane_runs {q : Nat} (noShadow : s.top.shadows = []) (active : q ∈ (s.group g).active) (running : (s.group g).state = 2)
    (enough : s.cfg (0xC200 + g) 2 ≤ ((s.group g).active.filter fun k => k != q).length) :
    Recorded s (s.loseLane g q) (blkPort (32 + q)) 0x17 .c q ∧ ((s.loseLane g q).group g).nakSent = true := by
  obtain ⟨l, removed⟩ := removeLanes_one (s.laneReported g q) g q
  have group : (s.laneReported g q).group g = { s.group g with nakSent := true } := by
    unfold State.laneReported
    rw [(raiseAs_reported _ _ _ _ _ _ _ EvClass.noConfusion).group, if_neg (by simp [running])]
    simp [State.sendNak]
  have cfg : ((s.laneReported g q).laneOut g q l).cfg (0xC200 + g) 2 = s.cfg (0xC200 + g) 2 := by
    have dict : (s.laneReported g q).dict = s.dict := by
      unfold State.laneReported
      rw [(raiseAs_reported _ _ _ _ _ _ _ EvClass.noConfusion).dict]
      split <;> rfl
    rw [laneOut_cfg]
    unfold State.cfg
    rw [dict]
  have settled := settleGroup_runs (s := (s.laneReported g q).laneOut g q l) (g := g) (by rw [laneOut_group, group]; exact running)
    (by rw [cfg, laneOut_group, group]; exact enough)
  rw [loseLane_active active, removed, settled]
  refine ⟨(laneReported_recorded noShadow g q).of_commons rfl ((State.setGroup_commons ..).trans (laneOut_commons ..)), ?_⟩
  rw [State.group_setGroup_same, laneOut_group, group]
  rfl

/-! ### Eyes that are too small (R421) -/

theorem eyeNarrow_recorded (noShadow : s.top.shadows = []) (p eye : Nat) : Recorded s (s.eyeNarrow p eye) (blkPort p) 0x16 .c s.tickDetail :=
  (setPort_event noShadow p _ (blkPort p) 0x16 p s.tickDetail EvClass.noConfusion).1

theorem eyeNarrow_shadows (noShadow : s.top.shadows = []) (p eye : Nat) : (s.eyeNarrow p eye).top.shadows = [] :=
  (raiseAs_stands (s := s.quiet.setPort p _) noShadow 0 (blkPort p) 0x16 p s.tickDetail (cls := .c) nofun).shadows.trans noShadow

/-- An active lane whose eye is too small: both events stand at its block, and it is gone from its group and down. -/
theorem eyeNarrow_loses {p : Nat} (noShadow : s.top.shadows = []) (link : 32 ≤ p) (active : p - 32 ∈ (s.group g).active) (eye : Nat) :
    LaneGone g (p - 32) (s.eyeNarrow p eye) ((s.eyeNarrow p eye).loseLane g (p - 32)) ∧
      (((s.eyeNarrow p eye).loseLane g (p - 32)).port p).up = false ∧
      (((s.eyeNarrow p eye).loseLane g (p - 32)).common (blkPort p)).intStat &&& 0xC00000 = 0xC00000 := by
  obtain ⟨gone, lost⟩ := loseLane_gone (q := p - 32) (eyeNarrow_shadows noShadow p eye) ((eyeNarrow_group s p eye g).symm ▸ active)
  have down := gone.down
  rw [Nat.add_sub_cancel' link] at lost down
  have margin : ((s.eyeNarrow p eye).common (blkPort p)).intStat &&& 0x400000 = 0x400000 := by
    rw [(eyeNarrow_recorded noShadow p eye).stat]
    exact or_sets_bits _ _
  refine ⟨gone, down, ?_⟩
  rw [show (0xC00000 : Word) = 0x400000 ||| 0x800000 from rfl, BitVec.and_or_distrib_left, gone.stat _ margin, lost]

theorem execEyeMeasure_lane {p eye : Nat} (link : 32 ≤ p) (narrow : eye < s.cfg (0xC000 + p) 31) (small : eye < 65536)
    (lane : s.groupOfLane (p - 32) = some g) : execEyeMeasure p eye s = .next ((s.eyeNarrow p eye).loseLane g (p - 32)) := by
  rw [execEyeMeasure_narrow link narrow small, lane]

/-- An eye that is too small, of a lane that no group has active, is reported alone. -/
theorem execEyeMeasure_inactive {p eye : Nat} (link : 32 ≤ p) (narrow : eye < s.cfg (0xC000 + p) 31) (small : eye < 65536)
    (inactive : ∀ k, s.groupOfLane (p - 32) = some k → p - 32 ∉ (s.group k).active) : execEyeMeasure p eye s = .next (s.eyeNarrow p eye) := by
  rw [execEyeMeasure_narrow link narrow small]
  cases lane : s.groupOfLane (p - 32) with
  | none => rfl
  | some k => exact congrArg Host.Outcome.next (loseLane_other (by rw [eyeNarrow_group]; exact inactive k lane))

end Sys2Proof.Machine
end

section
/-! PROOF. Peer-link frames as they come in, and mirror frames as they go out (R340, R341, R409, R411, R424): for O60. -/

namespace Sys2Proof.Machine

variable {s : State}

/-! ### A frame that fails its check (R411) -/

/-- A frame that fails PCRC while a NAK is out: it is counted and gives its credits back. -/
theorem execPeerLinkFrameRx_corrupt {r : PeerFrame} (live : (s.group r.group).state ≠ 0) (corrupt : pcrcOk r.bytes = false)
    (asked : (s.group r.group).nakSent = true) : execPeerLinkFrameRx r s = .next ((s.quiet.countPort (32 + s.groupHead r.group) 6).giveCredit
      r.group (field r.bytes 0 1 % 16) (ceilDiv r.bytes.length 64)) := by
  unfold execPeerLinkFrameRx State.discardPl
  dsimp only
  rw [State.quiet_group, if_neg live, corrupt, State.countPort_group, State.quiet_group, asked]
  rfl

theorem countPort_cnt (s : State) (p i : Nat) : tget 0 ((s.countPort p i).port p).cnt i = tget 0 (s.port p).cnt i + 1 := by
  unfold State.countPort
  rw [State.port_setPort_same]
  exact tget_bump_same _ _ _

theorem countRx_frames (s : State) (p n : Nat) : tget 0 ((s.countRx p n).port p).cnt 0 = tget 0 (s.port p).cnt 0 + 1 := by
  unfold State.countRx
  rw [State.port_setPort_same]
  exact (tget_bumpWide_other _ (by decide) (by decide) _).trans (countPort_cnt s p 0)

/-! ### A frame in its turn (R409) -/

/-- The Kapo frame that a peer-link frame carries. -/
def plBody (r : PeerFrame) : List Byte := (r.bytes.take (r.bytes.length - 4)).drop 8

/-- A peer-link frame comes in its turn and passes the checks of the group and of R60 up to step 9. -/
structure State.InTurn (s : State) (r : PeerFrame) : Prop where
  live : (s.group r.group).state ≠ 0
  whole : pcrcOk r.bytes = true
  turn : field r.bytes 4 2 = (s.group r.group).rxSeq
  header : plHeaderOk r.bytes = true
  kapo : s.headerFails (s.plKapo r none) (kapoHeader (plBody r)) = none
  long : (kapoHeader (plBody r)).length s.spt ≤ (plBody r).length
  mirror : (kapoHeader (plBody r)).mirror = true

/-- The frame expected next has come. -/
def Group.received (x : Group) : Group := { x with rxSeq := (x.rxSeq + 1) % 2 ^ 16, nakSent := false }

/-- A frame in its turn has been taken from its group: it is expected no longer, gives its credits back and is counted. -/
def State.plTaken (s : State) (r : PeerFrame) : State :=
  ((s.quiet.setGroup r.group Group.received).giveCredit r.group (field r.bytes 0 1 % 16) (ceilDiv r.bytes.length 64)).countRx
    (32 + s.groupHead r.group) r.bytes.length

theorem plTaken_group (s : State) (r : PeerFrame) : (s.plTaken r).group r.group = (s.group r.group).received :=
  State.group_setGroup_same s r.group Group.received

theorem plTaken_sent (s : State) (r : PeerFrame) : (s.plTaken r).sent =
    [.block r.group 0x4B [field r.bytes 0 1 % 16, ceilDiv r.bytes.length 64, ((s.group r.group).rxSeq + 1) % 2 ^ 16]] := by
  change [Emission.block r.group 0x4B [_, _, ((s.quiet.setGroup r.group Group.received).group r.group).rxSeq]] = _
  rw [State.group_setGroup_same]
  rfl

theorem plTaken_frames (s : State) (r : PeerFrame) : tget 0 ((s.plTaken r).port (32 + s.groupHead r.group)).cnt 0 =
    tget 0 (s.port (32 + s.groupHead r.group)).cnt 0 + 1 := countRx_frames _ _ _

/-- A mirror frame that passes step 9 of R60 goes to PAIR; during a reset of CSW it is dropped. -/
theorem kapoFrame_mirror {r : KapoRx} (passes : s.headerFails r (kapoHeader r.bytes) = none) (kept : r.drop = none)
    (long : (kapoHeader r.bytes).length s.spt ≤ r.bytes.length) (mirror : (kapoHeader r.bytes).mirror = true) :
    s.kapoFrame r = if s.resetting 6 then s else s.mirrorFrame r (kapoHeader r.bytes) := by
  unfold State.kapoFrame
  dsimp only
  rw [passes]
  by_cases reset : s.resetting 6 = true
  · have stays : (match s.kapoCtx r.port (kapoHeader r.bytes) with
      | some x => if s.time.ticked ∧ !(kapoHeader r.bytes).mirror ∧ ctxMode s.dict.vals x = 0 then
          s.cutCopies x (s.fullLabel (kapoHeader r.bytes)).toNat r true else s
      | none => s) = s := by
      split
      · exact if_neg (by simp [mirror])
      · rfl
    rw [if_pos reset, if_pos reset]
    exact (ite_congr rfl (fun _ => stays) fun _ => rfl).trans (ite_self _)
  · simp [reset, kept, Nat.not_lt.2 long, mirror]

theorem execPeerLinkFrameRx_mirror {r : PeerFrame} (h : s.InTurn r) : execPeerLinkFrameRx r s =
    .next (if s.resetting 6 then s.plTaken r else (s.plTaken r).mirrorFrame (s.plKapo r none) (kapoHeader (plBody r))) := by
  have goes : (s.plTaken r).kapoFrame (s.plKapo r none) =
      if s.resetting 6 then s.plTaken r else (s.plTaken r).mirrorFrame (s.plKapo r none) (kapoHeader (plBody r)) :=
    kapoFrame_mirror (s := s.plTaken r) (r := s.plKapo r none) h.kapo rfl h.long h.mirror
  rw [← goes]
  unfold execPeerLinkFrameRx
  dsimp only
  rw [State.quiet_group, if_neg h.live, h.whole, if_neg (by simp), if_neg (by simp [h.turn]), h.header, if_neg (by simp)]
  rfl

/-- A mirror frame that does not verify, or comes to an engine without a pair, goes no further. -/
theorem mirrorFrame_refused {r : KapoRx} (refused : r.authOk = false ∨ s.paired = false) (k : Kapo) : s.mirrorFrame r k = s := by
  unfold State.mirrorFrame
  rw [if_pos]
  rcases refused with h | h <;> simp [h]

/-- A BEACON of one frame reaches PAIR under the mirror key. -/
theorem mirrorFrame_beacon {r : KapoRx} {k : Kapo} (paired : s.paired = true) (auth : k.auth = true) (verified : r.authOk = true)
    (key : k.keyid = 0xFFFF) (stream : k.stream = 0x500) (first : s.pair.parts = []) (body : (r.bytes.drop 32).take (4 * s.spt * k.nch) ≠ []) :
    s.mirrorFrame r k = (s.heardMirror.modPair fun x => { x with parts := [] }).onBeacon (fullTick s.time.tick k.tick).toNat k.epoch := by
  unfold State.mirrorFrame
  rw [if_neg (by simp [paired, auth, verified, key])]
  simp [stream, first, State.recordLength, joinParts, body, State.takeRecord]

theorem onBeacon_takes (paired : s.paired = true) (passive : s.pair.role ≠ 1) (boundary epoch : Nat) :
    (s.onBeacon boundary epoch).pair.beacon = some boundary ∧ (s.onBeacon boundary epoch).pair.mirrorTick = s.time.tick ∧
      (s.onBeacon boundary epoch).pair.parts = s.pair.parts ∧ (s.onBeacon boundary epoch).groups = s.groups := by
  unfold State.onBeacon
  rw [if_neg (by simp [paired, passive])]
  exact ⟨rfl, rfl, rfl, rfl⟩

/-- A BEACON under the mirror key, of one frame, is taken by an engine that is not ACTIVE. -/
theorem execPeerLinkFrameRx_beacon {r : PeerFrame} (h : s.InTurn r) (verified : r.authOk = true) (paired : s.paired = true)
    (clear : s.resetting 6 = false) (auth : (kapoHeader (plBody r)).auth = true) (key : (kapoHeader (plBody r)).keyid = 0xFFFF)
    (stream : (kapoHeader (plBody r)).stream = 0x500) (first : s.pair.parts = [])
    (body : ((plBody r).drop 32).take (4 * s.spt * (kapoHeader (plBody r)).nch) ≠ []) :
    execPeerLinkFrameRx r s = .next (((s.plTaken r).heardMirror.modPair fun x => { x with parts := [] }).onBeacon
      (fullTick s.time.tick (kapoHeader (plBody r)).tick).toNat (kapoHeader (plBody r)).epoch) := by
  rw [execPeerLinkFrameRx_mirror h, if_neg (by simp [clear]),
    mirrorFrame_beacon (s := s.plTaken r) (r := s.plKapo r none) paired auth verified key stream first body]
  rfl

/-! ### Mirror frames that leave (R340, R341) -/

/-- A part holds one channel at least. -/
theorem mirrorPart_holds (samples : 0 < s.spt) (fits : 4 * s.spt ≤ 9540) : 1 ≤ Nat.min 256 (9540 / (4 * s.spt)) :=
  Nat.le_min.2 ⟨by decide, (Nat.one_le_div_iff (by omega)).2 fits⟩

/-- A short record leaves in one part of one channel. -/
theorem mirrorParts_one {n : Nat} (samples : 0 < s.spt) (fits : 4 * s.spt ≤ 9540) (short : n ≤ 4 * s.spt) : s.mirrorParts n = [1] := by
  have units : Nat.max 1 (ceilDiv n (4 * s.spt)) = 1 := by
    refine Nat.max_eq_left (Nat.lt_succ_iff.1 ((Nat.div_lt_iff_lt_mul (by omega)).2 ?_))
    omega
  have parts : ceilDiv 1 (Nat.min 256 (9540 / (4 * s.spt))) = 1 := by
    unfold ceilDiv
    rw [Nat.add_sub_cancel_left, Nat.div_self (mirrorPart_holds samples fits)]
  unfold State.mirrorParts
  simp [units, parts]

/-- A frame for a group that is up, with credits and nothing that waits, starts at once. -/
theorem plSend_starts {g : Nat} {f : PlFrame} (live : (s.group g).state ≠ 0) (idle : (s.group g).waiting = []) (may : (s.group g).canStart f = true) :
    s.plSend g f = s.plStart g f := by
  unfold State.plSend
  dsimp only
  rw [if_neg live, if_pos ⟨may, by simp [replaying_idle idle], by simp [idle]⟩]

/-- The frame that carries a mirror record of one channel. -/
def State.mirrorOut (s : State) (ty tick : Nat) (record : List Byte) : Emission :=
  let h := s.mirrorHead ty 0 tick (tget 0 (s.group (s.cfg 0xB000 4)).mirSeq (ty * 256)) 1
  .mirror h (.wire (s.mirrorWire tick h record 1))

theorem mirrorStream_first (ty : Nat) : mirrorStream ty 0 = ty * 256 := by simp [mirrorStream]

/-- The first part of a record leaves at once, on a mirror group that has credits for it and no frame that waits. -/
theorem sendPart_first {vc ty tick nch : Nat} {body : List Byte → Nat → Nat → MirrorBody} (live : (s.group (s.cfg 0xB000 4)).state ≠ 0)
    (idle : (s.group (s.cfg 0xB000 4)).waiting = []) (credit : ceilDiv (60 + 4 * s.spt * nch) 64 ≤ at? 0 (s.group (s.cfg 0xB000 4)).credit vc) :
    (State.sendPart vc ty tick body s (nch, 0)).sent = s.sent ++ [onLink vc (s.group (s.cfg 0xB000 4)).txSeq
      (let h := s.mirrorHead ty 0 tick (tget 0 (s.group (s.cfg 0xB000 4)).mirSeq (ty * 256)) nch; .mirror h (body h nch 0))] := by
  unfold State.sendPart
  dsimp only
  rw [mirrorStream_first, plSend_starts (by rwa [State.group_setGroup_same]) (by rwa [State.group_setGroup_same])
    (by rw [State.group_setGroup_same]; exact decide_eq_true credit), plStart_sent rfl, State.group_setGroup_same, State.setGroup_sent]

theorem sendMirror_one {vc ty tick : Nat} {record : List Byte} (live : (s.group (s.cfg 0xB000 4)).state ≠ 0)
    (idle : (s.group (s.cfg 0xB000 4)).waiting = []) (samples : 0 < s.spt) (fits : 4 * s.spt ≤ 9540)
    (credit : ceilDiv (60 + 4 * s.spt) 64 ≤ at? 0 (s.group (s.cfg 0xB000 4)).credit vc) (short : record.length ≤ 4 * s.spt) :
    (s.sendMirror vc ty tick record).sent = s.sent ++ [onLink vc (s.group (s.cfg 0xB000 4)).txSeq (s.mirrorOut ty tick record)] := by
  have whole : record.take (4 * s.spt * Nat.min 256 (9540 / (4 * s.spt))) = record :=
    List.take_of_length_le (short.trans (Nat.le_mul_of_pos_right _ (mirrorPart_holds samples fits)))
  unfold State.sendMirror State.sendRecord State.mirrorOut
  dsimp only
  rw [if_neg live, mirrorParts_one samples fits short]
  rw [List.zipIdx_singleton, foldS, foldS, sendPart_first live idle (by rwa [Nat.mul_one]), Nat.zero_mul, List.drop_zero, whole]

end Sys2Proof.Machine
end

section
/-! PROOF. Links and groups: O60. -/

namespace Sys2Proof.Machine

/-- Settles O60: the links of ports and their eyes, then credits, replay, lanes and drains of groups, then frames that come in and mirror frames. -/
theorem linksAndGroupsCarryFrames : Obligations.LinksAndGroupsCarryFrames := by
  unfold Obligations.LinksAndGroupsCarryFrames
  intro s p g q eye fseq marker mask corr uncorr verified f r e record noShadow
  refine ⟨fun media live down => ?_, fun small live lane down empty least => ?_, fun media up => ?_, fun fec => ?_, fun up asked verifies => ?_,
    fun small measured wide => ?_, fun link narrow small inactive => ?_, fun link narrow small lane active => ?_, fun running idle => ?_,
    fun running waits new out small empty enough most => ?_, fun running idle one unseen few out enough => ?_, fun new current none => ?_,
    fun new adding => ?_, ?_, ?_, rfl, fun live => ?_, fun live waits => ?_, fun active running enough => ?_,
    fun live whole turn header kapo long mirror refused => ?_,
    fun live whole turn header kapo long mirror verified paired clear auth key stream first body passive => ?_, fun live corrupt asked => ?_,
    fun live idle _ samples fits credit short => ?_⟩
  · exact ⟨_, execLinkUp_media media live down, setPort_event noShadow p _ _ _ _ _ nofun⟩
  · exact ⟨_, execLinkUp_lane small live lane down empty least, groupStarted_group s g q, groupStarted_recorded noShadow g q,
      groupStarted_sent noShadow g q, groupStarted_up s g q⟩
  · exact ⟨_, execLinkDown_media media up, setPort_event noShadow p _ _ _ _ _ nofun⟩
  · obtain ⟨recorded, port, -⟩ := setPort_event noShadow p (fun x => { x with cnt := bump (bump x.cnt 31 corr) 32 uncorr }) (blkPort p) 0x12 p
      s.tickDetail (cls := .c) nofun
    exact ⟨_, execFecDegrade_counts fec, recorded, port⟩
  · obtain ⟨recorded, port, -⟩ := setPort_event noShadow p (fun x => { x with preempt := false }) (blkPort p) 0x15 p s.tickDetail (cls := .c) nofun
    exact ⟨_, execPreemptFail_stops up asked verifies, recorded, port⟩
  · exact ⟨_, execEyeMeasure_notes small wide, eyeMeasured_port measured, fun k other => State.port_setPort_other _ _ _ _ other, rfl⟩
  · exact ⟨_, execEyeMeasure_inactive link narrow small inactive, eyeNarrow_recorded noShadow p eye, eyeNarrow_eye s p eye,
      (eyeNarrow_reported s p eye).groups⟩
  · obtain ⟨gone, down, bits⟩ := eyeNarrow_loses noShadow link active eye
    exact ⟨_, execEyeMeasure_lane link narrow small lane, bits, (gone.eye p).trans (eyeNarrow_eye s p eye), down,
      gone.active.trans (by rw [eyeNarrow_group]), fun k other => (gone.others k other).trans (eyeNarrow_group s p eye k)⟩
  · exact ⟨_, execCredit_idle running idle q mask fseq, rfl, credited_group s g q mask fseq⟩
  · refine ⟨_, execCredit_starts running waits new small empty enough most _, ?_, plStarted_waiting .., ?_, ?_⟩
    · exact (plStarted_sent out _ g).trans (by rw [credited_group]; rfl)
    · rw [plStarted_txSeq, credited_group]
    · rw [plStarted_replay, credited_group]
      exact List.mem_append_right _ List.mem_cons_self
  · refine ⟨_, execNak_again running idle one unseen few enough, asksAgain_sent out g fseq, ?_, ?_, ?_⟩
    · rw [State.countPort_group, plStarted_replay, asksAgain_group]
      rfl
    · rw [State.countPort_group, plStarted_txSeq, asksAgain_group]
    · rw [State.countPort_group, plStarted_waiting]
  · refine ⟨_, execAlign_follows new current none, ?_, rfl⟩
    rw [State.group_setGroup_same, State.group_setGroup_same]
    rfl
  · obtain ⟨u, aligns, top, dict⟩ := execAlign_joins (lane := q) new adding
    obtain ⟨done, joined⟩ := joinLanes_joins (s := u) (top ▸ noShadow) g mask
    exact ⟨_, aligns, done, fun k lane named => joined k (groupLanes_of_dict dict g ▸ lane) named⟩
  · have settles := lanesTaken_settles noShadow g mask
    refine ⟨_, execLanectlRemove_eq s g mask, ?_, settles.sent.subset (List.mem_append_right _ List.mem_cons_self),
      fun k active named => (settles.up _).trans (lanesTaken_down active named), fun k other => ?_⟩
    · rw [settles.active, lanesTaken_group, State.group_setGroup_same, State.quiet_group]
    · rw [settles.others k other, lanesTaken_group, State.group_setGroup_other _ _ _ _ other, State.quiet_group]
  · refine ⟨_, rfl, rfl, ?_, fun k other => ?_⟩
    · rw [State.ackLanes_group, State.group_setGroup_same, State.quiet_group]
    · rw [State.ackLanes_group, State.group_setGroup_other _ _ _ _ other, State.quiet_group]
  · exact ⟨_, execLanectlDrain_drains live, drainGroup_drains noShadow g⟩
  · exact ⟨_, execGroupDrain_drains live waits, drainGroup_drains noShadow g⟩
  · obtain ⟨gone, -⟩ := loseLane_gone (s := s.quiet) noShadow active
    obtain ⟨recorded, asked⟩ := loseLane_runs (s := s.quiet) noShadow active running enough
    exact ⟨_, rfl, recorded.of_commons rfl rfl, gone.active, gone.down, asked⟩
  · have turn : s.InTurn r := ⟨live, whole, turn, header, kapo, long, mirror⟩
    refine ⟨s.plTaken r, (execPeerLinkFrameRx_mirror turn).trans ?_, rfl, plTaken_sent s r, plTaken_group s r, plTaken_frames s r⟩
    rw [mirrorFrame_refused refused, ite_self]
  · have turn : s.InTurn r := ⟨live, whole, turn, header, kapo, long, mirror⟩
    obtain ⟨beacon, mirrorTick, parts, groups⟩ := onBeacon_takes (s := (s.plTaken r).heardMirror.modPair fun x => { x with parts := [] })
      paired passive (fullTick s.time.tick (kapoHeader (plBody r)).tick).toNat (kapoHeader (plBody r)).epoch
    exact ⟨_, execPeerLinkFrameRx_beacon turn verified paired clear auth key stream first body, beacon, mirrorTick, parts,
      (congrArg (tget ({} : Group) · r.group) groups).trans (plTaken_group s r)⟩
  · refine ⟨_, execPeerLinkFrameRx_corrupt live corrupt asked, rfl, rfl, ?_⟩
    rw [State.giveCredit_port]
    exact countPort_cnt s.quiet _ 6
  · exact sendMirror_one live idle samples fits credit short

end Sys2Proof.Machine
end

section
/-! PROOF. The step, the reset state, and the events of a block (R485-R497, R501-R505): O1, O3, O24 to O28. -/

namespace Sys2Proof.Machine

/-- Settles O1: `step` is a match on the queue, and an empty queue leaves the state. -/
theorem stepRunsTheFrontCommand : Obligations.StepRunsTheFrontCommand := by
  unfold Obligations.StepRunsTheFrontCommand
  refine ⟨fun c rest s queue => ?_, fun s queue => ?_⟩
  · unfold step
    rw [queue]
  · unfold step
    rw [queue]

/-- Settles O3: after reset every memory is empty and there is no cluster in the table. -/
theorem resetMeetsTheInvariant : Obligations.ResetMeetsTheInvariant :=
  ⟨rfl, rfl, rfl, rfl, fun _ none => absurd none List.not_mem_nil⟩

/-! ### What an event changes of TOP while ticks run (R479, R485, R495) -/

/-- An event drives ERR_N: one of class F, and with UEN one of class U (R495). -/
abbrev Top.Signals (t : Top) (cls : EvClass) : Prop := cls = .f ∨ cls = .u ∧ t.errUen = true

theorem Top.pulse_silent {t : Top} {cls : EvClass} (h : ¬t.Signals cls) : t.pulse cls = t := if_neg h

/-- A pulse of ERR_N runs PW, where PW lies in its range (R495, R496). -/
theorem Top.pulse_pw {t : Top} {cls : EvClass} (h : t.Signals cls) (pw : t.errPw = 0x64) :
    ((t.pulse cls).errPulse.map fun p => p.pw) = some 0x64 := by
  unfold Top.pulse
  simp [h, pw]

theorem Top.mark_errPulse (t : Top) (b : Nat) (cls : EvClass) (n : Nat) : (t.mark b cls n).errPulse = t.errPulse := by
  unfold Top.mark Top.fault
  dsimp only
  split_ifs <;> rfl

theorem mark_pulse_nightF (t : Top) (cls : EvClass) (b n : Nat) : ((t.pulse cls).mark b cls n).nightF = t.nightF := by
  unfold Top.mark Top.pulse Top.fault
  dsimp only
  split_ifs <;> rfl

/-- What an event of class F does to TOP while ticks run: it waits for the boundary, stands against a RESUME, or changes nothing (R29, R479). -/
def Top.struck (t : Top) (b ev : Nat) : Top :=
  match t.state with
  | .night => { t with nightF := (b, ev) :: t.nightF }
  | .dusk => t
  | _ => { t with classF := true }

theorem Top.struck_state (t : Top) (b ev : Nat) : (t.struck b ev).state = t.state := by
  unfold Top.struck
  split <;> rfl

theorem Top.struck_errPulse (t : Top) (b ev : Nat) : (t.struck b ev).errPulse = t.errPulse := by
  unfold Top.struck
  split <;> rfl

theorem Top.struck_classF (t : Top) (b ev : Nat) : (t.struck b ev).classF = (t.classF || decide (t.state ≠ .dusk ∧ t.state ≠ .night)) := by
  cases is : t.state <;> simp [Top.struck, is]

theorem Top.struck_nightF (t : Top) (b ev : Nat) : (t.struck b ev).nightF = if t.state = .night then (b, ev) :: t.nightF else t.nightF := by
  cases is : t.state <;> simp [Top.struck, is]

theorem classFNow_struck {s : State} (runs : s.time.running = true) (b ev : Nat) : s.classFNow b ev = s.modTop fun t => t.struck b ev := by
  cases is : s.top.state with
  | night | dusk => simp [State.classFNow, State.modTop, Top.struck, is]
  | dawn | morning | noon => simp [State.classFNow, State.modTop, Top.struck, is, runs]

/-- TOP after an event that no shadow holds back. -/
def Top.afterEvent (t : Top) (b ev : Nat) (cls : EvClass) (tick : Nat) : Top :=
  if cls = .f then ((t.pulse cls).mark b cls tick).struck b ev else (t.pulse cls).mark b cls tick

/-- An event that no shadow holds back and that drives ERR_N, while ticks run: what it sends, the common registers, TOP and ATTN_N. -/
theorem raiseAs_signals {s : State} (noShadow : s.top.shadows = []) (runs : s.time.running = true) {cls : EvClass} (signals : s.top.Signals cls)
    (b ev who detail : Nat) : s.raiseAs b ev cls who detail none = { s with
      sent := s.sent ++ [.pin 0 true]
      commons := (s.raiseAs b ev cls who detail none).commons
      top := s.top.afterEvent b ev cls s.time.tick
      tw1 := { s.tw1 with attnHw := s.tw1.attnHw ||| 1 } } := by
  by_cases isF : cls = .f
  · subst isF
    rw [raiseAs_f, classFNow_struck (s := s.recordF b ev detail) runs]
    rfl
  · obtain ⟨-, eq⟩ := raise_eq s b ev who detail cls noShadow fun h => absurd h isF
    rw [if_neg isF, if_pos signals, if_pos signals] at eq
    unfold Top.afterEvent
    rw [if_neg isF]
    exact eq

/-- An event that no shadow holds back and that does not drive ERR_N: the common registers and TOP. -/
theorem raiseAs_silent {s : State} (noShadow : s.top.shadows = []) {cls : EvClass} (silent : ¬s.top.Signals cls) (b ev who detail : Nat) :
    s.raiseAs b ev cls who detail none = { s with
      commons := (s.raiseAs b ev cls who detail none).commons
      top := s.top.afterEvent b ev cls s.time.tick } := by
  have isF : cls ≠ .f := fun h => silent (.inl h)
  obtain ⟨-, eq⟩ := raise_eq s b ev who detail cls noShadow fun h => absurd h isF
  rw [if_neg isF, if_neg silent, if_neg silent] at eq
  unfold Top.afterEvent
  rw [if_neg isF]
  exact eq

/-- An event that no shadow holds back is recorded, whatever of the state other than the common registers has changed before (R485). -/
theorem raiseAs_open_recorded {s u : State} (same : u.commons = s.commons) (noShadow : u.top.shadows = []) (runs : u.time.running = true)
    (b ev who detail : Nat) (cls : EvClass) : Recorded s (u.raiseAs b ev cls who detail none) b ev cls detail := by
  by_cases isF : cls = .f
  · subst isF
    exact raiseAs_f_recorded same runs b ev who detail
  · exact raiseAs_recorded same noShadow b ev who detail isF

theorem Top.afterEvent_state (t : Top) (b ev : Nat) (cls : EvClass) (n : Nat) : (t.afterEvent b ev cls n).state = t.state := by
  unfold Top.afterEvent
  split
  · exact (Top.struck_state _ _ _).trans (mark_pulse_state _ _ _ _)
  · exact mark_pulse_state _ _ _ _

theorem Top.afterEvent_errPulse (t : Top) (b ev : Nat) (cls : EvClass) (n : Nat) :
    (t.afterEvent b ev cls n).errPulse = (t.pulse cls).errPulse := by
  unfold Top.afterEvent
  split
  · exact (Top.struck_errPulse _ _ _).trans (Top.mark_errPulse _ _ _ _)
  · exact Top.mark_errPulse _ _ _ _

theorem Top.afterEvent_classF (t : Top) (b ev : Nat) (cls : EvClass) (n : Nat) :
    (t.afterEvent b ev cls n).classF = (t.classF || decide (cls = .f ∧ t.state ≠ .dusk ∧ t.state ≠ .night)) := by
  unfold Top.afterEvent
  split
  · rw [Top.struck_classF, mark_pulse_classF, mark_pulse_state]
    simp_all
  · rw [mark_pulse_classF]
    simp_all

theorem Top.afterEvent_nightF (t : Top) (b ev : Nat) (cls : EvClass) (n : Nat) :
    (t.afterEvent b ev cls n).nightF = if cls = .f ∧ t.state = .night then (b, ev) :: t.nightF else t.nightF := by
  unfold Top.afterEvent
  split
  · rw [Top.struck_nightF, mark_pulse_nightF, mark_pulse_state]
    simp_all
  · rw [mark_pulse_nightF]
    simp_all

/-- Settles O24: the event is recorded; whether it drives ERR_N decides what else it changes. -/
theorem eventsAreRecordedAndSignalled : Obligations.EventsAreRecordedAndSignalled := by
  unfold Obligations.EventsAreRecordedAndSignalled
  intro s b ev detail cls noShadow runs pw
  have recorded : Recorded s (s.raise b ev cls detail) b ev cls detail := raiseAs_open_recorded rfl noShadow runs b ev detail detail cls
  refine ⟨recorded, ?_⟩
  by_cases signals : s.top.Signals cls
  · rw [State.raise, raiseAs_signals noShadow runs signals]
    refine ⟨rfl, Top.afterEvent_state .., Top.afterEvent_classF .., Top.afterEvent_nightF .., fun _ => ⟨rfl, ?_, rfl⟩, fun silent => absurd signals silent⟩
    exact (congrArg (Option.map _) (Top.afterEvent_errPulse ..)).trans (Top.pulse_pw signals pw)
  · rw [State.raise, raiseAs_silent noShadow signals]
    refine ⟨rfl, Top.afterEvent_state .., Top.afterEvent_classF .., Top.afterEvent_nightF .., fun h => absurd h signals, fun _ => ⟨rfl, ?_, rfl⟩⟩
    exact (Top.afterEvent_errPulse ..).trans (congrArg Top.errPulse (Top.pulse_silent signals))

/-- The common registers after a change of one block's, in a state that differs from the old one in other parts as well. -/
theorem common_of_tmod {s t : State} {b : Nat} (f : Common → Common) (h : t.commons = tmod {} s.commons b f) :
    t.common b = f (s.common b) ∧ ∀ n, n ≠ b → t.common n = s.common n := by
  unfold State.common
  rw [h]
  exact ⟨tget_tmod_same _ _ _ _, fun n other => tget_tmod_other _ _ _ _ _ other⟩

/-! ### An event inside a reset shadow (R501, R502, R505) -/

/-- The history entry of an event that a shadow holds back. -/
def State.conseqEntry (s : State) (x : Shadow) (b ev who detail : Nat) (cls : EvClass) : HistEntry :=
  { code := b * 256 + ev, cls := cls, conseq := true, forced := false, polled := false, persist := false
    func := s.shadowFunc x b ev who, stamped := false, stamp := 0, detail := detail % 2 ^ 32 }

theorem raiseAs_shadowed {s : State} {b ev who : Nat} {cls : EvClass} {x : Shadow} (c : cls ≠ .f) (inside : s.shadowFor b ev who = some x)
    (detail : Nat) : s.raiseAs b ev cls who detail none =
      (s.setCommon b fun c => (c.log (s.conseqEntry x b ev who detail cls)).noteOverrun ev).holdIn x ⟨b, ev, who⟩ := by
  unfold State.raiseAs
  rw [if_neg c, inside]
  rfl

/-- The history and DROPPED apart, a block that logs an entry keeps its common registers. -/
theorem Common.log_eq (c : Common) (e : HistEntry) : c.log e = { c with hist := (e :: c.hist).take 8, dropped := (c.log e).dropped } := rfl

theorem Common.noteOverrun_eq (c : Common) (ev : Nat) : c.noteOverrun ev = { c with overrun := (c.noteOverrun ev).overrun } := by
  unfold Common.noteOverrun
  split <;> rfl

theorem common_holdIn (s : State) (x : Shadow) (h : HeldCond) (b : Nat) : (s.holdIn x h).common b = s.common b := rfl

/-- Settles O25: `raiseAs_shadowed` logs one entry and lets the shadow hold the condition. -/
theorem shadowsHoldEventsBack : Obligations.ShadowsHoldEventsBack := by
  unfold Obligations.ShadowsHoldEventsBack
  intro s b ev who detail cls x c inside
  have logged : (s.raiseAs b ev cls who detail none).common b = ((s.common b).log (s.conseqEntry x b ev who detail cls)).noteOverrun ev := by
    rw [raiseAs_shadowed c inside, common_holdIn, State.common_setCommon_same]
  dsimp only
  rw [logged, Common.noteOverrun_eq, Common.log_eq, raiseAs_shadowed c inside]
  refine ⟨rfl, rfl, rfl, ⟨_, rfl, rfl, rfl, rfl, rfl⟩, fun first => ?_, rfl, rfl, rfl, rfl⟩
  unfold State.shadowFunc
  rw [first]
  rfl

/-! ### FORCE (R489) -/

/-- The events that a write to FORCE raises, in ascending number. -/
def forcedEvents (val : Word) : List Nat :=
  [1, 2, 3, 4].filter (fun e => val.getLsbD e) ++ ((List.range 16).filter fun i => val.getLsbD (16 + i)).map (· + 0x10)

theorem forcedEvents_single : ∀ ev ∈ [1, 2, 3, 4] ++ (List.range 16).map (· + 0x10), forcedEvents (BitVec.ofNat 32 (2 ^ ev)) = [ev] := by decide

/-- The events below 0x10 that a block can have are those of R482. -/
theorem commonEvents_le (b : Nat) : ∀ ev ∈ commonEvents b, 1 ≤ ev ∧ ev ≤ 4 := by
  unfold commonEvents
  split_ifs <;> decide

/-- A write to FORCE with the bit of one event that the block has raises that event. -/
theorem forcedEvents_of_event {b ev : Nat} {cls : EvClass} (has : eventClass b ev = some cls) (small : ev < 32) :
    forcedEvents (BitVec.ofNat 32 (2 ^ ev)) = [ev] := by
  refine forcedEvents_single ev (List.mem_append.2 ?_)
  by_cases common : ev < 0x10
  · have listed : ev ∈ commonEvents b := by
      by_contra absent
      rw [eventClass, if_pos common, if_neg absent] at has
      cases has
    obtain ⟨lo, hi⟩ := commonEvents_le b ev listed
    left
    interval_cases ev <;> decide
  · right
    exact List.mem_map.2 ⟨ev - 0x10, List.mem_range.2 (by omega), by omega⟩

/-- The history entry of a forced event (R489). -/
def forcedEntry (b ev : Nat) (cls : EvClass) : HistEntry :=
  { code := b * 256 + ev, cls := cls, conseq := false, forced := true, polled := false, persist := false, func := 0
    stamped := false, stamp := 0, detail := 0xFFFFFFFF }

/-- A forced event without REACT: its block logs and counts it, and nothing of TOP but the pulse of ERR_N changes. -/
theorem forceEvent_plain {b ev : Nat} {cls : EvClass} (has : eventClass b ev = some cls) (s : State) : ∃ sent tw1,
    State.forceEvent false b s ev = { s with
      sent := sent, tw1 := tw1, top := s.top.pulse cls
      commons := tmod {} s.commons b fun c => (c.log (forcedEntry b ev cls)).flag ev cls } := by
  unfold State.forceEvent
  rw [has]
  dsimp only
  rw [if_pos (show (!false) = true from rfl)]
  split
  · exact ⟨_, _, rfl⟩
  · exact ⟨_, _, rfl⟩

theorem pulse_leaves (t : Top) (cls : EvClass) : t.pulse cls = { t with errPulse := (t.pulse cls).errPulse } := by
  unfold Top.pulse
  dsimp only
  split <;> rfl

/-- INT_STAT and the counters that an event of a class adds to. -/
theorem Common.flag_eq (c : Common) (ev : Nat) (cls : EvClass) : c.flag ev cls = { c with
    intStat := c.intStat ||| BitVec.ofNat 32 (2 ^ ev), cntC := c.cntC + if cls = .c then 1 else 0
    cntU := c.cntU + if cls = .u then 1 else 0, cntF := c.cntF + if cls = .f then 1 else 0 } := by
  cases cls <;> simp [Common.flag, eventBit, w32]

/-- A block whose FORCE has been written without REACT. -/
def State.withoutReact (s : State) (b : Nat) : State := s.setCommon b fun c => { c with forceReact := false }

/-- FORCE written with the bit of one event raises that event, without REACT. -/
theorem exec_force_single {s : State} {m : Master} {b ev : Nat} {cls : EvClass} (may : s.MayWrite m b 0x14) (has : eventClass b ev = some cls)
    (pos : 0 < ev) (small : ev < 32) :
    exec (.force m b (BitVec.ofNat 32 (2 ^ ev))) s = .next (State.forceEvent false b (s.quiet.withoutReact b) ev) := by
  have react : (BitVec.ofNat 32 (2 ^ ev)).getLsbD 0 = false := by
    rw [BitVec.getLsbD_ofNat, Nat.testBit_two_pow_of_ne pos.ne', Bool.and_false]
  have once : s.quiet.force b (BitVec.ofNat 32 (2 ^ ev)) =
      foldS (State.forceEvent false b) (s.quiet.withoutReact b) (forcedEvents (BitVec.ofNat 32 (2 ^ ev))) := by
    unfold State.force
    rw [react]
    rfl
  rw [forcedEvents_of_event has small] at once
  exact congrArg Host.Outcome.next ((viaWrite_ok s m b 0x14 _ may).trans once)

/-- Settles O26: FORCE raises its one event, and `forceEvent_plain` says what that changes. -/
theorem forcedEventsAreLoggedAsForced : Obligations.ForcedEventsAreLoggedAsForced := by
  unfold Obligations.ForcedEventsAreLoggedAsForced
  intro s m b ev cls may has pos small
  obtain ⟨sent, tw1, event⟩ := forceEvent_plain has (s.quiet.withoutReact b)
  obtain ⟨written, apart⟩ := common_of_tmod (s := s) (t := s.quiet.withoutReact b) (b := b) (fun c => { c with forceReact := false }) rfl
  obtain ⟨logged, others⟩ := common_of_tmod (s := s.quiet.withoutReact b) (b := b) (fun c => (c.log (forcedEntry b ev cls)).flag ev cls)
    (congrArg State.commons event)
  rw [written] at logged
  refine ⟨_, exec_force_single may has pos small, ?_⟩
  rw [logged, Common.flag_eq, Common.log_eq]
  refine ⟨rfl, rfl, rfl, rfl, rfl, ⟨_, rfl, rfl, rfl, rfl, rfl⟩, fun n other => (others n other).trans (apart n other), ?_⟩
  rw [event, pulse_leaves]
  exact ⟨rfl, rfl, rfl, rfl, rfl⟩

/-! ### Histories (R486, R487, R490) -/

theorem Common.stamp_stamped (c : Common) (ns : Nat) (polled : Bool) : ∀ e ∈ (c.stamp ns polled).hist, e.stamped = true := by
  intro e mem
  obtain ⟨x, -, rfl⟩ := List.mem_map.1 mem
  split
  · assumption
  · rfl

theorem Common.stamp_codes (c : Common) (ns : Nat) (polled : Bool) : ((c.stamp ns polled).hist.map fun e => e.code) = c.hist.map fun e => e.code := by
  rw [Common.stamp, List.map_map]
  refine List.map_congr_left fun e _ => ?_
  show HistEntry.code (if e.stamped then e else _) = e.code
  split <;> rfl

theorem Common.stamp_length (c : Common) (ns : Nat) (polled : Bool) : (c.stamp ns polled).hist.length = c.hist.length := List.length_map _

theorem allBlocks_nodup : allBlocks.Nodup := List.nodup_range.filter _

/-- The stamp of one block in the 1 ms poll (R486). -/
def State.pollBlock (ns : Nat) (s : State) (b : Nat) : State := if s.blockOn b then s.setCommon b fun c => c.stamp ns true else s

/-- The domains and the common registers of one block stand. -/
def SameBlock (n : Nat) (s t : State) : Prop := t.pwr = s.pwr ∧ t.common n = s.common n

theorem pollBlock_other (ns : Nat) {n : Nat} (s : State) (b : Nat) (other : b ≠ n) : SameBlock n s (s.pollBlock ns b) := by
  unfold State.pollBlock
  split
  · exact ⟨rfl, State.common_setCommon_other s b n _ other.symm⟩
  · exact ⟨rfl, rfl⟩

/-- The poll stamps a block that is on, once. -/
theorem pollBlocks_common (ns : Nat) {s : State} {n : Nat} (listed : n ∈ allBlocks) (on : s.blockOn n = true) :
    (foldS (State.pollBlock ns) s allBlocks).common n = (s.common n).stamp ns true := by
  obtain ⟨u, ⟨pwr, before⟩, -, after⟩ := foldS_around (R := SameBlock n) (fun _ => ⟨rfl, rfl⟩)
    (fun h k => ⟨k.1.trans h.1, k.2.trans h.2⟩) (State.pollBlock ns) (pollBlock_other ns) s allBlocks_nodup listed
  have still : u.blockOn n = true := by
    unfold State.blockOn State.domOn at on ⊢
    rw [pwr]
    exact on
  rw [after, State.pollBlock, if_pos still, State.common_setCommon_same, before]

/-- Settles O27: the three commands each change the histories of blocks alone. -/
theorem historiesAreClearedAndStamped : Obligations.HistoriesAreClearedAndStamped := by
  unfold Obligations.HistoriesAreClearedAndStamped
  intro s m b
  refine ⟨fun may => ?_, fun may primary => ?_, ⟨_, rfl, fun n listed on => ?_⟩⟩
  · obtain ⟨same, others⟩ := common_of_tmod (s := s) (t := s.quiet.clearHist b) (b := b) (fun c => { c with hist := [], dropped := 0 }) rfl
    refine ⟨_, congrArg Host.Outcome.next (viaWrite_ok s m b 0x18 _ may), ?_⟩
    rw [same]
    exact ⟨rfl, rfl, rfl, others, rfl⟩
  · have read : s.quiet.readIntStat m b = (s.quiet.setCommon b fun c => c.stamp s.quiet.nowNs false).fresh := if_pos primary
    have run : exec (.intStatRead m b) s = .next ((s.quiet.setCommon b fun c => c.stamp s.quiet.nowNs false).fresh.emit
        (.data [(s.common b).intStat.toNat])) := by
      rw [← read]
      show execIntStatRead m b s = _
      unfold execIntStatRead
      dsimp only
      rw [show s.quiet.regCause m (regAddr b 0xC) 4 false = none from may]
      rfl
    obtain ⟨same, others⟩ := common_of_tmod (s := s) (b := b)
      (t := (s.quiet.setCommon b fun c => c.stamp s.quiet.nowNs false).fresh.emit (.data [(s.common b).intStat.toNat]))
      (fun c => c.stamp s.quiet.nowNs false) rfl
    refine ⟨_, run, rfl, ?_⟩
    rw [same]
    exact ⟨rfl, Common.stamp_stamped _ _ _, Common.stamp_codes _ _ _, others⟩
  · have same := pollBlocks_common s.quiet.nowNs (s := s.quiet.fresh) listed on
    unfold State.pollBlock at same
    rw [same]
    exact ⟨rfl, Common.stamp_stamped _ _ _, Common.stamp_length _ _ _⟩

/-! ### ERR_N (R495-R497) -/

/-- Settles O28: the pin follows the running pulse and HOLD. -/
theorem errPinIsPulsedAndHeld : Obligations.ErrPinIsPulsedAndHeld := by
  unfold Obligations.ErrPinIsPulsedAndHeld
  intro s m p
  refine ⟨fun pulse => ?_, fun may held => ?_, fun may => ?_⟩
  · refine ⟨_, ?_, rfl, rfl⟩
    show execErrPulseEnd s = _
    unfold execErrPulseEnd
    dsimp only
    rw [show s.quiet.top.errPulse = some p from pulse]
    rfl
  · refine congrArg Host.Outcome.next ((viaWrite_ok s m blkTop 0x120 _ may).trans ?_)
    unfold State.holdRelease
    rw [if_pos (show s.quiet.top.errHold = true from held)]
    simp [Top.errLow, State.emit, State.modTop, State.quiet]
  · exact congrArg Host.Outcome.next (viaWrite_ok s m blkTop 0x120 _ may)

end Sys2Proof.Machine
end

section
/-! PROOF. Per-function resets: requests, their start with a shadow, their end, and the close of a shadow (R498-R505): O29. -/

namespace Sys2Proof.Machine

/-! ### The records of resets in TOP -/

/-- What TOP holds of resets: the target of FRST1, those that run, wait and are held, and the functions of the shadows. -/
structure ResetView where
  target : Nat
  resets : List FnReset
  queue : List Nat
  held : List Nat
  shadows : List Nat

def Top.resetView (t : Top) : ResetView := ⟨t.frstTarget, t.resets, t.resetQ, t.frstHeld, t.shadows.map fun x => x.func⟩

theorem mark_pulse_resetView (t : Top) (cls : EvClass) (b n : Nat) : ((t.pulse cls).mark b cls n).resetView = t.resetView := by
  unfold Top.mark Top.pulse Top.fault
  dsimp only
  split_ifs <;> rfl

theorem holdIn_resetView (s : State) (x : Shadow) (h : HeldCond) : (s.holdIn x h).top.resetView = s.top.resetView := by
  have funcs : ((s.holdIn x h).top.shadows.map fun y => y.func) = s.top.shadows.map fun y => y.func := by
    show List.map _ (List.map _ _) = _
    rw [List.map_map]
    refine List.map_congr_left fun y _ => ?_
    show Shadow.func (if y.func = x.func then { y with held := y.held ++ [h] } else y) = y.func
    split <;> rfl
  unfold Top.resetView
  rw [funcs]
  rfl

/-- An event of class C or U starts, ends and moves no reset. -/
theorem raiseAs_resetView (s : State) (b ev who detail : Nat) {cls : EvClass} (p : Option Nat) (c : cls ≠ .f) :
    (s.raiseAs b ev cls who detail p).top.resetView = s.top.resetView := by
  unfold State.raiseAs
  rw [if_neg c]
  dsimp only
  split
  · exact holdIn_resetView _ _ _
  · rw [if_neg c]
    split
    · exact mark_pulse_resetView _ _ _ _
    · exact mark_pulse_resetView _ _ _ _

/-! ### Requests (R498, R499) -/

/-- The functions that FRST0 resets. -/
def frst0Funcs : List Nat := (List.range 25).filter fun i => decide (i ≤ 10) || decide (16 ≤ i)

/-- A write to FRST0 with the bit of one function requests that one, and no reserved bit. -/
theorem frst0_single : ∀ f ∈ frst0Funcs, (BitVec.ofNat 32 (2 ^ f) : Word) &&& 0xFE00F800#32 = 0 ∧
    ((List.range 25).filter fun i => (BitVec.ofNat 32 (2 ^ f) : Word).getLsbD i && (decide (i ≤ 10) || decide (16 ≤ i))) = [f] := by decide

theorem exec_frst0_single {s : State} {m : Master} {f : Nat} (may : s.MayWrite m blkTop 0x110) (range : f ≤ 10 ∨ 16 ≤ f ∧ f ≤ 24) :
    exec (.frst0 m (BitVec.ofNat 32 (2 ^ f))) s = .next (s.quiet.requestReset m f) := by
  obtain ⟨reserved, one⟩ := frst0_single f (List.mem_filter.2 ⟨List.mem_range.2 (by omega), by simp; omega⟩)
  refine congrArg Host.Outcome.next ((viaWrite_ok s m blkTop 0x110 _ may).trans ?_)
  unfold State.writeFrst0
  dsimp only
  rw [if_pos reserved, one]
  rfl

theorem requestReset_refused {s : State} {m : Master} {f : Nat} (refused : s.resetRefused m f = true) :
    s.requestReset m f = s.modTop fun t => { t with frstRej := true } := if_pos refused

/-- A request starts where nothing of its kind runs: neither the function itself nor, for a port, another port. -/
theorem requestReset_starts {s : State} {m : Master} {f : Nat} (granted : s.resetRefused m f = false)
    (port : f < 0x40 ∨ s.top.resets = []) (idle : (s.top.resets.any fun r => r.func == f) = false) : s.requestReset m f = s.startReset f := by
  unfold State.requestReset
  rw [if_neg (by simp [granted]), if_neg, if_neg (by simp [idle])]
  rcases port with low | none
  · exact fun h => absurd h.1 (by omega)
  · simp [none]

/-! ### The start of a reset (R499-R501, R503) -/

/-- The reset runs and its shadow is open, before what its start does to the function itself. -/
def State.resetOpened (s : State) (f : Nat) : State := s.modTop fun t =>
  { t with resets := t.resets ++ [⟨f, s.time.tick⟩], frstHeld := t.frstHeld.filter (· != f)
           shadows := t.shadows ++ [{ func := f, openTick := s.time.tick, ticks := shadowTicks f, held := [], down := s.downstream f }]
           faults := if f ≤ 6 then (t.fault s.time.tick).faults else t.faults }

theorem startReset_port {s : State} {f p : Nat} (port : funcPort f = some p) : s.startReset f = (s.resetOpened f).resetPort p := by
  unfold State.startReset
  rw [port]
  rfl

/-- What the start of the reset of another function than a port does to it: CSW, the buffer of HOSTP, the counters of a TDM port. -/
def State.resetUnit (s : State) (f : Nat) : State :=
  if f = 6 then s.resetCsw
  else if f = 10 then { s with hostp := { s.hostp with dstate := 0 } }
  else if 0x70 ≤ f then { s with tdm := { s.tdm with ports := tmod {} s.tdm.ports (f - 0x70) fun (x : TdmPort) => { x with slips := 0, lost := false } } }
  else s

theorem startReset_unit {s : State} {f : Nat} (noPort : funcPort f = none) : s.startReset f = (s.resetOpened f).resetUnit f := by
  unfold State.startReset
  rw [noPort]
  rfl

theorem withdrawTags_top (s : State) (x tick epoch : Nat) : (s.withdrawTags x tick epoch).top = s.top := rfl

theorem resetCsw_top (s : State) : s.resetCsw.top = s.top :=
  foldS_view State.top _ (fun _ _ => foldS_view State.top _ (fun _ _ => withdrawTags_top _ _ _ _) _ _) s _

/-- The start of a reset of no port changes TOP by its record and its shadow alone. -/
theorem startReset_top {s : State} {f : Nat} (noPort : funcPort f = none) : (s.startReset f).top = (s.resetOpened f).top := by
  rw [startReset_unit noPort, State.resetUnit]
  split_ifs
  · exact resetCsw_top (s.resetOpened f)
  · rfl
  · rfl
  · rfl

theorem drainGroup_resetView (s : State) (g : Nat) : (s.drainGroup g).top.resetView = s.top.resetView :=
  raiseAs_resetView _ _ _ _ _ _ nofun

theorem drainGroup_media (s : State) (g : Nat) {p : Nat} (media : p < 32) : (s.drainGroup g).port p = s.port p := by
  obtain ⟨u, drains, ports⟩ : ∃ u : State, s.drainGroup g = u.raise (blkPort (32 + s.groupHead g)) 0x19 .u g ∧
    u.ports = (s.countPort (32 + s.groupHead g) 20 ((s.group g).waiting.length + (s.group g).replay.length)).ports := ⟨_, rfl, rfl⟩
  have same : (s.drainGroup g).ports = (s.countPort (32 + s.groupHead g) 20 ((s.group g).waiting.length + (s.group g).replay.length)).ports := by
    rw [drains, (raise_reported u _ _ _ .u nofun).ports, ports]
  unfold State.port at same ⊢
  rw [same]
  exact State.port_setPort_other _ _ _ _ (by omega)

/-- The port of a reset, with its link down, its counters clear and nothing waiting. -/
def Port.atReset (x : Port) : Port := { x with up := false, preempt := false, cnt := [], pausedCtl := false, pausedBulk := false, held := [] }

/-- The start of the reset of a port whose link is down: its state goes, and its group drains (R503). -/
theorem resetPort_down {s : State} {p : Nat} (down : (s.port p).up = false) :
    (s.resetPort p).top.resetView = s.top.resetView ∧ (p < 32 → (s.resetPort p).port p = (s.port p).atReset) := by
  have same : (s.setPort p Port.atReset).port p = (s.port p).atReset := State.port_setPort_same _ _ _
  unfold State.resetPort
  simp only [down, Bool.false_eq_true, if_false]
  split
  · refine ⟨?_, fun media => absurd media (by omega)⟩
    split
    · exact drainGroup_resetView _ _
    · rfl
  · exact ⟨rfl, fun _ => same⟩

/-- The ports among the functions of FRST1: media ports, peer links, and TDM ports, which are none of 4.5's. -/
theorem funcPort_of_target {p : Nat} (range : p < 64) : funcPort (0x40 + p) = if p < 48 then some p else none := by
  unfold funcPort
  split_ifs <;> first | omega | (congr 1; omega) | rfl

/-- The start of the reset that FRST1 asks for. -/
theorem startReset_target {s : State} {p : Nat} (range : p < 64) (down : (s.port p).up = false) :
    (s.startReset (0x40 + p)).top.resetView = (s.resetOpened (0x40 + p)).top.resetView ∧
      (p < 32 → (s.startReset (0x40 + p)).port p = (s.port p).atReset) := by
  have port := funcPort_of_target range
  by_cases lane : p < 48
  · rw [if_pos lane] at port
    rw [startReset_port port]
    exact resetPort_down (s := s.resetOpened (0x40 + p)) down
  · rw [if_neg lane] at port
    exact ⟨congrArg Top.resetView (startReset_top port), fun media => absurd media (by omega)⟩

/-! ### The end of a reset (R13, R503, R504) -/

/-- TOP is no function's own block. -/
theorem resetBlock_ne_top (f : Nat) : resetBlock f ≠ some blkTop := by
  unfold resetBlock
  iterate 9 refine iteInduction (motive := (· ≠ some blkTop)) (fun _ => by decide) fun _ => ?_
  refine iteInduction (motive := (· ≠ some blkTop)) (fun _ own => ?_) fun _ => ?_
  · exact absurd (Option.some.inj own) (by unfold blkCl blkTop; omega)
  · refine iteInduction (motive := (· ≠ some blkTop)) (fun link own => ?_) fun _ => nofun
    exact absurd (Option.some.inj own) (by unfold blkTop; omega)

theorem silRest_woken (s : State) : Woken { s with sil := { s.sil with det := [], log := [], mon := [] } } s.silRest :=
  foldS_keeps (P := Woken _) _ (fun t n h => h.trans (wake_woken t n)) (.refl _) _

/-- TOP and the common registers stand. -/
def State.SameFrame (s t : State) : Prop := t.top = s.top ∧ t.commons = s.commons

/-- A function that restarts leaves TOP, and of the common registers those of its own block. -/
theorem functionRest_frame (s : State) (f : Nat) : (s.functionRest f).top = s.top ∧
    (s.functionRest f).commons = (match resetBlock f with | some b => s.setCommon b Common.keepRws | none => s).commons := by
  unfold State.functionRest
  extract_lets own
  have kept : own.top = s.top ∧ own.commons = (match resetBlock f with | some b => s.setCommon b Common.keepRws | none => s).commons := by
    refine ⟨?_, rfl⟩
    unfold own
    split <;> rfl
  have sil : own.silRest.top = own.top ∧ own.silRest.commons = own.commons := by
    obtain ⟨w, sil⟩ := silRest_woken own
    rw [sil]
    exact ⟨rfl, rfl⟩
  rw [← kept.1, ← kept.2]
  clear_value own
  show own.SameFrame _
  iterate 4 refine iteInduction (motive := State.SameFrame own) (fun _ => ⟨rfl, rfl⟩) fun _ => ?_
  refine iteInduction (motive := State.SameFrame own) (fun _ => sil) fun _ => ?_
  iterate 5 refine iteInduction (motive := State.SameFrame own) (fun _ => ⟨rfl, rfl⟩) fun _ => ?_
  exact ⟨rfl, rfl⟩

theorem functionRest_common (s : State) (f n : Nat) :
    (s.functionRest f).common n = if resetBlock f = some n then (s.common n).keepRws else s.common n := by
  unfold State.common
  rw [(functionRest_frame s f).2]
  cases own : resetBlock f with
  | none => simp
  | some b =>
    refine (common_setCommon s b n Common.keepRws).trans ?_
    by_cases same : n = b
    · subst same
      simp [State.common]
    · rw [if_neg same, if_neg (by simpa using Ne.symm same)]
      rfl

theorem nextReset_none {s : State} (none : s.top.resetQ = []) : s.nextReset = s := by
  unfold State.nextReset
  dsimp only
  rw [none]
  rfl

/-- The state at the end of a reset, before its function restarts or stays held. -/
def State.resetEnded (s : State) (f : Nat) : State := s.modTop fun t => { t with resets := t.resets.filter fun r => r.func != f }

theorem execFrstDone_running {s : State} {f : Nat} (runs : (s.top.resets.any fun r => r.func == f) = true) (alone : s.top.resetQ = []) :
    execFrstDone f s = .next (((s.quiet.resetEnded f).functionRest f).raise blkTop 0x10 .c f) := by
  have queue : (((s.quiet.resetEnded f).functionRest f).raise blkTop 0x10 .c f).top.resetQ = [] := by
    have view := raiseAs_resetView ((s.quiet.resetEnded f).functionRest f) blkTop 0x10 f f none (cls := .c) nofun
    rw [(functionRest_frame _ f).1] at view
    exact (congrArg ResetView.queue view).trans alone
  unfold execFrstDone
  dsimp only
  rw [if_pos (show (s.quiet.top.resets.any fun r => r.func == f) = true from runs)]
  exact congrArg Host.Outcome.next (nextReset_none queue)

/-- The state in which a function stays held in reset. -/
def State.resetHeld (s : State) (f : Nat) : State :=
  s.modTop fun t => { t with resets := t.resets.filter (fun r => r.func != f), frstHeld := t.frstHeld ++ [f] }

theorem execFrstFail_running {s : State} {f : Nat} (runs : (s.top.resets.any fun r => r.func == f) = true) (alone : s.top.resetQ = []) :
    execFrstFail f s = .next ((s.quiet.resetHeld f).raise blkTop 0x11 .u f) := by
  have queue : ((s.quiet.resetHeld f).raise blkTop 0x11 .u f).top.resetQ = [] :=
    (congrArg ResetView.queue (raiseAs_resetView (s.quiet.resetHeld f) blkTop 0x11 f f none (cls := .u) nofun)).trans alone
  unfold execFrstFail
  dsimp only
  rw [if_pos (show (s.quiet.top.resets.any fun r => r.func == f) = true from runs)]
  exact congrArg Host.Outcome.next (nextReset_none queue)

/-! ### The close of a shadow (R504, R505) -/

/-- The only open shadow closes: each condition it holds is examined again. -/
theorem execShadowClose_only {s : State} {x : Shadow} (only : s.top.shadows = [x]) (due : ∀ k, x.ticks = some k → x.openTick + k ≤ s.time.tick) :
    execShadowClose x.func s = .next (foldS (State.reexamine x.func) (s.quiet.modTop fun t => { t with shadows := [] }) (heldOnce x.held)) := by
  have closed : (s.quiet.modTop fun t => { t with shadows := afterClose x t.shadows }) = s.quiet.modTop fun t => { t with shadows := [] } := by
    have gone : afterClose x s.top.shadows = [] := by
      rw [only]
      simp [afterClose]
    exact congrArg (fun l => s.quiet.modTop fun t => { t with shadows := l }) gone
  have found : (s.quiet.top.shadows.find? fun y => y.func == x.func) = some x := by
    rw [show s.quiet.top.shadows = [x] from only]
    simp


  unfold execShadowClose
  dsimp only
  rw [found]
  dsimp only
  rw [closed, if_neg]
  split
  · rename_i k ticks
    simp [State.quiet, due k ticks]
  · simp

/-- A condition that no shadow contains any more, and whose detector finds nothing, is dropped. -/
theorem reexamine_gone {s : State} {h : HeldCond} {cls : EvClass} (noShadow : s.top.shadows = []) (event : eventClass h.blk h.ev = some cls)
    (past : s.conditionHolds h = false) (func : Nat) : s.reexamine func h = s := by
  unfold State.reexamine
  rw [shadowFor_nil s noShadow, event]
  dsimp only
  rw [past]
  rfl

/-- A condition that no shadow contains any more and that still holds is raised with PERSIST and FUNC (R504). -/
theorem reexamine_holds {s : State} {h : HeldCond} {cls : EvClass} (noShadow : s.top.shadows = []) (event : eventClass h.blk h.ev = some cls)
    (still : s.conditionHolds h = true) (func : Nat) :
    ∃ detail, s.reexamine func h = s.raiseAs h.blk h.ev cls h.detail detail (some func) := by
  unfold State.reexamine
  rw [shadowFor_nil s noShadow, event]
  dsimp only
  rw [still]
  exact ⟨_, rfl⟩

/-- The history entry of a condition that outlives a shadow (R504). -/
def persistEntry (b ev : Nat) (cls : EvClass) (func detail : Nat) : HistEntry :=
  { code := b * 256 + ev, cls := cls, conseq := false, forced := false, polled := false, persist := true, func := func
    stamped := false, stamp := 0, detail := detail % 2 ^ 32 }

theorem raiseAs_persists {s : State} (noShadow : s.top.shadows = []) {cls : EvClass} (c : cls ≠ .f) (b ev who detail func : Nat) :
    (s.raiseAs b ev cls who detail (some func)).top.shadows = [] ∧
      (s.raiseAs b ev cls who detail (some func)).common b =
        (((s.common b).log (persistEntry b ev cls func detail)).noteOverrun ev).flag ev cls := by
  have logged (u : State) (h : u.commons = ((s.setCommon b fun c => (c.log (persistEntry b ev cls func detail)).noteOverrun ev).setCommon b
      fun c => c.flag ev cls).commons) : u.common b = (((s.common b).log (persistEntry b ev cls func detail)).noteOverrun ev).flag ev cls := by
    rw [show u.common b = _ from congrArg (tget ({} : Common) · b) h]
    refine (State.common_setCommon_same _ _ _).trans ?_
    rw [State.common_setCommon_same]
  unfold State.raiseAs
  rw [if_neg c, shadowFor_nil s noShadow]
  dsimp only
  rw [if_neg c]
  split
  · exact ⟨(mark_pulse_shadows _ _ _ _).trans noShadow, logged _ rfl⟩
  · exact ⟨(mark_pulse_shadows _ _ _ _).trans noShadow, logged _ rfl⟩

/-! ### The obligation -/

/-- A request by FRST0 that is granted (R499, R501). -/
theorem frst0_granted {s : State} {m : Master} {f : Nat} (may : s.MayWrite m blkTop 0x110) (range : f ≤ 10 ∨ 16 ≤ f ∧ f ≤ 24)
    (idle : (s.top.resets.any fun r => r.func == f) = false) (granted : s.resetRefused m f = false) :
    ∃ t, exec (.frst0 m (BitVec.ofNat 32 (2 ^ f))) s = .next t ∧ t.top.resets = s.top.resets ++ [⟨f, s.time.tick⟩] ∧
      t.top.shadows = s.top.shadows ++ [⟨f, s.time.tick, shadowTicks f, [], s.downstream f, []⟩] ∧ t.top.frstRej = s.top.frstRej := by
  have noPort : funcPort f = none := by
    unfold funcPort
    rw [if_neg (by omega), if_neg (by omega)]
  have top := startReset_top (s := s.quiet) noPort
  refine ⟨_, exec_frst0_single may range, ?_⟩
  rw [requestReset_starts (s := s.quiet) granted (.inl (by omega)) idle, top]
  exact ⟨rfl, rfl, rfl⟩

/-- A request by FRST1 for a port whose link is down, with no other reset running (R500, R503). -/
theorem frst1_granted {s : State} {m : Master} {p : Nat} (may : s.MayWrite m blkTop 0x114) (range : p < 64) (idle : s.top.resets = [])
    (granted : s.resetRefused m (0x40 + p) = false) (down : (s.port p).up = false) :
    ∃ t, exec (.frst1Go m p) s = .next t ∧ t.top.frstTarget = p ∧ t.top.resets = [⟨0x40 + p, s.time.tick⟩] ∧
      (t.top.shadows.map fun x => x.func) = (s.top.shadows.map fun x => x.func) ++ [0x40 + p] ∧
      (p < 32 → (t.port p).up = false ∧ (t.port p).cnt = []) := by
  let named := s.quiet.modTop fun t => { t with frstTarget := p }
  have run : exec (.frst1Go m p) s = .next (named.startReset (0x40 + p)) := by
    refine congrArg Host.Outcome.next ((viaWrite_ok s m blkTop 0x114 _ may).trans ?_)
    unfold State.goFrst1
    rw [Nat.mod_eq_of_lt range]
    exact requestReset_starts granted (.inr idle) (by rw [show named.top.resets = [] from idle]; rfl)
  obtain ⟨view, port⟩ := startReset_target (s := named) range down
  refine ⟨_, run, congrArg ResetView.target view, ?_, (congrArg ResetView.shadows view).trans List.map_append, fun media => ?_⟩
  · refine (congrArg ResetView.resets view).trans ?_
    show s.top.resets ++ _ = _
    rw [idle]
    rfl
  · rw [port media]
    exact ⟨rfl, rfl⟩

/-- The end of a reset (R13, R503): the event, and of the common registers those of the function's own block. -/
theorem frstDone_ends {s : State} {f : Nat} (runs : (s.top.resets.any fun r => r.func == f) = true) (alone : s.top.resetQ = [])
    (noShadow : s.top.shadows = []) : ∃ t, exec (.frstDone f) s = .next t ∧ (t.top.resets = s.top.resets.filter fun r => r.func != f) ∧
      (t.common blkTop).intStat = (s.common blkTop).intStat ||| 0x10000 ∧ (t.common blkTop).cntC = (s.common blkTop).cntC + 1 ∧
      (∃ e, (t.common blkTop).hist.head? = some e ∧ e.code = 0x10 ∧ e.detail = f % 2 ^ 32 ∧ e.conseq = false) ∧
      (∀ b, resetBlock f = some b → t.common b = (s.common b).keepRws) ∧
      ∀ b, b ≠ blkTop → resetBlock f ≠ some b → t.common b = s.common b := by
  let u := (s.quiet.resetEnded f).functionRest f
  have top : u.top = (s.quiet.resetEnded f).top := (functionRest_frame _ f).1
  have rest (n : Nat) : u.common n = if resetBlock f = some n then (s.common n).keepRws else s.common n := functionRest_common _ f n
  have own : u.common blkTop = s.common blkTop := (rest blkTop).trans (if_neg (resetBlock_ne_top f))
  have recorded : Recorded u (u.raise blkTop 0x10 .c f) blkTop 0x10 .c f := raiseAs_recorded rfl (top ▸ noShadow) _ _ _ _ nofun
  refine ⟨_, execFrstDone_running runs alone, ?_, ?_, ?_, ⟨_, congrArg List.head? recorded.hist, rfl, rfl, rfl⟩, fun b is => ?_,
    fun b other not => ?_⟩
  · have view := raiseAs_resetView u blkTop 0x10 f f none (cls := .c) nofun
    rw [top] at view
    exact congrArg ResetView.resets view
  · exact recorded.stat.trans (by rw [own]; rfl)
  · exact recorded.cntC.trans (by rw [own]; rfl)
  · rw [recorded.others b (fun h => resetBlock_ne_top f (h ▸ is)), rest, if_pos is]
  · rw [recorded.others b other, rest, if_neg not]

/-- A reset that fails (R484, R503): the event, and the function stays held. -/
theorem frstFail_holds {s : State} {f : Nat} (runs : (s.top.resets.any fun r => r.func == f) = true) (alone : s.top.resetQ = [])
    (noShadow : s.top.shadows = []) : ∃ t, exec (.frstFail f) s = .next t ∧ Recorded s t blkTop 0x11 .u f ∧
      (t.top.resets = s.top.resets.filter fun r => r.func != f) ∧ t.top.frstHeld = s.top.frstHeld ++ [f] ∧
      t = { s with sent := t.sent, commons := t.commons, top := t.top, tw1 := t.tw1 } := by
  have view := raiseAs_resetView (s.quiet.resetHeld f) blkTop 0x11 f f none (cls := .u) nofun
  obtain ⟨-, eq⟩ := raise_eq (s.quiet.resetHeld f) blkTop 0x11 f f .u noShadow nofun
  have recorded : Recorded s ((s.quiet.resetHeld f).raise blkTop 0x11 .u f) blkTop 0x11 .u f :=
    raiseAs_recorded (s := s) (u := s.quiet.resetHeld f) (cls := .u) rfl noShadow blkTop 0x11 f f nofun
  refine ⟨_, execFrstFail_running runs alone, recorded, congrArg ResetView.resets view,
    congrArg ResetView.held view, ?_⟩
  unfold State.raise
  rw [eq]
  rfl

/-- Settles O29: one lemma for each command. -/
theorem functionResetsStartAndEnd : Obligations.FunctionResetsStartAndEnd := by
  unfold Obligations.FunctionResetsStartAndEnd
  intro s m f p
  refine ⟨fun may range idle => ⟨frst0_granted may range idle, fun refused => ?_⟩, frst1_granted,
    fun runs alone noShadow => ⟨frstDone_ends runs alone noShadow, frstFail_holds runs alone noShadow⟩, fun x only none due => ?_,
    fun x h cls only one due event c => ⟨fun past => ?_, fun still => ?_⟩⟩
  · exact (exec_frst0_single may range).trans (congrArg Host.Outcome.next (requestReset_refused refused))
  · refine (execShadowClose_only only due).trans ?_
    rw [none]
    rfl
  · refine (execShadowClose_only only due).trans ?_
    rw [one]
    exact congrArg Host.Outcome.next (reexamine_gone (s := s.quiet.modTop fun t => { t with shadows := [] }) rfl event past x.func)
  · obtain ⟨detail, raised⟩ := reexamine_holds (s := s.quiet.modTop fun t => { t with shadows := [] }) rfl event still x.func
    obtain ⟨closed, logged⟩ := raiseAs_persists (s := s.quiet.modTop fun t => { t with shadows := [] }) rfl c h.blk h.ev h.detail detail x.func
    refine ⟨_, persistEntry h.blk h.ev cls x.func detail, (execShadowClose_only only due).trans ?_, closed, ?_⟩
    · rw [one]
      exact congrArg Host.Outcome.next raised
    · rw [logged, Common.flag_eq, Common.noteOverrun_eq, Common.log_eq]
      exact ⟨rfl, rfl, rfl, rfl, rfl, rfl⟩

end Sys2Proof.Machine
end

section
/-! PROOF. Resets, boot, Morning and saves (R559-R566, R575, R606, R607): O30, O31, O32, and the refutation of O35. -/

namespace Sys2Proof.Machine

/-! ### What an event leaves of TOP -/

/-- The records of TOP that an event may change: the pulse of ERR_N, the fault flag's ticks, the count of class U events, and what the shadows hold. -/
def NotedTop (t u : Top) : Prop := ∃ p f n sh, u = { t with errPulse := p, faults := f, uev := n, shadows := sh }

theorem mark_pulse_noted (t : Top) (cls : EvClass) (b n : Nat) : NotedTop t ((t.pulse cls).mark b cls n) := by
  rw [pulse_leaves]
  unfold Top.mark Top.fault
  dsimp only
  split_ifs
  · exact ⟨_, _, _, _, rfl⟩
  · exact ⟨_, _, _, _, rfl⟩
  · exact ⟨_, _, _, _, rfl⟩
  · exact ⟨_, _, _, _, rfl⟩

/-- An event of class C or U, inside a shadow or outside, leaves everything but what is sent, the common registers, ATTN_N and some records of TOP. -/
theorem raiseAs_noted (s : State) (b ev who detail : Nat) {cls : EvClass} (p : Option Nat) (c : cls ≠ .f) : ∃ sent commons top tw1,
    s.raiseAs b ev cls who detail p = { s with sent := sent, commons := commons, top := top, tw1 := tw1 } ∧ NotedTop s.top top := by
  unfold State.raiseAs
  rw [if_neg c]
  dsimp only
  split
  · exact ⟨_, _, _, _, rfl, _, _, _, _, rfl⟩
  · rw [if_neg c]
    split
    · exact ⟨_, _, _, _, rfl, mark_pulse_noted _ _ _ _⟩
    · exact ⟨_, _, _, _, rfl, mark_pulse_noted _ _ _ _⟩

/-- An event of class F in Night stands against a RESUME, and leaves the rest of TOP but its records (R29, R479). -/
theorem raiseAs_f_night {s : State} (night : s.top.state = .night) (b ev who detail : Nat) : ∃ sent commons top tw1,
    s.raiseAs b ev .f who detail none = { s with
      sent := sent, commons := commons, top := { top with nightF := (b, ev) :: top.nightF }, tw1 := tw1 } ∧ NotedTop s.top top := by
  have is : (s.recordF b ev detail).top.state = .night := (mark_pulse_state _ _ _ _).trans night
  refine ⟨(s.recordF b ev detail).sent, (s.recordF b ev detail).commons, (s.recordF b ev detail).top, (s.recordF b ev detail).tw1, ?_,
    mark_pulse_noted s.top .f b s.time.tick⟩
  have struck : (s.recordF b ev detail).classFNow b ev = (s.recordF b ev detail).modTop fun t => { t with nightF := (b, ev) :: t.nightF } := by
    unfold State.classFNow
    rw [is]
  exact (raiseAs_f s b ev who detail).trans struck

/-! ### Resets of the whole engine (R512, R606, R607) -/

/-- What a full reset leaves of the engine; where ERR_N was low it goes high (R606, R607). -/
theorem fullReset_eq (s : State) (power : Bool) : ∃ sent, s.fullReset power = { State.reset with
    sent := sent, pending := s.pending, freeCtr := s.freeCtr, sec := s.sec.kept power
    top := { State.reset.top with cfgA := s.top.tearSave.cfgA, cfgB := s.top.tearSave.cfgB }
    fab := { State.reset.fab with pagesA := s.fab.pagesA, pagesB := s.fab.pagesB }
    dict := { State.reset.dict with serial := s.dict.serial, vals := if power then [] else s.dict.vals.filter fun e => keyMember e.1 } } := by
  unfold State.fullReset
  dsimp only
  by_cases low : s.top.errLow = true
  · rw [if_pos low]
    exact ⟨_, rfl⟩
  · rw [if_neg low]
    exact ⟨_, rfl⟩

/-- Settles O30: each of the three commands is a full reset, with or without the loss of power. -/
theorem resetsReturnToDawn : Obligations.ResetsReturnToDawn := by
  unfold Obligations.ResetsReturnToDawn
  intro s p mem
  have run : exec p.1 s = .next (s.quiet.fullReset p.2) := by
    simp only [List.mem_cons, List.not_mem_nil, or_false] at mem
    rcases mem with rfl | rfl | rfl <;> rfl
  obtain ⟨sent, reset⟩ := fullReset_eq s.quiet p.2
  refine ⟨_, run, ?_⟩
  rw [reset]
  exact ⟨rfl, rfl, rfl, rfl, rfl, rfl, rfl, rfl, rfl, rfl, rfl, rfl, rfl, rfl, rfl, rfl, rfl, rfl, rfl, rfl, rfl, rfl, rfl, rfl⟩

/-! ### Boot (R368, R559, R560) -/

/-- The engine in Dawn before its images are tried: RST_N released, the storage key and the identity key unwrapped. -/
def State.dawned (s : State) (d : DawnBoot) : State := (s.modTop fun t => { t with inReset := false }).modSec fun c => { c with
  trngOk := d.trngOk, idkOk := d.idkOk
  storageKey := Config.storageKey, idkScalar := if d.idkOk then Config.unwrap c.idkWrapped else [] }

/-- With TRNG, identity key, ROM and both headers good, Dawn tries the two images in their order. -/
theorem dawn_tries {s : State} {d : DawnBoot} {i j : FwImage} (trng : d.trngOk = true) (idk : d.idkOk = true) (rom : d.romOk = true)
    (a : d.a = some i) (b : d.b = some j) (headA : i.headOk = true) (headB : j.headOk = true) :
    s.dawn d = (s.dawned d).tryImages (if i.gen < j.gen then [(1, j), (0, i)] else [(0, i), (1, j)]) := by
  have order : bootOrder d = if i.gen < j.gen then [(1, j), (0, i)] else [(0, i), (1, j)] := by simp [bootOrder, a, b, headA, headB]
  rw [← order]
  unfold State.dawn
  simp only [trng, idk, rom, a, b, headFails, headA, headB, Bool.not_true, Bool.false_eq_true, if_false, if_true]
  unfold State.dawned
  rw [trng, idk]
  rfl

theorem execResetRelease_tries {s : State} {d : DawnBoot} {i j : FwImage} (held : s.top.inReset = true) (trng : d.trngOk = true)
    (idk : d.idkOk = true) (rom : d.romOk = true) (a : d.a = some i) (b : d.b = some j) (headA : i.headOk = true) (headB : j.headOk = true) :
    exec (.resetRelease d) s = .next ((s.quiet.dawned d).tryImages (if i.gen < j.gen then [(1, j), (0, i)] else [(0, i), (1, j)])) :=
  congrArg Host.Outcome.next ((if_pos held).trans (dawn_tries trng idk rom a b headA headB))

theorem State.imageOk_of {s : State} {i : FwImage} (head : i.headOk = true) (body : i.bodyOk = true) (version : s.sec.secMin ≤ i.secVer) :
    s.imageOk i = true := by
  simp [State.imageOk, head, body, version]

theorem tryImages_runs {s : State} {n : Nat} {i : FwImage} (ok : s.imageOk i = true) (rest : List (Nat × FwImage)) :
    s.tryImages ((n, i) :: rest) = (s.modTop fun x => { x with booted := true, remap := true }).modFab fun f =>
      { f with primary := 0, stby := 1, runGen := i.gen, runSecVer := i.secVer, runFlash := n } := if_pos ok

/-- An image whose body is wrong or whose version lies below SEC_MIN is rejected, and the next one is tried (R368, R369). -/
theorem tryImages_rejects {s : State} {n : Nat} {i : FwImage} (bad : i.bodyOk = false ∨ i.secVer < s.sec.secMin) (rest : List (Nat × FwImage)) :
    s.tryImages ((n, i) :: rest) = (s.bootRej n).tryImages rest := by
  refine if_neg ?_
  unfold State.imageOk
  rcases bad with body | low
  · simp [body]
  · simp [Nat.not_le.2 low]

theorem bootRej_sec (s : State) (n : Nat) : (s.bootRej n).sec = s.sec := by
  obtain ⟨_, _, _, _, eq, -⟩ := raiseAs_noted s blkSec (0x11 + n) 0 s.tickDetail none (cls := .c) nofun
  rw [State.bootRej, State.secEvent, eq]

/-- Night at the end of Dawn, without the event that says why. -/
theorem enterNight_booted (s : State) (cause : Nat) : (s.enterNight cause).top.booted = s.top.booted := by
  refine (foldS_view (fun t => t.top.booted) State.domainLost (fun t d => congrArg Top.booted (domainLost_top t d)) _ _).trans ?_
  show (State.enter s .night cause).top.tearSave.booted = s.top.booted
  unfold Top.tearSave
  split_ifs <;> rfl

/-- A missing identity key ends Dawn in Night with CAUSE 3 (R389, R560). -/
theorem dawn_without_key {s : State} {d : DawnBoot} (missing : d.idkOk = false) :
    (s.dawn d).top.state = .night ∧ (s.dawn d).top.cause = 3 ∧ (s.dawn d).top.booted = s.top.booted := by
  obtain ⟨u, dawn, booted⟩ : ∃ u : State, s.dawn d = (u.enterNight 3).secEvent 0x10 .f 0 ∧ u.top.booted = s.top.booted := by
    refine ⟨if d.trngOk then s.dawned d else (s.dawned d).secEvent 0x14 .u 0, ?_, ?_⟩
    · unfold State.dawn
      simp only [missing, Bool.not_false, if_true]
      unfold State.dawned
      rw [missing]
    · split
      · rfl
      · obtain ⟨_, _, _, _, eq, _, _, _, _, rfl⟩ := raiseAs_noted (s.dawned d) blkSec 0x14 0 (s.dawned d).tickDetail none (cls := .u) nofun
        exact congrArg (fun t => t.top.booted) eq
  have night := enterNight_nightfall u 3
  obtain ⟨_, _, _, _, eq, _, _, _, _, rfl⟩ := raiseAs_f_night night.state blkSec 0x10 0 (u.enterNight 3).tickDetail
  rw [dawn, State.secEvent, eq]
  exact ⟨night.state, night.cause, (enterNight_booted u 3).trans booted⟩

/-- Settles O31: `execResetRelease_tries` gives the order of the images, `tryImages_runs` and `tryImages_rejects` what becomes of each. -/
theorem bootRunsTheNewestImage : Obligations.BootRunsTheNewestImage := by
  unfold Obligations.BootRunsTheNewestImage
  intro s d i j held
  refine ⟨fun trng idk rom a b headA headB bodyA bodyB verA verB => ?_, fun trng idk rom a b headA headB newer bodyA verA bad => ?_, fun missing => ?_⟩
  · rw [execResetRelease_tries held trng idk rom a b headA headB]
    have okA : (s.quiet.dawned d).imageOk i = true := State.imageOk_of headA bodyA verA
    have okB : (s.quiet.dawned d).imageOk j = true := State.imageOk_of headB bodyB verB
    unfold State.dawned at okA okB ⊢
    by_cases newer : i.gen < j.gen
    · rw [if_pos newer, tryImages_runs okB, max_eq_right newer.le, if_pos newer, if_pos newer, trng, idk]
      rfl
    · rw [if_neg newer, tryImages_runs okA, max_eq_left (not_lt.1 newer), if_neg newer, if_neg newer, trng, idk]
      rfl
  · have okA : ((s.quiet.dawned d).bootRej 1).imageOk i = true := State.imageOk_of headA bodyA ((bootRej_sec _ 1).symm ▸ verA)
    refine ⟨_, execResetRelease_tries held trng idk rom a b headA headB, ?_⟩
    rw [if_pos newer, tryImages_rejects (s := s.quiet.dawned d) bad, tryImages_runs okA]
    exact ⟨rfl, rfl, rfl⟩
  · exact ⟨_, congrArg Host.Outcome.next (if_pos held), dawn_without_key missing⟩

/-! ### Entry to Morning (R28, R560, R561, R566, R575) -/

/-- What the entry to Morning decides and the events and assignments after it leave. -/
structure MorningView where
  state : EState
  prev : EState
  cause : Nat
  dawnMs : Nat
  result : Nat
  pwr : Pwr
  dict : Dict
  time : Time

def State.morningView (s : State) : MorningView :=
  ⟨s.top.state, s.top.prev, s.top.cause, s.top.dawnMs, s.top.result, s.pwr, s.dict, s.time⟩

theorem raiseAs_morningView (s : State) (b ev who detail : Nat) {cls : EvClass} (c : cls ≠ .f) :
    (s.raiseAs b ev cls who detail none).morningView = s.morningView := by
  obtain ⟨_, _, _, _, eq, _, _, _, _, rfl⟩ := raiseAs_noted s b ev who detail none c
  rw [eq]
  rfl

theorem loadConfig_without_copy (s : State) : (s.loadConfig []).morningView = s.morningView := by
  unfold State.loadConfig
  rw [List.findSome?_nil]
  dsimp only
  split
  · rfl
  · exact raiseAs_morningView _ _ _ _ _ nofun

theorem assignClusters_morningView (s : State) : s.assignClusters.morningView = s.morningView := by
  refine foldS_view State.morningView _ (fun t p => ?_) s _
  dsimp only
  split
  · rfl
  · rfl

/-- The engine in Morning before its configuration is loaded. -/
def State.inMorning (s : State) (cause : Nat) : State :=
  let s1 := s.enter .morning cause
  { s1 with
    top := { s1.top with cfgReady := false, cfgGen := 0, nightDeep := false, nightF := [] }
    pair := { ({} : Pair) with epoch := s1.pair.epoch, impTotal := s1.pair.impTotal, mism := s1.pair.mism }
    refsel := { s1.refsel with apllLocked := true } }

/-- Ticks start where TOD_SRC has set the time. -/
def State.clocked (s : State) : State := { s with time := { s.time with running := s.time.todSet } }

theorem clocked_morningView {s t : State} (same : s.morningView = t.morningView) : s.clocked.morningView = t.clocked.morningView :=
  congrArg (fun v : MorningView => { v with time := { v.time with running := v.time.todSet } }) same

/-- Entry to Morning ends with the events of what is missing: a spare channel, a SPARE. -/
theorem enterMorning_view (s : State) (cause : Nat) (d : DawnResult) : (s.enterMorning cause d).morningView =
    (((s.inMorning cause).toDefaults.loadConfig ((s.inMorning cause).top.copies d.imgA d.imgB)).assignClusters.clocked).morningView := by
  unfold State.enterMorning
  extract_lets s1 _ _ _ s2 s4 _ s5 s6
  have loaded : s4 = ((s.inMorning cause).toDefaults.loadConfig ((s.inMorning cause).top.copies d.imgA d.imgB)).assignClusters := rfl
  have clocked : s5 = s4.clocked := rfl
  rw [← loaded, ← clocked]
  clear_value s5
  have noted : s6.morningView = s5.morningView := by
    unfold s6
    split
    · exact raiseAs_morningView _ _ _ _ _ nofun
    · rfl
  rw [← noted]
  split
  · rfl
  · split
    · exact raiseAs_morningView _ _ _ _ _ nofun
    · rfl

/-- Morning with no valid copy of the configuration: every member at its default, and ticks where TOD_SRC has set the time (R566). -/
theorem enterMorning_defaults {s : State} (noA : s.top.cfgA = none) (noB : s.top.cfgB = none) (cause : Nat) (d : DawnResult) :
    (s.enterMorning cause d).morningView = ⟨.morning, s.top.state, cause, s.top.dawnMs, s.top.result, s.pwr, s.toDefaults.dict,
      { s.time with running := s.time.todSet }⟩ := by
  have copies (t : Top) (a : t.cfgA = none) (b : t.cfgB = none) : t.copies d.imgA d.imgB = [] := by simp [Top.copies, a, b]
  rw [enterMorning_view, copies (s.inMorning cause).top noA noB]
  exact clocked_morningView ((assignClusters_morningView _).trans (loadConfig_without_copy (s.inMorning cause).toDefaults))

/-- Every self-test has passed: the DRAM may lack channels, and none fails. -/
structure TestsPass (d : DawnResult) : Prop where
  failed : d.failed = []
  badChans : d.badChans = []
  dramCfgOk : d.dramCfgOk = true

theorem TestsPass.fatal {d : DawnResult} (h : TestsPass d) : fatalBlocks d = [] := by simp [fatalBlocks, h.failed, h.badChans]

theorem TestsPass.degraded {d : DawnResult} (h : TestsPass d) : degradedBlocks d = [] := by simp [degradedBlocks, h.failed, h.badChans]

/-- The DRAM step without a failing channel: the memory is empty, and no scene slot stands. -/
theorem dramStep_passes {d : DawnResult} (h : TestsPass d) (s : State) : ∃ memc, s.dramStep d = { s.modDict fun d => { d with slots := [] } with memc := memc } := by
  unfold State.dramStep
  dsimp only
  rw [if_pos (by simp [h.badChans])]
  exact ⟨_, rfl⟩

/-- The engine in Dawn as its self-tests have ended: every domain on (R560). -/
def State.dawnTested (s : State) (d : DawnResult) : State := { s with
  top := { s.top with dawnMs := d.ms % 2 ^ 32 }
  pwr := { s.pwr with on := 0x1FFFF, busy := none, queue := [], xoValid := true } }

theorem execDawnComplete_passes {s : State} {d : DawnResult} (h : TestsPass d) (dawn : s.top.state = .dawn) (released : s.top.inReset = false)
    (booted : s.top.booted = true) : exec (.dawnComplete d) s = .next (((s.quiet.dawnTested d).dramStep d).enterMorning 2 d) := by
  show execDawnComplete d s = _
  unfold execDawnComplete
  dsimp only
  rw [if_neg (by simp [dawn, released, booted]), h.fatal, h.degraded]
  simp only [h.dramCfgOk, List.isEmpty_nil, Bool.not_true, Bool.false_eq_true, if_false]
  rfl

/-- Dawn whose self-tests pass ends in Morning with every domain on, at the defaults (R28, R560, R566). -/
theorem dawnTested_morning {s : State} {d : DawnResult} (h : TestsPass d) (noA : s.top.cfgA = none) (noB : s.top.cfgB = none) :
    let t := ((s.dawnTested d).dramStep d).enterMorning 2 d
    (t.top.state = .morning ∧ t.top.prev = s.top.state ∧ t.top.cause = 2 ∧ t.top.dawnMs = d.ms % 2 ^ 32) ∧ t.pwr.on = 0x1FFFF ∧
      t.dict.vals = (s.dict.vals.filter fun e => keyMember e.1) ∧ t.time.running = s.time.todSet := by
  obtain ⟨memc, dram⟩ := dramStep_passes h (s.dawnTested d)
  have view := enterMorning_defaults (s := (s.dawnTested d).dramStep d) (by rw [dram]; exact noA) (by rw [dram]; exact noB) 2 d
  generalize ((s.dawnTested d).dramStep d).enterMorning 2 d = t at view ⊢
  rw [dram] at view
  exact ⟨⟨congrArg MorningView.state view, congrArg MorningView.prev view, congrArg MorningView.cause view, congrArg MorningView.dawnMs view⟩,
    congrArg (fun v : MorningView => v.pwr.on) view, congrArg (fun v : MorningView => v.dict.vals) view,
    congrArg (fun v : MorningView => v.time.running) view⟩

/-- A resume from standby whose self-tests pass enters Morning with every domain on (R575). -/
theorem resumeNow_morning {s : State} {d : DawnResult} (h : TestsPass d) (noA : s.top.cfgA = none) (noB : s.top.cfgB = none) :
    (s.resumeNow d).top.state = .morning ∧ (s.resumeNow d).top.prev = s.top.state ∧ (s.resumeNow d).top.cause = 9 ∧
      (s.resumeNow d).top.result = s.top.result ∧ (s.resumeNow d).pwr.on = 0x1FFFF := by
  obtain ⟨u, now, top, pwr⟩ : ∃ u : State, s.resumeNow d = u.enterMorning 9 d ∧ u.top = { s.top with resumeWaits := none } ∧
      u.pwr = { s.pwr with on := 0x1FFFF, busy := none, queue := [] } := by
    obtain ⟨_, dram⟩ := dramStep_passes h (s.modTop fun t => { t with resumeWaits := none }).allOn
    unfold State.resumeNow
    dsimp only
    simp only [h.fatal, h.degraded, State.neededFailed, h.failed, h.dramCfgOk, List.filter_nil, List.append_nil, List.isEmpty_nil, Bool.not_true,
      Bool.false_eq_true, if_false, foldS, dram]
    exact ⟨_, rfl, rfl, rfl⟩
  have view := enterMorning_defaults (s := u) (top ▸ noA) (top ▸ noB) 9 d
  rw [top, pwr, ← now] at view
  exact ⟨congrArg MorningView.state view, congrArg MorningView.prev view, congrArg MorningView.cause view, congrArg MorningView.result view,
    congrArg (fun v : MorningView => v.pwr.on) view⟩

/-- In standby, while no condition of class F holds. -/
structure State.MayResume (s : State) : Prop where
  night : s.top.state = .night
  standby : s.top.nightDeep = false
  clear : s.classFHolds = false

theorem State.MayResume.enters {s : State} (h : s.MayResume) (noSave : s.top.saveRun = false) (noRepair : s.memc.ppr = none) (d : DawnResult) :
    s.resume d = s.resumeNow d := by
  unfold State.resume
  rw [if_neg (by simp [h.night, h.standby, h.clear]), if_neg (by simp [noSave, noRepair])]

theorem State.MayResume.waits {s : State} (h : s.MayResume) (save : s.top.saveRun = true) (d : DawnResult) :
    s.resume d = s.modTop fun t => { t with resumeWaits := some d } := by
  unfold State.resume
  rw [if_neg (by simp [h.night, h.standby, h.clear]), if_pos (.inl save)]

theorem exec_resume {s : State} {d : DawnResult} (asked : d.auto = false) : exec (.resume d) s = .next (s.quiet.resume d) := by
  show execResume d s = _
  unfold execResume
  simp [asked]

/-- OP_RESUME does what RESUME does, and keeps its STATUS (R543). -/
theorem exec_opResume {s : State} (d : DawnResult) (h : s.MayResume) (free : s.resetting 9 = false) :
    exec (.opResume .pec d) s = .next ((s.quiet.resume d).modTw1 fun t => { t with lastStatus := 0 }) := by
  have allowed : s.quiet.top.state = .night ∧ (!s.quiet.top.nightDeep) = true ∧ (!s.quiet.classFHolds) = true := by
    refine ⟨h.night, ?_, ?_⟩
    · exact (congrArg (!·) h.standby)
    · exact (congrArg (!·) h.clear)
  show execOpResume .pec d s = _
  unfold execOpResume State.tw1Command
  rw [if_neg (by simp [show s.quiet.resetting 9 = false from free])]
  dsimp only
  rw [if_pos allowed]
  rfl

/-- The save that ended with nothing written (R564). -/
def State.saveFull (s : State) : State := s.modTop fun t => { t with saveRun := false, saveCopy := none, saveQ := none, result := 3 }

theorem exec_saveDone_full {s : State} (copy : s.top.saveCopy.isSome = true) (alone : s.top.saveQ = none) :
    exec (.saveDone 3) s = .next s.quiet.saveFull.resumeWaiting := by
  obtain ⟨c, written⟩ := Option.isSome_iff_exists.1 copy
  show execSaveDone 3 s = _
  unfold execSaveDone
  dsimp only
  rw [show s.quiet.top.saveCopy = some c from written, show s.quiet.top.saveQ = none from alone]
  rfl

/-- Settles O32: Dawn and the resumes end in `enterMorning`, which `enterMorning_defaults` describes without a copy of the configuration. -/
theorem morningFollowsDawnAndResume : Obligations.MorningFollowsDawnAndResume := by
  unfold Obligations.MorningFollowsDawnAndResume
  intro s d failed badChans dramCfgOk asked noA noB
  have passes : TestsPass d := ⟨failed, badChans, dramCfgOk⟩
  refine ⟨fun dawn released booted => ?_, fun night standby clear noSave noRepair c which => ?_, fun night standby clear save => ?_,
    fun night standby clear waits copy alone noRepair => ?_⟩
  · obtain ⟨⟨state, prev, cause, ms⟩, on, vals, runs⟩ := dawnTested_morning (s := s.quiet) passes noA noB
    exact ⟨_, execDawnComplete_passes passes dawn released booted, state, prev.trans dawn, cause, on, ms, vals, runs⟩
  · have may : s.MayResume := ⟨night, standby, clear⟩
    obtain ⟨state, prev, cause, -, on⟩ := resumeNow_morning (s := s.quiet) passes noA noB
    have now : s.quiet.resume d = s.quiet.resumeNow d := State.MayResume.enters (s := s.quiet) ⟨night, standby, clear⟩ noSave noRepair d
    rcases which with rfl | ⟨rfl, free⟩
    · exact ⟨_, (exec_resume asked).trans (congrArg Host.Outcome.next now), state, prev.trans night, cause, on⟩
    · refine ⟨_, exec_opResume d may free, ?_⟩
      rw [now]
      exact ⟨state, prev.trans night, cause, on⟩
  · exact (exec_resume asked).trans (congrArg Host.Outcome.next (State.MayResume.waits (s := s.quiet) ⟨night, standby, clear⟩ save d))
  · have goes : s.quiet.saveFull.resumeWaiting = (s.quiet.saveFull.modTop fun t => { t with resumeWaits := none }).resumeNow d := by
      unfold State.resumeWaiting
      rw [show s.quiet.saveFull.top.resumeWaits = some d from waits]
      dsimp only
      rw [if_neg (by simp [State.saveFull, State.modTop, State.quiet, noRepair])]
      exact State.MayResume.enters (s := s.quiet.saveFull.modTop fun t => { t with resumeWaits := none }) ⟨night, standby, clear⟩ rfl noRepair d
    refine ⟨_, exec_saveDone_full copy alone, ?_⟩
    obtain ⟨state, -, cause, result, -⟩ := resumeNow_morning (s := s.quiet.saveFull.modTop fun t => { t with resumeWaits := none }) passes noA noB
    rw [goes]
    exact ⟨result, state, cause⟩

/-! ### Saves (R564) -/

/-- Morning before the first tick event. -/
def State.unticked : State := { State.reset with top := { State.reset.top with state := .morning } }

/-- Refutes O35: before the first tick event a SAVE captures at once, though no tick is sealed (`State.unticked`, SAVE of tick 0). -/
theorem not_savesAlternateTheCopies : ¬ Obligations.SavesAlternateTheCopies := by
  unfold Obligations.SavesAlternateTheCopies
  intro h
  obtain ⟨starts, -, -⟩ := h State.unticked 0 ⟨0, true, [], [], [], []⟩
  obtain ⟨t, run, -, -, -, -, -, -, waits⟩ := starts rfl
  have sealed : State.unticked.sealedTo = 0 := rfl
  obtain ⟨-, notTaken⟩ := waits (by decide) sealed.le
  cases run
  exact absurd notTaken (by decide)

end Sys2Proof.Machine
end

section
/-! PROOF. FAB: missed seals and heartbeats, staged images and the armed take-over (R457-R459, R473, R477): O57. -/

namespace Sys2Proof.Machine

/-- An event of FAB whose detail is the tick, on a state in which the firmware's record has changed (R485, R493). -/
theorem raiseT_fab {s : State} (noShadow : s.top.shadows = []) (runs : s.time.running = true) (f : Fab) (ev : Nat) (cls : EvClass) :
    let u : State := { s.quiet with fab := f }
    Recorded s (u.raiseT blkFab ev cls) blkFab ev cls s.tickDetail ∧ (u.raiseT blkFab ev cls).fab = f ∧
      (u.raiseT blkFab ev cls).top = s.top.afterEvent blkFab ev cls s.time.tick := by
  intro u
  refine ⟨raiseAs_open_recorded (s := s) (u := u) rfl noShadow runs blkFab ev 0 s.tickDetail cls, ?_⟩
  unfold State.raiseT
  by_cases signals : u.top.Signals cls
  · rw [raiseAs_signals (s := u) noShadow runs signals]
    exact ⟨rfl, rfl⟩
  · rw [raiseAs_silent (s := u) noShadow signals]
    exact ⟨rfl, rfl⟩

/-! ### A primary that misses its seal or heartbeat (R457) -/

theorem coreMiss_warm {s : State} (warm : s.fab.stby = 1) :
    s.coreMiss = ({ s with fab := { s.fab.missed with primary := 1 - s.fab.primary, coreHeld := some s.fab.primary, stby := 0 } } : State).raiseT
      blkFab 0x11 .u := by
  unfold State.coreMiss
  dsimp only
  rw [show s.fab.missed.stby = 1 from warm]
  rfl

theorem coreMiss_ready {s : State} (ready : s.fab.stby = 2) :
    s.coreMiss = ({ s with fab := { s.fab.missed.runStaged with
      primary := 1 - s.fab.primary, stby := 3, handover := none, watchEnd := some (s.time.tick + watchTicks), fwHandover := 2 } } : State).raiseT
      blkFab 0x11 .u := by
  unfold State.coreMiss
  dsimp only
  rw [show s.fab.missed.stby = 2 from ready]
  rfl

theorem coreMiss_watched {s : State} (watched : s.fab.stby = 3) :
    s.coreMiss = ({ s with fab := { ({ s.fab.missed with primary := 1 - s.fab.primary, coreHeld := some s.fab.primary, stby := 0 } : Fab).runOld with
      watchEnd := none, fwHandover := 5 } } : State).raiseT blkFab 0x14 .u := by
  unfold State.coreMiss
  dsimp only
  rw [show s.fab.missed.stby = 3 from watched]
  rfl

theorem coreMiss_alone {s : State} (alone : s.fab.stby = 0) : s.coreMiss = ({ s with fab := s.fab.missed } : State).raiseT blkFab 0x12 .f := by
  unfold State.coreMiss
  dsimp only
  rw [show s.fab.missed.stby = 0 from alone]
  rfl

/-- SEAL_MISS watches the primary while ticks run, HEARTBEAT_MISS once it is booted outside them. -/
theorem exec_coreMiss {s : State} {c : Instr} (mem : c ∈ [Instr.sealMiss, Instr.heartbeatMiss]) (ticks : c = .sealMiss → s.time.ticked = true)
    (outside : c = .heartbeatMiss → s.time.ticked = false ∧ s.top.booted = true) : exec c s = .next s.quiet.coreMiss := by
  simp only [List.mem_cons, List.not_mem_nil, or_false] at mem
  rcases mem with rfl | rfl
  · exact congrArg Host.Outcome.next (if_pos (ticks rfl))
  · obtain ⟨stopped, booted⟩ := outside rfl
    exact congrArg Host.Outcome.next (if_neg (by simp [stopped, booted]))

/-- CORE_FAIL (R457, R479): what its class F event leaves pending. -/
theorem coreFail_struck (t : Top) (tick : Nat) : (t.state ≠ .dusk → t.state ≠ .night → (t.afterEvent blkFab 0x12 .f tick).classF = true) ∧
    (t.state = .night → (t.afterEvent blkFab 0x12 .f tick).nightF = (blkFab, 0x12) :: t.nightF) := by
  refine ⟨fun dusk night => ?_, fun night => ?_⟩
  · rw [Top.afterEvent_classF]
    simp [dusk, night]
  · rw [Top.afterEvent_nightF, if_pos ⟨rfl, night⟩]

/-! ### Staged images (R458, R459) -/

theorem exec_stage_passes {s : State} {flash : Nat} {i : FwImage} (warm : s.fab.stby = 1) (other : flash ≠ s.fab.runFlash) (ok : s.imageOk i = true)
    (layout : i.layoutOk = true) : exec (.stage flash (some i)) s = .next (s.quiet.modFab fun f => { f with
      stage := 1, stby := 0, stagedGen := i.gen, stagedFlash := flash, stagedSecVer := i.secVer }) := by
  have passes : s.quiet.stageOk (some i) = true := Bool.and_eq_true_iff.2 ⟨ok, layout⟩
  show execStage flash (some i) s = _
  unfold execStage
  dsimp only
  rw [if_neg (by simp [warm]), if_neg (by simp [other, passes])]
  rfl

theorem exec_stage_running {s : State} {flash : Nat} {img : Option FwImage} (warm : s.fab.stby = 1) (running : flash = s.fab.runFlash) :
    exec (.stage flash img) s = .next (s.quiet.modFab fun f => { f with stage := 4, stagedGen := 0, stby := 1 }) := by
  show execStage flash img s = _
  unfold execStage
  dsimp only
  rw [if_neg (by simp [warm]), if_pos (.inl running)]

/-! ### The armed take-over (R458, R459) -/

theorem exec_fwHandover_due {s : State} {h : Nat} (armed : s.fab.handover = some h) (due : h ≤ s.time.tick) :
    exec .fwHandover s = .next (if s.fab.stby ≠ 2 then s.quiet.modFab fun f => { f with handover := none, fwHandover := 4 }
      else (s.quiet.modFab fun f => { f.runStaged with
        primary := 1 - f.primary, stby := 3, handover := none, watchEnd := some (h + watchTicks), fwHandover := 2 }).raiseT blkFab 0x13 .c) := by
  show execFwHandover s = _
  unfold execFwHandover
  dsimp only
  rw [show s.quiet.fab.handover = some h from armed]
  dsimp only
  rw [if_neg (by simpa using due), ← apply_ite Host.Outcome.next]
  rfl

theorem exec_fwRelease_due {s : State} {h : Nat} (watched : s.fab.watchEnd = some h) (due : h ≤ s.time.tick) :
    exec .fwRelease s = .next (s.quiet.modFab fun f => { f with watchEnd := none, stby := 1, fwHandover := 3 }) := by
  show execFwRelease s = _
  unfold execFwRelease
  dsimp only
  rw [show s.quiet.fab.watchEnd = some h from watched]
  exact congrArg Host.Outcome.next (if_pos due)

/-- ERASE of the flash that does not run. -/
theorem exec_erase_other {s : State} {flash : Nat} (other : flash ≠ s.fab.runFlash) : exec (.erase flash) s = .next (s.quiet.modFab fun f => { f with
    pagesA := if flash = 0 then [] else f.pagesA, pagesB := if flash = 0 then f.pagesB else [] }) := by
  refine congrArg Host.Outcome.next ((if_neg other).trans ?_)
  by_cases first : flash = 0
  · simp only [if_pos first]
  · simp only [if_neg first]

/-- Settles O57: the cases of `coreMiss`, and the steps of a staged image one by one. -/
theorem firmwareIsWatchedAndReplaced : Obligations.FirmwareIsWatchedAndReplaced := by
  unfold Obligations.FirmwareIsWatchedAndReplaced
  intro s h flash i noShadow runs
  refine ⟨fun c mem ticks outside => ⟨fun warm => ?_, fun ready => ?_, fun watched => ?_, fun alone => ?_⟩, fun warm other ok layout => ?_,
    fun warm running => ?_, fun staged => ?_, fun ticked ahead free => ?_, fun _ near => ?_, fun armed due ready => ?_, fun armed due unready => ?_,
    fun watched due => ?_, fun other => ?_, fun running => ?_⟩
  · obtain ⟨recorded, fab, -⟩ := raiseT_fab noShadow runs
      { s.fab.missed with primary := 1 - s.fab.primary, coreHeld := some s.fab.primary, stby := 0 } 0x11 .u
    refine ⟨_, (exec_coreMiss mem ticks outside).trans (congrArg Host.Outcome.next (coreMiss_warm warm)), recorded, ?_⟩
    exact ⟨congrArg Fab.primary fab, congrArg Fab.stby fab, congrArg Fab.coreHeld fab, (congrArg Fab.runGen fab :)⟩
  · obtain ⟨recorded, fab, -⟩ := raiseT_fab noShadow runs { s.fab.missed.runStaged with
      primary := 1 - s.fab.primary, stby := 3, handover := none, watchEnd := some (s.time.tick + watchTicks), fwHandover := 2 } 0x11 .u
    refine ⟨_, (exec_coreMiss mem ticks outside).trans (congrArg Host.Outcome.next (coreMiss_ready ready)), recorded, ?_⟩
    exact ⟨congrArg Fab.primary fab, congrArg Fab.stby fab, congrArg Fab.runGen fab, congrArg Fab.oldGen fab, congrArg Fab.watchEnd fab⟩
  · obtain ⟨recorded, fab, -⟩ := raiseT_fab noShadow runs
      { ({ s.fab.missed with primary := 1 - s.fab.primary, coreHeld := some s.fab.primary, stby := 0 } : Fab).runOld with watchEnd := none, fwHandover := 5 } 0x14 .u
    refine ⟨_, (exec_coreMiss mem ticks outside).trans (congrArg Host.Outcome.next (coreMiss_watched watched)), recorded, ?_⟩
    exact ⟨congrArg Fab.primary fab, congrArg Fab.runGen fab, congrArg Fab.watchEnd fab⟩
  · obtain ⟨recorded, fab, top⟩ := raiseT_fab noShadow runs s.fab.missed 0x12 .f
    refine ⟨_, (exec_coreMiss mem ticks outside).trans (congrArg Host.Outcome.next (coreMiss_alone alone)), recorded, (congrArg Fab.primary fab :), ?_⟩
    obtain ⟨waits, stands⟩ := coreFail_struck s.top s.time.tick
    exact ⟨fun dusk night => (congrArg Top.classF top).trans (waits dusk night), fun night => (congrArg Top.nightF top).trans (stands night)⟩
  · exact exec_stage_passes warm other ok layout
  · refine (exec_stage_running warm running).trans ?_
    unfold State.modFab
    rw [← warm]
    rfl
  · exact congrArg Host.Outcome.next (if_pos (.inl staged))
  · exact congrArg Host.Outcome.next (if_pos ⟨ticked, ahead, free⟩)
  · exact congrArg Host.Outcome.next (if_neg fun armed => absurd armed.2.1 (Nat.not_le.2 near))
  · obtain ⟨recorded, fab, -⟩ := raiseT_fab noShadow runs { s.fab.runStaged with
      primary := 1 - s.fab.primary, stby := 3, handover := none, watchEnd := some (h + watchTicks), fwHandover := 2 } 0x13 .c
    refine ⟨_, (exec_fwHandover_due armed due).trans (congrArg Host.Outcome.next (if_neg (by simp [ready]))), recorded, ?_⟩
    exact ⟨congrArg Fab.primary fab, congrArg Fab.runGen fab, congrArg Fab.oldGen fab, congrArg Fab.watchEnd fab, congrArg Fab.handover fab⟩
  · exact (exec_fwHandover_due armed due).trans (congrArg Host.Outcome.next (if_pos unready))
  · exact exec_fwRelease_due watched due
  · exact exec_erase_other other
  · exact congrArg Host.Outcome.next (if_pos running)

end Sys2Proof.Machine
end

section
/-! PROOF. Memory integrity and repair: the code of the SRAMs, row repair, the outer code of the DRAM, migration and repair of its channels
(R425-R441, R447): O56. -/

namespace Sys2Proof.Machine

/-! ### Events after a change of the memories' state -/

/-- An event of class C or U whose detail is the tick: it is recorded, and the rest of the state stays but for what it sends, ATTN_N and the records of TOP. -/
theorem raiseT_recorded {s u : State} (same : u.commons = s.commons) (time : u.time = s.time) (noShadow : u.top.shadows = []) (b ev : Nat) {cls : EvClass}
    (c : cls ≠ .f) : Recorded s (u.raiseT b ev cls) b ev cls s.tickDetail ∧
      ∃ sent commons top tw1, u.raiseT b ev cls = { u with sent := sent, commons := commons, top := top, tw1 := tw1 } := by
  have detail : u.tickDetail = s.tickDetail := by
    unfold State.tickDetail
    rw [time]
  obtain ⟨_, _, _, _, eq, -⟩ := raiseAs_noted u b ev 0 u.tickDetail none c
  exact ⟨detail ▸ raiseAs_recorded same noShadow b ev 0 u.tickDetail c, _, _, _, _, eq⟩

/-! ### SRAM (R425-R432) -/

theorem tfind_tset_other {α : Type} (t : Tab α) {i j : Nat} (x : α) (h : j ≠ i) : tfind (tset t i x) j = tfind t j := by
  induction t with
  | nil => simp [tset, tfind, h.symm]
  | cons e t ih =>
    obtain ⟨k, v⟩ := e
    by_cases hk : k = i
    · subst hk
      simp [tset, tfind, h.symm]
    · simp [tset, tfind, hk, ih]

theorem execSramReadError_clean {s : State} {e : SramErr} (reads : secded e.bits = .clean) : execSramReadError e s = .next s.quiet := by
  unfold execSramReadError
  dsimp only
  rw [reads]

theorem execSramReadError_corrected {s : State} {e : SramErr} (reads : secded e.bits = .corrected) : execSramReadError e s = .next
    (let w := (macroKey e.region e.mac, e.row, e.word)
     if s.sramc.pendingWB.contains w then s.quiet
     else s.quiet.modSramc fun m => { m with corr := m.corr + 1, unreported := m.unreported + 1, pendingWB := w :: m.pendingWB }) := by
  unfold execSramReadError
  dsimp only
  rw [reads]
  rfl

/-- The state in which an uncorrectable word stands in ELOG, before its event. -/
def State.sramLogged (s : State) (e : SramErr) : State := s.modSramc fun m =>
  { m.elog (macroKey e.region e.mac) e.row 2 with ue := true, pendingWB := m.pendingWB.erase (macroKey e.region e.mac, e.row, e.word) }

theorem execSramReadError_uncorrectable {s : State} {e : SramErr} (reads : secded e.bits = .uncorrectable) (data : e.mem ≠ .primaryFw) :
    execSramReadError e s = .next (((s.quiet.sramLogged e).raiseT blkSramc 0x11 .u).sramReact e.mem) := by
  unfold execSramReadError
  dsimp only
  rw [reads]
  dsimp only
  rw [if_neg data]
  rfl

/-- An uncorrectable word of an output slot is logged, and its sample reads as zero (R427). -/
theorem sramReadError_output {s : State} {e : SramErr} {x t0 i : Nat} (noShadow : s.top.shadows = []) (reads : secded e.bits = .uncorrectable)
    (output : e.mem = .output x t0 i) : ∃ t, exec (.sramReadError e) s = .next t ∧ Recorded s t blkSramc 0x11 .u s.tickDetail ∧
      t.sramc = (s.sramLogged e).sramc ∧ t.csw.out = tmod [] s.csw.out (bankKey t0 x) fun l => l.set i 0 := by
  have run := execSramReadError_uncorrectable (s := s) reads (by rw [output]; exact SramMem.noConfusion)
  obtain ⟨recorded, _, _, _, _, eq⟩ := raiseT_recorded (s := s) (u := s.quiet.sramLogged e) rfl rfl noShadow blkSramc 0x11 (cls := .u) nofun
  rw [output] at run
  refine ⟨_, run, recorded.of_commons rfl rfl, ?_⟩
  rw [eq]
  exact ⟨rfl, rfl⟩

/-- An uncorrectable word of the gather bank: the sample of the stored tick reads as zero (R427). -/
theorem sramReadError_gather {s : State} {e : SramErr} {x t0 i : Nat} {b : TickData} (reads : secded e.bits = .uncorrectable)
    (gather : e.mem = .gather x t0 i) (stored : tfind s.csw.gather (bankKey t0 x) = some b) : ∃ t, exec (.sramReadError e) s = .next t ∧
      tfind t.csw.gather (bankKey t0 x) = some (b.silenced i) ∧ t.csw.out = s.csw.out := by
  have run := execSramReadError_uncorrectable (s := s) reads (by rw [gather]; exact SramMem.noConfusion)
  obtain ⟨_, _, _, _, eq, -⟩ := raiseAs_noted (s.quiet.sramLogged e) blkSramc 0x11 0 (s.quiet.sramLogged e).tickDetail none (cls := .u) nofun
  rw [gather] at run
  refine ⟨_, run, ?_⟩
  unfold State.raiseT State.sramReact
  rw [eq]
  dsimp only
  rw [show tfind (s.quiet.sramLogged e).csw.gather (bankKey t0 x) = some b from stored]
  exact ⟨tfind_tset_same _ _ _, rfl⟩

theorem execSramWriteBack_waiting {s : State} {mem row : Nat} {w : WriteBack} (waits : s.sramc.pendingWB.contains (mem, row, w.word) = true) :
    execSramWriteBack mem row w s = .next
      (let s1 := s.quiet.modSramc fun m => { m with pendingWB := m.pendingWB.erase (mem, row, w.word) }
       if w.cancelled then s1 else if w.again then (s1.modSramc fun m => m.elog mem row 1).requestRow mem row else s1.raiseT blkSramc 0x10 .c) := by
  unfold execSramWriteBack
  dsimp only
  rw [if_neg (by simpa using waits)]
  split_ifs <;> rfl

/-- A row of a macro that has a spare row left is repaired at once where no repair runs (R431). -/
theorem requestRow_free {s : State} {mem row : Nat} (spare : tget 0 s.sramc.spares mem < 4) (idle : s.sramc.repair = none) :
    s.requestRow mem row = s.modSramc fun m => { m with repair := some (mem, row) } := by
  unfold State.requestRow
  rw [if_neg (by omega), if_neg (by simp [idle])]

/-- A repaired row, before its event: the spare row takes its place (R431). -/
def State.rowMoved (s : State) (mem row : Nat) : State :=
  let used := tget 0 s.sramc.spares mem + 1
  s.modSramc fun m => { m with
    repair := none, repairQ := none, spares := tset m.spares mem used, mapped := (mem, row) :: m.mapped, rows := (m.rows + 1) % 2 ^ 32
    exhausted := if used = 4 then m.exhausted + 1 else m.exhausted }

theorem execRowRepaired_alone {s : State} {mem row : Nat} (runs : s.sramc.repair = some (mem, row)) (alone : s.sramc.repairQ = none) :
    execRowRepaired mem row s = .next ((s.quiet.rowMoved mem row).raiseT blkSramc 0x12 .c) := by
  unfold execRowRepaired
  dsimp only
  rw [if_neg (by simpa using runs), show s.quiet.sramc.repairQ = none from alone]
  rfl

/-! ### DRAM channels: what leaves the errors of lines alone (R433-R441) -/

/-- Corrections, uncorrectable lines, poison and contents of the DRAM stand, and so do the rows corrected in each channel. -/
structure SameLines (s t : State) : Prop where
  ce : t.memc.ce = s.memc.ce
  ue : t.memc.ue = s.memc.ue
  poison : t.memc.poison = s.memc.poison
  dram : t.memc.dram = s.memc.dram
  hits : ∀ j, (t.chan j).hits = (s.chan j).hits

theorem SameLines.refl (s : State) : SameLines s s := ⟨rfl, rfl, rfl, rfl, fun _ => rfl⟩

theorem SameLines.trans {s t u : State} (h : SameLines s t) (k : SameLines t u) : SameLines s u where
  ce := k.ce.trans h.ce
  ue := k.ue.trans h.ue
  poison := k.poison.trans h.poison
  dram := k.dram.trans h.dram
  hits j := (k.hits j).trans (h.hits j)

/-- Outside every shadow, no event takes a bit of INT_STAT back, and none opens a shadow. -/
structure KeepsBits (s t : State) : Prop where
  noShadow : s.top.shadows = [] → t.top.shadows = []
  bits : s.top.shadows = [] → ∀ b m, (s.common b).intStat &&& m = m → (t.common b).intStat &&& m = m

theorem KeepsBits.refl (s : State) : KeepsBits s s := ⟨id, fun _ _ _ => id⟩

theorem KeepsBits.trans {s t u : State} (h : KeepsBits s t) (k : KeepsBits t u) : KeepsBits s u where
  noShadow n := k.noShadow (h.noShadow n)
  bits n b m set := k.bits (h.noShadow n) b m (h.bits n b m set)

/-- The repair of channels: what it leaves of the lines, and of events. -/
abbrev Repairs (s t : State) : Prop := SameLines s t ∧ KeepsBits s t

theorem Repairs.trans {s t u : State} (h : Repairs s t) (k : Repairs t u) : Repairs s u := ⟨h.1.trans k.1, h.2.trans k.2⟩

theorem Repairs.refl (s : State) : Repairs s s := ⟨.refl s, .refl s⟩

/-- A change of what MEMC plans, and of nothing else, is one of the repair. -/
theorem repairs_plan {s t : State} (commons : t.commons = s.commons) (top : t.top = s.top) (plan : ∃ phase blocks migSlot migQ ppr pprQ,
    t.memc = { s.memc with phase := phase, blocks := blocks, migSlot := migSlot, migQ := migQ, ppr := ppr, pprQ := pprQ }) : Repairs s t := by
  obtain ⟨_, _, _, _, _, _, memc⟩ := plan
  refine ⟨⟨?_, ?_, ?_, ?_, fun j => ?_⟩, fun noShadow => top ▸ noShadow, fun _ b m set => ?_⟩
  · rw [memc]
  · rw [memc]
  · rw [memc]
  · rw [memc]
  · unfold State.chan
    rw [memc]
  · unfold State.common
    rw [commons]
    exact set

theorem repairs_raiseAs (s : State) (b ev who detail : Nat) {cls : EvClass} (c : cls ≠ .f) : Repairs s (s.raiseAs b ev cls who detail none) := by
  refine ⟨?_, fun noShadow => ?_, fun noShadow n m set => (raiseAs_recorded rfl noShadow b ev who detail c).keeps_bits n set⟩
  · obtain ⟨_, _, _, _, eq, -⟩ := raiseAs_noted s b ev who detail none c
    rw [eq]
    exact ⟨rfl, rfl, rfl, rfl, fun _ => rfl⟩
  · obtain ⟨-, eq⟩ := raise_eq s b ev who detail cls noShadow fun h => absurd h c
    rw [eq, if_neg c]
    exact (mark_pulse_shadows _ _ _ _).trans noShadow

theorem repairs_setChan (s : State) (c : Nat) {f : DramChan → DramChan} (h : ∀ x, (f x).hits = x.hits) : Repairs s (s.setChan c f) := by
  refine ⟨⟨rfl, rfl, rfl, rfl, fun j => ?_⟩, id, fun _ _ _ => id⟩
  unfold State.chan State.setChan State.modMemc
  dsimp only
  by_cases same : j = c
  · subst same
    rw [tget_tmod_same, h]
  · rw [tget_tmod_other _ _ _ _ _ same]

theorem repairs_startPpr (s : State) (c : Nat) : Repairs s (s.startPpr c) := by
  unfold State.startPpr
  split
  · exact repairs_plan rfl rfl ⟨_, _, _, _, _, _, rfl⟩
  · exact (repairs_setChan s c (f := fun x => { x with state := 4 }) fun _ => rfl).trans (repairs_plan rfl rfl ⟨_, _, _, _, _, _, rfl⟩)

theorem repairs_startMigration (s : State) (c : Nat) : Repairs s (s.startMigration c) := by
  unfold State.startMigration
  dsimp only
  split_ifs
  · exact .refl s
  · exact repairs_plan rfl rfl ⟨_, _, _, _, _, _, rfl⟩
  · exact repairs_plan rfl rfl ⟨_, _, _, _, _, _, rfl⟩

theorem repairs_degradeChan (s : State) (c : Nat) : Repairs s (s.degradeChan c) := by
  unfold State.degradeChan
  split_ifs
  · exact (repairs_raiseAs s blkMemc 0x12 c c (cls := .u) nofun).trans (repairs_startMigration _ c)
  · exact .refl s
  · exact repairs_startPpr s c

theorem repairs_failRow (s : State) (c row : Nat) : Repairs s (s.failRow c row).1 := by
  unfold State.failRow
  dsimp only
  split_ifs
  · exact .refl s
  · exact .refl s
  · exact repairs_setChan s c fun _ => rfl

theorem repairs_abandonMigration (s : State) : Repairs s s.abandonMigration :=
  (repairs_plan rfl rfl ⟨_, _, _, _, _, _, rfl⟩ : Repairs s (s.modMemc fun m => { m with phase := 0 })).trans
    ((repairs_startPpr _ s.memc.spare).trans (repairs_raiseAs _ _ _ _ _ nofun))

/-! ### A corrected line (R434, R436) -/

/-- What the correction of a line changes: it is counted and its data written back, and its row joins those corrected in this patrol period. -/
structure Corrected (s t : State) (e : DramErr) (data : List Nat) (words : Nat) : Prop where
  ce : t.memc.ce = s.memc.ce + w32 words
  ue : t.memc.ue = s.memc.ue
  poison : t.memc.poison = s.memc.poison
  dram : data = s.memc.line e.line → t.memc.dram = s.memc.dram
  row : e.row ∈ (t.chan e.chan).hits

theorem dramCorrected_corrects (s : State) (e : DramErr) (data : List Nat) (words : Nat) (devs : List Nat) :
    Corrected s (s.dramCorrected e data words devs) e data words := by
  unfold State.dramCorrected
  extract_lets tick again ce s1 s2
  have counted : Corrected s s1 e data words := by
    refine ⟨rfl, rfl, rfl, fun same => if_pos same, ?_⟩
    unfold s1 State.chan State.setChan State.modMemc
    dsimp only
    rw [tget_tmod_same]
    dsimp only
    split
    · rename_i listed
      exact List.contains_iff_mem.1 listed
    · exact List.mem_cons_self
  have reported : Repairs s1 s2 := by
    unfold s2
    split
    · exact repairs_raiseAs _ _ _ _ _ nofun
    · exact .refl _
  obtain ⟨s3, full, is, failed⟩ : ∃ s3 full, (if again then s2.failRow e.chan e.row else (s2, false)) = (s3, full) ∧ Repairs s2 s3 := by
    by_cases twice : again = true
    · exact ⟨_, _, if_pos twice, repairs_failRow _ _ _⟩
    · exact ⟨_, _, if_neg twice, .refl _⟩
  rw [is]
  have rest : Repairs s1 (if full = true ∨ (devs.any fun d => decide (s.cfg 0xD200 3 < (s3.chan e.chan).outer d tick)) = true
      then s3.degradeChan e.chan else s3) := by
    refine (reported.trans failed).trans ?_
    split
    · exact repairs_degradeChan _ _
    · exact .refl _
  refine ⟨rest.1.ce.trans counted.ce, rest.1.ue.trans counted.ue, rest.1.poison.trans counted.poison,
    fun same => rest.1.dram.trans (counted.dram same), ?_⟩
  rw [rest.1.hits]
  exact counted.row

/-! ### A lost line (R436, R440) -/

/-- What the loss of a line changes: it is counted, its event is raised and, where its channel holds a slot, it is poisoned. -/
structure Lost (s t : State) (e : DramErr) : Prop where
  ue : t.memc.ue = s.memc.ue + 1
  line : s.memc.holdsSlot e.chan = true → e.line ∈ t.memc.poison
  poison : ∀ l ∈ s.memc.poison, l ∈ t.memc.poison
  event : (t.common blkMemc).intStat &&& 0x20000 = 0x20000
  dram : t.memc.dram = s.memc.dram

/-- A lost line is counted and poisoned, before its event. -/
def State.lineLost (s : State) (e : DramErr) : State := s.modMemc fun m => { m with
  ue := m.ue + 1, poison := if m.poison.contains e.line || !m.holdsSlot e.chan then m.poison else e.line :: m.poison }

theorem dramLost_loses {s : State} (noShadow : s.top.shadows = []) (e : DramErr) : Lost s (s.dramLost e) e := by
  unfold State.dramLost
  extract_lets s1 s2 s3
  have counted : Lost s s1 e := by
    have shape : s1.memc = (s.lineLost e).memc := Reported.memc (raise_reported (s.lineLost e) blkMemc 0x11 (64 * e.line) .u nofun)
    have recorded : Recorded s s1 blkMemc 0x11 .u (64 * e.line) :=
      raiseAs_recorded (s := s) (u := s.lineLost e) rfl noShadow blkMemc 0x11 (64 * e.line) (64 * e.line) (cls := .u) nofun
    have poison : s1.memc.poison = if s.memc.poison.contains e.line || !s.memc.holdsSlot e.chan then s.memc.poison else e.line :: s.memc.poison :=
      congrArg Memc.poison shape
    refine ⟨congrArg Memc.ue shape, fun held => ?_, fun l mem => ?_, ?_, (congrArg Memc.dram shape :)⟩
    · rw [poison]
      split
      · rename_i listed
        simpa [held] using listed
      · exact List.mem_cons_self
    · rw [poison]
      split
      · exact mem
      · exact List.mem_cons_of_mem _ mem
    · rw [recorded.stat]
      exact or_sets_bits _ _
  have open1 : s1.top.shadows = [] :=
    (repairs_raiseAs (s.lineLost e) blkMemc 0x11 (64 * e.line) (64 * e.line) (cls := .u) nofun).2.noShadow noShadow
  have rest (t : State) (h : Repairs s2 t) : Lost s t e := by
    obtain ⟨lines, events⟩ : Repairs s1 t := (repairs_failRow s1 e.chan e.row).trans h
    refine ⟨lines.ue.trans counted.ue, fun held => ?_, fun l mem => ?_, events.bits open1 _ _ counted.event, lines.dram.trans counted.dram⟩
    · rw [lines.poison]
      exact counted.line held
    · rw [lines.poison]
      exact counted.poison l mem
  split
  · exact rest _ (repairs_abandonMigration s2)
  · split
    · exact rest _ ((repairs_degradeChan s2 e.chan).trans (repairs_raiseAs _ _ _ _ _ nofun))
    · exact rest _ (repairs_degradeChan s2 e.chan)

/-! ### One erroneous read (R436) -/

/-- The bytes of a read line: those of the slot its channel holds, or zeros. -/
def State.readLine (s : State) (e : DramErr) : List Nat := if s.memc.holdsSlot e.chan then s.memc.line e.line else List.replicate 64 0

/-- A codeword read with a correction. -/
def fixedWord (x : Option (List Nat × List Nat)) : Bool := x.any fun y => !y.2.isEmpty

theorem filterMap_id_filter_length {α : Type} (p : α → Bool) (l : List (Option α)) :
    ((l.filterMap id).filter p).length = (l.filter fun x => x.any p).length := by
  induction l with
  | nil => rfl
  | cons x l ih =>
    cases x with
    | none => simpa using ih
    | some a =>
      by_cases h : p a
      · simpa [h] using ih
      · simpa [h] using ih

theorem filterMap_id_map {α β : Type} [Inhabited β] (f : α → β) (d : β) {l : List (Option α)} (whole : none ∉ l) :
    (l.filterMap id).map f = l.map fun x => (x.map f).getD d := by
  induction l with
  | nil => rfl
  | cons x l ih =>
    simp only [List.mem_cons, not_or] at whole
    cases x with
    | none => exact absurd rfl whole.1
    | some a => simpa using ih whole.2

section
variable {s : State} {e : DramErr} (chan : e.chan < 3) (sound : s.memc.holdsSlot e.chan = true → e.line ∉ s.memc.poison)
include chan sound

/-- A read of a sound line whose codewords all decode at the first reading. -/
theorem dramError_decodes (whole : none ∉ readWords (s.readLine e) e.errs) :
    s.dramError e =
      (let first := readWords (s.readLine e) e.errs
       let good := first.filterMap id
       let fixed := (first.filter fixedWord).length
       if fixed = 0 then s
       else s.dramCorrected e (if s.memc.holdsSlot e.chan then (good.map (·.1)).flatten else s.memc.line e.line) fixed (good.map (·.2)).flatten) := by
  have none : ((readWords (s.readLine e) e.errs).filter Option.isNone) = [] := by
    refine List.filter_eq_nil_iff.2 fun x mem isNone => whole ?_
    rwa [← Option.isNone_iff_eq_none.1 isNone]
  unfold State.dramError
  dsimp only
  rw [if_neg (by omega), if_neg (by simpa using sound)]
  unfold State.readLine fixedWord at *
  rw [none]
  simp only [List.length_nil, if_true, Nat.lt_irrefl, decide_false, Bool.and_false, Bool.false_eq_true, if_false, Nat.add_zero,
    filterMap_id_filter_length]

/-- A read of a sound line that does not decode at the first reading, but does at the second. -/
theorem dramError_retried (failed : none ∈ readWords (s.readLine e) e.errs) (whole : none ∉ readWords (s.readLine e) e.retry) :
    ∃ data devs, s.dramError e = s.dramCorrected e data
      (((readWords (s.readLine e) e.retry).filter fixedWord).length + ((readWords (s.readLine e) e.errs).filter Option.isNone).length) devs := by
  have some1 : ((readWords (s.readLine e) e.errs).filter Option.isNone).length ≠ 0 := by
    rw [Ne, List.length_eq_zero_iff, List.filter_eq_nil_iff]
    exact fun none => none _ failed rfl
  have all : ((readWords (s.readLine e) e.retry).any Option.isNone) = false := by
    refine List.any_eq_false.2 fun x mem isNone => whole ?_
    rwa [← Option.isNone_iff_eq_none.1 isNone]
  unfold State.dramError
  dsimp only
  rw [if_neg (by omega), if_neg (by simpa using sound)]
  unfold State.readLine fixedWord at *
  rw [all, if_neg some1, filterMap_id_filter_length, Bool.false_and, if_neg Bool.false_ne_true, if_neg (by omega)]
  exact ⟨_, _, rfl⟩

end

/-- A poisoned line, or one that fails at both readings, is lost. -/
theorem dramError_loses {s : State} {e : DramErr} (chan : e.chan < 3) (bad : s.memc.holdsSlot e.chan = true ∧ e.line ∈ s.memc.poison ∨
    none ∈ readWords (s.readLine e) e.errs ∧ none ∈ readWords (s.readLine e) e.retry) : s.dramError e = s.dramLost e := by
  unfold State.dramError
  dsimp only
  rw [if_neg (by omega)]
  split
  · rfl
  · rename_i sound
    rcases bad with ⟨held, poisoned⟩ | ⟨first, again⟩
    · exact absurd (by simp [held, poisoned]) sound
    · unfold State.readLine at first again
      rw [if_pos]
      refine Bool.and_eq_true_iff.2 ⟨List.any_eq_true.2 ⟨_, again, rfl⟩, decide_eq_true (List.length_pos_of_mem (List.mem_filter.2 ⟨first, rfl⟩))⟩

/-! ### Migration and repair of channels (R439, R441) -/

theorem State.chan_setChan_same (s : State) (c : Nat) (f : DramChan → DramChan) : (s.setChan c f).chan c = f (s.chan c) := tget_tmod_same _ _ _ _

theorem State.chan_setChan_other (s : State) {c j : Nat} (f : DramChan → DramChan) (other : j ≠ c) : (s.setChan c f).chan j = s.chan j :=
  tget_tmod_other _ _ _ _ _ other

theorem startPpr_waits {s : State} {c : Nat} (busy : s.memc.ppr.isSome = true ∨ s.memc.phase = 1 ∧ c = s.memc.spare) :
    s.startPpr c = s.modMemc fun m => { m with pprQ := some c } := if_pos busy

theorem startPpr_starts {s : State} {c : Nat} (idle : s.memc.ppr = none) (free : s.memc.phase ≠ 1 ∨ c ≠ s.memc.spare) :
    s.startPpr c = (s.setChan c fun x => { x with state := 4 }).modMemc fun m => { m with ppr := some c, phase := if m.phase = 1 then 1 else 2 } := by
  refine if_neg ?_
  rw [idle]
  simpa [imp_iff_not_or] using free

theorem startMigration_starts {s : State} {c : Nat} (active : s.chState c ≤ 1) (idle : s.memc.phase ≠ 1) (spare : s.chState s.memc.spare = 2) :
    s.startMigration c = s.modMemc fun m => { m with phase := 1, migSlot := if c = m.s0 then 0 else 1, blocks := 0 } := by
  unfold State.startMigration
  dsimp only
  rw [if_neg (by simp; omega), if_neg (by simp [idle, spare])]

theorem exec_repairAction_spare {s : State} {c : Nat} (chan : c < 3) (spare : s.chState c = 2) (on : s.domOn 6 = true) :
    exec (.repairAction c) s = .next (s.quiet.startPpr c) := congrArg Host.Outcome.next (if_pos ⟨chan, .inl spare, on⟩)

/-- The slot's map with the migrated channel in it (R439). -/
def State.slotMoved (s : State) : State := s.modMemc fun m =>
  let x := if s.memc.migSlot = 0 then s.memc.s0 else s.memc.s1
  { m with
    s0 := if m.migSlot = 0 then s.memc.spare else m.s0, s1 := if m.migSlot = 0 then m.s1 else s.memc.spare, spare := x, phase := 0
    blocks := m.cap * 262144, pprQ := if m.pprQ = some s.memc.spare then none else m.pprQ }

theorem exec_migrated {s : State} (runs : s.memc.phase = 1) : exec .migrated s = .next
    (let x := if s.memc.migSlot = 0 then s.memc.s0 else s.memc.s1
     ((s.quiet.slotMoved.setChan x fun c => { c with state := 3 }).raise blkMemc 0x13 .c x).startPpr x) := by
  show execMigrated s = _
  unfold execMigrated
  dsimp only
  rw [if_neg (by simp [runs])]
  rfl

/-- The start of a repair changes of MEMC which repair runs or waits, the phase, and its channel. -/
theorem startPpr_memc (s : State) (c : Nat) : ∃ phase ppr pprQ chans, (s.startPpr c).memc = { s.memc with
    phase := phase, ppr := ppr, pprQ := pprQ, chans := chans } ∧ (s.memc.phase ≠ 1 → phase ≠ 1) ∧ (s.startPpr c).commons = s.commons := by
  unfold State.startPpr
  split
  · exact ⟨_, _, _, _, rfl, id, rfl⟩
  · refine ⟨_, _, _, _, rfl, fun h => ?_, rfl⟩
    rw [if_neg (by exact h)]
    decide

theorem afterPpr_idle {s : State} (noPpr : s.memc.pprQ = none) (noMig : s.memc.migQ = none) : s.afterPpr = s := by
  unfold State.afterPpr
  rw [noPpr]
  dsimp only
  rw [noMig]

theorem resumeWaiting_none {s : State} (none : s.top.resumeWaits = none) : s.resumeWaiting = s := by
  unfold State.resumeWaiting
  rw [none]

/-- The repair of a channel has ended (R441). -/
def State.pprEnded (s : State) : State := s.modMemc fun m => { m with ppr := none, phase := if m.phase = 1 then 1 else 0 }

/-- The channel of a repair that succeeded is the spare again. -/
def State.pprRepaired (s : State) (c : Nat) : State :=
  (s.pprEnded.setChan c fun x => { x with state := 0, failRows := [], hits := [] }).modMemc fun m => { m with spare := c }

theorem exec_pprComplete {s : State} {c : Nat} (runs : s.memc.ppr = some c) (ok : Bool) : exec (.pprComplete ok) s = .next
    (if ok then (s.quiet.pprRepaired c).afterPpr.resumeWaiting
     else (((s.quiet.pprEnded.setChan c fun x => { x with state := 5 }).raise blkMemc 0x14 .u c).raiseT blkMemc 0x15 .u).afterPpr.resumeWaiting) := by
  show execPprComplete ok s = _
  unfold execPprComplete
  dsimp only
  rw [show s.quiet.memc.ppr = some c from runs]
  cases ok <;> rfl

/-- A migrated slot (R439): the event names the channel that leaves it. -/
theorem migrated_moves {s : State} (noShadow : s.top.shadows = []) (runs : s.memc.phase = 1) : ∃ t, exec .migrated s = .next t ∧
    Recorded s t blkMemc 0x13 .c (if s.memc.migSlot = 0 then s.memc.s0 else s.memc.s1) ∧
    t.memc.s0 = (if s.memc.migSlot = 0 then s.memc.spare else s.memc.s0) ∧ t.memc.s1 = (if s.memc.migSlot = 0 then s.memc.s1 else s.memc.spare) ∧
    t.memc.spare = (if s.memc.migSlot = 0 then s.memc.s0 else s.memc.s1) ∧ t.memc.phase ≠ 1 ∧ t.memc.blocks = s.memc.cap * 262144 ∧
    t.memc.dram = s.memc.dram := by
  obtain ⟨x, is⟩ : ∃ x, x = if s.memc.migSlot = 0 then s.memc.s0 else s.memc.s1 := ⟨_, rfl⟩
  have run : exec .migrated s = .next (((s.quiet.slotMoved.setChan x fun c => { c with state := 3 }).raise blkMemc 0x13 .c x).startPpr x) :=
    is ▸ exec_migrated runs
  have recorded : Recorded s ((s.quiet.slotMoved.setChan x fun c => { c with state := 3 }).raise blkMemc 0x13 .c x) blkMemc 0x13 .c x :=
    raiseAs_recorded (s := s) (u := s.quiet.slotMoved.setChan x fun c => { c with state := 3 }) rfl noShadow blkMemc 0x13 x x (cls := .c) nofun
  have memc : ((s.quiet.slotMoved.setChan x fun c => { c with state := 3 }).raise blkMemc 0x13 .c x).memc = _ :=
    Reported.memc (raise_reported (s.quiet.slotMoved.setChan x fun c => { c with state := 3 }) blkMemc 0x13 x .c nofun)
  obtain ⟨_, _, _, _, started, phase, commons⟩ := startPpr_memc ((s.quiet.slotMoved.setChan x fun c => { c with state := 3 }).raise blkMemc 0x13 .c x) x
  rw [memc] at started phase
  rw [← is]
  refine ⟨_, run, recorded.of_commons rfl commons, ?_⟩
  rw [started]
  exact ⟨rfl, rfl, is.symm, phase Nat.zero_ne_one, rfl, rfl⟩

/-- A channel repaired: it is the spare, and its failing rows are forgotten (R441). -/
theorem pprComplete_repaired {s : State} {c : Nat} (runs : s.memc.ppr = some c) (noPpr : s.memc.pprQ = none) (noMig : s.memc.migQ = none)
    (noResume : s.top.resumeWaits = none) : ∃ t, exec (.pprComplete true) s = .next t ∧ t.memc.spare = c ∧ t.memc.ppr = none ∧
      t.chan c = { s.chan c with state := 0, failRows := [], hits := [] } ∧ t.commons = s.commons ∧ t.memc.dram = s.memc.dram := by
  refine ⟨_, (exec_pprComplete runs true).trans (congrArg Host.Outcome.next (if_pos rfl)), ?_⟩
  rw [afterPpr_idle (s := s.quiet.pprRepaired c) noPpr noMig, resumeWaiting_none (s := s.quiet.pprRepaired c) noResume]
  exact ⟨rfl, rfl, State.chan_setChan_same s.quiet.pprEnded c fun x => { x with state := 0, failRows := [], hits := [] }, rfl, rfl⟩

/-- A repair that fails leaves its channel FAULTY and no spare (R441). -/
theorem pprComplete_fails {s : State} {c : Nat} (noShadow : s.top.shadows = []) (runs : s.memc.ppr = some c) (noPpr : s.memc.pprQ = none)
    (noMig : s.memc.migQ = none) (noResume : s.top.resumeWaits = none) : ∃ t, exec (.pprComplete false) s = .next t ∧ (t.chan c).state = 5 ∧
      t.memc.ppr = none ∧ (t.common blkMemc).intStat &&& 0x300000 = 0x300000 := by
  let u := s.quiet.pprEnded.setChan c fun x => { x with state := 5 }
  obtain ⟨sent, commons, top, tw1, first, _, _, _, _, noted⟩ := raiseAs_noted u blkMemc 0x14 c c none (cls := .u) nofun
  obtain ⟨_, _, top2, _, second, _, _, _, _, noted2⟩ := raiseAs_noted (u.raise blkMemc 0x14 .u c) blkMemc 0x15 0
    (u.raise blkMemc 0x14 .u c).tickDetail none (cls := .u) nofun
  have memc : ((u.raise blkMemc 0x14 .u c).raiseT blkMemc 0x15 .u).memc = u.memc :=
    ((raiseT_reported _ blkMemc 0x15 0 .u nofun).memc).trans (raise_reported u blkMemc 0x14 c .u nofun).memc
  have waits : ((u.raise blkMemc 0x14 .u c).raiseT blkMemc 0x15 .u).top.resumeWaits = none := by
    have one : (u.raise blkMemc 0x14 .u c).top = top := congrArg State.top first
    have two : ((u.raise blkMemc 0x14 .u c).raiseT blkMemc 0x15 .u).top = top2 := congrArg State.top second
    rw [two, noted2, one, noted]
    exact noResume
  refine ⟨_, (exec_pprComplete runs false).trans (congrArg Host.Outcome.next (if_neg Bool.false_ne_true)), ?_⟩
  rw [afterPpr_idle (by exact (congrArg Memc.pprQ memc).trans noPpr) (by exact (congrArg Memc.migQ memc).trans noMig), resumeWaiting_none waits]
  refine ⟨?_, congrArg Memc.ppr memc, ?_⟩
  · have chan : ((u.raise blkMemc 0x14 .u c).raiseT blkMemc 0x15 .u).chan c = u.chan c := congrArg (fun m : Memc => tget ({} : DramChan) m.chans c) memc
    rw [chan, State.chan_setChan_same]
  · have failed : Recorded s (u.raise blkMemc 0x14 .u c) blkMemc 0x14 .u c :=
      raiseAs_recorded (s := s) (u := u) rfl noShadow blkMemc 0x14 c c (cls := .u) nofun
    have noSpare := raiseT_recorded (s := u.raise blkMemc 0x14 .u c) rfl rfl
      ((repairs_raiseAs u blkMemc 0x14 c c (cls := .u) nofun).2.noShadow noShadow) blkMemc 0x15 (cls := .u) nofun
    rw [noSpare.1.stat, failed.stat, BitVec.or_assoc]
    exact or_sets_bits _ _

/-- Settles O56: the lemmas on SRAM words and rows, on the lines of the DRAM, and on the repair of its channels. -/
theorem memoriesAreCorrectedAndRepaired : Obligations.MemoriesAreCorrectedAndRepaired := by
  unfold Obligations.MemoriesAreCorrectedAndRepaired
  intro s e d mem row word c x t0 i counts again0 noShadow
  refine ⟨execSramReadError_clean, fun reads new => ?_, fun reads known => ?_, fun reads output => ?_, fun b reads gather stored =>
    sramReadError_gather reads gather stored, fun waits => ?_, fun waits => ?_, fun waits spare idle => ?_, fun runs alone => ?_, ⟨_, rfl, rfl⟩,
    fun chan sound whole some1 new => ?_, fun chan sound failed whole => ?_, fun chan sound clean => ?_, fun chan bad => ?_, fun chan good => ?_,
    fun chan good few => ?_, fun active idle spare => ?_, fun runs => migrated_moves noShadow runs, fun chan spare on busy => ?_,
    fun chan spare on idle free => ?_, fun runs noPpr noMig noResume =>
      ⟨pprComplete_repaired runs noPpr noMig noResume, pprComplete_fails noShadow runs noPpr noMig noResume⟩⟩
  · exact (execSramReadError_corrected reads).trans (congrArg Host.Outcome.next (if_neg (ne_true_of_eq_false new)))
  · exact (execSramReadError_corrected reads).trans (congrArg Host.Outcome.next (if_pos known))
  · obtain ⟨t, run, recorded, sramc, out⟩ := sramReadError_output noShadow reads output
    refine ⟨t, run, recorded, sramc, ?_, fun j other => ?_⟩
    · rw [out, tget_tmod_same]
    · rw [out]
      exact tfind_tset_other _ _ other
  · obtain ⟨recorded, _, _, _, _, eq⟩ := raiseT_recorded (s := s)
      (u := s.quiet.modSramc fun m => { m with pendingWB := m.pendingWB.erase (mem, row, word) }) rfl rfl noShadow blkSramc 0x10 (cls := .c) nofun
    exact ⟨_, execSramWriteBack_waiting waits, recorded, congrArg State.sramc eq⟩
  · exact execSramWriteBack_waiting waits
  · exact (execSramWriteBack_waiting waits).trans (congrArg Host.Outcome.next (requestRow_free spare idle))
  · obtain ⟨recorded, _, _, _, _, eq⟩ := raiseT_recorded (s := s) (u := s.quiet.rowMoved mem row) rfl rfl noShadow blkSramc 0x12 (cls := .c) nofun
    refine ⟨_, execRowRepaired_alone runs alone, recorded, ?_⟩
    rw [eq]
    exact ⟨rfl, tget_tset_same _ _ _ _, List.mem_cons_self, rfl, rfl⟩
  · have fixed : ((readWords (s.readLine d) d.errs).filter fixedWord).length ≠ 0 := by
      obtain ⟨w, mem, corrected⟩ := List.any_eq_true.1 some1
      exact (List.length_pos_of_mem (List.mem_filter.2 ⟨mem, corrected⟩)).ne'
    have read := (dramError_decodes (s := s.quiet) chan sound whole).trans (if_neg fixed)
    obtain ⟨ce, -, poison, dram, hits⟩ := dramCorrected_corrects s.quiet d
      (if s.memc.holdsSlot d.chan then (((readWords (s.readLine d) d.errs).filterMap id).map (·.1)).flatten else s.memc.line d.line)
      ((readWords (s.readLine d) d.errs).filter fixedWord).length (((readWords (s.readLine d) d.errs).filterMap id).map (·.2)).flatten
    refine ⟨_, congrArg Host.Outcome.next read, ce, hits, poison, fun loose => dram (if_neg (ne_true_of_eq_false loose)), fun held delivered => dram ?_⟩
    rw [if_pos held]
    exact (congrArg List.flatten (filterMap_id_map (·.1) [] whole)).trans (delivered.trans (if_pos held))
  · obtain ⟨data, devs, read⟩ := dramError_retried (s := s.quiet) chan sound failed whole
    obtain ⟨ce, ue, poison, -, -⟩ := dramCorrected_corrects s.quiet d data _ devs
    exact ⟨_, congrArg Host.Outcome.next read, ce, ue, poison⟩
  · have whole : none ∉ readWords (s.readLine d) d.errs := fun none => by
      obtain ⟨_, is⟩ := clean _ none
      cases is
    have fixed : ((readWords (s.readLine d) d.errs).filter fixedWord).length = 0 := by
      refine List.length_eq_zero_iff.2 (List.filter_eq_nil_iff.2 fun w mem => ?_)
      obtain ⟨l, rfl⟩ := clean w mem
      exact Bool.false_ne_true
    exact congrArg Host.Outcome.next ((dramError_decodes (s := s.quiet) chan sound whole).trans (if_pos fixed))
  · obtain ⟨ue, line, poison, event, dram⟩ := dramLost_loses (s := s.quiet) noShadow d
    exact ⟨_, congrArg Host.Outcome.next (dramError_loses (s := s.quiet) chan bad), ue, line, poison, event, dram⟩
  · refine ⟨s.quiet.setChan c fun x => { x with hits := [] }, if_neg (not_or.2 ⟨Nat.not_le.2 chan, Nat.not_le.2 good⟩), ?_⟩
    exact ⟨State.chan_setChan_same _ _ _, fun j other => State.chan_setChan_other _ _ other, rfl⟩
  · refine ⟨s.quiet.setChan c fun x => { x with ecs := counts.take 10 }, ?_, State.chan_setChan_same _ _ _,
      fun j other => State.chan_setChan_other _ _ other, rfl⟩
    have within : ¬((counts.take 10).any fun n => decide (s.cfg 0xD200 4 < n)) = true := by simpa using few
    exact (if_neg (not_or.2 ⟨Nat.not_le.2 chan, Nat.not_le.2 good⟩)).trans (congrArg Host.Outcome.next (if_neg within))
  · exact congrArg Host.Outcome.next (startMigration_starts (s := s.quiet) active idle spare)
  · exact (exec_repairAction_spare chan spare on).trans (congrArg Host.Outcome.next (startPpr_waits busy))
  · refine ⟨_, (exec_repairAction_spare chan spare on).trans (congrArg Host.Outcome.next (startPpr_starts (s := s.quiet) idle free)), rfl, ?_⟩
    exact ⟨State.chan_setChan_same s.quiet c fun x => { x with state := 4 },
      fun j other => State.chan_setChan_other s.quiet (fun x => { x with state := 4 }) other, rfl, rfl⟩

end Sys2Proof.Machine
end

section
/-! PROOF. Supplies and temperatures: AVS, regulators, thermal levels and the trip, voltage monitors (R513-R524): O42. -/

namespace Sys2Proof.Machine

/-- What PWR holds, which only its own commands change. -/
theorem raiseT_pwr {s : State} (runs : s.time.running = true) (b ev : Nat) (cls : EvClass) : (s.raiseT b ev cls).pwr = s.pwr ∧
    (s.raiseT b ev cls).time = s.time := by
  by_cases isF : cls = .f
  · subst isF
    obtain ⟨_, _, _, _, leaves, -⟩ := raiseAs_f_leaves runs b ev 0 s.tickDetail
    unfold State.raiseT
    rw [leaves]
    exact ⟨rfl, rfl⟩
  · have reported := raiseT_reported s b ev 0 cls isF
    exact ⟨reported.pwr, reported.time⟩

/-- Two events of a measurement, each only where its condition holds, leave what PWR holds. -/
theorem ite_raiseT_pwr {s : State} (runs : s.time.running = true) (p : Prop) [Decidable p] (b ev : Nat) (cls : EvClass) :
    (if p then s.raiseT b ev cls else s).pwr = s.pwr ∧ (if p then s.raiseT b ev cls else s).time = s.time := by
  split
  · exact raiseT_pwr runs b ev cls
  · exact ⟨rfl, rfl⟩

/-! ### AVS (R513, R514) -/

theorem maxI_of_le {d : Int} {l : List Int} (le : ∀ y ∈ l, y ≤ d) : maxI d l = d := by
  induction l with
  | nil => rfl
  | cons x l ih =>
    unfold maxI
    rw [if_neg (not_lt.2 (le x List.mem_cons_self)), ih fun y mem => le y (List.mem_cons_of_mem x mem)]

theorem maxI_negated_least {m : Int} {ms : List Int} (least : ∀ y ∈ ms, m ≤ y) : -(maxI (-m) (ms.map fun y => -y)) = m := by
  rw [maxI_of_le, neg_neg]
  intro y mem
  obtain ⟨x, listed, rfl⟩ := List.mem_map.1 mem
  exact neg_le_neg (least x listed)

theorem sendVout_pwr (s : State) : s.sendVout.pwr = s.pwr ∧ s.sendVout.time = s.time := by
  unfold State.sendVout
  split <;> exact ⟨rfl, rfl⟩

/-- PWR with a margin and a step of AVS, which a changed set point sends to the CORE regulator (R513). -/
def State.avsSet (s : State) (m : Int) (p : Nat × Nat) : State :=
  let s1 := s.modPwr fun x => { x with margin := m, vset := p.1, avsHighMs := p.2, avsHold := x.busy.isSome && x.switchOn }
  if p.1 = s.pwr.vset then s1 else s1.sendVout

theorem avsSet_pwr (s : State) (m : Int) (p : Nat × Nat) :
    (s.avsSet m p).pwr.margin = m ∧ (s.avsSet m p).pwr.vset = p.1 ∧ (s.avsSet m p).time = s.time := by
  unfold State.avsSet
  dsimp only
  split
  · exact ⟨rfl, rfl, rfl⟩
  · obtain ⟨pwr, time⟩ := sendVout_pwr (s.modPwr fun x => { x with margin := m, vset := p.1, avsHighMs := p.2, avsHold := x.busy.isSome && x.switchOn })
    rw [pwr, time]
    exact ⟨rfl, rfl, rfl⟩

/-- An evaluation that AVS does not hold: the step, then the events of a set point at its end and of a negative margin. -/
theorem execAvsEvaluation_eq {s : State} {m : Int} {ms : List Int} (on : s.domOn 1 = true) (free : s.avsHeld = false) (least : ∀ y ∈ ms, m ≤ y) :
    execAvsEvaluation (m :: ms) s = .next
      (let s2 := s.quiet.avsSet m (avsStep (s.cfg 0xD300 3) m s.pwr.vset s.pwr.avsHighMs)
       let s3 := if s.pwr.vset = 40 ∧ m < s.cfg 0xD300 3 ∧ !decide (s.pwr.vset = 40 ∧ s.pwr.margin < s.cfg 0xD300 3) then s2.raiseT blkPwr 0x10 .u else s2
       if m < 0 then s3.raiseT blkPwr 0x11 .f else s3) := by
  unfold execAvsEvaluation
  dsimp only
  rw [if_neg (by simp [show s.quiet.domOn 1 = true from on]), maxI_negated_least least, show s.quiet.avsHeld = false from free]
  rfl

/-- The step of the set point in an evaluation that AVS does not hold. -/
theorem execAvsEvaluation_steps {s : State} {m : Int} {ms : List Int} (runs : s.time.running = true) (on : s.domOn 1 = true) (free : s.avsHeld = false)
    (least : ∀ y ∈ ms, m ≤ y) : ∃ t, exec (.avsEvaluation (m :: ms)) s = .next t ∧ t.pwr.margin = m ∧
      t.pwr.vset = (avsStep (s.cfg 0xD300 3) m s.pwr.vset s.pwr.avsHighMs).1 := by
  refine ⟨_, execAvsEvaluation_eq on free least, ?_⟩
  obtain ⟨margin, vset, time⟩ := avsSet_pwr s.quiet m (avsStep (s.cfg 0xD300 3) m s.pwr.vset s.pwr.avsHighMs)
  generalize s.quiet.avsSet m (avsStep (s.cfg 0xD300 3) m s.pwr.vset s.pwr.avsHighMs) = s2 at margin vset time ⊢
  have runs2 : s2.time.running = true := time ▸ runs
  obtain ⟨pwr3, time3⟩ := ite_raiseT_pwr runs2
    (s.pwr.vset = 40 ∧ m < s.cfg 0xD300 3 ∧ !decide (s.pwr.vset = 40 ∧ s.pwr.margin < s.cfg 0xD300 3)) blkPwr 0x10 .u
  obtain ⟨pwr, -⟩ := ite_raiseT_pwr (time3 ▸ runs2) (m < 0) blkPwr 0x11 .f
  dsimp only
  rw [pwr, pwr3]
  exact ⟨margin, vset⟩

/-! ### Regulators (R519, R520) -/

/-- A regulator as its third poll in a row finds no answer. -/
def State.regGone (s : State) (r : Nat) : State := s.setReg r fun x =>
  { x with nackPolls := x.nackPolls + 1, present := x.present && decide (x.nackPolls + 1 < 3), status := if 3 ≤ x.nackPolls + 1 then 0 else x.status }

theorem pollReg_gone {s : State} {q : RegPoll} (range : q.reg < 16) (named : s.cfg (0xD310 + q.reg) 1 ≠ 0) (silent : q.ack = false)
    (third : (tget ({} : Regulator) s.pwr.regs q.reg).nackPolls = 2) :
    s.pollReg q = ((s.regGone q.reg).raise blkPwr 0x15 .u q.reg).attnReg := by
  unfold State.pollReg
  dsimp only
  rw [if_neg (by simp [named]; omega), if_pos (by simp [silent]), if_pos (by rw [third])]
  rfl

/-! ### Temperatures (R521, R522) -/

/-- The hottest of a list stands at the position found. -/
theorem hottest_spec {L : List Int} {l : List Int} {i k : Nat} {m : Int} (rest : L.drop i = l) (at' : L[k]? = some m) (least : ∀ y ∈ L.take i, y ≤ m) :
    L[(hottest l i m k).2]? = some (hottest l i m k).1 ∧ ∀ y ∈ L, y ≤ (hottest l i m k).1 := by
  induction l generalizing i k m with
  | nil =>
    refine ⟨at', fun y mem => least y ?_⟩
    rwa [List.take_of_length_le (List.drop_eq_nil_iff.1 rest)]
  | cons x l ih =>
    have here : L[i]? = some x := by rw [← List.head?_drop, rest]; rfl
    have next : L.drop (i + 1) = l := by rw [← List.tail_drop, rest]; rfl
    have taken (y : Int) (mem : y ∈ L.take (i + 1)) : y ∈ L.take i ∨ y = x := by
      rw [List.take_add_one, here] at mem
      simpa using mem
    unfold hottest
    split
    · rename_i hotter
      refine ih next here fun y mem => ?_
      rcases taken y mem with before | rfl
      · exact (least y before).trans hotter.le
      · exact le_refl y
    · rename_i cooler
      refine ih next at' fun y mem => ?_
      rcases taken y mem with before | rfl
      · exact least y before
      · exact not_lt.1 cooler

/-- The level of a temperature: the highest that is entered or still kept. -/
def State.thermLevel (s : State) (hot : Int) : Nat := if s.thermIn hot 3 then 3 else if s.thermIn hot 2 then 2 else if s.thermIn hot 1 then 1 else 0

theorem thermLevel_crit {s : State} {hot : Int} (entered : s.thermAt 3 ≤ hot) : s.thermLevel hot = 3 := by
  unfold State.thermLevel State.thermIn
  rw [if_pos]
  simp [entered]

theorem thermLevel_cool {s : State} {hot : Int} (cool : ∀ l ∈ [1, 2, 3], hot ≤ s.thermAt l - 3) : s.thermLevel hot = 0 := by
  have out (l : Nat) (mem : l ∈ [1, 2, 3]) : ¬s.thermIn hot l = true := by
    have le := cool l mem
    simp only [State.thermIn, Bool.or_eq_true, Bool.and_eq_true, decide_eq_true_eq]
    omega
  unfold State.thermLevel
  rw [if_neg (out 3 (by decide)), if_neg (out 2 (by decide)), if_neg (out 1 (by decide))]

/-- The temperatures read, before their events: the hottest, its sensor and its level (R521). -/
def State.thermRead (s : State) (temps : List Int) (hot : Int) (sensor : Nat) : State :=
  let s1 := s.modPwr fun p => { p with temps := temps.take 20, tmax := hot, sensor := sensor, therm := s.thermLevel hot }
  if s.thermLevel hot = s.pwr.therm then s1 else { s1 with tw1 := { s1.tw1 with attnHw := s1.tw1.attnHw.lor 4 } }

theorem thermRead_pwr (s : State) (temps : List Int) (hot : Int) (sensor : Nat) : (s.thermRead temps hot sensor).time = s.time ∧
    (s.thermRead temps hot sensor).pwr = { s.pwr with temps := temps.take 20, tmax := hot, sensor := sensor, therm := s.thermLevel hot } := by
  unfold State.thermRead
  dsimp only
  split <;> exact ⟨rfl, rfl⟩

theorem execThermalRead_eq (m : Int) (ms : List Int) (s : State) : execThermalRead (m :: ms) s = .next
    (let hot := hottest ms 1 m 0
     let lv := s.thermLevel hot.1
     let s2 := s.quiet.thermRead (m :: ms) hot.1 hot.2
     let s3 := if s.pwr.therm < 1 ∧ 1 ≤ lv then s2.raiseT blkPwr 0x16 .c else s2
     let s4 := if s.pwr.therm < 2 ∧ 2 ≤ lv then s3.raiseT blkPwr 0x17 .u else s3
     if s.pwr.therm < 3 ∧ 3 ≤ lv then s4.raiseT blkPwr 0x18 .f else s4) := rfl

/-- What PWR holds once the temperatures have been read. -/
theorem execThermalRead_pwr {s : State} (runs : s.time.running = true) (m : Int) (ms : List Int) : ∃ t, exec (.thermalRead (m :: ms)) s = .next t ∧
    t.pwr = { s.pwr with
      temps := (m :: ms).take 20, tmax := (hottest ms 1 m 0).1, sensor := (hottest ms 1 m 0).2, therm := s.thermLevel (hottest ms 1 m 0).1 } := by
  refine ⟨_, execThermalRead_eq m ms s, ?_⟩
  obtain ⟨time, read⟩ := thermRead_pwr s.quiet (m :: ms) (hottest ms 1 m 0).1 (hottest ms 1 m 0).2
  dsimp only
  generalize s.quiet.thermRead (m :: ms) (hottest ms 1 m 0).1 (hottest ms 1 m 0).2 = s2 at time read ⊢
  have runs2 : s2.time.running = true := time ▸ runs
  obtain ⟨pwr3, time3⟩ := ite_raiseT_pwr runs2 (s.pwr.therm < 1 ∧ 1 ≤ s.thermLevel (hottest ms 1 m 0).1) blkPwr 0x16 .c
  have runs3 := time3 ▸ runs2
  obtain ⟨pwr4, time4⟩ := ite_raiseT_pwr runs3 (s.pwr.therm < 2 ∧ 2 ≤ s.thermLevel (hottest ms 1 m 0).1) blkPwr 0x17 .u
  obtain ⟨pwr, -⟩ := ite_raiseT_pwr (time4 ▸ runs3) (s.pwr.therm < 3 ∧ 3 ≤ s.thermLevel (hottest ms 1 m 0).1) blkPwr 0x18 .f
  rw [pwr, pwr4, pwr3, read]
  rfl

/-- Night after a thermal trip, with every switched domain off (R521, R524). -/
structure Tripped (t : State) : Prop where
  state : t.top.state = .night
  cause : t.top.cause = 5
  on : t.pwr.on = 0
  stopped : t.time.running = false
  sessions : t.sec.sessions = []

theorem Tripped.domainLost {t : State} (h : Tripped t) (d : Nat) : Tripped (t.domainLost d) where
  state := by rw [domainLost_top, h.state]
  cause := by rw [domainLost_top, h.cause]
  on := by rw [domainLost_pwr, h.on]
  stopped := domainLost_stopped h.stopped d
  sessions := by rw [domainLost_sec, h.sessions]

theorem tripOff_tripped (s : State) : Tripped s.tripOff := by
  have fall := enterNight_nightfall s 5
  unfold State.tripOff
  generalize s.enterNight 5 = u at fall ⊢
  exact foldS_keeps State.domainLost (fun _ d h => h.domainLost d) ⟨fall.state, fall.cause, rfl, fall.running, fall.sessions⟩ _

theorem thermTrip_night (s : State) : ∃ t, exec .thermTrip s = .next t ∧ Tripped t := by
  have trip := tripOff_tripped s.quiet
  have run : exec .thermTrip s = .next (s.quiet.tripOff.raiseT blkPwr 0x19 .f) := rfl
  generalize s.quiet.tripOff = u at trip run
  obtain ⟨_, _, _, _, eq, _, _, _, _, rfl⟩ := raiseAs_f_night trip.state blkPwr 0x19 0 u.tickDetail
  refine ⟨_, run, ?_⟩
  unfold State.raiseT
  rw [eq]
  exact ⟨trip.state, trip.cause, trip.on, trip.stopped, trip.sessions⟩

/-- Settles O42: the evaluation of AVS, a regulator's third silent poll, the levels of temperature, the trip, and the voltage monitors. -/
theorem suppliesAndTemperaturesAreSupervised : Obligations.SuppliesAndTemperaturesAreSupervised := by
  unfold Obligations.SuppliesAndTemperaturesAreSupervised
  intro s m ms q rail fail noShadow runs
  refine ⟨fun on free least => ?_, fun on up present range named silent third => ?_, ?_, ?_, fun range => ?_⟩
  · obtain ⟨t, run, margin, vset⟩ := execAvsEvaluation_steps runs ((bitAt_eq_testBit _ _).trans on) free least
    refine ⟨t, run, margin, fun low => ?_, fun enough below => ?_, fun enough reached within => ?_⟩
    · rw [vset, avsStep, if_pos low]
    · rw [vset, avsStep, if_neg (not_lt.2 enough), if_pos below]
    · rw [vset, avsStep, if_neg (not_lt.2 enough), if_neg (not_lt.2 reached), if_pos within]
  · have polls : exec (.regulatorPoll [q]) s = .next (s.quiet.pollReg q) := by
      refine if_neg ?_
      simp [show s.quiet.domOn 1 = true from (bitAt_eq_testBit _ _).trans on, show s.quiet.resetting 8 = false from up, present]
    have gone : (tget ({} : Regulator) (s.quiet.regGone q.reg).pwr.regs q.reg).present = false ∧
        (tget ({} : Regulator) (s.quiet.regGone q.reg).pwr.regs q.reg).status = 0 := by
      unfold State.regGone State.setReg State.modPwr
      dsimp only
      rw [tget_tmod_same]
      simp [third]
    have recorded : Recorded s ((s.quiet.regGone q.reg).raise blkPwr 0x15 .u q.reg) blkPwr 0x15 .u q.reg :=
      raiseAs_recorded (s := s) (u := s.quiet.regGone q.reg) rfl noShadow blkPwr 0x15 q.reg q.reg (cls := .u) nofun
    have pwr := (raise_reported (s.quiet.regGone q.reg) blkPwr 0x15 q.reg .u nofun).pwr
    refine ⟨_, polls.trans (congrArg Host.Outcome.next (pollReg_gone range named silent third)), recorded.of_commons rfl rfl, ?_⟩
    refine ⟨(congrArg (fun p : Pwr => (tget ({} : Regulator) p.regs q.reg).present) pwr).trans gone.1,
      (congrArg (fun p : Pwr => (tget ({} : Regulator) p.regs q.reg).status) pwr).trans gone.2, ?_⟩
    show (Nat.lor _ 8).testBit 3 = true
    exact (Nat.testBit_lor _ _ _).trans (Bool.or_eq_true_iff.2 (.inr (by decide)))
  · obtain ⟨t, run, pwr⟩ := execThermalRead_pwr runs m ms
    obtain ⟨at', top⟩ := hottest_spec (L := m :: ms) (l := ms) (i := 1) (k := 0) (m := m) rfl rfl (by simp)
    refine ⟨t, run, ?_⟩
    rw [pwr]
    exact ⟨List.mem_of_getElem? at', top, at', thermLevel_crit, thermLevel_cool⟩
  · obtain ⟨t, run, trip⟩ := thermTrip_night s
    exact ⟨t, run, trip.state, trip.cause, trip.on, trip.stopped, trip.sessions⟩
  · let u := s.quiet.modPwr fun p => { p with vmon := p.vmon.lor (2 ^ rail) }
    have run : exec (.vmonWarn rail fail) s = .next (if fail then u.raiseT blkPwr 0x1B .f else u.raiseT blkPwr 0x1A .c) := if_neg (Nat.not_le.2 range)
    cases fail with
    | false =>
      obtain ⟨recorded, -⟩ := raiseT_recorded (s := s) (u := u) rfl rfl noShadow blkPwr 0x1A (cls := .c) nofun
      rw [tickDetail_running runs] at recorded
      exact ⟨_, run, (raiseT_pwr (s := u) runs _ _ _).1, fun _ => recorded, nofun⟩
    | true =>
      obtain ⟨recorded, pwr, -, classF⟩ := raiseT_f (s := s) (u := u) runs rfl rfl rfl blkPwr 0x1B
      refine ⟨_, run, pwr, nofun, fun _ => ⟨recorded, fun noon => classF.trans ?_⟩⟩
      simp [noon]

end Sys2Proof.Machine
end

section
/-! PROOF. The two-wire buses: TW0 as controller, TW1 as target (R536-R545, R553-R556, R575): O43, O44. -/

namespace Sys2Proof.Machine

/-- An event of class C whose detail is the tick: it is recorded, and drives neither ERR_N nor ATTN_N. -/
theorem raiseT_minor {s u : State} (same : u.commons = s.commons) (time : u.time = s.time) (noShadow : u.top.shadows = []) (b ev : Nat) :
    Recorded s (u.raiseT b ev .c) b ev .c s.tickDetail ∧ (u.raiseT b ev .c).tw1 = u.tw1 ∧ (u.raiseT b ev .c).sent = u.sent ∧
      (u.raiseT b ev .c).hostp = u.hostp := by
  refine ⟨(raiseT_recorded same time noShadow b ev (cls := .c) nofun).1, ?_⟩
  unfold State.raiseT
  rw [raiseAs_silent noShadow (by simp [Top.Signals])]
  exact ⟨rfl, rfl, rfl⟩

/-! ### TW0 (R536-R540) -/

section
variable {s : State} (up : s.resetting 8 = false) (on : s.domOn 1 = true)
include up on

/-- A transaction starts on an idle bus, with the job that comes next (R537). -/
theorem execTw0Transaction_starts {j : Tw0Job} {q : List Tw0Job} (idle : s.tw0.cur = none) (next : s.tw0.next = (j, q)) (t : Tw0Out) :
    exec (.tw0Transaction t) s = .next ((s.quiet.modTw0 fun x => { x with cur := some j, queue := q, tries := 0, busBusy := false }).tw0Try t) := by
  show execTw0Transaction t s = _
  unfold execTw0Transaction
  dsimp only
  rw [if_neg (by simp [idle, show s.quiet.resetting 8 = false from up, show s.quiet.domOn 1 = true from on]), show s.quiet.tw0.next = (j, q) from next]

/-- A transaction in hand is tried once more (R539). -/
theorem execTw0Retry_tries {j : Tw0Job} (job : s.tw0.cur = some j) (t : Tw0Out) :
    exec (.tw0Retry t) s = .next ((s.quiet.modTw0 fun x => { x with tries := x.tries + 1, busBusy := false }).tw0Try t) := by
  refine if_neg ?_
  simp [job, show s.quiet.resetting 8 = false from up, show s.quiet.domOn 1 = true from on]

end

theorem tw0Try_done {s : State} {j : Tw0Job} (job : s.tw0.cur = some j) :
    s.tw0Try { res := .done, stretched := false } = (s.modTw0 fun x => { x with cur := none, tries := 0 }).emit (.bus (b8 (2 * j.addr) :: j.data)) := by
  unfold State.tw0Try
  dsimp only
  rw [if_neg Bool.false_ne_true, job]

/-- A failed try that is not the last leaves its transaction in hand (R539). -/
theorem tw0Fails_keeps {s : State} (more : s.tw0.tries < s.tw0.retry) : s.tw0Fails = s := if_neg (Nat.not_le.2 more)

/-- An event of TW0 after which its transaction stays in hand. -/
theorem raiseT_tw0Fails {s u : State} (noShadow : s.top.shadows = []) (same : u.commons = s.commons) (time : u.time = s.time) (top : u.top = s.top) (ev : Nat)
    {cls : EvClass} (c : cls ≠ .f) (more : u.tw0.tries < u.tw0.retry) :
    Recorded s (u.raiseT blkTw0 ev cls).tw0Fails blkTw0 ev cls s.tickDetail ∧ (u.raiseT blkTw0 ev cls).tw0Fails.tw0 = u.tw0 := by
  obtain ⟨recorded, _, _, _, _, eq⟩ := raiseT_recorded same time (top ▸ noShadow) blkTw0 ev c
  have tw0 : (u.raiseT blkTw0 ev cls).tw0 = u.tw0 := by rw [eq]
  rw [tw0Fails_keeps (by rw [tw0]; exact more)]
  exact ⟨recorded, tw0⟩

/-- A try that is not acknowledged, and not the last. -/
theorem tw0Try_nack {s u : State} (noShadow : s.top.shadows = []) (same : u.commons = s.commons) (time : u.time = s.time) (top : u.top = s.top)
    (more : u.tw0.tries < u.tw0.retry) :
    Recorded s (u.tw0Try { res := .nack, stretched := false }) blkTw0 0x12 .c s.tickDetail ∧ (u.tw0Try { res := .nack, stretched := false }).tw0 = u.tw0 := by
  unfold State.tw0Try
  dsimp only
  rw [if_neg Bool.false_ne_true]
  exact raiseT_tw0Fails noShadow same time top 0x12 nofun more

/-- Settles O43: the starts of tries by `execTw0Transaction_starts` and `execTw0Retry_tries`, their ends by the lemmas on `tw0Try`. -/
theorem controllerBusRetriesAndReports : Obligations.ControllerBusRetriesAndReports := by
  unfold Obligations.ControllerBusRetriesAndReports
  intro s j q noShadow up power
  have on : s.domOn 1 = true := (bitAt_eq_testBit _ _).trans power
  refine ⟨fun idle next => ?_, fun idle next retries => ?_, fun job => ?_, fun job more => ?_, fun job more => ?_, ?_, ?_⟩
  · exact (execTw0Transaction_starts up on idle next _).trans (congrArg Host.Outcome.next (tw0Try_done rfl))
  · exact ⟨_, execTw0Transaction_starts up on idle next _, tw0Try_nack
      (u := s.quiet.modTw0 fun x => { x with cur := some j, queue := q, tries := 0, busBusy := false }) noShadow rfl rfl rfl retries⟩
  · exact (execTw0Retry_tries up on job _).trans (congrArg Host.Outcome.next (tw0Try_done
      (s := s.quiet.modTw0 fun x => { x with tries := x.tries + 1, busBusy := false }) job))
  · exact ⟨_, execTw0Retry_tries up on job _, tw0Try_nack
      (u := s.quiet.modTw0 fun x => { x with tries := x.tries + 1, busBusy := false }) noShadow rfl rfl rfl more⟩
  · have run : exec .twTimeout s = .next ((s.quiet.modTw0 fun x => { x with busBusy := true }).raiseT blkTw0 0x14 .u).tw0Fails := by
      refine congrArg Host.Outcome.next (if_neg ?_)
      simp [job, show s.quiet.resetting 8 = false from up]
    exact ⟨_, run, raiseT_tw0Fails (u := s.quiet.modTw0 fun x => { x with busBusy := true }) noShadow rfl rfl rfl 0x14 nofun more⟩
  · refine congrArg Host.Outcome.next ((if_neg ?_).trans (if_pos rfl))
    simp [show s.quiet.resetting 8 = false from up, show s.quiet.domOn 1 = true from on]
  · have run : exec (.twBusStuck false) s = .next ((s.quiet.modTw0 fun x => { x with stuck := true, busBusy := true }).raiseT blkTw0 0x15 .u) := by
      refine congrArg Host.Outcome.next ((if_neg ?_).trans (if_neg Bool.false_ne_true))
      simp [show s.quiet.resetting 8 = false from up, show s.quiet.domOn 1 = true from on]
    obtain ⟨recorded, _, _, _, _, eq⟩ := raiseT_recorded (s := s) (u := s.quiet.modTw0 fun x => { x with stuck := true, busBusy := true }) rfl rfl noShadow
      blkTw0 0x15 (cls := .u) nofun
    exact ⟨_, run, recorded, congrArg State.tw0 eq⟩

/-! ### TW1 (R541-R545, R554, R556) -/

section
variable {s : State} (up : s.resetting 9 = false)
include up

/-- A write-type command with its PEC does what it says and keeps its STATUS (R542, R543). -/
theorem tw1Command_pec (f : State → State × Nat) :
    s.tw1Command .pec f = ((f s).1.modTw1 fun t => { t with lastStatus := (f s).2 }).tw1Denied (f s).2 := if_neg (ne_true_of_eq_false up)

theorem tw1Command_ok {f : State → State × Nat} (ok : (f s).2 = 0) : s.tw1Command .pec f = (f s).1.modTw1 fun t => { t with lastStatus := 0 } := by
  rw [tw1Command_pec up, ok]
  rfl

theorem tw1Command_badPec (f : State → State × Nat) :
    s.tw1Command .badPec f = (s.modTw1 fun t => { t with lastStatus := 1 }).raiseT blkTw1 0x11 .c := if_neg (ne_true_of_eq_false up)

theorem tw1Command_cut (f : State → State × Nat) : s.tw1Command .cut f = s.raiseT blkTw1 0x10 .c := if_neg (ne_true_of_eq_false up)

end

/-- The bytes read of a response that reaches that far. -/
theorem range_map_at? {α : Type} (d : α) {l : List α} {off len : Nat} (inside : off + len ≤ l.length) :
    ((List.range len).map fun k => at? d l (off + k)) = (l.drop off).take len := by
  refine List.ext_getElem (by simp; omega) fun k hk _ => ?_
  have short : k < len := by simpa using hk
  rw [List.getElem_map, List.getElem_range, at?_eq_getD, List.getElem_take, List.getElem_drop, List.getElem?_eq_getElem (by omega)]
  rfl

theorem execTw1BufRd_inside {s : State} {off len : Nat} (up : s.resetting 9 = false) (free : s.tw1Gate = 0) (pos : 0 < len) (short : len ≤ 64)
    (inside : off + len ≤ 512) : exec (.tw1BufRd off len) s = .next (s.quiet.tw1Reply 0x12 (beBytes 2 off ++ beBytes 1 len)
      (b8 0 :: (List.range len).map fun k => at? 0 s.tw1.resp (off + k))) := by
  show execTw1BufRd off len s = _
  unfold execTw1BufRd
  dsimp only
  rw [if_neg (show ¬s.quiet.resetting 9 = true from ne_true_of_eq_false up), if_neg (show ¬s.quiet.tw1Gate ≠ 0 from not_not.2 free),
    if_neg (show ¬(len = 0 ∨ 64 < len ∨ 512 < off + len) by omega)]
  rfl

theorem tw1BufWr_inside {s : State} {off : Nat} {data : List Byte} (free : s.tw1Gate = 0) (ready : s.tw1.dstate ≠ 1) (some1 : data ≠ [])
    (short : data.length ≤ 64) (inside : off + data.length ≤ 512) :
    s.tw1BufWr off data = (s.modTw1 fun t => { t with req := memSetBytes t.req off data }, 0) := by
  unfold State.tw1BufWr
  rw [if_neg (not_not.2 free), if_neg ready, if_neg (by simp [some1]; omega)]

/-- A wake whose image passes: Dawn, with the firmware started (R543, R575). -/
theorem wakeDawn_boots {s : State} {d : DawnBoot} {i : FwImage} (trng : d.trngOk = true) (idk : d.idkOk = true) (rom : d.romOk = true)
    (a : d.a = some i) (b : d.b = some i) (head : i.headOk = true) (body : i.bodyOk = true) (version : s.sec.secMin ≤ i.secVer) :
    (s.wakeDawn d).top.state = .dawn ∧ (s.wakeDawn d).top.booted = true ∧ (s.wakeDawn d).fab.runGen = i.gen ∧
      (s.wakeDawn d).sec.fuses = s.sec.fuses := by
  obtain ⟨u, wakes, state, secMin, fuses⟩ : ∃ u : State, s.wakeDawn d = u.dawn d ∧ u.top.state = .dawn ∧ u.sec.secMin = s.sec.secMin ∧
      u.sec.fuses = s.sec.fuses := by
    obtain ⟨sent, reset⟩ := fullReset_eq s false
    unfold State.wakeDawn
    dsimp only
    rw [reset]
    exact ⟨_, rfl, rfl, rfl, rfl⟩
  have ok : (u.dawned d).imageOk i = true := State.imageOk_of head body (secMin ▸ version)
  rw [wakes, dawn_tries trng idk rom a b head head, if_neg (lt_irrefl _), tryImages_runs ok]
  exact ⟨state, rfl, rfl, fuses⟩

/-- Settles O44: TW1's commands one by one. -/
theorem targetBusServesItsCommands : Obligations.TargetBusServesItsCommands := by
  unfold Obligations.TargetBusServesItsCommands
  intro s off len data d i up noShadow
  have up' : s.quiet.resetting 9 = false := up
  refine ⟨?_, fun free pos short inside held => ?_, fun wf free ready some1 short inside => ?_, ?_, ?_,
    fun night trng idk rom a b head body version => ?_, ?_, fun pending repeats => ?_, ?_⟩
  · exact congrArg Host.Outcome.next (if_neg (ne_true_of_eq_false up'))
  · refine (execTw1BufRd_inside up free pos short inside).trans ?_
    rw [range_map_at? 0 held]
    rfl
  · have writes : s.quiet.tw1BufWr off data = (s.quiet.modTw1 fun t => { t with req := memSetBytes t.req off data }, 0) :=
      tw1BufWr_inside free ready some1 short inside
    refine ⟨_, congrArg Host.Outcome.next (tw1Command_ok up' (congrArg Prod.snd writes)), ?_⟩
    rw [writes]
    exact ⟨memGet_memSetBytes wf off data, rfl⟩
  · obtain ⟨recorded, tw1, -⟩ := raiseT_minor (s := s) (u := s.quiet.modTw1 fun t => { t with lastStatus := 1 }) rfl rfl noShadow blkTw1 0x11
    exact ⟨_, congrArg Host.Outcome.next (tw1Command_badPec up' _), recorded, tw1⟩
  · obtain ⟨recorded, tw1, -⟩ := raiseT_minor (s := s) (u := s.quiet) rfl rfl noShadow blkTw1 0x10
    exact ⟨_, congrArg Host.Outcome.next (tw1Command_cut up' _), recorded, tw1⟩
  · have wake : exec (.opWake .pec d) s = .next ((s.quiet.wakeDawn d).modTw1 fun t => { t with lastStatus := 0 }) := by
      have goes : (if s.quiet.top.state = .night then (s.quiet.wakeDawn d, 0) else (s.quiet, 3)) = (s.quiet.wakeDawn d, 0) := if_pos night
      refine congrArg Host.Outcome.next ((tw1Command_ok up' (congrArg Prod.snd goes)).trans ?_)
      rw [goes]
    obtain ⟨state, booted, gen, fuses⟩ := wakeDawn_boots (s := s.quiet) trng idk rom a b head body version
    exact ⟨_, wake, state, booted, gen, rfl, fuses⟩
  · obtain ⟨recorded, tw1, -⟩ := raiseT_minor (s := s) (u := s.quiet) rfl rfl noShadow blkTw1 0x12
    exact ⟨_, congrArg Host.Outcome.next (if_neg (ne_true_of_eq_false up')), recorded, tw1⟩
  · refine congrArg Host.Outcome.next (if_neg ?_)
    simp [show s.quiet.resetting 9 = false from up, Tw1.pending, pending, repeats]
  · exact congrArg (fun on => Host.Outcome.next (s.quiet.modTw1 fun t => { t with fast := on })) (bitAt_eq_testBit s.pwr.on 1)

end Sys2Proof.Machine
end

section
/-! PROOF. Registers and dictionary requests over TW1, and the transactions of HOSTP (R543-R551, R557): O45, O46. -/

namespace Sys2Proof.Machine

/-! ### The registers of PD_AON over TW1 (R543, R544) -/

/-- The blocks whose windows TW1 reaches in PD_AON. -/
abbrev InAon (b : Nat) : Prop := b = blkPwr ∨ b = blkTw1

theorem aonBlock_reg {b off : Nat} (aon : InAon b) (range : off < 65536) : aonBlock (regAddr b off) = some b ∧ regAddr b off % 65536 = off := by
  unfold aonBlock regAddr
  rcases aon with rfl | rfl
  · rw [if_pos (by unfold blkPwr; omega)]
    exact ⟨rfl, by unfold blkPwr; omega⟩
  · rw [if_neg (by unfold blkTw1; omega), if_pos (by unfold blkTw1; omega)]
    exact ⟨rfl, by unfold blkTw1; omega⟩

/-- The effects of a read put nothing out, and leave TW1. -/
theorem readEffect_silent (s : State) (m : Master) (b r lo size : Nat) :
    (s.readEffect m b r lo size).sent = s.sent ∧ (s.readEffect m b r lo size).tw1 = s.tw1 := by
  have mail (u : State) (k : MailKind) (f : Mailboxes → Mailboxes) : (u.modMail k f).sent = u.sent ∧ (u.modMail k f).tw1 = u.tw1 := by
    cases k <;> exact ⟨rfl, rfl⟩
  unfold State.readEffect
  extract_lets _ s1
  have cleared : s1.sent = s.sent ∧ s1.tw1 = s.tw1 := by
    unfold s1 State.readIntStat
    split_ifs <;> exact ⟨rfl, rfl⟩
  split
  · split
    · rw [(mail _ _ _).1, (mail _ _ _).2]
      exact cleared
    · exact cleared
  · exact cleared

/-- A register of PD_AON read over TW1 (R543). -/
theorem tw1Read_aon {s : State} {b off : Nat} (aon : InAon b) (range : off < 65536) (aligned : off % 4 = 0) (assigned : regAssigned b off = true) :
    s.tw1Read (regAddr b off) =
      (let s1 := s.readEffect .dma b off 0 4
       if b = blkTw1 ∧ off = 0x104 then s1.modTw1 fun t => { t with attnHw := 0, attnFw := 0, asked := false } else s1, 0, s.regVal .dma b off) := by
  obtain ⟨block, reg⟩ := aonBlock_reg aon range
  unfold State.tw1Read
  rw [block, reg]
  dsimp only
  unfold State.tw1Aon
  rw [if_neg (by simp [aligned, assigned])]

/-- What TW1_REG_RD of a register in PD_AON answers, and what its read of ATTN clears. -/
theorem tw1RegRd_answers {s : State} {b off : Nat} (up : s.resetting 9 = false) (aon : InAon b) (range : off < 65536) (aligned : off % 4 = 0)
    (assigned : regAssigned b off = true) : ∃ t, exec (.tw1RegRd (regAddr b off)) s = .next t ∧
      (let out := (0 : Byte) :: beBytes 4 (s.regVal .dma b off)
       t.sent = [.bus (out ++ [crc8 ([BitVec.ofNat 8 (2 * s.tw1.addr), 1] ++ beBytes 4 (regAddr b off) ++ [BitVec.ofNat 8 (2 * s.tw1.addr + 1)] ++ out)])]) ∧
      (b = blkTw1 ∧ off = 0x104 → t.tw1.attnHw = 0 ∧ t.tw1.attnFw = 0) := by
  obtain ⟨sent, tw1⟩ := readEffect_silent s.quiet .dma b off 0 4
  obtain ⟨u, is, silent, addr, attn⟩ : ∃ u : State, (let s1 := s.quiet.readEffect .dma b off 0 4
      if b = blkTw1 ∧ off = 0x104 then s1.modTw1 fun t => { t with attnHw := 0, attnFw := 0, asked := false } else s1) = u ∧ u.sent = [] ∧
      u.tw1.addr = s.tw1.addr ∧ (b = blkTw1 ∧ off = 0x104 → u.tw1.attnHw = 0 ∧ u.tw1.attnFw = 0) := by
    refine ⟨_, rfl, ?_⟩
    dsimp only
    split
    · exact ⟨sent, (congrArg Tw1.addr tw1 :), fun _ => ⟨rfl, rfl⟩⟩
    · rename_i other
      exact ⟨sent, congrArg Tw1.addr tw1, fun h => absurd h other⟩
  have run : exec (.tw1RegRd (regAddr b off)) s = .next (u.tw1Reply 0x01 (beBytes 4 (regAddr b off)) (b8 0 :: beBytes 4 (s.regVal .dma b off))).fresh := by
    show execTw1RegRd (regAddr b off) s = _
    unfold execTw1RegRd
    dsimp only
    rw [if_neg (show ¬s.quiet.resetting 9 = true from ne_true_of_eq_false up), tw1Read_aon aon range aligned assigned, is]
    rfl
  refine ⟨_, run, ?_, attn⟩
  show u.sent ++ [_] = _
  rw [silent, addr]
  rfl

/-- INT_EN of a block in PD_AON, written over TW1 (R543). -/
theorem tw1Write_intEn {s : State} {b : Nat} (aon : InAon b) (v : Word) :
    s.tw1Write (regAddr b 0x10) v = (s.setCommon b fun c => { c with intEn := v &&& 0xFFFF001E }, 0) := by
  obtain ⟨block, reg⟩ := aonBlock_reg (off := 0x10) aon (by omega)
  have assigned : regAssigned b 0x10 = true := by rcases aon with rfl | rfl <;> decide
  have plain : slowReg b 0x10 = false := by rcases aon with rfl | rfl <;> decide
  unfold State.tw1Write
  rw [block, reg]
  dsimp only
  rw [if_neg (by simp), if_neg (by simp [assigned]), if_neg (by simp [plain])]
  rfl

/-! ### Requests in the buffers (R545, R549) -/

/-- DICT_GO of TW1 runs the request in its buffer once it is let through (R543, R545). -/
theorem exec_tw1DictGo {s : State} {len : Nat} {r : DictReq} (up : s.resetting 9 = false) (free : s.tw1Gate = 0) (ready : s.tw1.dstate ≠ 1) (long : 24 ≤ len)
    (short : len ≤ 512) (read : parseReq .tw1 (memBytes s.tw1.req 0 len) = (1, r)) : exec (.tw1DictGo len .pec) s =
      exec (.read r) { s with sent := [], tw1 := { s.tw1 with lastStatus := 0, dstate := 1, resp := [] } } := by
  have code : s.quiet.tw1GoCode len = 0 := by
    unfold State.tw1GoCode
    rw [if_neg (show ¬s.quiet.tw1Gate ≠ 0 from not_not.2 free), if_neg (show ¬s.quiet.tw1.dstate = 1 from ready), if_neg (by omega)]
  have kept : (s.quiet.tw1Command .pec fun s => (s, s.tw1GoCode len)) = s.quiet.modTw1 fun t => { t with lastStatus := 0 } :=
    tw1Command_ok (s := s.quiet) up code
  show execTw1DictGo len .pec s = _
  unfold execTw1DictGo
  dsimp only
  rw [if_neg (by simp [show s.quiet.resetting 9 = false from up, code]), kept,
    show parseReq .tw1 (memBytes (s.quiet.modTw1 fun t => { t with lastStatus := 0 }).tw1.req 0 len) = (1, r) from read]
  rfl

/-! ### One transaction of HOSTP (R547, R548, R551) -/

/-- A frame that is whole, right and answered. -/
def wholeFrame : HpFrame := { complete := true, crcOk := true, answered := true }

section
variable {s : State} (up : s.resetting 10 = false) (on : s.domOn 1 = true)
include up on

theorem hpRun_ok {act : State → State × Nat × List Byte} {s1 : State} {data : List Byte} (ok : act s = (s1, 0, data)) :
    s.hpRun wholeFrame act = s1.emit (.bus (hpBytes 0 data)) := by
  unfold State.hpRun
  rw [if_neg (by simp [up, on]), if_neg (by simp [wholeFrame]), if_pos (show wholeFrame.crcOk = true from rfl), ok]
  rfl

theorem hpRun_cut {f : HpFrame} (cut : f.complete = false) (act : State → State × Nat × List Byte) : s.hpRun f act = s.hpFrameErr := by
  unfold State.hpRun
  rw [if_neg (by simp [up, on]), if_pos (by simp [cut])]

theorem hpRun_badCrc (act : State → State × Nat × List Byte) : s.hpRun { complete := true, crcOk := false, answered := true } act =
    ((s.modHostp fun h => { h with crcErr := stopAt 0xFF h.crcErr 1 }).raiseT blkHostp 0x10 .c).emit (.bus (hpBytes 1 [])) := by
  unfold State.hpRun
  rw [if_neg (by simp [up, on])]
  rfl

end

/-! ### Bursts of HOSTP (R547) -/

theorem targetOf_quiet (s : State) (a : Nat) : s.quiet.targetOf a = s.targetOf a := rfl

/-- A burst of one word: its value is RESULT's data. -/
theorem hpBurst_reads_one {s u : State} {b : BurstReq} {v : Nat} (passes : s.burstCause b = none)
    (reads : foldS (State.beat b) s (List.range b.beats) = u.emit (.data [v])) (silent : u.sent = []) :
    s.hpBurst b = ({ u with sent := [] }, 0, beBytes 4 v) := by
  have sent : (u.emit (.data [v])).sent = [.data [v]] := congrArg (· ++ [Emission.data [v]]) silent
  unfold State.hpBurst
  rw [passes]
  dsimp only
  rw [reads, sent]
  rfl

/-- A word of a register that HOSTP reads (R467, R547). -/
theorem hpBurst_reads {s : State} {addr : Nat} (silent : s.sent = []) (aligned : addr % 4 = 0) (target : s.targetOf addr = (2, addr - 0x40000000))
    (performed : s.regCause .hostp addr 4 false = none) : ∃ u : State, u.sent = [] ∧ s.hpBurst ⟨.hostp, addr, 1, 4, false, []⟩ =
      (u, 0, beBytes 4 (s.regVal .hostp ((addr - 0x40000000) / 65536) ((addr - 0x40000000) % 65536) % 2 ^ 32)) := by
  obtain ⟨b, isB⟩ : ∃ b, b = (addr - 0x40000000) / 65536 := ⟨_, rfl⟩
  obtain ⟨off, isOff⟩ : ∃ off, off = (addr - 0x40000000) % 65536 := ⟨_, rfl⟩
  rw [← isB, ← isOff]
  have passes : s.burstCause ⟨.hostp, addr, 1, 4, false, []⟩ = none := by
    unfold State.burstCause
    dsimp only
    rw [target]
    dsimp only
    rw [if_neg (by decide), if_neg (by simp [State.pathOk]), if_neg (by omega), if_pos rfl]
  have place : s.targetOf addr = (2, b * 65536 + off) := target.trans (congrArg (Prod.mk 2) (by omega))
  have beat : State.beat ⟨.hostp, addr, 1, 4, false, []⟩ s 0 =
      (s.readEffect .hostp b off 0 4).fresh.emit (.data [s.regVal .hostp b off % 2 ^ 32]) := by
    unfold State.beat
    dsimp only
    rw [if_pos (by rw [target]), Nat.zero_mul, Nat.add_zero]
    exact readReg_word place (by omega) performed (by omega)
  have one : foldS (State.beat ⟨.hostp, addr, 1, 4, false, []⟩) s (List.range 1) =
      (s.readEffect .hostp b off 0 4).fresh.emit (.data [s.regVal .hostp b off % 2 ^ 32]) := beat
  have quiet : (s.readEffect .hostp b off 0 4).fresh.sent = [] := (readEffect_silent s .hostp b off 0 4).1.trans silent
  exact ⟨_, rfl, hpBurst_reads_one passes one quiet⟩

/-- A burst of writes that put nothing out. -/
theorem hpBurst_writes {s u : State} {b : BurstReq} (passes : s.burstCause b = none) (writes : foldS (State.beat b) s (List.range b.beats) = u)
    (silent : u.sent = []) : s.hpBurst b = ({ u with sent := [] }, 0, []) := by
  unfold State.hpBurst
  rw [passes]
  dsimp only
  rw [writes, silent]
  rfl

/-- CNT_C of TOP, written by HOSTP (R547). -/
theorem hpBurst_cntC {s : State} (silent : s.sent = []) (performed : s.regCause .hostp (regAddr blkTop 0x40) 4 true = none) (v : Word) :
    s.hpBurst ⟨.hostp, regAddr blkTop 0x40, 1, 4, true, [v.toNat]⟩ =
      ({ s.setCommon blkTop fun c => { c with cntC := v } with sent := [] }, 0, []) := by
  have target := targetOf_reg s (b := blkTop) (off := 0x40) (by decide) (by decide)
  have passes : s.burstCause ⟨.hostp, regAddr blkTop 0x40, 1, 4, true, [v.toNat]⟩ = none := by
    unfold State.burstCause
    dsimp only
    rw [target]
    dsimp only
    rw [if_neg (by decide), if_neg (by simp [State.pathOk, blkTop, blkSec]), if_neg (by decide), if_pos rfl]
  have write : s.writeOne .hostp (regAddr blkTop 0x40) 4 v = s.setCommon blkTop fun c => { c with cntC := v } :=
    writeOne_plain target (by decide) performed rfl v
  have beat : State.beat ⟨.hostp, regAddr blkTop 0x40, 1, 4, true, [v.toNat]⟩ s 0 = s.setCommon blkTop fun c => { c with cntC := v } := by
    unfold State.beat
    dsimp only
    rw [if_pos (by rw [target]), if_neg (by decide), if_neg (by decide), Nat.zero_mul, Nat.add_zero]
    exact (congrArg (s.writeOne .hostp (regAddr blkTop 0x40) 4) (BitVec.ofNat_toNat 32 v)).trans write
  exact hpBurst_writes passes beat silent

/-! ### DICT_GO of HOSTP (R549) -/

theorem exec_hostpDictGo {s : State} {len : Nat} {r : DictReq} (up : s.resetting 10 = false) (on : s.domOn 1 = true) (ready : s.hostp.dstate ≠ 1)
    (long : 24 ≤ len) (short : len ≤ 8192) (read : parseReq .hostp (memBytes s.fab.ctrlSram 0x1FC000 len) = (1, r)) :
    exec (.hostpDictGo len wholeFrame) s = prefixSent [.bus (hpBytes 0 [])]
      (exec (.read r) { s with sent := [.bus (hpBytes 0 [])], hostp := { s.hostp with dstate := 1 } }) := by
  have code : s.quiet.hpGoCode len = 0 := by
    unfold State.hpGoCode
    rw [if_neg (by omega), if_neg (show ¬s.quiet.hostp.dstate = 1 from ready)]
  have kept : (s.quiet.hpRun wholeFrame fun s => (s, s.hpGoCode len, [])) = s.quiet.emit (.bus (hpBytes 0 [])) :=
    hpRun_ok (s := s.quiet) up on (congrArg (fun c => (s.quiet, c, [])) code)
  show execHostpDictGo len wholeFrame s = _
  unfold execHostpDictGo
  dsimp only
  rw [if_neg (by simp [show s.quiet.resetting 10 = false from up, show s.quiet.domOn 1 = true from on, code, wholeFrame]), kept,
    show parseReq .hostp (memBytes (s.quiet.emit (.bus (hpBytes 0 []))).fab.ctrlSram 0x1FC000 len) = (1, r) from read]
  rfl

/-- Settles O45: registers of PD_AON by `tw1RegRd_answers` and `tw1Write_intEn`, requests by the two lemmas on DICT_GO. -/
theorem buffersCarryDictionaryRequests : Obligations.BuffersCarryDictionaryRequests := by
  unfold Obligations.BuffersCarryDictionaryRequests
  intro s b off len v r
  refine ⟨fun up aon range aligned assigned => tw1RegRd_answers up aon range aligned assigned, fun up aon => ?_,
    fun up free ready long short read => ?_, fun up power ready long short read => ?_⟩
  · have writes := tw1Write_intEn (s := s.quiet) aon v
    obtain ⟨written, others⟩ := common_of_tmod (s := s) (b := b)
      (t := (s.quiet.setCommon b fun c => { c with intEn := v &&& 0xFFFF001E }).modTw1 fun t => { t with lastStatus := 0 })
      (fun c => { c with intEn := v &&& 0xFFFF001E }) rfl
    refine ⟨_, congrArg Host.Outcome.next (tw1Command_ok (s := s.quiet) up (congrArg Prod.snd writes)), ?_⟩
    rw [writes]
    exact ⟨congrArg Common.intEn written, others, rfl⟩
  · obtain ⟨t, run, -⟩ := exec_keeps (.read r) { s with sent := [], tw1 := { s.tw1 with lastStatus := 0, dstate := 1, resp := [] } }
    exact ⟨t, (exec_tw1DictGo up free ready long short read).trans run, run⟩
  · obtain ⟨t, run, -⟩ := exec_keeps (.read r) { s with sent := [.bus (hpBytes 0 [])], hostp := { s.hostp with dstate := 1 } }
    refine ⟨_, t, ?_, run, rfl⟩
    refine (exec_hostpDictGo up ((bitAt_eq_testBit _ _).trans power) ready long short read).trans ?_
    rw [run]
    rfl

/-! ### The transactions of HOSTP (R547-R551) -/

section
variable {s : State} (up : s.resetting 10 = false) (on : s.domOn 1 = true)
include up on

theorem exec_status : exec (.status wholeFrame) s = .next (s.quiet.emit
    (.bus (hpBytes 0 ([b8 s.hostp.dstate] ++ beBytes 2 s.hostp.respLen ++ [b8 s.hostRole])))) :=
  congrArg Host.Outcome.next (hpRun_ok (s := s.quiet) up on rfl)

theorem exec_hostpBufRd {off len : Nat} (pos : 0 < len) (inside : off + len ≤ 8192) : exec (.hostpBufRd off len wholeFrame) s =
    .next (s.quiet.emit (.bus (hpBytes 0 (memBytes s.fab.ctrlSram (0x1FE000 + off) len)))) := by
  exact congrArg Host.Outcome.next (hpRun_ok (s := s.quiet) up on (if_neg (by omega)))

theorem exec_hostpBufWr {off : Nat} {data : List Byte} (some1 : data ≠ []) (inside : off + data.length ≤ 8192) (ready : s.hostp.dstate ≠ 1) :
    exec (.hostpBufWr off data wholeFrame) s =
      .next ((s.quiet.modFab fun x => { x with ctrlSram := memSetBytes x.ctrlSram (0x1FC000 + off) data }).emit (.bus (hpBytes 0 []))) :=
  congrArg Host.Outcome.next (hpRun_ok (s := s.quiet) up on
    ((if_neg (by simp [some1]; omega)).trans (if_neg (show ¬s.quiet.hostp.dstate = 1 from ready))))



theorem exec_hostpRegRd {addr : Nat} (opened : s.closed 3 = false) (aligned : addr % 4 = 0) (target : s.targetOf addr = (2, addr - 0x40000000))
    (performed : s.regCause .hostp addr 4 false = none) : ∃ t, exec (.hostpRegRd addr 1 wholeFrame) s = .next t ∧
      t.sent = [.bus (hpBytes 0 (beBytes 4 (s.regVal .hostp ((addr - 0x40000000) / 65536) ((addr - 0x40000000) % 65536) % 2 ^ 32)))] := by
  obtain ⟨u, silent, burst⟩ := hpBurst_reads (s := s.quiet) rfl aligned ((targetOf_quiet s addr).trans target) performed
  rw [regVal_quiet] at burst
  refine ⟨_, congrArg Host.Outcome.next (hpRun_ok (s := s.quiet) up on
    ((if_neg (by decide)).trans ((if_neg (by simp [show s.quiet.closed 3 = false from opened])).trans burst))), ?_⟩
  exact congrArg (· ++ [_]) silent

theorem exec_hostpRegWr_cntC (allowed : s.closed 2 = false) (opened : s.closed 3 = false)
    (performed : s.regCause .hostp (regAddr blkTop 0x40) 4 true = none) (v : Word) : exec (.hostpRegWr (regAddr blkTop 0x40) [v] wholeFrame) s =
      .next (({ s.quiet.setCommon blkTop fun c => { c with cntC := v } with sent := [] } : State).emit (.bus (hpBytes 0 []))) := by
  have burst := hpBurst_cntC (s := s.quiet) rfl performed v
  refine congrArg Host.Outcome.next (hpRun_ok (s := s.quiet) up on ?_)
  dsimp only
  rw [if_neg (by simp), if_neg (by simp [show s.quiet.closed 2 = false from allowed, show s.quiet.closed 3 = false from opened])]
  exact congrArg (fun p : State × Nat × List Byte => (p.1, p.2.1, ([] : List Byte))) burst

end

theorem stopAt_below {mx n : Nat} (below : n < mx) : stopAt mx n 1 = n + 1 := if_neg (by omega)

/-- A frame that CS_N cuts off (R548, R551). -/
theorem hpFrameErr_counts {s : State} (noShadow : s.top.shadows = []) (below : s.hostp.frameErr < 0xFF) :
    Recorded s s.quiet.hpFrameErr blkHostp 0x11 .c s.tickDetail ∧ s.quiet.hpFrameErr.sent = [] ∧
      s.quiet.hpFrameErr.hostp = { s.hostp with frameErr := s.hostp.frameErr + 1 } := by
  obtain ⟨recorded, -, sent, hostp⟩ := raiseT_minor (s := s) (u := s.quiet.modHostp fun h => { h with frameErr := stopAt 0xFF h.frameErr 1 }) rfl rfl
    noShadow blkHostp 0x11
  refine ⟨recorded, sent, hostp.trans ?_⟩
  rw [← stopAt_below below]
  rfl

/-- Settles O46: each transaction by the lemma on its command, and frames that fail by `hpRun_cut` and `hpRun_badCrc`. -/
theorem hostPortServesItsTransactions : Obligations.HostPortServesItsTransactions := by
  unfold Obligations.HostPortServesItsTransactions
  intro s addr off len v data up power
  have on : s.domOn 1 = true := (bitAt_eq_testBit _ _).trans power
  refine ⟨exec_status up on, fun pos inside => exec_hostpBufRd up on pos inside,
    fun wf some1 inside ready => ?_, fun opened aligned target performed => exec_hostpRegRd up on opened aligned target performed,
    fun allowed opened performed => ?_, fun noShadow below => ?_, fun noShadow below => ?_⟩
  · exact ⟨_, exec_hostpBufWr up on some1 inside ready, memGet_memSetBytes wf (0x1FC000 + off) data, rfl⟩
  · obtain ⟨written, others⟩ := common_of_tmod (s := s) (b := blkTop) (t := s.quiet.setCommon blkTop fun c => { c with cntC := v })
      (fun c => { c with cntC := v }) rfl
    exact ⟨_, exec_hostpRegWr_cntC up on allowed opened performed v, congrArg Common.cntC written, others, rfl⟩
  · exact ⟨_, congrArg Host.Outcome.next (hpRun_cut (s := s.quiet) up on rfl _), hpFrameErr_counts noShadow below⟩
  · obtain ⟨recorded, -, sent, hostp⟩ := raiseT_minor (s := s) (u := s.quiet.modHostp fun h => { h with crcErr := stopAt 0xFF h.crcErr 1 }) rfl rfl
      noShadow blkHostp 0x10
    refine ⟨_, congrArg Host.Outcome.next (hpRun_badCrc (s := s.quiet) up on _), recorded.of_commons rfl rfl,
      congrArg (· ++ [Emission.bus (hpBytes 1 [])]) sent, hostp.trans ?_⟩
    rw [← stopAt_below below]
    rfl

end Sys2Proof.Machine
end
